-- ==== Sys2Proof/Word.lean ====
section
/-! DEFINITION. The machine's words and the sparse map in one canonical form: what the spec
calls a register file, a memory or a set of units is held as the list of its entries that differ
from their reset value. -/

namespace Sys2Proof

/-- A 64-bit register or address word. -/
abbrev Word := BitVec 64

/-- A byte of memory. -/
abbrev Byte := BitVec 8

/-- Entries by number: strictly rising keys, and no entry equal to the value `d` that an
unlisted number has. -/
abbrev SMap (α : Type) := List (Nat × α)

/-- The entry at `k`; `d` where none is listed. -/
def SMap.get {α : Type} (d : α) : SMap α → Nat → α
  | [], _ => d
  | (j, v) :: m, k => if j = k then v else SMap.get d m k

/-- Drops every entry at `k`. -/
def SMap.del {α : Type} : SMap α → Nat → SMap α
  | [], _ => []
  | (j, v) :: m, k => if j = k then SMap.del m k else (j, v) :: SMap.del m k

/-- Puts `v` at `k`, in order, whatever `v` is. -/
def SMap.ins {α : Type} : SMap α → Nat → α → SMap α
  | [], k, v => [(k, v)]
  | (j, w) :: m, k, v =>
    if k < j then (k, v) :: (j, w) :: m
    else if k = j then (k, v) :: m
    else (j, w) :: SMap.ins m k v

/-- Writes `v` at `k`; writing the value an unlisted number has removes the entry. -/
def SMap.set {α : Type} [DecidableEq α] (d : α) (m : SMap α) (k : Nat) (v : α) : SMap α :=
  if v = d then SMap.del m k else SMap.ins m k v

/-- Changes the entry at `k` by `f`. -/
def SMap.upd {α : Type} [DecidableEq α] (d : α) (m : SMap α) (k : Nat) (f : α → α) : SMap α :=
  SMap.set d m k (f (SMap.get d m k))

/-- Every key of the map is above `b`, and the keys rise. -/
def SMap.above {α : Type} (b : Nat) : SMap α → Bool
  | [] => true
  | (j, _) :: m => decide (b < j) && SMap.above j m

/-- No entry equals `d`. -/
def SMap.noDefault {α : Type} [DecidableEq α] (d : α) : SMap α → Bool
  | [] => true
  | (_, v) :: m => decide (v ≠ d) && SMap.noDefault d m

/-- The canonical form: rising keys and no entry equal to the unlisted value. -/
def SMap.wf {α : Type} [DecidableEq α] (d : α) (m : SMap α) : Bool :=
  (match m with
   | [] => true
   | (j, _) :: r => SMap.above j r) && SMap.noDefault d m

/-- Memory: its bytes by address; an unlisted byte is 0 (spec/14_partitions_and_reset.md R390:
every memory is zero before any partition exists). -/
abbrev Memory := SMap Byte

end Sys2Proof
end

