-- ==== Sys2Proof/Syntax.lean ====
section
/-! DEFINITION. The commands of the block: one constructor of `Instr` per row of
spec/opcode_table.json, in the table's order, with the operands that the rules give it. The
table gives no bits, so the operands are typed; a word that a register write carries stays a
word, so that its reserved bits can be checked (R6). -/

namespace Sys2Proof

/-! ### Coordinates (spec/00_scope.md "Coordinates and unit identifiers") -/

/-- A cluster `w.c(x,y)`. -/
structure Cl where
  w : Fin 4
  x : Fin 96
  y : Fin 96
  deriving DecidableEq, Repr

/-- A hardware context `n` of core `k` (R158). -/
structure CtxId where
  c : Cl
  k : Fin 24
  n : Fin 4
  deriving DecidableEq, Repr

/-- A tile of an array, by its SUB number row × 8 + column (R15). -/
structure TileId where
  c : Cl
  t : Fin 32
  deriving DecidableEq, Repr

/-- A host function: a port and a VF number, 0 for the PF (R348). -/
structure FnId where
  port : Fin 2
  vf : Fin 64
  deriving DecidableEq, Repr

/-- A fetched command by its queue pair and tag (R355: a tag is unique in its SQ). -/
structure CmdKey where
  fn : FnId
  q : Fin 4
  tag : BitVec 16
  deriving DecidableEq, Repr

/-- A pump channel (R242). -/
inductive ChanId where
  | cluster (c : Cl) (ch : Fin 8)
  | stack (st : Fin 48) (ch : Fin 16)
  deriving DecidableEq, Repr

/-- A pump (R242). -/
inductive PumpId where
  | cluster (c : Cl)
  | stack (st : Fin 48)
  deriving DecidableEq, Repr

/-- The unit that issues an access (SRC_UNIT of R217, and the wellhead acting for a host
command, R364). `part` is the partition the wellhead acts for, none for the module. -/
inductive Requester where
  | core (x : CtxId)
  | io (c : Cl) (i : Fin 2)
  | pump (ch : ChanId)
  | config (c : Cl)
  | wellhead (part : Option (Fin 64))
  | remote (mod : BitVec 8) (part : Fin 64) (port : Fin 16) (tag : Nat)
  | cxl (port : Fin 2)
  deriving DecidableEq, Repr

/-- A context or an I/O tile that can wait for a channel credit (R280). -/
inductive Waiter where
  | ctx (x : CtxId)
  | io (c : Cl) (i : Fin 2)
  deriving DecidableEq, Repr

/-- A queue of a function: a queue pair or the event queue (R353). -/
inductive QSel where
  | pair (q : Fin 4)
  | events
  deriving DecidableEq, Repr

/-- A register number. -/
abbrev Reg := Fin 32

/-- A format code (R27). -/
abbrev Fmt := BitVec 5

/-! ### Operands of core instructions (R168) -/

/-- Integer and control operations (R167, R168: add, logic, shift, compare, multiply, divide). -/
inductive IntOp where
  | add | sub | and | or | xor | shl | shr | sar | eq | ne | lt | ltu | ge | geu | mul | div | rem
  deriving DecidableEq, Repr

/-- Second source of an integer instruction. -/
inductive Src2 where
  | reg (r : Reg)
  | imm (v : Word)
  deriving DecidableEq, Repr

/-- Condition of a conditional branch. -/
inductive BrCond where
  | eq | ne | lt | ge | ltu | geu
  deriving DecidableEq, Repr

/-- Branches, jumps, calls and returns (R496). -/
inductive BrKind where
  | cond (c : BrCond) (ra rb : Reg) (target : BitVec 48)
  | jump (target : BitVec 48)
  | call (rd : Reg) (target : BitVec 48)
  | callInd (rd ra : Reg)
  | ret (ra : Reg)
  | jumpInd (ra : Reg)
  deriving DecidableEq, Repr

/-- Scalar floating-point operations (R162, R168). A compare writes an integer register. -/
inductive FpOp where
  | add | sub | mul | fma | min | max | div | sqrt
  | cmpEq | cmpNe | cmpLt | cmpLe | cmpGt | cmpGe
  | cvt (dst : Fmt)
  deriving DecidableEq, Repr

/-- Vector arithmetic operations (R163, R168). -/
inductive VOp where
  | add | sub | mul | fma | min | max | abs
  | cmpEq | cmpNe | cmpLt | cmpLe | cmpGt | cmpGe
  | sel | sum | move (fromLane toLane : Nat)
  deriving DecidableEq, Repr

/-- Where a load writes, or a store reads. -/
inductive MemReg where
  | x (r : Reg)
  | f (r : Reg)
  | v (r : Reg)
  deriving DecidableEq, Repr

/-- Atomic kinds (R207): the OP codes 0–4 of R217. -/
inductive AtomKind where
  | addI32 | addI64 | addF32 | swap | cas
  deriving DecidableEq, Repr

/-- Fence kinds (R204). -/
inductive FenceKind where
  | full | release | acquire
  deriving DecidableEq, Repr

/-- Fence scopes (R204). -/
inductive FenceScope where
  | c | m | g
  deriving DecidableEq, Repr

/-- What run-ahead does with a decoded instruction (R173): it executes an integer instruction, issues the read
of a load, follows the prediction of a branch, marks the destinations of any other instruction unknown, or
ends at a store, atomic, FENCE, synchronisation, channel, pump or system instruction. -/
inductive RaOp where
  | int (op : IntOp) (rd ra : Reg) (b : Src2)
  | load (dst : MemReg) (ra : Reg) (off : Word) (size : Nat)
  | branch (b : BrKind)
  | unknown (dsts : List MemReg)
  | stop
  deriving DecidableEq, Repr

/-- An instruction of the context's program as its core decodes it (R173): its address, the registers that the
scoreboard holds it for, and what run-ahead does with it. -/
structure RaInstr where
  pc : BitVec 48
  regs : List MemReg
  op : RaOp
  deriving DecidableEq, Repr

/-! ### Operands from the array, the mesh and the fabric -/

/-- What a token send moves (R71, R72): the head of an input queue, a pass-through register,
or a tile's oldest result. -/
inductive TokSrc where
  | rill (d : Fin 4)
  | pass (d : Fin 4)
  | result (r : Fin 2)
  deriving DecidableEq, Repr

/-- A register access from outside the rows of their own: space 0x4 (R189) or BAR0 (R351). -/
inductive RegWrite where
  | space4 (who : Requester) (addr : Word) (size : Nat) (v : Word)
  | bar0 (fn : FnId) (off : Nat) (size : Nat) (v : Word)
  deriving DecidableEq, Repr

/-- An object addition: a packet at the target or an engine-made notification (R263). -/
inductive AddSrc where
  | packet (id : Nat)
  | note (i : Nat)
  deriving DecidableEq, Repr

/-- What fails in a cluster at run time (R482). -/
inductive FailUnit where
  | pump | objectUnit | combiner | configPath
  | tileParity (t : Fin 32)
  | coreRegs (k : Fin 24)
  deriving DecidableEq, Repr

/-- The readings of a coolant sample (R464): temperatures in 1/16 °C, flow in 0.1 L/min; none
where the sensor is silent or out of range. -/
structure Coolant where
  inlet : Option Int
  outlet : Option Int
  flow : Option Nat
  wet : Bool
  deriving DecidableEq, Repr

/-- The test outcomes a bring-up step finds (R394–R398); each step reads its own. -/
structure StepResult where
  ok : Bool                        -- step 3: the input stage and some bus converter start
  converterFail : List (Fin 4)      -- wafers whose bus converter fails to start (R394)
  computeRailFail : List (Fin 192)
  networkRailFail : List (Fin 192)
  quadrantFail : List (Fin 4)
  unlocked : List (Fin 192)
  clusterDry : List Cl
  routerDead : List Cl
  dryCores : List (Cl × Fin 24)
  dryTiles : List (Cl × Fin 32)
  wellheadFail : List (Fin 4)       -- a warm start's stored wellhead that fails
  laneFail : List (Fin 4 × Fin 2 × Fin 204)
  stackFail : List (Fin 48)
  dryPage : List (Fin 48 × Fin 64)
  portFail : List (Fin 16)
  fieldPlan : List (Fin 192 × Option (Fin 21))   -- ageing plan, none where no offset suffices
  deriving DecidableEq, Repr

/-- An Ocsal flit at a receiver (R410, R411). -/
structure Flit where
  seq : BitVec 24
  ack : BitVec 24
  nak : Bool
  creditVc : Fin 8
  creditCount : BitVec 11
  keyPhase : Bool
  fecOk : Bool
  tagOk : Bool
  corrected : Nat
  payload : List Byte
  deriving DecidableEq, Repr

/-- An Ocsal data packet (R419). -/
structure OcsalPkt where
  kind : BitVec 2
  type : BitVec 4
  transit : Bool
  dest : BitVec 8
  src : BitVec 8
  hops : BitVec 4
  portTag : BitVec 12
  srcPort : Fin 16
  part : Fin 64
  status : BitVec 8
  len : BitVec 9
  op : BitVec 4
  sat : Bool
  addr : Word
  payload : List Byte
  deriving DecidableEq, Repr

/-- A CXL port's HDM decoder as the host programs it (R209): its base, 1-way or 2-way interleave, and the
granularity, 256 bytes times a power of two up to 16 KiB. The spec gives it no reset value: 1-way from address 0
(DESIGN CHOICE, log entry 150). -/
structure HdmSet where
  base : Nat := 0
  ways2 : Bool := false
  gran : Fin 7 := 0
  deriving DecidableEq, Repr

/-- A CXL link as it came up: its width and the port's decoder (R209, R348). -/
structure CxlTrain where
  width : Fin 9
  hdm : HdmSet := {}
  deriving DecidableEq, Repr

/-- What a port learns of its peer in training (R413). -/
structure PeerId where
  serial : BitVec 128
  role : BitVec 2
  mod : BitVec 8
  port : Fin 16
  rev1 : Bool
  deriving DecidableEq, Repr

/-- What SPDM tells of the peer (R443). -/
structure PeerAuth where
  chainOk : Bool
  lcState : BitVec 3
  ownerHash : BitVec 384
  deriving DecidableEq, Repr

/-- A HEARTBEAT payload (R420). -/
structure Heartbeat where
  manager : BitVec 8
  standby : BitVec 8
  mask : BitVec 256
  tableEpoch : BitVec 32
  deriving DecidableEq, Repr

/-- Who speaks SPDM to the module (R442). -/
inductive SpdmPeer where
  | doe (port : Fin 2)
  | ocsal (port : Fin 16)
  deriving DecidableEq, Repr

/-- A request on the management Ethernet port (R477). -/
inductive MgmtReq where
  | powerConfig (v : Word)
  | monitor (sensor : Fin 8)
  | readLog (i : Nat)
  | coldBringup
  | removeModule (mod : BitVec 8)
  deriving DecidableEq, Repr

/-- An IEEE 1149.1 instruction (R455), by the scope it needs. -/
inductive TestInstr where
  | bypass | idcode | samplePreload | extest
  | atbinDebug | clusterScan | stackTest
  deriving DecidableEq, Repr

/-- A weir calibration measurement (R325): per field or quadrant, measured over estimated, in 1/1000. -/
abbrev Ratios := List (Nat × Nat)

/-- The commands, one constructor per row of spec/opcode_table.json. -/
inductive Instr where
  | registerWrite (a : RegWrite)
  | ctxLoad (who : Requester) (c : Cl) (v : Word)
  | ctxLoadDone (c : Cl)
  | switchNormalNow (who : Requester) (c : Cl) (v : Word)
  | switchAtTide (who : Requester) (c : Cl) (v : Word)
  | switchForced (who : Requester) (c : Cl) (v : Word)
  | switchLaunch (c : Cl)
  | pendingSwitchStart (c : Cl)
  | heldForcedSwitchStart (c : Cl)
  | sourceSwitch (t : TileId)
  | tileSwitch (t : TileId)
  | arrayFreeze (who : Requester) (c : Cl) (v : Word)
  | arrayResume (who : Requester) (c : Cl) (v : Word)
  | arrayRelease (who : Requester) (c : Cl) (v : Word)
  | tokenSend (t : TileId) (src : TokSrc)
  | rillCreditReturn (t : TileId) (d : Fin 4)
  | arrayStall (c : Cl)
  | mulChunkLoad (t : TileId)
  | mulIssue (t : TileId)
  | mulAccumulate (t : TileId)
  | mulRowDrain (t : TileId)
  | sfElementwise (t : TileId)
  | sfReduceEmit (t : TileId)
  | sfRowApply (t : TileId)
  | sfConvert (t : TileId)
  | sfRandomEmit (t : TileId)
  | histClear (who : Requester) (c : Cl) (i : Fin 4) (v : Word)
  | memFifo (t : TileId) (store : Bool)
  | memReplay (t : TileId)
  | memCapture (t : TileId)
  | memAddressed (t : TileId)
  | memTileOutsideAccess (id : Nat)
  | ioInboundRead (t : TileId)
  | ioGateOpen (t : TileId)
  | ioOutboundWrite (t : TileId)
  | ioWriteComplete (id : Nat)
  | nanReportArrive (i : Nat)
  | overflowReportArrive (i : Nat)
  | underflowReportArrive (i : Nat)
  | regionOpen (who : Requester) (s : Fin 16) (v : Word)
  | regionClose (who : Requester) (s : Fin 16) (v : Word)
  | regionCloseEnd (p : Fin 64) (s : Fin 16)
  | regionAbort (who : Requester) (s : Fin 16) (v : Word)
  | regionRelease (who : Requester) (s : Fin 16) (v : Word)
  | regionWrite (who : Requester) (c : Cl) (v : Word)
  | ctxStart (who : Requester) (x : CtxId) (v : Word)
  | ctxStop (who : Requester) (x : CtxId) (v : Word)
  | ctxResume (who : Requester) (x : CtxId) (v : Word)
  | ctxReset (who : Requester) (x : CtxId) (v : Word)
  | integerOp (x : CtxId) (op : IntOp) (num32 : Bool) (rd ra : Reg) (b : Src2)
  | branch (x : CtxId) (b : BrKind)
  | scalarFpOp (x : CtxId) (op : FpOp) (fa fb fc : Fmt) (rd ra rb rc : Reg) (sat : Bool)
  | vectorArith (x : CtxId) (op : VOp) (fa fb fc : Fmt) (vd va vb vc : Reg) (m : Fin 8) (sat : Bool)
  | vdot (x : CtxId) (fa fb : Fmt) (vd va vb : Reg) (m : Fin 8) (sat : Bool)
  | vcvt (x : CtxId) (vd vs : Reg) (src dst : Fmt) (sat grad : Bool) (m : Fin 8) (part : BitVec 3)
  | vamax (x : CtxId) (fd vs : Reg) (fmt : Fmt) (m : Fin 8)
  | fscale (x : CtxId) (fd fa : Reg) (out : Fmt)
  | vcvts (x : CtxId) (vd vs fa : Reg) (src dst : Fmt) (sat grad : Bool) (m : Fin 8) (part : BitVec 3)
  | vbst (x : CtxId) (vs ra : Reg) (off : Word) (blk src : Fmt) (sat grad : Bool)
  | vbld (x : CtxId) (vd ra : Reg) (off : Word) (blk dst : Fmt) (sat : Bool)
  | load (x : CtxId) (dst : MemReg) (ra : Reg) (off : Word) (size : Fin 33) (signed : Bool)
  | store (x : CtxId) (src : MemReg) (ra : Reg) (off : Word) (size : Fin 33)
  | ldl (x : CtxId) (dst : MemReg) (off : BitVec 16) (size : Fin 33) (signed : Bool)
  | stl (x : CtxId) (src : MemReg) (off : BitVec 16) (size : Fin 33)
  | atomic (x : CtxId) (kind : AtomKind) (wide : Bool) (rd ra rs rc : Reg) (sat : Bool)
  | fence (x : CtxId) (kind : FenceKind) (scope : FenceScope)
  | loadComplete (id : Nat)
  | storeComplete (id : Nat)
  | requestTimeout (id : Nat)
  | runaheadEnter (x : CtxId) (code : List RaInstr)
  | runaheadEntryExpire (x : CtxId) (e : Fin 8)
  | icacheFill (x : CtxId) (a : BitVec 48)
  | tide (x : CtxId) (rd : Reg)
  | phase (x : CtxId) (k : BitVec 5)
  | rseed (x : CtxId)
  | vrand (x : CtxId) (vd : Reg)
  | iflush (x : CtxId)
  | brk (x : CtxId)
  | tret (x : CtxId) (rn : Reg)
  | halt (x : CtxId)
  | objrd (x : CtxId) (rd ra : Reg)
  | objset (x : CtxId) (rd ra rv : Reg)
  | objadd (x : CtxId) (rd ra rv : Reg)
  | objcas (x : CtxId) (rd ra rc rv : Reg)
  | wait (x : CtxId) (rd ra rb rc : Reg)
  | waitDeadline (x : CtxId)
  | objectRead (id : Nat)
  | objectSet (id : Nat)
  | objectAdd (src : AddSrc)
  | objectCas (id : Nat)
  | barrive (x : CtxId) (rd rb : Reg)
  | barrierArrive (i : Nat)
  | barrierRelease (i : Nat)
  | barrierLaunch (c : Cl) (b : Fin 32)
  | chaccept (x : CtxId) (rd re rs : Reg)
  | chopen (x : CtxId) (rd re ra : Reg)
  | openArrive (id : Nat)
  | openReplyArrive (id : Nat)
  | chsend (x : CtxId) (rd vs re : Reg)
  | messageArrive (id : Nat)
  | messageAck (id : Nat)
  | chrecv (x : CtxId) (rd vd re : Reg)
  | consume (who : Requester) (c : Cl) (e : Fin 256) (v : Word)
  | creditPacketSend (c : Cl) (e : Fin 256)
  | creditArrive (id : Nat)
  | chclose (x : CtxId) (rd re : Reg)
  | closeArrive (id : Nat)
  | setCursor (who : Requester) (c : Cl) (e : Fin 256) (v : Word)
  | basinContribution (id : Nat)
  | basinCombine (c : Cl)
  | basinClear (who : Requester) (c : Cl) (e : Fin 256) (v : Word)
  | channelDeadlock (c : Cl) (w : Waiter)
  | checkedChannelBreak
  | psub (x : CtxId) (rs vn : Reg)
  | pumpDescriptorStart (ch : ChanId)
  | pumpReadReturn (id : Nat)
  | pumpBeat (p : PumpId)
  | pumpWriteComplete (id : Nat)
  | pumpDescriptorComplete (ch : ChanId)
  | pumpRestart (who : Requester) (ch : ChanId) (v : Word)
  | pumpAbort (who : Requester) (ch : ChanId) (v : Word)
  | memAccessServe (id : Nat)
  | pageZeroDone (st : Fin 48)
  | patrolScrub (unit : Nat)
  | cxlMemRead (port : Fin 2) (hpa : Nat)
  | cxlMemWrite (port : Fin 2) (hpa : Nat) (data : BitVec 512)
  | routerForward (r : Cl) (out : Fin 5)
  | pendingNotice (id : Nat)
  | routerDies (c : Cl)
  | routeTablesLoaded
  | routeEpochLaunch
  | routeEpochDrainEnd
  | aqueductLaneFail (w : Fin 4) (x : Fin 2) (lane : Fin 204) (rate : Bool)
  | aqueductSpareReady (w : Fin 4) (x : Fin 2) (g : Fin 12)
  | fountainSend (who : Requester) (c : Cl) (k : Fin 24) (v : Word)
  | fountainValueApply (i : Nat)
  | fountainAckComplete (p : Fin 64) (f : Fin 16)
  | tideSend
  | tideReceive (c : Cl) (pkt : BitVec 128)
  | tideDisciplineSample (facilityNs : BitVec 64)
  | ppsEdge (stamp : BitVec 64)
  | retentionEnter (c : Cl)
  | governorWake (c : Cl)
  | arrivalWake (c : Cl)
  | wakeComplete (c : Cl)
  | refLost (port : Fin 2) (range : Bool)
  | refValid (port : Fin 2)
  | springInputChanged
  | springRelockDone
  | clkSwitchHang
  | nodeUnlocked (fields : List (Fin 192))
  | islandPllLocked (failed : List (Fin 192))
  | weirInterval
  | weirCalibrate (fields quads : Ratios)
  | feedMeasure (a b : Nat) (last100 : Nat)
  | shareReallocate
  | share (s : BitVec 16)
  | shareAck (mod : BitVec 8)
  | capInFrame (b0 b1 b2 : Byte)
  | capInInvalid
  | capInHoldExpire
  | droopSoft (c : Cl)
  | droopHard (c : Cl)
  | droopPauseEnd (c : Cl)
  | droopRecovery (c : Cl)
  | railShort (f : Fin 192) (network : Bool)
  | fieldTempSample (f : Fin 192) (t : Int)
  | hotRestore (f : Fin 192)
  | stackTempSample (st : Fin 48) (t : Int)
  | coolantSample (r : Coolant)
  | coolantRestart
  | ageingMonitorRead (f : Fin 192) (low : Bool)
  | ageingReplan (plan : List (Fin 192 × Option (Fin 21)))
  | clusterPark (c : Cl)
  | feedLoss (f : Fin 2)
  | feedRideThroughExpire
  | epoNAssert
  | epoNDeassert
  | presentNLoss
  | perstNAssert (port : Fin 2)
  | perstNDeassert (port : Fin 2)
  | sqTail (fn : FnId) (q : Fin 4) (v : Word)
  | cpqHead (fn : FnId) (q : Fin 4) (v : Word)
  | eqHead (fn : FnId) (v : Word)
  | queueEnable (fn : FnId) (q : QSel) (v : Word)
  | queueDisable (fn : FnId) (q : QSel) (v : Word)
  | commandFetch (fn : FnId) (q : Fin 4)
  | irqDelayExpire (fn : FnId) (q : QSel)
  | functionLevelReset (fn : FnId)
  | cxlLinkDown (port : Fin 2)
  | identify (k : CmdKey)
  | getStatus (k : CmdKey)
  | devResetWafer (k : CmdKey)
  | devResetModuleCompute (k : CmdKey)
  | devResetModuleFull (k : CmdKey)
  | devResetCold (k : CmdKey)
  | partCreate (k : CmdKey)
  | partDelete (k : CmdKey)
  | partSetVf (k : CmdKey)
  | bedsBind (k : CmdKey)
  | bedsUnbind (k : CmdKey)
  | setRegionBind (k : CmdKey)
  | setRegionFree (k : CmdKey)
  | bindPump (k : CmdKey)
  | bindPort (k : CmdKey)
  | setTimeouts (k : CmdKey)
  | resetContext (k : CmdKey)
  | resetClusterCompute (k : CmdKey)
  | resetPartitionCompute (k : CmdKey)
  | partitionResetDrainEnd (p : Fin 64)
  | partitionResetZeroDone (p : Fin 64)
  | barrierCreate (k : CmdKey)
  | barrierDelete (k : CmdKey)
  | fountainCreate (k : CmdKey)
  | fountainDelete (k : CmdKey)
  | partQuery (k : CmdKey)
  | loadImage (k : CmdKey)
  | regWrite (k : CmdKey)
  | regRead (k : CmdKey)
  | memCopy (k : CmdKey)
  | wipe (k : CmdKey)
  | hdmMap (k : CmdKey)
  | hdmUnmap (k : CmdKey)
  | memInfo (k : CmdKey)
  | syncDump (k : CmdKey)
  | arrayDump (k : CmdKey)
  | coreDump (k : CmdKey)
  | deadlockRead (k : CmdKey)
  | powerGet (k : CmdKey)
  | powerSet (k : CmdKey)
  | partPowerGet (k : CmdKey)
  | partPowerSet (k : CmdKey)
  | energyRead (k : CmdKey)
  | clockGet (k : CmdKey)
  | clockSet (k : CmdKey)
  | springSwitch (k : CmdKey)
  | setSeconds (k : CmdKey)
  | ocsalStatus (k : CmdKey)
  | ocsalPortEnable (k : CmdKey)
  | ocsalPortDisable (k : CmdKey)
  | ocsalPortRetrain (k : CmdKey)
  | ocsalRole (k : CmdKey)
  | hallBind (k : CmdKey)
  | hallUnbind (k : CmdKey)
  | fwWrite (k : CmdKey)
  | fwCommit (k : CmdKey)
  | fwStatus (k : CmdKey)
  | lcTransition (k : CmdKey)
  | lcStatus (k : CmdKey)
  | numGet (k : CmdKey)
  | numSet (k : CmdKey)
  | nanClear (k : CmdKey)
  | dryMapRead (k : CmdKey)
  | fenceUnit (k : CmdKey)
  | routerCounters (k : CmdKey)
  | fieldPowerRead (k : CmdKey)
  | memErrorRead (k : CmdKey)
  | powerIn
  | bringupStepDone (r : StepResult)
  | trialBootTimeout
  | bringupCoolantReady
  | lifecycleWipeDone
  | recoveryImage (image : List Byte)
  | wellheadPoll (w : Fin 4) (answers : Bool)
  | wellheadReplaced (w : Fin 4)
  | stackFailure (st : Fin 48)
  | flitReceive (port : Fin 16) (f : Flit)
  | ocsalLaneFail (port : Fin 16) (lane : Fin 9) (rate : Bool)
  | ocsalSpareReady (port : Fin 16)
  | portTrained (port : Fin 16) (peer : PeerId)
  | portSecured (port : Fin 16) (auth : PeerAuth)
  | portTrainRetry (port : Fin 16)
  | portRetrain (port : Fin 16)
  | portRetrainDone (port : Fin 16) (ok lostLock : Bool) (peerAck : BitVec 24)
  | keyUpdate (port : Fin 16)
  | bypassChange (port : Fin 16) (own : Bool)
  | ocsalPacketArrive (port : Fin 16) (pkt : OcsalPkt)
  | ocsalTide (port : Fin 16) (tide correction : Word) (rate : BitVec 32) (manager : BitVec 8)
  | tideHoldover
  | delayReq (port : Fin 16) (rtt correction : Nat)
  | heartbeat (rx : Option Heartbeat)
  | heartbeatLoss
  | poll (src : BitVec 8) (lastSeen : Word)
  | pollRsp (src : BitVec 8) (confirms : Bool)
  | join (port : Fin 16) (serial : BitVec 128) (role : BitVec 2)
  | assign (num manager : BitVec 8)
  | hallBarrierArrive (mod : BitVec 8) (p : Fin 64) (b : Fin 32) (gen : BitVec 16)
  | hallBarrierRelease (p : Fin 64) (b : Fin 32) (gen : BitVec 16) (status : BitVec 8) (launch : BitVec 32)
  | spdmGetVersion (peer : SpdmPeer)
  | spdmGetCapabilities (peer : SpdmPeer)
  | spdmNegotiateAlgorithms (peer : SpdmPeer) (offersSuite : Bool)
  | spdmGetDigests (peer : SpdmPeer) (slot : Fin 8)
  | spdmGetCertificate (peer : SpdmPeer) (slot : Fin 8) (off len : Nat)
  | spdmChallenge (peer : SpdmPeer) (slot : Fin 8) (nonce : BitVec 256)
  | spdmGetMeasurements (peer : SpdmPeer) (index : Byte)
  | spdmKeyExchange (peer : SpdmPeer) (slot : Fin 8) (session : BitVec 32) (share : BitVec 768)
  | spdmFinish (peer : SpdmPeer) (session : BitVec 32) (proofOk : Bool)
  | spdmHeartbeat (peer : SpdmPeer) (session : BitVec 32)
  | spdmKeyUpdate (peer : SpdmPeer) (session : BitVec 32)
  | spdmEndSession (peer : SpdmPeer) (session : BitVec 32)
  | i3cRequest (sensor : Fin 8)
  | managementRequest (r : MgmtReq)
  | cxlLinkTrained (port : Fin 2) (link : CxlTrain)
  | feedReturn (f : Fin 2)
  | busConverterFailure (conv : Fin 16)
  | regulatorSetpointReached (f : Fin 192)
  | disciplineSourceLost
  | ocsalTideSend
  | ideKeyManagement (port : Fin 2) (session : BitVec 32) (mem : Bool) (stream : Fin 5) (key : BitVec 256)
  | testAccess (i : TestInstr)
  | numvfsChange (port : Fin 2) (n : Fin 64)
  | controlCrossingBusFail (c : Cl) (x : Fin 2)
  | clusterUnitFailure (c : Cl) (u : FailUnit)
  deriving DecidableEq, Repr

end Sys2Proof
end

