-- ==== Sys2Proof/Decode.lean ====
section
/-! DEFINITION. The commands that a word spells. No row of spec/opcode_table.json gives bits: a command of this
block is a register access, a packet, a signal or a record of a queue, and none is a word of its own. The 64-byte
command records of the host queues are read in Machine/Queues.lean and Machine/Command.lean. -/

namespace Sys2Proof

/-- The command that a word spells by the table's bits: none, as no row gives bits. -/
def decodeTableWord (_nbits _w : Nat) : Option Instr := none

end Sys2Proof
end

