-- ==== Sys2Proof/Config.lean ====
section
/-! DEFINITION. What an implementation fixes and the values the spec leaves open. A free value is an
opaque constant with no body: nothing can be proved of it but that it is one value. -/

namespace Sys2Proof.Config

/-- A free value of the machine, by the count of free values taken before it: the entropy source,
self-test outcomes that a row does not carry, and reads of what has no stated value. -/
opaque free : Nat → BitVec 64

/-- A 128-byte-wide free value (keys, nonces, signatures), by count. -/
opaque freeWide : Nat → BitVec 1024

/-- The FP32 result of a special function (R109: within a stated error of the exact value, which
the spec does not fix further), by opcode and operand code. -/
opaque special : Nat → BitVec 32 → BitVec 32

/-- The result of a core integer shift by the operand's width or more (R167 states none), of the operation (0
SHL, 1 SHR, 2 SAR), whether it is a numeric INT32 one, and the operands: one value for the same operands (R65). -/
opaque shiftOver : Nat → Bool → BitVec 64 → BitVec 64 → BitVec 64

/-- Which of the two neighbours RECIP (opcode 0x09) and RSQRT (0x0B) answer (R109: ≤ 1 ulp). -/
opaque pickUp : Nat → BitVec 32 → Bool

/-- Atbin's choice of a router's parent in a spanning tree (R220, R225), by route epoch, router and root, among the
first hops of the shortest live paths to the root; and its choice of a fountain's or a barrier's root. -/
opaque treePort : Nat → Nat → Nat → Nat

/-- Which of a class's two virtual channels an output port serves when both have a packet ready (R215 names no
order between them), by count of free values. -/
opaque vcPick : Nat → Bool

/-- ORIGIN as the lost manager had it, none where it had acquired no facility time (R434), by count. -/
opaque managerOrigin : Nat → Option (BitVec 64)

/-- The record of numbers by serial number as the lost manager last copied it (R421, R434: no packet of R420 carries the
copy), by count. -/
opaque managerRecord : Nat → List (BitVec 128 × BitVec 8)

/-- What a packet's elastic crossing adds, in half nanoseconds beyond the least of R223, by count. -/
opaque elastic : Nat → Nat

/-- The 24 bits that a uniform lane takes from its 32 random bits (R118 states the distribution,
not which bits). -/
opaque uniform24 : BitVec 32 → BitVec 24

/-- SHA-384 of a byte string (spec/17_security.md). -/
opaque sha384 : List (BitVec 8) → BitVec 384

/-- ECDSA P-384 signature of a message under a key. -/
opaque sign : BitVec 384 → List (BitVec 8) → BitVec 768

/-- The signature verifies under the public key. -/
opaque verify : BitVec 768 → List (BitVec 8) → BitVec 768 → Bool

/-- A key derived from a secret and a label (R441). -/
opaque derive : BitVec 384 → List (BitVec 8) → BitVec 384

/-- The public key of a secret key. -/
opaque publicKey : BitVec 384 → BitVec 768

/-- A ring peer holds a direct port to a module (R422: the peer's own state), by peer, module and
table epoch. -/
opaque peerReaches : Nat → Nat → Nat → Bool

/-- The weir's uncalibrated estimate of a cluster's power in mW (R324: its weights are the
implementation's), by cluster, k, issue cycles per 8 and interval. -/
opaque clusterMw : Nat → Nat → Nat → Nat → Nat

/-- Estimates of the network rails and standby supplies, and of a quadrant's conversion losses for an
estimate, in mW, by interval. -/
opaque networkMw : Nat → Nat
opaque lossMw : Nat → Nat → Nat → Nat

/-- Estimates of a stack's and of a port's power in an interval, in mW. -/
opaque stackMw : Nat → Nat → Nat
opaque portMw : Nat → Nat → Nat

/-- What another module of the ring could use, in 0.1 kW, by module and reallocation: its effective
limit without the share, and its predict(16, 8) (R326: no packet of R420 carries them). -/
opaque moduleDemand : Nat → Nat → Nat × Nat

/-- The excess of the floors over CHASSIS_CAP that a module of the ring other than the manager is to post, 0.1 kW, by count
(R326 names the excess, no packet carries it). -/
opaque ringExcess : Nat → Nat

/-- What a sensor that no row carries reads, by sensor and time (R345 currents). -/
opaque sensor : Nat → Nat → Nat

/-- Bytes of the certificate chain (R441: X.509 in DER, whose encoding the spec leaves to that standard), from
the public part of the alias key and the measurements its certificate carries. -/
opaque certificate : BitVec 768 → List (BitVec 8) → List (BitVec 8)

/-- Whether a flit met an uncorrectable error on its hop (R214), by count of free values. -/
opaque flitError : Nat → Bool

/-- The CRC failures of a packet's flits on an aqueduct hop, each naming one of the crossing's two lanes, by count;
after each the flit is sent again (R228). -/
opaque laneErrors : Nat → List Bool

/-- A memory upset, if one happens: memory (0 SRAM, 1 stack, 2 instruction cache), code unit (of a cache, core
times 256 plus the line's place), and how many bits' worth (1 correctable, 2 not), by count (R197 states what is
corrected, not when errors happen). -/
opaque upset : Nat → Option (Nat × Nat × Nat)

/-- How the host completes reads of a 4 KiB page of its I/O addresses (R190). -/
inductive HostCpl where
  | success | unsupported | abort | poisoned
  deriving DecidableEq, Repr

/-- A change in how the host completes accesses to a page, if one happens: the page's number and the completion (R190
states what each gives, not when the host answers so). -/
opaque hostPage : Nat → Option (Nat × HostCpl)

/-- The firmware that slot A holds as delivered (R450), which passes R439: its VERSION and SVN. -/
opaque factoryVersion : BitVec 32
opaque factorySvn : Nat

/-- The body of that firmware, and where a body holds the wellhead firmware section (R444 names the section,
no layout). -/
opaque factoryBody : List (BitVec 8)
opaque wellheadSection : List (BitVec 8) → List (BitVec 8)

/-- SLOT_ID as the chassis straps it, by the time it is read (R474). -/
opaque slotStraps : Nat → BitVec 4

/-- How MEM_INFO lists the dry pages of a partition or of the module (R364 gives no layout), from their
numbers. -/
opaque dryPageBytes : List Nat → List (BitVec 8)

/-- The other members of a hall barrier, as module and partition, that joins a partition's barrier through
bindings of other modules (R433: only those modules hold them), by module, partition and barrier. -/
opaque hallGroup : Nat → Nat → Nat → List (Nat × Nat)

/-- The LEAD of a hall barrier that the manager is no member of (R433), by module, partition and barrier. -/
opaque hallLead : Nat → Nat → Nat → BitVec 16

end Sys2Proof.Config
end

