-- ==== Sys2Proof/Machine/Operands.lean ====
section
/-! DEFINITION. Operand forms: bit fields of registers and records, little-endian bytes, the
number formats (spec/02_number_formats.md) and the exact value that an element code stands for. -/

namespace Sys2Proof.Machine

/-! ### Bit fields and bytes -/

/-- Bits `[lo + w - 1 : lo]` of a number. -/
def fld (n lo w : Nat) : Nat := n / 2 ^ lo % 2 ^ w

/-- Bit `i` of a number. -/
def bit (n i : Nat) : Bool := n.testBit i

/-- 1 for true. -/
def b2n (b : Bool) : Nat := if b then 1 else 0

/-- Places `v` (its low `w` bits) at bit `lo`. -/
def put (v lo w : Nat) : Nat := (v % 2 ^ w) * 2 ^ lo

/-- Little-endian number of a list of bytes (spec/00_scope.md Conventions). -/
def leNat : List Byte → Nat
  | [] => 0
  | b :: r => b.toNat + 256 * leNat r

/-- The `n` little-endian bytes of a number. -/
def leBytes : Nat → Nat → List Byte
  | 0, _ => []
  | k + 1, v => BitVec.ofNat 8 v :: leBytes k (v / 256)

/-- Sign extension of the low `w` bits, as an integer. -/
def sgn (w v : Nat) : Int :=
  let u := v % 2 ^ w
  if u < 2 ^ (w - 1) then (u : Int) else (u : Int) - (2 ^ w : Nat)

/-- The low `w` bits of an integer. -/
def ofInt (w : Nat) (i : Int) : Nat := (i % ((2 ^ w : Nat) : Int)).toNat

/-! ### Exact values -/

/-- An exact value of an operand or a result: a NaN, an infinity, or `(-1)^neg * m * 2^e`
(`m = 0` is a signed zero). -/
inductive Val where
  | nan
  | inf (neg : Bool)
  | fin (neg : Bool) (m : Nat) (e : Int)
  deriving DecidableEq, Repr

/-- The zero of a sign. -/
def Val.zero (neg : Bool) : Val := .fin neg 0 0

def Val.isNan : Val → Bool
  | .nan => true
  | _ => false

def Val.isInf : Val → Bool
  | .inf _ => true
  | _ => false

def Val.isZero : Val → Bool
  | .fin _ m _ => m == 0
  | _ => false

def Val.neg : Val → Bool
  | .nan => false
  | .inf n => n
  | .fin n _ _ => n

/-- The value with the other sign. -/
def Val.flip : Val → Val
  | .nan => .nan
  | .inf n => .inf (!n)
  | .fin n m e => .fin (!n) m e

/-- The magnitude. -/
def Val.abs : Val → Val
  | .nan => .nan
  | .inf _ => .inf false
  | .fin _ m e => .fin false m e

/-- Multiplies by `2^k`. -/
def Val.scale (v : Val) (k : Int) : Val :=
  match v with
  | .fin n m e => .fin n m (e + k)
  | v => v

/-- An integer as an exact value. -/
def Val.ofInt (i : Int) : Val := .fin (decide (i < 0)) i.natAbs 0

/-- `floor (log2 m)`, 0 for 0. -/
def flog2 (m : Nat) : Nat := Nat.log2 m

/-- `m1 * 2^e1 ≤ m2 * 2^e2`. -/
def magLe (m1 : Nat) (e1 : Int) (m2 : Nat) (e2 : Int) : Bool :=
  let e := min e1 e2
  decide (m1 * 2 ^ (e1 - e).toNat ≤ m2 * 2 ^ (e2 - e).toNat)

/-- `m1 * 2^e1 < m2 * 2^e2`. -/
def magLt (m1 : Nat) (e1 : Int) (m2 : Nat) (e2 : Int) : Bool := !magLe m2 e2 m1 e1

/-! ### Formats (R27, R29, R31, R33) -/

/-- Which codes of the top exponent are special (R29). -/
inductive Special where
  | none            -- every code is finite
  | topNan          -- only the all-ones codes are NaN (FP8 E4M3)
  | ieee            -- the top exponent holds infinities and NaNs
  deriving DecidableEq, Repr

/-- A floating-point element format of R29. -/
structure FFmt where
  eb : Nat
  mb : Nat
  bias : Int
  special : Special
  flush : Bool
  deriving DecidableEq, Repr

/-- An element format: floating point, two's complement integer, or the MXINT8 element. -/
inductive EFmt where
  | flt (f : FFmt)
  | int (w : Nat)
  | mxInt8
  deriving DecidableEq, Repr

/-- A block format of R33: its element format and whether it carries the shift byte. -/
structure BFmt where
  elem : EFmt
  width : Nat
  cascade : Bool
  deriving DecidableEq, Repr

def fp4 : FFmt := ⟨2, 1, 1, .none, false⟩
def fp6e2m3 : FFmt := ⟨2, 3, 1, .none, false⟩
def fp6e3m2 : FFmt := ⟨3, 2, 3, .none, false⟩
def fp8e4m3 : FFmt := ⟨4, 3, 7, .topNan, false⟩
def fp8e5m2 : FFmt := ⟨5, 2, 15, .ieee, false⟩
def fp16 : FFmt := ⟨5, 10, 15, .ieee, false⟩
def bf16 : FFmt := ⟨8, 7, 127, .ieee, true⟩
def fp32 : FFmt := ⟨8, 23, 127, .ieee, true⟩
def fp64 : FFmt := ⟨11, 52, 1023, .ieee, true⟩

/-- The element format of a format code (R27); none for a block or a reserved code. -/
def elemFmt (c : Nat) : Option EFmt :=
  match c with
  | 0x01 => some (.flt fp4)
  | 0x02 => some (.flt fp6e2m3)
  | 0x03 => some (.flt fp6e3m2)
  | 0x04 => some (.flt fp8e4m3)
  | 0x05 => some (.flt fp8e5m2)
  | 0x06 => some (.flt fp16)
  | 0x07 => some (.flt bf16)
  | 0x08 => some (.flt fp32)
  | 0x09 => some (.flt fp64)
  | 0x0A => some (.int 4)
  | 0x0B => some (.int 8)
  | 0x0C => some (.int 16)
  | 0x0D => some (.int 32)
  | _ => none

/-- The block format of a format code (R27, R33). -/
def blockFmt (c : Nat) : Option BFmt :=
  match c with
  | 0x10 => some ⟨.flt fp4, 4, false⟩
  | 0x11 => some ⟨.flt fp6e2m3, 6, false⟩
  | 0x12 => some ⟨.flt fp6e3m2, 6, false⟩
  | 0x13 => some ⟨.flt fp8e4m3, 8, false⟩
  | 0x14 => some ⟨.flt fp8e5m2, 8, false⟩
  | 0x15 => some ⟨.mxInt8, 8, false⟩
  | 0x18 => some ⟨.flt fp4, 4, true⟩
  | 0x19 => some ⟨.flt fp6e2m3, 6, true⟩
  | _ => none

/-- The code is not reserved (R28). -/
def fmtOk (c : Nat) : Bool := (elemFmt c).isSome || (blockFmt c).isSome

/-- Bits per element of an element format. -/
def EFmt.bits : EFmt → Nat
  | .flt f => 1 + f.eb + f.mb
  | .int w => w
  | .mxInt8 => 8

/-- Bits per element of a plain format code or of a block's elements. -/
def fmtBits (c : Nat) : Nat :=
  match elemFmt c with
  | some e => e.bits
  | none => match blockFmt c with
    | some b => b.width
    | none => 0

/-- The format flushes subnormals (R48). -/
def EFmt.flushes : EFmt → Bool
  | .flt f => f.flush
  | _ => false

/-- The format has infinities (R29). -/
def EFmt.hasInf : EFmt → Bool
  | .flt f => f.special == .ieee
  | _ => false

/-- The format has a NaN code (R29). -/
def EFmt.hasNan : EFmt → Bool
  | .flt f => f.special != .none
  | _ => false

/-- The canonical NaN (R30); 0 where the format has none. -/
def EFmt.nanCode : EFmt → Nat
  | .flt f =>
    match f.special with
    | .none => 0
    | .topNan => 2 ^ (f.eb + f.mb) - 1
    | .ieee => (2 ^ f.eb - 1) * 2 ^ f.mb + 2 ^ (f.mb - 1)
  | _ => 0

/-- The code of the positive infinity. -/
def FFmt.infCode (f : FFmt) : Nat := (2 ^ f.eb - 1) * 2 ^ f.mb

/-- The code of the largest finite value (R29). -/
def FFmt.maxCode (f : FFmt) : Nat :=
  match f.special with
  | .none => 2 ^ (f.eb + f.mb) - 1
  | .topNan => 2 ^ (f.eb + f.mb) - 2
  | .ieee => (2 ^ f.eb - 1) * 2 ^ f.mb - 1

/-- The magnitude of a finite code without its sign: significand and exponent. -/
def FFmt.mag (f : FFmt) (code : Nat) : Nat × Int :=
  let e := code / 2 ^ f.mb % 2 ^ f.eb
  let m := code % 2 ^ f.mb
  if e = 0 then (m, 1 - f.bias - f.mb) else (2 ^ f.mb + m, (e : Int) - f.bias - f.mb)

/-- The largest finite magnitude of an element format: M of R33. -/
def EFmt.maxMag : EFmt → Nat × Int
  | .flt f => f.mag f.maxCode
  | .int w => (2 ^ (w - 1) - 1, 0)
  | .mxInt8 => (127, -6)

/-- The smallest normal magnitude (R42; 2^-6 for MXINT8), as an exponent of two. -/
def EFmt.minNormal : EFmt → Int
  | .flt f => 1 - f.bias
  | .int _ => 0
  | .mxInt8 => -6

/-- The value of an element code as an operand (R29, R31, R35): a subnormal of a format that
flushes reads as a zero of its sign (R48), and every NaN is one NaN (R30). -/
def EFmt.decode (f : EFmt) (code : Nat) : Val :=
  match f with
  | .flt f =>
    let neg := code.testBit (f.eb + f.mb)
    let e := code / 2 ^ f.mb % 2 ^ f.eb
    let m := code % 2 ^ f.mb
    let fin : Val :=
      let p := f.mag code
      if e = 0 ∧ f.flush then .zero neg else .fin neg p.1 p.2
    match f.special with
    | .none => fin
    | .topNan => if e = 2 ^ f.eb - 1 ∧ m = 2 ^ f.mb - 1 then .nan else fin
    | .ieee => if e = 2 ^ f.eb - 1 then (if m = 0 then .inf neg else .nan) else fin
  | .int w => .ofInt (sgn w code)
  | .mxInt8 => (Val.ofInt (sgn 8 code)).scale (-6)

/-- Decodes an element of a plain format code. -/
def decodeElem (c code : Nat) : Val :=
  match elemFmt c with
  | some f => f.decode code
  | none => .nan

/-! ### Blocks (R33, R34, R35) -/

/-- Header bits of a block. -/
def BFmt.hdr (b : BFmt) : Nat := if b.cascade then 16 else 8

/-- Bytes of a block (R33). -/
def BFmt.bytes (b : BFmt) : Nat := b.hdr / 8 + 4 * b.width

/-- Block size in bytes of a format code, 0 where it is no block format. -/
def blockBytes (c : Nat) : Nat :=
  match blockFmt c with
  | some b => b.bytes
  | none => 0

/-- The value of element `i` of a block with scale code `scale`, shift byte `shift` and element
code `code` (R35). -/
def BFmt.elemVal (b : BFmt) (scale shift i code : Nat) : Val :=
  if scale = 0xFF then .nan
  else (b.elem.decode code).scale ((scale : Int) - 127 - (if b.cascade then fld shift (2 * (i / 8)) 2 else 0))

/-- The 32 values of a block given as one number, bit 0 first (R34, R35). -/
def BFmt.decodeBlock (b : BFmt) (n : Nat) : List Val :=
  let scale := fld n 0 8
  let shift := if b.cascade then fld n 8 8 else 0
  (List.range 32).map fun i => b.elemVal scale shift i (fld n (b.hdr + b.width * i) b.width)

/-! ### Tokens' elements (R97) -/

/-- Elements per token of a format (R97). -/
def elemsPerToken (c : Nat) : Nat :=
  match fmtBits c with
  | 4 => 64
  | 6 => 32
  | 8 => 32
  | 16 => 16
  | 32 => 8
  | _ => 0

/-- Element codes of a payload: `n` elements of width `w`, element 0 lowest (R97). -/
def unpack (p w n : Nat) : List Nat := (List.range n).map fun i => fld p (w * i) w

/-- The payload of element codes of width `w`. -/
def pack (w : Nat) : List Nat → Nat
  | [] => 0
  | c :: r => c % 2 ^ w + 2 ^ w * pack w r

end Sys2Proof.Machine
end

