-- ==== Sys2Proof/Machine/Flags.lean ====
section
/-! DEFINITION. Arithmetic with its flags: every operation answers its exact value and whether it
produced a NaN (and why, R59 CAUSE), and one rounding answers the code and whether it overflowed
(R45-R50). Conversions, block encoding and the random generator stand here too (R37-R42, R55-R57,
R154). -/

namespace Sys2Proof.Machine

/-! ### Rounding (R45, R47, R48, R56) -/

/-- A rounded result: its code, whether it overflowed (R46, R47), and whether a NaN was lost
because the format has none (R55). -/
structure Conv where
  code : Nat
  ovf : Bool
  lost : Bool
  deriving DecidableEq, Repr

/-- Exponent of the unit of the last place at a magnitude; that of the smallest normal binade
below the smallest normal (R56). -/
def EFmt.unitExp (f : EFmt) (m : Nat) (e : Int) : Int :=
  match f with
  | .flt f => max ((flog2 m : Int) + e) (1 - f.bias) - f.mb
  | .int _ => 0
  | .mxInt8 => -6

/-- Whole units and the fraction below them as numerator and denominator. -/
def splitUnits (m : Nat) (e u : Int) : Nat × Nat × Nat :=
  if u ≤ e then (m * 2 ^ (e - u).toNat, 0, 1)
  else
    let d := 2 ^ (u - e).toNat
    (m / d, m % d, d)

/-- Round half to even (R45). -/
def roundEven (q rem d : Nat) : Nat :=
  if d < 2 * rem ∨ (2 * rem = d ∧ q % 2 = 1) then q + 1 else q

/-- Stochastic rounding with one 16-bit draw (R56). -/
def roundDraw (q rem d r : Nat) : Nat := q + (rem * 65536 / d + r) / 65536

/-- The code of `q` units of `2^u`, `q ≤ 2^(mb+1)`; a result below the smallest normal is a zero
where the format flushes (R48). -/
def FFmt.encode (f : FFmt) (neg : Bool) (q : Nat) (u : Int) : Nat :=
  let s := if neg then 2 ^ (f.eb + f.mb) else 0
  let (q, u) := if 2 ^ (f.mb + 1) ≤ q then (q / 2, u + 1) else (q, u)
  if q < 2 ^ f.mb then (if f.flush then s else s + q)
  else s + (u + f.mb + f.bias).toNat * 2 ^ f.mb + (q - 2 ^ f.mb)

/-- The code of a signed zero; integers have one zero (R55). -/
def EFmt.zeroCode (f : EFmt) (neg : Bool) : Nat :=
  match f with
  | .flt f => if neg then 2 ^ (f.eb + f.mb) else 0
  | _ => 0

/-- The code of the largest finite value of a sign (R47, R55). -/
def EFmt.maxOf (f : EFmt) (neg : Bool) : Nat :=
  match f with
  | .flt f => (if neg then 2 ^ (f.eb + f.mb) else 0) + f.maxCode
  | .int w => if neg then 2 ^ (w - 1) else 2 ^ (w - 1) - 1
  | .mxInt8 => if neg then 0x81 else 0x7F

/-- The code of an infinity, the largest finite value where there is none or SAT is set. -/
def EFmt.infOf (f : EFmt) (sat neg : Bool) : Nat :=
  match f with
  | .flt g => if sat || !f.hasInf then f.maxOf neg
    else (if neg then 2 ^ (g.eb + g.mb) else 0) + g.infCode
  | _ => f.maxOf neg

/-- The value at `q` units exceeds the largest finite one (R46, R47). -/
def EFmt.exceeds (f : EFmt) (neg : Bool) (q : Nat) (u : Int) : Bool :=
  match f with
  | .int w => if neg then decide (2 ^ (w - 1) < q) else decide (2 ^ (w - 1) - 1 < q)
  | _ => magLt f.maxMag.1 f.maxMag.2 q u

/-- The code of a finite non-zero result in range. -/
def EFmt.encode (f : EFmt) (neg : Bool) (q : Nat) (u : Int) : Nat :=
  match f with
  | .flt f => f.encode neg q u
  | .int w => ofInt w (if neg then -(q : Int) else q)
  | .mxInt8 => ofInt 8 (if neg then -(q : Int) else q)

/-- Converts an exact value to a format with one rounding: to nearest even, or stochastic with
the draw `r` (R45-R48, R55-R57, convert_element of spec/02_number_formats.md). -/
def convertVal (f : EFmt) (sat : Bool) (r : Option Nat) (v : Val) : Conv :=
  match v with
  | .nan => ⟨f.nanCode, false, !f.hasNan⟩
  | .inf neg => ⟨f.infOf sat neg, false, false⟩
  | .fin neg m e =>
    if m = 0 then ⟨f.zeroCode neg, false, false⟩
    else
      let u := f.unitExp m e
      let s := splitUnits m e u
      let q := match r with
        | none => roundEven s.1 s.2.1 s.2.2
        | some r => roundDraw s.1 s.2.1 s.2.2 r
      if f.exceeds neg q u then ⟨f.infOf sat neg, true, false⟩
      else ⟨if q = 0 then f.zeroCode neg else f.encode neg q u, false, false⟩

/-! ### Exact operations with the NaN they produce (R49, R50, R54, R58) -/

/-- An exact result and the CAUSE of a NaN that the operation produced, 0 for none (R58, R59). -/
structure Exact where
  v : Val
  cause : Nat
  deriving DecidableEq, Repr

def addV (a b : Val) : Exact :=
  match a, b with
  | .nan, _ => ⟨.nan, 0⟩
  | _, .nan => ⟨.nan, 0⟩
  | .inf n, .inf k => if n = k then ⟨.inf n, 0⟩ else ⟨.nan, 1⟩
  | .inf n, _ => ⟨.inf n, 0⟩
  | _, .inf n => ⟨.inf n, 0⟩
  | .fin n1 m1 e1, .fin n2 m2 e2 =>
    let e := min e1 e2
    let i1 : Int := (if n1 then -1 else 1) * (m1 * 2 ^ (e1 - e).toNat : Nat)
    let i2 : Int := (if n2 then -1 else 1) * (m2 * 2 ^ (e2 - e).toNat : Nat)
    let s := i1 + i2
    if s = 0 then ⟨.zero (m1 == 0 && m2 == 0 && n1 && n2), 0⟩
    else ⟨.fin (decide (s < 0)) s.natAbs e, 0⟩

def subV (a b : Val) : Exact := addV a b.flip

def mulV (a b : Val) : Exact :=
  match a, b with
  | .nan, _ => ⟨.nan, 0⟩
  | _, .nan => ⟨.nan, 0⟩
  | .inf n, .inf k => ⟨.inf (n != k), 0⟩
  | .inf n, .fin k m _ => if m = 0 then ⟨.nan, 2⟩ else ⟨.inf (n != k), 0⟩
  | .fin k m _, .inf n => if m = 0 then ⟨.nan, 2⟩ else ⟨.inf (n != k), 0⟩
  | .fin n1 m1 e1, .fin n2 m2 e2 => ⟨.fin (n1 != n2) (m1 * m2) (e1 + e2), 0⟩

/-- Fused multiply-add `a * b + c`. -/
def fmaV (a b c : Val) : Exact :=
  let p := mulV a b
  if c.isNan then ⟨.nan, 0⟩
  else if p.v.isNan then p
  else addV p.v c

/-- Division, exact but for a sticky bit: the quotient has at least 128 significant bits, far below every
format's last place. -/
def divV (a b : Val) : Exact :=
  match a, b with
  | .nan, _ => ⟨.nan, 0⟩
  | _, .nan => ⟨.nan, 0⟩
  | .inf _, .inf _ => ⟨.nan, 3⟩
  | .inf n, .fin k _ _ => ⟨.inf (n != k), 0⟩
  | .fin n _ _, .inf k => ⟨.zero (n != k), 0⟩
  | .fin n1 m1 e1, .fin n2 m2 e2 =>
    if m2 = 0 then (if m1 = 0 then ⟨.nan, 3⟩ else ⟨.inf (n1 != n2), 0⟩)
    else
      let k := 128 + flog2 m2
      let q := m1 * 2 ^ k / m2
      let sticky := if m1 * 2 ^ k % m2 = 0 then 0 else 1
      ⟨.fin (n1 != n2) (2 * q + sticky) (e1 - e2 - k - 1), 0⟩

/-- Integer square root by bits, from bit `k - 1` down. -/
def isqrt (n : Nat) : Nat → Nat → Nat
  | 0, r => r
  | k + 1, r => isqrt n k (if (r + 2 ^ k) * (r + 2 ^ k) ≤ n then r + 2 ^ k else r)

/-- Square root, exact but for a sticky bit (R110). -/
def sqrtV (a : Val) : Exact :=
  match a with
  | .nan => ⟨.nan, 0⟩
  | .inf n => if n then ⟨.nan, 4⟩ else ⟨.inf false, 0⟩
  | .fin n m e =>
    if m = 0 then ⟨.zero n, 0⟩
    else if n then ⟨.nan, 4⟩
    else
      let p := if e % 2 = 0 then (m, e) else (2 * m, e - 1)
      let x := p.1 * 2 ^ 256
      let s := isqrt x 200 0
      ⟨.fin false (2 * s + if s * s = x then 0 else 1) ((p.2 - 256) / 2 - 1), 0⟩

/-- IEEE comparison; none where a NaN makes it unordered (R49). -/
def cmpV (a b : Val) : Option Ordering :=
  match a, b with
  | .nan, _ => none
  | _, .nan => none
  | .inf n, .inf k => some (if n = k then .eq else if n then .lt else .gt)
  | .inf n, _ => some (if n then .lt else .gt)
  | _, .inf n => some (if n then .gt else .lt)
  | .fin n1 m1 e1, .fin n2 m2 e2 =>
    let e := min e1 e2
    let i1 : Int := (if n1 then -1 else 1) * (m1 * 2 ^ (e1 - e).toNat : Nat)
    let i2 : Int := (if n2 then -1 else 1) * (m2 * 2 ^ (e2 - e).toNat : Nat)
    some (if i1 < i2 then .lt else if i1 = i2 then .eq else .gt)

/-- Minimum or maximum: NaN if either is NaN, and -0 below +0 (R50). -/
def minmaxV (mx : Bool) (a b : Val) : Val :=
  match cmpV a b with
  | none => .nan
  | some .lt => if mx then b else a
  | some .gt => if mx then a else b
  | some .eq => if mx then (if a.neg then b else a) else (if a.neg then a else b)

/-- Comparison conditions 0 LT, 1 LE, 2 EQ, 3 NE, 4 GT, 5 GE (R49, R111). -/
def condV (c : Nat) (a b : Val) : Bool :=
  match cmpV a b with
  | none => c == 3
  | some o =>
    match c with
    | 0 => o == .lt
    | 1 => o != .gt
    | 2 => o == .eq
    | 3 => o != .eq
    | 4 => o == .gt
    | _ => o != .lt

/-- Exact sum of products with its special values (R51, R54). -/
def dotV (ps : List (Val × Val)) : Exact :=
  if ps.any (fun p => p.1.isNan || p.2.isNan) then ⟨.nan, 0⟩
  else
    ps.foldl (init := ⟨.zero true, 0⟩) fun acc p =>
      if acc.cause ≠ 0 then acc
      else
        let q := mulV p.1 p.2
        if q.cause ≠ 0 then q else addV acc.v q.v

/-- An exact sum of products added to an accumulator; a NaN accumulator is passed on (R54, R58). -/
def dotAdd (ps : List (Val × Val)) (acc : Val) : Exact :=
  if acc.isNan then ⟨.nan, 0⟩
  else
    let d := dotV ps
    if d.cause ≠ 0 then d else addV d.v acc

/-! ### Numeric results -/

/-- A result element: its code, overflow, and the cause of a produced NaN (0 for none). -/
structure Num where
  code : Nat
  ovf : Bool
  cause : Nat
  deriving DecidableEq, Repr

/-- Rounds an exact result once to its format (R45-R48). A result that is infinite before rounding is
the IEEE one whatever SAT says, and no overflow (R47). -/
def Exact.finish (x : Exact) (f : EFmt) (sat : Bool) : Num :=
  match x.v with
  | .inf neg => ⟨f.infOf false neg, false, x.cause⟩
  | _ =>
    let c := convertVal f sat none x.v
    ⟨c.code, c.ovf, x.cause⟩

/-- A result that needs no rounding. -/
def Val.finish (v : Val) (f : EFmt) : Num := (Exact.mk v 0).finish f true

/-- Rounds a finite magnitude down to a format's last place, and whether anything was cut off. -/
def truncCode (f : FFmt) (neg : Bool) (m : Nat) (e : Int) : Nat × Bool :=
  let u := EFmt.unitExp (.flt f) m e
  let s := splitUnits m e u
  (f.encode neg s.1 u, s.2.1 != 0)

/-- One of the two FP32 neighbours of an exact value: the lower magnitude, or with `up` the next
one; both are within 1 ulp (R109 RECIP, RSQRT). -/
def neighbour32 (up sat : Bool) (v : Val) : Conv :=
  match v with
  | .fin neg m e =>
    if m = 0 then convertVal (.flt fp32) sat none v
    else
      let t := truncCode fp32 neg m e
      let c := if up && t.2 then t.1 + 1 else t.1
      if c % 2 ^ 31 ≥ fp32.infCode then ⟨EFmt.infOf (.flt fp32) sat neg, true, false⟩
      else ⟨c, false, false⟩
  | v => convertVal (.flt fp32) sat none v

/-! ### Scales (R41, R140) and block encoding (R37-R42) -/

/-- The smallest `E` with `m * 2^e ≤ M * 2^E`, for `m > 0`. -/
def smallestE (max : Nat × Int) (m : Nat) (e : Int) : Int :=
  let c := (flog2 m : Int) + e - ((flog2 max.1 : Int) + max.2)
  if magLe m e max.1 (max.2 + c) then c else c + 1

def clampInt (lo hi i : Int) : Int := if i < lo then lo else if hi < i then hi else i

/-- Row exponent `E_t` of the two-pass convert (R140). -/
def rowExp (f : EFmt) (a : Val) : Int :=
  match a with
  | .nan => 0
  | .inf _ => 127
  | .fin _ m e => if m = 0 then 0 else clampInt (-126) 127 (smallestE f.maxMag m e)

/-- The larger magnitude of two values without NaN. -/
def maxMagV (vs : List Val) : Val :=
  vs.foldl (init := .zero false) fun a v => minmaxV true a v.abs

/-- A non-zero finite value whose magnitude is below `2^k` (R42, R140). -/
def belowPow (v : Val) (k : Int) : Bool :=
  match v with
  | .fin _ m e => m != 0 && magLt m e 1 k
  | _ => false

/-- An encoded block: scale code, shift byte, element codes, underflows and overflows. -/
structure BlockRes where
  scale : Nat
  shift : Nat
  codes : List Nat
  under : Nat
  ovf : Nat
  deriving DecidableEq, Repr

/-- The down-shift of a sub-block with largest magnitude `a` at block exponent `e` (R41). -/
def downShift (max : Nat × Int) (e : Int) (a : Val) : Nat :=
  match a with
  | .fin _ m x =>
    if magLe m x max.1 (max.2 + e - 3) then 3
    else if magLe m x max.1 (max.2 + e - 2) then 2
    else if magLe m x max.1 (max.2 + e - 1) then 1
    else 0
  | _ => 0

/-- Element `i` of a list of draws. -/
def drawAt (draws : Option (List Nat)) (i : Nat) : Option Nat := draws.map fun l => l.getD i 0

/-- Encodes 32 values into a block (R37-R42; encode_block of spec/02_number_formats.md). `draws`
holds 32 draws where the gradient flag is set. -/
def encodeBlock (b : BFmt) (sat : Bool) (draws : Option (List Nat)) (xs : List Val) : BlockRes :=
  if xs.any (·.isNan) then ⟨0xFF, 0, xs.map fun _ => 0, 0, 0⟩
  else
    let infs := xs.any (·.isInf)
    let amax := maxMagV xs
    if !infs && amax.isZero then ⟨0, 0, xs.map fun x => b.elem.zeroCode x.neg, 0, 0⟩
    else
      let e : Int := if infs then 127 else
        match amax with
        | .fin _ m x => clampInt (-127) 127 (smallestE b.elem.maxMag m x)
        | _ => 127
      let d : List Nat := (List.range 4).map fun j =>
        if b.cascade && !infs then downShift b.elem.maxMag e (maxMagV ((xs.drop (8 * j)).take 8)) else 0
      let rs : List (Conv × Bool × Bool) := (List.range xs.length).map fun i =>
        let x := xs.getD i (.zero false)
        let y := x.scale (-(e - (d.getD (i / 8) 0 : Nat)))
        (convertVal b.elem sat (drawAt draws i) y, belowPow y b.elem.minNormal, x.isInf)
      ⟨(e + 127).toNat, d.getD 0 0 + 4 * d.getD 1 0 + 16 * d.getD 2 0 + 64 * d.getD 3 0,
        rs.map (·.1.code), rs.countP (·.2.1), rs.countP fun r => r.1.ovf || r.2.2⟩

/-- The block as one number in the layout of R34. -/
def BFmt.blockNat (b : BFmt) (r : BlockRes) : Nat :=
  r.scale + (if b.cascade then r.shift * 256 else 0) + 2 ^ b.hdr * pack b.width r.codes

/-! ### Random generators (R57, R154) -/

/-- A generator: key, counter, and the draws left of the last word (R154). -/
structure Gen where
  key : Word := 0
  ctr : Word := 0
  buf : List (BitVec 16) := []
  deriving DecidableEq, Repr

/-- The mixing function (R154). -/
def mix (x k : Word) : Word :=
  let x := x ^^^ k
  let x := (x ^^^ (x >>> 29)) * 0xD1A53C97B64E2F81#64
  let x := (x ^^^ (x >>> 32)) * 0x8E3BC5710A9D64C5#64
  x ^^^ (x >>> 29)

/-- A generator seeded for activation `act` of a unit (R154). -/
def Gen.seed (base : Word) (unit : BitVec 32) (act : Nat) : Gen :=
  { key := mix (base ^^^ unit.setWidth 64) (BitVec.ofNat 64 (act % 2 ^ 32)), ctr := 0, buf := [] }

/-- The next 64-bit word. -/
def Gen.word (g : Gen) : Word × Gen := (mix g.ctr g.key, { g with ctr := g.ctr + 1 })

/-- One 16-bit draw: each word provides four, low bits first. -/
def Gen.draw (g : Gen) : Nat × Gen :=
  match g.buf with
  | b :: r => (b.toNat, { g with buf := r })
  | [] =>
    let w := g.word
    ((w.1.extractLsb' 0 16).toNat,
      { w.2 with buf := [w.1.extractLsb' 16 16, w.1.extractLsb' 32 16, w.1.extractLsb' 48 16] })

/-- `n` draws in order. -/
def Gen.draws : Nat → Gen → List Nat × Gen
  | 0, g => ([], g)
  | n + 1, g =>
    let d := g.draw
    let r := Gen.draws n d.2
    (d.1 :: r.1, r.2)

/-- `n` words in order. -/
def Gen.words : Nat → Gen → List Word × Gen
  | 0, g => ([], g)
  | n + 1, g =>
    let d := g.word
    let r := Gen.words n d.2
    (d.1 :: r.1, r.2)

/-- The draws of a conversion of `n` elements: taken only with the gradient flag (R57). -/
def Gen.forConv (g : Gen) (grad : Bool) (n : Nat) : Option (List Nat) × Gen :=
  if grad then ((some (g.draws n).1), (g.draws n).2) else (none, g)

end Sys2Proof.Machine
end

