-- ==== Sys2Proof/Machine/StateArray.lean ====
section
/-! DEFINITION. State of the cluster arrays and their tiles, and of each partition's numerics block
(spec/03_spatial_array.md, 04_array_tiles.md, 05_training_numerics.md). Each field's default is its
reset value. -/

namespace Sys2Proof.Machine

/-- A notify target: a core and an object of the cluster (SWITCH_REQ, CTX_LOAD, region slots). -/
structure NoteRef where
  core : Nat
  obj : Nat
  deriving DecidableEq, Repr

/-- A rill token (R68): a data token or, with `data` false, an epoch marker. -/
structure Token where
  payload : BitVec 256
  data : Bool
  last : Bool
  pred : Bool
  epoch : BitVec 2
  deriving DecidableEq, Repr

/-- The marker of an epoch (R69). -/
def Token.marker (e : BitVec 2) : Token := ⟨0, false, true, false, e⟩

/-- ARRAY_STATUS.STATE. -/
inductive ArrState where
  | idle | running | switching | frozen
  deriving DecidableEq, Repr

/-- Slot states (R76). -/
inductive SlotState where
  | free | loading | loaded | active
  deriving DecidableEq, Repr

/-- A load in progress (R78). -/
structure CtxLoading where
  slot : Fin 4
  offset : Nat
  note : Option NoteRef
  deriving DecidableEq, Repr

/-- The pending switch request (R85); `launch` is a tide switch's launch on the cluster's local tide, its stagger added
(R87). -/
structure PendSwitch where
  slot : Fin 4
  launch : Option Word
  note : Option NoteRef
  deriving DecidableEq, Repr

/-- A switch under way (a wavefront, R82, R83) or a held forced switch (R85). -/
structure Switching where
  slot : Fin 4
  note : Option NoteRef
  deriving DecidableEq, Repr

/-- The array control block of a cluster and what lies behind it (R80-R94). -/
structure ArrRec where
  /-- STATE; reset IDLE -/
  state : ArrState := .idle
  /-- state before a freeze (R94); reset none held, IDLE -/
  prior : ArrState := .idle
  /-- ACTIVE_SLOT; reset 0 -/
  active : Fin 4 := 0
  /-- EPOCH; reset 0 -/
  epoch : BitVec 2 := 0
  /-- PENDING_VALID and PENDING_SLOT with the request's fields; reset none -/
  pend : Option PendSwitch := none
  /-- LATE; reset 0 -/
  late : Bool := false
  /-- FREEZE_CAUSE; reset 0 -/
  cause : BitVec 2 := 0
  /-- SLOT_STATE; reset FREE in every slot -/
  slots : Vector SlotState 4 := Vector.replicate 4 .free
  /-- LOAD_STATUS; reset 0x00 -/
  loadStatus : Byte := 0
  /-- SWITCH_STATUS; reset 0x00 -/
  switchStatus : Byte := 0
  /-- CMD_STATUS; reset 0x00 -/
  cmdStatus : Byte := 0
  /-- the load in progress; reset none -/
  load : Option CtxLoading := none
  /-- a forced switch held on a LOADING target (R85); reset none -/
  held : Option Switching := none
  /-- the wavefront in progress (R82, R83); reset none -/
  wave : Option Switching := none
  /-- STALL_LIMIT.LIMIT in µs; reset 1000 -/
  stallLimit : BitVec 32 := 1000
  /-- DISCARD_COUNT with EXT; reset 0 -/
  discard : Word := 0
  /-- when a token last moved, in half nanoseconds (R91); reset 0 -/
  moved : Nat := 0
  deriving DecidableEq, Repr

/-- A tile's routing state and stages (R70-R72, R81). -/
structure TileRec where
  /-- the tile's active slot; reset 0 -/
  slot : Fin 4 := 0
  /-- the tile has an active context; reset 0 -/
  on : Bool := false
  /-- the tile's active epoch; reset 0 -/
  epoch : BitVec 2 := 0
  /-- input queues N, E, S, W of up to 4 tokens; reset empty -/
  inq : Vector (List Token) 4 := Vector.replicate 4 []
  /-- pass-through register of each output; reset empty -/
  pass : Vector (Option Token) 4 := Vector.replicate 4 none
  /-- credits held per output; reset 4 -/
  credits : Vector Nat 4 := Vector.replicate 4 4
  /-- tokens removed per input whose credit is still to return; reset 0 -/
  owed : Vector Nat 4 := Vector.replicate 4 0
  /-- result tokens not yet sent, result 0 and 1; reset empty -/
  res : Vector (List Token) 2 := Vector.replicate 2 []
  /-- the tile has switched in the current wavefront; reset 0 -/
  switched : Bool := false
  /-- a source tile's output stream is running (R82); reset 0 -/
  stream : Bool := false
  /-- TOKENS_IN since activation; reset 0 -/
  tokIn : BitVec 48 := 0
  /-- TOKENS_OUT since activation; reset 0 -/
  tokOut : BitVec 48 := 0
  deriving DecidableEq, Repr

/-- A stationary chunk: its header tokens and element tokens, two per row (R98, R102). -/
structure Chunk where
  hdrs : List (BitVec 256) := []
  elems : List (BitVec 256) := []
  deriving DecidableEq, Repr

/-- An exact partial dot on its way to `acc[n][m]` (R101). -/
structure Flying where
  n : Nat
  m : Nat
  dot : Exact
  deriving DecidableEq, Repr

/-- A row slot waiting to drain in a job's last pass (R103). -/
structure Drain where
  m : Nat
  pred : Bool
  last : Bool
  deriving DecidableEq, Repr

/-- Multiplier state (R100-R107). -/
structure MulRec where
  /-- accumulators acc[n][m] by n * 64 + m; reset 0 -/
  acc : SMap (BitVec 32) := []
  /-- the stationary chunk in use; reset none -/
  cur : Option Chunk := none
  /-- the chunk being loaded; reset empty -/
  shadow : Chunk := {}
  /-- element tokens of the streamed row taken so far; reset empty -/
  aRow : List (BitVec 256) := []
  /-- PRED of the last A token taken; reset 0 -/
  aPred : Bool := false
  /-- header token of the current group of A; reset 0 -/
  aHdr : BitVec 256 := 0
  /-- group of A whose header was taken in this pass, counted from 1; reset 0 -/
  aGroups : Nat := 0
  /-- ROW; reset 0 -/
  row : Nat := 0
  /-- issue cycle within the row; reset 0 -/
  pos : Nat := 0
  /-- PASS; reset 0 -/
  pass : Nat := 0
  /-- the first job of the context is running (R104 ACC_INIT 2); reset 1 -/
  first : Bool := true
  /-- partial dots not yet accumulated, oldest first; reset empty -/
  flying : List Flying := []
  /-- rows waiting to drain; reset empty -/
  drains : List Drain := []
  /-- DRAIN_ROW; reset 0 -/
  drainRow : Nat := 0
  /-- ISSUE_CYCLES; reset 0 -/
  issues : BitVec 48 := 0
  /-- SAT_EVENTS; reset 0 -/
  satEvents : BitVec 32 := 0
  /-- cycle of the last issue in the 64-cycle issue ramp, 64 when the ramp is over (R105); reset 0 -/
  ramp : Nat := 0
  /-- when the issue ramp began, in half nanoseconds, none before one (R105); reset none -/
  rampFrom : Option Nat := none
  /-- time of the last issue in half nanoseconds, none before one or since RESUME (R105); reset none -/
  lastIssue : Option Nat := none
  deriving DecidableEq, Repr

/-- Special-function state (R108-R121, R140, R154). -/
structure SfRec where
  /-- random generator; reset key 0, counter 0 -/
  gen : Gen := {}
  /-- seeding count ACT; reset 0 -/
  act : Nat := 0
  /-- histogram bins by number; reset 0 -/
  bins : SMap Nat := []
  /-- ELEMENTS; reset 0 -/
  elements : BitVec 48 := 0
  /-- ROW_TOKENS; reset 0 -/
  rowTokens : BitVec 16 := 0
  /-- elements taken in the current row; reset 0 -/
  rowElems : Nat := 0
  /-- lane partials of a reduction, FP32 codes by lane (R112); reset 0 -/
  partials : SMap (BitVec 32) := []
  /-- STAT0; reset 0 -/
  stat0 : BitVec 32 := 0
  /-- STAT1; reset 0 -/
  stat1 : BitVec 32 := 0
  /-- STAT2; reset 0 -/
  stat2 : BitVec 32 := 0
  /-- a row has ended with this PRED and its statistics token is due; reset none -/
  due : Option Bool := none
  /-- the statistics or scale token of the current row (R114, R139); reset none -/
  rowTok : Option Token := none
  /-- SAT_EVENTS; reset 0 -/
  satEvents : BitVec 32 := 0
  /-- NAN_MADE; reset 0 -/
  nanMade : BitVec 32 := 0
  /-- result element codes not yet filling a token, or values not yet filling a block; reset empty -/
  outBuf : List Nat := []
  outVals : List Val := []
  /-- encoded blocks of the current group, waiting for its header token (R98); reset empty -/
  group : List BlockRes := []
  /-- header token of the input group and the blocks taken since the segment began; reset 0 -/
  inHdr : BitVec 256 := 0
  inBlocks : Nat := 0
  /-- header tokens taken since the segment began; reset 0 -/
  inGroups : Nat := 0
  /-- tokens left of a RANDOM stream (R118); reset 0 -/
  count : Nat := 0
  deriving DecidableEq, Repr

/-- Memory-tile state (R122-R126); the slots themselves are space 0x3. -/
structure MemTileRec where
  /-- RD_PTR; reset 0 -/
  rd : Nat := 0
  /-- WR_PTR; reset 0 -/
  wr : Nat := 0
  /-- FILL; reset 0 -/
  fill : Nat := 0
  /-- REPEAT_DONE; reset 0 -/
  reps : Nat := 0
  /-- OOR_COUNT; reset 0 -/
  oor : BitVec 32 := 0
  /-- tags (LAST, PRED, EPOCH) of stored FIFO tokens, oldest first; reset empty -/
  tags : List (Bool × Bool × BitVec 2) := []
  /-- the address token being worked on and its next entry (R122 ADDRESSED); reset none -/
  addr : Option (Token × Nat) := none
  deriving DecidableEq, Repr

/-- I/O tile state (R127-R132). -/
structure IoRec where
  /-- random generator; reset key 0, counter 0 -/
  gen : Gen := {}
  /-- seeding count ACT; reset 0 -/
  act : Nat := 0
  /-- IN_ROW; reset 0 -/
  inRow : Nat := 0
  /-- next token of the inbound row; reset 0 -/
  inTok : Nat := 0
  /-- tokens emitted in this repetition; reset 0 -/
  inRepTok : Nat := 0
  /-- IN_REP; reset 0 -/
  inRep : Nat := 0
  /-- rows read since activation, and gate groups opened (R128); reset 0 -/
  inRows : Nat := 0
  opened : Nat := 0
  /-- OUT_ROW; reset 0 -/
  outRow : Nat := 0
  /-- OUT_REP; reset 0 -/
  outRep : Nat := 0
  /-- elements and bytes of the outbound row written so far; reset 0 -/
  outElems : Nat := 0
  outBytes : Nat := 0
  /-- values waiting to fill a block; header and blocks of a split block stream; reset empty -/
  outVals : List Val := []
  outHdr : BitVec 256 := 0
  outBlocks : Nat := 0
  outGroups : Nat := 0
  /-- rows fully issued since activation, and notifications made (R129); reset 0 -/
  outRows : Nat := 0
  notified : Nat := 0
  /-- row numbers of the writes issued and not yet complete (OUT_PENDING is its length); reset empty -/
  outstanding : List Nat := []
  /-- a token waiting for a channel credit (CREDIT_WAIT); reset none -/
  creditWait : Option Token := none
  /-- when that wait began; reset 0 -/
  creditFrom : Nat := 0
  /-- LAST_STATUS; reset 0x00 -/
  lastStatus : Byte := 0
  deriving DecidableEq, Repr

/-- All arrays of the module, by cluster, tile and slot. -/
structure Arrays where
  /-- array control blocks by cluster -/
  recs : SMap ArrRec := []
  /-- tiles by cluster * 32 + tile -/
  tiles : SMap TileRec := []
  /-- context store: the 1,024-byte records by (cluster * 32 + tile) * 4 + slot (R75, R77); reset empty -/
  store : SMap (BitVec 8192) := []
  muls : SMap MulRec := []
  sfs : SMap SfRec := []
  mems : SMap MemTileRec := []
  ios : SMap IoRec := []
  deriving DecidableEq, Repr

/-! ### Partition numerics -/

/-- The NaN record (R59); reset 0 with VALID 0. -/
structure NanRecord where
  unit : BitVec 32 := 0
  source : BitVec 4 := 0
  format : BitVec 5 := 0
  cause : BitVec 4 := 0
  trapped : Bool := false
  valid : Bool := false
  location : Word := 0
  tide : Word := 0
  deriving DecidableEq, Repr

/-- Region slot states (R148). -/
inductive RegionState where
  | free | opened | closing | committed | aborted
  deriving DecidableEq, Repr

/-- A region slot (R148); reset FREE with every field 0. -/
structure RegionSlot where
  state : RegionState := .free
  attempt : Fin 8 := 0
  format : BitVec 5 := 0
  tag : BitVec 16 := 0
  nextFormat : BitVec 5 := 0
  action : BitVec 2 := 0
  cmdStatus : Byte := 0
  overflows : BitVec 32 := 0
  firstUnit : BitVec 32 := 0
  underflows : BitVec 48 := 0
  /-- the OPEN's EARLY target, in the cluster that wrote it (R148) -/
  early : Option (Cl × NoteRef) := none
  /-- the pending CLOSE's notify target and the time CLOSING began -/
  closeNote : Option (Cl × NoteRef) := none
  closeAt : Nat := 0
  /-- the unit of the core that wrote the last command -/
  byUnit : BitVec 32 := 0
  deriving DecidableEq, Repr

/-- What stops when a recorded NaN traps (R61). -/
inductive NanUnit where
  | ctx (x : CtxId)
  | tile (t : TileId)
  | basin (c : Cl)
  deriving DecidableEq, Repr

/-- A produced-NaN report on its way to its partition (R60); `n` result elements. -/
structure NanReport where
  part : Fin 64
  who : NanUnit
  unit : BitVec 32
  source : BitVec 4
  format : BitVec 5
  cause : BitVec 4
  location : Word
  tide : Word
  n : Nat
  deriving DecidableEq, Repr

/-- An overflow or BLOCK_UNDERFLOW report on its way (R143, R145): the unit, the REGION value at
the moment, how many elements, and when it was made, in half nanoseconds. -/
structure CountReport where
  part : Fin 64
  unit : BitVec 32
  region : BitVec 5
  n : Nat
  made : Nat
  deriving DecidableEq, Repr

/-- A partition's numerics block (R134, R135). -/
structure NumBlock where
  /-- NAN_RECORD; reset 0 -/
  nan : NanRecord := {}
  /-- NAN_COUNT, NAN_LOST, BLOCK_UNDERFLOW, OVERFLOW_COUNT, LATE_REPORTS; reset 0 -/
  nanCount : Word := 0
  nanLost : Word := 0
  blockUnderflow : Word := 0
  overflowCount : Word := 0
  lateReports : Word := 0
  /-- NUM_POLICY: NAN_TRAP reset 0, REPEAT_MAX 2, SEED_MODE 0, CORE_SENTINEL 1 -/
  nanTrap : Bool := false
  repeatMax : Fin 8 := 2
  seedMode : Bool := false
  coreSentinel : Bool := true
  /-- SEED_BASE; drawn at creation (R136) -/
  seedBase : Word := 0
  /-- the value NUM_SET last wrote since the partition was created (R156); reset none -/
  seedSet : Option Word := none
  /-- UNDERFLOW_STEP; reset 0x0100_0000 -/
  underflowStep : Word := 0x01000000
  /-- region slots; reset FREE -/
  slots : Vector RegionSlot 16 := Vector.replicate 16 {}
  /-- time BLOCK_UNDERFLOW_HIGH was last posted, and crossings merged since with the unit of the last
  (R146) -/
  highAt : Option Nat := none
  crossings : Nat := 0
  highUnit : BitVec 32 := 0
  deriving DecidableEq, Repr

/-- Numerics of every partition, the reports on their way, and the clusters' REGION registers. -/
structure Numerics where
  blocks : SMap NumBlock := []
  nans : List NanReport := []
  overflows : List CountReport := []
  underflows : List CountReport := []
  /-- REGION by cluster (R144); reset 0x1F -/
  region : SMap (BitVec 5) := []
  deriving DecidableEq, Repr

end Sys2Proof.Machine
end

