-- ==== Sys2Proof/Machine/StateCore.lean ====
section
/-! DEFINITION. State of the cores and their contexts, and of memory: SRAM, stacks, host memory,
pages, their zeroing and their error records (spec/06_cores.md, 07_memory.md). Each field's default
is its reset value. -/

namespace Sys2Proof.Machine

/-- CTX_STATUS.STATE (R176). -/
inductive CtxState where
  | idle | ready | waiting | stopped
  deriving DecidableEq, Repr

/-- A WAIT not yet complete (R160, R262): its object, comparison code, value, deadline (none for 0)
and destination register. -/
structure WaitRec where
  core : Nat
  obj : Nat
  cond : Nat
  value : BitVec 32
  deadline : Option (BitVec 32)
  rd : Reg
  deriving DecidableEq, Repr

/-- A channel send or a pump submission that waits (R161, R246). -/
inductive HeldOp where
  | send (ep : Fin 256) (payload : BitVec 256) (rd : Reg)
  | submit (ch : ChanId) (desc : List Byte)
  deriving DecidableEq, Repr

/-- A run-ahead entry (R173, R175): a 64-byte line address, its request, and its data once filled. -/
structure RaEntry where
  addr : Word
  req : Nat
  data : Option (List Byte)
  filled : Nat
  deriving DecidableEq, Repr

/-- A hardware context (R158, R176). -/
structure CtxRec where
  /-- STATE; reset IDLE -/
  state : CtxState := .idle
  /-- WAIT_KIND; reset 0 -/
  waitKind : BitVec 2 := 0
  /-- WAIT_TARGET; reset 0 -/
  waitTarget : BitVec 10 := 0
  /-- IN_TRAP; reset 0 -/
  inTrap : Bool := false
  /-- a trap has been recorded since the context last ran (R171: only the first failing access is) -/
  trapped : Bool := false
  /-- RUNAHEAD; reset 0 -/
  runahead : Bool := false
  /-- CMD_STATUS; reset 0x00 -/
  cmdStatus : Byte := 0
  /-- CTX_PC; reset 0 -/
  pc : BitVec 48 := 0
  /-- TRAP_VECTOR; reset 0 -/
  vector : BitVec 48 := 0
  /-- TRAP_CAUSE: CAUSE, STATUS, FORMAT; reset 0 -/
  cause : Byte := 0
  causeStatus : Byte := 0
  causeFormat : BitVec 5 := 0
  /-- TRAP_PC; reset 0 -/
  trapPc : BitVec 48 := 0
  /-- TRAP_ADDR; reset 0 -/
  trapAddr : Word := 0
  /-- x0–x31 (x0 reads 0); reset 0 -/
  x : Vector Word 32 := Vector.replicate 32 0
  /-- f0–f31; reset 0 -/
  f : Vector Word 32 := Vector.replicate 32 0
  /-- v0–v31; reset 0 -/
  v : Vector (BitVec 256) 32 := Vector.replicate 32 0
  /-- m0–m7 (m0 reads all ones); reset 0 -/
  m : Vector (BitVec 32) 8 := Vector.replicate 8 0
  /-- the WAIT in progress; reset none -/
  wait : Option WaitRec := none
  /-- the send or submission in progress; reset none -/
  held : Option HeldOp := none
  /-- when WAITING began (WAIT_CYCLES); reset 0 -/
  waitFrom : Nat := 0
  /-- run-ahead entries, at most 8; reset empty -/
  entries : List RaEntry := []
  /-- the load that run-ahead waits for (R173); reset none -/
  raLoad : Option Nat := none
  /-- shadow register copy of run-ahead, unknown registers none; reset none -/
  shadow : Option (Vector (Option Word) 32) := none
  /-- return stack, newest first, at most 8; reset empty -/
  rets : List (BitVec 48) := []
  deriving DecidableEq, Repr

/-- A core (R169, R170, R176, R182, R184, R496). -/
structure CoreRec where
  /-- PHASE_HINT.HINT; reset 0 -/
  hint : BitVec 5 := 0
  /-- TRAP_NOTIFY: OBJECT and NOTIFY; reset 0 -/
  noteObj : BitVec 5 := 0
  note : Bool := false
  /-- ISSUED, RUNAHEAD_ISSUED, RUNAHEAD_USED, RUNAHEAD_DISCARDED, ICACHE_MISSES, WAIT_CYCLES; reset 0 -/
  issued : Word := 0
  raIssued : Word := 0
  raUsed : Word := 0
  raDiscarded : Word := 0
  icMisses : Word := 0
  waitCycles : Word := 0
  /-- branch predictor counters by index; reset 1 -/
  predictor : SMap (BitVec 2) := []
  /-- random generator; reset key 0, counter 0 -/
  gen : Gen := {}
  /-- seeding count; reset 0 -/
  act : Nat := 0
  /-- line addresses held by the instruction cache; reset empty -/
  lines : List Nat := []
  /-- those of them that hold a parity error (R182); reset empty -/
  badLines : List Nat := []
  deriving DecidableEq, Repr

/-- All cores and contexts, by number. -/
structure Cores where
  /-- contexts by (cluster * 32 + core) * 4 + context -/
  ctxs : SMap CtxRec := []
  /-- cores by cluster * 32 + core -/
  cores : SMap CoreRec := []
  deriving DecidableEq, Repr

/-! ### Memory -/

/-- A memory error block (R201); reset 0. -/
structure MemErr where
  corrected : Word := 0
  uncorrected : Word := 0
  lastAddr : Word := 0
  lastMem : BitVec 2 := 0
  lastUncorr : Bool := false
  deriving DecidableEq, Repr

/-- A 1 GiB stack page (R192, R194-R196): who holds it, whether it is dry, its zeroing watermark in
4 KiB granules (262144 when zeroing is done), and its ahead list. -/
structure PageRec where
  holder : Option (Fin 64) := none
  /-- partition page it backs -/
  index : Nat := 0
  dry : Bool := false
  mark : Nat := 262144
  ahead : List Nat := []
  /-- the rekeying causes that wait for it, by number (WIPE_DONE, R195) -/
  jobs : List Nat := []
  deriving DecidableEq, Repr

/-- What a set of pages was rekeyed for (R195, WIPE_DONE detail of R372). -/
structure WipeJob where
  id : Nat
  part : Option (Fin 64)
  cause : Nat
  pages : Nat
  left : Nat
  deriving DecidableEq, Repr

/-- Memory of the module and of the host. -/
structure MemState where
  /-- spaces 0x1–0x3, by space * 2^38 + low 38 address bits; unlisted bytes read 0 (R390) -/
  sram : Memory := []
  /-- stacks, by n * 2^36 + physical address; unlisted bytes read 0 (R390) -/
  stack : Memory := []
  /-- how the host completes accesses to a 4 KiB page of I/O addresses (R190); reset success -/
  hostErr : SMap Config.HostCpl := []
  /-- host memory by I/O address; unlisted bytes read 0 (a model's choice) -/
  host : Memory := []
  /-- error state of 8-byte SRAM units and 32-byte stack halves: 1 correctable, 2 uncorrectable;
  reset 0 -/
  sramErr : SMap Nat := []
  stackErr : SMap Nat := []
  /-- pages by stack * 64 + physical page -/
  pages : SMap PageRec := []
  /-- zeroing order of each stack: pages, oldest first; reset empty -/
  zeroing : SMap (List Nat) := []
  /-- rekeying causes not yet complete; reset empty -/
  jobs : List WipeJob := []
  nextJob : Nat := 1
  /-- memory error blocks by cluster and by stack; reset 0 -/
  clErr : SMap MemErr := []
  stErr : SMap MemErr := []
  /-- CXL.mem writes that wait for a zeroing watermark, by port and device address, oldest first (R196); reset none -/
  cxlHeld : List (Fin 2 × Nat × BitVec 512) := []
  /-- CXL.mem slices: mapped partition and its page (R210); reset unmapped -/
  slices : SMap (Option (Fin 64 × Nat)) := []
  /-- HDM_UNMAPPED (R210); reset 0 -/
  hdmUnmapped : Word := 0
  /-- page keys: the free-page key and each partition's, never readable (R194) -/
  freeKey : BitVec 64 := 0
  keys : SMap (BitVec 64) := []
  deriving DecidableEq, Repr

end Sys2Proof.Machine
end

