-- ==== Sys2Proof/Machine/StateNet.lean ====
section
/-! DEFINITION. State of the mesh and its requests, the pumps, and synchronisation: objects,
barriers, channels, basins and fountains (spec/08_mesh.md, 09_pumps.md,
10_sync_and_channels.md). Each field's default is its reset value. -/

namespace Sys2Proof.Machine

/-! ### Requests (R216-R218, R238) -/

/-- What a request asks of its target: TYPE and OP of R217. -/
inductive ReqKind where
  | read
  | write
  | atomic (op : Nat)
  | object (op : Nat)
  | message
  deriving DecidableEq, Repr

/-- What the requester does with the answer. -/
inductive Use where
  /-- `entry`: the load takes bytes `off` to `off + n - 1` of a run-ahead read's line (R175) -/
  | load (dst : MemReg) (signed : Bool) (pc : BitVec 48) (entry : Option (Nat × Nat))
  | blockLoad (vd : Reg) (blk dst : BitVec 5) (sat : Bool) (pc : BitVec 48) (addr : Word) (half : Option (List Byte))
  | store (pc : BitVec 48)
  | atomic (rd : Reg) (wide : Bool) (pc : BitVec 48)
  | object (rd : Reg)
  | runahead
  | chOpen (ep : Fin 256) (rd : Reg)
  /-- `conn`: the connection it was sent on -/
  | send (ep : Fin 256) (cls : Bool) (seq : BitVec 16) (rd : Option Reg) (conn : Nat)
  | credit (ep : Fin 256)
  | close (ep : Fin 256)
  | pumpRead (ch : ChanId) (serial u off : Nat)
  | pumpIndex (ch : ChanId) (serial first : Nat)
  | pumpWrite (ch : ChanId) (serial u off : Nat)
  | ioWrite (row : Nat)
  | host (fn : FnId) (q : Fin 4) (tag : BitVec 16)
  | remote
  /-- a PENDING notice for request `id` (R239) -/
  | pending (id : Nat)
  | drop
  deriving DecidableEq, Repr

/-- Where a transaction stands: held at injection (R214, R233), a request under way, accepted at its
target, a reply under way, its reply at the requester, or
lost in the mesh (R214, R237). -/
inductive Phase where
  | inject
  | going
  | there
  | back (status : Byte) (data : List Byte)
  | home (status : Byte) (data : List Byte)
  | lost
  deriving DecidableEq, Repr

/-- A request and its one reply (R216, R217). `src` and `dst` are routers, `out` and `adapter` the adapter beyond
`dst`, by its stack; `pos` is the router that holds the packet, `port` the input port whose buffer holds it there
(0-3 N, E, S, W, 4 local), `since` when it came there. -/
structure Xact where
  id : Nat
  who : Requester
  part : Option (Fin 64)
  kind : ReqKind
  addr : Word
  /-- stack and physical address of a space 0x0 access, as translated at issue (R192) -/
  phys : Option (Fin 48 × Nat)
  len : Nat
  data : List Byte
  operand : Word
  sat : Bool
  ra : Bool
  epoch : BitVec 2
  src : Cl
  dst : Cl
  out : Bool
  adapter : Option (Fin 48) := none
  pos : Cl
  port : Fin 5 := 4
  vc1 : Bool
  /-- TAG of the requesting unit (R217) -/
  tag : BitVec 10 := 0
  since : Nat
  phase : Phase
  resent : Bool
  timer : Option Nat
  /-- the requester has already completed with TIMEOUT (R240) -/
  dead : Bool
  /-- a message that has been sent again once (R277) -/
  again : Bool
  /-- the unit that issued it was reset or started again: its reply fills no register, buffer or entry and traps
  nothing (R183, R256, R258) -/
  orphaned : Bool := false
  use : Use
  deriving DecidableEq, Repr

/-! ### Routes and dry units (R219-R221, R231, R233) -/

/-- What every router's bank of one route epoch says (R219), as Atbin wrote it: the UNREACHABLE routers by cluster
number, the lost crossings by ((wafer * 2 + axis) * 128 + edge index) of the transmitting side (R220, R230), and the
root of the spanning tree of the second virtual channel. A router's entries are read off it by `bankEntry`. -/
structure Bank where
  dead : List Nat := []
  lost : List Nat := []
  root : Option Cl := none
  deriving DecidableEq, Repr

/-- Phases of a route epoch change (R233). -/
inductive EpochStage where
  | none
  | computing
  | loaded (launch : Nat)
  | draining (since : Nat)
  deriving DecidableEq, Repr

/-- The units that are dry (R231); reset none but those fused or found at bring-up. -/
structure DryMap where
  /-- cluster state: 0 LIVE, 1 COMPUTE_DRY, 2 ROUTER_DEAD, 3 DARK -/
  clusters : SMap (Fin 4) := []
  /-- dry cores by cluster * 32 + core, and dry tiles by cluster * 32 + tile -/
  cores : SMap Bool := []
  tiles : SMap Bool := []
  ocsal : BitVec 16 := 0
  cxl : BitVec 2 := 0
  stk : BitVec 48 := 0
  /-- lanes by (wafer * 2 + axis) * 256 + lane -/
  lanes : SMap Bool := []
  /-- clusters that the map shows as wellheads (R231, R232) -/
  wells : List Nat := []
  /-- what a cluster of a DARK field was before its field went dark (R3, R400) -/
  beneath : SMap (Fin 4) := []
  deriving DecidableEq, Repr

/-- Router counters (R241); reset 0. -/
structure RouterCtr where
  discarded : Word := 0
  flitErrors : Word := 0
  laneRetries : Word := 0
  staleAnswered : Word := 0
  lateReplies : Word := 0
  pendingSent : Word := 0
  deriving DecidableEq, Repr

/-- A fountain of a partition (R225): members, the root first chosen by Atbin. -/
structure Fountain where
  root : Cl
  members : List Cl
  deriving DecidableEq, Repr

/-- A fountain value on its way to one member (R227). -/
structure FVal where
  send : Nat
  part : Fin 64
  f : Fin 16
  off : Nat
  value : Word
  member : Cl
  deriving DecidableEq, Repr

/-- A fountain send not yet complete (R227). -/
structure FSend where
  id : Nat
  part : Fin 64
  f : Fin 16
  src : Cl
  core : Fin 24
  note : Option NoteRef
  left : Nat
  worst : Byte
  failed : Nat
  deriving DecidableEq, Repr

/-- Fountain send registers of a core (R226); reset 0. -/
structure FReg where
  value : Word := 0
  status : Byte := 0
  inFlight : Bool := false
  failed : BitVec 16 := 0
  deriving DecidableEq, Repr

/-- The mesh. -/
structure Net where
  /-- transactions, those in the mesh in the order they came to the buffers that hold them; reset none -/
  xacts : List Xact := []
  /-- round-robin turns: the input port whose turn it is, by (router * 5 + output port) * 4 + virtual channel (R215);
  reset port 0 -/
  turns : SMap (Fin 5) := []
  /-- when an output port's last granted packet has left, by router * 5 + port (R215); reset 0 -/
  outFree : SMap Nat := []
  nextId : Nat := 1
  /-- full route epoch count (R231) and the tide it became current; reset 0 -/
  routeEpoch : Nat := 0
  epochTide : Word := 0
  cur : Bank := {}
  standby : Option Bank := none
  stage : EpochStage := .none
  /-- a fault waits for the next change (R235); reset 0 -/
  again : Bool := false
  /-- requests are held at injection (R233 step 5); reset 0 -/
  paused : Bool := false
  /-- units dry now, and the map as last published at a route epoch (R232) -/
  dry : DryMap := {}
  published : DryMap := {}
  /-- the map of the route epoch that the change under way will make current (R233) -/
  coming : DryMap := {}
  /-- routers that have failed, links lost (R237) -/
  deadRouters : SMap Bool := []
  counters : SMap RouterCtr := []
  /-- spare lanes in use by (wafer * 2 + axis) * 16 + group: the lane stood in for, and whether the
  spare is in service (R229) -/
  spares : SMap (Option (Nat × Bool)) := []
  /-- when a spare in training comes into service, by the same number (R229 step 3) -/
  spareAt : SMap Nat := []
  /-- control-plane crossings lost by ((wafer * 2 + axis) * 128 + edge index) (R230) -/
  busLost : SMap Bool := []
  fountains : SMap (Option Fountain) := []
  fvals : List FVal := []
  fsends : List FSend := []
  nextSend : Nat := 1
  /-- fountain registers by cluster * 32 + core -/
  fregs : SMap FReg := []
  deriving DecidableEq, Repr

/-! ### Pumps (R242-R258) -/

/-- CH_STATUS.STATE (R257). -/
inductive ChanState where
  | idle | running | halted
  deriving DecidableEq, Repr

/-- A read that failed, by unit and offset: its status, and of one made ahead whose error nothing has reported yet, its
address and bytes (R254). -/
structure BadRead where
  u : Nat
  off : Nat
  st : Byte
  quiet : Option (Word × Nat)
  deriving DecidableEq, Repr

/-- A descriptor in a channel: its 512 bits and how far it is. Reads are issued up to (`rdU`,
`rdOff`), writes up to (`wrU`, `wrOff`); `buf` holds read data by unit and offset, `idx` the index
values read, `carry` the bytes of the write packet being built. -/
structure Desc where
  serial : Nat
  raw : BitVec 512
  part : Fin 64
  started : Bool := false
  rdU : Nat := 0
  rdOff : Nat := 0
  idxBytes : Nat := 0
  idx : SMap (Option (BitVec 64)) := []
  buf : List (Nat × Nat × List Byte) := []
  bad : List BadRead := []
  wrU : Nat := 0
  wrOff : Nat := 0
  carry : List Byte := []
  writes : Nat := 0
  reads : Nat := 0
  halted : Bool := false
  /-- dropped by RESTART; it leaves once its writes are out (R256) -/
  dropped : Bool := false
  noteSent : Bool := false
  deriving DecidableEq, Repr

/-- A pump channel (R257). -/
structure ChanRec where
  /-- PRIORITY; reset 0 -/
  priority : BitVec 2 := 0
  /-- STATE; reset IDLE -/
  state : ChanState := .idle
  /-- queued descriptors, the running ones first; reset empty -/
  queue : List Desc := []
  lastStatus : Byte := 0
  lastTag : BitVec 16 := 0
  failTag : BitVec 16 := 0
  /-- the descriptor that FAIL_TAG and FAIL_POS tell of, by serial -/
  failSerial : Nat := 0
  cmdStatus : Byte := 0
  failUnit : BitVec 32 := 0
  failByte : BitVec 32 := 0
  /-- COMPLETED; reset 0 -/
  completed : Word := 0
  /-- partition a stack pump channel is bound to; reset unbound (R244) -/
  owner : Option (Fin 64) := none
  /-- when it last took a beat or got work ready (R253); reset 0 -/
  waitSince : Nat := 0
  deriving DecidableEq, Repr

/-- Pump-wide counters (R257); reset 0. -/
structure PumpCtr where
  bytesMoved : Word := 0
  raReads : Word := 0
  raDiscarded : Word := 0
  /-- channel that took the last beat (round-robin, R253) -/
  last : Nat := 0
  /-- channel that issued the last read (turns among equal PRIORITY, log 151) -/
  lastRead : Nat := 0
  deriving DecidableEq, Repr

/-- The pumps. -/
structure Pumps where
  /-- channels: cluster * 16 + channel, or 2^30 + stack * 16 + channel -/
  chans : SMap ChanRec := []
  /-- pumps: cluster, or 2^26 + stack -/
  ctrs : SMap PumpCtr := []
  nextSerial : Nat := 1
  deriving DecidableEq, Repr

/-! ### Synchronisation (R259-R287) -/

/-- Who made an engine notification, where a failure is recorded (R494). -/
inductive NoteBy where
  | none
  | pump (ch : ChanId) (serial : Nat) (part : Fin 64)
  | io (t : TileId)
  deriving DecidableEq, Repr

/-- An engine notification on its way to an object (R261, R494). -/
structure Note where
  c : Cl
  ref : NoteRef
  add : BitVec 32
  by_ : NoteBy
  deriving DecidableEq, Repr

/-- Endpoint states (R270). -/
inductive EpState where
  | closed | listening | opening | opened | peerClosed | broken | basin
  deriving DecidableEq, Repr

/-- A basin's settings and counts (R281, R284). -/
structure Basin where
  format : BitVec 5
  max : Bool
  sat : Bool
  chunks : Nat
  target : BitVec 32
  count : BitVec 32
  done : Bool
  deriving DecidableEq, Repr

/-- An endpoint (R270, R271, R274, R285). -/
structure EpRec where
  state : EpState := .closed
  /-- MODE: class-separated; reset 0 -/
  split : Bool := false
  contributor : Bool := false
  creditsReq : Nat := 0
  creditsRsp : Nat := 0
  /-- queue offset in bytes; reset 0 -/
  queue : Nat := 0
  note : Option NoteRef := none
  cmdStatus : Byte := 0
  /-- EP_PEER of a channel or contributor; reset 0 -/
  peer : Word := 0
  sndReq : BitVec 16 := 0
  rcvReq : BitVec 16 := 0
  sndRsp : BitVec 16 := 0
  rcvRsp : BitVec 16 := 0
  /-- sequence numbers of the messages held, by slot -/
  slots : SMap (Option (BitVec 16)) := []
  /-- generation of the connection; reset 0 -/
  gen : BitVec 32 := 0
  /-- the model's own: which connection of the endpoint it is, by the request that opened it; reset 0 -/
  conn : Nat := 0
  basin : Option Basin := none
  /-- contributor: CURSOR, and the basin's CHUNKS and format -/
  cursor : Nat := 0
  chunks : Nat := 0
  format : BitVec 5 := 0
  /-- slots freed and not yet returned, by class, and when the earliest was freed (R276) -/
  freedReq : Nat := 0
  freedRsp : Nat := 0
  freedAt : Option Nat := none
  /-- units that wait for a credit, oldest first -/
  waiting : List Waiter := []
  deriving DecidableEq, Repr

/-- A contribution at the combiner (R282, R283). -/
structure Contribution where
  ep : Fin 256
  chunk : Nat
  data : List Byte
  gen : BitVec 32
  deriving DecidableEq, Repr

/-- A barrier's settings and state in one cluster (R264, R285). -/
structure BarRec where
  expected : Nat := 0
  stagger : Bool := false
  core : Nat := 0
  obj : Nat := 0
  valid : Bool := false
  lead : BitVec 16 := 0
  generation : BitVec 16 := 0
  arrived : Nat := 0
  held : Bool := false
  lastStatus : Byte := 0
  /-- its arrival for the generation in progress has been sent -/
  sent : Bool := false
  /-- a release waiting for its launch: full tide of L plus stagger, and the status (R267) -/
  release : Option (Word × Byte) := none
  deriving DecidableEq, Repr

/-- A barrier as its root and Atbin know it (R264, R267, R269). -/
structure BarRoot where
  root : Cl
  members : List Cl
  lead : Nat
  generation : BitVec 16
  /-- members whose arrival has reached the root -/
  got : List Cl
  /-- the partition numbers of other modules, for a hall barrier (R433) -/
  hall : Bool
  deriving DecidableEq, Repr

/-- A barrier packet on the control plane (R225, R267). -/
inductive BarPkt where
  | arrive (p : Fin 64) (b : Fin 32) (c : Cl) (gen : BitVec 16)
  | release (p : Fin 64) (b : Fin 32) (c : Cl) (gen : BitVec 16) (status : Byte) (l : Word)
  deriving DecidableEq, Repr

/-- Cluster registers of the block (R285). -/
structure SyncRegs where
  watchdog : BitVec 32 := 10000
  duplicates : Word := 0
  windowErrors : Word := 0
  lateReleases : Word := 0
  deriving DecidableEq, Repr

/-- Synchronisation of the module. -/
structure Sync where
  /-- object values by cluster * 1024 + core * 32 + object; reset 0 -/
  objs : SMap (BitVec 32) := []
  notes : List Note := []
  eps : SMap EpRec := []
  /-- contributions waiting at each cluster's combiner, oldest first -/
  combiner : SMap (List Contribution) := []
  regs : SMap SyncRegs := []
  /-- barrier members by cluster * 32 + barrier, roots by partition * 32 + barrier -/
  bars : SMap BarRec := []
  roots : SMap (Option BarRoot) := []
  pkts : List BarPkt := []
  /-- waits already reported by CHANNEL_DEADLOCK, and unread snapshots by partition (R280) -/
  reported : List Waiter := []
  snapshots : SMap (List Byte) := []
  /-- generations given to connections so far -/
  nextGen : BitVec 32 := 1
  /-- islands that fell back and whose checked channels are still to break (R279): fields -/
  fallen : List (Fin 192) := []
  deriving DecidableEq, Repr

end Sys2Proof.Machine
end

