-- ==== Sys2Proof/Machine/StatePower.lean ====
section
/-! DEFINITION. State of the tide, the spring and the clock mesh, of the idle states, and of power,
droop, heat, coolant and ageing (spec/11_time_and_clocks.md, 12_power_and_heat.md,
18_module_hardware.md). Each field's default is its reset value. -/

namespace Sys2Proof.Machine

/-! ### Time (R288-R310) -/

/-- A correction of a tide under way (R289, R291): spread evenly over 1 µs, half rate until
absorbed, or a slew of at most 50 ppm. -/
inductive Corr where
  | none
  | even (e : Int)
  | slow (e : Nat)
  | ppm (e : Int)
  deriving DecidableEq, Repr

/-- A tide (R288, R291): its value `base` in 2^-27 units at cycle `since`, the RATE it adds each
cycle, the correction under way and the cycles of 1 µs. -/
structure TideRec where
  base : Nat := 0
  since : Nat := 0
  /-- RATE; reset 0x4000_0000 (8.0 units a cycle) -/
  rate : BitVec 32 := 0x40000000
  corr : Corr := .none
  win : Nat := 2000
  deriving DecidableEq, Repr

/-- A TIDE packet on its way down the tide tree (R290): the router it goes to, its bits as its sender sent them, the half
nanoseconds of the hop and when it arrives. -/
structure TidePkt where
  dst : Cl
  pkt : BitVec 128
  hop : Nat
  due : Nat
  deriving DecidableEq, Repr

/-- Stages of the spring (R300-R302): settled, a switch asked for at a time and short tide, or
relocking since. -/
inductive Spring where
  | settled
  | switching (dst : Fin 2) (since : Nat) (tide : BitVec 32)
  | relocking (old dst : Fin 2) (hang : Bool) (since : Nat)
  deriving DecidableEq, Repr

/-- Idle states of a cluster's compute (R296, R339). Clock gate is a running cluster that is idle. -/
inductive Sleep where
  | awake
  | retention
  | waking (at_ : Nat)
  | off
  deriving DecidableEq, Repr

/-- Clocks and tides. `now` is the model's own count of half nanoseconds. -/
structure Clocks where
  /-- the model's time in 0.5 ns units (the network cycle at a 4.0 GHz master); reset 0 -/
  now : Nat := 0
  /-- network cycles passed at `cycAt`, from which they go on at full or half rate (R299, R300); reset 0 -/
  cycBase : Nat := 0
  cycAt : Nat := 0
  /-- local tides by cluster, on network cycles (R291); reset 0 -/
  locals : SMap TideRec := []
  /-- Atbin's master or disciplined tide, on 0.5 ns units (R289, R290); reset 0 -/
  atbin : TideRec := {}
  /-- SEQ of the next TIDE packet (R290); reset 0 -/
  seq : BitVec 2 := 0
  /-- when the tide root last sent (R290); reset none -/
  tideSent : Option Nat := none
  /-- TIDE packets on the tide tree (R290); reset none -/
  tides : List TidePkt := []
  /-- PREFERRED of CLOCK_CONFIG, in flash; reset 0 -/
  preferred : Fin 2 := 0
  /-- AUTO_SWITCH; reset 1 -/
  autoSwitch : Bool := true
  /-- DISCIPLINE of CLOCK_CONFIG; reset 1 (PTP) -/
  discipline : BitVec 2 := 1
  /-- FORERUNNER_MODE; reset 0 -/
  forerunner : Bool := false
  /-- SOURCE; reset 0 -/
  source : Fin 2 := 0
  /-- REF_LOST: the loop coasts; reset 0 -/
  coast : Bool := false
  /-- VALID0, VALID1; reset 0 -/
  valid : Vector Bool 2 := Vector.replicate 2 false
  /-- inputs that show no edge (R298, R301); reset both, until they are valid -/
  noEdge : Vector Bool 2 := Vector.replicate 2 true
  /-- the spring's stage (RELOCKING); reset settled -/
  spring : Spring := .settled
  /-- the whole module runs in forerunner mode (R308); reset 0 -/
  foreOn : Bool := false
  /-- forerunner islands: their fields (R306); reset none -/
  islands : List (List (Fin 192)) := []
  /-- fields whose compute pauses until their PLLs lock (R306 step 2); reset none -/
  unlocked : List (Fin 192) := []
  /-- when that pause began; reset 0 -/
  unlockedAt : Nat := 0
  /-- LAST_RELOCK; reset 0 -/
  lastRelock : BitVec 32 := 0
  /-- SYNCED, when the last sample was taken; reset 0 -/
  synced : Bool := false
  syncAt : Nat := 0
  /-- HOLDOVER; reset 0 -/
  holdover : Bool := false
  /-- ORIGIN; reset 0, not acquired -/
  origin : Word := 0
  originSet : Bool := false
  /-- OFFSET; reset 0 -/
  offset : Int := 0
  /-- REBASES; reset 0 -/
  rebases : BitVec 32 := 0
  /-- TAI second of the next 1PPS_IN edge (SET_SECONDS); reset none -/
  seconds : Option Word := none
  /-- the last PTP sample taken for 1PPS second numbers: facility ns and the tide (R289); reset none -/
  ptp : Option (Word × Word) := none
  /-- when every arithmetic clock last restarted after a relock (R294); reset 0 -/
  restartAt : Nat := 0
  /-- idle states by cluster; reset awake -/
  sleep : SMap Sleep := []
  deriving DecidableEq, Repr

/-! ### Power (R311-R347) -/

/-- A field's rail state: STATE of R345. -/
inductive FieldState where
  | on | computeOff | dark
  deriving DecidableEq, Repr

/-- A field (R325, R336, R345). -/
structure FieldRec where
  /-- TEMP, 1/16 °C; reset 0 -/
  temp : Int := 0
  /-- TCEIL; reset 16 -/
  tceil : Nat := 16
  /-- KMAX; reset 16 -/
  kmax : Nat := 16
  /-- OFFSET, 5 mV units; reset 0 -/
  offset : Nat := 0
  /-- VSET, mV; reset 0 -/
  vset : Nat := 0
  /-- CAUSE; reset 0 -/
  cause : BitVec 4 := 0
  /-- STATE; reset 0 (on) -/
  state : FieldState := .on
  /-- DROOP_SOFT, DROOP_HARD with extensions; reset 0 -/
  soft : Word := 0
  hard : Word := 0
  /-- regulators latched off by a short or a test (R314, R394); reset 0 -/
  latchC : Bool := false
  latchN : Bool := false
  /-- consecutive samples at HOT and at CRIT level (R336); reset 0 -/
  hot : Nat := 0
  crit : Nat := 0
  /-- in WARN, when the ceiling last moved, and since when it has been cool enough; reset 0 -/
  warn : Bool := false
  ceilAt : Nat := 0
  coolSince : Option Nat := none
  /-- when the last THERMAL_STEP was posted (R346); reset none -/
  stepAt : Option Nat := none
  /-- calibration factor in 1/1000 (R325); reset 1000; consecutive updates at a bound -/
  factor : Nat := 1000
  bound : Nat := 0
  /-- an ageing plan found no margin: fenced until a plan does (R341, R400); reset 0 -/
  aged : Bool := false
  /-- an ageing plan taken while compute was off, to apply when it returns (R341): OFFSET and KMAX -/
  plan : Option (Nat × Nat) := none
  /-- when the compute regulator reaches its setpoint, 5 mV per 40 ns (R313, R319); reset 0 -/
  stepEnd : Nat := 0
  /-- when the field's arithmetic clocks last restarted after a compute-off step or an unlock (R294); reset 0 -/
  restartAt : Nat := 0
  deriving DecidableEq, Repr

/-- Stages of the droop response (R332). -/
inductive Droop where
  | none | soft | paused (since : Nat) | restarted
  deriving DecidableEq, Repr

/-- Operating point of a cluster (R318, R319, R332). -/
structure OpRec where
  /-- the weir's grant; reset 4 -/
  grant : Nat := 4
  /-- k in force (GRANTED); reset 4 -/
  k : Nat := 4
  /-- a raise waits for the regulator's setpoint (R319); reset none -/
  raise : Option Nat := none
  droop : Droop := .none
  /-- when the cluster's clock last restarted after a droop pause (R294), and when it last fell asleep; reset 0 -/
  restartAt : Nat := 0
  sleepFrom : Nat := 0
  deriving DecidableEq, Repr

/-- A stack's temperature state (R338). -/
structure StkTemp where
  temp : Int := 0
  /-- admits half its rate; reset 0 -/
  half : Bool := false
  coolSince : Option Nat := none
  /-- in self-refresh; reset 0 -/
  refresh : Bool := false
  stepAt : Option Nat := none
  deriving DecidableEq, Repr

/-- An energy record (R330), kept in nJ and read in µJ; reset 0. -/
structure Energy where
  compute : Nat := 0
  memory : Nat := 0
  link : Nat := 0
  shared : Nat := 0
  tide : Word := 0
  deriving DecidableEq, Repr

/-- CAP_IN (R321, R473): never valid yet, valid, held after loss, or failed safe. -/
inductive CapIn where
  | never | valid | held (since : Nat) | failsafe
  deriving DecidableEq, Repr

/-- Why the module is shut down (R315, R465). -/
inductive Shut where
  | none | epo | coolant | leak
  deriving DecidableEq, Repr

/-- Power, heat, coolant and the facility signals. -/
structure Power where
  /-- CAP, CAP_FAILSAFE in flash, CAP_IN_EN, PARK_UNBOUND, CHASSIS_CAP; reset 880, 200, 0, 1, 0 -/
  cap : Nat := 880
  capFailsafe : Nat := 200
  capInEn : Bool := false
  park : Bool := true
  chassisCap : Nat := 0
  /-- LIMIT and LIMIT_SOURCE; reset 0 -/
  limit : Nat := 0
  limitSource : Nat := 0
  /-- LIMITING; reset 0; since when clusters have, or have not, been held below preference -/
  limiting : Bool := false
  heldSince : Option Nat := none
  freeSince : Option Nat := none
  /-- when the last CAP_LIMITING entry or exit was posted (R328) -/
  limitAt : Option Nat := none
  /-- CEILING, wafer ceilings, THROTTLE; reset 0 (R343), 4, 0 until the weir first runs -/
  ceiling : Nat := 0
  wceil : Vector Nat 4 := Vector.replicate 4 4
  throttle : Nat := 0
  /-- EST_INPUT, MEAS_INPUT, FEED_A, FEED_B, 0.1 kW; reset 0 -/
  est : Nat := 0
  meas : Nat := 0
  feedA : Nat := 0
  feedB : Nat := 0
  /-- the backstop holds until (R327); reset none -/
  backstop : Option Nat := none
  /-- feeds present (R312); reset both; since when both are absent -/
  feeds : Vector Bool 2 := Vector.replicate 2 true
  feedsLost : Option Nat := none
  /-- CAP_IN_LEVEL and CAP_IN_VALID (R473); reset 0 -/
  capLevel : Nat := 0
  capIn : CapIn := .never
  /-- level of the last good frame, and since when CAP_IN has been valid again (R321) -/
  capFrame : Option Nat := none
  capGoodSince : Option Nat := none
  /-- COOLANT_IN, COOLANT_OUT (1/16 °C), FLOW (0.1 L/min); reset 0 -/
  coolIn : Int := 0
  coolOut : Int := 0
  flow : Nat := 0
  /-- leak sensor wet; a sensor silent or out of range since (R464); reset none -/
  wet : Bool := false
  silentSince : Option Nat := none
  /-- since when each shutdown limit of R464 has been exceeded -/
  hotInSince : Option Nat := none
  lowFlowSince : Option Nat := none
  hotOutSince : Option Nat := none
  wetSince : Option Nat := none
  /-- coolant derating entered; since when coolant allows a restart (R465) -/
  derated : Bool := false
  coolOkSince : Option Nat := none
  deratedAt : Option Nat := none
  /-- CHASSIS_SHARE, 0.1 kW; reset 0 -/
  share : Nat := 0
  /-- the manager's view: shares by module, lowered modules not yet confirmed, and the excess
  condition (R326) -/
  shares : SMap Nat := []
  waiting : List Nat := []
  excess : Nat := 0
  /-- fields, clusters and stacks; reset as their records -/
  fields : SMap FieldRec := []
  ops : SMap OpRec := []
  stk : SMap StkTemp := []
  /-- calibration factors of the conversion-loss models of the quadrants, 1/1000 (R325); reset 1000 -/
  quads : Vector Nat 4 := Vector.replicate 4 1000
  /-- weir intervals run; reset 0 -/
  interval : Nat := 0
  /-- energy records: partitions, and OVERHEAD (R329, R330); reset 0 -/
  energy : SMap Energy := []
  overhead : Energy := {}
  /-- bytes accessed in this interval by stack * 64 + partition and by port * 64 + partition (ports
  0-15 Ocsal, 16-17 CXL) (R329); reset 0 -/
  stackBytes : SMap Nat := []
  portBytes : SMap Nat := []
  /-- operating hours and the hours of the last plan, in flash (R341); reset 0 -/
  hours : Nat := 0
  planHours : Nat := 0
  /-- the input stage and the rails behind it are on (R347, R392); reset off -/
  rails : Bool := false
  /-- the standby supply is on (R311); reset off -/
  standby : Bool := false
  /-- why the module is shut down; reset not -/
  shut : Shut := .none
  /-- EPO_N asserted (R315); reset deasserted -/
  epo : Bool := false
  /-- READY_OUT and FAULT_OUT closed (R476); reset open -/
  readyOut : Bool := false
  faultOut : Bool := false
  /-- SLOT_ID as read at bring-up (R474); reset 0 -/
  slotId : Fin 16 := 0
  /-- wafers left without rails by a bus converter (R394, R489); reset none -/
  lostWafers : List (Fin 4) := []
  deriving DecidableEq, Repr

end Sys2Proof.Machine
end

