-- ==== Sys2Proof/Machine/StateHost.lean ====
section
/-! DEFINITION. State of the host functions and their queues, of the partitions, of bring-up, fuses,
flash and firmware, and of attestation (spec/13_host_and_commands.md, 14_partitions_and_reset.md,
15_bring_up.md, 17_security.md, 19_faults.md). Each field's default is its reset value. -/

namespace Sys2Proof.Machine

/-! ### Functions and queues (R351-R359) -/

/-- Queue states (R352). -/
inductive QState where
  | disabled | running | error
  deriving DecidableEq, Repr

/-- A queue pair (R351, R352). -/
structure QRec where
  /-- SQ_BASE, CPQ_BASE; reset 0 -/
  sqBase : Word := 0
  cpqBase : Word := 0
  /-- ENABLE, SQ_SIZE, CPQ_SIZE, VECTOR, IRQ_EN, IRQ_COUNT, IRQ_DELAY of Q_CFG; reset 0 -/
  enable : Bool := false
  sqSize : Nat := 0
  cpqSize : Nat := 0
  vector : Fin 8 := 0
  irqEn : Bool := false
  irqCount : Nat := 0
  irqDelay : Nat := 0
  /-- STATE, ERR, SQ_HEAD, CPQ_TAIL, PHASE of Q_STATUS; reset DISABLED, 0x00, 0, 0, 1 -/
  state : QState := .disabled
  err : Byte := 0
  sqHead : Nat := 0
  cpqTail : Nat := 0
  phase : Bool := true
  /-- SQ_TAIL and CPQ_HEAD as last written; reset 0 -/
  sqTail : Nat := 0
  cpqHead : Nat := 0
  /-- completions written and not yet signalled, and when the first was (R358); reset 0 -/
  unsig : Nat := 0
  unsigAt : Nat := 0
  deriving DecidableEq, Repr

/-- A host function (R351, R352). -/
structure FnRec where
  /-- EQ_BASE; reset 0 -/
  eqBase : Word := 0
  /-- ENABLE, SIZE, VECTOR, IRQ_EN, MIN_SEVERITY, IRQ_DELAY of EQ_CFG; reset 0 -/
  enable : Bool := false
  size : Nat := 0
  vector : Fin 8 := 0
  irqEn : Bool := false
  minSev : Nat := 0
  irqDelay : Nat := 0
  /-- STATE, ERR, EQ_TAIL, PHASE, OVERFLOW, LOST of EQ_STATUS; reset DISABLED, 0x00, 0, 1, 0, 0 -/
  state : QState := .disabled
  err : Byte := 0
  tail : Nat := 0
  phase : Bool := true
  overflow : Bool := false
  lost : Nat := 0
  /-- EQ_HEAD as last written; reset 0 -/
  head : Nat := 0
  unsig : Nat := 0
  unsigAt : Nat := 0
  /-- queue pairs; reset as their records -/
  qs : Vector QRec 4 := Vector.replicate 4 {}
  /-- MSI-X table, 16 bytes an entry, and pending bits; entries reset masked (PCIe) -/
  msix : Vector (BitVec 128) 8 := Vector.replicate 8 0x00000001000000000000000000000000
  pba : BitVec 8 := 0
  deriving DecidableEq, Repr

/-- A fetched command not yet completed (R354, R360): its record, its place in the order of
fetching, whether its queue still takes its completion, whether it runs on after its start, and the
queue entry after it. -/
structure Cmd where
  key : CmdKey
  raw : BitVec 512
  serial : Nat
  live : Bool
  started : Bool
  /-- a completion that waits for the larger step that ends the command, by its status -/
  done : Option Byte
  deriving DecidableEq, Repr

/-- A CXL port (R348, R349, R468). -/
structure CxlPort where
  /-- link up; lanes; reset down, 0 -/
  up : Bool := false
  width : Nat := 0
  /-- PERST_N asserted; reset deasserted -/
  perst : Bool := false
  /-- NumVFs; reset 0 -/
  numVfs : Nat := 0
  /-- IDE streams: keys by CXL.io stream 0-4 (0 the link stream), and CXL.cachemem; reset none -/
  ide : SMap (BitVec 256) := []
  ideMem : BitVec 256 := 0
  /-- an uncorrectable internal error was signalled (R211); reset 0 -/
  aer : Nat := 0
  /-- the HDM decoder (R209); reset 1-way from address 0 -/
  hdm : HdmSet := {}
  deriving DecidableEq, Repr

/-- What the module sends out: the model's record of messages that leave it, in order. -/
inductive Out where
  | msix (fn : FnId) (v : Fin 8)
  | ocsal (port : Fin 16) (pkt : OcsalPkt)
  | flits (port : Fin 16) (first : BitVec 24)
  | nak (port : Fin 16) (ack : BitVec 24)
  | control (port : Fin 16) (dest : BitVec 8) (code : BitVec 4) (payload : List Byte)
  | cxlData (port : Fin 2) (data : BitVec 512) (err : Bool)
  | spdm (peer : SpdmPeer) (code : Byte) (payload : List Byte)
  | i3c (payload : List Byte)
  | mgmt (payload : List Byte)
  | test (i : TestInstr) (bypass : Bool)
  deriving DecidableEq, Repr

/-- The host attachment. -/
structure HostSt where
  /-- functions by port * 64 + VF (0 the PF) -/
  fns : SMap FnRec := []
  /-- commands fetched and not completed, in order of fetching; reset none -/
  cmds : List Cmd := []
  nextSerial : Nat := 0
  ports : Vector CxlPort 2 := Vector.replicate 2 {}
  /-- when each kind of rate-limited event was last posted, by unit (R486); reset none -/
  eccAt : SMap (Option Nat) := []
  /-- corrections not yet reported, by unit (R486); reset 0 -/
  eccPend : SMap Nat := []
  /-- ECC_CORRECTED posted since `eccWin` (at most 64 a second) (R486); reset 0 -/
  eccWin : Nat := 0
  eccCount : Nat := 0
  /-- when ECC_UNCORRECTED was last posted for a code unit (R486) -/
  eccBad : SMap (Option Nat) := []
  deriving DecidableEq, Repr

/-! ### Partitions (R373-R389) -/

/-- Partition states (R375). -/
inductive PartState where
  | empty | active | rebinding | resetting | deleting
  deriving DecidableEq, Repr

/-- A partition compute reset under way (R386): when it began, its kind, and its stage. -/
structure PReset where
  since : Nat
  kind : Nat
  zeroing : Bool
  deleting : Bool
  /-- requests its targets had accepted when it began (R386 step 4) -/
  owed : List Nat
  deriving DecidableEq, Repr

/-- A region entry of a stack map (R192): first partition page, mode, the member stacks in rising
order, and the physical page of each member and depth. -/
structure StackRegion where
  start : Nat
  linear : Bool
  members : List (Fin 48)
  depth : Nat
  phys : List (List Nat)
  deriving DecidableEq, Repr

/-- A partition (R373). -/
structure PartRec where
  /-- its VF and port (R349) -/
  port : Fin 2
  vf : Fin 64
  /-- beds, by 576 * wafer + 24 * by + bx; reset none -/
  beds : List Nat := []
  /-- region entries of the stack map (R192); reset invalid -/
  regions : Vector (Option StackRegion) 16 := Vector.replicate 16 none
  /-- MESH_TIMEOUT, REMOTE_TIMEOUT, HOST_TIMEOUT, µs; reset 10, 1000, 2000 -/
  mesh : Nat := 10
  remote : Nat := 1000
  host : Nat := 2000
  /-- STATE; reset EMPTY -/
  state : PartState := .empty
  /-- LAST_RESET; reset 0 -/
  lastReset : Word := 0
  /-- DEFAULT_OP, MAX_OP, RET_MIN, GOV_HOLD (R344); reset 16, 16, 10, 20 -/
  defaultOp : Nat := 16
  maxOp : Nat := 16
  retMin : Nat := 10
  govHold : Nat := 20
  /-- hall bindings: remote module and partition (R425); reset none -/
  hall : List (BitVec 8 × Fin 64) := []
  /-- the reset under way; reset none -/
  reset : Option PReset := none
  deriving DecidableEq, Repr

/-- Partitions and cluster bindings. -/
structure Parts where
  /-- partitions by number; reset none exists -/
  parts : SMap (Option PartRec) := []
  /-- the partition in each cluster's router, BOUND (R376); reset unbound -/
  bind : SMap (Option (Fin 64)) := []
  /-- when each cluster became unbound (R340), for clusters that have been bound; reset 0 -/
  unboundAt : SMap Nat := []
  deriving DecidableEq, Repr

/-! ### Bring-up, flash, firmware and life-cycle (R391-R407, R438-R455) -/

/-- Slot states (R446). -/
inductive SlotFw where
  | empty | written | committed | active | rejected
  deriving DecidableEq, Repr

/-- Life-cycle states (R352, R450). -/
inductive LcState where
  | blank | provisioned | deployed | debug | returned
  deriving DecidableEq, Repr

/-- The repair map (R401). -/
structure RepairMap where
  valid : Bool := false
  version : BitVec 32 := 0
  wellheads : SMap (Option Cl) := []
  dry : DryMap := {}
  pages : List Nat := []
  surplus : List Nat := []
  spares : SMap (Option (Nat × Bool)) := []
  deriving DecidableEq, Repr

/-- Atbin: bring-up, fuses, flash and life-cycle. -/
structure Boot where
  /-- DEV_STATUS.STEP and READY; reset 0, 0 -/
  step : Nat := 0
  ready : Bool := false
  /-- the bring-up is cold; when it began; units newly dry; reset 0 -/
  cold : Bool := true
  began : Nat := 0
  /-- when READY was posted; reset 0 -/
  readyAt : Nat := 0
  newlyDry : List (BitVec 32) := []
  /-- time spent on a wipe or waiting for coolant (R448); reset 0 -/
  waited : Nat := 0
  /-- step 3 waits for coolant since (R466); reset none -/
  coolWait : Option Nat := none
  /-- fuses: variant 0 F3072, 1 F1536, 2 L3072; root key hash; device secret; security version
  counter (R438); reset F3072 and 0 -/
  variant : Nat := 0
  rootHash : BitVec 384 := 0
  secret : BitVec 384 := 0
  svn : Nat := 0
  /-- SERIAL in ASCII (R370); reset 0 -/
  serial : BitVec 128 := 0
  /-- LC_STATE; reset BLANK (R352, R450) -/
  lc : LcState := .blank
  /-- transition count, OWNER_KEY_HASH, DEBUG_SCOPE; reset 0 -/
  count : BitVec 32 := 0
  owner : BitVec 384 := 0
  scope : BitVec 32 := 0
  /-- the journalled transition whose wipe is pending: target, owner hash, scope (R452); reset none -/
  wipe : Option (LcState × BitVec 384 × BitVec 32) := none
  /-- slots A and B: state and content bytes; active slot; slot the journal selects; the boot is a
  trial (R446-R448); reset A active, B empty -/
  slots : Vector SlotFw 2 := ⟨#[.active, .empty], rfl⟩
  /-- the slot's content is the firmware the module is delivered with (R450); reset slot A -/
  factory : Vector Bool 2 := ⟨#[true, false], rfl⟩
  flash : Vector Memory 2 := Vector.replicate 2 []
  slot : Fin 2 := 0
  select : Fin 2 := 0
  trial : Bool := false
  /-- provisioning and return key hashes of the ROM (R450) -/
  provHash : BitVec 384 := 0
  retHash : BitVec 384 := 0
  /-- live wellhead of each wafer; since when it has not answered; the one being loaded (R489); reset none -/
  wellheads : SMap (Option Cl) := []
  silent : SMap (Option Nat) := []
  loading : SMap (Option Cl) := []
  /-- wafers without a wellhead that go dark with the next route epoch (R489); reset none -/
  doomed : List (Fin 4) := []
  /-- the repair map -/
  repair : RepairMap := {}
  /-- flash log: records of 32 bytes (R492), oldest first; reset empty -/
  log : List (List Byte) := []
  /-- free values drawn as keys so far -/
  keys : Nat := 0
  /-- dry stack pages, physical, by stack * 64 + page (R397, R485) -/
  retired : List Nat := []
  /-- error strikes not yet held against the thresholds of R482: a stack's, uncorrectable, code unit -/
  struck : List (Bool × Bool × Nat) := []
  /-- times of uncorrectable reads counted towards a fence, by unit (R482): address and time -/
  badReads : List (Nat × Nat × Nat) := []
  deriving DecidableEq, Repr

/-- One SPDM connection (R442): version, capabilities and algorithms agreed, sessions. -/
structure SpdmRec where
  version : Bool := false
  caps : Bool := false
  algs : Bool := false
  /-- sessions in handshake, and established ones with the key updates made; reset none -/
  hand : List (BitVec 32) := []
  open_ : List (BitVec 32 × Nat) := []
  deriving DecidableEq, Repr

/-- Attestation sessions by peer: DOE ports 0-1, Ocsal ports 2-17. -/
structure Sec where
  conns : SMap SpdmRec := []
  deriving DecidableEq, Repr

end Sys2Proof.Machine
end

