-- ==== Sys2Proof/Machine/StateOcsal.lean ====
section
/-! DEFINITION. State of the Ocsal ports and of the module's place in the hall
(spec/16_ocsal_fabric.md). Each field's default is its reset value. -/

namespace Sys2Proof.Machine

/-- Port states (R413). -/
inductive PortState where
  | dark | training | securing | up | retraining | failed
  deriving DecidableEq, Repr

/-- An Ocsal port (R408-R415, R422). -/
structure PortRec where
  /-- STATE, ENABLED; reset DARK, 0 -/
  state : PortState := .dark
  enabled : Bool := false
  /-- lanes out of service and the lane the spare (8) replaces (R409); reset none -/
  bad : List (Fin 9) := []
  spareFor : Option (Fin 9) := none
  spareAt : Option Nat := none
  /-- SPARE_IN_USE; reset 0 -/
  spare : Bool := false
  /-- PEER_MODULE, PEER_PORT, PEER_REV1; reset 0xFF, 0, 0 -/
  peer : BitVec 8 := 0xFF
  peerPort : Fin 16 := 0
  rev1 : Bool := false
  peerSerial : BitVec 128 := 0
  peerRole : BitVec 2 := 0
  /-- BOUND and BOUND_PARTITION; reset unbound -/
  bound : Option (Fin 64) := none
  /-- LAST_STATUS; reset 0x00 -/
  lastStatus : Byte := 0
  /-- RTT, ns; reset 0; switch residence measured with it -/
  rtt : Nat := 0
  corr : Nat := 0
  /-- FLITS_SENT, FLITS_RECEIVED, FEC_CORRECTED, RETRIES, TAG_FAILURES, DROPPED; reset 0 -/
  sent : Word := 0
  received : Word := 0
  fec : Word := 0
  retries : Word := 0
  tags : Word := 0
  dropped : Word := 0
  /-- flit counter of the next flit sent and of the next expected; reset 0 -/
  txSeq : Nat := 0
  rxSeq : Nat := 0
  /-- flits the peer has acknowledged, by count; the retry buffer runs from there to `txSeq`; reset 0 -/
  acked : Nat := 0
  /-- KEY_PHASE, keys given so far, and flits since the key change (R412); reset 0 -/
  phase : Bool := false
  keys : Nat := 0
  sinceKey : Nat := 0
  /-- credits held per virtual channel, in 32-byte units (R410); reset 2048 -/
  credits : Vector Nat 8 := Vector.replicate 8 2048
  /-- tag failures of the last 1 ms, retrains of the last 1 s, by time; reset none -/
  tagTimes : List Nat := []
  retrainTimes : List Nat := []
  /-- enabled at, for the once-only LINK_DOWN without a peer (R413) -/
  since : Nat := 0
  noPeerPosted : Bool := false
  /-- the port adapter's table: request number by PORT_TAG (R422); reset empty -/
  table : SMap (Option Nat) := []
  deriving DecidableEq, Repr

/-- Roles (R430). -/
inductive Role where
  | standalone | manager | worker | standby
  deriving DecidableEq, Repr

/-- The fabric. -/
structure Fabric where
  ports : SMap PortRec := []
  /-- bypass pairs closed (R417), and a change under way; reset closed -/
  closed : Vector Bool 4 := Vector.replicate 4 true
  changing : Vector (Option Bool) 4 := Vector.replicate 4 none
  /-- role; reset standalone -/
  role : Role := .standalone
  /-- module number; reset none -/
  num : Option (BitVec 8) := none
  /-- manager and standby numbers as HEARTBEAT gives them; reset 0xFF -/
  manager : BitVec 8 := 0xFF
  standby : BitVec 8 := 0xFF
  /-- assignment mask and table epoch (R420); reset 0 -/
  mask : BitVec 256 := 0
  epoch : BitVec 32 := 0
  /-- numbers recorded by serial number, in flash on the manager and its standby (R421); reset none -/
  record : List (BitVec 128 × BitVec 8) := []
  /-- last HEARTBEAT, last TIDE packet; reset 0 -/
  heardAt : Nat := 0
  tideAt : Nat := 0
  /-- packets in transit that wait for their egress port (R423); reset none -/
  transit : List OcsalPkt := []
  /-- JOIN sent and not answered -/
  joining : Bool := false
  /-- a takeover poll: modules that confirmed (R434); reset none -/
  poll : Option (List (BitVec 8)) := none
  /-- upstream port (R432); reset none -/
  upstream : Option (Fin 16) := none
  /-- hall barriers at the manager: module, partition and generation of the arrivals, by barrier (R433) -/
  hall : SMap (List (BitVec 8 × Fin 64 × BitVec 16)) := []
  deriving DecidableEq, Repr

end Sys2Proof.Machine
end

