-- ==== Sys2Proof/Machine/State.lean ====
section
/-! DEFINITION. The machine's state, its reset, and the reasons a step can stop. -/

namespace Sys2Proof.Machine

/-- The state of the block: one record for each part of the spec, and the queue of waiting
commands. Each record's fields name their spec rules and reset values. -/
structure State where
  /-- time and clocks (spec/11_time_and_clocks.md) -/
  t : Clocks := {}
  /-- power, heat, coolant and facility signals (spec/12_power_and_heat.md, 18_module_hardware.md) -/
  pwr : Power := {}
  /-- arrays and tiles (spec/03_spatial_array.md, 04_array_tiles.md) -/
  arr : Arrays := {}
  /-- numerics (spec/05_training_numerics.md) -/
  num : Numerics := {}
  /-- cores (spec/06_cores.md) -/
  core : Cores := {}
  /-- memory (spec/07_memory.md) -/
  mem : MemState := {}
  /-- mesh (spec/08_mesh.md) -/
  net : Net := {}
  /-- pumps (spec/09_pumps.md) -/
  pump : Pumps := {}
  /-- synchronisation (spec/10_sync_and_channels.md) -/
  sync : Sync := {}
  /-- host attachment (spec/13_host_and_commands.md) -/
  host : HostSt := {}
  /-- partitions (spec/14_partitions_and_reset.md) -/
  part : Parts := {}
  /-- bring-up, flash and life-cycle (spec/15_bring_up.md, 17_security.md) -/
  boot : Boot := {}
  /-- attestation (spec/17_security.md) -/
  sec : Sec := {}
  /-- Ocsal fabric (spec/16_ocsal_fabric.md) -/
  fab : Fabric := {}
  /-- the model's own: status of the last register access (the access's answer); reset 0x00 -/
  ioReply : Byte := 0
  /-- the model's own: data of the last register read; reset 0 -/
  ioData : Word := 0
  /-- the model's own: messages sent out, oldest first; reset none -/
  out : List Out := []
  /-- the model's own: free values taken so far; reset 0 (a design choice no statement rests on) -/
  freeCount : Nat := 0
  /-- commands waiting, first in, first out; reset empty -/
  pending : List Instr := []
  deriving DecidableEq, Repr

/-- The state right after power is applied and before any command: every field at its reset value
(spec/14_partitions_and_reset.md R390, 15_bring_up.md R393). -/
def State.reset : State := {}

/-- Reasons the machine stops with a fault. No row of the spec gives one: nothing raises `none`. -/
inductive Fault where
  /-- raised by nothing: the spec gives every command an effect. Safe: it cannot happen -/
  | never
  deriving DecidableEq, Repr

/-- Reasons a command is turned away. -/
inductive Refusal where
  /-- a row of the opcode table whose meaning is not written. Safe: nothing is claimed of it -/
  | notModelled (mnemonic : String)
  deriving DecidableEq, Repr

end Sys2Proof.Machine
end

