-- ==== Sys2Proof/Machine/Ops.lean ====
section
/-! DEFINITION. Named operations shared by the commands: keys and identifiers, time and tides, who
owns what, what is running, permissions, notifications, event records and queues' messages. -/

namespace Sys2Proof.Machine

open Sys2Proof

/-! ### Keys and identifiers -/

/-- Key of a cluster: its coordinates as DEST and CID give them (R217, R362). -/
def ck (c : Cl) : Nat := c.w.val * 16384 + c.y.val * 128 + c.x.val

/-- The cluster of a key; none where a coordinate is above 95. -/
def clOfKey (k : Nat) : Option Cl :=
  if h : k % 128 < 96 ∧ k / 128 % 128 < 96 then some ⟨Fin.ofNat 4 (k / 16384), ⟨k % 128, h.1⟩, ⟨k / 128 % 128, h.2⟩⟩ else none

/-- Key of a tile. -/
def tk (t : TileId) : Nat := ck t.c * 32 + t.t.val

/-- Key of a context. -/
def xk (x : CtxId) : Nat := (ck x.c * 32 + x.k.val) * 4 + x.n.val

/-- Key of a core. -/
def ok (c : Cl) (k : Nat) : Nat := ck c * 32 + k

def vset {α : Type} {n : Nat} (v : Vector α n) (i : Fin n) (x : α) : Vector α n := v.set i.val x i.isLt

/-- Unit identifier (R7). -/
def unitId (kind w y x sub : Nat) : BitVec 32 :=
  BitVec.ofNat 32 (kind * 2 ^ 28 + w * 2 ^ 26 + y * 2 ^ 19 + x * 2 ^ 12 + sub)

def clUnit (c : Cl) : BitVec 32 := unitId 2 c.w.val c.y.val c.x.val 0
def tileUnit (t : TileId) : BitVec 32 := unitId 1 t.c.w.val t.c.y.val t.c.x.val t.t.val
def coreUnit (c : Cl) (k : Nat) : BitVec 32 := unitId 0 c.w.val c.y.val c.x.val k
def stackUnit (n : Fin 48) : BitVec 32 := unitId 5 (n.val / 12) 0 0 (n.val % 12)
def portUnit (p : Fin 16) : BitVec 32 := unitId 7 0 0 0 p.val
def cxlUnit (p : Fin 2) : BitVec 32 := unitId 8 0 0 0 p.val
def atbinUnit : BitVec 32 := unitId 9 0 0 0 0
def waferUnit (w : Fin 4) : BitVec 32 := unitId 4 w.val 0 0 0
def fieldUnit (f : Fin 192) : BitVec 32 := unitId 3 (f.val / 48) (f.val % 48 / 8) (f.val % 8) 0

/-- The field of a cluster (R12), numbered 48w + 8y + x (R345). -/
def fieldOf (c : Cl) : Fin 192 := Fin.ofNat 192 (48 * c.w.val + 8 * (c.y.val / 16) + c.x.val / 12)

/-- The bed of a cluster (R13), numbered 576w + 24by + bx (R389). -/
def bedOf (c : Cl) : Nat := 576 * c.w.val + 24 * (c.y.val / 4) + c.x.val / 4

/-- The 192 clusters of a field (R12). -/
def fieldClusters (f : Fin 192) : List Cl :=
  (List.range 192).map fun i =>
    ⟨Fin.ofNat 4 (f.val / 48), Fin.ofNat 96 (f.val % 8 * 12 + i % 12), Fin.ofNat 96 (f.val % 48 / 8 * 16 + i / 12)⟩

/-- The 16 clusters of a bed (R13). -/
def bedClusters (b : Nat) : List Cl :=
  (List.range 16).map fun i =>
    ⟨Fin.ofNat 4 (b / 576), Fin.ofNat 96 (b % 24 * 4 + i % 4), Fin.ofNat 96 (b % 576 / 24 * 4 + i / 4)⟩

/-- Every cluster of a wafer. -/
def waferClusters (w : Fin 4) : List Cl :=
  (List.range 9216).map fun i => ⟨w, Fin.ofNat 96 (i % 96), Fin.ofNat 96 (i / 96)⟩

/-- Every cluster of the module. -/
def allClusters : List Cl := waferClusters 0 ++ waferClusters 1 ++ waferClusters 2 ++ waferClusters 3

/-! ### Free values -/

/-- The next free value; the count moves on. -/
def takeFree (s : State) : BitVec 64 × State := (Config.free s.freeCount, { s with freeCount := s.freeCount + 1 })

/-! ### Time (R288-R294, R299) -/

/-- Half nanoseconds in a number of microseconds. -/
def usec (n : Nat) : Nat := n * 2000

/-- Network cycles passed at time `n`: full rate, half while the loop coasts (R299, R300). -/
def netCycles (t : Clocks) (n : Nat) : Nat := t.cycBase + (n - t.cycAt) / (if t.coast then 2 else 1)

/-- The part of a correction made after `d` cycles that added `adv`, in 2^-27 units (R289, R291). -/
def corrFx (r : TideRec) (d adv : Nat) : Int :=
  match r.corr with
  | .none => 0
  | .even e => e * 2 ^ 27 * (min d r.win : Nat) / (max r.win 1 : Nat)
  | .slow e => -(min (e * 2 ^ 27) (adv / 2) : Nat)
  | .ppm e => if 0 ≤ e then (min (e.toNat * 2 ^ 27) (adv * 50 / 1000000) : Nat)
              else -(min ((-e).toNat * 2 ^ 27) (adv * 50 / 1000000) : Nat)

/-- A tide at cycle `n`, in 2^-27 units. -/
def tideFx (r : TideRec) (n : Nat) : Nat :=
  let d := n - r.since
  let adv := d * r.rate.toNat
  (((r.base + adv : Nat) : Int) + corrFx r d adv).toNat

/-- A tide at cycle `n`. -/
def tideAt (r : TideRec) (n : Nat) : Word := BitVec.ofNat 64 (tideFx r n / 2 ^ 27)

def localRec (s : State) (c : Cl) : TideRec := s.t.locals.get {} (ck c)

/-- The local tide of a cluster (R291). -/
def localTide (s : State) (c : Cl) : Word := tideAt (localRec s c) (netCycles s.t s.t.now)

/-- Atbin's tide: the master tide, or a worker's disciplined copy (R289, R290). -/
def moduleTide (s : State) : Word := tideAt s.t.atbin s.t.now

/-- Lets the time pass to `n`. -/
def waitUntil (s : State) (n : Nat) : State := { s with t := { s.t with now := max s.t.now n } }

/-- Lets the time pass until the cluster's local tide has reached the target: each round passes the
time the tide needs at its RATE, and a slow correction makes it take more rounds. -/
def waitTideLoop (c : Cl) (target : Word) : Nat → State → State
  | 0, s => s
  | k + 1, s =>
    let d := (target - localTide s c).toInt
    if d ≤ 0 then s
    else
      let cyc := (d.toNat * 2 ^ 27 + (localRec s c).rate.toNat - 1) / max (localRec s c).rate.toNat 1
      waitTideLoop c target k (waitUntil s (s.t.now + max 1 cyc * (if s.t.coast then 2 else 1)))

def waitTide (s : State) (c : Cl) (target : Word) : State := waitTideLoop c target 64 s

/-- When the cluster's arithmetic clock last restarted after a relock, a droop pause, an island's unlock or a
compute-off step (R294). -/
def clockSince (s : State) (c : Cl) : Nat :=
  max s.t.restartAt (max (s.pwr.ops.get {} (ck c)).restartAt (s.pwr.fields.get {} (fieldOf c).val).restartAt)

/-- A launch passed while the arithmetic clock was stopped, so that its action is late (R294). -/
def launchMissed (s : State) (c : Cl) (launch : Word) : Bool :=
  decide ((launch - tideAt (localRec s c) (netCycles s.t (clockSince s c))).toInt < 0)

/-- Stagger class of a cluster (R265). -/
def stagger (_s : State) (c : Cl) : Nat := (c.x.val + 3 * c.y.val) % 8

/-! ### Partitions, dry units and rails -/

/-- The partition a cluster is bound to (R376). -/
def owner (s : State) (c : Cl) : Option (Fin 64) := s.part.bind.get none (ck c)

def partOf (s : State) (p : Fin 64) : Option PartRec := s.part.parts.get none p.val

def setPart (p : Fin 64) (r : Option PartRec) (s : State) : State :=
  { s with part := { s.part with parts := s.part.parts.set none p.val r } }

/-- The clusters bound to a partition. -/
def partClusters (s : State) (p : Fin 64) : List Cl :=
  s.part.bind.filterMap fun e => if e.2 = some p then clOfKey e.1 else none

/-- The wellhead of a wafer (R17). -/
def wellheadOf (s : State) (w : Fin 4) : Option Cl := s.boot.wellheads.get none w.val

def isWellhead (s : State) (c : Cl) : Bool := wellheadOf s c.w == some c

/-- The partition is in a compute reset (R185 check 6, R386). -/
def partResetting (s : State) (p : Fin 64) : Bool :=
  match partOf s p with
  | some r => r.reset.isSome
  | none => false

/-- Cluster state of R231: 0 LIVE, 1 COMPUTE_DRY, 2 ROUTER_DEAD, 3 DARK. -/
def clState (s : State) (c : Cl) : Fin 4 := s.net.dry.clusters.get 0 (ck c)

def clLive (s : State) (c : Cl) : Bool := clState s c == 0

/-- A tile that is dry, or whose cluster is. -/
def tileDry (s : State) (t : TileId) : Bool := !clLive s t.c || s.net.dry.tiles.get false (tk t)

/-- A core that is dry, or whose cluster is (R177, R231). -/
def dryCore (s : State) (c : Cl) (k : Nat) : Bool := !clLive s c || s.net.dry.cores.get false (ok c k)

def fieldRec (s : State) (f : Fin 192) : FieldRec := s.pwr.fields.get {} f.val

def setField (f : Fin 192) (r : FieldRec) (s : State) : State :=
  { s with pwr := { s.pwr with fields := s.pwr.fields.set {} f.val r } }

def sleepOf (s : State) (c : Cl) : Sleep := s.t.sleep.get .awake (ck c)

def setSleep (c : Cl) (v : Sleep) (s : State) : State :=
  { s with t := { s.t with sleep := s.t.sleep.set .awake (ck c) v } }

/-- The cluster's compute rail is off or its cluster is dry (R185 check 7, R314, R340). -/
def computeOff (s : State) (c : Cl) : Bool :=
  !s.pwr.rails || s.pwr.lostWafers.contains c.w || !clLive s c || (fieldRec s (fieldOf c)).state != .on || sleepOf s c == .off

/-- The cluster is in retention or waking (R239, R339). -/
def asleep (s : State) (c : Cl) : Bool :=
  match sleepOf s c with
  | .retention => true
  | .waking _ => true
  | _ => false

def opRec (s : State) (c : Cl) : OpRec := s.pwr.ops.get {} (ck c)

def setOp (c : Cl) (r : OpRec) (s : State) : State :=
  { s with pwr := { s.pwr with ops := s.pwr.ops.set {} (ck c) r } }

/-- The spring is relocking: every arithmetic clock stands (R303). -/
def relocking (s : State) : Bool :=
  match s.t.spring with
  | .relocking _ _ _ _ => true
  | _ => false

/-- The cluster's arithmetic clock runs: compute on, awake, and no relock, unlock or droop pause
(R294, R303, R306, R332). -/
def arithOn (s : State) (c : Cl) : Bool :=
  !computeOff s c && !asleep s c && !relocking s && !s.t.unlocked.contains (fieldOf c) &&
  (match (opRec s c).droop with | .paused _ => false | _ => true)

/-- k in force (R305, R318). -/
def arithK (s : State) (c : Cl) : Nat := (opRec s c).k

/-! ### Requesters and permissions (R176, R189, R364) -/

/-- The partition a unit acts for. -/
def partPerm (s : State) (who : Requester) : Option (Fin 64) :=
  match who with
  | .core x => owner s x.c
  | .io c _ => owner s c
  | .pump (.cluster c _) => owner s c
  | .pump (.stack st ch) => (s.pump.chans.get {} (2 ^ 30 + st.val * 16 + ch.val)).owner
  | .config c => owner s c
  | .wellhead p => p
  | .remote _ _ _ _ => none
  | .cxl _ => none

/-- Checks 5 to 7 of R185 on a register access: only the owner's core programs, and the wellhead
for host commands, reach a cluster's registers. -/
def regPerm (s : State) (who : Requester) (c : Cl) : Byte :=
  let own := owner s c
  let ok : Bool :=
    match who with
    | .wellhead none => true
    | .wellhead (some p) => own == some p
    | .core x => own.isSome && owner s x.c == own
    | .config d => d = c
    | _ => false
  let inReset : Bool := match own with | some p => partResetting s p && who != .config c | none => false
  if !ok || (isWellhead s c && who != .wellhead none) then 0x04
  else if inReset then 0x05
  else if computeOff s c then 0x09
  else 0x00

/-- Answers a register access. -/
def reply (st : Byte) (s : State) : State := { s with ioReply := st }

/-- Timeouts of a partition in time units (R238). -/
def meshTimeout (s : State) (p : Option (Fin 64)) : Nat :=
  usec (match p.bind (partOf s) with | some r => r.mesh | none => 10)
def remoteTimeout (s : State) (p : Option (Fin 64)) : Nat :=
  usec (match p.bind (partOf s) with | some r => r.remote | none => 1000)
def hostTimeout (s : State) (p : Option (Fin 64)) : Nat :=
  usec (match p.bind (partOf s) with | some r => r.host | none => 2000)

/-- The valid regions of a partition's stack map (R192). -/
def stackMap (s : State) (p : Fin 64) : List StackRegion :=
  match partOf s p with
  | some r => r.regions.toList.filterMap id
  | none => []

/-- The host port of a partition; none while its VF is not enabled (R349). -/
def hostPort (s : State) (p : Fin 64) : Option (Fin 2) :=
  match partOf s p with
  | some r => if r.vf.val ≤ s.host.ports[r.port].numVfs then some r.port else none
  | none => none

/-! ### Modules and Ocsal ports (R208, R421, R422) -/

def ownModule (s : State) : Option (BitVec 8) := s.fab.num

/-- An address with the own module's number written as 0xFF, which means the same (R8, R208). -/
def selfAddr (s : State) (a : Word) : Word :=
  if some (a.extractLsb' 56 8) = ownModule s then a ||| 0xFF00000000000000 else a

def moduleAssigned (s : State) (m : BitVec 8) : Bool := m != 0xFF && s.fab.mask.getLsbD m.toNat

def portRec (s : State) (p : Fin 16) : PortRec := s.fab.ports.get {} p.val

def setPort (p : Fin 16) (r : PortRec) (s : State) : State :=
  { s with fab := { s.fab with ports := s.fab.ports.set {} p.val r } }

def portDry (s : State) (p : Fin 16) : Bool := s.net.dry.ocsal.getLsbD p.val

/-- The ports of a group that a partition may use: live ones bound to it where it has some, else
live unbound ones (R422, R426). -/
def groupPorts (s : State) (p : Fin 64) (g : List (Fin 16)) : List (Fin 16) :=
  let live := g.filter fun i => (portRec s i).state == .up
  let mine := g.filter fun i => (portRec s i).bound == some p
  if mine.isEmpty then live.filter fun i => (portRec s i).bound == none
  else live.filter fun i => (portRec s i).bound == some p

def ringPorts : List (Fin 16) := [0, 1, 2, 3, 4, 5, 6, 7]
def switchPorts : List (Fin 16) := [8, 9, 10, 11, 12, 13, 14, 15]

/-- The port a remote request leaves by (R422). Which modules a peer reaches directly is the peer's
own state, so it is a free value here. -/
def ocsalPort (s : State) (who : Requester) (p : Fin 64) (src : Cl) (m : BitVec 8) : Option (Fin 16) :=
  let direct := groupPorts s p (ringPorts.filter fun i => (portRec s i).peer == m)
  let transit := groupPorts s p (ringPorts.filter fun i =>
    (portRec s i).peer != 0xFF && Config.peerReaches (portRec s i).peer.toNat m.toNat s.fab.epoch.toNat)
  let sw := groupPorts s p switchPorts
  let g := if !direct.isEmpty then direct else if !sw.isEmpty then sw else transit
  let n := match who with
    | .pump (.stack st ch) => 16 * (st.val % 12) + ch.val + 8 * (st.val / 12) + m.toNat
    | _ => src.x.val + src.y.val + 8 * src.w.val + m.toNat
  if g.isEmpty then none else g[n % g.length]?

/-! ### Byte memory -/

/-- Reads `n` bytes at `k`. -/
def readBytes (m : Memory) (k n : Nat) : List Byte := (List.range n).map fun i => m.get 0 (k + i)

/-- Writes bytes at `k`. -/
def writeBytes (m : Memory) (k : Nat) : List Byte → Memory
  | [] => m
  | b :: r => writeBytes (m.set 0 k b) (k + 1) r

/-- Where a cluster's SRAM of a space (1 cistern, 2 core local, 3 memory tile) begins. -/
def sramBase (space : Nat) (c : Cl) : Nat := space * 2 ^ 38 + c.w.val * 2 ^ 36 + c.y.val * 2 ^ 29 + c.x.val * 2 ^ 22

/-- Bytes of a cluster's cistern. -/
def cisternRead (s : State) (c : Cl) (off n : Nat) : List Byte := readBytes s.mem.sram (sramBase 1 c + off) n

/-- Number of a memory tile (R16). -/
def memNum (t : Fin 32) : Nat :=
  match t.val with
  | 0 => 0 | 24 => 1 | 7 => 2 | 15 => 3 | 23 => 4 | _ => 5

def tileMemKey (t : TileId) (slot : Nat) : Nat := sramBase 3 t.c + memNum t.t * 2 ^ 17 + slot * 32

/-- Writes a slot whole; its error state clears (R199). -/
def tileMemWrite (t : TileId) (slot : Nat) (v : BitVec 256) (s : State) : State :=
  let k := tileMemKey t slot
  { s with mem := { s.mem with
    sram := writeBytes s.mem.sram k (leBytes 32 v.toNat)
    sramErr := s.mem.sramErr.filter fun e => e.1 < k / 8 || k / 8 + 4 ≤ e.1 } }

/-! ### Notifications (R261, R494) -/

/-- An engine notification of `k` sets out. -/
def notify (c : Cl) (n : NoteRef) (k : Nat) (s : State) : State :=
  { s with sync := { s.sync with notes := s.sync.notes ++ [⟨c, n, BitVec.ofNat 32 k, .none⟩] } }

def notifyBy (c : Cl) (n : NoteRef) (b : NoteBy) (s : State) : State :=
  { s with sync := { s.sync with notes := s.sync.notes ++ [⟨c, n, 1, b⟩] } }

def notifyOpt (c : Cl) (n : Option NoteRef) (s : State) : State :=
  match n with
  | some n => notify c n 1 s
  | none => s

/-! ### Events (R357, R358, R371, R486, R492) -/

/-- Event types (R371). -/
inductive EvCode where
  | ready | nanTrap | overflowRepeat | arrayStall | channelDeadlock | refLost | clkSwitchHang | springSwitched
  | islandFallback | thermalStep | fieldComputeOff | fieldDark | capLimiting | ageingReplanned | unitFenced
  | eccCorrected | eccUncorrected | linkDown | linkUp | managerChange | partitionResetDone | wipeDone
  | counterWrap | blockUnderflowHigh
  deriving DecidableEq, Repr

/-- Type code and severity (R371). -/
def EvCode.code : EvCode → Nat × Nat
  | .ready => (0x01, 0) | .nanTrap => (0x02, 2) | .overflowRepeat => (0x03, 1) | .arrayStall => (0x04, 3)
  | .channelDeadlock => (0x05, 3) | .refLost => (0x06, 3) | .clkSwitchHang => (0x07, 3) | .springSwitched => (0x08, 1)
  | .islandFallback => (0x09, 2) | .thermalStep => (0x0A, 2) | .fieldComputeOff => (0x0B, 3) | .fieldDark => (0x0C, 4)
  | .capLimiting => (0x0D, 1) | .ageingReplanned => (0x0E, 1) | .unitFenced => (0x0F, 2) | .eccCorrected => (0x10, 0)
  | .eccUncorrected => (0x11, 3) | .linkDown => (0x12, 2) | .linkUp => (0x13, 1) | .managerChange => (0x14, 2)
  | .partitionResetDone => (0x15, 1) | .wipeDone => (0x16, 1) | .counterWrap => (0x17, 0) | .blockUnderflowHigh => (0x18, 1)

def fnKey (f : FnId) : Nat := f.port.val * 64 + f.vf.val
def fnRec (s : State) (f : FnId) : FnRec := s.host.fns.get {} (fnKey f)
def setFn (f : FnId) (r : FnRec) (s : State) : State :=
  { s with host := { s.host with fns := s.host.fns.set {} (fnKey f) r } }

/-- Sends an MSI-X message; a masked vector sets its pending bit instead (R358, PCIe). -/
def sendMsix (f : FnId) (v : Fin 8) (s : State) : State :=
  let r := fnRec s f
  if (r.msix[v]).getLsbD 96 then setFn f { r with pba := r.pba ||| (1 <<< v.val) } s
  else { s with out := s.out ++ [.msix f v] }

/-- Bytes to host memory over CXL.cache (R362). -/
def hostWrite (a : Nat) (d : List Byte) (s : State) : State :=
  { s with mem := { s.mem with host := writeBytes s.mem.host a d } }

/-- The 32 bytes of an event record (R357). -/
def evBytes (e : EvCode) (unit : BitVec 32) (tide : Word) (detail : List Byte) (phase : Bool) : List Byte :=
  leBytes 4 (e.code.1 + e.code.2 * 2 ^ 16 + (b2n phase) * 2 ^ 20) ++ leBytes 4 unit.toNat ++ leBytes 8 tide.toNat ++
  (detail ++ List.replicate 16 0).take 16

/-- Writes an event to a function's queue, or drops it there (R358). -/
def deliver (f : FnId) (e : EvCode) (unit : BitVec 32) (tide : Word) (detail : List Byte) (s : State) : State :=
  let r := fnRec s f
  if r.state != .running || e.code.2 < r.minSev then s
  else if (r.tail + 1) % 2 ^ r.size = r.head then
    setFn f { r with overflow := true, lost := min (r.lost + 1) 0xFFFFFFFF } s
  else
    let s := hostWrite (r.eqBase.toNat + 32 * r.tail) (evBytes e unit tide detail r.phase) s
    let tail := (r.tail + 1) % 2 ^ r.size
    let r := { r with tail := tail, phase := if tail = 0 then !r.phase else r.phase
                      unsig := r.unsig + 1, unsigAt := if r.unsig = 0 then s.t.now else r.unsigAt }
    if r.irqEn && r.irqDelay == 0 then sendMsix f r.vector (setFn f { r with unsig := 0 } s) else setFn f r s

/-- The VF of a partition, if enabled (R349). -/
def vfOf (s : State) (p : Fin 64) : Option FnId :=
  match partOf s p with
  | some r => if r.vf.val ≤ s.host.ports[r.port].numVfs then some ⟨r.port, r.vf⟩ else none
  | none => none

/-- Functions an event goes to: the PFs, and the VFs of the partitions, or every enabled VF. -/
def evTargets (s : State) (ps : List (Fin 64)) (all : Bool) : List FnId :=
  let vfs := if all then
      (s.host.fns.filterMap fun e =>
        let f : FnId := ⟨Fin.ofNat 2 (e.1 / 64), Fin.ofNat 64 e.1⟩
        if f.vf.val ≠ 0 ∧ f.vf.val ≤ s.host.ports[f.port].numVfs then some f else none)
    else (ps.filterMap (vfOf s)).eraseDups
  [⟨0, 0⟩, ⟨1, 0⟩] ++ vfs

/-- Posts an event to the PFs and the VFs named; none before READY (R402); severities 3 and 4 also
go to the flash log (R492). -/
def postTo (e : EvCode) (unit : BitVec 32) (ps : List (Fin 64)) (all : Bool) (tide : Word) (detail : List Byte)
    (s : State) : State :=
  let s := if 3 ≤ e.code.2 then
      { s with boot := { s.boot with log := (s.boot.log ++ [evBytes e unit tide detail false]).drop (s.boot.log.length + 1 - 65536) } }
    else s
  if !s.boot.ready then s
  else (evTargets s ps all).foldl (fun s f => deliver f e unit tide detail s) s

/-- Posts an event to the PFs and one owner. -/
def postEvent (e : EvCode) (unit : BitVec 32) (part : Option (Fin 64)) (tide : Word) (detail : List Byte)
    (s : State) : State :=
  postTo e unit part.toList false tide detail s

/-- ECC_UNCORRECTED (R198, R372), at most once per 100 ms for one failing code unit (R486): `loc` numbers it. -/
def postEccUncorrected (unit : BitVec 32) (part : Option (Fin 64)) (tide : Word) (addr : Word) (byUnit : BitVec 32)
    (memKind loc : Nat) (s : State) : State :=
  let soon : Bool := match s.host.eccBad.get none loc with | some n => decide (s.t.now < n + usec 100000) | none => false
  if soon then s
  else postEvent .eccUncorrected unit part tide (leBytes 8 addr.toNat ++ leBytes 4 byUnit.toNat ++ leBytes 4 memKind)
    { s with host := { s.host with eccBad := s.host.eccBad.set none loc (some s.t.now) } }

/-- ECC_CORRECTED, at most one a second for a unit and 64 a second in all; what is not posted is
counted in the next (R372, R486). -/
def postEccCorrected (unit : BitVec 32) (tide : Word) (addr : Word) (n : Nat) (s : State) : State :=
  let k := unit.toNat
  let h := s.host
  let total := h.eccPend.get 0 k + n
  let h := if h.eccWin + usec 1000000 ≤ s.t.now then { h with eccWin := s.t.now, eccCount := 0 } else h
  let soon := match h.eccAt.get none k with | some a => decide (s.t.now < a + usec 1000000) | none => false
  if soon || 64 ≤ h.eccCount then { s with host := { h with eccPend := h.eccPend.set 0 k total } }
  else
    postTo .eccCorrected unit [] false tide (leBytes 8 addr.toNat ++ leBytes 4 total)
      { s with host := { h with eccPend := h.eccPend.set 0 k 0, eccAt := h.eccAt.set none k (some s.t.now)
                                eccCount := h.eccCount + 1 } }

/-- Posts the corrections that R486 held back, once it allows (R372). -/
def postHeldEcc (unit : BitVec 32) (tide : Word) (addr : Word) (s : State) : State :=
  if s.host.eccPend.get 0 unit.toNat = 0 then s else postEccCorrected unit tide addr 0 s

/-- COUNTER_WRAP when the 48-bit part of a counter wraps (R63, R487): by its unit, its address or
the opcode that reads it, and its partition. -/
def wrapEvent (unit : BitVec 32) (addr : Word) (opcode : Nat) (p : Option (Fin 64)) (old : Word) (n : Nat)
    (s : State) : State :=
  if old.toNat % 2 ^ 48 + n < 2 ^ 48 then s
  else postEvent .counterWrap unit p (moduleTide s)
    (leBytes 8 addr.toNat ++ leBytes 2 opcode ++ [match p with | some p => BitVec.ofNat 8 p.val | none => 0xFF]) s

/-- COUNTER_WRAP of a counter with an address: Atbin's unit in a module block, else the core or the
cluster that holds it (R372). -/
def counterWrap (addr : Word) (part : Option (Fin 64)) (old : Word) (n : Nat) (s : State) : State :=
  let a := addr.toNat
  let unit := if bit a 38 then atbinUnit
    else if fld a 0 22 < 0x3000 then unitId 0 (fld a 36 2) (fld a 29 7) (fld a 22 7) (fld a 0 22 / 0x200)
    else unitId 2 (fld a 36 2) (fld a 29 7) (fld a 22 7) 0
  wrapEvent unit addr 0 part old n s

/-! ### Numeric reports on their way (R60, R143, R145) -/

/-- REGION of a cluster (R144). -/
def regionOf (s : State) (c : Cl) : BitVec 5 := s.num.region.get 0x1F (ck c)

def numBlock (s : State) (p : Fin 64) : NumBlock := s.num.blocks.get {} p.val

def setNum (p : Fin 64) (b : NumBlock) (s : State) : State :=
  { s with num := { s.num with blocks := s.num.blocks.set {} p.val b } }

/-- Address of a register of a partition's numerics block (R188), with module 0xFF. -/
def numAddr (off : Nat) : Word := BitVec.ofNat 64 (0xFF * 2 ^ 56 + 0x4 * 2 ^ 52 + 2 ^ 38 + off)

/-- Counts in NAN_LOST (R56, R60). -/
def lostNan (c : Cl) (n : Nat) (s : State) : State :=
  match owner s c with
  | some p =>
    if n = 0 then s
    else
      let b := numBlock s p
      counterWrap (numAddr 0x28) (some p) b.nanLost n (setNum p { b with nanLost := b.nanLost + BitVec.ofNat 64 n } s)
  | none => s

/-- A produced-NaN report sets out to its partition (R60). -/
def reportNan (c : Cl) (who : NanUnit) (unit : BitVec 32) (source format cause : Nat) (loc : Word) (n : Nat)
    (s : State) : State :=
  match owner s c with
  | some p => if n = 0 then s else
    { s with num := { s.num with nans := s.num.nans ++ [⟨p, who, unit, BitVec.ofNat 4 source, BitVec.ofNat 5 format, BitVec.ofNat 4 cause, loc, localTide s c, n⟩] } }
  | none => s

/-- An overflow report sets out (R143). -/
def reportOvf (c : Cl) (unit : BitVec 32) (n : Nat) (s : State) : State :=
  match owner s c with
  | some p => if n = 0 then s else
    { s with num := { s.num with overflows := s.num.overflows ++ [⟨p, unit, regionOf s c, n, s.t.now⟩] } }
  | none => s

/-- A BLOCK_UNDERFLOW increment sets out (R145). -/
def reportUdf (c : Cl) (unit : BitVec 32) (n : Nat) (s : State) : State :=
  match owner s c with
  | some p => if n = 0 then s else
    { s with num := { s.num with underflows := s.num.underflows ++ [⟨p, unit, regionOf s c, n, s.t.now⟩] } }
  | none => s

end Sys2Proof.Machine
end

