-- ==== Sys2Proof/Machine/Access.lean ====
section
/-! DEFINITION. Global addresses, the access checks of R185, the stack map, memory with its error
codes and zeroing, and the issue and travel of requests (spec/00_scope.md, 07_memory.md,
08_mesh.md). -/

namespace Sys2Proof.Machine

/-! ### Addresses (R8, R9, R186) -/

def addrModule (a : Word) : BitVec 8 := a.extractLsb' 56 8
def addrSpace (a : Word) : Nat := fld a.toNat 52 4

/-- The cluster that bits [37:22] name; none where cy or cx is above 95. -/
def addrCl (a : Word) : Option Cl :=
  let n := a.toNat
  if h : fld n 29 7 < 96 ∧ fld n 22 7 < 96 then some ⟨Fin.ofNat 4 (fld n 36 2), ⟨fld n 22 7, h.2⟩, ⟨fld n 29 7, h.1⟩⟩
  else none

/-- Address of a cluster's unit: module 0xFF, a space, the cluster, and an offset (R8). -/
def clAddr (space : Nat) (c : Cl) (off : Nat) : Word :=
  BitVec.ofNat 64 (0xFF * 2 ^ 56 + space * 2 ^ 52 + c.w.val * 2 ^ 36 + c.y.val * 2 ^ 29 + c.x.val * 2 ^ 22 + off)

/-- Every bit outside the space's layout is 0 and its coordinates and numbers are in range
(R9, R16, R186, R187, R259). -/
def layoutOk (a : Word) : Bool :=
  let n := a.toNat
  let hi := fld n 38 14 == 0
  match addrSpace a with
  | 0x0 => fld n 42 10 == 0
  | 0x1 => hi && (addrCl a).isSome
  | 0x2 => hi && (addrCl a).isSome && !bit n 21 && fld n 16 5 < 24
  | 0x3 => hi && (addrCl a).isSome && !bit n 21 && fld n 17 4 < 6
  | 0x4 => fld n 39 13 == 0 && (if bit n 38 then fld n 22 16 == 0 else (addrCl a).isSome)
  | 0x5 => hi && (addrCl a).isSome && fld n 13 9 == 0 && fld n 8 5 < 24 && fld n 0 3 == 0
  | 0x6 => hi && (addrCl a).isSome && fld n 20 2 == 0
  | 0x8 => true
  | _ => false

/-- Size and alignment allowed for the space (R185 check 1, R189, R190): a core's access to host memory is naturally
aligned, a part of a block load or store too. -/
def sizeOk (who : Requester) (k : ReqKind) (a : Word) (len : Nat) : Bool :=
  match addrSpace a with
  | 0x8 => match who with
    | .core _ => [1, 2, 4, 8, 16, 32].contains len && a.toNat % len == 0
    | _ => true
  | 0x4 =>
    let off := fld a.toNat 0 22
    let bins := !bit a.toNat 38 && 0x5000 ≤ off && off < 0x5800 && off % 0x200 < 0x100
    (len == 8 && a.toNat % 8 == 0) || (len == 4 && a.toNat % 4 == 0 && bins && k == .read)
  | _ => true

/-- The operation is allowed in the space for the unit (R185 check 2, R186). -/
def opOk (who : Requester) (k : ReqKind) (a : Word) : Bool :=
  let sp := addrSpace a
  match k with
  | .atomic _ => sp ≤ 3
  | .object op => (op < 4 && sp == 5) || (8 ≤ op && op ≤ 10 && sp == 6)
  | .message => sp == 6
  | _ =>
    match who with
    | .pump _ => sp ≤ 3 || sp == 8
    | .io _ _ => sp == 0 || sp == 1 || sp == 3
    | _ => sp ≤ 4 || sp == 8

/-- The operation can be sent to another module (R186 last column, R208). -/
def remoteOk (k : ReqKind) (a : Word) : Bool :=
  let sp := addrSpace a
  match k with
  | .read => sp ≤ 3
  | .write => sp ≤ 3
  | .atomic op => sp ≤ 3 && op ≤ 2
  | .object op => (sp == 5 && (op == 1 || op == 2)) || (sp == 6 && 8 ≤ op && op ≤ 10)
  | .message => sp == 6

/-! ### Stack map (R192) -/

/-- Translates a space 0x0 offset: the stack and its physical byte address (R192). -/
def translate (m : List StackRegion) (o : Nat) : Option (Fin 48 × Nat) :=
  match m.find? fun r => r.start ≤ o / 2 ^ 30 && o / 2 ^ 30 < r.start + r.members.length * r.depth with
  | none => none
  | some r =>
    let rel := o - r.start * 2 ^ 30
    let cnt := r.members.length
    let mi := if r.linear then rel / 2 ^ 30 / r.depth else rel / 4096 % cnt
    let within := if r.linear then rel % 2 ^ 30 + (rel / 2 ^ 30 % r.depth) * 2 ^ 30
      else (rel / 4096 / cnt) * 4096 + rel % 4096
    match r.members[mi]? with
    | none => none
    | some n => some (n, ((r.phys.getD mi []).getD (within / 2 ^ 30) 0) * 2 ^ 30 + within % 2 ^ 30)

/-! ### Frontages (R21-R23) -/

/-- The clusters of stack `n`'s frontage, in increasing edge coordinate (R21). -/
def frontage (n : Fin 48) : List Cl :=
  let w := n.val / 12
  let j := n.val % 12
  (List.range 16).map fun i =>
    if j < 6 then ⟨Fin.ofNat 4 w, Fin.ofNat 96 (16 * j + i), if w < 2 then 0 else 95⟩
    else ⟨Fin.ofNat 4 w, if w % 2 = 0 then 0 else 95, Fin.ofNat 96 (16 * (j - 6) + i)⟩

/-- The frontage's live routers under a bank (R23). -/
def liveFront (b : Bank) (n : Fin 48) : List Cl := (frontage n).filter fun c => !b.dead.contains (ck c)

/-- The frontage router that serves a cluster (R23); none where none is live. -/
def frontRouter (b : Bank) (n : Fin 48) (c : Cl) : Option Cl :=
  let l := liveFront b n
  if l.length = 0 then none else l[(c.x.val + c.y.val) % l.length]?

/-- The stack whose adapter holds an Ocsal port (R22). -/
def ocsalStack (p : Fin 16) : Fin 48 :=
  (#[19, 43, 22, 46, 7, 31, 10, 34, 1, 13, 25, 37, 4, 16, 28, 40] : Array (Fin 48)).getD p.val 0

/-- The stack whose adapter holds a CXL port (R22). -/
def cxlStack (p : Fin 2) : Fin 48 := if p = 0 then 8 else 45

/-- The outward router port by which a frontage's routers join its adapter (R14, R21). -/
def edgePort (n : Fin 48) : Fin 5 :=
  let w := n.val / 12
  if n.val % 12 < 6 then (if w < 2 then 0 else 2) else (if w % 2 = 0 then 3 else 1)

/-- The adapter, by its stack, beyond which a requester stands; none for a unit of a cluster. -/
def whoEdge : Requester → Option (Fin 48)
  | .pump (.stack st _) => some st
  | .remote _ _ port _ => some (ocsalStack port)
  | .cxl p => some (cxlStack p)
  | _ => none

/-! ### Routes (R219-R221) -/

/-- The neighbour router of a port; none where the port faces an outer edge (R14, R228). -/
def nbr (c : Cl) (d : Fin 4) : Option Cl :=
  match d with
  | 0 => if c.y.val = 0 then (if c.w.val < 2 then none else some ⟨c.w - 2, c.x, 95⟩) else some { c with y := c.y - 1 }
  | 1 => if c.x.val = 95 then (if c.w.val % 2 = 1 then none else some ⟨c.w + 1, 0, c.y⟩) else some { c with x := c.x + 1 }
  | 2 => if c.y.val = 95 then (if 2 ≤ c.w.val then none else some ⟨c.w + 2, c.x, 0⟩) else some { c with y := c.y + 1 }
  | 3 => if c.x.val = 0 then (if c.w.val % 2 = 0 then none else some ⟨c.w - 1, 95, c.y⟩) else some { c with x := c.x - 1 }

/-- The directed crossing a port drives, by number: ((wafer * 2 + axis) * 128 + edge index); none
for an on-wafer hop (R20, R228). -/
def crossingOf (c : Cl) (d : Fin 4) : Option Nat :=
  match nbr c d with
  | none => none
  | some u =>
    if u.w = c.w then none
    else some ((c.w.val * 2 + (if d = 0 ∨ d = 2 then 1 else 0)) * 128 + (if d = 0 ∨ d = 2 then c.x.val else c.y.val))

/-- The hop works under a bank: the neighbour is not dead and the crossing is not lost. -/
def hopLive (b : Bank) (c : Cl) (d : Fin 4) : Bool :=
  match nbr c d with
  | none => false
  | some u => !b.dead.contains (ck u) &&
    match crossingOf c d with
    | some k => !b.lost.contains k
    | none => true

def gx (c : Cl) : Nat := c.x.val + 96 * (c.w.val % 2)
def gy (c : Cl) : Nat := c.y.val + 96 * (c.w.val / 2)

/-- The XY hop towards a destination (R220); none at the destination. -/
def xyHop (c dst : Cl) : Option (Fin 4) :=
  if gx c < gx dst then some 1
  else if gx dst < gx c then some 3
  else if gy c < gy dst then some 2
  else if gy dst < gy c then some 0
  else none

/-- The XY route from a router is wholly live under a bank. -/
def xyLive (b : Bank) (dst : Cl) : Nat → Cl → Bool
  | 0, _ => false
  | k + 1, c =>
    match xyHop c dst with
    | none => true
    | some d => hopLive b c d && (match nbr c d with | some u => xyLive b dst k u | none => false)

/-- Routers reached from a worklist over live hops, at most `fuel` of them. -/
def flood (b : Bank) : Nat → List Cl → List Nat → List Nat
  | 0, _, seen => seen
  | _, [], seen => seen
  | k + 1, c :: rest, seen =>
    if seen.contains (ck c) then flood b k rest seen
    else
      let next := ([0, 1, 2, 3] : List (Fin 4)).filterMap fun d => if hopLive b c d then nbr c d else none
      flood b k (rest ++ next) (ck c :: seen)

/-- The routers cut off from `root` with a live router: what its flood meets, where the dead routers
and lost crossings enclose it, n of them at most n² routers (R221). A router that has a live XY route to
the root, or the root to it, is not cut off. -/
def enclosed (b : Bank) (root : Option Cl) (c : Cl) : List Nat :=
  let joined : Bool := match root with
    | some r => !b.dead.contains (ck r) && (xyLive b r 384 c || xyLive b c 384 r)
    | none => false
  if joined then []
  else
    let n := b.dead.length + b.lost.length
    let l := flood b (4 * (n * n + n + 2)) [c] []
    if l.length ≤ n * n && !(match root with | some r => l.contains (ck r) | none => false) then l else []

/-- The hops from a router on a shortest live path to a destination, found by layers of routers
around it: `cur` holds the routers at one distance, `prev` those one hop nearer. -/
def pathHops (b : Bank) (c : Cl) : Nat → List Cl → List Cl → List (Fin 4)
  | 0, _, _ => []
  | k + 1, prev, cur =>
    let hops := ([0, 1, 2, 3] : List (Fin 4)).filter fun d =>
      hopLive b c d && (match nbr c d with | some u => cur.contains u | none => false)
    let near (u : Cl) (d : Fin 4) : Option Cl := (nbr u d).filter fun v =>
      hopLive b v (d + 2) && !b.dead.contains (ck v) && !prev.contains v
    if !hops.isEmpty then hops
    else
      let next := (cur.flatMap fun u => ([0, 1, 2, 3] : List (Fin 4)).filterMap (near u)).eraseDups
      if next.isEmpty then [] else pathHops b c k cur next

/-- A router's port towards its parent in a bank's spanning tree: the first hop of a shortest live path to the root,
of several the one a free value names (R220 says a spanning tree of live routers, R225 the same of tree tables; which
one is Atbin's: DESIGN CHOICE, log entry 145). -/
def treeParent (b : Bank) (epoch : Nat) (root v : Cl) : Option (Fin 4) :=
  if v = root then none
  else
    let l := pathHops b v 36864 [] [root]
    l[Config.treePort epoch (ck v) (ck root) % l.length]?

/-- A router's port towards its child under which `d` hangs; none where `d` does not hang under it. -/
def treeDown (b : Bank) (epoch : Nat) (root r : Cl) : Nat → Cl → Option (Fin 4)
  | 0, _ => none
  | k + 1, d =>
    match treeParent b epoch root d with
    | none => none
    | some p =>
      match nbr d p with
      | none => none
      | some u => if u = r then some (p + 2) else treeDown b epoch root r k u

/-- The hop on the second virtual channel: along the bank's spanning tree, up and then down, so that no links depend
on each other in a cycle (R220). -/
def treeHop (b : Bank) (epoch : Nat) (r dst : Cl) : Option (Fin 4) :=
  match b.root with
  | none => none
  | some root =>
    match treeDown b epoch root r 36864 dst with
    | some d => some d
    | none => treeParent b epoch root r

/-- An entry of a router's bank (R219). -/
inductive Entry where
  | xy
  | port (d : Fin 4)
  | move
  | unreachable
  deriving DecidableEq, Repr

/-- Router `r`'s entry for a destination and a virtual channel (R219-R221): XY while the XY hop is live, else the move
to the second virtual channel, at the last live router before the loss. -/
def bankEntry (b : Bank) (epoch : Nat) (r : Cl) (vc1 : Bool) (dst : Cl) : Entry :=
  if b.dead.contains (ck dst) || b.dead.contains (ck r) then .unreachable
  else if vc1 then
    match treeHop b epoch r dst with
    | some d => .port d
    | none => .unreachable
  else
    match xyHop r dst with
    | none => .xy
    | some d => if hopLive b r d then .xy else .move

/-- What a router does with a packet: delivers it, sends it to a port, on the second virtual channel if `move`, or
answers it. -/
inductive Hop where
  | deliver
  | port (d : Fin 4) (move : Bool)
  | unreachable
  deriving DecidableEq, Repr

/-- The next hop (R219, R220): a packet at its DEST router is delivered whatever the table says. -/
def nextHop (b : Bank) (epoch : Nat) (c dst : Cl) (vc1 : Bool) : Hop :=
  if c = dst then .deliver
  else
    match bankEntry b epoch c vc1 dst with
    | .xy => (match xyHop c dst with | some d => .port d vc1 | none => .deliver)
    | .port d => .port d vc1
    | .move => (match bankEntry b epoch c true dst with | .port d => .port d true | _ => .unreachable)
    | .unreachable => .unreachable

/-! ### Trees (R225) -/

/-- A router's entry of a tree: parent port (none at the root), child ports, and whether its cluster is a member. -/
structure TreeEntry where
  parent : Option (Fin 4)
  children : List (Fin 4)
  member : Bool
  deriving DecidableEq, Repr

/-- The routers from `v` up to the root. -/
def treeChain (b : Bank) (epoch : Nat) (root : Cl) : Nat → Cl → List Cl
  | 0, v => [v]
  | k + 1, v => v :: match (treeParent b epoch root v).bind (nbr v) with
    | some u => treeChain b epoch root k u
    | none => []

/-- The routers of a tree: those on the way from its members to its root. -/
def treeRouters (b : Bank) (epoch : Nat) (root : Cl) (members : List Cl) : List Cl :=
  (root :: members.flatMap (treeChain b epoch root 36864)).eraseDups

/-- A router's tree-table entry for a tree; none where the tree does not pass it. Atbin rebuilds it with each bank
(R225). -/
def treeEntry (b : Bank) (epoch : Nat) (root : Cl) (members : List Cl) (v : Cl) : Option TreeEntry :=
  let l := treeRouters b epoch root members
  if !l.contains v then none
  else some
    { parent := treeParent b epoch root v
      children := ([0, 1, 2, 3] : List (Fin 4)).filter fun d => match nbr v d with
        | some u => l.contains u && treeParent b epoch root u == some (d + 2)
        | none => false
      member := members.contains v }

/-! ### Memory (R194-R201) -/

/-- Where an SRAM address of spaces 0x1–0x3 is held. -/
def sramKey (a : Word) : Nat := addrSpace a * 2 ^ 38 + fld a.toNat 0 38

/-- The units of size `u` that `n` bytes at `k` touch. -/
def unitsOf (u k n : Nat) : List Nat := if n = 0 then [] else (List.range ((k + n - 1) / u - k / u + 1)).map (· + k / u)

/-- A unit that the bytes cover only in part. -/
def partUnit (u k n j : Nat) : Bool := u * j < k || k + n < u * j + u

/-- Outcome of the error code over the units an access reads (R198, R199): those corrected, and those that cannot be. -/
def eccRead (err : SMap Nat) (us : List Nat) : List Nat × List Nat :=
  (us.filter fun j => err.get 0 j == 1, us.filter fun j => err.get 0 j == 2)

/-- Clears the error state of units. -/
def eccClear (err : SMap Nat) (us : List Nat) : SMap Nat := us.foldl (fun e j => e.set 0 j 0) err

/-- Counts errors in a memory error block (R201). -/
def MemErr.count (e : MemErr) (corr uncorr : Nat) (addr : Word) (memKind : Nat) : MemErr :=
  { corrected := e.corrected + BitVec.ofNat 64 corr, uncorrected := e.uncorrected + BitVec.ofNat 64 uncorr,
    lastAddr := addr, lastMem := BitVec.ofNat 2 memKind, lastUncorr := uncorr != 0 }

/-- The unit of the last error that an access counts: its corrections, then the failure of the read (R201). -/
def lastUnit (corr bad : List Nat) : Nat :=
  match bad with
  | j :: _ => j
  | [] => corr.getLastD 0

/-- An SRAM code unit's address. -/
def sramUnitAddr (j : Nat) : Word := BitVec.ofNat 64 (0xFF * 2 ^ 56 + 8 * j / 2 ^ 38 * 2 ^ 52 + 8 * j % 2 ^ 38)

/-- Counts the SRAM errors of a read, unit by unit and one failure for the read, and posts their events; a run-ahead
read posts nothing of an uncorrectable error (R198, R200, R201). -/
def sramError (c : Cl) (corr bad : List Nat) (ra : Bool) (byUnit : BitVec 32) (s : State) : State :=
  if corr.isEmpty ∧ bad.isEmpty then s
  else
    let old := s.mem.clErr.get {} (ck c)
    let addr := sramUnitAddr (lastUnit corr bad)
    let fails := b2n !bad.isEmpty
    let new := old.count corr.length fails addr (addrSpace addr - 1)
    let s := { s with mem := { s.mem with clErr := s.mem.clErr.set {} (ck c) new } }
    let s := counterWrap (clAddr 4 c 0xF000) (owner s c) old.corrected corr.length s
    let s := counterWrap (clAddr 4 c 0xF008) (owner s c) old.uncorrected fails s
    let s := if corr.isEmpty then s else postEccCorrected (clUnit c) (localTide s c) new.lastAddr corr.length s
    if bad.isEmpty ∨ ra then s
    else postEccUncorrected (clUnit c) (owner s c) (localTide s c) addr byUnit (addrSpace addr - 1) (bad.headD 0) s

/-- Counts the stack errors of a read that began at physical byte `phys` and global address `addr` (R198, R200, R201). -/
def stackError (n : Fin 48) (corr bad : List Nat) (phys : Nat) (addr : Word) (part : Option (Fin 64)) (ra : Bool)
    (byUnit : BitVec 32) (s : State) : State :=
  if corr.isEmpty ∧ bad.isEmpty then s
  else
    let old := s.mem.stErr.get {} n.val
    let fails := b2n !bad.isEmpty
    let new := old.count corr.length fails (BitVec.ofNat 64 (n.val * 2 ^ 58 + 32 * lastUnit corr bad % 2 ^ 36)) 3
    let s := { s with mem := { s.mem with stErr := s.mem.stErr.set {} n.val new } }
    let base := 0xFF * 2 ^ 56 + 0x4 * 2 ^ 52 + 2 ^ 38 + 0x2000 + 0x20 * n.val
    let s := counterWrap (BitVec.ofNat 64 base) none old.corrected corr.length s
    let s := counterWrap (BitVec.ofNat 64 (base + 8)) none old.uncorrected fails s
    let s := if corr.isEmpty then s else postEccCorrected (stackUnit n) (moduleTide s) new.lastAddr corr.length s
    if bad.isEmpty ∨ ra then s
    else
      let first := bad.headD 0
      let at_ := addr - BitVec.ofNat 64 (phys % 32) + BitVec.ofNat 64 (32 * first % 2 ^ 36 - phys / 32 * 32)
      postEccUncorrected (stackUnit n) part (moduleTide s) at_ byUnit 3 (2 ^ 41 + first) s

/-- Notes the failing code units of an access, for the thresholds of R482. -/
def addStrikes (stack : Bool) (err : SMap Nat) (us : List Nat) (s : State) : State :=
  let l := us.filterMap fun j =>
    if err.get 0 j = 1 then some (stack, false, j) else if err.get 0 j = 2 then some (stack, true, j) else none
  if l.isEmpty then s else { s with boot := { s.boot with struck := s.boot.struck ++ l } }

/-- SRAM read with its error code (R198). -/
def sramRead (a : Word) (n : Nat) (ra : Bool) (byUnit : BitVec 32) (s : State) : Byte × List Byte × State :=
  let k := sramKey a
  match addrCl a with
  | none => (0x03, [], s)
  | some c =>
    let e := eccRead s.mem.sramErr (unitsOf 8 k n)
    let s := if ra && !e.2.isEmpty then s else addStrikes false s.mem.sramErr (unitsOf 8 k n) s
    let s := { s with mem := { s.mem with sramErr := eccClear s.mem.sramErr e.1 } }
    let s := sramError c e.1 e.2 ra byUnit s
    if !e.2.isEmpty then (0x0C, [], s) else (0x00, readBytes s.mem.sram k n, s)

/-- SRAM write: a unit covered in part is read and merged, a unit covered whole loses its error
(R199). -/
def sramWrite (a : Word) (d : List Byte) (byUnit : BitVec 32) (s : State) : Byte × State :=
  let k := sramKey a
  match addrCl a with
  | none => (0x03, s)
  | some c =>
    let us := unitsOf 8 k d.length
    let e := eccRead s.mem.sramErr (us.filter (partUnit 8 k d.length))
    let s := addStrikes false s.mem.sramErr (us.filter (partUnit 8 k d.length)) s
    let s := sramError c e.1 e.2 false byUnit s
    if !e.2.isEmpty then (0x0C, s)
    else (0x00, { s with mem := { s.mem with sram := writeBytes s.mem.sram k d, sramErr := eccClear s.mem.sramErr us } })

/-- The page record of a stack address. -/
def pageKey (n : Fin 48) (phys : Nat) : Nat := n.val * 64 + phys / 2 ^ 30
def pageOf (s : State) (n : Fin 48) (phys : Nat) : PageRec := s.mem.pages.get {} (pageKey n phys)

/-- The granule reads as zeros without touching the DRAM: above the watermark and not on the ahead
list (R196). -/
def granuleZero (s : State) (n : Fin 48) (phys : Nat) : Bool :=
  let p := pageOf s n phys
  let g := phys % 2 ^ 30 / 4096
  decide (p.mark ≤ g) && !p.ahead.contains g

/-- Stack read (R196, R198). -/
def stackRead (n : Fin 48) (phys len : Nat) (addr : Word) (part : Option (Fin 64)) (ra : Bool) (byUnit : BitVec 32)
    (s : State) : Byte × List Byte × State :=
  if granuleZero s n phys then (0x00, List.replicate len 0, s)
  else
    let k := n.val * 2 ^ 36 + phys
    let e := eccRead s.mem.stackErr (unitsOf 32 k len)
    let s := if ra && !e.2.isEmpty then s else addStrikes true s.mem.stackErr (unitsOf 32 k len) s
    let s := { s with mem := { s.mem with stackErr := eccClear s.mem.stackErr e.1 } }
    let s := stackError n e.1 e.2 phys addr part ra byUnit s
    if !e.2.isEmpty then (0x0C, [], s) else (0x00, readBytes s.mem.stack k len, s)

/-- GRANULE_ZERO_AHEAD (R196): the granule is zeroed and listed; none while the list is full. -/
def zeroAhead (n : Fin 48) (phys : Nat) (s : State) : Option State :=
  if !granuleZero s n phys then some s
  else
    let p := pageOf s n phys
    if 64 ≤ p.ahead.length then none
    else
      let g := phys % 2 ^ 30 / 4096
      let base := n.val * 2 ^ 36 + phys / 4096 * 4096
      some { s with mem := { s.mem with
        pages := s.mem.pages.set {} (pageKey n phys) { p with ahead := p.ahead ++ [g] }
        stack := s.mem.stack.filter fun e => !(base ≤ e.1 && e.1 < base + 4096)
        stackErr := s.mem.stackErr.filter fun e => !(base ≤ 32 * e.1 && 32 * e.1 < base + 4096) } }

/-- Stack write (R196, R199); none while the ahead list is full. -/
def stackWrite (n : Fin 48) (phys : Nat) (d : List Byte) (addr : Word) (part : Option (Fin 64)) (byUnit : BitVec 32)
    (s : State) : Option (Byte × State) :=
  match zeroAhead n phys s with
  | none => none
  | some s =>
    let k := n.val * 2 ^ 36 + phys
    let us := unitsOf 32 k d.length
    let e := eccRead s.mem.stackErr (us.filter (partUnit 32 k d.length))
    let s := addStrikes true s.mem.stackErr (us.filter (partUnit 32 k d.length)) s
    let s := stackError n e.1 e.2 phys addr part false byUnit s
    if !e.2.isEmpty then some (0x0C, s)
    else some (0x00, { s with mem := { s.mem with stack := writeBytes s.mem.stack k d, stackErr := eccClear s.mem.stackErr us } })

/-- Gives a page a new key: its contents are gone and it reads as zeros from now on; its place in
the stack's zeroing order is kept, with its watermark and ahead list if zeroing was under way
(R195, R196). -/
def rekeyPage (n : Fin 48) (page job : Nat) (holder : Option (Fin 64)) (index : Nat) (s : State) : State :=
  let key := n.val * 64 + page
  let p := s.mem.pages.get {} key
  let q := s.mem.zeroing.get [] n.val
  let busy := q.contains page
  let base := n.val * 2 ^ 36 + page * 2 ^ 30
  { s with mem := { s.mem with
    pages := s.mem.pages.set {} key { p with holder := holder, index := index, jobs := if busy then p.jobs ++ [job] else [job],
                                             mark := if busy then p.mark else 0, ahead := if busy then p.ahead else [] }
    zeroing := s.mem.zeroing.set [] n.val (if busy then q else q ++ [page])
    stack := s.mem.stack.filter fun e => !(base ≤ e.1 && e.1 < base + 2 ^ 30) } }

/-! ### Requests (R185, R208, R216-R218, R238) -/

/-- Unit identifier of a requester (R7, R198). -/
def whoUnit : Requester → BitVec 32
  | .core x => coreUnit x.c x.k.val
  | .io c i => tileUnit ⟨c, Fin.ofNat 32 (8 * (i.val + 1))⟩
  | .pump (.cluster c ch) => unitId 0xB c.w.val c.y.val c.x.val ch.val
  | .pump (.stack st ch) => unitId 0xB (st.val / 12) 0x7F 0x7F (16 * (st.val % 12) + ch.val)
  | .config c => clUnit c
  | .wellhead _ => unitId 9 0 0 0 0
  | .remote _ _ port _ => unitId 7 0 0 0 port.val
  | .cxl p => unitId 8 0 0 0 p.val

/-- Where an address leads from a router: its own cluster or a router and adapter; or the status of
the check that fails (R185 checks 1 to 4, R208). -/
def route (s : State) (who : Requester) (p : Option (Fin 64)) (k : ReqKind) (a : Word) (len : Nat) (src : Cl) :
    Byte ⊕ (Cl × Option (Fin 48)) :=
  let m := addrModule a
  let isRemote := m != 0xFF && some m != ownModule s
  if !layoutOk a || !sizeOk who k a len then .inl 0x03
  else if !opOk who k a then .inl 0x04
  else if isRemote then
    if !remoteOk k a then .inl 0x04
    else if (ownModule s).isNone then .inl 0x04
    else if !moduleAssigned s m then .inl 0x03
    else match p with
      | none => .inl 0x04
      | some p => match ocsalPort s who p src m with
        | none => .inl 0x09
        | some port => match frontRouter s.net.cur (ocsalStack port) src with
          | some r => .inr (r, some (ocsalStack port))
          | none => .inl 0x09
  else
    match addrSpace a with
    | 0x0 => match p with
      | none => .inl 0x03
      | some p => match translate (stackMap s p) (fld a.toNat 0 42) with
        | none => .inl 0x03
        | some (n, _) => match frontRouter s.net.cur n src with
          | some r => .inr (r, some n)
          | none => .inl 0x09
    | 0x4 =>
      let off := fld a.toNat 0 22
      if bit a.toNat 38 then
        if 0x10000 ≤ off ∧ off < 0x40000 then
          let n := Fin.ofNat 48 ((off - 0x10000) / 0x1000)
          match frontRouter s.net.cur n src with
          | some r => .inr (r, some n)
          | none => .inl 0x09
        else .inr (src, none)
      else (match addrCl a with | some c => .inr (c, none) | none => .inl 0x03)
    | 0x8 => match p with
      | none => .inl 0x04
      | some p => match hostPort s p with
        | none => .inl 0x04
        | some port => match frontRouter s.net.cur (cxlStack port) src with
          | some r => .inr (r, some (cxlStack port))
          | none => .inl 0x09
    | _ => match addrCl a with
      | some c => .inr (c, none)
      | none => .inl 0x03

/-- The cluster of this module that an address names; none for stacks, host memory, module blocks and other modules. -/
def targetCl (s : State) (a : Word) : Option Cl :=
  let m := addrModule a
  if m != 0xFF && some m != ownModule s then none
  else if addrSpace a == 0 || addrSpace a == 8 || (addrSpace a == 4 && bit a.toNat 38) then none
  else addrCl a

/-- The router by which a request enters the mesh: its cluster's, or from beyond an edge the frontage's live router for
the target cluster (R23). A stack pump channel's requests to no cluster of this module leave by live router
`channel mod N`, which R422 gives for other modules; for this module's stacks and host memory, and for a remote
request to a stack, the spec names no router (DESIGN CHOICE, log entry 146). -/
def srcRouter (s : State) (who : Requester) (src : Cl) (a : Word) : Cl :=
  match who with
  | .pump (.stack st n) =>
    match targetCl s a with
    | some c => (frontRouter s.net.cur st c).getD src
    | none => let l := liveFront s.net.cur st; (l[n.val % l.length]?).getD src
  | .remote _ _ port _ => (frontRouter s.net.cur (ocsalStack port) ((targetCl s a).getD ⟨0, 0, 0⟩)).getD src
  | _ => src

/-! ### Packets (R213-R218) -/

/-- TYPE of a request (R217). -/
def ReqKind.code : ReqKind → Nat
  | .read => 0 | .write => 1 | .atomic _ => 2 | .object _ => 3 | .message => 4

/-- OP of a request (R217). -/
def ReqKind.op : ReqKind → Nat
  | .atomic op => op
  | .object op => op
  | _ => 0

def isReply (x : Xact) : Bool := match x.phase with | .back _ _ => true | _ => false
def inMesh (x : Xact) : Bool := x.phase == .going || isReply x
def xactGoal (x : Xact) : Cl := if isReply x then x.src else x.dst

/-- The packet travels on the reply class: a reply, or a channel message of class 1 (R214, R272). -/
def onReplyClass (x : Xact) : Bool :=
  isReply x || (x.kind == .message && bit (leNat (x.data.drop 32)) 29)

/-- SRC_UNIT (R217, R242). -/
def srcUnit : Requester → Nat
  | .core x => x.k.val
  | .io _ i => 24 + i.val
  | .pump (.cluster _ ch) => 32 + ch.val
  | .pump (.stack _ _) => 48
  | .remote _ _ _ _ => 48
  | .cxl _ => 48
  | .config _ => 56
  | .wellhead _ => 56

/-- Payload bytes that a packet carries (R217). -/
def payloadLen (x : Xact) : Nat :=
  match x.phase with
  | .back _ d => d.length
  | _ => if x.kind = .read then 0 else x.data.length

/-- Flits of a packet (R218). -/
def xactFlits (x : Xact) : Nat :=
  let l := payloadLen x
  if l ≤ 32 then 1 else 1 + (l - 32 + 63) / 64

/-- TYPE of a packet (R217): bit 3 is the class. -/
def packetType (x : Xact) : Nat :=
  if isReply x then (match x.use with | .pending _ => 0xD | _ => 8 + x.kind.code) else x.kind.code

/-- The compare value of a CAS (R217). -/
def casOperand (x : Xact) : Nat :=
  match x.kind with
  | .atomic 4 => x.operand.toNat
  | .object 3 => x.operand.toNat
  | _ => 0

/-- The 32-byte header of a packet (R217); reserved bits are 0. -/
def header (x : Xact) : Nat :=
  let back := isReply x
  put (packetType x) 0 4 + put x.epoch.toNat 4 2 + put (b2n x.vc1) 6 1 + put (b2n (x.out && !back)) 7 1 +
  put (ck (xactGoal x)) 8 16 + put (ck (if back then x.dst else x.src)) 24 16 + put ((x.part.map (·.val)).getD 0) 40 6 +
  put (match x.phase with | .back st _ => st.toNat | _ => 0) 48 8 + put (srcUnit x.who) 56 6 + put x.tag.toNat 64 10 +
  put (if !back && x.kind == .read then x.len else payloadLen x) 80 9 +
  (if back then 0 else put x.kind.op 96 4 + put (b2n x.sat) 100 1 + put (b2n (x.ra && (match x.who with | .core _ => true | _ => false))) 101 1 + put x.addr.toNat 128 64 +
    put (casOperand x) 192 64)

/-- The lowest TAG that none of the requester's requests under way holds (R217 leaves the choice to the unit: DESIGN
CHOICE, log entry 147). -/
def freeTagOf (s : State) (who : Requester) (src : Cl) : BitVec 10 :=
  BitVec.ofNat 10 (((List.range 1024).find? fun t =>
    !s.net.xacts.any fun x => x.src == src && srcUnit x.who == srcUnit who && x.tag.toNat == t).getD 0)

/-- Flits a buffer holds (R214): by router, input port, class and virtual channel. -/
def vcFlits (s : State) (r : Cl) (port : Fin 5) (rsp vc1 : Bool) : Nat :=
  ((s.net.xacts.filter fun x => inMesh x && x.pos == r && x.port == port && onReplyClass x == rsp && x.vc1 == vc1).map
    xactFlits).sum

/-- Flits a buffer can hold: 64 at an aqueduct port, else 8 (R214). -/
def vcSize (r : Cl) (port : Fin 5) : Nat :=
  if h : port.val < 4 then
    match nbr r ⟨port.val, h⟩ with
    | some u => if u.w = r.w then 8 else 64
    | none => 8
  else 8

/-- The sender's credits for a buffer: the flits it still has room for (R214). -/
def vcCredits (s : State) (r : Cl) (port : Fin 5) (rsp vc1 : Bool) : Nat := vcSize r port - vcFlits s r port rsp vc1

/-- The input port by which a requester's packets enter their router. -/
def injPort (who : Requester) : Fin 5 := match whoEdge who with | some n => edgePort n | none => 4

/-- The target is reached without the mesh: it lies in the requester's cluster, or on its side of an edge. -/
def isLocal (s : State) (x : Xact) : Bool :=
  if x.out then x.adapter.isSome && x.adapter == whoEdge x.who && (addrModule x.addr == 0xFF || some (addrModule x.addr) == ownModule s)
  else x.src == x.dst && (whoEdge x.who).isNone

/-- A request at its source: taken at once where the target is local; held while injection is paused (R233), while an
earlier one waits (R224) or while its buffer lacks room (R214); else in the mesh, where its timer starts (R238). -/
def enter (s : State) (x : Xact) : Xact :=
  let start : Option Nat := match x.timer with
    | some t => some t
    | none => if x.use = .remote then none else some s.t.now
  let ahead : Bool := (s.net.xacts.takeWhile fun y => y.id != x.id).any fun y =>
    y.phase == .inject && y.src == x.src && injPort y.who == injPort x.who && onReplyClass y == onReplyClass x
  let x := { x with pos := x.src, port := injPort x.who, vc1 := false, since := s.t.now, epoch := BitVec.ofNat 2 s.net.routeEpoch }
  if isLocal s x then { x with phase := .there, timer := start }
  else if s.net.paused || ahead || vcCredits s x.src x.port (onReplyClass x) false < xactFlits { x with phase := .going } then
    { x with phase := .inject, timer := none }
  else { x with phase := .going, timer := start }

/-- Issues a request: refused ones complete at once with their status; others enter (R185, R216, R218). -/
def issueReq (who : Requester) (p : Option (Fin 64)) (k : ReqKind) (a : Word) (len : Nat) (data : List Byte)
    (operand : Word) (sat ra : Bool) (home : Cl) (use : Use) (s : State) : State :=
  let src := srcRouter s who home a
  let x : Xact :=
    { id := s.net.nextId, who := who, part := p, kind := k, addr := a,
      phys := (if addrSpace a = 0 then p.bind fun p => translate (stackMap s p) (fld a.toNat 0 42) else none), len := len, data := data, operand := operand,
      sat := sat, ra := ra, epoch := BitVec.ofNat 2 s.net.routeEpoch, src := src, dst := src, out := false, pos := src, vc1 := false,
      tag := freeTagOf s who src, since := s.t.now, phase := .inject, resent := false, timer := none, dead := false, again := false, use := use }
  let x := match route s who p k a len src with
    | .inl st => { x with phase := .home st [] }
    | .inr d => enter s { x with dst := d.1, out := d.2.isSome, adapter := d.2 }
  { s with net := { s.net with xacts := s.net.xacts ++ [x], nextId := s.net.nextId + 1 } }

def xactOf (s : State) (id : Nat) : Option Xact := s.net.xacts.find? (·.id == id)

def dropXact (id : Nat) (s : State) : State :=
  { s with net := { s.net with xacts := s.net.xacts.filter (·.id != id) } }

def setXact (x : Xact) (s : State) : State :=
  { s with net := { s.net with xacts := s.net.xacts.map fun y => if y.id = x.id then x else y } }

/-- Virtual channel of a packet (R410, R419). -/
def pktVc (pkt : OcsalPkt) : Fin 5 :=
  match pkt.kind.toNat with
  | 0 => if pkt.transit then 1 else 0
  | 1 => if pkt.transit then 3 else 2
  | _ => 4

/-- Credits in 32-byte units, and flits of 232 packet bytes, that a packet takes (R410). -/
def pktUnits (pkt : OcsalPkt) : Nat := (32 + pkt.payload.length + 31) / 32
def pktFlits (pkt : OcsalPkt) : Nat := (32 + pkt.payload.length + 231) / 232

/-- The port may send a packet now: credit on its channel and room in the retry buffer (R410, R411). -/
def portReady (s : State) (port : Fin 16) (pkt : OcsalPkt) : Bool :=
  let r := portRec s port
  decide (pktUnits pkt ≤ r.credits[(pktVc pkt).val]) && decide (r.txSeq + pktFlits pkt ≤ r.acked + 2048)

/-- A data packet leaves a port (R410, R415). -/
def sendPkt (port : Fin 16) (pkt : OcsalPkt) (s : State) : State :=
  let r := portRec s port
  let n := pktFlits pkt
  let v : Fin 8 := ⟨(pktVc pkt).val, by omega⟩
  let s := { s with out := s.out ++ [.ocsal port pkt] }
  let s := setPort port { r with sent := r.sent + BitVec.ofNat 64 n, txSeq := r.txSeq + n, sinceKey := r.sinceKey + n,
                                 credits := vset r.credits v (r.credits[v] - pktUnits pkt) } s
  wrapEvent (portUnit port) 0 0x0801 none r.sent n s

/-- The reply to a remote module's request leaves by the port it came by, or by any route if that
is down (R422); `tag` carries PORT_TAG and SRC_PORT. -/
def replyOut (x : Xact) (mod : BitVec 8) (p : Fin 64) (port : Fin 16) (tag : Nat) (st : Byte) (data : List Byte)
    (s : State) : State :=
  let back := if (portRec s port).state = .up then some port else ocsalPort s x.who p x.src mod
  match back with
  | none => s
  | some port => sendPkt port
      { kind := 1, type := BitVec.ofNat 4 (8 + x.kind.code), transit := false, dest := mod,
        src := (ownModule s).getD 0xFF, hops := 0, portTag := BitVec.ofNat 12 tag, srcPort := Fin.ofNat 16 (tag / 4096),
        part := p, status := st, len := BitVec.ofNat 9 data.length, op := 0, sat := false, addr := 0, payload := data } s

/-- Router counters. -/
def ctrOf (s : State) (c : Cl) : RouterCtr := s.net.counters.get {} (ck c)
def setCtr (c : Cl) (r : RouterCtr) (s : State) : State :=
  { s with net := { s.net with counters := s.net.counters.set {} (ck c) r } }

/-- Counts a late reply, a discard, or a flit error at a router, with the wrap of R241. -/
def countLate (c : Cl) (s : State) : State :=
  let r := ctrOf s c
  wrapEvent (clUnit c) 0 0x0B03 none r.lateReplies 1 (setCtr c { r with lateReplies := r.lateReplies + 1 } s)

def countDiscard (c : Cl) (s : State) : State :=
  let r := ctrOf s c
  wrapEvent (clUnit c) 0 0x0B03 none r.discarded 1 (setCtr c { r with discarded := r.discarded + 1 } s)

/-- A PENDING notice is at its requester: the request's timer starts again; an adapter sends a remote requester's
notice on (R239, R427). -/
def pendingHome (x : Xact) (id : Nat) (s : State) : State :=
  match xactOf s id with
  | none => s
  | some y =>
    let s := setXact { y with timer := y.timer.map fun _ => s.t.now } s
    match x.who with
    | .remote mod p port tag => sendPkt port
        { kind := 1, type := 0xD, transit := false, dest := mod, src := (ownModule s).getD 0xFF, hops := 0,
          portTag := BitVec.ofNat 12 tag, srcPort := Fin.ofNat 16 (tag / 4096), part := p, status := 0, len := 0, op := 0,
          sat := false, addr := 0, payload := [] } s
    | _ => s

/-- A reply is at the requester: units keep it for their completion; an adapter sends a remote
module's reply on and forgets the request (R422); a reply to a request that timed out is discarded
and counted (R240). -/
def atHome (x : Xact) (st : Byte) (data : List Byte) (s : State) : State :=
  if x.dead then countLate x.src (dropXact x.id s)
  else match x.use with
  | .pending id => pendingHome x id (dropXact x.id s)
  | _ =>
    match x.who with
    | .remote mod p port tag => replyOut x mod p port tag st data (dropXact x.id s)
    | _ => setXact { x with phase := .home st data } s

/-- The routers between a cluster and a frontage under the current lists (R23). -/
def refront (s : State) (x : Xact) : Xact :=
  let src := srcRouter s x.who x.src x.addr
  { x with src := src, dst := match x.adapter with | some n => (frontRouter s.net.cur n src).getD x.dst | none => x.dst }

/-- A reply enters the mesh at a router, by an input port. -/
def answerAt (r : Cl) (port : Fin 5) (x : Xact) (st : Byte) (data : List Byte) (s : State) : State :=
  let y := { x with phase := .back st data, dst := r, pos := r, port := port, vc1 := false, since := s.t.now,
                    epoch := BitVec.ofNat 2 s.net.routeEpoch }
  let s := dropXact x.id s
  { s with net := { s.net with xacts := s.net.xacts ++ [y] } }

/-- The target answers: the reply starts back, or is at the requester where the target was local. -/
def answer (x : Xact) (st : Byte) (data : List Byte) (s : State) : State :=
  if isLocal s x then atHome x st data s
  else
    let y := refront s x
    answerAt y.dst (match x.adapter with | some n => edgePort n | none => 4) y st data s

/-- Bytes of the next packet of a transfer with `n` bytes left from `a`: at most 256 and none across
a 256-byte boundary (R218). -/
def pktLen (a n : Nat) : Nat :=
  if a % 32 ≠ 0 then min n (32 - a % 32)
  else
    let m := min n (256 - a % 256)
    if 32 ≤ m then m / 32 * 32 else n

/-- A transfer cut into packets: address and bytes of each. -/
def packets : Nat → Nat → List Byte → List (Nat × List Byte)
  | 0, _, _ => []
  | k + 1, a, d =>
    if d.isEmpty then []
    else
      let n := max 1 (pktLen a d.length)
      (a, d.take n) :: packets k (a + n) (d.drop n)

/-- The limit of a request's timer (R238). -/
def timeoutOf (s : State) (x : Xact) : Nat :=
  let m := addrModule x.addr
  if m ≠ 0xFF ∧ some m ≠ ownModule s then remoteTimeout s x.part
  else if addrSpace x.addr = 8 then hostTimeout s x.part
  else meshTimeout s x.part

end Sys2Proof.Machine
end

