-- ==== Sys2Proof/Machine/Array.lean ====
section
/-! DEFINITION. The cluster array: loading contexts, switching them, freezing, and tokens on rills
(spec/03_spatial_array.md). -/

namespace Sys2Proof.Machine

/-! ### Topology (R15, R66) -/

/-- The four directions, N E S W. -/
def dirs : List (Fin 4) := [0, 1, 2, 3]

/-- The opposite direction. -/
def opp (d : Fin 4) : Fin 4 := d + 2

/-- The neighbour tile in a direction; none on the array's edge (R66). -/
def tileNbr (t : TileId) (d : Fin 4) : Option TileId :=
  let row := t.t.val / 8
  let col := t.t.val % 8
  match d with
  | 0 => if row = 0 then none else some ⟨t.c, Fin.ofNat 32 (t.t.val - 8)⟩
  | 1 => if col = 7 then none else some ⟨t.c, Fin.ofNat 32 (t.t.val + 1)⟩
  | 2 => if row = 3 then none else some ⟨t.c, Fin.ofNat 32 (t.t.val + 8)⟩
  | 3 => if col = 0 then none else some ⟨t.c, Fin.ofNat 32 (t.t.val - 1)⟩

/-- The kind a position holds (R15), coded as the header's KIND: 1 multiplier, 2 special-function,
3 memory, 4 I/O. -/
def tileKind (t : Fin 32) : Nat :=
  let row := t.val / 8
  match t.val % 8 with
  | 0 => if row = 1 ∨ row = 2 then 4 else 3
  | 4 => 2
  | 7 => 3
  | _ => 1

/-- All tiles of an array. -/
def allTiles (c : Cl) : List TileId := (List.range 32).map fun i => ⟨c, Fin.ofNat 32 i⟩

/-! ### Records -/

def arrOf (s : State) (c : Cl) : ArrRec := s.arr.recs.get {} (ck c)

def setArr (c : Cl) (a : ArrRec) (s : State) : State :=
  { s with arr := { s.arr with recs := s.arr.recs.set {} (ck c) a } }

def updArr (c : Cl) (f : ArrRec → ArrRec) (s : State) : State := setArr c (f (arrOf s c)) s

def tileOf (s : State) (t : TileId) : TileRec := s.arr.tiles.get {} (tk t)

def setTile (t : TileId) (r : TileRec) (s : State) : State :=
  { s with arr := { s.arr with tiles := s.arr.tiles.set {} (tk t) r } }

def updTile (t : TileId) (f : TileRec → TileRec) (s : State) : State := setTile t (f (tileOf s t)) s

def mulOf (s : State) (t : TileId) : MulRec := s.arr.muls.get {} (tk t)

def setMul (t : TileId) (r : MulRec) (s : State) : State :=
  { s with arr := { s.arr with muls := s.arr.muls.set {} (tk t) r } }

def sfOf (s : State) (t : TileId) : SfRec := s.arr.sfs.get {} (tk t)

def setSf (t : TileId) (r : SfRec) (s : State) : State :=
  { s with arr := { s.arr with sfs := s.arr.sfs.set {} (tk t) r } }

def memTileOf (s : State) (t : TileId) : MemTileRec := s.arr.mems.get {} (tk t)

def setMemTile (t : TileId) (r : MemTileRec) (s : State) : State :=
  { s with arr := { s.arr with mems := s.arr.mems.set {} (tk t) r } }

def ioOf (s : State) (t : TileId) : IoRec := s.arr.ios.get {} (tk t)

def setIo (t : TileId) (r : IoRec) (s : State) : State :=
  { s with arr := { s.arr with ios := s.arr.ios.set {} (tk t) r } }

/-! ### Slot header (R77) -/

def storeKey (t : TileId) (slot : Fin 4) : Nat := tk t * 4 + slot.val

/-- A tile's record in a slot as a number. -/
def slotRec (s : State) (t : TileId) (slot : Fin 4) : Nat :=
  (s.arr.store.get 0 (storeKey t slot)).toNat

/-- Writes a tile's record in a slot. -/
def setSlotRec (t : TileId) (slot : Fin 4) (n : Nat) (s : State) : State :=
  { s with arr := { s.arr with store := s.arr.store.set 0 (storeKey t slot) (BitVec.ofNat 8192 n) } }

/-- The record of the tile's active context, 0 where it has none. -/
def ctxOf (s : State) (t : TileId) : Nat :=
  let r := tileOf s t
  if r.on then slotRec s t r.slot else 0

def hKind (n : Nat) : Nat := fld n 16 3
def hKeep (n : Nat) : Bool := bit n 19
def hBodyLen (n : Nat) : Nat := fld n 32 10
def hMask (n : Nat) (d : Fin 4) : Nat := fld n (64 + 8 * d.val) 4
def hPort (n : Nat) (d : Fin 4) : Nat := fld n (68 + 8 * d.val) 2
def hRes (n : Nat) (r : Fin 2) : Nat := fld n (96 + 4 * r.val) 4
def hBack (n : Nat) (d : Fin 4) : Bool := bit n (104 + d.val)

/-- The tile-kind body, from its first bit. -/
def body (n : Nat) : Nat := fld n 256 (8 * hBodyLen n)

/-- An active input rill: its routing names any destination (R74). -/
def activeIn (n : Nat) (d : Fin 4) : Bool := hMask n d != 0 || hPort n d != 0

/-- An output rill that the context drives (R74). -/
def activeOut (n : Nat) (d : Fin 4) : Bool :=
  dirs.any (fun i => bit (hMask n i) d.val) || bit (hRes n 0) d.val || bit (hRes n 1) d.val

/-- The input rill that delivers an operand port (1 A, 2 B, 3 C); of two that name one port the first in N, E, S, W
order (DESIGN CHOICE, log entry 157: the spec says nothing of two). -/
def portIn (n : Nat) (port : Nat) : Option (Fin 4) := dirs.find? fun d => hPort n d == port

/-- The operand port is active. -/
def portOn (n : Nat) (port : Nat) : Bool := (portIn n port).isSome

/-- A source tile: no active forward input rill (R82, R84). -/
def isSource (n : Nat) : Bool := dirs.all fun d => !activeIn n d || hBack n d

/-! ### Tokens (R70-R73) -/

/-- The array executes: it is RUNNING or SWITCHING. -/
def arrLive (s : State) (c : Cl) : Bool :=
  (arrOf s c).state == .running || (arrOf s c).state == .switching

/-- The array executes and its arithmetic clock runs (R67). -/
def arrRuns (s : State) (c : Cl) : Bool := arrLive s c && arithOn s c

/-- Notes that a token moved (R91). -/
def touch (c : Cl) (s : State) : State := updArr c (fun a => { a with moved := s.t.now }) s

/-- Counts discarded tokens in DISCARD_COUNT; a wrap posts COUNTER_WRAP. -/
def addDiscard (c : Cl) (n : Nat) (s : State) : State :=
  let old := (arrOf s c).discard
  counterWrap (clAddr 4 c 0x4028) (owner s c) old n (updArr c (fun a => { a with discard := old + BitVec.ofNat 64 n }) s)

/-- The token belongs to the epoch before the tile's own: only a feedback rill of the old context brings one (R84). -/
def pastToken (r : TileRec) (k : Token) : Bool := k.epoch + 1 == r.epoch

/-- Puts a token on an output rill: one credit is spent and the token joins the neighbour's queue. A token of the old
epoch that reaches a tile which has switched is discarded as those still queued were (R84; DEDUCED, log entry 156). -/
def sendOn (t : TileId) (d : Fin 4) (tok : Token) (s : State) : State :=
  match tileNbr t d with
  | none => s
  | some u =>
    let s := updTile t (fun r => { r with credits := vset r.credits d (r.credits.get d - 1) }) s
    if pastToken (tileOf s u) tok then
      addDiscard t.c (b2n tok.data) (updTile u (fun r => { r with owed := vset r.owed (opp d) (r.owed.get (opp d) + 1) }) s)
    else updTile u (fun r => { r with inq := vset r.inq (opp d) (r.inq.get (opp d) ++ [tok]) }) s

/-- Sends a token on every output of a mask. -/
def sendMask (t : TileId) (mask : Nat) (tok : Token) (s : State) : State :=
  dirs.foldl (fun s d => if bit mask d.val then sendOn t d tok s else s) s

/-- Every output of a mask has a credit. -/
def creditsFor (r : TileRec) (mask : Nat) : Bool :=
  dirs.all fun d => !bit mask d.val || r.credits.get d != 0

/-- The pass-through registers of every output of a mask are free. -/
def passFree (r : TileRec) (mask : Nat) : Bool :=
  dirs.all fun d => !bit mask d.val || (r.pass.get d).isNone

/-- Fills the pass-through registers of a mask. -/
def passPut (r : TileRec) (mask : Nat) (tok : Token) : TileRec :=
  { r with pass := dirs.foldl (fun p d => if bit mask d.val then vset p d (some tok) else p) r.pass }

/-- The head of an input queue, if it is a data token of the tile's epoch and every output it is
also routed to can take it (R71, R81). -/
def headReady (s : State) (t : TileId) (d : Fin 4) : Option Token :=
  let r := tileOf s t
  match r.inq.get d with
  | tok :: _ =>
    if tok.data && tok.epoch == r.epoch && passFree r (hMask (ctxOf s t) d) then some tok else none
  | [] => none

/-- Removes the head of an input queue to all its destinations: the pass-through registers of its
outputs take a copy, and a credit becomes due (R70, R71). A token that only passes through counts in TOKENS_IN and not in
TOKENS_OUT (DESIGN CHOICE, log entry 157). -/
def popHead (t : TileId) (d : Fin 4) (s : State) : State :=
  let mask := hMask (ctxOf s t) d
  touch t.c (updTile t (fun r =>
    match r.inq.get d with
    | tok :: rest =>
      { passPut r mask tok with
        inq := vset r.inq d rest
        owed := vset r.owed d (r.owed.get d + 1)
        tokIn := if tok.data then r.tokIn + 1 else r.tokIn }
    | [] => r) s)

/-- The next token of an operand port, if one is ready. -/
def operand (s : State) (t : TileId) (port : Nat) : Option Token :=
  match portIn (ctxOf s t) port with
  | some d => headReady s t d
  | none => none

/-- Takes the next token of an operand port. -/
def takeOperand (t : TileId) (port : Nat) (s : State) : State :=
  match portIn (ctxOf s t) port with
  | some d => popHead t d s
  | none => s

/-- Adds result tokens to a tile's stage; a result routed nowhere is dropped. -/
def emit (t : TileId) (r : Fin 2) (toks : List Token) (s : State) : State :=
  if hRes (ctxOf s t) r = 0 then s
  else touch t.c (updTile t (fun x =>
    { x with res := vset x.res r (x.res.get r ++ toks), tokOut := x.tokOut + BitVec.ofNat 48 toks.length }) s)

/-- The stage of a result is empty, so the operation can deliver (R72). -/
def stageFree (s : State) (t : TileId) (r : Fin 2) : Bool := ((tileOf s t).res.get r).isEmpty

/-- Tokens held in a tile: queues, pass-through registers and stages, markers included (R91). -/
def tileHeld (r : TileRec) : Nat :=
  (dirs.map fun d => (r.inq.get d).length + (if (r.pass.get d).isSome then 1 else 0)).sum
    + (r.res.get 0).length + (r.res.get 1).length

/-- Tokens held in the array, an I/O tile's token that waits for a channel credit among them (R91). -/
def tokensHeld (s : State) (c : Cl) : Nat :=
  ((allTiles c).map fun t => tileHeld (tileOf s t) + b2n (ioOf s t).creditWait.isSome).sum

/-- The tile has a token waiting for a credit on output `d` (R92, R93 BLOCKED). -/
def blockedOut (s : State) (t : TileId) (d : Fin 4) : Bool :=
  let r := tileOf s t
  r.credits.get d == 0 && ((r.pass.get d).isSome
    || (bit (hRes (ctxOf s t) 0) d.val && !(r.res.get 0).isEmpty)
    || (bit (hRes (ctxOf s t) 1) d.val && !(r.res.get 1).isEmpty))

/-- The tile has a token waiting for a credit, of a rill or of a channel (R91, R129; DEDUCED, log entry 159). -/
def blocked (s : State) (t : TileId) : Bool := dirs.any (blockedOut s t) || (ioOf s t).creditWait.isSome

/-! ### Activation (R77, R81, R155) -/

/-- Seeds a generator of a unit of the cluster: the count rises by 1 first (R155); an unbound
cluster's generators hold key 0 and counter 0. -/
def seedGen (s : State) (c : Cl) (unit : BitVec 32) (act : Nat) : Gen × Nat :=
  match owner s c with
  | some p => (Gen.seed (s.num.blocks.get {} p.val).seedBase unit (act + 1), act + 1)
  | none => ({}, 0)

/-- What an I/O tile has issued goes on without it: replies and failures no longer reach it, and it waits for no channel
credit (R86, R96). -/
def abandonIo (t : TileId) (s : State) : State :=
  let mine (x : Xact) : Bool := match x.who with
    | .io d i => d == t.c && 8 * (i.val + 1) == t.t.val
    | _ => false
  let waits (w : Waiter) : Bool := match w with
    | .io d i => d == t.c && 8 * (i.val + 1) == t.t.val
    | _ => false
  let note (n : Note) : Note := match n.by_ with
    | .io u => if u = t then { n with by_ := .none } else n
    | _ => n
  { s with
    net := { s.net with xacts := s.net.xacts.map fun x => if mine x then { x with orphaned := true } else x }
    sync := { s.sync with
      notes := s.sync.notes.map note
      reported := s.sync.reported.filter (!waits ·)
      eps := s.sync.eps.map fun e => if e.1 / 256 = ck t.c then (e.1, { e.2 with waiting := e.2.waiting.filter (!waits ·) }) else e } }

/-- Clears the kind state of a tile at the activation of record `n`. -/
def activateKind (t : TileId) (n : Nat) (s : State) : State :=
  let keep := hKeep n
  match tileKind t.t with
  | 1 =>
    let r := mulOf s t
    setMul t (if keep then { acc := r.acc, cur := r.cur } else {}) s
  | 2 =>
    let r := sfOf s t
    let g := if keep then (r.gen, r.act) else seedGen s t.c (tileUnit t) r.act
    setSf t { gen := g.1, act := g.2, bins := if keep then r.bins else [],
              count := if fld (body n) 0 3 = 4 then fld (body n) 48 16 else 0 } s
  | 3 => setMemTile t { rd := fld (body n) 8 12, wr := fld (body n) 8 12 } s
  | _ =>
    let r := ioOf s t
    let g := if keep then (r.gen, r.act) else seedGen s t.c (tileUnit t) r.act
    setIo t { gen := g.1, act := g.2 } (abandonIo t s)

/-- A tile activates a slot in an epoch (R81). -/
def activateTile (t : TileId) (slot : Fin 4) (epoch : BitVec 2) (s : State) : State :=
  let n := slotRec s t slot
  let s := updTile t (fun r =>
    { r with slot := slot, on := true, epoch := epoch, switched := true, tokIn := 0, tokOut := 0,
             stream := false }) s
  touch t.c (activateKind t n s)

/-- The array's slot states after a switch to `slot` (R76). -/
def activateSlots (a : ArrRec) (slot : Fin 4) : Vector SlotState 4 :=
  let old := if a.state == .idle then a.slots
    else vset a.slots a.active (if a.slots.get a.active = .active then .loaded else a.slots.get a.active)
  vset old slot .active

/-- Every tile activates a slot in the same cycle. -/
def activateAll (c : Cl) (slot : Fin 4) (epoch : BitVec 2) (s : State) : State :=
  let s := (allTiles c).foldl (fun s t => activateTile t slot epoch s) s
  updArr c (fun a => { a with slots := activateSlots a slot, active := slot, epoch := epoch,
                              state := .running, moved := s.t.now }) s

/-! ### Normal switch (R82, R83, R85) -/

/-- Starts a normal switch: every tile at once from IDLE, else a wavefront. -/
def startSwitch (c : Cl) (slot : Fin 4) (note : Option NoteRef) (s : State) : State :=
  let a := arrOf s c
  match a.state with
  | .idle =>
    let s := activateAll c slot (a.epoch + 1) s
    notifyOpt c note (updArr c (fun a => { a with switchStatus := 0x00 }) s)
  | .running =>
    let s := (allTiles c).foldl (fun s t => updTile t (fun r => { r with switched := false }) s) s
    updArr c (fun a => { a with state := .switching, wave := some ⟨slot, note⟩, moved := s.t.now }) s
  | _ => s

/-- The last tile has switched: the switch completes (R83 step 5). -/
def finishSwitch (c : Cl) (s : State) : State :=
  let a := arrOf s c
  match a.wave with
  | none => s
  | some w =>
    if (allTiles c).all fun t => (tileOf s t).switched then
      let s := updArr c (fun a => { a with slots := activateSlots a w.slot, active := w.slot,
                                           state := .running, wave := none, switchStatus := 0x00 }) s
      notifyOpt c w.note s
    else s

/-- Elements of a streamed row (R100 K). -/
def mulK (f : Nat) : Nat := 2 * elemsPerToken f

/-- Elements multiplied per cycle (R100 S). -/
def mulS (f : Nat) : Nat :=
  match fmtBits f with
  | 4 => 16
  | 6 => 8
  | 8 => 8
  | 16 => 4
  | _ => 1

/-- Issue cycles per streamed row (R100). -/
def mulCycles (f : Nat) : Nat := mulK f / mulS f

/-- The row's tokens for the next issue are at hand. -/
def mulHasA (f : Nat) (r : MulRec) : Bool := decide (r.pos * 2 / mulCycles f < r.aRow.length)

/-- A multiplier holds a row that it can still issue (R101). A row of which a token, its chunk or its initial
accumulators can no longer come holds nothing up. -/
def mulBusy (s : State) (t : TileId) : Bool :=
  let b := body (ctxOf s t)
  let r := mulOf s t
  r.cur.isSome && mulHasA (fld b 0 5) r &&
    (r.pass != 0 || r.pos != 0 || fld b 40 2 != 1 || (operand s t 3).isSome)

/-- A memory tile works on an address token; one whose data can no longer come holds nothing up. -/
def memBusy (s : State) (t : TileId) : Bool :=
  (memTileOf s t).addr.isSome && (!bit (body (ctxOf s t)) 2 || (operand s t 2).isSome)

/-- The tile's operations of the old epoch are complete and its tokens sent (R83 steps 1 and 2): a multiplier's rows are
issued, accumulated and drained, a FIFO is empty, and an I/O tile's writes have completed (DEDUCED, log entry 156). -/
def tileDrained (s : State) (t : TileId) : Bool :=
  let r := tileOf s t
  (r.res.get 0).isEmpty && (r.res.get 1).isEmpty && dirs.all (fun d => (r.pass.get d).isNone)
    && !mulBusy s t && (mulOf s t).flying.isEmpty && (mulOf s t).drains.isEmpty
    && (sfOf s t).due.isNone && (memTileOf s t).fill == 0 && !memBusy s t
    && (ioOf s t).creditWait.isNone && (ioOf s t).outstanding.isEmpty

/-- The neighbour's old context names the rill of output `d` in BACK: no marker travels on it (R84). -/
def feedsBack (s : State) (t : TileId) (d : Fin 4) : Bool :=
  match tileNbr t d with
  | some u => hBack (slotRec s u (tileOf s t).slot) (opp d)
  | none => false

/-- The output gets a marker at the tile's switch (R83, R84). -/
def marksOut (s : State) (t : TileId) (d : Fin 4) : Bool := activeOut (ctxOf s t) d && !feedsBack s t d

/-- Sends the markers, discards old tokens of feedback inputs and activates the target (R82-R84). -/
def switchTile (t : TileId) (w : Switching) (s : State) : State :=
  let n := ctxOf s t
  let r := tileOf s t
  let outs := (dirs.map fun d => if marksOut s t d then 2 ^ d.val else 0).sum
  let isOld := fun (k : Token) => k.epoch == r.epoch
  let gone := (dirs.map fun d => if hBack n d then
    ((r.inq.get d).filter fun k => isOld k && k.data).length else 0).sum
  let s := sendMask t outs (Token.marker r.epoch) s
  let s := updTile t (fun r => dirs.foldl (fun (r : TileRec) d =>
      if hBack n d then
        let kept := (r.inq.get d).filter fun k => !isOld k
        { r with owed := vset r.owed d (r.owed.get d + ((r.inq.get d).length - kept.length)), inq := vset r.inq d kept }
      else if activeIn n d then
        { r with owed := vset r.owed d (r.owed.get d + 1), inq := vset r.inq d (r.inq.get d).tail }
      else r) r) s
  let s := addDiscard t.c gone (updArr t.c (fun a => { a with epoch := r.epoch + 1 }) s)
  finishSwitch t.c (activateTile t w.slot (r.epoch + 1) s)

/-- Outputs that must have a credit for the markers. -/
def markerReady (s : State) (t : TileId) : Bool :=
  dirs.all fun d => !marksOut s t d || (tileOf s t).credits.get d != 0

/-- A source may switch: it has no output, or its stream has ended and its tokens are sent (R82). -/
def sourceDone (s : State) (t : TileId) : Bool :=
  dirs.all (fun d => !activeOut (ctxOf s t) d) || (!(tileOf s t).stream && tileDrained s t)

/-- SOURCE_SWITCH (R82): a source tile with no stream running, or no output, sends its markers and switches. -/
def execSourceSwitch (t : TileId) (s : State) : Host.Outcome State Fault Refusal :=
  .next <|
    match (arrOf s t.c).wave with
    | none => s
    | some w =>
      if (arrOf s t.c).state = .switching ∧ arithOn s t.c ∧ !(tileOf s t).switched ∧ isSource (ctxOf s t)
          ∧ sourceDone s t ∧ markerReady s t
      then switchTile t w s else s

/-- A marker of the tile's epoch stands at the head of every active forward input (R83). -/
def markersIn (s : State) (t : TileId) : Bool :=
  let r := tileOf s t
  let n := ctxOf s t
  dirs.all fun d => !activeIn n d || hBack n d ||
    match r.inq.get d with
    | k :: _ => !k.data && k.epoch == r.epoch
    | [] => false

/-- TILE_SWITCH (R83, R84). A stream that the tile produces itself ends with its LAST first, as a source's does (DEDUCED,
log entry 156). -/
def execTileSwitch (t : TileId) (s : State) : Host.Outcome State Fault Refusal :=
  .next <|
    match (arrOf s t.c).wave with
    | none => s
    | some w =>
      if (arrOf s t.c).state = .switching ∧ arithOn s t.c ∧ !(tileOf s t).switched ∧ !isSource (ctxOf s t)
          ∧ markersIn s t ∧ !(tileOf s t).stream ∧ tileDrained s t ∧ markerReady s t
      then switchTile t w s else s

/-! ### Forced switch (R85, R86) -/

/-- Data tokens that a purge discards: queues, pass-through registers, and an I/O tile's output
stage (R86). -/
def purged (s : State) (t : TileId) : Nat :=
  let r := tileOf s t
  (dirs.map fun d => ((r.inq.get d).filter (·.data)).length
      + (match r.pass.get d with | some k => b2n k.data | none => 0)).sum
    + (if tileKind t.t = 4 then (r.res.get 0).length + b2n (ioOf s t).creditWait.isSome else 0)

/-- Empties a tile's queues and stages and resets its credits (R86 step 3). -/
def purgeTile (t : TileId) (s : State) : State :=
  updTile t (fun r =>
    { r with inq := Vector.replicate 4 [], pass := Vector.replicate 4 none,
             credits := Vector.replicate 4 4, owed := Vector.replicate 4 0, res := Vector.replicate 2 [] }) s

/-- Drops the pending request with ABORTED (R85). -/
def dropPending (c : Cl) (s : State) : State :=
  match (arrOf s c).pend with
  | some p => notifyOpt c p.note (updArr c (fun a => { a with pend := none, switchStatus := 0x0B }) s)
  | none => s

/-- Runs a forced switch: purge, then every tile activates the target (R86). A wavefront that it cuts short ends without
its notification (DESIGN CHOICE, log entry 156). -/
def forceSwitch (c : Cl) (slot : Fin 4) (note : Option NoteRef) (s : State) : State :=
  let s := dropPending c s
  let n := ((allTiles c).map (purged s)).sum
  let e := (arrOf s c).epoch + 1   -- EPOCH is the highest epoch present: the tile that switched last
  let s := (allTiles c).foldl (fun s t => purgeTile t s) s
  let s := addDiscard c n (updArr c (fun a => { a with wave := none }) s)
  let s := activateAll c slot e s
  notifyOpt c note (updArr c (fun a => { a with switchStatus := 0x00 }) s)

/-! ### Switch requests (R80, R85, R87) -/

/-- The notify target of a word, if NOTIFY is set. -/
def noteOf (on : Bool) (core obj : Nat) : Option NoteRef := if on then some ⟨core, obj⟩ else none

/-- Sets SWITCH_STATUS and notifies. -/
def switchRefused (c : Cl) (note : Option NoteRef) (st : Byte) (s : State) : State :=
  notifyOpt c note (updArr c (fun a => { a with switchStatus := st }) s)

/-- Full launch instant of a short launch on a tide: `extra` is added first, then the serial distance is taken as signed
(R87, R293). -/
def launchAt (tide : Word) (l : BitVec 32) (extra : Nat) : Word :=
  tide + (l + BitVec.ofNat 32 extra - tide.setWidth 32).signExtend 64

/-- A SWITCH_REQ write with the fields it carries (R80, R85, R493). Where the table's rows meet or leave a case out, the
order here decides: STAGGER with a KIND other than 1 is BAD_PARAM, FROZEN comes before LOADING, and an at-tide request in
IDLE behind a pending one is FULL (DESIGN CHOICE, log entry 156). -/
def switchReq (c : Cl) (v : Nat) (s : State) : State :=
  let a := arrOf s c
  let slot := Fin.ofNat 4 (fld v 0 2)
  let kind := fld v 2 2
  let note := noteOf (bit v 15) (fld v 5 5) (fld v 10 5)
  let st := a.slots.get slot
  if 24 ≤ fld v 5 5 then updArr c (fun a => { a with switchStatus := 0x03 }) s
  else if kind = 3 ∨ fld v 16 16 ≠ 0 ∨ (kind ≠ 1 ∧ fld v 32 32 ≠ 0) ∨ (kind ≠ 1 ∧ bit v 4) then
    switchRefused c note 0x03 s
  else if st = .free then switchRefused c note 0x03 s
  else if a.held.isSome then switchRefused c note 0x01 s
  else if kind = 2 then
    if st = .loading then updArr c (fun a => { a with held := some ⟨slot, note⟩ }) (dropPending c s)
    else forceSwitch c slot note s
  else if a.state = .frozen then switchRefused c note 0x04 s
  else
    let launch := if kind = 1 then
        some (launchAt (localTide s c) (BitVec.ofNat 32 (fld v 32 32)) (if bit v 4 then stagger s c * 4000 else 0))
      else none
    if st = .loading ∨ a.state = .switching ∨ (a.state = .running ∧ a.pend.isSome) ∨ kind = 1 then
      if a.pend.isSome then switchRefused c note 0x0E s
      else updArr c (fun a => { a with pend := some ⟨slot, launch, note⟩ }) s
    else startSwitch c slot note s

/-- A register write to the array block from `who`: permitted to the cluster's partition only. -/
def arrWrite (who : Requester) (c : Cl) (f : State → State) (s : State) : State :=
  let st := regPerm s who c
  if st = 0x00 then reply 0x00 (f s) else reply st s

/-- Forces the KIND field of a SWITCH_REQ word to the row's kind. -/
def withKind (v : Word) (k : Nat) : Nat := v.toNat - fld v.toNat 2 2 * 4 + k * 4

/-- SWITCH_NORMAL_NOW (R85). -/
def execSwitchNormalNow (who : Requester) (c : Cl) (v : Word) (s : State) : Host.Outcome State Fault Refusal :=
  .next (arrWrite who c (switchReq c (withKind v 0)) s)

/-- SWITCH_AT_TIDE (R85, R87). -/
def execSwitchAtTide (who : Requester) (c : Cl) (v : Word) (s : State) : Host.Outcome State Fault Refusal :=
  .next (arrWrite who c (switchReq c (withKind v 1)) s)

/-- SWITCH_FORCED (R85, R86). -/
def execSwitchForced (who : Requester) (c : Cl) (v : Word) (s : State) : Host.Outcome State Fault Refusal :=
  .next (arrWrite who c (switchReq c (withKind v 2)) s)

/-- The launch has passed on the cluster's local tide, now or while its arithmetic clock was stopped (R87, R94, R294). -/
def launchPast (s : State) (c : Cl) (l : Word) : Bool := decide ((localTide s c - l).toInt > 0) || launchMissed s c l

/-- Starts the pending switch, LATE as given (R85, R87). -/
def startPending (c : Cl) (p : PendSwitch) (late : Bool) (s : State) : State :=
  startSwitch c p.slot p.note
    (updArr c (fun a => { a with pend := none, late := a.late || late }) s)

/-- SWITCH_LAUNCH (R87): the local tide reaches the launch; a launch already past is late. -/
def execSwitchLaunch (c : Cl) (s : State) : Host.Outcome State Fault Refusal :=
  .next <|
    match (arrOf s c).pend with
    | some p =>
      match p.launch with
      | some l =>
        let a := arrOf s c
        if (a.state = .idle ∨ a.state = .running) ∧ arithOn s c ∧ a.slots.get p.slot ≠ .loading ∧ a.slots.get p.slot ≠ .free then
          startPending c p (launchPast s c l) (if launchPast s c l then s else waitTide s c l)
        else s
      | none => s
    | none => s

/-- PENDING_SWITCH_START (R85): after a wavefront or a load, or dropped if its load failed. -/
def execPendingSwitchStart (c : Cl) (s : State) : Host.Outcome State Fault Refusal :=
  .next <|
    match (arrOf s c).pend with
    | some p =>
      let a := arrOf s c
      if a.slots.get p.slot = .free then dropPending c s
      else if a.slots.get p.slot = .loading ∨ (a.state ≠ .idle ∧ a.state ≠ .running) ∨ !arithOn s c then s
      else match p.launch with
        | none => startPending c p false s
        | some l => if launchPast s c l then startPending c p true s else s
    | none => s

/-- HELD_FORCED_SWITCH_START (R85): runs once its load ended with OK, or is dropped. -/
def execHeldForcedSwitchStart (c : Cl) (s : State) : Host.Outcome State Fault Refusal :=
  .next <|
    match (arrOf s c).held with
    | some h =>
      let s' := updArr c (fun a => { a with held := none }) s
      match (arrOf s c).slots.get h.slot with
      | .loading => s
      | .free => switchRefused c h.note 0x0B s'
      | _ => forceSwitch c h.slot h.note s'
    | none => s

/-! ### Freeze, resume, release (R80, R92, R94) -/

/-- Freezes the array with a cause, keeping what it was doing. -/
def freezeArr (c : Cl) (cause : BitVec 2) (s : State) : State :=
  updArr c (fun a => if a.state = .running ∨ a.state = .switching then
    { a with state := .frozen, prior := a.state, cause := cause } else a) s

/-- Codes of ARRAY_STATUS.STATE. -/
def ArrState.code : ArrState → Nat
  | .idle => 0 | .running => 1 | .switching => 2 | .frozen => 3

/-- The ARRAY_STALL detail (R92). -/
def stallDetail (s : State) (c : Cl) (cause : Nat) (unit : BitVec 32) : List Byte :=
  let a := arrOf s c
  let t0 : TileId := ⟨c, 0⟩
  leBytes 4 (fld (slotRec s t0 a.active) 0 16 + a.active.val * 2 ^ 16 + (tileOf s t0).epoch.toNat * 2 ^ 18
      + cause * 2 ^ 20 + a.prior.code * 2 ^ 22)
    ++ leBytes 4 unit.toNat ++ leBytes 4 (tokensHeld s c) ++ leBytes 4 a.stallLimit.toNat

/-- Freezes with cause 1 or 3 and posts ARRAY_STALL (R92, R130). -/
def stallArr (c : Cl) (cause : BitVec 2) (detailCause : Nat) (unit : BitVec 32) (s : State) : State :=
  if arrLive s c then
    let s := freezeArr c cause s
    postEvent .arrayStall (clUnit c) (owner s c) (localTide s c) (stallDetail s c detailCause unit) s
  else s

/-- The lowest-numbered tile with a token waiting for a credit, 0xFFFF_FFFF if none. -/
def blockedUnit (s : State) (c : Cl) : BitVec 32 :=
  match (allTiles c).find? (blocked s) with
  | some t => tileUnit t
  | none => 0xFFFFFFFF

/-- ARRAY_STALL (R91, R92): tokens are held and none moves until the watchdog limit passes. -/
def execArrayStall (c : Cl) (s : State) : Host.Outcome State Fault Refusal :=
  .next <|
    let a := arrOf s c
    if arrLive s c ∧ tokensHeld s c ≠ 0 ∧ a.stallLimit ≠ 0 ∧ arithOn s c then
      let s := waitUntil s (a.moved + usec a.stallLimit.toNat)
      stallArr c 1 0 (blockedUnit s c) s
    else s

/-- An ARRAY_CMD word with its CMD forced to the row's command. -/
def withCmd3 (v : Word) (k : Nat) : Nat := v.toNat - fld v.toNat 0 3 + k

/-- ARRAY_CMD reserved fields; SLOT must be 0 but for RELEASE (R80). -/
def arrCmdBad (v : Nat) (release : Bool) : Bool := bit v 3 || fld v 6 58 != 0 || (!release && fld v 4 2 != 0)

def setCmdStatus (c : Cl) (st : Byte) (s : State) : State := updArr c (fun a => { a with cmdStatus := st }) s

/-- ARRAY_FREEZE (R94). -/
def execArrayFreeze (who : Requester) (c : Cl) (v : Word) (s : State) : Host.Outcome State Fault Refusal :=
  .next (arrWrite who c (fun s =>
    if arrCmdBad (withCmd3 v 1) false then setCmdStatus c 0x03 s
    else match (arrOf s c).state with
      | .idle => setCmdStatus c 0x04 s
      | .frozen => setCmdStatus c 0x00 s
      | _ => setCmdStatus c 0x00 (freezeArr c 0 s)) s)

/-- The next issue of every multiplier tile begins a ramp: RESUME (R105). -/
def restartRamps (c : Cl) (s : State) : State :=
  (allTiles c).foldl (fun s t =>
    if tileKind t.t = 1 then setMul t { mulOf s t with lastIssue := none } s else s) s

/-- ARRAY_RESUME (R94). -/
def execArrayResume (who : Requester) (c : Cl) (v : Word) (s : State) : Host.Outcome State Fault Refusal :=
  .next (arrWrite who c (fun s =>
    let a := arrOf s c
    if arrCmdBad (withCmd3 v 2) false then setCmdStatus c 0x03 s
    else if a.state = .frozen ∧ a.cause ≠ 3 then
      restartRamps c (updArr c (fun a => { a with state := a.prior, moved := s.t.now, cmdStatus := 0x00 }) s)
    else setCmdStatus c 0x04 s) s)

/-- ARRAY_RELEASE (R80). A waiting switch is the pending one or a held forced one; one that has started waits no more
(DEDUCED, log entry 156). -/
def execArrayRelease (who : Requester) (c : Cl) (v : Word) (s : State) : Host.Outcome State Fault Refusal :=
  .next (arrWrite who c (fun s =>
    let a := arrOf s c
    let slot := Fin.ofNat 4 (fld v.toNat 4 2)
    let waiting := (match a.pend with | some p => p.slot == slot | none => false)
      || (match a.held with | some h => h.slot == slot | none => false)
    if arrCmdBad (withCmd3 v 3) true then setCmdStatus c 0x03 s
    else match a.slots.get slot with
      | .active => setCmdStatus c 0x04 s
      | .loading => setCmdStatus c 0x01 s
      | .free => setCmdStatus c 0x00 s
      | .loaded =>
        if waiting then setCmdStatus c 0x04 s
        else updArr c (fun a => { a with slots := vset a.slots slot .free, cmdStatus := 0x00 }) s) s)

/-! ### Loading (R78, R79, R133) -/

/-- Ends a load: LOAD_STATUS and the notification. -/
def loadEnds (c : Cl) (note : Option NoteRef) (st : Byte) (s : State) : State :=
  notifyOpt c note (updArr c (fun a => { a with loadStatus := st }) s)

/-- CTX_LOAD (R78, R79 checks 1 and 2, R80). -/
def execCtxLoad (who : Requester) (c : Cl) (v : Word) (s : State) : Host.Outcome State Fault Refusal :=
  .next (arrWrite who c (fun s =>
    let a := arrOf s c
    let n := v.toNat
    let slot := Fin.ofNat 4 (fld n 22 2)
    let note := noteOf (bit n 34) (fld n 24 5) (fld n 29 5)
    if 24 ≤ fld n 24 5 then updArr c (fun a => { a with loadStatus := 0x03 }) s
    else if fld n 35 29 ≠ 0 then loadEnds c note 0x03 s
    else if isWellhead s c ∨ a.slots.get slot ≠ .free then loadEnds c note 0x04 s
    else if a.load.isSome then loadEnds c note 0x01 s
    else if fld n 0 10 ≠ 0 ∨ 0x3F8000 < fld n 0 22 then loadEnds c note 0x03 s
    else updArr c (fun a => { a with slots := vset a.slots slot .loading,
                                     load := some ⟨slot, fld n 0 22, note⟩ }) s) s)

/-- The reserved fields of a tile's body are 0 (R106, R119, R120, R125, R131). -/
def bodyReservedOk (n : Nat) : Bool :=
  let b := body n
  match hKind n with
  | 1 => fld b 5 3 == 0 && !bit b 15 && fld b 20 4 == 0 && fld b 47 17 == 0
  | 2 => fld b 28 4 == 0 && fld b 40 8 == 0 && fld b 96 32 == 0 &&
      (List.range (fld b 16 4)).all fun i => fld b (128 + 64 * i + 20) 12 == 0
  | 3 => !bit b 3 && fld b 6 2 == 0 && fld b 33 15 == 0 && fld b 75 53 == 0
  | 4 => !bit b 1 && !bit b 7 && fld b 86 10 == 0 && fld b 124 4 == 0 && fld b 144 16 == 0 && fld b 214 42 == 0 &&
      !bit b 259 && fld b 310 2 == 0 && fld b 347 5 == 0 && fld b 368 16 == 0 && fld b 448 64 == 0
  | _ => true

/-- Reserved fields of a slot header are 0 (R77). -/
def hdrReservedOk (n : Nat) : Bool :=
  fld n 20 12 == 0 && fld n 42 22 == 0 && fld n 108 148 == 0
    && dirs.all (fun d => fld n (70 + 8 * d.val) 2 == 0)

/-- The header fits its tile (R77, R79 check 3): kind, body length, and the I/O tiles' west side. -/
def hdrOk (t : TileId) (n : Nat) : Bool :=
  hdrReservedOk n && bodyReservedOk n && (hKind n == 0 || hKind n == tileKind t.t) && hBodyLen n % 8 == 0 && hBodyLen n ≤ 992
    && (hKind n != 0 || hBodyLen n == 0)
    && (tileKind t.t != 4 || (hMask n 3 == 0 && hPort n 3 == 0))

/-- Routing of a tile that is not zero. -/
def anyRouting (n : Nat) : Bool := fld n 64 44 != 0

/-- No dry tile is used and no routing names a dry tile's rill (R79 check 4). -/
def dryOk (s : State) (t : TileId) (n : Nat) : Bool :=
  (!tileDry s t || (hKind n == 0 && !anyRouting n)) &&
    dirs.all fun d => match tileNbr t d with
      | some u => !tileDry s u || (!activeIn n d && !activeOut n d)
      | none => true

/-- R74 at one tile: one source per output, no turning back, driven inputs are active and active
inputs are driven; an edge has no rill (R66), and a tile with one result has RES1_OUT 0 (R77). -/
def routeOk (recs : Fin 32 → Nat) (t : TileId) : Bool :=
  let n := recs t.t
  dirs.all (fun d =>
    let srcs := (dirs.map fun i => b2n (bit (hMask n i) d.val)).sum + b2n (bit (hRes n 0) d.val) + b2n (bit (hRes n 1) d.val)
    srcs ≤ 1 && !bit (hMask n d) d.val &&
    match tileNbr t d with
    | some u => activeOut n d == activeIn (recs u.t) (opp d) && activeIn n d == activeOut (recs u.t) (opp d)
    | none => !activeOut n d && !activeIn n d)
  && (hKind n == 2 || hRes n 1 == 0)

/-- Multiplier body checks (R106, R133). -/
def mulBodyOk (n : Nat) : Bool :=
  let b := body n
  let f := fld b 0 5
  let mulFmt := f != 0x09 && f != 0x0C && f != 0x0D && fmtOk f
  hBodyLen n == 8 && mulFmt
    && 1 ≤ fld b 8 7 && fld b 8 7 ≤ 64 && 1 ≤ fld b 16 4 && fld b 16 4 ≤ 8 && fld b 24 16 != 0
    && fld b 40 2 != 3 && fld b 42 2 != 3 && (fld b 40 2 != 2 || hKeep n)
    && (!bit b 46 || fld b 24 16 == 1) && (fld b 40 2 != 1 || portOn n 3)

/-- Chain entry `i` of a special-function body (R120). -/
def chainEntry (b i : Nat) : Nat := fld b (128 + 64 * i) 64

/-- Sources a chain operation reads: 1, 2 or 3. -/
def opArity (op : Nat) : Nat :=
  if op = 0x04 then 3
  else if op = 0x01 ∨ op = 0x02 ∨ op = 0x03 ∨ op = 0x05 ∨ op = 0x06 ∨ op = 0x17 ∨ op = 0x18 then 2
  else 1

/-- A chain source names an active port; in ROW_APPLY only operand C and the previous stage. -/
def srcOk (n mode src : Nat) : Bool :=
  match src with
  | 0 => mode != 2 && portOn n 1
  | 1 => mode != 2 && portOn n 2
  | 2 => portOn n 3
  | _ => true

/-- One chain entry passes (R133). -/
def chainOk (n mode nops i : Nat) : Bool :=
  let e := chainEntry (body n) i
  let op := fld e 0 5
  1 ≤ op && op ≤ 0x19 && fld e 14 3 ≤ 5 && fld e 17 2 != 3
    && srcOk n mode (fld e 5 2)
    && (opArity op < 2 || bit e 11 || srcOk n mode (fld e 7 2))
    && (opArity op < 3 || srcOk n mode (fld e 9 2))
    && (op != 0x18 || (mode == 0 && nops == 1 && fld e 5 2 == 0 && fld e 7 2 == 1 && fld e 12 2 == 3))
    && (fld e 12 2 != 3 || op == 0x18)

/-- Special-function body checks (R119, R120, R133, R139). -/
def sfBodyOk (n : Nat) : Bool :=
  let b := body n
  let mode := fld b 0 3
  let inF := fld b 3 5
  let outF := fld b 8 5
  let nops := fld b 16 4
  let kind := fld b 13 3
  let hb := sgn 8 (fld b 32 8)
  hBodyLen n == 16 + 8 * nops && mode ≤ 4 && nops ≤ 8
    && (match mode with | 0 => decide (1 ≤ nops) | 2 => true | _ => nops == 0)
    && fld b 22 2 != 3
    && fmtOk inF && inF != 0x09 && (mode == 3 || (elemFmt inF).isSome)
    && fmtOk outF && outF != 0x09 && (mode == 3 || (elemFmt outF).isSome)
    && ((mode != 1 && mode != 4) || outF == 0x08)
    && (match mode with | 1 => decide (kind ≤ 3) | 2 => decide (kind ≤ 3) | 4 => decide (kind ≤ 1) | _ => kind == 0)
    && (!bit b 24 || (decide (-128 ≤ hb) && decide (hb ≤ 67)))
    && (mode != 4 || fld b 48 16 != 0)
    && (List.range nops).all (fun i => chainOk n mode nops i)
    && (mode != 3 || !portOn n 2 || [0x01, 0x02, 0x03, 0x04, 0x05, 0x06, 0x07].contains outF)

/-- Memory body checks (R125, R133, R493). -/
def memBodyOk (n : Nat) : Bool :=
  let b := body n
  let mode := fld b 0 2
  let pm := fld b 4 2
  hBodyLen n == 16 && fld b 20 13 != 0 && fld b 8 12 + fld b 20 13 ≤ 4096 && pm != 3 && (mode ≥ 2 || pm == 0)
    && fld b 65 5 < 24

/-- The inbound fields are all 0. -/
def ioInZero (b : Nat) : Bool := fld b 1 255 == 0

/-- The outbound fields are all 0. -/
def ioOutZero (b : Nat) : Bool := fld b 257 255 == 0

/-- Inbound engine checks (R131, R133). -/
def ioInOk (b : Nat) : Bool :=
  let f := fld b 2 5
  let rb := fld b 32 16
  let rows := fld b 48 16
  fmtOk f && f != 0x09 && fld b 30 2 != 3 && rb != 0 && rows != 0 && fld b 128 16 != 0
    && fld b 114 5 < 24
    && ((blockFmt f).isNone || rb % blockBytes f == 0)
    && ((f != 0x02 && f != 0x03) || rb % 3 == 0)
    && fld b 8 22 + (rows - 1) * fld b 64 22 + rb ≤ 2 ^ 22

/-- Bytes of `k` elements or blocks' elements in a format. -/
def rowBytes (f k : Nat) : Nat :=
  if (blockFmt f).isSome then k / 32 * blockBytes f else (k * fmtBits f + 7) / 8

/-- Outbound engine checks (R131, R133). -/
def ioOutOk (b : Nat) : Bool :=
  let sf := fld b 260 5
  let f := fld b 265 5
  let target := fld b 257 2
  let elems := fld b 272 16
  let rows := fld b 320 16
  target != 3 && fmtOk sf && sf != 0x09 && fmtOk f && f != 0x09 && elems != 0 && rows != 0
    && fld b 352 16 != 0 && fld b 337 5 < 24
    && ((blockFmt f).isNone || elems % 32 == 0)
    && (target != 0 || fld b 384 22 + (rows - 1) * fld b 288 22 + rowBytes f elems ≤ 2 ^ 22)
    && (target != 2 || sf == f)

/-- I/O body checks (R131, R133). -/
def ioBodyOk (n : Nat) : Bool :=
  let b := body n
  hBodyLen n == 64 && (if bit b 0 then ioInOk b else ioInZero b) && (if bit b 256 then ioOutOk b else ioOutZero b)

/-- The body of a record passes its kind's checks (R79 check 6). -/
def bodyOk (n : Nat) : Bool :=
  match hKind n with
  | 0 => true
  | 1 => mulBodyOk n
  | 2 => sfBodyOk n
  | 3 => memBodyOk n
  | _ => ioBodyOk n

/-- The image's records in the cistern. -/
def imageRec (s : State) (c : Cl) (off : Nat) (t : Fin 32) : Nat :=
  leNat (cisternRead s c (off + 1024 * t.val) 1024) % 2 ^ 8192

/-- The format of a tile's result tokens as its own body names it; none where the body does not
(a memory tile, an idle tile, histogram counters). -/
def resFmt (n : Nat) (r : Nat) : Option Nat :=
  let b := body n
  match hKind n with
  | 1 => some (if fld b 0 5 = 0x0A ∨ fld b 0 5 = 0x0B then 0x0D else 0x08)
  | 2 => if r = 0 then some (fld b 8 5) else if fld b 0 3 = 3 ∧ portOn n 2 then some 0x08 else none
  | 4 => if bit b 0 then some (fld b 2 5) else none
  | _ => none

/-- The format of the tokens that reach input `d` of a tile, followed back over pass-through hops and memory-tile FIFOs
to the tile that makes them (R71, R74, R122). -/
def traceFmt (recs : Fin 32 → Nat) : Nat → TileId → Fin 4 → Option Nat
  | 0, _, _ => none
  | k + 1, t, d =>
    match tileNbr t d with
    | none => none
    | some u =>
      let n := recs u.t
      let o := (opp d).val
      if bit (hRes n 0) o then
        if hKind n = 3 ∧ fld (body n) 0 2 = 0 then
          match portIn n 1 with
          | some i => traceFmt recs k u i
          | none => none
        else resFmt n 0
      else if bit (hRes n 1) o then resFmt n 1
      else match dirs.find? fun i => bit (hMask n i) o with
        | some i => traceFmt recs k u i
        | none => none

/-- The operand ports of a multiplier or special-function tile whose tokens its body's FORMAT or IN_FORMAT describes: a
multiplier's initial accumulators, and a statistics or scale token, are none of them (R43, R104, R114, R139). -/
def arithPorts (n : Nat) : List Nat :=
  match hKind n with
  | 1 => [1, 2]
  | 2 => match fld (body n) 0 3 with
    | 0 => [1, 2, 3]
    | 1 => [1]
    | 2 => [2, 3]
    | 3 => [1]
    | _ => []
  | _ => []

/-- FORMAT of a multiplier, IN_FORMAT of a special-function tile. -/
def ownFmt (n : Nat) : Nat := if hKind n = 1 then fld (body n) 0 5 else fld (body n) 3 5

/-- The operand streams of the tile's operations have the format that its body names, and so agree among themselves (R43,
R44, R79 check 7; DEDUCED, log entry 153). Tokens of which no tile names a format, those of a replay, a table or a
histogram, are not compared. -/
def formatsOk (recs : Fin 32 → Nat) (t : TileId) : Bool :=
  (arithPorts (recs t.t)).all fun p =>
    match (portIn (recs t.t) p).bind (traceFmt recs 32 t) with
    | some f => f == ownFmt (recs t.t)
    | none => true

/-- Status of a load: the first check that fails (R79). -/
def loadStatus (s : State) (c : Cl) (off : Nat) : Byte :=
  let recs := fun t => imageRec s c off t
  let ts := allTiles c
  if !ts.all (fun t => hdrOk t (recs t.t)) then 0x03
  else if !ts.all (fun t => dryOk s t (recs t.t)) then 0x09
  else if !ts.all (fun t => routeOk recs t) then 0x03
  else if !ts.all (fun t => bodyOk (recs t.t)) then 0x03
  else if !ts.all (fun t => formatsOk recs t) then 0x0D
  else 0x00

/-- The image is read from the cistern, with its error code (R79, R198), and checked: the load's status. -/
def loadImage (c : Cl) (off : Nat) (s : State) : Byte × State :=
  let r := sramRead (clAddr 1 c off) 32768 false (clUnit c) s
  (if r.1 ≠ 0x00 then r.1 else loadStatus r.2.2 c off, r.2.2)

/-! ### Rills (R70, R71) -/

/-- RILL_CREDIT_RETURN (R70): the credit of a removed token goes back to its sender; none moves while the array is FROZEN
or its clock is stopped (R67, R92). -/
def execRillCreditReturn (t : TileId) (d : Fin 4) (s : State) : Host.Outcome State Fault Refusal :=
  .next <|
    match tileNbr t d with
    | none => s
    | some u =>
      if !arrRuns s t.c ∨ (tileOf s t).owed.get d = 0 then s
      else
        updTile u (fun r => { r with credits := vset r.credits (opp d) (r.credits.get (opp d) + 1) })
          (updTile t (fun r => { r with owed := vset r.owed d (r.owed.get d - 1) }) s)

/-- Sends the token of a pass-through register. -/
def sendPass (t : TileId) (d : Fin 4) (s : State) : State :=
  match (tileOf s t).pass.get d with
  | some k =>
    if (tileOf s t).credits.get d = 0 then s
    else touch t.c (sendOn t d k (updTile t (fun r => { r with pass := vset r.pass d none }) s))
  | none => s

/-- Sends a tile's oldest result on every output of the result's mask at once (R71). -/
def sendResult (t : TileId) (r : Fin 2) (s : State) : State :=
  match (tileOf s t).res.get r with
  | k :: rest =>
    let mask := hRes (ctxOf s t) r
    if creditsFor (tileOf s t) mask then
      touch t.c (sendMask t mask k (updTile t (fun x => { x with res := vset x.res r rest }) s))
    else s
  | [] => s

end Sys2Proof.Machine
end

