-- ==== Sys2Proof/Machine/Ports.lean ====
section
/-! DEFINITION. Ocsal ports as other units see them: their events, lanes, bypass pairs, and how they go
dark, fail or retrain (spec/16_ocsal_fabric.md R409, R413, R414, R417). -/

namespace Sys2Proof.Machine

open Sys2Proof

/-- Active lanes of a port (R409). -/
def portLanes (r : PortRec) : Nat := 8 - ((r.bad.filter fun l => l.val < 8).eraseDups.length - b2n r.spare)

/-- LINK_DOWN or LINK_UP of a port (R372). -/
def portEvent (e : EvCode) (p : Fin 16) (reason lanes : Nat) (s : State) : State :=
  postTo e (portUnit p) (portRec s p).bound.toList false (moduleTide s) (([1, BitVec.ofNat 8 reason] : List Byte) ++ leBytes 2 lanes) s

/-- Bypass pair of a ring port (R416). -/
def pairOf (p : Fin 16) : Option (Fin 4) := if p.val < 8 then some (Fin.ofNat 4 p.val) else none

/-- The other port of a ring port's pair. -/
def mateOf (p : Fin 16) : Fin 16 := if p.val < 4 then p + 4 else p - 4

/-- The port carries, or is on its way to carry, traffic. -/
def PortState.on : PortState → Bool
  | .dark => false
  | .failed => false
  | _ => true

/-- A pair starts to close or to open (R417); BYPASS_CHANGE ends it. -/
def bypassTo (k : Fin 4) (close : Bool) (s : State) : State :=
  if s.fab.changing[k] = none ∧ s.fab.closed[k] = close then s
  else { s with fab := { s.fab with changing := vset s.fab.changing k (some close) } }

/-- A ring port that stops closes its pair, and its mate goes dark (R417). -/
def closePair (p : Fin 16) (reason : Nat) (s : State) : State :=
  match pairOf p with
  | none => s
  | some k =>
    let m := mateOf p
    let r := portRec s m
    let s := bypassTo k true s
    if !r.state.on then s
    else
      let s := setPort m { r with state := .dark } s
      if r.state = .up ∨ r.state = .retraining then portEvent .linkDown m reason 0 s else s

/-- A port goes DARK (R25, R413, R414). -/
def portDark (p : Fin 16) (reason : Nat) (s : State) : State :=
  let r := portRec s p
  let s := setPort p { r with state := .dark } s
  let s := if r.state = .up ∨ r.state = .retraining then portEvent .linkDown p reason 0 s else s
  closePair p reason s

/-- A port fails (R413, R414). -/
def portFail (p : Fin 16) (reason : Nat) (st : Byte) (s : State) : State :=
  let s := setPort p { portRec s p with state := .failed, lastStatus := st } s
  closePair p 3 (portEvent .linkDown p reason 0 s)

/-- A port goes to RETRAINING; the eighth time within 1 s it fails (R414). -/
def toRetrain (p : Fin 16) (s : State) : State :=
  let r := portRec s p
  if r.state ≠ .up then s
  else
    let times := (r.retrainTimes.filter fun n => decide (s.t.now < n + usec 1000000)) ++ [s.t.now]
    let s := setPort p { r with state := .retraining, retrainTimes := times } s
    if 8 ≤ times.length then portFail p 1 0x09 s else s

/-- Every UP port retrains (R301). -/
def retrainAll (s : State) : State := (List.finRange 16).foldl (fun s p => toRetrain p s) s

/-- Port by which a control packet leaves for a module: the first of the first group of R422 that has
one. -/
def controlPort (s : State) (m : BitVec 8) : Option (Fin 16) :=
  let up (i : Fin 16) : Bool := (portRec s i).state == .up
  let direct := ringPorts.filter fun i => up i && (portRec s i).peer == m
  let transit := ringPorts.filter fun i =>
    up i && (portRec s i).peer != 0xFF && Config.peerReaches (portRec s i).peer.toNat m.toNat s.fab.epoch.toNat
  (direct ++ switchPorts.filter up ++ transit).head?

/-- Sends a control packet to a module (R420). -/
def controlOut (m : BitVec 8) (code : BitVec 4) (payload : List Byte) (s : State) : State :=
  match controlPort s m with
  | none => s
  | some p => { s with out := s.out ++ [.control p m code payload] }

/-- ORDERING of a variant, in ASCII and space-padded (R370): VLN4-F3072, VLN4-F1536, VLN4-L3072. -/
def orderingNumber (variant : Nat) : List Byte :=
  let tail : List Byte := match variant with
    | 0 => [0x46, 0x33, 0x30, 0x37, 0x32]
    | 1 => [0x46, 0x31, 0x35, 0x33, 0x36]
    | _ => [0x4C, 0x33, 0x30, 0x37, 0x32]
  ([0x56, 0x4C, 0x4E, 0x34, 0x2D] : List Byte) ++ tail ++ List.replicate 6 0x20

end Sys2Proof.Machine
end

