-- ==== Sys2Proof/Machine/Ctx.lean ====
section
/-! DEFINITION. Hardware contexts: their registers, when an instruction may issue, how it retires,
taking a trap, run-ahead entries and a context reset (spec/06_cores.md). -/

namespace Sys2Proof.Machine

open Sys2Proof

/-! ### Registers and records (R158, R176, R184) -/

def ctxRec (s : State) (x : CtxId) : CtxRec := s.core.ctxs.get {} (xk x)

def setCtx (x : CtxId) (r : CtxRec) (s : State) : State :=
  { s with core := { s.core with ctxs := s.core.ctxs.set {} (xk x) r } }

def updCtx (x : CtxId) (f : CtxRec → CtxRec) (s : State) : State := setCtx x (f (ctxRec s x)) s

def coreRec (s : State) (c : Cl) (k : Nat) : CoreRec := s.core.cores.get {} (ok c k)

def setCore (c : Cl) (k : Nat) (r : CoreRec) (s : State) : State :=
  { s with core := { s.core with cores := s.core.cores.set {} (ok c k) r } }

/-- x0 reads 0 (R158). -/
def CtxRec.readX (r : CtxRec) (i : Reg) : Word := if i = 0 then 0 else r.x[i]

/-- x0 ignores writes (R158). -/
def CtxRec.writeX (r : CtxRec) (i : Reg) (v : Word) : CtxRec := if i = 0 then r else { r with x := vset r.x i v }

def CtxRec.writeF (r : CtxRec) (i : Reg) (v : Word) : CtxRec := { r with f := vset r.f i v }

def CtxRec.writeV (r : CtxRec) (i : Reg) (v : BitVec 256) : CtxRec := { r with v := vset r.v i v }

/-- m0 reads all ones (R158). -/
def CtxRec.readM (r : CtxRec) (i : Fin 8) : BitVec 32 := if i = 0 then 0xFFFFFFFF else r.m[i]

def CtxRec.writeM (r : CtxRec) (i : Fin 8) (v : BitVec 32) : CtxRec := if i = 0 then r else { r with m := vset r.m i v }

def xr (s : State) (x : CtxId) (i : Reg) : Word := (ctxRec s x).readX i
def fr (s : State) (x : CtxId) (i : Reg) : Word := (ctxRec s x).f[i]
def vr (s : State) (x : CtxId) (i : Reg) : BitVec 256 := (ctxRec s x).v[i]

def wx (x : CtxId) (i : Reg) (v : Word) (s : State) : State := updCtx x (fun r => r.writeX i v) s
def wv (x : CtxId) (i : Reg) (v : BitVec 256) (s : State) : State := updCtx x (fun r => r.writeV i v) s

/-- Writes a scalar floating-point register: FP64 whole; for FP32 the spec names bits [31:0] only, so
the upper half is a free value (R158). -/
def wf (x : CtxId) (i : Reg) (wide : Bool) (v : Nat) (s : State) : State :=
  if wide then updCtx x (fun r => r.writeF i (BitVec.ofNat 64 v)) s
  else
    let h := takeFree s
    updCtx x (fun r => r.writeF i (BitVec.ofNat 64 (h.1.toNat / 2 ^ 32 * 2 ^ 32 + v % 2 ^ 32))) h.2

/-- Adds to a core counter at a control-block offset, with its wrap (R184). -/
def coreWrap (c : Cl) (k off : Nat) (old : Word) (n : Nat) (s : State) : State :=
  counterWrap (clAddr 4 c (0x200 * k + off)) (owner s c) old n s

def addIssued (x : CtxId) (s : State) : State :=
  let r := coreRec s x.c x.k.val
  coreWrap x.c x.k.val 0x140 r.issued 1 (setCore x.c x.k.val { r with issued := r.issued + 1 } s)

def addRaIssued (x : CtxId) (s : State) : State :=
  let r := coreRec s x.c x.k.val
  coreWrap x.c x.k.val 0x148 r.raIssued 1 (setCore x.c x.k.val { r with raIssued := r.raIssued + 1 } s)

def addRaUsed (x : CtxId) (s : State) : State :=
  let r := coreRec s x.c x.k.val
  coreWrap x.c x.k.val 0x150 r.raUsed 1 (setCore x.c x.k.val { r with raUsed := r.raUsed + 1 } s)

def addRaDiscarded (x : CtxId) (n : Nat) (s : State) : State :=
  let r := coreRec s x.c x.k.val
  coreWrap x.c x.k.val 0x158 r.raDiscarded n (setCore x.c x.k.val { r with raDiscarded := r.raDiscarded + BitVec.ofNat 64 n } s)

def addMisses (x : CtxId) (s : State) : State :=
  let r := coreRec s x.c x.k.val
  coreWrap x.c x.k.val 0x160 r.icMisses 1 (setCore x.c x.k.val { r with icMisses := r.icMisses + 1 } s)

/-! ### Outstanding accesses of a context -/

def myXacts (s : State) (x : CtxId) : List Xact := s.net.xacts.filter fun t => t.who == .core x && !t.dead && !t.orphaned

/-- Registers per group of a format in block loads and stores (R165). -/
def groupRegs (f : Nat) : Nat := match fmtBits f with | 32 => 4 | 16 => 2 | _ => 1

/-- Registers that an answer will write: the scoreboard of the context (R159). -/
def Use.writes : Use → List MemReg
  | .load dst _ _ _ => [dst]
  | .blockLoad vd _ dst _ _ _ _ => (List.range (groupRegs dst.toNat)).map fun i => .v (Fin.ofNat 32 (vd.val + i))
  | .atomic rd _ _ => [.x rd]
  | .object rd => [.x rd]
  | .chOpen _ rd => [.x rd]
  | .send _ _ _ (some rd) _ => [.x rd]
  | _ => []

/-- A register of the list waits for an answer. -/
def awaited (s : State) (x : CtxId) (rs : List MemReg) : Bool :=
  (myXacts s x).any fun t => t.use.writes.any fun r => rs.contains r

def Use.isLoad : Use → Bool
  | .load _ _ _ _ => true
  | .blockLoad _ _ _ _ _ _ _ => true
  | _ => false

def Use.isAtomic : Use → Bool
  | .atomic _ _ _ => true
  | _ => false

def Use.isStore : Use → Bool
  | .store _ => true
  | _ => false

/-- Stores and atomics a core has posted; those of a context reset since still count until they complete (R167,
R183). -/
def posted (s : State) (c : Cl) (k : Fin 24) : Nat :=
  s.net.xacts.countP fun t =>
    (match t.who with | .core x => x.c == c && x.k == k | _ => false) && !t.dead && (t.use.isStore || t.use.isAtomic)

/-- Loads a context has outstanding (R167). -/
def loadsOut (s : State) (x : CtxId) : Nat := (myXacts s x).countP fun t => t.use.isLoad

/-- The first byte and the length that a request of a core accesses: a load served by a run-ahead read takes its
own bytes of the line. -/
def Xact.span (t : Xact) : Nat × Nat :=
  match t.use with
  | .load _ _ _ (some (off, n)) => (t.addr.toNat + off, n)
  | _ => (t.addr.toNat, t.len)

/-- An earlier access of the context overlaps the bytes, and either writes (R203). The own module number names
the same bytes as 0xFF (R8, R208). -/
def overlaps (s : State) (x : CtxId) (a : Word) (n : Nat) (write : Bool) : Bool :=
  let k := (selfAddr s a).toNat
  (myXacts s x).any fun t =>
    let b := (selfAddr s t.addr).toNat + (t.span.1 - t.addr.toNat)
    (t.use.isStore || t.use.isAtomic || (write && t.use.isLoad)) && decide (b < k + n) && decide (k < b + t.span.2)

/-! ### Issue and retirement (R159, R182) -/

/-- The instruction address is valid (R182). -/
def pcOk (pc : BitVec 48) : Bool := pc.toNat < 2 ^ 42 && pc.toNat % 4 == 0

/-- The core's cache holds the line of an instruction, without a parity error (R182). -/
def lineCached (s : State) (x : CtxId) (pc : BitVec 48) : Bool :=
  let k := coreRec s x.c x.k.val
  k.lines.contains (pc.toNat / 64) && !k.badLines.contains (pc.toNat / 64)

/-- With NAN_TRAP enabled, a context whose produced NaN is on its way to the partition's record issues nothing
until the report arrives, so that CTX_PC of the NAN trap is the next instruction (R61, R171; DEDUCED: log entry
26). -/
def nanHeld (s : State) (x : CtxId) : Bool :=
  s.num.nans.any fun r => r.who == .ctx x && (numBlock s r.part).nanTrap

/-- The context can issue: READY, outside run-ahead, in a core that runs, at a valid address whose line is cached
(R159, R182). -/
def canIssue (s : State) (x : CtxId) : Bool :=
  let r := ctxRec s x
  r.state == .ready && !r.runahead && r.held.isNone && pcOk r.pc && lineCached s x r.pc && arithOn s x.c &&
    !dryCore s x.c x.k.val && !nanHeld s x

/-- Issues one instruction whose registers are at hand, else waits in issue. -/
def issueInstr (x : CtxId) (rs : List MemReg) (f : State → State) (s : State) : State :=
  if canIssue s x && !awaited s x rs then f s else s

/-- The instruction completes: the counter and the address move on. -/
def retire (x : CtxId) (s : State) : State := addIssued x (updCtx x (fun r => { r with pc := r.pc + 4 }) s)

/-- Arithmetic cycles that the context has spent in WAITING so far (R176). -/
def waitSoFar (s : State) (x : CtxId) : Nat :=
  let r := ctxRec s x
  if r.state = .waiting then (s.t.now - r.waitFrom) * arithK s x.c / 8 / (if s.t.coast then 2 else 1) else 0

/-- Leaves WAITING: WAIT_CYCLES takes the arithmetic cycles spent (R176). -/
def endWait (x : CtxId) (s : State) : State :=
  let r := ctxRec s x
  let n := waitSoFar s x
  let k := coreRec s x.c x.k.val
  let s := setCtx x { r with waitKind := 0, waitTarget := 0, wait := none, held := none } s
  if r.state = .waiting then
    coreWrap x.c x.k.val 0x168 k.waitCycles n (setCore x.c x.k.val { k with waitCycles := k.waitCycles + BitVec.ofNat 64 n } s)
  else s

/-- A waiter leaves every endpoint's list. -/
def unwait (w : Waiter) (s : State) : State :=
  { s with sync := { s.sync with
    eps := s.sync.eps.map (fun e => (e.1, { e.2 with waiting := e.2.waiting.filter (· != w) }))
    reported := s.sync.reported.filter (· != w) } }

/-! ### Run-ahead (R173-R175) -/

/-- Discards the context's entries unused (R175). -/
def dropEntries (x : CtxId) (s : State) : State :=
  let r := ctxRec s x
  addRaDiscarded x r.entries.length (setCtx x { r with entries := [] } s)

/-- Ends run-ahead: the shadow copy goes (R173). -/
def endRunahead (x : CtxId) (s : State) : State :=
  updCtx x (fun r => { r with runahead := false, shadow := none, raLoad := none }) s

/-- A store that overlaps an entry discards it (R175). -/
def dropOverlapped (x : CtxId) (a : Word) (n : Nat) (s : State) : State :=
  let r := ctxRec s x
  let k := (selfAddr s a).toNat
  let hit (e : RaEntry) : Bool := decide ((selfAddr s e.addr).toNat < k + n) && decide (k < (selfAddr s e.addr).toNat + 64)
  addRaDiscarded x (r.entries.countP hit) (setCtx x { r with entries := r.entries.filter fun e => !hit e } s)

/-! ### Traps (R171, R172) -/

/-- Takes a trap: records it, then runs the handler or stops and notifies; a context already stopped
only records it, and only the first since it ran, an idle one takes none. Entries are discarded (R175), and a
blocked send leaves its endpoint's list: it is made again when the context comes back to it. -/
def takeTrap (x : CtxId) (cause st : Byte) (fmt : BitVec 5) (tpc : BitVec 48) (addr : Word) (resume : BitVec 48)
    (s : State) : State :=
  let r := ctxRec s x
  if r.state = .idle ∨ (r.state = .stopped ∧ r.trapped) then s
  else
    let s := endRunahead x (dropEntries x (endWait x (unwait (.ctx x) s)))
    let s := updCtx x (fun r => { r with cause := cause, causeStatus := st, causeFormat := fmt, trapPc := tpc, trapAddr := addr, trapped := true }) s
    if r.state = .stopped then s
    else if !r.inTrap && r.vector ≠ 0 then
      updCtx x (fun r => { r with inTrap := true, state := .ready, pc := r.vector }) s
    else
      let k := coreRec s x.c x.k.val
      let s := updCtx x (fun r => { r with state := .stopped, pc := resume }) s
      if k.note then notify x.c ⟨x.k.val, k.noteObj.toNat⟩ 1 s else s

/-- A trap of the instruction at CTX_PC, which is not executed. -/
def trapHere (x : CtxId) (cause : Byte) (fmt : BitVec 5) (addr : Word) (s : State) : State :=
  let pc := (ctxRec s x).pc
  takeTrap x cause 0x00 fmt pc addr pc s

/-- ILLEGAL (R171). -/
def illegal (x : CtxId) (s : State) : State := trapHere x 0x01 0 0 s

/-- FORMAT_MISMATCH (R44, R171). -/
def mismatch (x : CtxId) (f : Fmt) (s : State) : State := trapHere x 0x02 f 0 s

/-- ACCESS of an access made at `tpc` (R171). -/
def accessTrap (x : CtxId) (st : Byte) (tpc : BitVec 48) (addr : Word) (s : State) : State :=
  takeTrap x 0x04 st 0 tpc addr (ctxRec s x).pc s

/-! ### Reports of the core units (R59, R143) -/

def coreLoc (s : State) (x : CtxId) : Word :=
  BitVec.ofNat 64 ((ctxRec s x).pc.toNat + x.n.val * 2 ^ 48)

/-- Reports the NaNs produced and, with CORE_SENTINEL, the overflows of result elements. -/
def coreReport (x : CtxId) (vector : Bool) (fmt : Nat) (ns : List Num) (s : State) : State :=
  let nans := ns.filter fun n => n.cause != 0
  let u := coreUnit x.c x.k.val
  let s := match nans with
    | n :: _ => reportNan x.c (.ctx x) u (b2n vector) fmt n.cause (coreLoc s x) nans.length s
    | [] => s
  match owner s x.c with
  | some p => if (numBlock s p).coreSentinel then reportOvf x.c u (ns.countP (·.ovf)) s else s
  | none => s

/-- The core's generator serves draws in issue order (R170). -/
def coreDraws (x : CtxId) (grad : Bool) (n : Nat) (s : State) : Option (List Nat) × State :=
  let r := coreRec s x.c x.k.val
  let g := r.gen.forConv grad n
  (g.1, setCore x.c x.k.val { r with gen := g.2 } s)

/-- Seeds a core's generator (R155); an unbound cluster's holds key 0 and counter 0. -/
def seedCore (c : Cl) (k : Nat) (s : State) : State :=
  let r := coreRec s c k
  match owner s c with
  | some p => setCore c k { r with gen := Gen.seed (numBlock s p).seedBase (coreUnit c k) (r.act + 1), act := r.act + 1 } s
  | none => setCore c k { r with gen := {}, act := 0 } s

/-! ### Context reset (R183) -/

/-- Replies to the context's accesses fill no register of it any more and trap nothing; what they do to the
endpoint of a channel they still do, and stores and atomics already posted are still performed (R183). -/
def orphan (x : CtxId) (s : State) : State :=
  { s with net := { s.net with xacts := s.net.xacts.map fun t => if t.who = .core x then { t with orphaned := true } else t } }

/-- A context reset: IDLE, registers and trap record cleared, nothing delivered (R183). -/
def ctxReset (x : CtxId) (s : State) : State :=
  let st := (ctxRec s x).cmdStatus
  let s := dropEntries x (endWait x (unwait (.ctx x) (orphan x s)))
  setCtx x { cmdStatus := st } s

/-- The contexts of a core and of a cluster. -/
def coreCtxs (c : Cl) (k : Fin 24) : List CtxId := [⟨c, k, 0⟩, ⟨c, k, 1⟩, ⟨c, k, 2⟩, ⟨c, k, 3⟩]
def clCtxs (c : Cl) : List CtxId := (List.finRange 24).flatMap (coreCtxs c)

/-- A context reset on every context that is not already at its reset value. -/
def resetCtxs (c : Cl) (s : State) : State := (clCtxs c).foldl (fun s x => setCtx x {} (ctxReset x s)) s

/-- The cores' part of a cluster compute reset (R183). -/
def resetCores (c : Cl) (s : State) : State :=
  (List.range 24).foldl (fun s k =>
    let r := coreRec s c k
    seedCore c k (setCore c k { gen := r.gen, act := r.act } s)) (resetCtxs c s)

end Sys2Proof.Machine
end

