-- ==== Sys2Proof/Machine/Target.lean ====
section
/-! DEFINITION. A request at its target and a reply at its requester: the checks 5 to 7 of R185,
fences, and islands on a path (spec/07_memory.md, 08_mesh.md, 16_ocsal_fabric.md). -/

namespace Sys2Proof.Machine

open Sys2Proof

/-! ### At the target (R185 checks 5 to 7, R236, R425) -/

/-- The local partition bound to a remote module's partition (R425). -/
def hallPart (s : State) (mod : BitVec 8) (p : Fin 64) : Option (Fin 64) :=
  (s.part.parts.find? fun e => match e.2 with | some r => r.hall.contains (mod, p) | none => false).map
    fun e => Fin.ofNat 64 e.1

/-- A partition is bound to a remote module's partition (R425). -/
def hallPaired (s : State) (p : Fin 64) (mod : BitVec 8) (q : Fin 64) : Bool :=
  match partOf s p with
  | some r => r.hall.contains (mod, q)
  | none => false

/-- The partition that owns a target is the requester's, or is bound to it (R185 check 5, R425). -/
def ownsTarget (s : State) (x : Xact) (own : Option (Fin 64)) : Bool :=
  match own with
  | none => false
  | some p =>
    match x.who with
    | .remote mod q _ _ => hallPaired s p mod q
    | _ => x.part == some p

/-- The partition is in reset and had not accepted the request before (R386 steps 1 and 4). -/
def resetRefuses (s : State) (p : Fin 64) (id : Nat) : Bool :=
  match partOf s p with
  | some r => (match r.reset with | some t => !t.owed.contains id | none => false)
  | none => false

/-- Checks 5 to 7 on a cluster's spaces 0x1-0x3, 0x5 and 0x6. -/
def clusterCheck (s : State) (x : Xact) (c : Cl) : Byte :=
  let own := owner s c
  if isWellhead s c || !ownsTarget s x own then 0x04
  else if (match own with | some p => resetRefuses s p x.id | none => false) then 0x05
  else if computeOff s c then 0x09
  else 0x00

/-- Serves a request that has reached its target cluster: a failed check is answered, an idle cluster
holds the request until it wakes (R236). -/
def atTarget (id : Nat) (wanted : Xact → Bool) (f : Xact → Cl → State → State) (s : State) : State :=
  match xactOf s id with
  | none => s
  | some x =>
    if x.phase == .there && wanted x then
      match addrCl x.addr with
      | none => answer x 0x03 [] s
      | some c =>
        let st := clusterCheck s x c
        if st ≠ 0x00 then answer x st [] s
        else if asleep s c || !arithOn s c then s
        else f x c s
    else s

/-- A requester takes its reply: the request is forgotten. A reply for a cluster in an idle state is held until it
wakes (R236). -/
def takeReply (id : Nat) (wanted : Use → Bool) (f : Xact → Byte → List Byte → State → State) (s : State) : State :=
  match xactOf s id with
  | none => s
  | some x =>
    match x.phase with
    | .home st d =>
      if wanted x.use && !((whoEdge x.who).isNone && asleep s x.src) then f x st d (dropXact id s) else s
    | _ => s

/-! ### Fences (R204, R205) -/

/-- The access is to another module or to host memory. -/
def farAddr (s : State) (a : Word) : Bool :=
  (addrModule a != 0xFF && some (addrModule a) != ownModule s) || addrSpace a == 8

/-- An access is in a fence's scope. -/
def inScope (s : State) (x : CtxId) (sc : FenceScope) (a : Word) : Bool :=
  match sc with
  | .g => true
  | .m => !farAddr s a
  | .c => !farAddr s a && decide (1 ≤ addrSpace a) && decide (addrSpace a ≤ 5) && addrCl a == some x.c

/-- No earlier access of the fence's kind and scope is incomplete. -/
def fenceOk (s : State) (x : CtxId) (k : FenceKind) (sc : FenceScope) : Bool :=
  (myXacts s x).all fun t =>
    !(inScope s x sc t.addr &&
      (t.use.isLoad || t.use.isAtomic || (t.use.isStore && k != .acquire)))

/-- The implied RELEASE of an object update or a send to an address (R205). -/
def impliedRelease (s : State) (x : CtxId) (a : Word) : Bool :=
  fenceOk s x .release (if farAddr s a then .g else .m)

/-! ### Islands (R272, R279, R306, R308) -/

/-- The cluster lies in a forerunner island. -/
def inIsland (s : State) (c : Cl) : Bool := s.t.foreOn || s.t.islands.any fun i => i.contains (fieldOf c)

/-- The route between two routers under the current bank meets an island. -/
def pathIsland (s : State) : Nat → Cl → Cl → Bool → Bool
  | 0, _, _, _ => false
  | k + 1, c, dst, vc1 =>
    inIsland s c ||
      match nextHop s.net.cur s.net.routeEpoch c dst vc1 with
      | .port d m => (match nbr c d with | some u => pathIsland s k u dst (vc1 || m) | none => false)
      | _ => false

/-- A channel between two clusters of this module may not be checked (R272). -/
def noChecked (s : State) (a b : Cl) : Bool := pathIsland s 800 a b false || pathIsland s 800 b a false || inIsland s b

end Sys2Proof.Machine
end

