-- ==== Sys2Proof/Machine/Sync.lean ====
section
/-! DEFINITION. Synchronisation objects, WAIT, notifications and barriers
(spec/10_sync_and_channels.md R259-R269). -/

namespace Sys2Proof.Machine

open Sys2Proof

/-! ### Objects (R259-R263) -/

def objKey (c : Cl) (core obj : Nat) : Nat := ck c * 1024 + core * 32 + obj

/-- Value of a synchronisation object (R259). -/
def objVal (s : State) (c : Cl) (core obj : Nat) : BitVec 32 := s.sync.objs.get 0 (objKey c core obj)

/-- The comparison of R262: 0 EQ, 1 NE, 2 GE, 3 LT, wrap-safe. -/
def objCond (cond : Nat) (v t : BitVec 32) : Bool :=
  match cond with
  | 0 => v == t
  | 1 => v != t
  | 2 => decide (0 ≤ (v - t).toInt)
  | _ => decide ((v - t).toInt < 0)

/-- A WAIT completes, by its object or its deadline: its register takes the result, the context is READY, and
run-ahead entries are discarded (R160, R175, R205). -/
def finishWait (x : CtxId) (rd : Reg) (result : Word) (s : State) : State :=
  retire x (wx x rd result (updCtx x (fun r => { r with state := .ready }) (dropEntries x (endWait x s))))

/-- Wakes the contexts of a cluster whose condition on an object holds (R263). -/
def wakeWaiters (c : Cl) (core obj : Nat) (s : State) : State :=
  (clCtxs c).foldl (fun s x =>
    match (ctxRec s x).wait with
    | some w =>
      if (ctxRec s x).state == .waiting && w.core == core && w.obj == obj && objCond w.cond (objVal s c core obj) w.value then
        finishWait x w.rd 0 s
      else s
    | none => s) s

/-- Changes an object and wakes its waiters. -/
def setObj (c : Cl) (core obj : Nat) (v : BitVec 32) (s : State) : State :=
  if v = objVal s c core obj then s
  else wakeWaiters c core obj { s with sync := { s.sync with objs := s.sync.objs.set 0 (objKey c core obj) v } }

/-- Core and object that a space 0x5 address names (R259). -/
def addrObj (a : Word) : Nat × Nat := (fld a.toNat 8 5, fld a.toNat 3 5)

/-- An object instruction sends its operation (R261, R205). -/
def objInstr (x : CtxId) (rd ra : Reg) (rs : List MemReg) (op : Nat) (v cmp : Word) (s : State) : State :=
  issueInstr x ([.x rd, .x ra] ++ rs) (fun s =>
    let a := xr s x ra
    if op ≠ 0 && !impliedRelease s x a then s
    else
      let s := dropEntries x s
      retire x (issueReq (.core x) (owner s x.c) (.object op) a 4 (leBytes 4 v.toNat) cmp false false x.c (.object rd) s)) s

/-- OBJRD (R261). -/
def execObjrd (x : CtxId) (rd ra : Reg) (s : State) : Host.Outcome State Fault Refusal :=
  .next (objInstr x rd ra [] 0 0 0 s)

/-- OBJSET (R261). -/
def execObjset (x : CtxId) (rd ra rv : Reg) (s : State) : Host.Outcome State Fault Refusal :=
  .next (objInstr x rd ra [.x rv] 1 (xr s x rv) 0 s)

/-- OBJADD (R261). -/
def execObjadd (x : CtxId) (rd ra rv : Reg) (s : State) : Host.Outcome State Fault Refusal :=
  .next (objInstr x rd ra [.x rv] 2 (xr s x rv) 0 s)

/-- OBJCAS (R261). -/
def execObjcas (x : CtxId) (rd ra rc rv : Reg) (s : State) : Host.Outcome State Fault Refusal :=
  .next (objInstr x rd ra [.x rc, .x rv] 3 (xr s x rv) (xr s x rc) s)

/-- The request is an object operation of a code. -/
def isObj (op : Nat) (x : Xact) : Bool := x.kind == .object op

/-- The operand of an object packet. -/
def objOperand (x : Xact) : BitVec 32 := BitVec.ofNat 32 (leNat (x.data.take 4))

/-- Performs an object operation at its target and answers the old value (R260). -/
def objServe (id op : Nat) (f : BitVec 32 → Xact → BitVec 32) (s : State) : State :=
  atTarget id (isObj op) (fun x c s =>
    let o := addrObj x.addr
    let old := objVal s c o.1 o.2
    answer x 0x00 (leBytes 4 old.toNat) (setObj c o.1 o.2 (f old x) s)) s

/-- OBJECT_READ (R260). -/
def execObjectRead (id : Nat) (s : State) : Host.Outcome State Fault Refusal :=
  .next (objServe id 0 (fun old _ => old) s)

/-- OBJECT_SET (R260, R263). -/
def execObjectSet (id : Nat) (s : State) : Host.Outcome State Fault Refusal :=
  .next (objServe id 1 (fun _ x => objOperand x) s)

/-- OBJECT_CAS (R260). -/
def execObjectCas (id : Nat) (s : State) : Host.Outcome State Fault Refusal :=
  .next (objServe id 3 (fun old x => if old = x.operand.setWidth 32 then objOperand x else old) s)

/-! ### Engine-made notifications (R494) -/

/-- Key, record and register address of a pump channel (R243, R246, R257). -/
def chanKey : ChanId → Nat
  | .cluster c n => ck c * 16 + n.val
  | .stack t n => 2 ^ 30 + t.val * 16 + n.val
def chanOf (s : State) (ch : ChanId) : ChanRec := s.pump.chans.get {} (chanKey ch)
def setChan (ch : ChanId) (r : ChanRec) (s : State) : State :=
  { s with pump := { s.pump with chans := s.pump.chans.set {} (chanKey ch) r } }
def chanAddr : ChanId → Word
  | .cluster c n => clAddr 4 c (0x6000 + 0x80 * n.val)
  | .stack t n => numAddr (0x10000 + 0x1000 * t.val + 0x80 * n.val)

/-- TAG and COUNT of a descriptor (R247). -/
def Desc.tag (d : Desc) : BitVec 16 := BitVec.ofNat 16 (fld d.raw.toNat 32 16)
def Desc.count (d : Desc) : Nat := fld d.raw.toNat 224 32

/-- NOTIFY and NOTIFY_ADDR of a descriptor (R247). -/
def dNotify (n : Nat) : Bool := bit n 4
def dNoteAddr (n : Nat) : Word := BitVec.ofNat 64 (fld n 384 64)

def setDesc (ch : ChanId) (d : Desc) (s : State) : State :=
  let r := chanOf s ch
  setChan ch { r with queue := r.queue.map fun e => if e.serial = d.serial then d else e } s

/-- Sends a descriptor's notification. -/
def sendNote (ch : ChanId) (d : Desc) (s : State) : State :=
  let a := dNoteAddr d.raw.toNat
  match addrCl a with
  | some c => notifyBy c ⟨(addrObj a).1, (addrObj a).2⟩ (.pump ch d.serial d.part) s
  | none => s

/-- A halted descriptor that has come first and has no write under way notifies, if it has not; one dropped by RESTART
then leaves, and the next is looked at (R255, R256). -/
def settleHead (ch : ChanId) : Nat → State → State
  | 0, s => s
  | k + 1, s =>
    match (chanOf s ch).queue with
    | [] => s
    | d :: rest =>
      if !d.halted || d.writes != 0 then s
      else
        let s := if dNotify d.raw.toNat && !d.noteSent then sendNote ch d (setDesc ch { d with noteSent := true } s) else s
        if !d.dropped then s
        else
          let r := chanOf s ch
          settleHead ch k (setChan ch { r with
            queue := rest, state := if rest.isEmpty && r.state == .running then .idle else r.state } s)

/-- The descriptor has finished with OK and leaves its channel (R255, R257). -/
def finishDesc (ch : ChanId) (d : Desc) (s : State) : State :=
  let r := chanOf s ch
  let q := r.queue.filter (·.serial != d.serial)
  settleHead ch 17 (counterWrap (chanAddr ch + 0x20) (some d.part) r.completed 1 (setChan ch { r with
    queue := q, completed := r.completed + 1, lastStatus := 0x00, lastTag := d.tag
    state := if q.isEmpty && r.state == .running then .idle else r.state } s))

/-- A descriptor halts at a place; of two failures the earlier in transfer order is kept. One that RESTART has dropped
halts nothing again (R256). -/
def haltDesc (ch : ChanId) (d : Desc) (st : Byte) (u off : Nat) (s : State) : State :=
  let r := chanOf s ch
  let earlier : Bool := decide (u < r.failUnit.toNat) || (u == r.failUnit.toNat && decide (off < r.failByte.toNat))
  if d.dropped || (d.halted && !(earlier && r.failSerial == d.serial)) then s
  else setChan ch { r with
    state := .halted, lastStatus := st, lastTag := d.tag, failTag := d.tag, failSerial := d.serial
    failUnit := BitVec.ofNat 32 u, failByte := BitVec.ofNat 32 off
    queue := r.queue.map fun e => if e.serial = d.serial then { e with halted := true } else e } s

/-- A pump's notification was answered: with OK the descriptor is finished, else it halts with
FAIL_POS at COUNT (R256, R494). -/
def noteDone (ch : ChanId) (serial : Nat) (st : Byte) (s : State) : State :=
  match (chanOf s ch).queue.find? (·.serial == serial) with
  | none => s
  | some d =>
    if d.halted then s
    else if st = 0x00 then finishDesc ch d s
    else haltDesc ch d st d.count 0 s

/-- Applies the notification at place `i` after checks 5 to 7 of R185: held while the cluster is idle,
failed where a pump's names another partition's cluster, and while the cluster's compute is off or its
partition in reset; else an ADD (R260, R494). `fail` records a failure at an I/O tile. -/
def noteApply (i : Nat) (fail : TileId → Byte → State → State) (s : State) : State :=
  match s.sync.notes[i]? with
  | none => s
  | some n =>
    let denied : Bool := match n.by_ with
      | .pump _ _ p => isWellhead s n.c || owner s n.c != some p
      | _ => false
    let st : Byte := if denied then 0x04
      else if (match owner s n.c with | some p => partResetting s p | none => false) then 0x05
      else if computeOff s n.c then 0x09 else 0x00
    if st = 0x00 && asleep s n.c then s
    else
      let s := { s with sync := { s.sync with notes := s.sync.notes.eraseIdx i } }
      let s := if st = 0x00 ∧ n.ref.core < 24 ∧ n.ref.obj < 32 then
          setObj n.c n.ref.core n.ref.obj (objVal s n.c n.ref.core n.ref.obj + n.add) s
        else s
      match n.by_ with
      | .none => s
      | .pump ch serial _ => noteDone ch serial st s
      | .io t => if st = 0x00 then s else fail t st s

/-! ### WAIT (R160, R262) -/

/-- A short deadline on the local tide has passed: it is not ahead as a signed 32-bit distance, so that one exactly
2^31 ahead compares as past (R293). -/
def deadlinePast (s : State) (c : Cl) (d : BitVec 32) : Bool := decide ((d - (localTide s c).setWidth 32).toInt ≤ 0)

/-- WAIT (R160, R262, R205): an ACQUIRE. One that names a core above 23 waits for nothing: it has issued, and takes
the ACCESS trap with CTX_PC at the next instruction (R171). -/
def execWait (x : CtxId) (rd ra rb rc : Reg) (s : State) : Host.Outcome State Fault Refusal :=
  .next (issueInstr x [.x rd, .x ra, .x rb, .x rc] (fun s =>
    let w := (xr s x ra).toNat
    let core := fld w 0 5
    let obj := fld w 5 5
    if 24 ≤ core then
      let pc := (ctxRec s x).pc
      accessTrap x 0x03 pc (clAddr 5 x.c (core * 256 + obj * 8)) (retire x s)
    else if !fenceOk s x .acquire .g then s
    else
      let t := (xr s x rb).setWidth 32
      let d := (xr s x rc).setWidth 32
      if objCond (fld w 10 2) (objVal s x.c core obj) t then finishWait x rd 0 s
      else if d ≠ 0 ∧ deadlinePast s x.c d then finishWait x rd 1 s
      else
        let s := endRunahead x s
        updCtx x (fun r => { r with
          state := .waiting, waitKind := 1, waitTarget := BitVec.ofNat 10 (obj * 32 + core), waitFrom := s.t.now
          wait := some ⟨core, obj, fld w 10 2, t, if d = 0 then none else some d, rd⟩ }) s) s)

/-! ### Barriers (R264-R269) -/

def barOf (s : State) (c : Cl) (b : Nat) : BarRec := s.sync.bars.get {} (ck c * 32 + b)

def setBar (c : Cl) (b : Nat) (r : BarRec) (s : State) : State :=
  { s with sync := { s.sync with bars := s.sync.bars.set {} (ck c * 32 + b) r } }

def rootOf (s : State) (p : Fin 64) (b : Nat) : Option BarRoot := s.sync.roots.get none (p.val * 32 + b)

def setRoot (p : Fin 64) (b : Nat) (r : Option BarRoot) (s : State) : State :=
  { s with sync := { s.sync with roots := s.sync.roots.set none (p.val * 32 + b) r } }

def sendBar (k : BarPkt) (s : State) : State := { s with sync := { s.sync with pkts := s.sync.pkts ++ [k] } }

/-- The cluster sends its arrival for the generation in progress (R266). -/
def sendArrival (p : Fin 64) (c : Cl) (b : Fin 32) (s : State) : State :=
  let r := barOf s c b.val
  sendBar (.arrive p b c r.generation) (setBar c b.val { r with arrived := 0, sent := true } s)

/-- Counts an arrival of a cluster (R266); answers its status. -/
def barArrive (p : Fin 64) (c : Cl) (b : Fin 32) (s : State) : Byte × State :=
  let r := barOf s c b.val
  if (rootOf s p b.val).isNone && !r.valid then (0x03, s)
  else if r.expected = 0 then (0x04, s)
  else if r.held then (0x0E, s)
  else
    let n := r.arrived + 1
    if n < r.expected then (0x00, setBar c b.val { r with arrived := n } s)
    else if r.sent then (0x00, setBar c b.val { r with arrived := 0, held := true } s)
    else (0x00, sendArrival p c b s)

/-- BARRIVE (R266, R205). -/
def execBarrive (x : CtxId) (rd rb : Reg) (s : State) : Host.Outcome State Fault Refusal :=
  .next (issueInstr x [.x rd, .x rb] (fun s =>
    if !fenceOk s x .release .m then s
    else
      match owner s x.c with
      | none => retire x (wx x rd 0x03 s)
      | some p =>
        let r := barArrive p x.c (Fin.ofNat 32 (xr s x rb).toNat) s
        retire x (wx x rd (r.1.setWidth 64) r.2)) s)

/-- A release sets out to each of some members (R267, R269). -/
def sendReleases (p : Fin 64) (b : Fin 32) (ms : List Cl) (gen : BitVec 16) (st : Byte) (l : Word) (s : State) : State :=
  ms.foldl (fun s c => sendBar (.release p b c gen st l) s) s

/-- The root of a complete generation decides the launch and releases (R267); a hall barrier's root
sends the module's arrival to the manager instead (R433). -/
def rootDecide (p : Fin 64) (b : Fin 32) (r : BarRoot) (s : State) : State :=
  if r.hall then
    controlOut s.fab.manager 0x6
      (leBytes 1 p.val ++ leBytes 1 b.val ++ leBytes 2 r.generation.toNat ++ leBytes 1 ((ownModule s).getD 0xFF).toNat) s
  else
    let l := localTide s r.root + BitVec.ofNat 64 (16 * r.lead)
    sendReleases p b r.members r.generation 0x00 l (setRoot p b.val (some { r with generation := r.generation + 1, got := [] }) s)

/-- An arrival reaches the root. -/
def rootArrive (p : Fin 64) (b : Fin 32) (c : Cl) (gen : BitVec 16) (s : State) : State :=
  match rootOf s p b.val with
  | none => s
  | some r =>
    if gen ≠ r.generation || !r.members.contains c || r.got.contains c then s
    else
      let r := { r with got := c :: r.got }
      let s := setRoot p b.val (some r) s
      if r.members.all r.got.contains then rootDecide p b r s else s

/-- Removes the barrier packet at a place. -/
def dropPkt (i : Nat) (s : State) : State := { s with sync := { s.sync with pkts := s.sync.pkts.eraseIdx i } }

/-- BARRIER_ARRIVE (R267): the tree is one step here; combining on the way changes no outcome. -/
def execBarrierArrive (i : Nat) (s : State) : Host.Outcome State Fault Refusal :=
  .next (match s.sync.pkts[i]? with
    | some (.arrive p b c gen) => rootArrive p b c gen (dropPkt i s)
    | _ => s)

/-- Launch of a release on the member's local tide: L plus its stagger (R265, R267). -/
def relLaunch (s : State) (c : Cl) (r : BarRec) (l : Word) : Word :=
  l + BitVec.ofNat 64 (if r.stagger then stagger s c * 4000 else 0)

/-- A member takes its release: GENERATION, the release object and a held arrival (R266, R267). -/
def applyRelease (p : Fin 64) (c : Cl) (b : Fin 32) (st : Byte) (late : Bool) (s : State) : State :=
  let r := barOf s c b.val
  let s := if late then
      let g := s.sync.regs.get {} (ck c)
      counterWrap (clAddr 4 c 0xA220) (owner s c) g.lateReleases 1
        { s with sync := { s.sync with regs := s.sync.regs.set {} (ck c) { g with lateReleases := g.lateReleases + 1 } } }
    else s
  let s := setBar c b.val { r with generation := r.generation + 1, lastStatus := st, release := none
                                   arrived := if r.sent then r.arrived else if st = 0x00 then r.arrived else 0
                                   sent := false, held := false } s
  let s := notify c ⟨r.core, r.obj⟩ 1 s
  if r.held then sendArrival p c b s else s

/-- BARRIER_RELEASE (R267, R293, R294): held for its launch, or applied at once if that is past and the arithmetic
clock runs. -/
def execBarrierRelease (i : Nat) (s : State) : Host.Outcome State Fault Refusal :=
  .next (match s.sync.pkts[i]? with
    | some (.release p b c gen st l) =>
      let s := dropPkt i s
      let r := barOf s c b.val
      if !r.valid || gen ≠ r.generation then s
      else
        let short := (localTide s c).setWidth 32
        let full := localTide s c + ((l.setWidth 32 - short).signExtend 64)
        if (localTide s c - relLaunch s c r full).toInt > 0 ∧ arithOn s c = true then applyRelease p c b st true s
        else setBar c b.val { r with release := some (full, st) } s
    | _ => s)

/-- BARRIER_LAUNCH (R267, R294): at L plus stagger, at the first running arithmetic cycle; late where the launch
passed while the clock was stopped. -/
def execBarrierLaunch (c : Cl) (b : Fin 32) (s : State) : Host.Outcome State Fault Refusal :=
  .next (
    let r := barOf s c b.val
    match r.release, owner s c with
    | some (l, st), some p =>
      if arithOn s c then
        applyRelease p c b st (launchMissed s c (relLaunch s c r l)) (waitTide s c (relLaunch s c r l))
      else s
    | _, _ => s)

/-- Releases that a cluster holds and that have launched are taken, and their release objects incremented: what comes
first in a cycle (R294). -/
def releasesDue (c : Cl) (s : State) : State :=
  match owner s c with
  | none => s
  | some p => (List.finRange 32).foldl (fun s b =>
      match (barOf s c b.val).release with
      | some (l, st) =>
        let at_ := relLaunch s c (barOf s c b.val) l
        if 0 < (at_ - localTide s c).toInt then s
        else
          let s := applyRelease p c b st (launchMissed s c at_) s
          noteApply (s.sync.notes.length - 1) (fun _ _ s => s) s
      | none => s) s

/-- WAIT_DEADLINE (R160, R294): lets the local tide reach the deadline; it takes effect while the arithmetic clock
runs, after the releases of that cycle. -/
def execWaitDeadline (x : CtxId) (s : State) : Host.Outcome State Fault Refusal :=
  .next (
    let r := ctxRec s x
    match r.state, r.wait with
    | .waiting, some w =>
      match w.deadline with
      | none => s
      | some d =>
        if !arithOn s x.c then s else
        let t := localTide s x.c
        let s := releasesDue x.c (waitTide s x.c (t + (d - t.setWidth 32).signExtend 64))
        if (ctxRec s x).state != .waiting then s
        else if objCond w.cond (objVal s x.c w.core w.obj) w.value then finishWait x w.rd 0 s
        else if deadlinePast s x.c d then finishWait x w.rd 1 s
        else s
    | _, _ => s)

/-- A forced release of the generation in progress to some members (R269). -/
def forceRelease (p : Fin 64) (b : Fin 32) (st : Byte) (s : State) : State :=
  match rootOf s p b.val with
  | none => s
  | some r =>
    let l := moduleTide s + BitVec.ofNat 64 (16 * r.lead)
    sendReleases p b r.members r.generation st l (setRoot p b.val (some { r with generation := r.generation + 1, got := [] }) s)

/-- A member leaves a barrier; if a remaining one had sent its arrival the generation takes a forced
release, else it goes on over the rest (R269, R378). -/
def dropMember (p : Fin 64) (b : Fin 32) (gone : List Cl) (st : Byte) (s : State) : State :=
  match rootOf s p b.val with
  | none => s
  | some r =>
    if !r.members.any gone.contains then s
    else
      let ms := r.members.filter fun c => !gone.contains c
      let sent : Bool := ms.any fun c => (barOf s c b.val).sent && (barOf s c b.val).generation == r.generation
      let s := { s with sync := { s.sync with pkts := s.sync.pkts.filter fun k => match k with
        | .arrive q d c _ => !(q == p && d == b && gone.contains c)
        | .release q d c _ _ _ => !(q == p && d == b && gone.contains c) } }
      let s := gone.foldl (fun s c => setBar c b.val {} s) s
      let root := if gone.contains r.root then ms.headD r.root else r.root
      let s := setRoot p b.val (some { r with members := ms, root := root, got := r.got.filter fun c => !gone.contains c }) s
      if sent then forceRelease p b st s else s

end Sys2Proof.Machine
end

