-- ==== Sys2Proof/Machine/Channels.lean ====
section
/-! DEFINITION. Channel endpoints and basins (spec/10_sync_and_channels.md R270-R284). -/

namespace Sys2Proof.Machine

open Sys2Proof

/-! ### Endpoints (R270, R271) -/

def epKey (c : Cl) (e : Nat) : Nat := ck c * 256 + e
def epOf (s : State) (c : Cl) (e : Nat) : EpRec := s.sync.eps.get {} (epKey c e)
def setEp (c : Cl) (e : Nat) (r : EpRec) (s : State) : State :=
  { s with sync := { s.sync with eps := s.sync.eps.set {} (epKey c e) r } }

/-- Address of an endpoint's window, with the landing offset (R270). -/
def epAddr (c : Cl) (e off : Nat) : Word := clAddr 6 c (e * 4096 + off)

/-- Endpoint and landing offset of a space 0x6 address (R270). -/
def addrEp (a : Word) : Nat := fld a.toNat 12 8
def addrLand (a : Word) : Nat := fld a.toNat 0 12

def syncRegs (s : State) (c : Cl) : SyncRegs := s.sync.regs.get {} (ck c)
def setSyncRegs (c : Cl) (r : SyncRegs) (s : State) : State :=
  { s with sync := { s.sync with regs := s.sync.regs.set {} (ck c) r } }

/-- WINDOW_ERRORS and DUPLICATES count (R63, R274). -/
def countWindow (c : Cl) (s : State) : State :=
  let r := syncRegs s c
  counterWrap (clAddr 4 c 0xA218) (owner s c) r.windowErrors 1 (setSyncRegs c { r with windowErrors := r.windowErrors + 1 } s)
def countDup (c : Cl) (s : State) : State :=
  let r := syncRegs s c
  counterWrap (clAddr 4 c 0xA210) (owner s c) r.duplicates 1 (setSyncRegs c { r with duplicates := r.duplicates + 1 } s)

/-- The endpoint holds a queue area: every state but CLOSED, contributors apart (R271). -/
def ownsQueue (e : EpRec) : Bool := e.state != .closed && !e.contributor

/-- The queue area overlaps that of another endpoint of the cluster (R271). -/
def queueClash (s : State) (c : Cl) (e q : Nat) : Bool :=
  (List.range 256).any fun i => i != e && ownsQueue (epOf s c i) && (epOf s c i).queue == q

/-- The checks on xe that both CHACCEPT and CHOPEN make, in order (R271). -/
def epWordCheck (s : State) (c : Cl) (w : Nat) (bad : Bool) : Byte :=
  let q := fld w 8 14 * 256
  if fld w 34 30 ≠ 0 || 24 ≤ fld w 23 5 || bad then 0x03
  else if (epOf s c (fld w 0 8)).state ≠ .closed then 0x04
  else if q % 4096 ≠ 0 || queueClash s c (fld w 0 8) q then 0x03
  else 0x00

def epNote (w : Nat) : Option NoteRef := noteOf (bit w 33) (fld w 23 5) (fld w 28 5)

/-- The identity of a basin's operation in its format, as a chunk (R281). -/
def basinIdentity (fmt : Nat) (mx : Bool) : List Byte :=
  let w := fmtBits fmt
  let code := match mx, elemFmt fmt with
    | true, some (.int n) => 2 ^ (n - 1)
    | true, some f => f.infOf false true
    | _, _ => 0
  leBytes 32 (pack w (List.replicate (256 / w) code))

/-- Fills every chunk of a basin with the identity; errors there clear (R281, R199). -/
def fillBasin (c : Cl) (q : Nat) (b : Basin) (s : State) : State :=
  let k := sramBase 1 c + q
  { s with mem := { s.mem with
    sram := writeBytes s.mem.sram k ((List.range 128).flatMap fun _ => basinIdentity b.format.toNat b.max)
    sramErr := s.mem.sramErr.filter fun e => e.1 < k / 8 || k / 8 + 512 ≤ e.1 } }

/-- CHACCEPT (R271, R281). -/
def execChaccept (x : CtxId) (rd re rs : Reg) (s : State) : Host.Outcome State Fault Refusal :=
  .next (issueInstr x [.x rd, .x re, .x rs] (fun s =>
    let w := (xr s x re).toNat
    let v := (xr s x rs).toNat
    let fmt := fld v 1 5
    let basin := bit v 0
    let bad : Bool := if basin then !(fmt == 0x08 || fmt == 0x06 || fmt == 0x07 || fmt == 0x0D) || fld v 8 8 == 0
        || 128 < fld v 8 8 || fld v 48 16 != 0
      else v != 0
    let st := epWordCheck s x.c w bad
    let e := fld w 0 8
    if st ≠ 0x00 then retire x (wx x rd (st.setWidth 64) s)
    else
      let q := fld w 8 14 * 256
      let r : EpRec := { state := .listening, split := bit w 22, queue := q, note := epNote w, cmdStatus := (epOf s x.c e).cmdStatus }
      if basin then
        let b : Basin := ⟨BitVec.ofNat 5 fmt, bit v 6, bit v 7, fld v 8 8, BitVec.ofNat 32 (fld v 16 32), 0, false⟩
        let s := setEp x.c e { r with state := .basin, basin := some b, gen := s.sync.nextGen } s
        let s := { s with sync := { s.sync with nextGen := s.sync.nextGen + 1 } }
        retire x (wx x rd 0 (fillBasin x.c q b s))
      else retire x (wx x rd 0 (setEp x.c e r s))) s)

/-- CHOPEN (R271): the endpoint reserves its area and OPEN sets out. What the OPEN packet carries is
not stated; here it holds xe's fields and the opener's address. -/
def execChopen (x : CtxId) (rd re ra : Reg) (s : State) : Host.Outcome State Fault Refusal :=
  .next (issueInstr x [.x rd, .x re, .x ra] (fun s =>
    let w := (xr s x re).toNat
    let a := xr s x ra
    let e := fld w 0 8
    let st := epWordCheck s x.c w (addrSpace a != 6 || !layoutOk a || addrLand a != 0)
    if st ≠ 0x00 then retire x (wx x rd (st.setWidth 64) s)
    else
      let r : EpRec := { state := .opening, split := bit w 22, queue := fld w 8 14 * 256, note := epNote w, peer := a
                         conn := s.net.nextId, cmdStatus := (epOf s x.c e).cmdStatus }
      let me := if farAddr s a then ((ownModule s).getD 0xFF ++ (epAddr x.c e 0).setWidth 56 : BitVec 64) else epAddr x.c e 0
      let data := leBytes 4 (fld w 0 23) ++ leBytes 8 me.toNat
      retire x (issueReq (.core x) (owner s x.c) (.object 9) a 4 data 0 false false x.c (.chOpen (Fin.ofNat 256 e) rd)
        (setEp x.c e r s))) s)

/-- Full credits of a mode: request (or only) and reply class (R272). -/
def fullCredits (split : Bool) : Nat × Nat := if split then (64, 64) else (128, 0)

/-- Checked mode is refused between a requester and an endpoint's cluster (R272). -/
def checkedRefused (s : State) (x : Xact) (c : Cl) : Bool :=
  match x.who with
  | .remote _ _ _ _ => true
  | _ => noChecked s x.src c

/-- OPEN_ARRIVE (R271, R272). -/
def execOpenArrive (id : Nat) (s : State) : Host.Outcome State Fault Refusal :=
  .next (atTarget id (isObj 9) (fun x c s =>
    let e := addrEp x.addr
    let r := epOf s c e
    let w := leNat (x.data.take 4)
    let split := bit w 22
    let peer := BitVec.ofNat 64 (leNat ((x.data.drop 4).take 8))
    match r.state with
    | .listening =>
      if split ≠ r.split || (!split && checkedRefused s x c) then answer x 0x04 [] s
      else
        let g := s.sync.nextGen
        let cr := fullCredits split
        let s := setEp c e { r with state := .opened, peer := peer, gen := g, conn := x.id, creditsReq := cr.1, creditsRsp := cr.2 } s
        let s := { s with sync := { s.sync with nextGen := g + 1 } }
        answer x 0x00 (leBytes 4 g.toNat ++ [0, 0, 0]) (notifyOpt c r.note s)
    | .basin =>
      if fld w 8 14 ≠ 0 then answer x 0x03 [] s
      else if !split && checkedRefused s x c then answer x 0x04 [] s
      else match r.basin with
        | some b => answer x 0x00 (leBytes 4 r.gen.toNat ++ [1, b.format.setWidth 8, BitVec.ofNat 8 b.chunks]) s
        | none => answer x 0x04 [] s
    | .closed => answer x 0x0A [] s
    | _ => answer x 0x04 [] s) s)

/-- The answer to an OPEN acts on the endpoint that still waits for it, also where the context that sent it was reset
since; its register is written only where it was not (R183, R271). -/
def openReply (x : Xact) (st : Byte) (d : List Byte) (s : State) : State :=
  match x.who, x.use with
  | .core cx, .chOpen e rd =>
    let r := epOf s cx.c e.val
    let s :=
      if r.state ≠ .opening ∨ r.conn ≠ x.id then s
      else if st ≠ 0x00 then setEp cx.c e.val { cmdStatus := r.cmdStatus } s
      else
        let cr := fullCredits r.split
        let contrib : Bool := (d.getD 4 0) != 0
        setEp cx.c e.val { r with
          state := .opened, gen := BitVec.ofNat 32 (leNat (d.take 4)), contributor := contrib
          creditsReq := if contrib then 8 else cr.1, creditsRsp := if contrib then 0 else cr.2
          format := (d.getD 5 0).setWidth 5, chunks := (d.getD 6 0).toNat } s
    if x.orphaned then s else wx cx rd (st.setWidth 64) s
  | _, _ => s

/-- OPEN_REPLY_ARRIVE (R271). -/
def execOpenReplyArrive (id : Nat) (s : State) : Host.Outcome State Fault Refusal :=
  .next (takeReply id (fun u => match u with | .chOpen _ _ => true | _ => false) openReply s)

/-! ### Sending (R273-R277, R282) -/

/-- The trailer of a message (R273). -/
def trailer (seq : BitVec 16) (e : Nat) (fmt : Nat) (cls : Bool) (gen : BitVec 32) : List Byte :=
  leBytes 8 (seq.toNat + e * 2 ^ 16 + fmt * 2 ^ 24 + b2n cls * 2 ^ 29 + gen.toNat * 2 ^ 32)

/-- What a send finds at its endpoint: refused with a status, or allowed (R275, R282). -/
def sendCheck (r : EpRec) (cls : Bool) (fmt : Nat) (noClass : Bool) : Byte :=
  if (noClass && cls) || (!r.contributor && fmt != 0) then 0x03
  else match r.state with
    | .peerClosed => 0x0A
    | .broken => 0x0A
    | .opened => if r.contributor && fmt != r.format.toNat then 0x0D else 0x00
    | _ => 0x04

/-- A credit of the class is at hand. -/
def hasCredit (r : EpRec) (cls : Bool) : Bool := if cls then r.creditsRsp != 0 else r.creditsReq != 0

/-- Issues the packet of a message: a credit and a sequence number, or a contributor's chunk, are
spent (R274, R275, R282). `row` is an I/O tile's own mark of its row. -/
def sendMsg (who : Requester) (c : Cl) (e : Fin 256) (cls : Bool) (payload : List Byte) (rd : Option Reg) (row : Nat) (s : State) : State :=
  let r := epOf s c e.val
  let seq : BitVec 16 := if r.contributor then 0 else if cls then r.sndRsp else r.sndReq
  let off := if r.contributor then r.cursor * 32
    else (seq.toNat % (if r.split then 64 else 128) + (if cls then 64 else 0)) * 32
  let r' := if r.contributor then { r with cursor := (r.cursor + 1) % max r.chunks 1, creditsReq := r.creditsReq - 1 }
    else if cls then { r with sndRsp := r.sndRsp + 1, creditsRsp := r.creditsRsp - 1 }
    else { r with sndReq := r.sndReq + 1, creditsReq := r.creditsReq - 1 }
  let data := payload ++ trailer seq e.val (if r.contributor then r.format.toNat else 0) cls r.gen
  issueReq who (owner s c) .message (r.peer + BitVec.ofNat 64 off) 40 data (BitVec.ofNat 64 row) false false c (.send e cls seq rd r.conn) (setEp c e.val r' s)

/-- CHSEND (R275, R161, R205). -/
def execChsend (x : CtxId) (rd vs re : Reg) (s : State) : Host.Outcome State Fault Refusal :=
  .next (issueInstr x [.x rd, .v vs, .x re] (fun s =>
    let w := (xr s x re).toNat
    let e : Fin 256 := Fin.ofNat 256 (fld w 0 8)
    let cls := bit w 8
    let r := epOf s x.c e.val
    let st := if fld w 14 50 ≠ 0 then 0x03 else sendCheck r cls (fld w 9 5) (!r.split || r.contributor)
    if st ≠ 0x00 then retire x (wx x rd (st.setWidth 64) s)
    else if !impliedRelease s x r.peer then s
    else if hasCredit r cls then retire x (sendMsg (.core x) x.c e cls (leBytes 32 (vr s x vs).toNat) (some rd) 0 s)
    else
      let s := setEp x.c e.val { r with waiting := r.waiting ++ [.ctx x] } s
      updCtx x (fun k => { endedRa k with
        state := .waiting, waitKind := 2, waitTarget := BitVec.ofNat 10 e.val + (if cls then 256 else 0)
        waitFrom := s.t.now, held := some (.send e (vr s x vs) rd) }) s) s)
where
  /-- run-ahead does not go on in a waiting context (R173) -/
  endedRa (k : CtxRec) : CtxRec := { k with runahead := false, shadow := none, raLoad := none }

/-- The send of a waiting context ends with a status (R275). -/
def endHeldSend (x : CtxId) (rd : Reg) (st : Byte) (s : State) : State :=
  retire x (wx x rd (st.setWidth 64) (updCtx x (fun r => { r with state := .ready }) (endWait x s)))

/-- Every unit waiting for a credit of an endpoint whose state left OPEN completes with CLOSED (R275,
R279). -/
def wakeClosed (c : Cl) (e : Nat) (s : State) : State :=
  let r := epOf s c e
  let s := setEp c e { r with waiting := [] } s
  r.waiting.foldl (fun s w =>
    let s := { s with sync := { s.sync with reported := s.sync.reported.filter (· != w) } }
    match w with
    | .ctx x => match (ctxRec s x).held with
      | some (.send _ _ rd) => endHeldSend x rd 0x0A s
      | _ => s
    | .io c i =>
      let t : TileId := ⟨c, Fin.ofNat 32 (8 * (i.val + 1))⟩
      let k := ioOf s t
      let s := setIo t { k with creditWait := none, lastStatus := if k.lastStatus = 0x00 then 0x0A else k.lastStatus } s
      stallArr c 3 1 (tileUnit t) s) s

/-- An OPEN endpoint leaves that state; its waiters end. -/
def leaveOpen (c : Cl) (e : Nat) (st : EpState) (s : State) : State :=
  wakeClosed c e (setEp c e { epOf s c e with state := st } s)

/-- Sends the messages that wait at an endpoint while credits last (R161, R276). The class of a
waiting context's send is its WAIT_TARGET's. A token of an I/O tile stays while its array is frozen or its clock stopped (R67, R92); its
sending is a token's move (R91). -/
def sendWaiting (c : Cl) (e : Fin 256) : Nat → State → State
  | 0, s => s
  | k + 1, s =>
    let r := epOf s c e.val
    let ready (w : Waiter) : Bool := match w with
      | .ctx x => hasCredit r ((ctxRec s x).waitTarget.toNat / 256 % 2 == 1)
      | .io d _ => hasCredit r false && arrRuns s d
    match r.waiting.find? ready with
    | none => s
    | some w =>
      let s := setEp c e.val { r with waiting := r.waiting.erase w } s
      let s := { s with sync := { s.sync with reported := s.sync.reported.filter (· != w) } }
      let s := match w with
        | .ctx x => match (ctxRec s x).held with
          | some (.send ep payload rd) =>
            if ep ≠ e then s else
            let cls := (ctxRec s x).waitTarget.toNat / 256 % 2 == 1
            let s := updCtx x (fun r => { r with state := .ready }) (endWait x s)
            retire x (sendMsg (.core x) x.c e cls (leBytes 32 payload.toNat) (some rd) 0 s)
          | _ => s
        | .io c i =>
          let t : TileId := ⟨c, Fin.ofNat 32 (8 * (i.val + 1))⟩
          match (ioOf s t).creditWait with
          | some tok =>
            let k := ioOf s t
            touch c (sendMsg (.io c i) c e false (leBytes 32 tok.payload.toNat) none (k.outstanding.getLastD 0)
              (setIo t { k with creditWait := none } s))
          | none => s
      sendWaiting c e k s

/-! ### At the receiver (R273, R274) -/

/-- The sender of a message is the endpoint's peer: same cluster and endpoint, for a remote sender the
module and endpoint that can be seen (R274 check 1). -/
def isPeer (r : EpRec) (x : Xact) (srcEp : Nat) : Bool :=
  match x.who with
  | .remote mod _ _ _ => addrModule r.peer == mod && addrEp r.peer == srcEp
  | _ => addrCl r.peer == some x.src && addrEp r.peer == srcEp

/-- Lands a message in its slot. -/
def land (c : Cl) (e slot : Nat) (seq : BitVec 16) (d : List Byte) (s : State) : State :=
  let r := epOf s c e
  let k := sramBase 1 c + r.queue + 32 * slot
  let s := { s with mem := { s.mem with
    sram := writeBytes s.mem.sram k d
    sramErr := s.mem.sramErr.filter fun e => e.1 < k / 8 || k / 8 + 4 ≤ e.1 } }
  notifyOpt c r.note (setEp c e { r with slots := r.slots.set none slot (some seq) } s)

/-- The endpoint is connected. -/
def connected (r : EpRec) : Bool := r.state == .opened || r.state == .peerClosed || r.state == .broken

/-- MESSAGE_ARRIVE (R274). A contributor's peer is a basin, which sends nothing; a contributor owns no queue, so that
a message that passed as its peer's would find no connection. -/
def execMessageArrive (id : Nat) (s : State) : Host.Outcome State Fault Refusal :=
  .next (atTarget id (fun x => x.kind == .message && (match addrCl x.addr with
      | some c => (epOf s c (addrEp x.addr)).state != .basin
      | none => true)) (fun x c s =>
    let e := addrEp x.addr
    let r := epOf s c e
    let tr := leNat ((x.data.drop 32).take 8)
    let seq : BitVec 16 := BitVec.ofNat 16 (fld tr 0 16)
    let cls := bit tr 29
    let q := if r.split then 64 else 128
    let slot := seq.toNat % q + (if cls then 64 else 0)
    let rcv := if cls then r.rcvRsp else r.rcvReq
    let d := (seq - rcv).toNat
    let back := (rcv - seq).toNat
    if !connected r then answer x 0x0A [] s
    else if !isPeer r x (fld tr 16 8) then answer x 0x04 [] s
    else if BitVec.ofNat 32 (fld tr 32 32) ≠ r.gen || r.contributor then answer x 0x0A [] s
    else if addrLand x.addr ≠ slot * 32 then answer x 0x03 [] (countWindow c s)
    else if d < q ∧ r.slots.get none slot = none then answer x 0x00 [] (land c e slot seq (x.data.take 32) s)
    else if (d < q ∧ r.slots.get none slot = some seq) ∨ (1 ≤ back ∧ back ≤ 4096) then answer x 0x00 [] (countDup c s)
    else answer x 0x03 [] (countWindow c s)) s)

/-- The status of a completed send goes to its register, or to its I/O tile (R275, R129). -/
def sendDone (x : Xact) (rd : Option Reg) (st : Byte) (ioDone : TileId → Nat → Byte → State → State) (s : State) : State :=
  match x.who, rd with
  | .core cx, some rd => if x.orphaned then s else wx cx rd (st.setWidth 64) s
  | .io c i, _ => if x.orphaned then s else ioDone ⟨c, Fin.ofNat 32 (8 * (i.val + 1))⟩ x.operand.toNat st s
  | _, _ => s

/-- The credit of a message that was not delivered returns. -/
def creditBack (c : Cl) (e : Nat) (cls : Bool) (s : State) : State :=
  let r := epOf s c e
  setEp c e (if cls then { r with creditsRsp := r.creditsRsp + 1 } else { r with creditsReq := r.creditsReq + 1 }) s

/-- Cluster of a requester that sends messages. -/
def senderCl : Requester → Option Cl
  | .core x => some x.c
  | .io c _ => some c
  | _ => none

/-- A send's reply (R275, R277, R284): it acts on the endpoint while that still holds the connection the message was
sent on, whatever became of the sending context. -/
def messageReply (ioDone : TileId → Nat → Byte → State → State) (x : Xact) (st : Byte) (_d : List Byte) (s : State) : State :=
  match x.use, senderCl x.who with
  | .send ep cls seq rd conn, some c =>
    let e := ep.val
    let r := epOf s c e
    let fin (s : State) : State := sendDone x rd st ioDone s
    let mine : Bool := connected r && r.conn == conn
    if !mine then fin s
    else if st = 0x00 then
      fin (if r.contributor then sendWaiting c ep 256 (creditBack c e cls s) else s)
    else if st = 0x0A ∨ st = 0x05 then fin (leaveOpen c e .peerClosed (creditBack c e cls s))
    else if st = 0x06 then
      if r.contributor then fin (sendWaiting c ep 256 (creditBack c e cls s))
      else if x.again then fin (leaveOpen c e .broken s)
      else
        let s := issueReq x.who x.part .message x.addr 40 x.data x.operand false false c (.send ep cls seq rd conn) s
        { s with net := { s.net with xacts := s.net.xacts.map fun y =>
          if y.id + 1 = s.net.nextId then { y with again := true, orphaned := x.orphaned } else y } }
    else fin (leaveOpen c e .broken s)
  | _, _ => s

/-! ### Receiving (R276) -/

/-- Frees the next slot of a class: RECV_NEXT moves on and the free is to be returned. -/
def freeSlot (c : Cl) (e : Nat) (cls : Bool) (s : State) : State :=
  let r := epOf s c e
  let q := if r.split then 64 else 128
  let rcv := if cls then r.rcvRsp else r.rcvReq
  let slot := rcv.toNat % q + (if cls then 64 else 0)
  let r := { r with slots := r.slots.set none slot none, freedAt := some (r.freedAt.getD s.t.now) }
  setEp c e (if cls then { r with rcvRsp := r.rcvRsp + 1, freedRsp := r.freedRsp + 1 }
             else { r with rcvReq := r.rcvReq + 1, freedReq := r.freedReq + 1 }) s

/-- The slot `i` places after RECV_NEXT holds a message. -/
def slotHeld (r : EpRec) (cls : Bool) (i : Nat) : Bool :=
  let q := if r.split then 64 else 128
  let rcv := if cls then r.rcvRsp else r.rcvReq
  decide (i < q) && (r.slots.get none ((rcv.toNat + i) % q + (if cls then 64 else 0))).isSome

/-- CHRECV (R276, R205): an ACQUIRE. An endpoint whose MODE reads 0 counts as a checked-mode one (DEDUCED: log entry
142). -/
def execChrecv (x : CtxId) (rd vd re : Reg) (s : State) : Host.Outcome State Fault Refusal :=
  .next (issueInstr x [.x rd, .v vd, .x re] (fun s =>
    let w := (xr s x re).toNat
    let e := fld w 0 8
    let cls := bit w 8
    let r := epOf s x.c e
    let done (st : Byte) (s : State) : State := retire x (wx x rd (st.setWidth 64) s)
    if !fenceOk s x .acquire .g then s
    else
      let s := dropEntries x s
      if fld w 9 55 ≠ 0 || (cls && !r.split) then done 0x03 s
      else if r.contributor then done 0x04 s
      else if connected r then
        if slotHeld r cls 0 then
          let q := if r.split then 64 else 128
          let rcv := if cls then r.rcvRsp else r.rcvReq
          let slot := rcv.toNat % q + (if cls then 64 else 0)
          let m := sramRead (clAddr 1 x.c (r.queue + 32 * slot)) 32 false (coreUnit x.c x.k.val) s
          if m.1 ≠ 0x00 then done m.1 m.2.2
          else done 0x00 (freeSlot x.c e cls (wv x vd (BitVec.ofNat 256 (leNat m.2.1)) m.2.2))
        else if r.state = .opened then done 0x01 s
        else done 0x0A s
      else done 0x04 s) s)

/-- An EP_CMD write with CMD forced to the row's command (R285). -/
def epCmd (who : Requester) (c : Cl) (e : Fin 256) (v : Word) (f : Nat → EpRec → State → Byte × State) (s : State) : State :=
  let st := regPerm s who c
  if st ≠ 0x00 then reply st s
  else
    let n := v.toNat
    let r : Byte × State := if fld n 4 4 ≠ 0 ∨ fld n 16 48 ≠ 0 then (0x03, s) else f n (epOf s c e.val) s
    reply 0x00 (setEp c e.val { epOf r.2 c e.val with cmdStatus := r.1 } r.2)

/-- CONSUME (R276). -/
def execConsume (who : Requester) (c : Cl) (e : Fin 256) (v : Word) (s : State) : Host.Outcome State Fault Refusal :=
  .next (epCmd who c e v (fun n r s =>
    let cls := bit n 3
    let k := fld n 8 8
    if k = 0 || (cls && !r.split) then (0x03, s)
    else if r.contributor || !connected r then (0x04, s)
    else if !(List.range k).all (slotHeld r cls) then (0x04, s)
    else (0x00, (List.range k).foldl (fun s _ => freeSlot c e.val cls s) s)) s)

/-- CREDIT_PACKET_SEND (R276): within 32 ns of the earliest free, with every free since; a peer that has closed is
sent none. -/
def execCreditPacketSend (c : Cl) (e : Fin 256) (s : State) : Host.Outcome State Fault Refusal :=
  .next (
    let r := epOf s c e.val
    if r.freedReq + r.freedRsp = 0 then s
    else
      let data := leBytes 4 (r.freedReq + r.freedRsp * 2 ^ 16)
      let s := setEp c e.val { r with freedReq := 0, freedRsp := 0, freedAt := none } s
      if r.state = .opened ∨ r.state = .broken then
        issueReq (.config c) (owner s c) (.object 8) r.peer 4 data 0 false false c (.credit e) s
      else s)

/-- CREDIT_ARRIVE (R276): credits return and waiting sends go. -/
def execCreditArrive (id : Nat) (s : State) : Host.Outcome State Fault Refusal :=
  .next (atTarget id (isObj 8) (fun x c s =>
    let e : Fin 256 := Fin.ofNat 256 (addrEp x.addr)
    let r := epOf s c e.val
    let n := leNat (x.data.take 4)
    if connected r && !r.contributor then
      let cap := fullCredits r.split
      let s := setEp c e.val { r with creditsReq := min cap.1 (r.creditsReq + fld n 0 16)
                                      creditsRsp := min cap.2 (r.creditsRsp + fld n 16 16) } s
      answer x 0x00 (leBytes 4 0) (sendWaiting c e 512 s)
    else answer x 0x00 (leBytes 4 0) s) s)

/-! ### Closing (R278, R279) -/

/-- Closes an endpoint: its queue is dropped, waiters end with CLOSED, and a connected peer is told. -/
def closeEp (c : Cl) (e : Fin 256) (s : State) : State :=
  let r := epOf s c e.val
  if r.state = .closed then s
  else
    let s := wakeClosed c e.val s
    let s := if connected r then
        issueReq (.config c) (owner s c) (.object 0xA) r.peer 4 (leBytes 4 0) 0 false false c (.close e) s
      else s
    setEp c e.val { cmdStatus := r.cmdStatus } s

/-- CHCLOSE (R278). -/
def execChclose (x : CtxId) (rd re : Reg) (s : State) : Host.Outcome State Fault Refusal :=
  .next (issueInstr x [.x rd, .x re] (fun s =>
    let w := (xr s x re).toNat
    if fld w 8 56 ≠ 0 then retire x (wx x rd 0x03 s)
    else retire x (wx x rd 0 (closeEp x.c (Fin.ofNat 256 w) s))) s)

/-- CLOSE_ARRIVE (R278). -/
def execCloseArrive (id : Nat) (s : State) : Host.Outcome State Fault Refusal :=
  .next (atTarget id (isObj 0xA) (fun x c s =>
    let e := addrEp x.addr
    let r := epOf s c e
    if r.state = .opened then answer x 0x00 (leBytes 4 0) (notifyOpt c r.note (leaveOpen c e .peerClosed s))
    else answer x 0x00 (leBytes 4 0) s) s)

/-- A checked channel has an end in an island that fell back, or a path across it (R279). -/
def crossesFallen (s : State) (c : Cl) (r : EpRec) : Bool :=
  r.state == .opened && !r.split &&
    match addrCl r.peer with
    | some d => noChecked s c d || inIsland s c
    | none => false

/-- CHECKED_CHANNEL_BREAK (R279): at both ends. -/
def execCheckedChannelBreak (s : State) : Host.Outcome State Fault Refusal :=
  .next (
    if s.sync.fallen.isEmpty then s
    else
      let hit := s.sync.eps.filterMap fun e =>
        match clOfKey (e.1 / 256) with
        | some c => if crossesFallen s c e.2 then some (c, e.1 % 256) else none
        | none => none
      let s := hit.foldl (fun s e => leaveOpen e.1 e.2 .broken s) s
      { s with sync := { s.sync with fallen := [] } })

/-- SET_CURSOR (R285). -/
def execSetCursor (who : Requester) (c : Cl) (e : Fin 256) (v : Word) (s : State) : Host.Outcome State Fault Refusal :=
  .next (epCmd who c e v (fun n r s =>
    if !(r.contributor && connected r) then (0x04, s)
    else if r.chunks ≤ fld n 8 8 then (0x03, s)
    else (0x00, setEp c e.val { r with cursor := fld n 8 8 } s)) s)

/-! ### Basins (R281-R284) -/

def combinerOf (s : State) (c : Cl) : List Contribution := s.sync.combiner.get [] (ck c)
def setCombiner (c : Cl) (l : List Contribution) (s : State) : State :=
  { s with sync := { s.sync with combiner := s.sync.combiner.set [] (ck c) l } }

/-- BASIN_CONTRIBUTION (R282, R283): held in the mesh while 64 wait. -/
def execBasinContribution (id : Nat) (s : State) : Host.Outcome State Fault Refusal :=
  .next (atTarget id (fun x => x.kind == .message) (fun x c s =>
    let e : Fin 256 := Fin.ofNat 256 (addrEp x.addr)
    let r := epOf s c e.val
    let tr := leNat ((x.data.drop 32).take 8)
    match r.basin with
    | none => s
    | some b =>
      if BitVec.ofNat 32 (fld tr 32 32) ≠ r.gen then answer x 0x0A [] s
      else if fld tr 24 5 ≠ b.format.toNat then answer x 0x0D [] s
      else if b.chunks ≤ addrLand x.addr / 32 then answer x 0x03 [] (countWindow c s)
      else if 64 ≤ (combinerOf s c).length then s
      else answer x 0x00 [] (setCombiner c (combinerOf s c ++ [⟨e, addrLand x.addr / 32, x.data.take 32, r.gen⟩]) s)) s)

/-- One combined element (R283). -/
def combineElem (b : Basin) (f : EFmt) (x y : Nat) : Num :=
  let a := f.decode x
  let v := f.decode y
  if b.max then (minmaxV true a v).finish f else (addV a v).finish f b.sat

/-- BASIN_COMBINE (R283, R284). -/
def execBasinCombine (c : Cl) (s : State) : Host.Outcome State Fault Refusal :=
  .next (match combinerOf s c with
    | [] => s
    | k :: rest =>
      if !arithOn s c then s
      else
        let s := setCombiner c rest s
        let r := epOf s c k.ep.val
        match r.basin, elemFmt ((r.basin.map (·.format.toNat)).getD 0) with
        | some b, some f =>
          if r.gen ≠ k.gen then s
          else
            let a := clAddr 1 c (r.queue + 32 * k.chunk)
            let m := sramRead a 32 false (clUnit c) s
            let w := f.bits
            let n := 256 / w
            let olds := unpack (leNat m.2.1) w n
            let adds := unpack (leNat k.data) w n
            let outs := (List.range n).map fun i => combineElem b f (olds.getD i 0) (adds.getD i 0)
            let s := m.2.2
            let s := if m.1 ≠ 0x00 then s else (sramWrite a (leBytes 32 (pack w (outs.map (·.code)))) (clUnit c) s).2
            let nans := outs.filter fun o => o.cause != 0
            let s := match nans with
              | o :: _ => reportNan c (.basin c) (clUnit c) 4 b.format.toNat o.cause (BitVec.ofNat 64 k.ep.val) nans.length s
              | [] => s
            let s := reportOvf c (clUnit c) (outs.countP (·.ovf)) s
            let count := b.count + 1
            let hit : Bool := b.target != 0 && count == b.target
            let s := setEp c k.ep.val { epOf s c k.ep.val with basin := some { b with count := count, done := b.done || hit } } s
            if hit then notifyOpt c r.note s else s
        | _, _ => s)

/-- BASIN_CLEAR (R284, R285). -/
def execBasinClear (who : Requester) (c : Cl) (e : Fin 256) (v : Word) (s : State) : Host.Outcome State Fault Refusal :=
  .next (epCmd who c e v (fun _ r s =>
    match r.state, r.basin with
      | .basin, some b =>
        let b := { b with count := 0, done := false }
        (0x00, fillBasin c r.queue b (setEp c e.val { r with basin := some b } s))
      | _, _ => (0x04, s)) s)

end Sys2Proof.Machine
end

