-- ==== Sys2Proof/Machine/Numerics.lean ====
section
/-! DEFINITION. The partition numerics block: NaN, overflow and underflow reports, and regions
(spec/02_number_formats.md R58-R63, 05_training_numerics.md R134-R152). -/

namespace Sys2Proof.Machine

open Sys2Proof

/-- Bits [63:0] of a NaN record (R59). -/
def nanWord (r : NanRecord) : Nat :=
  put r.unit.toNat 0 32 + put r.source.toNat 32 4 + put r.format.toNat 36 5 + put r.cause.toNat 41 4 +
  put (b2n r.trapped) 45 1 + put (b2n r.valid) 63 1

/-- Some tile of the array still runs the context, by slot and epoch tag, that a report of a tile names (R59). -/
def madeByActive (r : NanReport) (s : State) (c : Cl) : Bool :=
  (allTiles c).any fun t =>
    let k := tileOf s t
    k.on && k.slot.val == fld r.location.toNat 16 2 && k.epoch.toNat == fld r.location.toNat 18 2

/-- The unit that wrote the record takes the NaN trap; answers whether it did: a context that is IDLE or has
stopped with another trap, and an array that has left the context, take none (R61, R171; DEDUCED: log entry 26). -/
def nanTraps (r : NanReport) (s : State) : Bool × State :=
  match r.who with
  | .ctx x =>
    let k := ctxRec s x
    if k.state = .idle ∨ (k.state = .stopped ∧ k.trapped) then (false, s)
    else (true, takeTrap x 0x06 0x00 r.format (r.location.setWidth 48) 0 k.pc s)
  | .tile t => if arrLive s t.c && madeByActive r s t.c then (true, freezeArr t.c 2 s) else (false, s)
  | .basin _ => (false, s)

/-- NAN_REPORT_ARRIVE (R60-R62). -/
def execNanReportArrive (i : Nat) (s : State) : Host.Outcome State Fault Refusal :=
  .next (match s.num.nans[i]? with
    | none => s
    | some r =>
      let s := { s with num := { s.num with nans := s.num.nans.eraseIdx i } }
      if (partOf s r.part).isNone then s
      else
        let old := (numBlock s r.part).nanCount
        let b := numBlock s r.part
        let s := counterWrap (numAddr 0x20) (some r.part) old r.n
          (setNum r.part { b with nanCount := b.nanCount + BitVec.ofNat 64 r.n } s)
        if b.nan.valid then s
        else
          let t := if b.nanTrap then nanTraps r s else (false, s)
          let rec_ : NanRecord := ⟨r.unit, r.source, r.format, r.cause, t.1, true, r.location, r.tide⟩
          let s := setNum r.part { numBlock t.2 r.part with nan := rec_ } t.2
          postEvent .nanTrap r.unit (some r.part) r.tide (leBytes 4 (nanWord rec_ / 2 ^ 32) ++ leBytes 8 r.location.toNat) s)

/-- Adds to a 32-bit count that stops at its top. -/
def addStop (w a n : Nat) : Nat := min (a + n) (2 ^ w - 1)

/-- Counts an overflow report in its slot, or as late (R145, R148 EARLY). -/
def countSlot (p : Fin 64) (r : CountReport) (s : State) : State :=
  if 16 ≤ r.region.toNat then s
  else
    let i := Fin.ofNat 16 r.region.toNat
    let b := numBlock s p
    let g := b.slots[i]
    if g.state = .opened ∨ g.state = .closing then
      let first : Bool := g.overflows == 0
      let g' := { g with overflows := BitVec.ofNat 32 (addStop 32 g.overflows.toNat r.n)
                         firstUnit := if first then r.unit else g.firstUnit }
      let s := setNum p { b with slots := vset b.slots i g' } s
      match g.early with
      | some (c, n) => if first ∧ g.state = .opened then notify c n 1 s else s
      | none => s
    else
      counterWrap (numAddr 0x40) (some p) b.lateReports r.n
        (setNum p { b with lateReports := b.lateReports + BitVec.ofNat 64 r.n } s)

/-- Overflow report `i` reaches its partition (R143, R145). -/
def overflowArrive (i : Nat) (s : State) : State :=
  match s.num.overflows[i]? with
  | none => s
  | some r =>
    let s := { s with num := { s.num with overflows := s.num.overflows.eraseIdx i } }
    if (partOf s r.part).isNone then s
    else
      let b := numBlock s r.part
      countSlot r.part r (counterWrap (numAddr 0x38) (some r.part) b.overflowCount r.n
        (setNum r.part { b with overflowCount := b.overflowCount + BitVec.ofNat 64 r.n } s))

/-- OVERFLOW_REPORT_ARRIVE (R143, R145). -/
def execOverflowReportArrive (i : Nat) (s : State) : Host.Outcome State Fault Refusal := .next (overflowArrive i s)

/-- BLOCK_UNDERFLOW_HIGH for the steps a count crosses, at most one event in 1 ms (R146). Its unit is that of the last
report that crossed a step. -/
def underflowHigh (p : Fin 64) (unit : BitVec 32) (old new : Word) (s : State) : State :=
  let b := numBlock s p
  let step := b.underflowStep.toNat
  if step = 0 then s
  else
    let crossed := new.toNat / step - old.toNat / step
    let n := b.crossings + crossed
    let unit := if crossed = 0 then b.highUnit else unit
    let soon := match b.highAt with | some a => decide (s.t.now < a + usec 1000) | none => false
    if n = 0 then s
    else if soon then setNum p { b with crossings := n, highUnit := unit } s
    else
      postEvent .blockUnderflowHigh unit (some p) (moduleTide s) (leBytes 8 new.toNat ++ leBytes 4 n)
        (setNum p { b with crossings := 0, highAt := some s.t.now } s)

/-- Posts the crossings merged within 1 ms, once it has passed (R146). -/
def postHeldUnderflow (p : Fin 64) (s : State) : State :=
  let b := numBlock s p
  if b.crossings = 0 then s else underflowHigh p b.highUnit b.blockUnderflow b.blockUnderflow s

/-- Underflow report `i` reaches its partition (R145, R146). -/
def underflowArrive (i : Nat) (s : State) : State :=
  match s.num.underflows[i]? with
  | none => s
  | some r =>
    let s := { s with num := { s.num with underflows := s.num.underflows.eraseIdx i } }
    if (partOf s r.part).isNone then s
    else
      let b := numBlock s r.part
      let new := b.blockUnderflow + BitVec.ofNat 64 r.n
      let s := counterWrap (numAddr 0x30) (some r.part) b.blockUnderflow r.n (setNum r.part { b with blockUnderflow := new } s)
      let s := underflowHigh r.part r.unit b.blockUnderflow new s
      if 16 ≤ r.region.toNat then s
      else
        let i := Fin.ofNat 16 r.region.toNat
        let b := numBlock s r.part
        let g := b.slots[i]
        if g.state = .opened ∨ g.state = .closing then
          setNum r.part { b with slots := vset b.slots i { g with underflows := BitVec.ofNat 48 (addStop 48 g.underflows.toNat r.n) } } s
        else s

/-- UNDERFLOW_REPORT_ARRIVE (R145, R146). -/
def execUnderflowReportArrive (i : Nat) (s : State) : Host.Outcome State Fault Refusal := .next (underflowArrive i s)

/-- Overflow reports made 2 µs ago or more have arrived (R145). -/
def overflowsDue : Nat → State → State
  | 0, s => s
  | k + 1, s =>
    match s.num.overflows.findIdx? fun r => decide (r.made + usec 2 ≤ s.t.now) with
    | some i => overflowsDue k (overflowArrive i s)
    | none => s

/-- Underflow reports made 2 µs ago or more have arrived (R145). -/
def underflowsDue : Nat → State → State
  | 0, s => s
  | k + 1, s =>
    match s.num.underflows.findIdx? fun r => decide (r.made + usec 2 ≤ s.t.now) with
    | some i => underflowsDue k (underflowArrive i s)
    | none => s

/-- Every report made 2 µs ago or more has reached its numerics block (R145): before time goes on, before a region command
acts, and before the block is read. -/
def reportsDue (s : State) : State := underflowsDue s.num.underflows.length (overflowsDue s.num.overflows.length s)

/-! ### Region slots (R148-R150) -/

/-- Ladder successor of a format, 0 for none (R149). -/
def ladder (f : Nat) : Nat :=
  if f = 0x01 ∨ f = 0x10 ∨ f = 0x18 then 0x19
  else if f = 0x02 ∨ f = 0x03 ∨ f = 0x11 ∨ f = 0x12 ∨ f = 0x19 then 0x13
  else if f = 0x04 ∨ f = 0x13 ∨ f = 0x15 then 0x14
  else if f = 0x05 ∨ f = 0x14 ∨ f = 0x06 then 0x07
  else if f = 0x07 then 0x08
  else 0

/-- OVERFLOW_REPEAT detail (R150). -/
def repeatDetail (i : Fin 16) (g : RegionSlot) : List Byte :=
  leBytes 16 (put g.tag.toNat 0 16 + put g.attempt.val 16 3 + put g.format.toNat 19 5 + put g.nextFormat.toNat 24 5 +
    put g.action.toNat 29 2 + put i.val 32 4 + put g.overflows.toNat 64 32 + put g.firstUnit.toNat 96 32)

/-- The slot becomes ABORTED, with its ladder action, and the event is posted (R149, R150). -/
def abortSlot (p : Fin 64) (i : Fin 16) (s : State) : State :=
  let b := numBlock s p
  let g := b.slots[i]
  let next := if g.overflows = 0 then 0 else ladder g.format.toNat
  let action : BitVec 2 := if g.overflows = 0 then 3
    else if next ≠ 0 ∧ g.attempt.val < b.repeatMax.val then 1 else 2
  let g' := { g with state := .aborted, nextFormat := BitVec.ofNat 5 next, action := action, cmdStatus := 0x00 }
  postEvent .overflowRepeat (if g.overflows = 0 then g.byUnit else g.firstUnit) (some p) (moduleTide s) (repeatDetail i g')
    (setNum p { b with slots := vset b.slots i g' } s)

/-- A command write to region slot `i` with CMD forced to the row's command: the checks in order,
then the effect; a refusal sets CMD_STATUS and notifies (R148, R493). -/
def regionCmd (who : Requester) (i : Fin 16) (v : Word) (cmd : Nat)
    (f : Fin 64 → Cl → Option NoteRef → Nat → NumBlock → RegionSlot → State → Option State) (s : State) : State :=
  match who with
  | .core x =>
    match owner s x.c with
    | none => reply 0x04 s
    | some p =>
      if partResetting s p then reply 0x05 s
      else
        let s := reportsDue s
        let n := v.toNat - fld v.toNat 0 3 + cmd
        let b := numBlock s p
        let g := b.slots[i]
        let note := if bit n 42 then some (⟨fld n 32 5, fld n 37 5⟩ : NoteRef) else none
        let refuse (st : Byte) (loud : Bool) : State :=
          let s := setNum p { b with slots := vset b.slots i { g with cmdStatus := st } } s
          if loud then notifyOpt x.c note s else s
        reply 0x00 (
          if 24 ≤ fld n 32 5 then refuse 0x03 false
          else if fld n 4 4 ≠ 0 ∨ fld n 43 21 ≠ 0 ∨ (cmd = 1 ∧ !fmtOk (fld n 11 5)) then refuse 0x03 true
          else match f p x.c note n b g s with
            | some t => t
            | none => refuse 0x04 true)
  | _ => reply 0x04 s

/-- REGION_OPEN (R148). -/
def execRegionOpen (who : Requester) (i : Fin 16) (v : Word) (s : State) : Host.Outcome State Fault Refusal :=
  .next (regionCmd who i v 1 (fun p c note n b g s =>
    if g.state ≠ .free ∨ b.repeatMax.val < fld n 8 3 then none
    else
      let g' : RegionSlot :=
        { state := .opened, attempt := Fin.ofNat 8 (fld n 8 3), format := BitVec.ofNat 5 (fld n 11 5)
          tag := BitVec.ofNat 16 (fld n 16 16)
          early := if bit n 3 then note.map fun t => (c, t) else none }
      some (notifyOpt c note (setNum p { b with slots := vset b.slots i g' } s))) s)

/-- The unit of a requester that is a core. -/
def byCore (who : Requester) : BitVec 32 := match who with | .core x => coreUnit x.c x.k.val | _ => 0

/-- REGION_CLOSE (R148). -/
def execRegionClose (who : Requester) (i : Fin 16) (v : Word) (s : State) : Host.Outcome State Fault Refusal :=
  .next (regionCmd who i v 2 (fun p c note _ b g s =>
    if g.state ≠ .opened then none
    else
      let g' := { g with state := .closing, closeNote := note.map fun t => (c, t), closeAt := s.t.now, byUnit := byCore who
                         cmdStatus := 0x00 }
      some (setNum p { b with slots := vset b.slots i g' } s)) s)

/-- REGION_CLOSE_END (R148, R149): lets the 2 µs pass, in which every report made before the CLOSE arrives. -/
def execRegionCloseEnd (p : Fin 64) (i : Fin 16) (s : State) : Host.Outcome State Fault Refusal :=
  .next (
    if (numBlock s p).slots[i].state ≠ .closing then s
    else
      let s := reportsDue (waitUntil s ((numBlock s p).slots[i].closeAt + usec 2))
      let b := numBlock s p
      let g := b.slots[i]
      let s := if g.overflows = 0 then
          setNum p { b with slots := vset b.slots i { g with state := .committed, cmdStatus := 0x00 } } s
        else abortSlot p i s
      match g.closeNote with
      | some (c, n) => notify c n 1 s
      | none => s)

/-- REGION_ABORT (R148): a pending CLOSE ends and notifies too. -/
def execRegionAbort (who : Requester) (i : Fin 16) (v : Word) (s : State) : Host.Outcome State Fault Refusal :=
  .next (regionCmd who i v 3 (fun p c note _ b g s =>
    if g.state ≠ .opened ∧ g.state ≠ .closing then none
    else
      let s := setNum p { b with slots := vset b.slots i { g with byUnit := byCore who } } s
      let s := abortSlot p i s
      let s := match g.state, g.closeNote with
        | .closing, some (d, n) => notify d n 1 s
        | _, _ => s
      some (notifyOpt c note s)) s)

/-- REGION_RELEASE (R148). -/
def execRegionRelease (who : Requester) (i : Fin 16) (v : Word) (s : State) : Host.Outcome State Fault Refusal :=
  .next (regionCmd who i v 4 (fun p c note _ b g s =>
    if g.state = .opened ∨ g.state = .closing then none
    else
      let g' := { g with state := .free, early := none, cmdStatus := 0x00 }
      some (notifyOpt c note (setNum p { b with slots := vset b.slots i g' } s))) s)

/-- REGION_WRITE (R144). -/
def execRegionWrite (who : Requester) (c : Cl) (v : Word) (s : State) : Host.Outcome State Fault Refusal :=
  .next (
    let st := regPerm s who c
    let n := fld v.toNat 0 5
    if st ≠ 0x00 then reply st s
    else if 16 ≤ n ∧ n ≠ 0x1F then reply 0x03 s
    else reply 0x00 { s with num := { s.num with region := s.num.region.set 0x1F (ck c) (BitVec.ofNat 5 n) } })

end Sys2Proof.Machine
end

