-- ==== Sys2Proof/Machine/Cores.lean ====
section
/-! DEFINITION. Context commands and the core instructions that make no access: integer, branch,
floating point, vector, conversion and system (spec/06_cores.md, 02_number_formats.md). -/

namespace Sys2Proof.Machine

open Sys2Proof

/-! ### Context commands (R177) -/

/-- A CTX_CMD write with CMD forced to the row's command. -/
def ctxCmd (who : Requester) (x : CtxId) (v : Word) (cmd : Nat) (f : State → Byte × State) (s : State) : State :=
  let st := regPerm s who x.c
  if st ≠ 0x00 then reply st s
  else
    let n := v.toNat
    let bad := fld n 3 13 != 0 || (if cmd = 1 then !pcOk (BitVec.ofNat 48 (fld n 16 48)) else fld n 16 48 != 0)
    let r : Byte × State := if bad then (0x03, s) else f s
    reply 0x00 (updCtx x (fun c => { c with cmdStatus := r.1 }) r.2)

/-- CTX_START (R158, R177). -/
def execCtxStart (who : Requester) (x : CtxId) (v : Word) (s : State) : Host.Outcome State Fault Refusal :=
  .next (ctxCmd who x v 1 (fun s =>
    if dryCore s x.c x.k.val then (0x09, s)
    else if isWellhead s x.c ∨ (ctxRec s x).state ≠ .idle then (0x04, s)
    else
      (0x00, updCtx x (fun r =>
        ({ r with
            state := .ready, pc := BitVec.ofNat 48 (fld v.toNat 16 48)
            x := Vector.replicate 32 0, f := Vector.replicate 32 0, v := Vector.replicate 32 0, m := Vector.replicate 8 0
            rets := [] } : CtxRec).writeX 1 ((coreUnit x.c x.k.val).setWidth 64) |>.writeX 2 (BitVec.ofNat 64 x.n.val)) (orphan x s))) s)

/-- CTX_STOP (R177). -/
def execCtxStop (who : Requester) (x : CtxId) (v : Word) (s : State) : Host.Outcome State Fault Refusal :=
  .next (ctxCmd who x v 2 (fun s =>
    let st := (ctxRec s x).state
    if st = .ready ∨ st = .waiting then
      (0x00, updCtx x (fun r => { r with state := .stopped, trapped := false }) (endRunahead x (dropEntries x (endWait x (unwait (.ctx x) s)))))
    else (0x00, s)) s)

/-- CTX_RESUME (R177). -/
def execCtxResume (who : Requester) (x : CtxId) (v : Word) (s : State) : Host.Outcome State Fault Refusal :=
  .next (ctxCmd who x v 3 (fun s =>
    if dryCore s x.c x.k.val then (0x09, s)
    else if (ctxRec s x).state = .stopped then (0x00, updCtx x (fun r => { r with state := .ready }) s)
    else (0x04, s)) s)

/-- CTX_RESET (R177, R183). -/
def execCtxReset (who : Requester) (x : CtxId) (v : Word) (s : State) : Host.Outcome State Fault Refusal :=
  .next (ctxCmd who x v 4 (fun s => (0x00, ctxReset x s)) s)

/-! ### Integer and control (R167, R168) -/

def src2 (s : State) (x : CtxId) : Src2 → Word
  | .reg r => xr s x r
  | .imm v => v

def src2Regs : Src2 → List MemReg
  | .reg r => [.x r]
  | .imm _ => []

/-- A result, with the overflow of a saturating one. -/
structure IntRes where
  v : Word
  ovf : Bool
  deriving DecidableEq, Repr

/-- Address and control integer operations: 64 bits, wrapping (R167). A shift by 64 or more, whose result the
spec does not state, gives a free value of its operands (DESIGN CHOICE: log entry 23). -/
def int64 (op : IntOp) (a b : Word) : IntRes :=
  let w (v : Word) : IntRes := ⟨v, false⟩
  let t (c : Bool) : IntRes := w (if c then 1 else 0)
  match op with
  | .add => w (a + b)
  | .sub => w (a - b)
  | .and => w (a &&& b)
  | .or => w (a ||| b)
  | .xor => w (a ^^^ b)
  | .shl => w (if b.toNat < 64 then a <<< b.toNat else Config.shiftOver 0 false a b)
  | .shr => w (if b.toNat < 64 then a >>> b.toNat else Config.shiftOver 1 false a b)
  | .sar => w (if b.toNat < 64 then a.sshiftRight b.toNat else Config.shiftOver 2 false a b)
  | .eq => t (a == b)
  | .ne => t (a != b)
  | .lt => t (a.slt b)
  | .ltu => t (a.ult b)
  | .ge => t (!a.slt b)
  | .geu => t (!a.ult b)
  | .mul => w (a * b)
  | .div => w (BitVec.ofInt 64 (a.toInt.tdiv b.toInt))
  | .rem => w (BitVec.ofInt 64 (a.toInt.tmod b.toInt))

/-- An INT32 result: saturated, sign-extended, and whether it saturated (R46, R167). -/
def sat32 (i : Int) : IntRes :=
  if 2 ^ 31 - 1 < i then ⟨BitVec.ofInt 64 (2 ^ 31 - 1), true⟩
  else if i < -2 ^ 31 then ⟨BitVec.ofInt 64 (-2 ^ 31), true⟩
  else ⟨BitVec.ofInt 64 i, false⟩

/-- Numeric INT32 operations: low halves, saturating (R46, R167); a shift by 32 or more as in `int64`, its free
value sign-extended from 32 bits. -/
def int32 (op : IntOp) (a b : Word) : IntRes :=
  let x := a.setWidth 32
  let y := b.setWidth 32
  let w (v : BitVec 32) : IntRes := ⟨v.signExtend 64, false⟩
  let t (c : Bool) : IntRes := ⟨if c then 1 else 0, false⟩
  let wide (k : Nat) : IntRes := w ((Config.shiftOver k true (x.setWidth 64) (y.setWidth 64)).setWidth 32)
  match op with
  | .add => sat32 (x.toInt + y.toInt)
  | .sub => sat32 (x.toInt - y.toInt)
  | .and => w (x &&& y)
  | .or => w (x ||| y)
  | .xor => w (x ^^^ y)
  | .shl => if y.toNat < 32 then sat32 (x.toInt * 2 ^ y.toNat) else wide 0
  | .shr => if y.toNat < 32 then w (x >>> y.toNat) else wide 1
  | .sar => if y.toNat < 32 then w (x.sshiftRight y.toNat) else wide 2
  | .eq => t (x == y)
  | .ne => t (x != y)
  | .lt => t (x.slt y)
  | .ltu => t (x.ult y)
  | .ge => t (!x.slt y)
  | .geu => t (!x.ult y)
  | .mul => sat32 (x.toInt * y.toInt)
  | .div => sat32 (x.toInt.tdiv y.toInt)
  | .rem => sat32 (x.toInt.tmod y.toInt)

/-- Division or remainder by zero (R167, R171). -/
def divZero (op : IntOp) (num32 : Bool) (b : Word) : Bool :=
  (op == .div || op == .rem) && (if num32 then b.setWidth 32 == (0 : BitVec 32) else b == 0)

/-- INTEGER_OP (R167). -/
def execIntegerOp (x : CtxId) (op : IntOp) (num32 : Bool) (rd ra : Reg) (b : Src2) (s : State) : Host.Outcome State Fault Refusal :=
  .next (issueInstr x ([.x rd, .x ra] ++ src2Regs b) (fun s =>
    let bv := src2 s x b
    if divZero op num32 bv then trapHere x 0x07 0 0 s
    else
      let r := if num32 then int32 op (xr s x ra) bv else int64 op (xr s x ra) bv
      let s := if r.ovf then coreReport x false 0x0D [⟨0, true, 0⟩] s else s
      retire x (wx x rd r.v s)) s)

def brTaken (c : BrCond) (a b : Word) : Bool :=
  match c with
  | .eq => a == b | .ne => a != b | .lt => a.slt b | .ge => !a.slt b | .ltu => a.ult b | .geu => !a.ult b

/-- One step of a two-bit counter towards an outcome, saturating (R496). -/
def stepCounter (k : BitVec 2) (taken : Bool) : BitVec 2 :=
  if taken then (if k = 3 then 3 else k + 1) else (if k = 0 then 0 else k - 1)

/-- Index of a branch in the predictor: bits [11:2] of its address (R496). -/
def predIndex (pc : BitVec 48) : Nat := pc.toNat / 4 % 1024

/-- Whether the counter for a branch at `pc` predicts taken (R496). -/
def predictTaken (r : CoreRec) (pc : BitVec 48) : Bool := 2 ≤ (r.predictor.get 1 (predIndex pc)).toNat

/-- A resolved conditional branch moves its counter (R496). -/
def trainPredictor (x : CtxId) (pc : BitVec 48) (taken : Bool) (s : State) : State :=
  let r := coreRec s x.c x.k.val
  setCore x.c x.k.val { r with predictor := r.predictor.upd 1 (predIndex pc) fun k => stepCounter k taken } s

/-- Continues at an address. -/
def jumpTo (x : CtxId) (target : BitVec 48) (s : State) : State := addIssued x (updCtx x (fun r => { r with pc := target }) s)

/-- A call pushes its return address, the oldest of more than 8 lost (R496). -/
def pushRet (x : CtxId) (s : State) : State := updCtx x (fun r => { r with rets := ((r.pc + 4) :: r.rets).take 8 }) s

def branchRegs : BrKind → List MemReg
  | .cond _ ra rb _ => [.x ra, .x rb]
  | .jump _ => []
  | .call rd _ => [.x rd]
  | .callInd rd ra => [.x rd, .x ra]
  | .ret ra => [.x ra]
  | .jumpInd ra => [.x ra]

/-- BRANCH (R496). -/
def execBranch (x : CtxId) (b : BrKind) (s : State) : Host.Outcome State Fault Refusal :=
  .next (issueInstr x (branchRegs b) (fun s =>
    let pc := (ctxRec s x).pc
    let link := (pc + 4).setWidth 64
    match b with
    | .cond c ra rb target =>
      let t := brTaken c (xr s x ra) (xr s x rb)
      jumpTo x (if t then target else pc + 4) (trainPredictor x pc t s)
    | .jump target => jumpTo x target s
    | .call rd target => jumpTo x target (wx x rd link (pushRet x s))
    | .callInd rd ra => jumpTo x ((xr s x ra).setWidth 48) (wx x rd link (pushRet x s))
    | .ret ra => jumpTo x ((xr s x ra).setWidth 48) (updCtx x (fun r => { r with rets := r.rets.drop 1 }) s)
    | .jumpInd ra => jumpTo x ((xr s x ra).setWidth 48) s) s)

/-! ### Scalar floating point (R45-R50, R162, R168) -/

/-- Sources of a scalar operation. -/
def fpArity : FpOp → Nat
  | .fma => 3
  | .sqrt => 1
  | .cvt _ => 1
  | _ => 2

/-- FP32 and FP64; conversions also INT32 (R55, R168). -/
def scalarFmtOk (op : FpOp) (f : Fmt) : Bool :=
  match op with
  | .cvt d => (f == 8 || f == 9 || f == 0xD) && (d == 8 || d == 9 || d == 0xD)
  | _ => f == 8 || f == 9

def eFmt (f : Fmt) : EFmt := (elemFmt f.toNat).getD (.flt fp32)

/-- A scalar source: INT32 from an integer register, FP32 from the low half. -/
def scalarSrc (s : State) (x : CtxId) (f : Fmt) (r : Reg) : Val :=
  if f = 0xD then decodeElem 0xD ((xr s x r).toNat % 2 ^ 32)
  else if f = 9 then decodeElem 9 (fr s x r).toNat
  else decodeElem 8 ((fr s x r).toNat % 2 ^ 32)

/-- The exact result of a scalar arithmetic operation. -/
def fpExact (op : FpOp) (a b c : Val) : Exact :=
  match op with
  | .add => addV a b
  | .sub => subV a b
  | .mul => mulV a b
  | .fma => fmaV a b c
  | .min => ⟨minmaxV false a b, 0⟩
  | .max => ⟨minmaxV true a b, 0⟩
  | .div => divV a b
  | .sqrt => sqrtV a
  | _ => ⟨a, 0⟩

/-- The condition code of a compare (R49); none for other operations. -/
def fpCmp : FpOp → Option Nat
  | .cmpLt => some 0 | .cmpLe => some 1 | .cmpEq => some 2 | .cmpNe => some 3 | .cmpGt => some 4 | .cmpGe => some 5
  | _ => none

/-- The result of a scalar operation: a conversion follows R55, so that SAT bounds an infinite source too; any
other operation keeps the IEEE infinity of infinite operands (R47). -/
def scalarResult (op : FpOp) (d : Fmt) (sat : Bool) (a b c : Val) : Num :=
  match op with
  | .cvt _ =>
    let r := convertVal (eFmt d) sat none a
    ⟨r.code, r.ovf, 0⟩
  | _ => (fpExact op a b c).finish (eFmt d) sat

/-- The format a scalar operation writes: that of a conversion's destination, else the sources'. -/
def scalarDst (op : FpOp) (f : Fmt) : Fmt := match op with | .cvt d => d | _ => f

/-- The registers that a scalar operation names: INT32 values and compare results stand in x registers, FP32
and FP64 values in f registers (R158, R159). -/
def scalarRegs (op : FpOp) (fa fb fc : Fmt) (rd ra rb rc : Reg) : List MemReg :=
  let reg (f : Fmt) (r : Reg) : MemReg := if f = 0xD then .x r else .f r
  (if (fpCmp op).isSome then .x rd else reg (scalarDst op fa) rd) :: reg fa ra ::
    ((if 1 < fpArity op then [reg fb rb] else []) ++ (if 2 < fpArity op then [reg fc rc] else []))

/-- SCALAR_FP_OP (R44, R45, R168). -/
def execScalarFpOp (x : CtxId) (op : FpOp) (fa fb fc : Fmt) (rd ra rb rc : Reg) (sat : Bool) (s : State) : Host.Outcome State Fault Refusal :=
  .next (issueInstr x (scalarRegs op fa fb fc rd ra rb rc) (fun s =>
    if !scalarFmtOk op fa || (1 < fpArity op && !scalarFmtOk op fb) || (2 < fpArity op && !scalarFmtOk op fc) then illegal x s
    else if (1 < fpArity op && fb != fa) || (2 < fpArity op && fc != fa) then mismatch x fa s
    else
      let a := scalarSrc s x fa ra
      let b := scalarSrc s x fb rb
      let c := scalarSrc s x fc rc
      match fpCmp op with
      | some k => retire x (wx x rd (if condV k a b then 1 else 0) s)
      | none =>
        let d := scalarDst op fa
        let n := scalarResult op d sat a b c
        let s := coreReport x false fa.toNat [n] s
        let s := match op with
          | .cvt _ => lostNan x.c (if d == 0xD && a.isNan then 1 else 0) s
          | _ => s
        if d = 0xD then retire x (wx x rd ((BitVec.ofNat 32 n.code).signExtend 64) s)
        else retire x (wf x rd (d == 9) n.code s)) s)

/-! ### Vector arithmetic (R163, R164) -/

/-- Formats of vector arithmetic (R27). -/
def vecFmtOk (f : Fmt) : Bool := [4, 5, 6, 7, 8, 0xB, 0xC, 0xD].contains f.toNat

def vArity : VOp → Nat
  | .fma => 3
  | .abs => 1
  | .sum => 1
  | .move _ _ => 1
  | _ => 2

def vCmp : VOp → Option Nat
  | .cmpLt => some 0 | .cmpLe => some 1 | .cmpEq => some 2 | .cmpNe => some 3 | .cmpGt => some 4 | .cmpGe => some 5
  | _ => none

/-- Codes and values of a vector register in a format. -/
def vCodes (f : Nat) (v : BitVec 256) : List Nat := unpack v.toNat (fmtBits f) (elemsPerToken f)
def vVals (f : Nat) (v : BitVec 256) : List Val := (vCodes f v).map (decodeElem f)

/-- The exact result of one lane. -/
def vExact (op : VOp) (a b c : Val) : Exact :=
  match op with
  | .add => addV a b
  | .sub => subV a b
  | .mul => mulV a b
  | .fma => fmaV a b c
  | .min => ⟨minmaxV false a b, 0⟩
  | .max => ⟨minmaxV true a b, 0⟩
  | .abs => ⟨a.abs, 0⟩
  | _ => ⟨a, 0⟩

/-- A register from lane results, masked-off lanes kept (R163). -/
def mergeLanes (f : Nat) (m : BitVec 32) (old : BitVec 256) (new : List Nat) : BitVec 256 :=
  let o := vCodes f old
  BitVec.ofNat 256 (pack (fmtBits f) ((List.range (elemsPerToken f)).map fun i => if m.getLsbD i then new.getD i 0 else o.getD i 0))

/-- Results of unmasked lanes only. -/
def unmasked {α : Type} (m : BitVec 32) (l : List α) : List α := ((l.zip (List.range l.length)).filter fun p => m.getLsbD p.2).map (·.1)

/-- Exact sum of values with its special cases: a NaN among them is passed on and none is produced (R58). -/
def sumV (vs : List Val) : Exact :=
  if vs.any (·.isNan) then ⟨.nan, 0⟩
  else vs.foldl (fun a v => if a.cause ≠ 0 then a else addV a.v v) ⟨.zero true, 0⟩

/-- The format a lane sum is written in: INT32 for integers, else FP32. -/
def sumFmt (f : Nat) : Nat := if 0xB ≤ f ∧ f ≤ 0xD then 0xD else 8

/-- The registers that a vector operation names: a compare writes a mask register, VSUM an f register, a select
takes its third operand from a mask register (R159). -/
def vecRegs (op : VOp) (vd va vb vc : Reg) : List MemReg :=
  (if (vCmp op).isSome then [] else if op = .sum then [.f vd] else [.v vd]) ++ [.v va] ++
    (if 1 < vArity op then [.v vb] else []) ++ (if 2 < vArity op then [.v vc] else [])

/-- VECTOR_ARITH (R43, R44, R46, R163). VSEL and the lane moves copy lane codes as they stand, also a NaN code
that is not canonical: whether a copy writes a NaN in the sense of R30 is left open (DESIGN CHOICE: log entry
138). -/
def execVectorArith (x : CtxId) (op : VOp) (fa fb fc : Fmt) (vd va vb vc : Reg) (m : Fin 8) (sat : Bool) (s : State) : Host.Outcome State Fault Refusal :=
  .next (issueInstr x (vecRegs op vd va vb vc) (fun s =>
    let n := elemsPerToken fa.toNat
    let moveBad := match op with | .move i j => n ≤ i || n ≤ j | _ => false
    if !vecFmtOk fa || (1 < vArity op && !vecFmtOk fb) || (2 < vArity op && !vecFmtOk fc) || moveBad then illegal x s
    else if (1 < vArity op && fb != fa) || (2 < vArity op && fc != fa) then mismatch x fa s
    else
      let f := fa.toNat
      let r := ctxRec s x
      let mask := r.readM m
      let a := vVals f r.v[va]
      let b := vVals f r.v[vb]
      let c := vVals f r.v[vc]
      let ca := vCodes f r.v[va]
      match op with
      | .move i j => retire x (if mask.getLsbD j then
          wv x vd (mergeLanes f (1 <<< j) r.v[vd] (List.replicate n (ca.getD i 0))) s else s)
      | .sel =>
        let sm := r.readM (Fin.ofNat 8 vc.val)
        let cb := vCodes f r.v[vb]
        retire x (wv x vd (mergeLanes f mask r.v[vd] ((List.range n).map fun i => if sm.getLsbD i then ca.getD i 0 else cb.getD i 0)) s)
      | .sum =>
        let q := (sumV (unmasked mask a)).finish (eFmt (BitVec.ofNat 5 (sumFmt f))) sat
        retire x (wf x vd false q.code (coreReport x true f [q] s))
      | _ =>
        match vCmp op with
        | some k =>
          let old := r.readM (Fin.ofNat 8 vd.val)
          let bits := (List.range 32).foldl (fun acc i =>
            let v := if i < n ∧ mask.getLsbD i then condV k (a.getD i .nan) (b.getD i .nan) else old.getLsbD i
            if v then acc + 2 ^ i else acc) 0
          retire x (updCtx x (fun r => r.writeM (Fin.ofNat 8 vd.val) (BitVec.ofNat 32 bits)) s)
        | none =>
          let ns := (List.range n).map fun i =>
            (vExact op (a.getD i .nan) (b.getD i .nan) (c.getD i .nan)).finish (eFmt fa) sat
          retire x (wv x vd (mergeLanes f mask r.v[vd] (ns.map (·.code))) (coreReport x true f (unmasked mask ns) s))) s)

/-- Elements per accumulator lane (R164). -/
def dotGroup (f : Nat) : Nat := if fmtBits f = 8 then 4 else 2

/-- VDOT (R164). -/
def execVdot (x : CtxId) (fa fb : Fmt) (vd va vb : Reg) (m : Fin 8) (sat : Bool) (s : State) : Host.Outcome State Fault Refusal :=
  .next (issueInstr x [.v vd, .v va, .v vb] (fun s =>
    let ok (f : Fmt) : Bool := [4, 5, 6, 7, 0xB].contains f.toNat
    if !ok fa || !ok fb then illegal x s
    else if fa ≠ fb then mismatch x fa s
    else
      let f := fa.toNat
      let r := ctxRec s x
      let mask := r.readM m
      let g := dotGroup f
      let ps := (vVals f r.v[va]).zip (vVals f r.v[vb])
      let accF := if f = 0xB then 0xD else 8
      let acc := vVals accF r.v[vd]
      let ns := (List.range 8).map fun j =>
        (dotAdd ((ps.drop (g * j)).take g) (acc.getD j .nan)).finish (eFmt (BitVec.ofNat 5 accF)) sat
      retire x (wv x vd (mergeLanes accF mask r.v[vd] (ns.map (·.code))) (coreReport x true f (unmasked mask ns) s))) s)

/-! ### Vector conversion (R55-R57, R166, R495) -/

/-- Element formats of vector conversions (R27, R55: not FP64). -/
def cvtFmtOk (f : Fmt) : Bool := (elemFmt f.toNat).isSome && f != 9

/-- Source and destination elements of a conversion: first source, first destination and count
(R495). -/
def cvtMap (ns nd p : Nat) : Option (Nat × Nat × Nat) :=
  if ns = nd then (if p = 0 then some (0, 0, nd) else none)
  else if ns < nd then (if p < nd / ns then some (0, p * ns, ns) else none)
  else if p < ns / nd then some (p * nd, 0, nd) else none

/-- Lane-mask bit of a destination element (R495). -/
def dstMask (f : Nat) (m : BitVec 32) (i : Nat) : Bool := if fmtBits f = 4 then m.getLsbD (i / 2) else m.getLsbD i

/-- One conversion of a register: each source value is divided by `2^e`; unmasked elements take
draws in order, count overflow and lost NaN, and underflow where it is a scaled conversion. -/
def vConvert (x : CtxId) (vd vs : Reg) (src dst : Nat) (e : Int) (scaled sat grad : Bool) (m : Fin 8) (p : Nat)
    (s : State) : State :=
  match cvtMap (elemsPerToken src) (elemsPerToken dst) p with
  | none => illegal x s
  | some (s0, d0, n) =>
    let r := ctxRec s x
    let mask := r.readM m
    let f := eFmt (BitVec.ofNat 5 dst)
    let vs := vVals src r.v[vs]
    let on := (List.range n).filter fun i => dstMask dst mask (d0 + i)
    let g := coreDraws x grad on.length s
    let cs := (List.range on.length).map fun j =>
      let y := (vs.getD (s0 + on.getD j 0) .nan).scale (-e)
      (on.getD j 0, convertVal f sat (drawAt g.1 j) y, scaled && belowPow y f.minNormal)
    let old := vCodes dst r.v[vd]
    let new := (List.range (elemsPerToken dst)).map fun i =>
      match cs.find? fun c => d0 + c.1 = i with
      | some c => c.2.1.code
      | none => old.getD i 0
    let t := coreReport x true src (cs.map fun c => ⟨c.2.1.code, c.2.1.ovf, 0⟩) g.2
    let t := lostNan x.c (cs.countP fun c => c.2.1.lost) t
    let t := reportUdf x.c (coreUnit x.c x.k.val) (cs.countP fun c => c.2.2) t
    retire x (wv x vd (BitVec.ofNat 256 (pack (fmtBits dst) new)) t)

/-- VCVT (R495). -/
def execVcvt (x : CtxId) (vd vs : Reg) (src dst : Fmt) (sat grad : Bool) (m : Fin 8) (part : BitVec 3) (s : State) : Host.Outcome State Fault Refusal :=
  .next (issueInstr x [.v vd, .v vs] (fun s =>
    if !cvtFmtOk src || !cvtFmtOk dst then illegal x s
    else vConvert x vd vs src.toNat dst.toNat 0 false sat grad m part.toNat s) s)

/-- VAMAX (R166): the largest magnitude of the unmasked lanes, or NaN if one is NaN. -/
def execVamax (x : CtxId) (fd vs : Reg) (fmt : Fmt) (m : Fin 8) (s : State) : Host.Outcome State Fault Refusal :=
  .next (issueInstr x [.f fd, .v vs] (fun s =>
    if !vecFmtOk fmt then illegal x s
    else
      let r := ctxRec s x
      let vs := unmasked (r.readM m) (vVals fmt.toNat r.v[vs])
      let a := vs.foldl (fun a v => minmaxV true a v.abs) (.zero false)
      retire x (wf x fd false (a.finish (.flt fp32)).code s)) s)

/-- Output formats of the scaled convert (R139). -/
def scaleFmtOk (f : Fmt) : Bool := 1 ≤ f.toNat && f.toNat ≤ 7

/-- The amax of a scaled convert. -/
def amaxOf (s : State) (x : CtxId) (fa : Reg) : Val := decodeElem 8 ((fr s x fa).toNat % 2 ^ 32)

/-- FSCALE (R140, R166). -/
def execFscale (x : CtxId) (fd fa : Reg) (out : Fmt) (s : State) : Host.Outcome State Fault Refusal :=
  .next (issueInstr x [.f fd, .f fa] (fun s =>
    if !scaleFmtOk out then illegal x s
    else
      let a := amaxOf s x fa
      let v : Val := if a.isNan then .nan else .fin false 1 (rowExp (eFmt out) a)
      retire x (wf x fd false (v.finish (.flt fp32)).code s)) s)

/-- VCVTS (R140, R166, R495). -/
def execVcvts (x : CtxId) (vd vs fa : Reg) (src dst : Fmt) (sat grad : Bool) (m : Fin 8) (part : BitVec 3) (s : State) : Host.Outcome State Fault Refusal :=
  .next (issueInstr x [.v vd, .v vs, .f fa] (fun s =>
    if !cvtFmtOk src || !scaleFmtOk dst then illegal x s
    else vConvert x vd vs src.toNat dst.toNat (rowExp (eFmt dst) (amaxOf s x fa)) true sat grad m part.toNat s) s)

/-! ### System (R168-R172, R182, R291) -/

/-- TIDE (R291). -/
def execTide (x : CtxId) (rd : Reg) (s : State) : Host.Outcome State Fault Refusal :=
  .next (issueInstr x [.x rd] (fun s => retire x (wx x rd (localTide s x.c) s)) s)

/-- PHASE (R169). -/
def execPhase (x : CtxId) (k : BitVec 5) (s : State) : Host.Outcome State Fault Refusal :=
  .next (issueInstr x [] (fun s =>
    if k = 0 ∨ (4 ≤ k.toNat ∧ k.toNat ≤ 16) then
      retire x (setCore x.c x.k.val { coreRec s x.c x.k.val with hint := k } s)
    else illegal x s) s)

/-- RSEED (R155, R170). -/
def execRseed (x : CtxId) (s : State) : Host.Outcome State Fault Refusal :=
  .next (issueInstr x [] (fun s => retire x (seedCore x.c x.k.val s)) s)

/-- VRAND (R170): 256 bits from four successive words. -/
def execVrand (x : CtxId) (vd : Reg) (s : State) : Host.Outcome State Fault Refusal :=
  .next (issueInstr x [.v vd] (fun s =>
    let r := coreRec s x.c x.k.val
    let w := r.gen.words 4
    retire x (wv x vd (BitVec.ofNat 256 (pack 64 (w.1.map (·.toNat)))) (setCore x.c x.k.val { r with gen := w.2 } s))) s)

/-- IFLUSH (R182). -/
def execIflush (x : CtxId) (s : State) : Host.Outcome State Fault Refusal :=
  .next (issueInstr x [] (fun s => retire x (setCore x.c x.k.val { coreRec s x.c x.k.val with lines := [], badLines := [] } s)) s)

/-- BRK (R171): it completes, then traps. -/
def execBrk (x : CtxId) (s : State) : Host.Outcome State Fault Refusal :=
  .next (issueInstr x [] (fun s =>
    let pc := (ctxRec s x).pc
    takeTrap x 0x08 0x00 0 pc 0 (pc + 4) (retire x s)) s)

/-- TRET (R172). -/
def execTret (x : CtxId) (rn : Reg) (s : State) : Host.Outcome State Fault Refusal :=
  .next (issueInstr x [.x rn] (fun s =>
    if (ctxRec s x).inTrap then
      jumpTo x ((xr s x rn).setWidth 48) (updCtx x (fun r => { r with inTrap := false }) s)
    else illegal x s) s)

/-- HALT (R168): waits for the context's stores and atomics. A load or an object operation still on
its way fills its register; no failure is reported once the context is IDLE. -/
def execHalt (x : CtxId) (s : State) : Host.Outcome State Fault Refusal :=
  .next (issueInstr x [] (fun s =>
    if (myXacts s x).any fun t => t.use.isStore || t.use.isAtomic then s
    else updCtx x (fun r => { r with state := .idle }) (retire x s)) s)

end Sys2Proof.Machine
end

