-- ==== Sys2Proof/Machine/Pumps.lean ====
section
/-! DEFINITION. Pumps: submission, the units of a descriptor, reads, the funnel, completion and halt
(spec/09_pumps.md). -/

namespace Sys2Proof.Machine

open Sys2Proof

/-! ### Channels -/

def chanPump : ChanId → PumpId
  | .cluster c _ => .cluster c
  | .stack t _ => .stack t

def pumpKey : PumpId → Nat
  | .cluster c => ck c
  | .stack t => 2 ^ 26 + t.val

def pumpCtr (s : State) (p : PumpId) : PumpCtr := s.pump.ctrs.get {} (pumpKey p)
def setPumpCtr (p : PumpId) (r : PumpCtr) (s : State) : State :=
  { s with pump := { s.pump with ctrs := s.pump.ctrs.set {} (pumpKey p) r } }

/-- Channels of a pump (R242). -/
def pumpChans : PumpId → List ChanId
  | .cluster c => (List.finRange 8).map (.cluster c)
  | .stack t => (List.finRange 16).map (.stack t)

/-- Queue entries, read packets per channel and per pump, and read buffer bytes (R242). -/
def chanQueue : ChanId → Nat
  | .cluster _ _ => 8
  | .stack _ _ => 16
def chanReads : ChanId → Nat
  | .cluster _ _ => 64
  | .stack _ _ => 128
def pumpReads : PumpId → Nat
  | .cluster _ => 256
  | .stack _ => 512
def pumpBuf : PumpId → Nat
  | .cluster _ => 65536
  | .stack _ => 131072

/-- The pump has power: a cluster pump on its network rail, a stack pump with its adapter (R242, R243). -/
def pumpOn (s : State) (p : PumpId) : Bool :=
  s.pwr.rails && match p with
  | .cluster c => !s.pwr.lostWafers.contains c.w && clState s c != 2 && clState s c != 3
  | .stack t => !s.net.dry.stk.getLsbD t.val

/-- Address of a pump counter (R257). -/
def pumpCtrAddr (p : PumpId) (off : Nat) : Word :=
  match p with
  | .cluster c => clAddr 4 c (0x6400 + off)
  | .stack t => numAddr (0x10800 + 0x1000 * t.val + off)

/-- Partition a pump counter's wrap is told to. -/
def pumpOwner (s : State) : PumpId → Option (Fin 64)
  | .cluster c => owner s c
  | .stack _ => none

def addMoved (p : PumpId) (n : Nat) (s : State) : State :=
  let r := pumpCtr s p
  counterWrap (pumpCtrAddr p 0) (pumpOwner s p) r.bytesMoved n (setPumpCtr p { r with bytesMoved := r.bytesMoved + BitVec.ofNat 64 n } s)
def addAhead (p : PumpId) (n : Nat) (s : State) : State :=
  let r := pumpCtr s p
  counterWrap (pumpCtrAddr p 8) (pumpOwner s p) r.raReads n (setPumpCtr p { r with raReads := r.raReads + BitVec.ofNat 64 n } s)
def addAheadGone (p : PumpId) (n : Nat) (s : State) : State :=
  let r := pumpCtr s p
  counterWrap (pumpCtrAddr p 16) (pumpOwner s p) r.raDiscarded n
    (setPumpCtr p { r with raDiscarded := r.raDiscarded + BitVec.ofNat 64 n } s)

/-! ### Descriptors (R247-R250) -/

def dMode (n : Nat) : Nat := fld n 0 3
def dFence (n : Nat) : Bool := bit n 3
def dIdxBytes (n : Nat) : Nat := if bit n 5 then 8 else 4
def dSrcCirc (n : Nat) : Nat := fld n 8 5
def dDstCirc (n : Nat) : Nat := fld n 16 5
def dSrc (n : Nat) : Nat := fld n 64 64
def dDst (n : Nat) : Nat := fld n 128 64
def dLen (n : Nat) : Nat := fld n 192 32
def dSrcStride (n : Nat) : Int := sgn 32 (fld n 256 32)
def dDstStride (n : Nat) : Int := sgn 32 (fld n 288 32)
def dIndex (n : Nat) : Nat := fld n 320 64

/-- The descriptor gathers or scatters. -/
def dIndexed (n : Nat) : Bool := dMode n == 2 || dMode n == 3

/-- Module 0xFF or the module's own number. -/
def ownAddr (s : State) (a : Word) : Bool := addrModule a == 0xFF || some (addrModule a) == ownModule s

/-- Field checks of a descriptor (R249). -/
def descOk (s : State) (n : Nat) : Bool :=
  let circOk (k : Nat) : Bool := k == 0 || (6 ≤ k && k ≤ 30)
  let dataSpace (a : Nat) : Bool := fld a 52 4 ≤ 3 || fld a 52 4 == 8
  let ix := BitVec.ofNat 64 (dIndex n)
  fld n 6 2 == 0 && fld n 13 3 == 0 && fld n 21 11 == 0 && fld n 48 16 == 0 && fld n 448 64 == 0
    && dMode n ≤ 3 && circOk (dSrcCirc n) && circOk (dDstCirc n) && dLen n != 0 && fld n 224 32 != 0
    && (dMode n != 0 || (fld n 224 32 == 1 && dSrcStride n == 0 && dDstStride n == 0))
    && (dIndexed n || dIndex n == 0)
    && (!dIndexed n || (dLen n ≤ 4096 && addrSpace ix ≤ 3 && ownAddr s ix && dIndex n % dIdxBytes n == 0))
    && dataSpace (dSrc n) && dataSpace (dDst n) && !(fld (dSrc n) 52 4 == 8 && fld (dDst n) 52 4 == 8)
    && (if dNotify n then addrSpace (dNoteAddr n) == 5 && ownAddr s (dNoteAddr n) && fld n 384 3 == 0 && layoutOk (dNoteAddr n)
        else fld n 384 64 == 0)

/-- Maps a byte address into its circular buffer (R250). -/
def circ (base k a : Nat) : Nat := if k = 0 then a else base / 2 ^ k * 2 ^ k + a % 2 ^ k

/-- Unwrapped start of a unit on a side: base plus a multiple of the stride, modulo 2^64 (R248). -/
def unitStart (base : Nat) (i stride : Int) : Nat := (((base : Int) + i * stride) % (2 ^ 64 : Nat)).toNat

/-- The index of a unit as an integer, once read. -/
def unitIndex (d : Desc) (u : Nat) : Option Int :=
  match d.idx.get none u with
  | some v => some (if bit d.raw.toNat 5 then v.toInt else (v.setWidth 32).toInt)
  | none => none

/-- What is known of a unit: its source start (none where nothing is read) and destination start (none
where nothing is written), once its index is read (R248). -/
def unitPlan (d : Desc) (u : Nat) : Option (Option Nat × Option Nat) :=
  let n := d.raw.toNat
  match dMode n with
  | 0 => some (some (dSrc n), some (dDst n))
  | 1 => some (some (unitStart (dSrc n) u (dSrcStride n)), some (unitStart (dDst n) u (dDstStride n)))
  | 2 => (unitIndex d u).map fun i =>
      (if i = -1 then none else some (unitStart (dSrc n) i (dSrcStride n)), some (unitStart (dDst n) u (dDstStride n)))
  | _ => (unitIndex d u).map fun i =>
      if i = -1 then (none, none) else (some (unitStart (dSrc n) u (dSrcStride n)), some (unitStart (dDst n) i (dDstStride n)))

/-- Bytes from an address to the end of its contiguous range, at most `n` (R250, R251). -/
def runLen (k a n : Nat) : Nat := if k = 0 then n else min n (2 ^ k - a % 2 ^ k)

/-- Address and bytes of the packet at an offset of a unit (R251). -/
def unitPkt (base k start len off : Nat) : Nat × Nat :=
  let a := circ base k ((start + off) % 2 ^ 64)
  (a, pktLen a (runLen k a (len - off)))

/-! ### Reads (R251, R254) -/

/-- A channel's read packets under way, and a pump's. -/
def chanOutstanding (s : State) (ch : ChanId) : Nat :=
  s.net.xacts.countP fun t => match t.use with
    | .pumpRead c _ _ _ => c == ch
    | .pumpIndex c _ _ => c == ch
    | _ => false
def pumpOutstanding (s : State) (p : PumpId) : Nat := ((pumpChans p).map (chanOutstanding s)).sum

/-- Bytes in a pump's read buffer, those still to come included. -/
def pumpBuffered (s : State) (p : PumpId) : Nat :=
  ((pumpChans p).map fun ch => ((chanOf s ch).queue.map fun d => (d.buf.map fun b => b.2.2.length).sum).sum).sum +
  (s.net.xacts.map fun t => match t.use with
    | .pumpRead c _ _ _ => if chanPump c = p then t.len else 0
    | _ => 0).sum

/-- The cluster of a cluster pump; a stack pump's requests enter the mesh as R23 and R422 say. -/
def chanHome : ChanId → Cl
  | .cluster c _ => c
  | .stack st _ => ⟨Fin.ofNat 4 (st.val / 12), 0, 0⟩

/-- Issues a pump's request; an error of one made `ahead` is told only when its element is reached (R254). -/
def pumpReq (ch : ChanId) (d : Desc) (k : ReqKind) (a n : Nat) (data : List Byte) (ahead : Bool) (use : Use) (s : State) : State :=
  issueReq (.pump ch) (some d.part) k (BitVec.ofNat 64 a) n data 0 false ahead (chanHome ch) use s

/-- Every read of the descriptor has been issued. -/
def readsDone (d : Desc) : Bool := decide (d.count ≤ d.rdU)

/-- Issues the descriptor's next index read, where the window of 64 elements allows (R254). -/
def issueIndex (ch : ChanId) (d : Desc) (s : State) : Option State :=
  let n := d.raw.toNat
  let w := dIdxBytes n
  let top := min d.count (d.wrU + 65) * w
  if dIndexed n && decide (d.idxBytes < top) then
    let a := dIndex n + d.idxBytes
    let len := pktLen a (top - d.idxBytes)
    some (pumpReq ch d .read a len [] (decide (d.wrU < d.idxBytes / w)) (.pumpIndex ch d.serial (d.idxBytes / w))
      (setDesc ch { d with idxBytes := d.idxBytes + len } s))
  else none

/-- Issues the descriptor's next source read (R251, R254). -/
def issueSource (ch : ChanId) (d : Desc) (s : State) : Option State :=
  let n := d.raw.toNat
  if d.count ≤ d.rdU ∨ (dIndexed n ∧ d.wrU + 64 < d.rdU) then none
  else match unitPlan d d.rdU with
    | none => none
    | some (none, _) => some (setDesc ch { d with rdU := d.rdU + 1, rdOff := 0 } s)
    | some (some start, _) =>
      let p := unitPkt (dSrc n) (dSrcCirc n) start (dLen n) d.rdOff
      if pumpBuf (chanPump ch) < pumpBuffered s (chanPump ch) + p.2 then none
      else
        let off := d.rdOff + p.2
        let d' := if dLen n ≤ off then { d with rdU := d.rdU + 1, rdOff := 0 } else { d with rdOff := off }
        let s := pumpReq ch d .read p.1 p.2 [] (dIndexed n && decide (d.wrU < d.rdU)) (.pumpRead ch d.serial d.rdU d.rdOff) (setDesc ch d' s)
        some (if dIndexed n then addAhead (chanPump ch) 1 s else s)

/-- The started descriptor that issues reads now: the first with reads left. -/
def readDesc (s : State) (ch : ChanId) : Option Desc :=
  ((chanOf s ch).queue.filter fun d => d.started && !d.halted).find? fun d => !readsDone d

/-- A channel's next read, where its limits let it issue one. -/
def nextRead (s : State) (ch : ChanId) : Option State :=
  if (chanOf s ch).state ≠ .running || decide (chanReads ch ≤ chanOutstanding s ch) then none
  else match readDesc s ch with
    | none => none
    | some d => (issueIndex ch d s).orElse fun _ => issueSource ch d s

/-- The channel whose number follows the last one served, of those of highest priority (R253). -/
def byPriority (s : State) (last : Nat) (l : List ChanId) : Option ChanId :=
  let top := (l.map fun ch => (chanOf s ch).priority.toNat).foldl max 0
  let best := l.filter fun ch => (chanOf s ch).priority.toNat == top
  (best.find? fun ch => last < chanKey ch % 16).orElse fun _ => best.head?

/-- A pump issues reads up to its limits, each for the highest-priority channel that can use it (R253); among equals
the channels take turns (DESIGN CHOICE, log entry 151: the spec gives turns to beats only). -/
def issueReads (p : PumpId) : Nat → State → State
  | 0, s => s
  | k + 1, s =>
    if !pumpOn s p || decide (pumpReads p ≤ pumpOutstanding s p) then s
    else match byPriority s (pumpCtr s p).lastRead ((pumpChans p).filter fun ch => (nextRead s ch).isSome) with
      | none => s
      | some ch =>
        match nextRead s ch with
        | none => s
        | some t => issueReads p k (setPumpCtr p { pumpCtr t p with lastRead := chanKey ch % 16 } t)

/-! ### Halt (R256) -/

/-- Discards a descriptor's data read ahead; of a gather or scatter each packet counts (R254). Replies still to come
are dropped when they arrive (R258). -/
def discardReads (ch : ChanId) (d : Desc) (s : State) : State :=
  let mine (t : Xact) : Bool := match t.use with
    | .pumpRead c k _ _ => c == ch && k == d.serial
    | .pumpIndex c k _ => c == ch && k == d.serial
    | _ => false
  let src (t : Xact) : Bool := match t.use with
    | .pumpRead c k _ _ => c == ch && k == d.serial && !t.orphaned
    | _ => false
  let n := d.buf.length + s.net.xacts.countP src
  let s := { s with net := { s.net with xacts := s.net.xacts.map fun t => if mine t then { t with orphaned := true } else t } }
  let s := setDesc ch { d with buf := [], bad := [], carry := [] } s
  if dIndexed d.raw.toNat then addAheadGone (chanPump ch) n s else s

/-- Posts the ECC failure of a read made ahead, once its element is reached (R198, R254). -/
def tellQuiet (ch : ChanId) (part : Fin 64) (b : BadRead) (s : State) : State :=
  match b.quiet with
  | none => s
  | some (a, len) =>
    let by_ := whoUnit (.pump ch)
    if b.st ≠ 0x0C ∨ !(addrModule a == 0xFF || some (addrModule a) == ownModule s) then s
    else if addrSpace a = 0 then
      match translate (stackMap s part) (fld a.toNat 0 42) with
      | none => s
      | some (n, phys) =>
        let us := (eccRead s.mem.stackErr (unitsOf 32 (n.val * 2 ^ 36 + phys) len)).2
        match us with
        | [] => s
        | j :: _ => postEccUncorrected (stackUnit n) (some part) (moduleTide s)
            (a - BitVec.ofNat 64 (phys % 32) + BitVec.ofNat 64 (32 * j % 2 ^ 36 - phys / 32 * 32)) by_ 3 (2 ^ 41 + j) (addStrikes true s.mem.stackErr us s)
    else
      match addrCl a, (eccRead s.mem.sramErr (unitsOf 8 (sramKey a) len)).2 with
      | some c, j :: us => postEccUncorrected (clUnit c) (some part) (localTide s c) (sramUnitAddr j) by_ (addrSpace a - 1) j
          (addStrikes false s.mem.sramErr (j :: us) s)
      | _, _ => s

/-- Halts a descriptor on a data access. -/
def haltAt (ch : ChanId) (d : Desc) (st : Byte) (u off : Nat) (s : State) : State :=
  let s := haltDesc ch d st u off s
  match (chanOf s ch).queue.find? (·.serial == d.serial) with
  | some d => settleHead ch 17 (discardReads ch d s)
  | none => s

/-! ### The funnel (R251-R253) -/

/-- The descriptor whose bytes are written next. -/
def writeDesc (s : State) (ch : ChanId) : Option Desc :=
  ((chanOf s ch).queue.filter fun d => d.started && !d.halted).find? fun d => decide (d.wrU < d.count)

/-- Read data at a place of a unit: up to 64 bytes. -/
def bufAt (d : Desc) (u off : Nat) : List Byte :=
  match d.buf.find? fun b => b.1 == u && decide (b.2.1 ≤ off) && decide (off < b.2.1 + b.2.2.length) with
  | some b => (b.2.2.drop (off - b.2.1)).take 64
  | none => []

/-- A read that the next byte of the current unit waits for failed: one at or before it, or of a gather or scatter any
read of the element (R254). -/
def badAt (d : Desc) (u off : Nat) : Option BadRead :=
  d.bad.find? fun b => b.u == u && (dIndexed d.raw.toNat || decide (b.off ≤ off))

/-- Every source byte of the unit from a place on has been read. -/
def unitRead (d : Desc) (u off : Nat) : Bool :=
  ((d.buf.filter fun b => b.1 == u).map fun b => b.2.1 + b.2.2.length - max b.2.1 off).sum == dLen d.raw.toNat - off

/-- What a beat of a descriptor would move: the packet, its bytes wanted, and the bytes at hand; of a gather or scatter
none before the whole element has been read (R254). -/
def beatData (d : Desc) : Option (Nat × Nat × List Byte) :=
  let n := d.raw.toNat
  match unitPlan d d.wrU with
  | some (src, some dst) =>
    let p := unitPkt (dDst n) (dDstCirc n) dst (dLen n) d.wrOff
    let pos := d.wrOff + d.carry.length
    let want := min 64 (p.2 - d.carry.length)
    let have_ := match src with
      | none => List.replicate want 0
      | some _ => if dIndexed n && !unitRead d d.wrU pos then [] else (bufAt d d.wrU pos).take want
    some (p.1, p.2, have_)
  | _ => none

/-- Moves on past units that write nothing (R248). -/
def skipUnits (ch : ChanId) : Nat → State → State
  | 0, s => s
  | k + 1, s =>
    match writeDesc s ch with
    | none => s
    | some d => match unitPlan d d.wrU with
      | some (_, none) => skipUnits ch k (setDesc ch { d with wrU := d.wrU + 1 } s)
      | _ => s

/-- The channel can use a beat (R253). -/
def beatReady (s : State) (ch : ChanId) : Bool :=
  (chanOf s ch).state == .running &&
    match writeDesc s ch with
    | some d => (match beatData d with | some b => !b.2.2.isEmpty | none => false)
    | none => false

/-- The channel whose turn it is: one that has waited 8,192 cycles, else the highest priority, the
packet begun first and then round-robin (R253). -/
def beatChan (s : State) (p : PumpId) : Option ChanId :=
  let ready := (pumpChans p).filter (beatReady s)
  let now := netCycles s.t s.t.now
  match ready.find? fun ch => (chanOf s ch).waitSince + 8192 ≤ now with
  | some ch => some ch
  | none =>
    let top := (ready.map fun ch => (chanOf s ch).priority.toNat).foldl max 0
    let best := ready.filter fun ch => (chanOf s ch).priority.toNat == top
    let last := (pumpCtr s p).last
    match best.find? fun ch => chanKey ch % 16 == last && (match writeDesc s ch with | some d => !d.carry.isEmpty | none => false) with
    | some ch => some ch
    | none => byPriority s last ready

/-- Read data wholly used up is dropped. -/
def trimBuf (d : Desc) : Desc :=
  { d with buf := d.buf.filter fun b => d.wrU < b.1 || (b.1 == d.wrU && decide (d.wrOff + d.carry.length < b.2.1 + b.2.2.length)) }

/-- Halts a channel's writing descriptor whose next byte could not be read (R254, R256). -/
def checkBad (ch : ChanId) (s : State) : State :=
  match writeDesc s ch with
  | some d =>
    match badAt d d.wrU (d.wrOff + d.carry.length) with
    | some b => haltAt ch d b.st d.wrU d.wrOff (tellQuiet ch d.part b s)
    | none => s
  | none => s

/-- One beat of a descriptor: bytes join its packet, a complete packet is written. -/
def doBeat (ch : ChanId) (d : Desc) (s : State) : State :=
  match beatData d with
  | none => s
  | some (a, len, bytes) =>
    let carry := d.carry ++ bytes
    if carry.length < len then setDesc ch (trimBuf { d with carry := carry }) s
    else
      let off := d.wrOff + len
      let d' := if dLen d.raw.toNat ≤ off then { d with wrU := d.wrU + 1, wrOff := 0, carry := [], writes := d.writes + 1 }
        else { d with wrOff := off, carry := [], writes := d.writes + 1 }
      let s := setDesc ch (trimBuf d') s
      pumpReq ch d .write a len carry false (.pumpWrite ch d.serial d.wrU d.wrOff) s

/-- PUMP_BEAT (R253, R254). -/
def execPumpBeat (p : PumpId) (s : State) : Host.Outcome State Fault Refusal :=
  .next (
    if !pumpOn s p then s
    else match beatChan s p with
      | none => s
      | some ch => match writeDesc s ch with
        | none => s
        | some d =>
          let s := doBeat ch d s
          let s := setPumpCtr p { pumpCtr s p with last := chanKey ch % 16 } s
          let s := setChan ch { chanOf s ch with waitSince := netCycles s.t s.t.now } s
          issueReads p 64 (checkBad ch (skipUnits ch 65 s)))

/-- PUMP_READ_RETURN's effect (R254, R256): a reply to a discarded read only frees its place. -/
def pumpReadReply (x : Xact) (st : Byte) (data : List Byte) (s : State) : State :=
  let upd (ch : ChanId) (serial : Nat) (f : Desc → Desc) : State :=
    match (chanOf s ch).queue.find? (·.serial == serial) with
    | none => issueReads (chanPump ch) 64 s
    | some d =>
      if x.orphaned then issueReads (chanPump ch) 64 s
      else
      let was := beatReady s ch
      let s := setDesc ch (f d) s
      let s := checkBad ch (skipUnits ch 65 s)
      let s := if !was && beatReady s ch then setChan ch { chanOf s ch with waitSince := netCycles s.t s.t.now } s else s
      issueReads (chanPump ch) 64 s
  let failed (u off : Nat) : BadRead := { u := u, off := off, st := st, quiet := if x.ra then some (x.addr, x.len) else none }
  match x.use with
  | .pumpRead ch serial u off =>
    upd ch serial fun d => if st = 0x00 then { d with buf := d.buf ++ [(u, off, data)] } else { d with bad := d.bad ++ [failed u off] }
  | .pumpIndex ch serial first =>
    upd ch serial fun d =>
      if st ≠ 0x00 then { d with bad := d.bad ++ [failed first 0] }
      else
        let w := dIdxBytes d.raw.toNat
        let vs := (List.range (data.length / w)).map fun i => (first + i, BitVec.ofNat 64 (leNat ((data.drop (w * i)).take w)))
        { d with idx := vs.foldl (fun m v => m.set none v.1 (some v.2)) d.idx }
  | _ => s

/-- PUMP_READ_RETURN (R254). -/
def execPumpReadReturn (id : Nat) (s : State) : Host.Outcome State Fault Refusal :=
  .next (takeReply id (fun u => match u with | .pumpRead _ _ _ _ => true | .pumpIndex _ _ _ => true | _ => false) pumpReadReply s)

/-- PUMP_WRITE_COMPLETE's effect (R255, R256); of a write from before a reset nothing is counted (R258, R387). -/
def pumpWriteReply (x : Xact) (st : Byte) (_ : List Byte) (s : State) : State :=
  match x.use with
  | .pumpWrite ch serial u off =>
    if x.orphaned then s else
    let s := if st = 0x00 then addMoved (chanPump ch) x.len s else s
    match (chanOf s ch).queue.find? (·.serial == serial) with
    | none => s
    | some d =>
      let d := { d with writes := d.writes - 1 }
      let s := setDesc ch d s
      settleHead ch 17 (if st ≠ 0x00 then haltAt ch d st u off s else s)
  | _ => s

/-- PUMP_WRITE_COMPLETE (R255, R256). -/
def execPumpWriteComplete (id : Nat) (s : State) : Host.Outcome State Fault Refusal :=
  .next (takeReply id (fun u => match u with | .pumpWrite _ _ _ _ => true | _ => false) pumpWriteReply s)

/-! ### Descriptors' start and end (R253, R255) -/

/-- Starts the next descriptor where order and FENCE allow (R255). -/
def startDesc (ch : ChanId) (s : State) : State :=
  let r := chanOf s ch
  match r.queue.find? fun d => !d.started with
  | none => s
  | some d =>
    let before := r.queue.filter fun e => e.started
    let idle (e : Desc) : Bool := (e.halted || decide (e.count ≤ e.wrU)) && e.writes == 0
    if r.state = .halted then s
    else if (if dFence d.raw.toNat then before.all idle else before.all fun e => e.halted || readsDone e) then
      setDesc ch { d with started := true } (setChan ch { r with state := .running } s)
    else s

/-- PUMP_DESCRIPTOR_START (R253, R255). -/
def execPumpDescriptorStart (ch : ChanId) (s : State) : Host.Outcome State Fault Refusal :=
  .next (if pumpOn s (chanPump ch) then issueReads (chanPump ch) 64 (startDesc ch s) else s)

/-- PUMP_DESCRIPTOR_COMPLETE (R255, R206): in descriptor order; with NOTIFY it ends when the
notification is answered (R256). -/
def execPumpDescriptorComplete (ch : ChanId) (s : State) : Host.Outcome State Fault Refusal :=
  .next (
    let s := skipUnits ch 65 s
    match (chanOf s ch).queue with
    | d :: _ =>
      if d.started && !d.halted && decide (d.count ≤ d.wrU) && d.writes == 0 && !d.noteSent then
        if dNotify d.raw.toNat then sendNote ch d (setDesc ch { d with noteSent := true } s)
        else finishDesc ch d s
      else s
    | [] => s)

/-! ### Submission (R245, R246) -/

/-- PSUB (R245, R246, R205). -/
def execPsub (x : CtxId) (rs vn : Reg) (s : State) : Host.Outcome State Fault Refusal :=
  .next (issueInstr x [.x rs, .v vn, .v (vn + 1)] (fun s =>
    let w := (xr s x rs).toNat
    let raw := (vr s x vn).toNat + (vr s x (vn + 1)).toNat * 2 ^ 256
    let pc := (ctxRec s x).pc
    let far := farAddr s (BitVec.ofNat 64 (dSrc raw)) || farAddr s (BitVec.ofNat 64 (dDst raw)) ||
      (dIndexed raw && farAddr s (BitVec.ofNat 64 (dIndex raw)))
    if vn.val % 2 = 1 then illegal x s
    else if !fenceOk s x .release (if far then .g else .m) then s
    else
      let ch : ChanId := if bit w 4 then .stack (Fin.ofNat 48 (fld w 5 6)) (Fin.ofNat 16 w) else .cluster x.c (Fin.ofNat 8 w)
      let r := chanOf s ch
      let refuse (st : Byte) : State := accessTrap x st pc (chanAddr ch) (retire x s)
      let selBad : Bool := fld w 11 53 != 0 || (if bit w 4 then decide (48 ≤ fld w 5 6) else fld w 5 6 != 0 || bit w 3)
      if selBad then refuse 0x03
      else if bit w 4 && (r.owner.isNone || r.owner != owner s x.c) then refuse 0x04
      else if bit w 4 && !pumpOn s (chanPump ch) then refuse 0x09
      else if !descOk s raw then refuse 0x03
      else if chanQueue ch ≤ r.queue.length then (if bit w 4 then refuse 0x0E else s)
      else match owner s x.c with
        | none => refuse 0x04
        | some p =>
          let d : Desc := { serial := s.pump.nextSerial, raw := BitVec.ofNat 512 raw, part := p }
          let s := { s with pump := { s.pump with nextSerial := s.pump.nextSerial + 1 } }
          retire x (setChan ch { r with queue := r.queue ++ [d], state := if r.state = .idle then .running else r.state } s)) s)

/-! ### Commands (R256, R257) -/

/-- Permission to a channel's registers: a cluster pump's stay reachable while its compute is off
(R243, R257). -/
def chanPerm (s : State) (who : Requester) (ch : ChanId) : Byte :=
  let own := match ch with | .cluster c _ => owner s c | .stack _ _ => (chanOf s ch).owner
  let mine : Bool := match who with
    | .wellhead none => true
    | .wellhead (some p) => own == some p
    | .core x => own.isSome && owner s x.c == own
    | .config c => (match ch with | .cluster d _ => c == d | _ => false)
    | _ => false
  if !mine then 0x04
  else if (match own with | some p => partResetting s p | none => false) then 0x05
  else if !pumpOn s (chanPump ch) then 0x09
  else 0x00

/-- A CH_CMD write with CMD forced to the row's command. -/
def chanCmd (who : Requester) (ch : ChanId) (v : Word) (f : ChanRec → State → Byte × State) (s : State) : State :=
  let st := chanPerm s who ch
  if st ≠ 0x00 then reply st s
  else
    let r : Byte × State := if fld v.toNat 2 62 ≠ 0 then (0x03, s) else f (chanOf s ch) s
    reply 0x00 (setChan ch { chanOf r.2 ch with cmdStatus := r.1 } r.2)

/-- PUMP_RESTART (R256): the failed descriptor is dropped, and leaves once its writes are out; the channel goes on. -/
def execPumpRestart (who : Requester) (ch : ChanId) (v : Word) (s : State) : Host.Outcome State Fault Refusal :=
  .next (chanCmd who ch v (fun r s =>
    if r.state ≠ .halted then (0x04, s)
    else (0x00, issueReads (chanPump ch) 64 (settleHead ch 17 (setChan ch { r with
      state := .running, queue := r.queue.map fun d => { d with dropped := d.halted } } s)))) s)

/-- Aborts a channel: every descriptor is discarded, notified if asked (R256). -/
def abortChan (ch : ChanId) (loud : Bool) (s : State) : State :=
  let q := (chanOf s ch).queue
  let s := q.foldl (fun s d => discardReads ch d s) s
  let s := if loud then q.foldl (fun s d => if dNotify d.raw.toNat && !d.noteSent then sendNote ch d s else s) s else s
  let r := chanOf s ch
  match q.getLast? with
  | some d => setChan ch { r with queue := [], state := .idle, lastStatus := 0x0B, lastTag := d.tag } s
  | none => setChan ch { r with state := .idle } s

/-- PUMP_ABORT (R256). -/
def execPumpAbort (who : Requester) (ch : ChanId) (v : Word) (s : State) : Host.Outcome State Fault Refusal :=
  .next (chanCmd who ch v (fun r s =>
    if r.state = .idle then (0x04, s) else (0x00, abortChan ch true s)) s)

/-- Resets a channel's registers without notifications; a binding survives. Its writes under way complete, and their
replies are not consumed (R258, R387). -/
def resetChan (ch : ChanId) (s : State) : State :=
  let o := (chanOf s ch).owner
  let s := setChan ch { owner := o } (abortChan ch false s)
  let mine (t : Xact) : Bool := match t.use with | .pumpWrite c _ _ _ => c == ch | _ => false
  { s with net := { s.net with xacts := s.net.xacts.map fun t => if mine t then { t with orphaned := true } else t } }

/-- The pump's part of a cluster compute reset (R258). -/
def resetClusterPump (c : Cl) (s : State) : State :=
  let s := (pumpChans (.cluster c)).foldl (fun s ch => resetChan ch s) s
  setPumpCtr (.cluster c) {} s

end Sys2Proof.Machine
end

