-- ==== Sys2Proof/Machine/Fence.lean ====
section
/-! DEFINITION. The cluster compute reset, fencing of units, and the start of a route epoch change
(spec/08_mesh.md R221-R235, 14_partitions_and_reset.md R383, 19_faults.md R482-R485). -/

namespace Sys2Proof.Machine

open Sys2Proof

/-! ### Cluster compute reset (R96, R152, R183, R258, R269, R287, R383 kind 2) -/

/-- The array's part: IDLE, slots FREE, tokens and the pending request dropped, tile state cleared;
generators and memory-tile contents stay (R96, R155). -/
def resetArray (c : Cl) (s : State) : State :=
  let s := setArr c {} s
  let s := (allTiles c).foldl (fun s t =>
    let sf := sfOf s t
    let io := ioOf s t
    setIo t { gen := io.gen, act := io.act } (setSf t { gen := sf.gen, act := sf.act }
      (setMemTile t {} (setMul t {} (setTile t {} s))))) s
  let dropIo (x : Xact) : Xact :=
    match x.who with
    | .io d _ => if d = c then { x with use := .drop } else x
    | _ => x
  let dropNote (n : Note) : Note :=
    match n.by_ with
    | .io t => if t.c = c then { n with by_ := .none } else n
    | _ => n
  { s with net := { s.net with xacts := s.net.xacts.map dropIo }, sync := { s.sync with notes := s.sync.notes.map dropNote } }

/-- A barrier record after a cluster compute reset (R269). -/
def BarRec.clear (r : BarRec) : BarRec := { r with arrived := 0, held := false }

/-- The synchronisation block's part (R287): endpoints close first, telling their peers (R278). -/
def resetSync (c : Cl) (s : State) : State :=
  let es := s.sync.eps.filterMap fun e => if e.1 / 256 = ck c then some (Fin.ofNat 256 e.1) else none
  let s := es.foldl (fun s e => setEp c e.val {} (closeEp c e s)) s
  let elsewhere (w : Waiter) : Bool :=
    match w with
    | .ctx x => x.c ≠ c
    | .io d _ => d ≠ c
  { s with sync := { s.sync with
    objs := s.sync.objs.filter fun e => e.1 / 1024 ≠ ck c
    bars := s.sync.bars.map fun e => if e.1 / 32 = ck c then (e.1, e.2.clear) else e
    combiner := s.sync.combiner.set [] (ck c) []
    regs := s.sync.regs.set {} (ck c) {}
    reported := s.sync.reported.filter elsewhere } }

/-- Cluster compute reset. -/
def clusterReset (c : Cl) (s : State) : State :=
  let s := resetClusterPump c (resetSync c (resetArray c (resetCores c s)))
  { s with num := { s.num with region := s.num.region.set 0x1F (ck c) 0x1F } }

/-- Zeroing of a cluster's cistern, core local memories and memory tiles (R337, R386). -/
def zeroCluster (c : Cl) (s : State) : State :=
  let inC (k : Nat) : Bool := k % 2 ^ 38 / 2 ^ 22 = ck c
  { s with mem := { s.mem with
    sram := s.mem.sram.filter fun e => !inC e.1
    sramErr := s.mem.sramErr.filter fun e => !inC (8 * e.1) } }

/-! ### Route banks (R220, R221, R229, R230) -/

/-- The number of the crossing that runs the other way. -/
def crossBack (k : Nat) : Nat :=
  let wx := k / 128
  let w := wx / 2
  let w' := if wx % 2 = 0 then (if w % 2 = 0 then w + 1 else w - 1) else (w + 2) % 4
  (w' * 2 + wx % 2) * 128 + k % 128

/-- A lane is out of service: dry, and no spare in service stands in for it (R229). -/
def laneOut (s : State) (wx lane : Nat) : Bool :=
  s.net.dry.lanes.get false (wx * 256 + lane) &&
    s.net.spares.get none (wx * 16 + lane / 16) != some (lane, true)

/-- Crossings with both lanes of one direction out of service, or with their control bus lost, each
with its other direction (R230). -/
def lostCrossings (s : State) : List Nat :=
  let byLane := s.net.dry.lanes.filterMap fun e =>
    let wx := e.1 / 256
    let l := e.1 % 256
    if l % 2 = 0 && l < 192 && laneOut s wx l && laneOut s wx (l + 1) then some (wx * 128 + l / 2) else none
  let all := byLane ++ s.net.busLost.map (·.1)
  (all ++ all.map crossBack).eraseDups

/-- The root of the connected set: the wellhead of w0, else of the lowest wafer that has one (R221). -/
def meshRoot (s : State) : Option Cl :=
  ([0, 1, 2, 3] : List (Fin 4)).findSome? fun w => wellheadOf s w

/-- Both ends of a crossing. -/
def crossEnds (k : Nat) : List Cl :=
  let wx := k / 128
  let w := wx / 2
  let i := k % 128
  let e := if wx % 2 = 0 then (w * 16384 + i * 128 + (if w % 2 = 0 then 95 else 0)) else (w * 16384 + (if w < 2 then 95 else 0) * 128 + i)
  (clOfKey e).toList

/-- The bed of a router, by the cluster number of its first cluster (R13). -/
def bedKey (k : Nat) : Nat := k / 512 * 512 + k % 128 / 4 * 4

/-- The routers of a bed, by cluster number. -/
def bedRouters (bed : Nat) : List Nat := (List.range 16).map fun i => bed + i / 4 * 128 + i % 4

/-- Per-cluster exceptions of a bank (R219). -/
def bankExceptions : Nat := 64

/-- Fits the UNREACHABLE routers into a bank's entries (R219, R221): a bed of which some routers are live and some not
takes an exception for each of the fewer, and a bed for which no exceptions are left is UNREACHABLE as a whole; beds are
taken in the order of their losses, that of the root never left out. Which beds Atbin gives up, and how it packs the
entries of routes that leave XY, the spec does not say (DESIGN CHOICE, log entry 148). -/
def packBank (b : Bank) : Bank :=
  let beds := (b.dead.map bedKey).eraseDups
  let r := beds.foldl (fun (acc : Nat × List Nat) bed =>
    let live := (bedRouters bed).filter fun k => !b.dead.contains k
    let need := min live.length (16 - live.length)
    if acc.1 + need ≤ bankExceptions ∨ (b.root.map fun c => bedKey (ck c)) = some bed then (acc.1 + need, acc.2)
    else (acc.1, acc.2 ++ live)) (0, [])
  { b with dead := b.dead ++ r.2 }

/-- The clusters that a map shows as wellheads: those that run and those that are loaded in place of lost ones. -/
def wellKeys (s : State) : List Nat :=
  ((List.finRange 4).filterMap fun w => (wellheadOf s w).orElse fun _ => s.boot.loading.get none w.val).map ck

/-- The bank of the coming epoch: dead and dark routers, those they cut off, those that do not fit, and lost
crossings. -/
def buildBank (s : State) : Bank :=
  let dead := s.net.dry.clusters.filterMap fun e => if 2 ≤ e.2.val then some e.1 else none
  let b : Bank := { dead := dead, lost := lostCrossings s, root := meshRoot s }
  let near := (dead.filterMap clOfKey).flatMap (fun c => ([0, 1, 2, 3] : List (Fin 4)).filterMap (nbr c)) ++
    b.lost.flatMap crossEnds
  let cut := near.foldl (fun (l : List Nat) c =>
    if dead.contains (ck c) || l.contains (ck c) then l else l ++ enclosed b (meshRoot s) c) []
  packBank { b with dead := dead ++ cut }

/-! ### Starting a route epoch change (R233, R235) -/

/-- The route epoch at which a fence made now applies. -/
def applyEpoch (s : State) : Nat := s.net.routeEpoch + (if s.net.stage = .none then 1 else 2)

def setDry (f : DryMap → DryMap) (s : State) : State := { s with net := { s.net with dry := f s.net.dry } }

def clDry (c : Cl) (st : Fin 4) (s : State) : State :=
  setDry (fun d => { d with clusters := d.clusters.set 0 (ck c) st }) s

/-- A cluster of a field that goes dark; what it was is kept for a bring-up that restores the field (R400). -/
def clDark (c : Cl) (s : State) : State :=
  let old := clState s c
  if old = 3 then s else setDry (fun d => { d with beneath := d.beneath.set 0 (ck c) old }) (clDry c 3 s)

/-- UNIT_FENCED (R372). -/
def fencedEvent (unit : BitVec 32) (ps : List (Fin 64)) (cause epoch : Nat) (s : State) : State :=
  postTo .unitFenced unit ps false (moduleTide s) ([BitVec.ofNat 8 cause, 0] ++ leBytes 2 epoch) s

/-- Routers cut off by the coming bank read ROUTER_DEAD, with UNIT_FENCED cause 3 (R221). -/
def markCut (b : Bank) (s : State) : State :=
  b.dead.foldl (fun s k =>
    match clOfKey k with
    | none => s
    | some c =>
      if 2 ≤ (clState s c).val then s
      else fencedEvent (clUnit c) (owner s c).toList 3 (s.net.routeEpoch + 1) (clDry c 2 s)) s

/-- Starts a change of epoch; during one, the fault waits for the next (R233, R235). -/
def startEpoch (s : State) : State :=
  if s.net.stage = .none then
    let b := buildBank s
    let s := markCut b s
    { s with net := { s.net with stage := .computing, standby := some b, coming := s.net.dry } }
  else { s with net := { s.net with again := true } }

/-! ### Lost wafers (R488, R489) -/

/-- What compute held is lost with its rail: the clusters' memories (R314). -/
def loseFieldMem (f : Fin 192) (s : State) : State := (fieldClusters f).foldl (fun s c => zeroCluster c s) s

/-- A field is left dark by a test: its routers do not run (R394). -/
def bootDark (cause : Nat) (s : State) (f : Fin 192) : State :=
  let s := setField f { fieldRec s f with state := .dark, cause := BitVec.ofNat 4 cause, latchN := cause == 4 } s
  (fieldClusters f).foldl (fun s c =>
    let s := clDark c s
    { s with net := { s.net with deadRouters := s.net.deadRouters.set false (ck c) true } }) s

/-- Fields of a wafer. -/
def waferFields (w : Fin 4) : List (Fin 192) := (List.range 48).map fun i => Fin.ofNat 192 (48 * w.val + i)

/-- A wafer has no rails, or no wellhead: all of it is dark (R18, R394, R489). -/
def bootWaferLost (s : State) (w : Fin 4) : State :=
  let s := (waferFields w).foldl (bootDark 0) s
  { s with pwr := { s.pwr with lostWafers := if s.pwr.lostWafers.contains w then s.pwr.lostWafers else s.pwr.lostWafers ++ [w] } }

/-- The wafers lost for want of a wellhead go dark with the epoch whose bank holds them (R489). -/
def dropDoomed (b : Bank) (s : State) : State :=
  let gone := s.boot.doomed.filter fun w => b.dead.contains (ck ⟨w, 0, 0⟩)
  gone.foldl (fun s w =>
    let s := bootWaferLost ((waferFields w).foldl (fun s f => loseFieldMem f s) s) w
    { s with t := { s.t with unlocked := s.t.unlocked.filter fun f => f.val / 48 ≠ w.val }
             boot := { s.boot with doomed := s.boot.doomed.filter (· ≠ w) } }) s

/-! ### Fencing (R482, R483) -/

/-- Partitions that a stack serves: those that hold one of its pages or a channel of its pump (R483). -/
def stackParts (s : State) (st : Fin 48) : List (Fin 64) :=
  (s.mem.pages.filterMap (fun e => if e.1 / 64 = st.val then e.2.holder else none) ++
   s.pump.chans.filterMap (fun e => if e.1 / 16 = 2 ^ 26 + st.val then e.2.owner else none)).eraseDups

/-- Fences a cluster's compute: cluster compute reset, then Off; its memories are lost (R483). -/
def fenceCluster (c : Cl) (cause : Nat) (s : State) : State :=
  if !clLive s c then s
  else
    let e := applyEpoch s
    let s := setSleep c .off (zeroCluster c (clusterReset c s))
    fencedEvent (clUnit c) (owner s c).toList cause e (startEpoch (clDry c 1 s))

/-- A core of a cluster stops: its contexts that run or wait become STOPPED, one notification each
(R483). -/
def stopCore (c : Cl) (k : Fin 24) (s : State) : State :=
  (coreCtxs c k).foldl (fun s x =>
    let r := ctxRec s x
    if r.state = .ready ∨ r.state = .waiting then
      let s := endRunahead x (dropEntries x (endWait x (unwait (.ctx x) s)))
      let s := updCtx x (fun r => { r with state := .stopped, trapped := false }) s
      let g := coreRec s c k.val
      if g.note then notify c ⟨k.val, g.noteObj.toNat⟩ 1 s else s
    else s) s

def dryCores (s : State) (c : Cl) : Nat := (List.range 24).countP fun k => s.net.dry.cores.get false (ok c k)
def dryTiles (s : State) (c : Cl) : Nat := (List.range 32).countP fun t => s.net.dry.tiles.get false (ck c * 32 + t)

/-- Fences a core; more than 4 dry cores fence the cluster (R482, R483). -/
def fenceCore (c : Cl) (k : Fin 24) (cause : Nat) (s : State) : State :=
  if dryCore s c k.val then s
  else
    let e := applyEpoch s
    let s := stopCore c k s
    let s := setDry (fun d => { d with cores := d.cores.set false (ok c k.val) true }) s
    let s := fencedEvent (coreUnit c k.val) (owner s c).toList cause e (startEpoch s)
    if 4 < dryCores s c then fenceCluster c cause s else s

/-- A slot's record of a tile is in use, or a neighbour's record names one of its rills (R483). -/
def slotUses (s : State) (t : TileId) (i : Fin 4) : Bool :=
  let n := slotRec s t i
  hKind n != 0 || anyRouting n ||
    dirs.any fun d =>
      match tileNbr t d with
      | none => false
      | some u => activeOut (slotRec s u i) (opp d) || activeIn (slotRec s u i) (opp d)

/-- Fences a tile: a running array freezes with cause 3 and posts ARRAY_STALL (R92), LOADED slots that use it become FREE; more
than 4 dry tiles fence the cluster (R482, R483). -/
def fenceTile (t : TileId) (cause : Nat) (s : State) : State :=
  if tileDry s t then s
  else
    let e := applyEpoch s
    let a := arrOf s t.c
    let s := if a.state = .running ∨ a.state = .switching then stallArr t.c 3 1 (tileUnit t) s else s
    let free (v : Vector SlotState 4) (i : Fin 4) : SlotState := if v[i] == .loaded && slotUses s t i then .free else v[i]
    let s := updArr t.c (fun a => { a with slots := Vector.ofFn (free a.slots) }) s
    let s := setDry (fun d => { d with tiles := d.tiles.set false (tk t) true }) s
    let s := fencedEvent (tileUnit t) (owner s t.c).toList cause e (startEpoch s)
    if 4 < dryTiles s t.c then fenceCluster t.c cause s else s

/-- A router that is fenced or dies: its cluster's compute is fenced too, and it forwards nothing more
(R237, R482, R483). -/
def fenceRouter (c : Cl) (cause : Nat) (s : State) : State :=
  if 2 ≤ (clState s c).val then s
  else
    let e := applyEpoch s
    let s := setSleep c .off (zeroCluster c (clusterReset c s))
    let s := { s with net := { s.net with deadRouters := s.net.deadRouters.set false (ck c) true } }
    fencedEvent (clUnit c) (owner s c).toList cause e (startEpoch (clDry c 2 s))

/-- A stack becomes dry (R482, R485). -/
def fenceStack (st : Fin 48) (cause : Nat) (s : State) : State :=
  if s.net.dry.stk.getLsbD st.val then s
  else
    let e := applyEpoch s
    let s := setDry (fun d => { d with stk := d.stk ||| (1 <<< st.val) }) s
    fencedEvent (stackUnit st) (stackParts s st) cause e (startEpoch s)

/-- An Ocsal port becomes dry and goes dark (R25, R482). -/
def fencePort (p : Fin 16) (cause : Nat) (s : State) : State :=
  if portDry s p then s
  else
    let e := applyEpoch s
    let s := setDry (fun d => { d with ocsal := d.ocsal ||| (1 <<< p.val) }) s
    let s := portDark p 1 s
    fencedEvent (portUnit p) (portRec s p).bound.toList cause e (startEpoch s)

/-- Unit identifier of an aqueduct lane (R20). -/
def laneUnit (w : Fin 4) (x : Fin 2) (lane : Nat) : BitVec 32 :=
  let i := if lane < 192 then lane / 2 else 8 * (lane - 192)
  let cx := if x = 0 then (if w.val % 2 = 0 then 95 else 0) else i
  let cy := if x = 0 then i else (if w.val < 2 then 95 else 0)
  unitId 6 w.val cy cx (256 * x.val + lane)

/-- A lane goes out of service (R229, R482). -/
def fenceLane (w : Fin 4) (x : Fin 2) (lane cause : Nat) (s : State) : State :=
  let k := (w.val * 2 + x.val) * 256 + lane
  if s.net.dry.lanes.get false k then s
  else
    let e := applyEpoch s
    let s := setDry (fun d => { d with lanes := d.lanes.set false k true }) s
    fencedEvent (laneUnit w x lane) [] cause e (startEpoch s)

/-- Lanes in service in a router's crossing, one direction. -/
def lanesActive (s : State) (wx i : Nat) : Nat := (if laneOut s wx (2 * i) then 0 else 1) + (if laneOut s wx (2 * i + 1) then 0 else 1)

/-- Lane replacement, steps 1 and 2 (R229): the lane is fenced, LINK_DOWN is posted, and the group's free spare starts to
train; a spare that fails stands in for nothing any more. -/
def laneFail (w : Fin 4) (x : Fin 2) (lane reason cause : Nat) (s : State) : State :=
  let wx := w.val * 2 + x.val
  if s.net.dry.lanes.get false (wx * 256 + lane) then s
  else
    let g := if lane < 192 then lane / 16 else lane - 192
    let key := wx * 16 + g
    let spare := s.net.spares.get none key
    let starts : Bool := decide (lane < 192) && spare.isNone && !s.net.dry.lanes.get false (wx * 256 + 192 + g)
    let take : Option (Nat × Bool) := if 192 ≤ lane then none else if starts then some (lane, false) else spare
    let s := { s with net := { s.net with
      spares := s.net.spares.set none key take
      spareAt := s.net.spareAt.set 0 key (if starts then s.t.now + usec 20 else s.net.spareAt.get 0 key) } }
    let s := fenceLane w x lane cause s
    let at_ := match spare with | some (l, _) => (if lane < 192 then lane else l) | none => lane
    postTo .linkDown (laneUnit w x lane) [] false (moduleTide s)
      ([0, BitVec.ofNat 8 reason] ++ leBytes 2 (if at_ < 192 then lanesActive s wx (at_ / 2) else 0)) s

/-! ### Thresholds (R482, R485) -/

/-- Notes a strike against a unit and answers whether `limit` of them (of distinct data if asked) have
come within the span. -/
def strike (key datum span limit : Nat) (distinct : Bool) (s : State) : Bool × State :=
  let l := (s.boot.badReads.filter fun e => e.1 ≠ key || s.t.now < e.2.2 + span) ++ [(key, datum, s.t.now)]
  let mine := (l.filter fun e => e.1 = key).map (·.2.1)
  (limit ≤ (if distinct then mine.eraseDups else mine).length,
   { s with boot := { s.boot with badReads := l } })

/-- 1 h and 24 h (R482). -/
def hour : Nat := usec 3600000000
def day : Nat := 24 * hour

/-- Retires a stack page: UNIT_FENCED cause 6; its accesses go on; more than 8 within 24 h fence the
stack (R482, R485). -/
def retirePage (st : Fin 48) (page : Nat) (s : State) : State :=
  let key := st.val * 64 + page
  if s.boot.retired.contains key then s
  else
    let r := s.mem.pages.get {} key
    let s := { s with
      boot := { s.boot with retired := s.boot.retired ++ [key] }
      mem := { s.mem with pages := s.mem.pages.set {} key { r with dry := true } } }
    let s := postTo .unitFenced (stackUnit st) r.holder.toList false (moduleTide s)
      (([6, 0] : List Byte) ++ leBytes 2 s.net.routeEpoch ++ leBytes 4 page ++
       leBytes 4 (match r.holder with | some _ => r.index | none => 0xFFFFFFFF) ++
       [match r.holder with | some p => BitVec.ofNat 8 p.val | none => 0xFF]) s
    let k := strike (2 ^ 42 + st.val) page day 9 true s
    if k.1 then fenceStack st 1 k.2 else k.2

/-- An uncorrectable read of SRAM: two distinct words within 24 h fence the core, the memory tile, or
the cluster of the cistern bank (R178, R482). -/
def badSram (a : Word) (s : State) : State :=
  match addrCl a with
  | none => s
  | some c =>
    let off := fld a.toNat 0 22
    match addrSpace a with
    | 1 =>
      let k := strike (2 ^ 40 + ck c * 64 + off / 16 % 32) (off / 8) day 2 true s
      if k.1 && !isWellhead s c then fenceCluster c 1 k.2 else k.2
    | 2 =>
      let core := Fin.ofNat 24 (fld a.toNat 16 5)
      let k := strike (coreUnit c core.val).toNat (off / 8) day 2 true s
      if k.1 && !isWellhead s c then fenceCore c core 1 k.2 else k.2
    | _ =>
      match ((List.finRange 32).find? fun t => tileKind t = 3 && memNum t = fld a.toNat 17 4) with
      | none => s
      | some t =>
        let k := strike (tileUnit ⟨c, t⟩).toNat (off / 8) day 2 true s
        if k.1 && !isWellhead s c then fenceTile ⟨c, t⟩ 1 k.2 else k.2

/-- A corrected error of SRAM: 64 in one bank (R124, R178) within 1 h fence a memory tile or a
cistern's cluster (R482). -/
def correctedSram (a : Word) (s : State) : State :=
  match addrCl a with
  | none => s
  | some c =>
    let off := fld a.toNat 0 22
    match addrSpace a with
    | 1 =>
      let k := strike (2 ^ 43 + ck c * 64 + off / 16 % 32) 0 hour 64 false s
      if k.1 && !isWellhead s c then fenceCluster c 1 k.2 else k.2
    | 3 =>
      match ((List.finRange 32).find? fun t => tileKind t = 3 && memNum t = fld a.toNat 17 4) with
      | none => s
      | some t =>
        let k := strike (2 ^ 44 + tk ⟨c, t⟩ * 4 + off / 32 % 4) 0 hour 64 false s
        if k.1 && !isWellhead s c then fenceTile ⟨c, t⟩ 1 k.2 else k.2
    | _ => s

/-- An uncorrectable read of a stack: two distinct halves of a page within 24 h retire it. -/
def badStack (st : Fin 48) (phys : Nat) (s : State) : State :=
  let k := strike (2 ^ 41 + st.val * 64 + phys / 2 ^ 30) (phys / 32) day 2 true s
  if k.1 then retirePage st (phys / 2 ^ 30) k.2 else k.2

/-- Holds the strikes of the last accesses against the thresholds of R482. -/
def settle (s : State) : State :=
  if s.boot.struck.isEmpty then s
  else
    s.boot.struck.foldl (fun s e =>
      match e.1, e.2.1 with
      | true, true => badStack (Fin.ofNat 48 (32 * e.2.2 / 2 ^ 36)) (32 * e.2.2 % 2 ^ 36) s
      | true, false => s
      | false, true => badSram (sramUnitAddr e.2.2) s
      | false, false => correctedSram (sramUnitAddr e.2.2) s) { s with boot := { s.boot with struck := [] } }

/-- CLUSTER_UNIT_FAILURE (R482). -/
def execClusterUnitFailure (c : Cl) (u : FailUnit) (s : State) : Host.Outcome State Fault Refusal :=
  .next (
    if isWellhead s c then s
    else match u with
      | .tileParity t => if tileKind t = 0 then s else fenceTile ⟨c, t⟩ 1 s
      | .coreRegs k => fenceCore c k 1 s
      | .pump => fenceCluster c 1 s
      | .objectUnit => fenceCluster c 1 s
      | .combiner => fenceCluster c 1 s
      | .configPath => fenceCluster c 1 s)

end Sys2Proof.Machine
end

