-- ==== Sys2Proof/Machine/Functions.lean ====
section
/-! DEFINITION. The functions of a special-function tile whose FP32 result the spec bounds without fixing it
(spec/04_array_tiles.md R109, R110). Each is worked out to 320 fraction bits, far finer than the bounds; the result is any
FP32 value within the bound, taken from a free value. -/

namespace Sys2Proof.Machine

open Sys2Proof

/-! ### Fixed point with 320 fraction bits -/

/-- One. -/
def fxOne : Int := ((2 ^ 320 : Nat) : Int)

def fxMul (a b : Int) : Int := a * b / fxOne

def fxDiv (a b : Int) : Int := a * fxOne / b

/-- `m * 2^k` as fixed point. -/
def fxScaled (m : Int) (k : Int) : Int :=
  if 0 ≤ k + 320 then m * ((2 ^ (k + 320).toNat : Nat) : Int) else m / ((2 ^ (-(k + 320)).toNat : Nat) : Int)

/-- A finite value as fixed point, exact for every FP32 value. -/
def fxOf : Val → Int
  | .fin n m e => fxScaled (if n then -(m : Int) else m) e
  | _ => 0

/-- A fixed-point number as a value. -/
def fxVal (z : Int) : Val := .fin (decide (z < 0)) z.natAbs (-320)

/-- Twice the inverse hyperbolic tangent of `t`, for `t` up to 1/3: twice the sum of `t^(2i+1) / (2i+1)`. -/
def fxAtanh2 (t : Int) : Int :=
  let q := fxMul t t
  2 * ((List.range 110).foldl (fun (a : Int × Int) (i : Nat) => (a.1 + a.2 / (2 * i + 1), fxMul a.2 q)) (0, t)).1

/-- The natural logarithm of 2. -/
def fxLn2 : Int := fxAtanh2 (fxOne / 3)

/-- The arc tangent of `1 / n`. -/
def fxAtanInv (n : Int) : Int :=
  ((List.range 80).foldl (fun (a : Int × Int) (i : Nat) =>
    (if i % 2 = 0 then a.1 + a.2 / (2 * i + 1) else a.1 - a.2 / (2 * i + 1), a.2 / (n * n))) (0, fxOne / n)).1

/-- π. -/
def fxPi : Int := 16 * fxAtanInv 5 - 4 * fxAtanInv 239

/-- Square root of a number that is not negative. -/
def fxSqrt (a : Int) : Int := (isqrt (a.toNat * 2 ^ 320) 400 0 : Nat)

/-- `e^r` for `r` in [0, 1), by its series. -/
def fxExpSmall (r : Int) : Int :=
  (List.range 80).foldr (fun (i : Nat) (acc : Int) => fxOne + fxMul r acc / ((i : Int) + 1)) fxOne

/-- `e^z` for `z` up to 400; 0 where it is far below every FP32 value. -/
def fxExp (z : Int) : Int :=
  if z < -400 * fxOne then 0
  else
    let k := z / fxLn2
    let y := fxExpSmall (z - k * fxLn2)
    if 0 ≤ k then y * ((2 ^ k.toNat : Nat) : Int) else y / ((2 ^ (-k).toNat : Nat) : Int)

/-- The natural logarithm of `m * 2^e`, for `m > 0`. -/
def fxLog (m : Nat) (e : Int) : Int :=
  let l := flog2 m
  let y := fxScaled m (-l)
  (e + l) * fxLn2 + fxAtanh2 (fxDiv (y - fxOne) (y + fxOne))

/-- Sine and cosine of an angle in [0, π/2]. -/
def fxSinCos (r : Int) : Int × Int :=
  let q := fxMul r r
  let s := (List.range 60).foldl (fun (a : Int × Int) (i : Nat) => (a.1 + a.2, -(fxMul a.2 q / ((2 * i + 2) * (2 * i + 3))))) (0, r)
  let c := (List.range 60).foldl (fun (a : Int × Int) (i : Nat) => (a.1 + a.2, -(fxMul a.2 q / ((2 * i + 1) * (2 * i + 2))))) (0, fxOne)
  (s.1, c.1)

/-- The sine of `x`, `turn` quarter turns further on. -/
def fxSin (x : Int) (turn : Int) : Int :=
  let q := x / (fxPi / 2)
  let p := fxSinCos (x - q * (fxPi / 2))
  match ((q + turn) % 4).toNat with
  | 0 => p.1
  | 1 => p.2
  | 2 => -p.1
  | _ => -p.2

/-- The logistic function of `x`: `1 / (1 + e^-x)`. -/
def fxSigmoid (x : Int) : Int :=
  if 0 ≤ x then fxDiv fxOne (fxOne + fxExp (-x))
  else
    let e := fxExp x
    fxDiv e (fxOne + e)

/-- The share of the normal distribution at or below `x`: one half and the density times the sum of
`x^(2i+1) / (1·3·…·(2i+1))`. Beyond 14 it is 1 to within every FP32 bound, below −14 it is below every normal product. -/
def fxNormal (x : Int) : Int :=
  if 14 * fxOne < x then fxOne
  else if x < -14 * fxOne then 1
  else
    let q := fxMul x x
    let sum := ((List.range 520).foldl (fun (a : Int × Int) (i : Nat) => (a.1 + a.2, fxMul a.2 q / (2 * i + 3))) (0, x)).1
    fxOne / 2 + fxMul (fxDiv (fxExp (-(q / 2))) (fxSqrt (2 * fxPi))) sum

/-! ### The functions (R109) -/

/-- The exact value, to 2^-300 of it, of opcodes 0x0C to 0x16 at a finite value. SILU is `x · sigmoid x`, GELU_TANH is
`x/2 · (1 + tanh (√(2/π) (x + 0.044715 x³)))` and GELU_ERF `x/2 · (1 + erf (x/√2))` (PRESUMED, log entry 152). -/
def trueFn (op : Nat) (v : Val) : Val :=
  let x := fxOf v
  let big := 400 * fxOne
  match v with
  | .fin n m e =>
    match op with
    | 0x0C => if big < x then .fin false 1 400 else fxVal (fxExp x)
    | 0x0D => if big < x then .fin false 1 400 else if x < -big then .zero false else fxVal (fxExp (fxMul x fxLn2))
    | 0x0E => fxVal (fxLog m e)
    | 0x0F => fxVal (fxDiv (fxLog m e) fxLn2)
    | 0x10 =>
      let e2 := fxExp (-(2 * if n then -x else x))
      let y := fxDiv (fxOne - e2) (fxOne + e2)
      fxVal (if n then -y else y)
    | 0x11 => fxVal (fxSigmoid x)
    | 0x12 => if big < x then v else fxVal (fxMul x (fxSigmoid x))
    | 0x13 =>
      if 64 * fxOne < x then v
      else if x < -64 * fxOne then .fin true 1 (-300)
      else
        let u := fxMul (fxSqrt (fxDiv (2 * fxOne) fxPi)) (x + fxMul (fxMul x x) x * 44715 / 1000000)
        fxVal (fxMul x (fxSigmoid (2 * u)))
    | 0x14 => if 14 * fxOne < x then v else if x < -14 * fxOne then .fin true 1 (-300) else fxVal (fxMul x (fxNormal x))
    | 0x15 => fxVal (fxSin x 0)
    | _ => fxVal (fxSin x 1)
  | v => v

/-- Bound on the error of an opcode's result `y` at `x`, as fixed point (R109): units in the last place of `y`, or an
absolute error. -/
def fnBound (op : Nat) (x y : Int) : Int :=
  let ulps : Int := if op = 0x12 then 3 else if op = 0x13 ∨ op = 0x14 then 4 else 2
  let ulp := fxScaled 1 (max ((flog2 y.natAbs : Int) - 320 - 23) (-149))
  if (op = 0x0E ∨ op = 0x0F) ∧ 3 * fxOne ≤ 4 * x ∧ 2 * x ≤ 3 * fxOne then fxScaled 1 (-22)
  else if (op = 0x15 ∨ op = 0x16) ∧ 4096 * fxOne < x.natAbs then fxScaled 1 (-20)
  else ulps * ulp

/-- An FP32 code as a plain number: subnormals as they stand, and the codes of the top exponent as one more binade. -/
def plain32 (c : Nat) : Int :=
  let m : Nat := c % 2 ^ 23
  let e : Nat := c / 2 ^ 23 % 2 ^ 8
  let z := if e = 0 then fxScaled m (-149) else fxScaled (2 ^ 23 + m) ((e : Int) - 150)
  if c.testBit 31 then -z else z

/-- The FP32 result of a function at a finite value: any value within its bound of the exact one (a free value), rounded,
flushed and overflowed under R47, R48 and R110. At an infinite one the spec states no result of opcodes 0x10 to 0x14 and
the whole result is free (DESIGN CHOICE, log entry 152). -/
def freeFn (op : Nat) (sat : Bool) (code : BitVec 32) (v : Val) : Num :=
  let f := EFmt.flt fp32
  let c := (Config.special op code).toNat
  match v with
  | .fin _ _ _ =>
    let y := trueFn op v
    let p := plain32 c
    if (p - fxOf y).natAbs ≤ fnBound op (fxOf v) (fxOf y) then (Exact.mk (fxVal p) 0).finish f sat
    else (Exact.mk y 0).finish f sat
  | _ =>
    match f.decode c with
    | .nan => ⟨f.nanCode, false, 4⟩
    | w => w.finish f

end Sys2Proof.Machine
end

