-- ==== Sys2Proof/Machine/Tiles.lean ====
section
/-! DEFINITION. What happens inside multiplier, special-function and memory tiles
(spec/04_array_tiles.md), and the sending of tokens, which feeds a reduction (R112). -/

namespace Sys2Proof.Machine

/-! ### Shared -/

/-- LOCATION of a NaN record for a tile source (R59). -/
def tileLoc (s : State) (t : TileId) (op : Nat) : Word :=
  let r := tileOf s t
  BitVec.ofNat 64 (fld (ctxOf s t) 0 16 + r.slot.val * 2 ^ 16 + r.epoch.toNat * 2 ^ 18 + op * 2 ^ 32)

/-- The token's PRED matches the predicate mode, so its effects apply (R88, R89). -/
def predOk (mode : Nat) (pred : Bool) : Bool :=
  match mode with
  | 1 => pred
  | 2 => !pred
  | _ => true

/-- The tile runs an active context of its kind in a live array. -/
def tileRuns (s : State) (t : TileId) (kind : Nat) : Bool :=
  arrRuns s t.c && tileKind t.t == kind && hKind (ctxOf s t) == kind

/-- A source may begin a new stream: no wavefront is waiting for it (R82). -/
def mayStart (s : State) (t : TileId) : Bool :=
  (arrOf s t.c).state != .switching || (tileOf s t).switched

/-- Adds to a counter that stops at 0xFFFF_FFFF. -/
def satAdd32 (a : BitVec 32) (n : Nat) : BitVec 32 := BitVec.ofNat 32 (min (a.toNat + n) 0xFFFFFFFF)

/-- Reports the NaNs and overflows of an operation's results from a tile (R58, R143). -/
def tileReport (t : TileId) (source op fmt : Nat) (sentinel : Bool) (ns : List Num) (s : State) : State :=
  let nans := ns.filter fun n => n.cause != 0
  let s := match nans with
    | n :: _ => reportNan t.c (.tile t) (tileUnit t) source fmt n.cause (tileLoc s t op) nans.length s
    | [] => s
  if sentinel then reportOvf t.c (tileUnit t) (ns.countP (·.ovf)) s else s

/-- Blocks per group of a split stream (R98). -/
def groupBlocks (b : BFmt) : Nat := if b.cascade then 16 else 32

/-- Scale code and shift byte of entry `g` of a header token (R98). -/
def hdrEntry (b : BFmt) (h : BitVec 256) (g : Nat) : Nat × Nat :=
  if b.cascade then (fld h.toNat (16 * g) 8, fld h.toNat (16 * g + 8) 8) else (fld h.toNat (8 * g) 8, 0)

/-- Blocks in one element token (R97). -/
def blocksPerToken (b : BFmt) : Nat := if b.width = 4 then 2 else 1

/-! ### Multiplier (R100-R107) -/

/-- Element `k` of a row held in two tokens; `blk` is the number of the row's first block in its
segment and `hdrs` that segment's header tokens by group. -/
def rowElem (f : Nat) (toks : List (BitVec 256)) (hdr : Nat → BitVec 256) (blk k : Nat) : Val :=
  let w := fmtBits f
  let ept := elemsPerToken f
  let code := fld (toks.getD (k / ept) 0).toNat (w * (k % ept)) w
  match blockFmt f with
  | some b =>
    let i := blk + k / 32
    let e := hdrEntry b (hdr (i / groupBlocks b)) (i % groupBlocks b)
    b.elemVal e.1 e.2 (k % 32) code
  | none => decodeElem f code

/-- Element `k` of stationary row `n`; rows from N_ROWS on read as zero (R102). -/
def statElem (f nRows : Nat) (ch : Chunk) (n k : Nat) : Val :=
  if nRows ≤ n then .zero false
  else rowElem f (ch.elems.drop (2 * n)) (fun g => ch.hdrs.getD g 0) (n * (mulK f / 32)) k

/-- The chunk takes a header token next (R98). -/
def chunkWantsHdr (f : Nat) (ch : Chunk) : Bool :=
  match blockFmt f with
  | some b => decide (ch.hdrs.length * groupBlocks b ≤ ch.elems.length * blocksPerToken b)
  | none => false

/-- MUL_CHUNK_LOAD (R102). -/
def execMulChunkLoad (t : TileId) (s : State) : Host.Outcome State Fault Refusal :=
  .next <|
    let n := ctxOf s t
    let b := body n
    let f := fld b 0 5
    let rows := fld b 16 4
    let r := mulOf s t
    if tileRuns s t 1 ∧ r.shadow.elems.length < 2 * rows ∧ (!bit b 46 ∨ r.cur.isNone) then
      match operand s t 2 with
      | none => s
      | some tok =>
        let s := takeOperand t 2 s
        let sh : Chunk := if chunkWantsHdr f r.shadow then { r.shadow with hdrs := r.shadow.hdrs ++ [tok.payload] }
          else { r.shadow with elems := r.shadow.elems ++ [tok.payload] }
        if sh.elems.length = 2 * rows ∧ r.cur.isNone then setMul t { r with cur := some sh, shadow := {} } s
        else setMul t { r with shadow := sh } s
    else s

/-- The next cycle of the ramp, from `c` on, in which issue is allowed (R105): `c mod 4 ≤ c div 16`. -/
def rampNext (c : Nat) : Nat := if c % 4 ≤ c / 16 then c else (c / 4 + 1) * 4

/-- The next issue begins a ramp: the tile has not issued for 32 cycles, or not since its activation, RESUME or a restart
of the clock (R105). -/
def rampFresh (s : State) (t : TileId) (r : MulRec) : Bool :=
  match r.lastIssue with
  | some l => decide (l < clockSince s t.c) || decide (256 ≤ (s.t.now - l) * arithK s t.c)
  | none => true

/-- Arithmetic cycles since the ramp began. -/
def rampElapsed (s : State) (t : TileId) (r : MulRec) : Nat := (s.t.now - r.rampFrom.getD s.t.now) * arithK s t.c / 8

/-- The cycle of the ramp in which the next issue falls: the first allowed one after the last issue's that has not passed
(R105); 64 once the ramp is over. -/
def rampCycle (s : State) (t : TileId) (r : MulRec) : Nat :=
  if rampFresh s t r then 0
  else
    let c := max (rampElapsed s t r) (r.ramp + 1)
    if 64 ≤ c then 64 else rampNext c

/-- The issue ramp is in progress (R107 RAMPING). -/
def ramping (s : State) (t : TileId) (r : MulRec) : Bool :=
  r.lastIssue.isSome && r.rampFrom.isSome && decide (rampElapsed s t r < 64)

/-- An issue is counted in its cycle of the ramp, which is waited for (R105; DEDUCED, log entry 160). -/
def rampIssue (t : TileId) (s : State) : State :=
  let r := mulOf s t
  let c := rampCycle s t r
  let start := if rampFresh s t r then s.t.now else r.rampFrom.getD s.t.now
  let s := if c < 64 then waitUntil s (start + (8 * c + arithK s t.c - 1) / max (arithK s t.c) 1) else s
  setMul t { mulOf s t with ramp := c, rampFrom := some start, lastIssue := some s.t.now } s

/-- The header and element tokens that the next issue needs are taken from operand A; a header
costs no cycle (R98, R101). -/
def mulTakeA (t : TileId) (f : Nat) (s : State) : State :=
  let r := mulOf s t
  let blk := r.row * (mulK f / 32)
  let wantsHdr : Bool := match blockFmt f with
    | some b => r.pos == 0 && decide (r.aGroups * groupBlocks b ≤ blk)
    | none => false
  let s := if wantsHdr then
      match operand s t 1 with
      | some tok => setMul t { r with aHdr := tok.payload, aGroups := r.aGroups + 1 } (takeOperand t 1 s)
      | none => s
    else s
  let r' := mulOf s t
  if wantsHdr ∧ r'.aGroups = r.aGroups then s
  else if r'.aRow.length ≤ r'.pos * 2 / mulCycles f then
    match operand s t 1 with
    | some tok => setMul t { r' with aRow := r'.aRow ++ [tok.payload], aPred := tok.pred } (takeOperand t 1 s)
    | none => s
  else s

/-- Sets row `m`'s accumulators from the lanes of a token (R103, R104). -/
def accFrom (acc : SMap (BitVec 32)) (m : Nat) (p : Nat) : SMap (BitVec 32) :=
  (List.range 8).foldl (fun a n => a.set 0 (n * 64 + m) (BitVec.ofNat 32 (fld p (32 * n) 32))) acc

/-- Initialises row `m` at the start of a job (R104); none while operand C is not there. -/
def mulInit (t : TileId) (b : Nat) (s : State) : Option State :=
  let r := mulOf s t
  if r.pass = 0 ∧ r.pos = 0 then
    match fld b 40 2 with
    | 1 => match operand s t 3 with
      | some tok => some (setMul t { r with acc := accFrom r.acc r.row tok.payload.toNat } (takeOperand t 3 s))
      | none => none
    | 2 => some (if r.first then s else setMul t { r with acc := accFrom r.acc r.row 0 } s)
    | _ => some (setMul t { r with acc := accFrom r.acc r.row 0 } s)
  else some s

/-- The partial dots that issue cycle `pos` completes, one for each group of 8 elements and each
stationary row (R51, R101). -/
def mulDots (f rows : Nat) (ch : Chunk) (r : MulRec) : List Flying :=
  let lo := r.pos * mulS f
  let blk := r.row * (mulK f / 32)
  let groups := (List.range (mulK f / 8)).filter fun g => lo < 8 * (g + 1) ∧ 8 * (g + 1) ≤ lo + mulS f
  groups.flatMap fun g => (List.range 8).map fun n =>
    ⟨n, r.row, dotV ((List.range 8).map fun i =>
      (rowElem f r.aRow (fun _ => r.aHdr) blk (8 * g + i), statElem f rows ch n (8 * g + i)))⟩

/-- Moves on to the next cycle, row, pass and job (R101, R102, R103). -/
def mulAdvance (f b : Nat) (r : MulRec) : MulRec :=
  let mRows := fld b 8 7
  let passes := fld b 24 16
  let rows := fld b 16 4
  if r.pos + 1 < mulCycles f then { r with pos := r.pos + 1 }
  else
    let r := { r with
      pos := 0
      aRow := []
      drains := if r.pass + 1 = passes then r.drains ++ [Drain.mk r.row r.aPred (r.row + 1 == mRows)] else r.drains }
    if r.row + 1 < mRows then { r with row := r.row + 1 }
    else
      let r := { r with row := 0, aGroups := 0 }
      let r := if r.pass + 1 < passes then { r with pass := r.pass + 1 } else { r with pass := 0, first := false }
      if bit b 46 then r
      else if r.shadow.elems.length = 2 * rows then { r with cur := some r.shadow, shadow := {} }
      else { r with cur := none }

/-- MUL_ISSUE (R101, R102, R104, R105): one issue cycle of the streamed row. -/
def execMulIssue (t : TileId) (s : State) : Host.Outcome State Fault Refusal :=
  .next <|
    let b := body (ctxOf s t)
    let f := fld b 0 5
    let r := mulOf s t
    match r.cur with
    | none => s
    | some ch =>
      if tileRuns s t 1 ∧ !(r.drains.any fun d => d.m == r.row && r.pass == 0) then
        let s := mulTakeA t f s
        if mulHasA f (mulOf s t) then
          match mulInit t b s with
          | none => s
          | some s =>
            let s := rampIssue t s
            let r := mulOf s t
            let dots := if predOk (fld b 42 2) r.aPred then mulDots f (fld b 16 4) ch r else []
            let r := { r with flying := r.flying ++ dots, issues := r.issues + 1 }
            touch t.c (setMul t (mulAdvance f b r) s)
        else s
      else s

/-- The accumulator's format: FP32, or INT32 for INT4 and INT8 (R100). -/
def accFmt (f : Nat) : EFmt := if f = 0x0A ∨ f = 0x0B then .int 32 else .flt fp32

/-- MUL_ACCUMULATE (R51-R54, R101). -/
def execMulAccumulate (t : TileId) (s : State) : Host.Outcome State Fault Refusal :=
  .next <|
    let b := body (ctxOf s t)
    let f := fld b 0 5
    let r := mulOf s t
    match r.flying with
    | x :: rest =>
      if tileRuns s t 1 then
        let k := x.n * 64 + x.m
        let old := (accFmt f).decode (r.acc.get 0 k).toNat
        let sum : Exact := if x.dot.cause ≠ 0 ∧ !old.isNan then x.dot else addV old x.dot.v
        let res := sum.finish (accFmt f) (bit b 44)
        let r := { r with acc := r.acc.set 0 k (BitVec.ofNat 32 res.code), flying := rest,
                          satEvents := satAdd32 r.satEvents (b2n res.ovf) }
        tileReport t 2 0 f (bit b 45) [res] (setMul t r s)
      else s
    | [] => s

/-- MUL_ROW_DRAIN (R103). -/
def execMulRowDrain (t : TileId) (s : State) : Host.Outcome State Fault Refusal :=
  .next <|
    let r := mulOf s t
    match r.drains with
    | d :: rest =>
      if tileRuns s t 1 ∧ stageFree s t 0 ∧ !(r.flying.any fun x => x.m == d.m) then
        let lanes := (List.range 8).map fun n => (r.acc.get 0 (n * 64 + d.m)).toNat
        let tok : Token := ⟨BitVec.ofNat 256 (pack 32 lanes), true, d.last, d.pred, (tileOf s t).epoch⟩
        emit t 0 [tok] (setMul t { r with acc := accFrom r.acc d.m 0, drains := rest,
                                          drainRow := if d.last then 0 else d.m + 1 } s)
      else s
    | [] => s

/-! ### Special functions (R108-R121) -/

/-- An element as an FP32 lane value (R108). -/
def lane32 (f code : Nat) : Val := EFmt.decode (.flt fp32) ((decodeElem f code).finish (.flt fp32)).code

/-- The lanes of a token. -/
def lanes (f : Nat) (tok : Token) : List Val := (unpack tok.payload.toNat (fmtBits f) (elemsPerToken f)).map (lane32 f)

/-- FP32 code of a lane value. -/
def code32 (v : Val) : BitVec 32 := BitVec.ofNat 32 (v.finish (.flt fp32)).code

def val32 (c : BitVec 32) : Val := EFmt.decode (.flt fp32) c.toNat

/-- A one-operand function with its special inputs (R109, R110). -/
def unaryFn (op : Nat) (sat : Bool) (x : Val) : Num :=
  let f := EFmt.flt fp32
  let nan4 : Num := ⟨f.nanCode, false, 4⟩
  let inf := fun n => (⟨f.infOf false n, false, 0⟩ : Num)
  match x with
  | .nan => ⟨f.nanCode, false, 0⟩
  | x =>
    match op with
    | 0x07 => x.abs.finish f
    | 0x08 => x.flip.finish f
    | 0x09 =>
      if x.isZero then inf x.neg
      else
        let c := neighbour32 (Config.pickUp 0x09 (code32 x)) sat (divV (.ofInt 1) x).v
        ⟨c.code, c.ovf, 0⟩
    | 0x0A => (sqrtV x).finish f sat
    | 0x0B =>
      if x.isZero then inf x.neg
      else if x.neg then nan4
      else if x.isInf then ⟨0, false, 0⟩
      else
        let c := neighbour32 (Config.pickUp 0x0B (code32 x)) sat (divV (.ofInt 1) (sqrtV x).v).v
        ⟨c.code, c.ovf, 0⟩
    | 0x0C => if x.isInf then (if x.neg then ⟨0, false, 0⟩ else inf false) else freeFn op sat (code32 x) x
    | 0x0D => if x.isInf then (if x.neg then ⟨0, false, 0⟩ else inf false) else freeFn op sat (code32 x) x
    | 0x0E => if x.isZero then inf true else if x.neg then nan4 else if x.isInf then inf false else freeFn op sat (code32 x) x
    | 0x0F => if x.isZero then inf true else if x.neg then nan4 else if x.isInf then inf false else freeFn op sat (code32 x) x
    | 0x15 => if x.isInf then nan4 else freeFn op sat (code32 x) x
    | 0x16 => if x.isInf then nan4 else freeFn op sat (code32 x) x
    | 0x19 => x.finish f
    | _ => freeFn op sat (code32 x) x

/-- One chain operation on one lane (R109-R111). -/
def chainOp (op cond : Nat) (sat : Bool) (x y z : Val) : Num × Bool :=
  let f := EFmt.flt fp32
  match op with
  | 0x01 => ((addV x y).finish f sat, false)
  | 0x02 => ((subV x y).finish f sat, false)
  | 0x03 => ((mulV x y).finish f sat, false)
  | 0x04 => ((fmaV x y z).finish f sat, false)
  | 0x05 => ((minmaxV false x y).finish f, false)
  | 0x06 => ((minmaxV true x y).finish f, false)
  | 0x17 => (x.finish f, condV cond x y)
  | 0x18 => (x.finish f, false)
  | _ => (unaryFn op sat x, false)

/-- What a chain has so far: lane values and PRED. -/
structure ChainSt where
  vals : List Val
  pred : Bool
  s : State

/-- Counts produced NaNs and saturations in the tile's KIND_STATE (R121), of the operations whose effects apply (R89). -/
def sfCount (t : TileId) (ok : Bool) (ns : List Num) (s : State) : State :=
  if ok then
    let r := sfOf s t
    setSf t { r with nanMade := satAdd32 r.nanMade (ns.countP fun x => x.cause != 0), satEvents := satAdd32 r.satEvents (ns.countP (·.ovf)) } s
  else s

/-- Counts and reports an operation's results, where its predicate mode lets its effects apply (R58, R89, R121, R143). -/
def sfReport (t : TileId) (ok : Bool) (op fmt : Nat) (ns : List Num) (s : State) : State :=
  if ok then tileReport t 3 op fmt (bit (body (ctxOf s t)) 27) ns (sfCount t ok ns s) else s

/-- Runs chain entry `i` on the lanes (R111, R120), under the PRED that reaches it: operand A's, or the one that an
earlier CMP of the chain set. Its operands are FP32 lanes, and FORMAT says so (DESIGN CHOICE, log entry 158). -/
def chainStep (t : TileId) (n : Nat) (a b c : List Val) (st : ChainSt) (i : Nat) : ChainSt :=
  let e := chainEntry (body n) i
  let op := fld e 0 5
  let src := fun k => match k with | 0 => a | 1 => b | 2 => c | _ => st.vals
  let xs := src (fld e 5 2)
  let ys := if bit e 11 then xs.map fun _ => val32 (BitVec.ofNat 32 (fld e 32 32)) else src (fld e 7 2)
  let zs := src (fld e 9 2)
  let rs := (List.range xs.length).map fun j =>
    chainOp op (fld e 14 3) (bit e 19) (xs.getD j .nan) (ys.getD j .nan) (zs.getD j .nan)
  let pred := if op = 0x17 then
      match fld e 17 2 with
      | 0 => ((rs.map (·.2)).headD false)
      | 1 => rs.any (·.2)
      | _ => rs.all (·.2)
    else st.pred
  let nums := rs.map (·.1)
  let s := sfReport t (predOk (fld e 12 2) st.pred) (i + 1) 0x08 nums st.s
  ⟨nums.map fun x => val32 (BitVec.ofNat 32 x.code), pred, s⟩

/-- Bin of a value (R116). -/
def histBin (base : Int) (v : Val) : Nat :=
  match v with
  | .nan => 63
  | .inf _ => 63
  | .fin _ m e =>
    if m = 0 then 0
    else
      let i := (flog2 m : Int) + e - base + 1
      if i < 1 then 61 else if 60 < i then 62 else i.toNat

/-- Counts elements in the histogram (R116). -/
def histCount (t : TileId) (n : Nat) (vs : List Val) (s : State) : State :=
  let r := sfOf s t
  let base := sgn 8 (fld (body n) 32 8)
  setSf t { r with bins := vs.foldl (fun m v => m.upd 0 (histBin base v) fun k => min (k + 1) 0xFFFFFFFF) r.bins } s

/-- HISTOGRAM_EMIT (R117): the 64 counters on result 1 in 8 tokens, then the bins are cleared; at a token of the other
predicate the tokens go out and no bin changes (R89; DEDUCED, log entry 155). -/
def histEmit (t : TileId) (ok pred : Bool) (s : State) : State :=
  let r := sfOf s t
  let toks := (List.range 8).map fun k =>
    (⟨BitVec.ofNat 256 (pack 32 ((List.range 8).map fun j => r.bins.get 0 (8 * k + j))), true, k == 7, pred,
      (tileOf s t).epoch⟩ : Token)
  emit t 1 toks (if ok then setSf t { r with bins := [] } s else s)

/-- Histogram of one data token, of its input values under the PRED it came with or of its results under theirs (R116);
HIST_EMIT acts at a data LAST. -/
def histToken (t : TileId) (n : Nat) (vin vout : List Val) (last predIn predOut : Bool) (s : State) : State :=
  let b := body n
  let ok := predOk (fld b 22 2) (if bit b 25 then predOut else predIn)
  if bit b 24 then
    let s := if ok then histCount t n (if bit b 25 then vout else vin) s else s
    if bit b 26 ∧ last then histEmit t ok predOut s else s
  else s

/-- Splits codes into tokens of `k` elements; with `last` the rest is flushed and the last token
carries LAST. Answers the tokens' payloads with their LAST and the codes left over. -/
def chunks (k : Nat) (w : Nat) (last : Bool) : Nat → List Nat → List (Nat × Bool) × List Nat
  | 0, cs => ([], cs)
  | fuel + 1, cs =>
    if cs.length ≤ k ∧ last then ([(pack w cs, true)], [])
    else if cs.length < k then ([], cs)
    else
      let r := chunks k w last fuel (cs.drop k)
      ((pack w (cs.take k), false) :: r.1, r.2)

/-- Emits element codes as tokens of the output format, packing across input tokens (R97). -/
def emitCodes (t : TileId) (outF : Nat) (codes : List Nat) (last pred : Bool) (s : State) : State :=
  let r := sfOf s t
  let cs := r.outBuf ++ codes
  let p := chunks (elemsPerToken outF) (fmtBits outF) last (cs.length + 1) cs
  let e := (tileOf s t).epoch
  emit t 0 (p.1.map fun x => ⟨BitVec.ofNat 256 x.1, true, x.2, pred, e⟩) (setSf t { r with outBuf := p.2 } s)

/-- Converts values to an element format with the tile's generator; answers the conversions. -/
def tileConvert (t : TileId) (outF : Nat) (sat grad : Bool) (vs : List Val) (s : State) : List Conv × State :=
  let r := sfOf s t
  let g := r.gen.forConv grad vs.length
  let f := (elemFmt outF).getD (.flt fp32)
  ((List.range vs.length).map (fun i => convertVal f sat (drawAt g.1 i) (vs.getD i .nan)), setSf t { r with gen := g.2 } s)

/-- Counts and reports what conversions gave: overflows and lost NaNs (R55, R143). -/
def convReport (t : TileId) (n : Nat) (ok : Bool) (cs : List Conv) (s : State) : State :=
  if ok then
    let ovf := cs.countP (·.ovf)
    let r := sfOf s t
    let s := setSf t { r with satEvents := satAdd32 r.satEvents ovf } s
    lostNan t.c (cs.countP (·.lost)) (if bit (body n) 27 then reportOvf t.c (tileUnit t) ovf s else s)
  else s

/-- The output stage (R108): conversion where OUT_FORMAT is not FP32, then the tokens. Its effects follow the mode stage's
PRED_MODE and the result token's PRED (DESIGN CHOICE, log entry 155). -/
def sfOutput (t : TileId) (n : Nat) (vs : List Val) (last pred : Bool) (s : State) : State :=
  let b := body n
  let outF := fld b 8 5
  let ok := predOk (fld b 22 2) pred
  if outF = 0x08 then emitCodes t outF (vs.map fun v => (code32 v).toNat) last pred s
  else
    let c := tileConvert t outF (bit b 20) (bit b 21) vs s
    emitCodes t outF (c.1.map (·.code)) last pred (convReport t n ok c.1 c.2)

/-- Adds processed elements to ELEMENTS. -/
def sfElems (t : TileId) (k : Nat) (s : State) : State :=
  let r := sfOf s t
  setSf t { r with elements := r.elements + BitVec.ofNat 48 k } s

/-- The chain sources that name an operand port (0 A, 1 B, 2 C). -/
def chainNames (n port : Nat) : Bool :=
  let b := body n
  (List.range (fld b 16 4)).any fun i =>
    let e := chainEntry b i
    let op := fld e 0 5
    fld e 5 2 == port || (1 < opArity op && !bit e 11 && fld e 7 2 == port) || (2 < opArity op && fld e 9 2 == port)

/-- Result stages that the step may need are free. -/
def sfStages (s : State) (t : TileId) : Bool := stageFree s t 0 && stageFree s t 1

/-- SF_ELEMENTWISE (R88, R111, R116, R120). A SELECT that forwards B's token gives B's PRED and A's LAST (DESIGN CHOICE, log
entry 155). -/
def execSfElementwise (t : TileId) (s : State) : Host.Outcome State Fault Refusal :=
  .next <|
    let n := ctxOf s t
    let b := body n
    let inF := fld b 3 5
    if tileRuns s t 2 ∧ fld b 0 3 = 0 ∧ sfStages s t then
      let needB := chainNames n 1
      let needC := chainNames n 2
      match operand s t 1 with
      | none => s
      | some ta =>
        let tb := operand s t 2
        let tc := operand s t 3
        if (needB ∧ tb.isNone) ∨ (needC ∧ tc.isNone) then s
        else
          let s := takeOperand t 1 s
          let s := if needB then takeOperand t 2 s else s
          let s := if needC then takeOperand t 3 s else s
          let zero : Token := ⟨0, true, false, false, 0⟩
          let va := lanes inF ta
          let vb := lanes inF (tb.getD zero)
          let vc := lanes inF (tc.getD zero)
          let select := fld (chainEntry b 0) 0 5 = 0x18
          let st : ChainSt := if select then ⟨if ta.pred then va else vb, if ta.pred then ta.pred else (tb.getD zero).pred, s⟩
            else (List.range (fld b 16 4)).foldl (chainStep t n va vb vc) ⟨va, ta.pred, s⟩
          let s := sfElems t va.length st.s
          let s := histToken t n va st.vals ta.last ta.pred st.pred s
          sfOutput t n st.vals ta.last st.pred s
    else s

/-! ### FP32 steps of the statistics (R112-R114)

Each function answers the codes it makes and the results of its FP32 steps in order, for the reports. The spec fixes what
the statistics are and not the order of every step; the orders below are the model's (DESIGN CHOICE, log entry 154). -/

/-- One FP32 step: its code and its result for the reports. -/
def step32 (sat : Bool) (x : Exact) : BitVec 32 × Num :=
  let n := x.finish (.flt fp32) sat
  (BitVec.ofNat 32 n.code, n)

def add32 (sat : Bool) (a b : BitVec 32) : BitVec 32 × Num := step32 sat (addV (val32 a) (val32 b))
def sub32 (sat : Bool) (a b : BitVec 32) : BitVec 32 × Num := step32 sat (subV (val32 a) (val32 b))
def mul32 (sat : Bool) (a b : BitVec 32) : BitVec 32 × Num := step32 sat (mulV (val32 a) (val32 b))
def div32 (sat : Bool) (a b : BitVec 32) : BitVec 32 × Num := step32 sat (divV (val32 a) (val32 b))

/-- Adds element `i` of a token to lane partial `i mod 16`, one element after another (R112). -/
def laneAdds (sat : Bool) (p : SMap (BitVec 32)) (xs : List (BitVec 32)) : SMap (BitVec 32) × List Num :=
  (List.range xs.length).foldl (fun (acc : SMap (BitVec 32) × List Num) i =>
    let x := add32 sat (acc.1.get 0 (i % 16)) (xs.getD i 0)
    (acc.1.set 0 (i % 16) x.1, acc.2 ++ [x.2])) (p, [])

/-- The 16 lane partials combined in lane order (R112). -/
def laneTotal (sat : Bool) (p : SMap (BitVec 32)) : BitVec 32 × List Num :=
  ((List.range 15).map (· + 1)).foldl (fun (acc : BitVec 32 × List Num) l =>
    let x := add32 sat acc.1 (p.get 0 l)
    (x.1, acc.2 ++ [x.2])) (p.get 0 0, [])

/-- Sum of a list of elements over lane partials. -/
def laneSum (sat : Bool) (xs : List (BitVec 32)) : BitVec 32 × List Num :=
  let a := laneAdds sat [] xs
  let t := laneTotal sat a.1
  (t.1, a.2 ++ t.2)

/-- A count as FP32. -/
def count32 (n : Nat) : BitVec 32 := code32 (.ofInt n)

/-- Mean and sum of squared deviations of one token's elements (R113). -/
def tokenStats (sat : Bool) (xs : List (BitVec 32)) : BitVec 32 × BitVec 32 × List Num :=
  let t := laneSum sat xs
  let m := div32 sat t.1 (count32 xs.length)
  let ds := xs.map fun x => sub32 sat x m.1
  let qs := ds.map fun d => mul32 sat d.1 d.1
  let v := laneSum sat (qs.map (·.1))
  (m.1, v.1, t.2 ++ [m.2] ++ ds.map (·.2) ++ qs.map (·.2) ++ v.2)

/-- Joins the statistics of `n` elements, mean and sum of squared deviations, with a token's of `k` (R113). -/
def joinStats (sat : Bool) (n k : Nat) (mean dev mean' dev' : BitVec 32) : BitVec 32 × BitVec 32 × List Num :=
  if n = 0 then (mean', dev', [])
  else
    let d := sub32 sat mean' mean
    let w := div32 sat (count32 k) (count32 (n + k))
    let dw := mul32 sat d.1 w.1
    let m := add32 sat mean dw.1
    let s := add32 sat dev dev'
    let x := mul32 sat d.1 dw.1
    let y := mul32 sat x.1 (count32 n)
    let v := add32 sat s.1 y.1
    (m.1, v.1, [d.2, w.2, dw.2, m.2, s.2, x.2, y.2, v.2])

/-- Statistics of a row so far, updated by one token's elements (R112, R113): partials, the three
STAT words, and the FP32 results for the reports. NaN inputs propagate through every kind. -/
def reduceToken (kind : Nat) (sat : Bool) (r : SfRec) (vs : List Val) : SfRec × List Num :=
  let xs := vs.map code32
  let st0 := if r.rowTokens = 0 then (if kind = 2 then 0xFF800000#32 else 0) else r.stat0
  match kind with
  | 0 =>
    let p := laneAdds sat r.partials xs
    ({ r with partials := p.1, stat0 := (laneTotal sat p.1).1 }, p.2)
  | 1 => ({ r with stat0 := code32 (vs.foldl (fun a v => minmaxV true a v.abs) (val32 st0)) }, [])
  | 2 =>
    let m := code32 (vs.foldl (minmaxV true) (val32 st0))
    if m = 0xFF800000 then ({ r with stat0 := m }, [])
    else
      let d0 := sub32 sat st0 m
      let e0 := unaryFn 0x0C sat (val32 d0.1)
      let ds := xs.map fun x => sub32 sat x m
      let es := ds.map fun d => unaryFn 0x0C sat (val32 d.1)
      let t := laneAdds sat [] (es.map fun e => BitVec.ofNat 32 e.code)
      let p := (List.range 16).foldl (fun (acc : SMap (BitVec 32) × List Num) l =>
        let q := mul32 sat (acc.1.get 0 l) (BitVec.ofNat 32 e0.code)
        let x := add32 sat q.1 (t.1.get 0 l)
        (acc.1.set 0 l x.1, acc.2 ++ [q.2, x.2])) (r.partials, [])
      ({ r with partials := p.1, stat0 := m, stat1 := (laneTotal sat p.1).1 }, [d0.2, e0] ++ ds.map (·.2) ++ es ++ t.2 ++ p.2)
  | _ =>
    if vs = [] then (r, [])
    else
      let t := tokenStats sat xs
      let j := joinStats sat r.stat2.toNat vs.length st0 r.stat1 t.1 t.2.1
      ({ r with stat0 := j.1, stat1 := j.2.1, stat2 := r.stat2 + BitVec.ofNat 32 vs.length }, t.2.2 ++ j.2.2)

/-- A REDUCE tile takes one operand A token into its row (R112). SAT is the body's, which the table names for the output
conversion alone (DESIGN CHOICE, log entry 154); FORMAT reports FP32, in which the mode works (log entry 158). -/
def reduceTake (t : TileId) (tok : Token) (s : State) : State :=
  let n := ctxOf s t
  let b := body n
  let r := sfOf s t
  let limit := fld b 48 16
  let vs := lanes (fld b 3 5) tok
  let vs := if limit = 0 then vs else vs.take (limit - r.rowElems)
  let ok := predOk (fld b 22 2) tok.pred
  let x := reduceToken (fld b 13 3) (bit b 20) r vs
  let r' := { x.1 with
    rowTokens := r.rowTokens + 1
    rowElems := r.rowElems + vs.length
    due := if tok.last then some tok.pred else none }
  let s := sfReport t ok 0 0x08 x.2 (sfElems t vs.length (setSf t r' s))
  histToken t n vs vs tok.last tok.pred tok.pred s

/-- The statistics token's lanes (R112), with the FP32 results for the reports. -/
def statLanes (kind : Nat) (sat : Bool) (eps : BitVec 32) (r : SfRec) : List Nat × List Num :=
  match kind with
  | 0 => let x := laneTotal sat r.partials; ([x.1.toNat], x.2)
  | 1 => ([r.stat0.toNat], [])
  | 2 =>
    let t := laneTotal sat r.partials
    let x := unaryFn 0x09 sat (val32 t.1)
    ([r.stat0.toNat, t.1.toNat, x.code], t.2 ++ [x])
  | _ =>
    let count := count32 r.stat2.toNat
    let var := div32 sat r.stat1 count
    let a := add32 sat var.1 eps
    let l2 := unaryFn 0x0B sat (val32 a.1)
    let m2 := mul32 sat r.stat0 r.stat0
    let ms := add32 sat var.1 m2.1
    let q := add32 sat ms.1 eps
    let l3 := unaryFn 0x0B sat (val32 q.1)
    ([r.stat0.toNat, var.1.toNat, l2.code, l3.code, count.toNat], [var.2, a.2, l2, m2.2, ms.2, q.2, l3])

/-- SF_REDUCE_EMIT (R112, R113). -/
def execSfReduceEmit (t : TileId) (s : State) : Host.Outcome State Fault Refusal :=
  .next <|
    let b := body (ctxOf s t)
    let r := sfOf s t
    match r.due with
    | some pred =>
      if tileRuns s t 2 ∧ stageFree s t 0 then
        let x := statLanes (fld b 13 3) (bit b 20) (BitVec.ofNat 32 (fld b 64 32)) r
        let r' := { r with due := none, rowTokens := 0, rowElems := 0, partials := [], stat0 := 0, stat1 := 0, stat2 := 0 }
        let s := sfReport t (predOk (fld b 22 2) pred) 0 0x08 x.2 (setSf t r' s)
        emit t 0 [⟨BitVec.ofNat 256 (pack 32 x.1), true, true, pred, (tileOf s t).epoch⟩] s
      else s
    | none => s

/-- Lane `i` of a statistics or scale token. -/
def tokLane (tok : Token) (i : Nat) : Val := val32 (BitVec.ofNat 32 (fld tok.payload.toNat (32 * i) 32))

/-- The ROW_APPLY operation on one element (R114); the results of its FP32 steps in order. -/
def rowApply (kind : Nat) (sat : Bool) (st : Token) (x : Val) : List Num :=
  let f := EFmt.flt fp32
  let v := fun (n : Num) => val32 (BitVec.ofNat 32 n.code)
  match kind with
  | 0 => let d := (subV x (tokLane st 0)).finish f sat; [d, (mulV (v d) (tokLane st 2)).finish f sat]
  | 1 => [(mulV x (tokLane st 3)).finish f sat]
  | 2 =>
    let d := (subV x (tokLane st 0)).finish f sat
    let e := unaryFn 0x0C sat (v d)
    [d, e, (mulV (v e) (tokLane st 2)).finish f sat]
  | _ => let d := (subV x (tokLane st 0)).finish f sat; [d, unaryFn 0x0C sat (v d)]

/-- SF_ROW_APPLY (R114): the row's statistics token, or one element token of the row. Elements past ROW_ELEMS are +0 and
pass through no operation (R64). FORMAT of the mode stage is IN_FORMAT, its operand's (DESIGN CHOICE, log entry 158). -/
def execSfRowApply (t : TileId) (s : State) : Host.Outcome State Fault Refusal :=
  .next <|
    let n := ctxOf s t
    let b := body n
    let inF := fld b 3 5
    let r := sfOf s t
    if tileRuns s t 2 ∧ fld b 0 3 = 2 ∧ sfStages s t then
      match r.rowTok with
      | none =>
        match operand s t 1 with
        | some tok => setSf t { r with rowTok := some tok, rowElems := 0, rowTokens := 0 } (takeOperand t 1 s)
        | none => s
      | some st =>
        let needC := chainNames n 2
        match operand s t 2 with
        | none => s
        | some tok =>
          let tc := operand s t 3
          if needC ∧ tc.isNone then s
          else
            let s := takeOperand t 2 s
            let s := if needC then takeOperand t 3 s else s
            let limit := fld b 48 16
            let vs := lanes inF tok
            let used := if limit = 0 then vs.length else min vs.length (limit - r.rowElems)
            let xs := vs.take used
            let rs := xs.map (rowApply (fld b 13 3) (bit b 20) st)
            let vals := rs.map fun l => match l.getLast? with
              | some x => val32 (BitVec.ofNat 32 x.code)
              | none => .zero false
            let r' := { sfOf s t with
              rowTokens := r.rowTokens + 1
              rowElems := r.rowElems + vs.length
              rowTok := if tok.last then none else some st }
            let s := sfReport t (predOk (fld b 22 2) st.pred) 0 inF rs.flatten (setSf t r' s)
            let vc := (lanes inF (tc.getD ⟨0, true, false, false, 0⟩)).take used
            let ch := (List.range (fld b 16 4)).foldl (chainStep t n [] [] vc) ⟨vals, st.pred, s⟩
            let s := sfElems t used ch.s
            let s := histToken t n xs ch.vals tok.last st.pred ch.pred s
            sfOutput t n (ch.vals ++ List.replicate (vs.length - used) (.zero false)) tok.last ch.pred s
    else s

/-- The tokens of encoded blocks: header tokens, each followed by its group's element tokens
(R98). `k` is the number of blocks in a group. -/
def groupTokens (b : BFmt) (bs : List BlockRes) : List Nat :=
  let hdr := pack (if b.cascade then 16 else 8) (bs.map fun x => x.scale + (if b.cascade then x.shift * 256 else 0))
  let per := blocksPerToken b
  let elems := (List.range ((bs.length + per - 1) / per)).map fun i =>
    pack b.width ((bs.drop (per * i)).take per |>.flatMap (·.codes))
  hdr :: elems

/-- Encodes full blocks of the values gathered; with `last` the rest is filled with zeros (R36). -/
def takeBlocks (last : Bool) : Nat → List Val → List (List Val) × List Val
  | 0, vs => ([], vs)
  | fuel + 1, vs =>
    if 32 ≤ vs.length then
      let r := takeBlocks last fuel (vs.drop 32)
      (vs.take 32 :: r.1, r.2)
    else if last ∧ vs ≠ [] then ([vs ++ List.replicate (32 - vs.length) (.zero false)], [])
    else ([], vs)

/-- Block output of CONVERT (R98, R115): complete groups leave as tokens, all of them at LAST. -/
def sfBlockOut (t : TileId) (n : Nat) (bf : BFmt) (vs : List Val) (last pred : Bool) (s : State) : State :=
  let b := body n
  let r := sfOf s t
  let ok := predOk (fld b 22 2) pred
  let tb := takeBlocks last (r.outVals.length + vs.length + 1) (r.outVals ++ vs)
  let enc := tb.1.foldl (fun (acc : List BlockRes × Gen) blk =>
    let g := acc.2.forConv (bit b 21) 32
    (acc.1 ++ [encodeBlock bf (bit b 20) g.1 blk], g.2)) ([], r.gen)
  let ovf := (enc.1.map (·.ovf)).sum
  let und := (enc.1.map (·.under)).sum
  let blocks := r.group ++ enc.1
  let k := groupBlocks bf
  let full := blocks.length / k
  let groups := (List.range full).map fun i => (blocks.drop (k * i)).take k
  let rest := blocks.drop (k * full)
  let groups := if last ∧ rest ≠ [] then groups ++ [rest] else groups
  let ps := groups.flatMap (groupTokens bf)
  let e := (tileOf s t).epoch
  let toks := (List.range ps.length).map fun i =>
    (⟨BitVec.ofNat 256 (ps.getD i 0), true, last && i + 1 == ps.length, pred, e⟩ : Token)
  let s := setSf t { r with gen := enc.2, outVals := tb.2, group := if last then [] else rest,
                            satEvents := if ok then satAdd32 r.satEvents ovf else r.satEvents } s
  let s := if ok then reportUdf t.c (tileUnit t) und (if bit b 27 then reportOvf t.c (tileUnit t) ovf s else s) else s
  emit t 0 toks s

/-- Values of an element token of operand A in CONVERT mode (R35, R97, R98). -/
def convertIn (f : Nat) (r : SfRec) (tok : Token) : List Val :=
  let codes := unpack tok.payload.toNat (fmtBits f) (elemsPerToken f)
  match blockFmt f with
  | some b => (List.range codes.length).map fun i =>
      let e := hdrEntry b r.inHdr ((r.inBlocks + i / 32) % groupBlocks b)
      b.elemVal e.1 e.2 (i % 32) (codes.getD i 0)
  | none => codes.map (decodeElem f)

/-- The next token of a block input stream is a header (R98). -/
def wantsInHdr (f : Nat) (r : SfRec) : Bool :=
  match blockFmt f with
  | some b => decide (r.inGroups * groupBlocks b ≤ r.inBlocks)
  | none => false

/-- 2^E as FP32. -/
def pow32 (e : Int) : Nat := (convertVal (.flt fp32) true none (.fin false 1 e)).code

/-- SF_CONVERT (R115, R139-R142): one header, scale or element token. -/
def execSfConvert (t : TileId) (s : State) : Host.Outcome State Fault Refusal :=
  .next <|
    let n := ctxOf s t
    let b := body n
    let inF := fld b 3 5
    let outF := fld b 8 5
    let r := sfOf s t
    let two := portOn n 2
    if tileRuns s t 2 ∧ fld b 0 3 = 3 ∧ sfStages s t then
      if two ∧ r.rowTok.isNone then
        match operand s t 2 with
        | some tok => setSf t { r with rowTok := some tok } (takeOperand t 2 s)
        | none => s
      else
        match operand s t 1 with
        | none => s
        | some tok =>
          let s := takeOperand t 1 s
          if wantsInHdr inF r then setSf t { r with inHdr := tok.payload, inGroups := r.inGroups + 1 } s
          else
            let vs := convertIn inF r tok
            let ok := predOk (fld b 22 2) tok.pred
            let nb := vs.length / 32
            let s := setSf t { r with inBlocks := if tok.last then 0 else r.inBlocks + nb,
                                      inGroups := if tok.last then 0 else r.inGroups,
                                      rowTok := if tok.last then none else r.rowTok } s
            let s := sfElems t vs.length s
            let s := histToken t n (vs.map fun v => val32 (code32 v)) (vs.map fun v => val32 (code32 v)) tok.last tok.pred tok.pred s
            if two then
              let st := r.rowTok.getD ⟨0, true, false, false, 0⟩
              let a := tokLane st 0
              let f := (elemFmt outF).getD (.flt fp32)
              let e := rowExp f a
              let ys := vs.map fun v => v.scale (-e)
              let c := tileConvert t outF (bit b 20) (bit b 21) ys s
              let s := convReport t n ok c.1 c.2
              let s := if ok then reportUdf t.c (tileUnit t) (ys.countP fun y => belowPow y f.minNormal) s else s
              let s := emitCodes t outF (c.1.map (·.code)) tok.last tok.pred s
              if tok.last then
                let l0 := if a.isNan then 0x7FC00000 else pow32 e
                emit t 1 [⟨BitVec.ofNat 256 (pack 32 [l0, fld st.payload.toNat 0 32]), true, true, tok.pred,
                  (tileOf s t).epoch⟩] s
              else s
            else match blockFmt outF with
              | some bf => sfBlockOut t n bf vs tok.last tok.pred s
              | none =>
                let c := tileConvert t outF (bit b 20) (bit b 21) vs s
                emitCodes t outF (c.1.map (·.code)) tok.last tok.pred (convReport t n ok c.1 c.2)
    else s

/-- SF_RANDOM_EMIT (R118): one token of a stream of COUNT. It has no operand A; its PRED is 0 (DESIGN CHOICE, log entry
155). -/
def execSfRandomEmit (t : TileId) (s : State) : Host.Outcome State Fault Refusal :=
  .next <|
    let b := body (ctxOf s t)
    let r := sfOf s t
    let count := fld b 48 16
    if tileRuns s t 2 ∧ fld b 0 3 = 4 ∧ stageFree s t 0 ∧ (r.count ≠ count ∨ mayStart s t) then
      let w := r.gen.words 4
      let bits := pack 64 (w.1.map (·.toNat))
      let payload := if fld b 13 3 = 0 then bits
        else pack 32 ((unpack bits 32 8).map fun x =>
          (code32 (.fin false (Config.uniform24 (BitVec.ofNat 32 x)).toNat (-24))).toNat)
      let last := r.count ≤ 1
      let s := setSf t { r with gen := w.2, count := if last then count else r.count - 1 } s
      let s := updTile t (fun x => { x with stream := !last }) s
      emit t 0 [⟨BitVec.ofNat 256 payload, true, last, false, (tileOf s t).epoch⟩] s
    else s

/-- The special-function tile of histogram window `i` (R117): t(4,i). -/
def histTile (c : Cl) (i : Fin 4) : TileId := ⟨c, Fin.ofNat 32 (8 * i.val + 4)⟩

/-- HIST_CLEAR (R117, R137): any value zeroes every bin. -/
def execHistClear (who : Requester) (c : Cl) (i : Fin 4) (_v : Word) (s : State) : Host.Outcome State Fault Refusal :=
  .next (arrWrite who c (fun s =>
    let t := histTile c i
    setSf t { sfOf s t with bins := [] } s) s)

/-- TOKEN_SEND (R71, R112): a queue head to its pass-through registers or into a reduction, a
pass-through register or a result onto its rills, at the array's arithmetic clock (R67). -/
def execTokenSend (t : TileId) (src : TokSrc) (s : State) : Host.Outcome State Fault Refusal :=
  .next <|
    if !arrRuns s t.c then s
    else match src with
      | .pass d => sendPass t d s
      | .result r => sendResult t r s
      | .rill d =>
        let n := ctxOf s t
        match headReady s t d with
        | none => s
        | some tok =>
          if hPort n d = 0 then (if hMask n d = 0 then s else popHead t d s)
          else if hPort n d = 1 ∧ tileRuns s t 2 ∧ fld (body n) 0 3 = 1 ∧ (sfOf s t).due.isNone
              ∧ stageFree s t 1 then reduceTake t tok (popHead t d s)
          else s

/-! ### Memory tile (R122-R126) -/

/-- The slot after `p` in the region (R122). -/
def nextSlot (b p : Nat) : Nat :=
  let base := fld b 8 12
  let size := fld b 20 13
  if p + 1 = base + size then base else p + 1

end Sys2Proof.Machine
end

