-- ==== Sys2Proof/Machine/ArrayMem.lean ====
section
/-! DEFINITION. The array's own reads of SRAM: the end of a context load, and memory tiles
(spec/03_spatial_array.md R79, spec/04_array_tiles.md R122-R126). -/

namespace Sys2Proof.Machine

open Sys2Proof

/-! ### The end of a context load (R79) -/

/-- CTX_LOAD_DONE (R79): the checks, then the slot is LOADED or FREE. -/
def execCtxLoadDone (c : Cl) (s : State) : Host.Outcome State Fault Refusal :=
  .next <| settle <|
    match (arrOf s c).load with
    | none => s
    | some l =>
      let i := loadImage c l.offset s
      let st := i.1
      let s := i.2
      let s' := updArr c (fun a => { a with slots := vset a.slots l.slot (if st = 0x00 then .loaded else .free)
                                            load := none }) s
      let s' := if st = 0x00 then
          (allTiles c).foldl (fun x t => setSlotRec t l.slot (imageRec s c l.offset t.t) x) s'
        else s'
      loadEnds c l.note st s'

/-! ### Memory tiles (R122-R126) -/

/-- A slot read for a token, with its error code (R197, R198, R200). Of a slot that cannot be corrected no data is
returned, and the spec states no payload for the token: it is a free value (DESIGN CHOICE, log entry 149). -/
def tileMemTake (t : TileId) (slot : Nat) (s : State) : BitVec 256 × State :=
  let r := sramRead (BitVec.ofNat 64 (0xFF * 2 ^ 56 + 3 * 2 ^ 52 + tileMemKey t slot % 2 ^ 38)) 32 false (tileUnit t) s
  if r.1 = 0x00 then (BitVec.ofNat 256 (leNat r.2.1), r.2.2)
  else ((Config.freeWide r.2.2.freeCount).setWidth 256, { r.2.2 with freeCount := r.2.2.freeCount + 1 })

/-- The body's notify target (R123). -/
def memNote (b : Nat) : Option NoteRef := noteOf (bit b 64) (fld b 65 5) (fld b 70 5)

/-- MEM_FIFO (R122): stores an operand A token, or emits the oldest. -/
def execMemFifo (t : TileId) (store : Bool) (s : State) : Host.Outcome State Fault Refusal :=
  .next <| settle <|
    let b := body (ctxOf s t)
    let r := memTileOf s t
    if tileRuns s t 3 ∧ fld b 0 2 = 0 then
      if store then
        match operand s t 1 with
        | some tok =>
          if r.fill < fld b 20 13 then
            setMemTile t { r with wr := nextSlot b r.wr, fill := r.fill + 1,
                                  tags := r.tags ++ [(tok.last, tok.pred, tok.epoch)] }
              (tileMemWrite t r.wr tok.payload (takeOperand t 1 s))
          else s
        | none => s
      else
        match r.tags with
        | g :: rest =>
          if stageFree s t 0 then
            let d := tileMemTake t r.rd s
            emit t 0 [⟨d.1, true, g.1, g.2.1, g.2.2⟩]
              (setMemTile t { r with rd := nextSlot b r.rd, fill := r.fill - 1, tags := rest } d.2)
          else s
        | [] => s
    else s

/-- MEM_REPLAY (R122). -/
def execMemReplay (t : TileId) (s : State) : Host.Outcome State Fault Refusal :=
  .next <| settle <|
    let b := body (ctxOf s t)
    let r := memTileOf s t
    let rep := fld b 48 16
    if tileRuns s t 3 ∧ fld b 0 2 = 1 ∧ stageFree s t 0 ∧ (rep = 0 ∨ r.reps < rep)
        ∧ (r.rd ≠ fld b 8 12 ∨ mayStart s t) then
      let last := r.rd + 1 = fld b 8 12 + fld b 20 13
      let p := takeFree s   -- PRED of a token that no operand A gave: the spec states none
      let s := setMemTile t { r with rd := nextSlot b r.rd, reps := if last then r.reps + 1 else r.reps } p.2
      let s := updTile t (fun x => { x with stream := !last }) s
      let d := tileMemTake t r.rd s
      emit t 0 [⟨d.1, true, last, p.1.getLsbD 0, (tileOf s t).epoch⟩] d.2
    else s

/-- MEM_CAPTURE (R89, R122, R123). -/
def execMemCapture (t : TileId) (s : State) : Host.Outcome State Fault Refusal :=
  .next <| settle <|
    let b := body (ctxOf s t)
    let r := memTileOf s t
    if tileRuns s t 3 ∧ fld b 0 2 = 2 then
      match operand s t 1 with
      | some tok =>
        let s := takeOperand t 1 s
        if predOk (fld b 4 2) tok.pred then
          let s := setMemTile t { r with wr := nextSlot b r.wr } (tileMemWrite t r.wr tok.payload s)
          if tok.last then notifyOpt t.c (memNote b) s else s
        else s
      | none => s
    else s

/-- The first valid entry of an address token from entry `i` on (R122). -/
def nextEntry (p i : Nat) : Option Nat :=
  ((List.range 16).filter fun j => i ≤ j).find? fun j => bit p (16 * j + 15)

/-- MEM_ADDRESSED (R122, R123): one valid entry of the address token. -/
def execMemAddressed (t : TileId) (s : State) : Host.Outcome State Fault Refusal :=
  .next <| settle <|
    let b := body (ctxOf s t)
    let size := fld b 20 13
    if tileRuns s t 3 ∧ fld b 0 2 = 3 then
      let s := match (memTileOf s t).addr with
        | none => match operand s t 1 with
          | some tok => setMemTile t { memTileOf s t with addr := some (tok, 0) } (takeOperand t 1 s)
          | none => s
        | some _ => s
      let r := memTileOf s t
      match r.addr with
      | none => s
      | some (tok, i) =>
        match nextEntry tok.payload.toNat i with
        | none => setMemTile t { r with addr := none } s
        | some j =>
          let idx := fld tok.payload.toNat (16 * j) 12
          let slot := fld b 8 12 + idx
          let out := size ≤ idx
          let more := (nextEntry tok.payload.toNat (j + 1)).isSome
          let r' := { r with addr := if more then some (tok, j + 1) else none,
                             oor := satAdd32 r.oor (b2n out) }
          if bit b 2 then
            match operand s t 2 with
            | none => s
            | some d =>
              let s := setMemTile t r' (takeOperand t 2 s)
              if predOk (fld b 4 2) tok.pred ∧ !out then
                let s := tileMemWrite t slot d.payload s
                if d.last then notifyOpt t.c (memNote b) s else s
              else s
          else if stageFree s t 0 then
            let d := if out then (0, s) else tileMemTake t slot s
            emit t 0 [⟨d.1, true, tok.last && !more, tok.pred, (tileOf s t).epoch⟩] (setMemTile t r' d.2)
          else s
    else s

end Sys2Proof.Machine
end

