-- ==== Sys2Proof/Machine/IoTile.lean ====
section
/-! DEFINITION. I/O tiles: the inbound and outbound engines (spec/04_array_tiles.md R127-R132). -/

namespace Sys2Proof.Machine

open Sys2Proof

/-- Number of an I/O tile (R15). -/
def ioNum (t : TileId) : Fin 2 := if t.t.val = 8 then 0 else 1

/-- An access of an engine gave a status other than OK: the first is kept, the array freezes with
cause 3 and ARRAY_STALL is posted (R130). -/
def ioFail (t : TileId) (st : Byte) (s : State) : State :=
  let r := ioOf s t
  let s := if r.lastStatus = 0x00 then setIo t { r with lastStatus := st } s else s
  stallArr t.c 3 1 (tileUnit t) s

/-- An engine's read of its cistern; past its end it is BAD_PARAM. -/
def ioRead (t : TileId) (off n : Nat) (s : State) : Byte × List Byte × State :=
  if 2 ^ 22 < off + n then (0x03, [], s) else sramRead (clAddr 1 t.c off) n false (tileUnit t) s

/-! ### Inbound (R127, R128) -/

/-- Payload bytes that a token of an element format takes from a row. -/
def tokBytes (f : Nat) : Nat := elemsPerToken f * fmtBits f / 8

/-- Tokens of a full group of blocks: the header and the element tokens (R98). -/
def groupSpan (b : BFmt) : Nat := 1 + groupBlocks b / blocksPerToken b

/-- Tokens of a row of `rb` bytes (R127). -/
def rowTokens (f rb : Nat) : Nat :=
  match blockFmt f with
  | none => (rb + tokBytes f - 1) / max (tokBytes f) 1
  | some b =>
    let n := rb / b.bytes
    let rem := n % groupBlocks b
    n / groupBlocks b * groupSpan b + (if rem = 0 then 0 else 1 + (rem + blocksPerToken b - 1) / blocksPerToken b)

/-- Byte range, within its row, that token `k` is made from. -/
def tokRange (f rb k : Nat) : Nat × Nat :=
  match blockFmt f with
  | none => (k * tokBytes f, min (tokBytes f) (rb - k * tokBytes f))
  | some b =>
    let g := k / groupSpan b * groupBlocks b
    let n := rb / b.bytes
    let j := k % groupSpan b
    if j = 0 then (g * b.bytes, min (groupBlocks b) (n - g) * b.bytes)
    else
      let first := g + (j - 1) * blocksPerToken b
      (first * b.bytes, min (blocksPerToken b) (n - first) * b.bytes)

/-- Payload of token `k` from its bytes: elements as they stand, or a group's header or the elements
of whole blocks (R97, R98). -/
def tokPayload (f k : Nat) (d : List Byte) : Nat :=
  match blockFmt f with
  | none => leNat d
  | some b =>
    let bl := (List.range (d.length / b.bytes)).map fun i => fld (leNat d) (8 * b.bytes * i) (8 * b.bytes)
    if k % groupSpan b = 0 then pack b.hdr bl
    else pack (32 * b.width) (bl.map (· / 2 ^ b.hdr))

/-- The gate is shut for the row due next (R128). -/
def gateShut (b : Nat) (r : IoRec) : Bool :=
  bit b 113 && decide (r.opened * fld b 128 16 ≤ r.inRows)

/-- The inbound engine has a row due. -/
def inDue (b : Nat) (r : IoRec) : Bool := bit b 0 && (fld b 96 16 == 0 || decide (r.inRep < fld b 96 16))

/-- PRED of inbound token `k` of the repetition (R127 IN_PRED). -/
def inPred (t : TileId) (b k : Nat) (s : State) : Byte × Bool × State :=
  match fld b 30 2 with
  | 0 => (0x00, false, s)
  | 1 => (0x00, true, s)
  | _ =>
    let r := ioRead t (fld b 192 22 + k / 8) 1 s
    (r.1, bit (leNat r.2.1) (k % 8), r.2.2)

/-- IO_INBOUND_READ (R127, R130): the bytes of one token are read and the token is emitted. -/
def execIoInboundRead (t : TileId) (s : State) : Host.Outcome State Fault Refusal :=
  .next (settle <| 
    let b := body (ctxOf s t)
    let r := ioOf s t
    let f := fld b 2 5
    let rb := fld b 32 16
    let first : Bool := if bit b 112 then r.inTok == 0 else r.inRepTok == 0
    if tileRuns s t 4 && inDue b r && stageFree s t 0 && !gateShut b r && (!first || mayStart s t) then
      let g := tokRange f rb r.inTok
      let d := ioRead t (fld b 8 22 + r.inRow * fld b 64 22 + g.1) g.2 s
      if d.1 ≠ 0x00 then ioFail t d.1 d.2.2
      else
        let p := inPred t b r.inRepTok d.2.2
        if p.1 ≠ 0x00 then ioFail t p.1 p.2.2
        else
          let s := p.2.2
          let rowEnd : Bool := r.inTok + 1 == rowTokens f rb
          let repEnd : Bool := rowEnd && r.inRow + 1 == fld b 48 16
          let last := if bit b 112 then rowEnd else repEnd
          let r' := { r with
            inTok := if rowEnd then 0 else r.inTok + 1
            inRow := if repEnd then 0 else if rowEnd then r.inRow + 1 else r.inRow
            inRows := if rowEnd then r.inRows + 1 else r.inRows
            inRepTok := if repEnd then 0 else r.inRepTok + 1
            inRep := if repEnd then r.inRep + 1 else r.inRep }
          let s := updTile t (fun x => { x with stream := !last }) (setIo t r' s)
          emit t 0 [⟨BitVec.ofNat 256 (tokPayload f r.inTok d.2.1), true, last, p.2.1, (tileOf s t).epoch⟩] s
    else s)

/-- The object value that the gate awaits: GATE_BASE + g + 1 (R128). -/
def gateNext (b : Nat) (r : IoRec) : BitVec 32 := BitVec.ofNat 32 (fld b 160 32 + r.opened + 1)

/-- IO_GATE_OPEN (R128). -/
def execIoGateOpen (t : TileId) (s : State) : Host.Outcome State Fault Refusal :=
  .next (
    let b := body (ctxOf s t)
    let r := ioOf s t
    if tileRuns s t 4 && inDue b r && gateShut b r && objCond 2 (objVal s t.c (fld b 114 5) (fld b 119 5)) (gateNext b r) then
      setIo t { r with opened := r.opened + 1 } s
    else s)

/-! ### Outbound (R129) -/

/-- The next token of the source stream is a group header (R98). -/
def outWantsHdr (f : Nat) (r : IoRec) : Bool :=
  match blockFmt f with
  | some b => decide (r.outGroups * groupBlocks b ≤ r.outBlocks)
  | none => false

/-- Exact values of the elements of a source token. -/
def outVals (f : Nat) (r : IoRec) (tok : Token) : List Val :=
  let codes := unpack tok.payload.toNat (fmtBits f) (elemsPerToken f)
  match blockFmt f with
  | some b => (List.range codes.length).map fun i =>
      let e := hdrEntry b r.outHdr ((r.outBlocks + i / 32) % groupBlocks b)
      b.elemVal e.1 e.2 (i % 32) (codes.getD i 0)
  | none => codes.map (decodeElem f)

/-- Bytes of elements in an element format, the last byte filled with zeros. -/
def codeBytes (w : Nat) (codes : List Nat) : List Byte := leBytes ((codes.length * w + 7) / 8) (pack w codes)

/-- Encodes whole blocks of 32 values; each takes 32 draws with GRAD (R37-R42, R57). -/
def outEncode (b : BFmt) (sat grad : Bool) : List (List Val) → Gen → List BlockRes × Gen
  | [], g => ([], g)
  | vs :: rest, g =>
    let d := g.forConv grad 32
    let x := encodeBlock b sat d.1 vs
    let r := outEncode b sat grad rest d.2
    (x :: r.1, r.2)

/-- What the elements of a token add to the row: its bytes, with overflows, underflows and lost NaNs
(R55, R129). -/
def outBytes (b : Nat) (r : IoRec) (tok : Token) (take : Nat) : List Byte × IoRec × Nat × Nat × Nat :=
  let sf := fld b 260 5
  let f := fld b 265 5
  if sf = f then
    let codes := (unpack tok.payload.toNat (fmtBits f) (elemsPerToken f)).take take
    match blockFmt f with
    | none => (codeBytes (fmtBits f) codes, r, 0, 0, 0)
    | some bf =>
      let n := codes.length / 32
      let bs := (List.range n).flatMap fun i =>
        let e := hdrEntry bf r.outHdr ((r.outBlocks + i) % groupBlocks bf)
        leBytes bf.bytes (bf.blockNat ⟨e.1, e.2, (codes.drop (32 * i)).take 32, 0, 0⟩)
      (bs, r, 0, 0, 0)
  else
    let vs := (outVals sf r tok).take take
    match blockFmt f with
    | none =>
      let g := r.gen.forConv (bit b 270) vs.length
      let e := (elemFmt f).getD (.flt fp32)
      let cs := (List.range vs.length).map fun i => convertVal e (bit b 271) (drawAt g.1 i) (vs.getD i .nan)
      (codeBytes (fmtBits f) (cs.map (·.code)), { r with gen := g.2 }, cs.countP (·.ovf), 0, cs.countP (·.lost))
    | some bf =>
      let p := takeBlocks false (r.outVals.length + vs.length) (r.outVals ++ vs)
      let x := outEncode bf (bit b 271) (bit b 270) p.1 r.gen
      (x.1.flatMap fun k => leBytes bf.bytes (bf.blockNat k), { r with gen := x.2, outVals := p.2 },
        (x.1.map (·.ovf)).sum, (x.1.map (·.under)).sum, 0)

/-- Issues the writes of some bytes of the current row: to the cistern or a global address. -/
def ioWrites (t : TileId) (b : Nat) (row : Nat) (off : Nat) (d : List Byte) (s : State) : State :=
  let base := fld b 384 64
  let start := if fld b 257 2 = 0 then (clAddr 1 t.c 0).toNat + (fld b 384 22 + off) % 2 ^ 22 else base + off
  let ps := packets d.length start d
  let r := ioOf s t
  let s := setIo t { r with outstanding := r.outstanding ++ ps.map fun _ => row } s
  ps.foldl (fun s p => issueReq (.io t.c (ioNum t)) (owner s t.c) .write (BitVec.ofNat 64 p.1) p.2.length p.2 0 false false
    t.c (.ioWrite row) s) s

/-- Rows of which every write has completed. -/
def rowsDone (r : IoRec) : Nat := r.outstanding.foldl (fun m x => min m x) r.outRows

/-- Sends the notifications that completed rows have earned (R129). -/
def ioNotify (t : TileId) (b : Nat) (s : State) : State :=
  let r := ioOf s t
  let due := rowsDone r / max (fld b 352 16) 1
  if bit b 336 && decide (r.notified < due) then
    (List.range (due - r.notified)).foldl (fun s _ => notifyBy t.c ⟨fld b 337 5, fld b 342 5⟩ (.io t) s)
      (setIo t { r with notified := due } s)
  else s

/-- The row's element count has been reached: the row ends (R129). -/
def endOutRow (t : TileId) (b : Nat) (s : State) : State :=
  let r := ioOf s t
  let wrap := r.outRow + 1 = fld b 320 16
  setIo t { r with outRow := if wrap then 0 else r.outRow + 1, outRep := if wrap then r.outRep + 1 else r.outRep
                   outRows := r.outRows + 1, outElems := 0, outBytes := 0, outVals := [], outBlocks := 0, outGroups := 0 } s

/-- An element token for the cistern or a global address. -/
def ioTakeElems (t : TileId) (b : Nat) (tok : Token) (s : State) : State :=
  let r := ioOf s t
  let take := min (elemsPerToken (fld b 260 5)) (fld b 272 16 - r.outElems)
  let x := outBytes b r tok take
  let r' := { x.2.1 with outElems := r.outElems + take, outBytes := r.outBytes + x.1.length
                         outBlocks := r.outBlocks + (if (blockFmt (fld b 260 5)).isSome then elemsPerToken (fld b 260 5) / 32 else 0) }
  let s := setIo t r' s
  let s := reportOvf t.c (tileUnit t) x.2.2.1 s
  let s := reportUdf t.c (tileUnit t) x.2.2.2.1 s
  let s := lostNan t.c x.2.2.2.2 s
  let s := ioWrites t b r.outRows (r.outRow * fld b 288 22 + r.outBytes) x.1 s
  if r'.outElems = fld b 272 16 then endOutRow t b s else s

/-- Counts a token that goes to a channel in its row; a group header holds no element. -/
def ioRowTokens (t : TileId) (b : Nat) (s : State) : State :=
  let r := ioOf s t
  let f := fld b 260 5
  if outWantsHdr f r then setIo t { r with outGroups := r.outGroups + 1 } s
  else
    let n := r.outElems + elemsPerToken f
    let s := setIo t { r with
      outElems := n
      outBlocks := r.outBlocks + (if (blockFmt f).isSome then elemsPerToken f / 32 else 0) } s
    if fld b 272 16 ≤ n then endOutRow t b s else s

/-- A token for the channel: it goes as one message, or waits for a credit and holds the engine
(R129, R275, R282). -/
def ioChannel (t : TileId) (b : Nat) (tok : Token) (s : State) : State :=
  let ep : Fin 256 := Fin.ofNat 256 (fld b 312 8)
  let e := epOf s t.c ep.val
  let st := sendCheck e false (if e.contributor then fld b 265 5 else 0) false
  if st ≠ 0x00 then ioFail t st s
  else
    let r := ioOf s t
    if hasCredit e false then
      ioRowTokens t b (sendMsg (.io t.c (ioNum t)) t.c ep false (leBytes 32 tok.payload.toNat) none r.outRows
        (setIo t { r with outstanding := r.outstanding ++ [r.outRows] } s))
    else
      ioRowTokens t b (setEp t.c ep.val { e with waiting := e.waiting ++ [.io t.c (ioNum t)] }
        (setIo t { r with creditWait := some tok, creditFrom := s.t.now, outstanding := r.outstanding ++ [r.outRows] } s))

/-- IO_OUTBOUND_WRITE (R129): one operand A token, or the token that waits for a channel credit where there is one now. A
header token of a block stream writes nothing by itself; on a channel every token goes as it stands. -/
def execIoOutboundWrite (t : TileId) (s : State) : Host.Outcome State Fault Refusal :=
  .next (
    let b := body (ctxOf s t)
    let r := ioOf s t
    if tileRuns s t 4 && bit b 256 && r.creditWait.isSome then sendWaiting t.c (Fin.ofNat 256 (fld b 312 8)) 256 s
    else if tileRuns s t 4 && bit b 256 then
      match operand s t 1 with
      | none => s
      | some tok =>
        let s := takeOperand t 1 s
        if fld b 257 2 = 2 then ioChannel t b tok s
        else if outWantsHdr (fld b 260 5) r then setIo t { ioOf s t with outHdr := tok.payload, outGroups := r.outGroups + 1 } s
        else ioTakeElems t b tok s
    else s)

/-- A write of a row completed: the row's notification may be due, or the array freezes (R129, R130). -/
def ioDone (t : TileId) (row : Nat) (st : Byte) (s : State) : State :=
  let r := ioOf s t
  let s := setIo t { r with outstanding := r.outstanding.erase row } s
  if st ≠ 0x00 then ioFail t st s else ioNotify t (body (ctxOf s t)) s

/-- The reply of an I/O tile's write; of one issued by a context that was left it does nothing (R86). -/
def ioReplied (x : Xact) (st : Byte) (_d : List Byte) (s : State) : State :=
  match x.who, x.use with
  | .io c i, .ioWrite row => if x.orphaned then s else ioDone ⟨c, Fin.ofNat 32 (8 * (i.val + 1))⟩ row st s
  | _, _ => s

/-- IO_WRITE_COMPLETE (R129, R130). -/
def execIoWriteComplete (id : Nat) (s : State) : Host.Outcome State Fault Refusal :=
  .next (takeReply id (fun u => match u with | .ioWrite _ => true | _ => false) ioReplied s)

/-- MESSAGE_ACK (R275, R277, R284). -/
def execMessageAck (id : Nat) (s : State) : Host.Outcome State Fault Refusal :=
  .next (takeReply id (fun u => match u with | .send _ _ _ _ _ => true | _ => false) (messageReply ioDone) s)

/-- OBJECT_ADD (R260, R263, R494): an ADD packet at its target, or an engine-made notification. -/
def execObjectAdd (src : AddSrc) (s : State) : Host.Outcome State Fault Refusal :=
  .next (match src with
    | .packet id => objServe id 2 (fun old x => old + objOperand x) s
    | .note i => noteApply i ioFail s)

end Sys2Proof.Machine
end

