-- ==== Sys2Proof/Machine/LoadStore.lean ====
section
/-! DEFINITION. Loads, stores, atomics, fences and run-ahead of the cores, and what their replies do
(spec/06_cores.md R165-R175, 07_memory.md R185-R207). -/

namespace Sys2Proof.Machine

open Sys2Proof

/-! ### Issue (R167, R173, R175, R203) -/

/-- Size allowed for the register file (R167). -/
def sizeFits (r : MemReg) (n : Nat) : Bool :=
  match r with
  | .x _ => n == 1 || n == 2 || n == 4 || n == 8
  | .f _ => n == 4 || n == 8
  | .v _ => n == 32

/-- Writes what a load read: x sign- or zero-extended, f and v as they stand; a 4-byte load leaves the
upper half of an f register a free value (R158). -/
def writeLoaded (x : CtxId) (dst : MemReg) (signed : Bool) (d : List Byte) (s : State) : State :=
  let n := leNat d
  match dst with
  | .x r => wx x r (if signed then BitVec.ofInt 64 (sgn (8 * d.length) n) else BitVec.ofNat 64 n) s
  | .f r => wf x r (d.length == 8) n s
  | .v r => wv x r (BitVec.ofNat 256 n) s

/-- A load that lies in an entry whose read is still on its way becomes the use of that read (R175). -/
def takeEntry (req : Nat) (u : Use) (s : State) : State :=
  { s with net := { s.net with xacts := s.net.xacts.map fun t => if t.id = req then { t with use := u } else t } }

/-- A load at an address: ALIGN, or its entry's data, now or when its read returns, or a read of its own (R167,
R173, R175, R185). -/
def loadAt (x : CtxId) (dst : MemReg) (a : Word) (n : Nat) (signed : Bool) (s : State) : State :=
  if !sizeFits dst n then illegal x s
  else if a.toNat % n ≠ 0 then trapHere x 0x03 0 a s
  else if overlaps s x a n false then s
  else
    let r := ctxRec s x
    let k := (selfAddr s a).toNat
    match r.entries.find? fun e => (selfAddr s e.addr).toNat ≤ k ∧ k + n ≤ (selfAddr s e.addr).toNat + 64 with
    | some e =>
      let off := k - (selfAddr s e.addr).toNat
      let t := setCtx x { r with entries := r.entries.erase e } s
      match e.data with
      | some d => retire x (addRaUsed x (writeLoaded x dst signed ((d.drop off).take n) t))
      | none =>
        if 16 ≤ loadsOut s x then s
        else retire x (addRaUsed x (takeEntry e.req (.load dst signed r.pc (some (off, n))) t))
    | none =>
      if 16 ≤ loadsOut s x then s
      else retire x (issueReq (.core x) (owner s x.c) .read a n [] 0 false false x.c (.load dst signed r.pc none) s)

/-- A store at an address (R167, R175, R185). -/
def storeAt (x : CtxId) (src : MemReg) (a : Word) (n : Nat) (s : State) : State :=
  if !sizeFits src n then illegal x s
  else if a.toNat % n ≠ 0 then trapHere x 0x03 0 a s
  else if overlaps s x a n true || decide (32 ≤ posted s x.c x.k) then s
  else
    let v := match src with
      | .x r => (xr s x r).toNat
      | .f r => (fr s x r).toNat
      | .v r => (vr s x r).toNat
    let pc := (ctxRec s x).pc
    retire x (issueReq (.core x) (owner s x.c) .write a n (leBytes n v) 0 false false x.c (.store pc) (dropOverlapped x a n s))

/-- LOAD (R167, R185). -/
def execLoad (x : CtxId) (dst : MemReg) (ra : Reg) (off : Word) (size : Fin 33) (signed : Bool) (s : State) :
    Host.Outcome State Fault Refusal :=
  .next (issueInstr x [dst, .x ra] (fun s => loadAt x dst (xr s x ra + off) size.val signed s) s)

/-- STORE (R167, R185). -/
def execStore (x : CtxId) (src : MemReg) (ra : Reg) (off : Word) (size : Fin 33) (s : State) : Host.Outcome State Fault Refusal :=
  .next (issueInstr x [src, .x ra] (fun s => storeAt x src (xr s x ra + off) size.val s) s)

/-- Address of the core's own local memory at an offset (R168, R181). -/
def localAddr (x : CtxId) (off : BitVec 16) : Word := clAddr 2 x.c (x.k.val * 2 ^ 16 + off.toNat)

/-- LDL (R168, R181). -/
def execLdl (x : CtxId) (dst : MemReg) (off : BitVec 16) (size : Fin 33) (signed : Bool) (s : State) : Host.Outcome State Fault Refusal :=
  .next (issueInstr x [dst] (fun s => loadAt x dst (localAddr x off) size.val signed s) s)

/-- STL (R168, R181). -/
def execStl (x : CtxId) (src : MemReg) (off : BitVec 16) (size : Fin 33) (s : State) : Host.Outcome State Fault Refusal :=
  .next (issueInstr x [src] (fun s => storeAt x src (localAddr x off) size.val s) s)

def AtomKind.code : AtomKind → Nat
  | .addI32 => 0 | .addI64 => 1 | .addF32 => 2 | .swap => 3 | .cas => 4

def atomBytes (k : AtomKind) (wide : Bool) : Nat :=
  match k with
  | .addI32 => 4 | .addF32 => 4 | .addI64 => 8 | _ => if wide then 8 else 4

/-- ATOMIC (R207, R175). -/
def execAtomic (x : CtxId) (kind : AtomKind) (wide : Bool) (rd ra rs rc : Reg) (sat : Bool) (s : State) :
    Host.Outcome State Fault Refusal :=
  .next (issueInstr x ([.x rd, .x ra, .x rs] ++ if kind = .cas then [.x rc] else []) (fun s =>
    let a := xr s x ra
    let n := atomBytes kind wide
    if a.toNat % n ≠ 0 then trapHere x 0x03 0 a s
    else if overlaps s x a n true || decide (32 ≤ posted s x.c x.k) then s
    else
      let pc := (ctxRec s x).pc
      retire x (issueReq (.core x) (owner s x.c) (.atomic (AtomKind.code kind)) a n (leBytes n (xr s x rs).toNat)
        (if kind = .cas then xr s x rc else 0) sat false x.c (.atomic rd (n == 8) pc) (dropEntries x s))) s)

/-- FENCE (R204, R175): nothing issues until its condition holds. -/
def execFence (x : CtxId) (kind : FenceKind) (scope : FenceScope) (s : State) : Host.Outcome State Fault Refusal :=
  .next (issueInstr x [] (fun s => if fenceOk s x kind scope then retire x (dropEntries x s) else s) s)

/-! ### Block loads and stores (R165, R202) -/

/-- The parts of a block access: split at a 32-byte boundary. -/
def blockParts (a n : Nat) : List (Nat × Nat) :=
  let m := 32 - a % 32
  if n ≤ m then [(a, n)] else [(a, m), (a + m, n - m)]

/-- A block's register group is allowed (R165). -/
def groupOk (r : Reg) (f : Nat) : Bool := r.val % groupRegs f == 0

def groupList (r : Reg) (f : Nat) : List MemReg := (List.range (groupRegs f)).map fun i => .v (Fin.ofNat 32 (r.val + i))

/-- VBST (R165, R37-R42, R57). -/
def execVbst (x : CtxId) (vs ra : Reg) (off : Word) (blk src : Fmt) (sat grad : Bool) (s : State) : Host.Outcome State Fault Refusal :=
  .next (issueInstr x (.x ra :: groupList vs src.toNat) (fun s =>
    let f := src.toNat
    match blockFmt blk.toNat with
    | none => illegal x s
    | some b =>
      if !([0x08, 0x06, 0x07, 0x04, 0x05, 0x0B].contains f) || !groupOk vs f then illegal x s
      else
        let a := (xr s x ra + off).toNat
        let parts := blockParts a b.bytes
        if overlaps s x (BitVec.ofNat 64 a) b.bytes true || decide (32 < posted s x.c x.k + parts.length) then s
        else
          let w := fmtBits f
          let codes := (List.range (groupRegs f)).flatMap fun i => unpack (vr s x (Fin.ofNat 32 (vs.val + i))).toNat w (256 / w)
          let dr := coreDraws x grad 32 s
          let r := encodeBlock b sat dr.1 ((codes.take 32).map (decodeElem f))
          let s := reportUdf x.c (coreUnit x.c x.k.val) r.under dr.2
          let s := coreReport x true blk.toNat (List.replicate r.ovf ⟨0, true, 0⟩) s
          let d := leBytes b.bytes (b.blockNat r)
          let pc := (ctxRec s x).pc
          let s := dropOverlapped x (BitVec.ofNat 64 a) b.bytes s
          retire x (parts.foldl (fun s p =>
            issueReq (.core x) (owner s x.c) .write (BitVec.ofNat 64 p.1) p.2 ((d.drop (p.1 - a)).take p.2) 0 false false x.c (.store pc) s) s)) s)

/-- VBLD (R165). -/
def execVbld (x : CtxId) (vd ra : Reg) (off : Word) (blk dst : Fmt) (sat : Bool) (s : State) : Host.Outcome State Fault Refusal :=
  .next (issueInstr x (.x ra :: groupList vd dst.toNat) (fun s =>
    let f := dst.toNat
    match blockFmt blk.toNat with
    | none => illegal x s
    | some b =>
      if !([0x08, 0x06, 0x07].contains f) || !groupOk vd f then illegal x s
      else
        let a := xr s x ra + off
        let parts := blockParts a.toNat b.bytes
        if overlaps s x a b.bytes false || decide (16 < loadsOut s x + parts.length) then s
        else
          let pc := (ctxRec s x).pc
          retire x (parts.foldl (fun s p =>
            issueReq (.core x) (owner s x.c) .read (BitVec.ofNat 64 p.1) p.2 [] 0 false false x.c
              (.blockLoad vd blk dst sat pc a none) s) s)) s)

/-- Decodes a block and converts its elements into the register group (R35, R55, R165). -/
def writeBlock (x : CtxId) (vd : Reg) (blk dst : Fmt) (sat : Bool) (d : List Byte) (s : State) : State :=
  match blockFmt blk.toNat, elemFmt dst.toNat with
  | some b, some f =>
    let cs := (b.decodeBlock (leNat d)).map (convertVal f sat none)
    let per := 256 / f.bits
    let s := (List.range (groupRegs dst.toNat)).foldl (fun s i =>
      wv x (Fin.ofNat 32 (vd.val + i)) (BitVec.ofNat 256 (pack f.bits (((cs.drop (per * i)).take per).map (·.code)))) s) s
    coreReport x true dst.toNat (cs.map fun c => ⟨c.code, c.ovf, 0⟩) s
  | _, _ => s

/-! ### Replies (R171, R173, R202) -/

/-- Run-ahead ends when the load it waits for returns (R173). -/
def loadReturns (x : CtxId) (t : Xact) (s : State) : State :=
  if (ctxRec s x).runahead && (ctxRec s x).raLoad == some t.id then endRunahead x s else s

/-- One part of a block load returned: the other part takes its data, or the block is whole. -/
def blockReturns (x : CtxId) (t : Xact) (vd : Reg) (blk dst : Fmt) (sat : Bool) (pc : BitVec 48) (addr : Word)
    (half : Option (List Byte)) (d : List Byte) (s : State) : State :=
  let mate (y : Xact) : Bool := y.who == .core x && (match y.use with
    | .blockLoad v _ _ _ p a _ => v == vd && p == pc && a == addr
    | _ => false)
  match half with
  | some h => writeBlock x vd blk dst sat (if t.addr = addr then d ++ h else h ++ d) s
  | none =>
    if s.net.xacts.any mate then
      let g (y : Xact) : Xact := if mate y then { y with use := .blockLoad vd blk dst sat pc addr (some d) } else y
      { s with net := { s.net with xacts := s.net.xacts.map g } }
    else writeBlock x vd blk dst sat d s

/-- The other part of a failed block load delivers nothing. -/
def dropMate (x : CtxId) (pc : BitVec 48) (addr : Word) (s : State) : State :=
  let g (y : Xact) : Xact := match y.use with
    | .blockLoad _ _ _ _ p a _ => if y.who = .core x ∧ p = pc ∧ a = addr then { y with use := .drop } else y
    | _ => y
  { s with net := { s.net with xacts := s.net.xacts.map g } }

/-- A load whose run-ahead read failed is made as a read of its own: the failure leaves nothing (R174). -/
def loadAgain (x : CtxId) (t : Xact) (dst : MemReg) (signed : Bool) (pc : BitVec 48) (off n : Nat) (s : State) : State :=
  issueReq (.core x) (owner s x.c) .read (t.addr + BitVec.ofNat 64 off) n [] 0 false false x.c (.load dst signed pc none)
    (updCtx x (fun r => { r with raLoad := if r.raLoad = some t.id then some s.net.nextId else r.raLoad }) s)

/-- The answer to a read, an object operation or a run-ahead read; one whose context was reset or started again
since is discarded (R183). -/
def readReply (t : Xact) (st : Byte) (d : List Byte) (s : State) : State :=
  if t.orphaned then s else
  match t.who, t.use with
  | .core x, .load dst signed pc none =>
    let s := loadReturns x t s
    if st ≠ 0x00 then accessTrap x st pc t.addr s else writeLoaded x dst signed d s
  | .core x, .load dst signed pc (some (off, n)) =>
    if st ≠ 0x00 then loadAgain x t dst signed pc off n s
    else writeLoaded x dst signed ((d.drop off).take n) (loadReturns x t s)
  | .core x, .blockLoad vd blk dst sat pc addr half =>
    let s := loadReturns x t s
    if st ≠ 0x00 then accessTrap x st pc t.addr (dropMate x pc addr s) else blockReturns x t vd blk dst sat pc addr half d s
  | .core x, .object rd =>
    wx x rd (BitVec.ofNat 64 ((if st = 0x00 then leNat (d.take 4) else 0) + st.toNat * 2 ^ 32)) s
  | .core x, .runahead =>
    let r := ctxRec s x
    if st ≠ 0x00 then setCtx x { r with entries := r.entries.filter (·.req != t.id) } s
    else setCtx x { r with entries := r.entries.map fun e => if e.req = t.id then { e with data := some d, filled := s.t.now } else e } s
  | _, _ => s

def Use.isRead : Use → Bool
  | .load _ _ _ _ => true
  | .blockLoad _ _ _ _ _ _ _ => true
  | .object _ => true
  | .runahead => true
  | _ => false

/-- LOAD_COMPLETE (R202, R261). -/
def execLoadComplete (id : Nat) (s : State) : Host.Outcome State Fault Refusal :=
  .next (takeReply id Use.isRead readReply s)

/-- The answer to a posted write, an atomic, or a packet whose answer nobody uses. The old value of a
4-byte atomic leaves the register's upper half a free value. -/
def writeReply (t : Xact) (st : Byte) (d : List Byte) (s : State) : State :=
  if t.orphaned then s else
  match t.who, t.use with
  | .core x, .store pc => if st ≠ 0x00 then accessTrap x st pc t.addr s else s
  | .core x, .atomic rd wide pc =>
    if st ≠ 0x00 then accessTrap x st pc t.addr s
    else if wide then wx x rd (BitVec.ofNat 64 (leNat d)) s
    else
      let f := takeFree s
      wx x rd (BitVec.ofNat 64 (f.1.toNat / 2 ^ 32 * 2 ^ 32 + leNat (d.take 4))) f.2
  | _, _ => s

def Use.isWrite : Use → Bool
  | .store _ => true
  | .atomic _ _ _ => true
  | .credit _ => true
  | .close _ => true
  | .drop => true
  | _ => false

/-- STORE_COMPLETE (R202). -/
def execStoreComplete (id : Nat) (s : State) : Host.Outcome State Fault Refusal :=
  .next (takeReply id Use.isWrite writeReply s)

/-! ### Run-ahead (R173-R175) -/

/-- The shadow value of a register: x0 is 0, an awaited one is unknown. -/
def shadowGet (v : Vector (Option Word) 32) (r : Reg) : Option Word := if r = 0 then some 0 else v[r]

/-- The shadow copy at entry. -/
def shadowInit (s : State) (x : CtxId) : Vector (Option Word) 32 :=
  Vector.ofFn fun i => if awaited s x [.x i] then none else some (xr s x i)

def shadowSet (v : Vector (Option Word) 32) (d : MemReg) (w : Option Word) : Vector (Option Word) 32 :=
  match d with
  | .x r => vset v r w
  | _ => v

/-- Issues a run-ahead read of the line of an address, where an entry is free and the space allows it
(R173, R174). A line that a posted store or atomic of the context overlaps is not read ahead, since a later load
must see the store (R203; DEDUCED: log entry 139). -/
def raRead (x : CtxId) (a : Word) (s : State) : State :=
  let r := ctxRec s x
  let line := BitVec.ofNat 64 (a.toNat / 64 * 64)
  if 8 ≤ r.entries.length || 3 < addrSpace a || farAddr s a || overlaps s x line 64 false then s
  else
    let e : RaEntry := { addr := line, req := s.net.nextId, data := none, filled := 0 }
    addRaIssued x (issueReq (.core x) (owner s x.c) .read line 64 [] 0 false true x.c .runahead
      (setCtx x { r with entries := r.entries ++ [e] } s))

/-- What run-ahead carries from one decoded instruction to the next: the address, the shadow copy, and its own
copy of the return stack. -/
structure RaWalk where
  pc : BitVec 48
  regs : Vector (Option Word) 32
  rets : List (BitVec 48)
  deriving DecidableEq, Repr

/-- The destinations of an instruction that run-ahead does not execute. -/
def raDests : RaOp → List MemReg
  | .int _ rd _ _ => [.x rd]
  | .load dst _ _ _ => [dst]
  | .branch (.call rd _) => [.x rd]
  | .branch (.callInd rd _) => [.x rd]
  | .branch _ => []
  | .unknown ds => ds
  | .stop => []

/-- Marks registers unknown. -/
def RaWalk.forget (w : RaWalk) (ds : List MemReg) : RaWalk :=
  { w with regs := ds.foldl (fun v d => shadowSet v d none) w.regs }

/-- The predicted path of a branch (R496): a conditional one by its counter, direct jumps and calls taken, a return
by the return stack, other indirect jumps falling through. None for a return with an empty stack, which
predicts nothing (DESIGN CHOICE: run-ahead ends there, log entry 140). -/
def RaWalk.branch (k : CoreRec) (b : BrKind) (w : RaWalk) : Option RaWalk :=
  let link := w.pc + 4
  let push (rd : Reg) (dst : BitVec 48) : RaWalk :=
    ⟨dst, shadowSet w.regs (.x rd) (some (link.setWidth 64)), (link :: w.rets).take 8⟩
  match b with
  | .cond _ _ _ target => some { w with pc := if predictTaken k w.pc then target else link }
  | .jump target => some { w with pc := target }
  | .call rd target => some (push rd target)
  | .callInd rd _ => some (push rd link)
  | .ret _ => match w.rets with
    | [] => none
    | r :: rest => some { w with pc := r, rets := rest }
  | .jumpInd _ => some { w with pc := link }

/-- Decodes one later instruction; none where run-ahead ends (R173). -/
def raStep (x : CtxId) (op : RaOp) (w : RaWalk) (s : State) : Option (RaWalk × State) :=
  let next : RaWalk := { w with pc := w.pc + 4 }
  match op with
  | .stop => none
  | .unknown ds => some (next.forget ds, s)
  | .branch b => (w.branch (coreRec s x.c x.k.val) b).map fun w => (w, s)
  | .int op rd ra b =>
    let y := match b with | .reg r => shadowGet w.regs r | .imm v => some v
    match shadowGet w.regs ra, y with
    | some p, some q => if divZero op false q then none
      else some ({ next with regs := shadowSet w.regs (.x rd) (some (int64 op p q).v) }, s)
    | _, _ => some (next.forget [.x rd], s)
  | .load dst ra off size =>
    match shadowGet w.regs ra with
    | some p =>
      let a := p + off
      if !sizeFits dst size || a.toNat % max size 1 ≠ 0 then none
      else some (next.forget [dst], raRead x a s)
    | none => some (next.forget [dst], s)

/-- Runs ahead over at most so many instructions of the program: answers whether it came to its end. It ends at an
instruction-cache miss and at an address that would trap; where the command carries no instruction for an
address, it goes no further. -/
def raRun (x : CtxId) (code : List RaInstr) : Nat → RaWalk → State → Bool × RaWalk × State
  | 0, w, s => (true, w, s)
  | k + 1, w, s =>
    if !pcOk w.pc || !lineCached s x w.pc then (true, w, s)
    else match code.find? (·.pc == w.pc) with
      | none => (false, w, s)
      | some i => match raStep x i.op w s with
        | none => (true, w, s)
        | some (w, s) => raRun x code k w s

/-- The load that holds an instruction on the scoreboard: the oldest one that will write a register it names
(R159, R173). -/
def awaitedLoad (s : State) (x : CtxId) (rs : List MemReg) : Option Xact :=
  (myXacts s x).find? fun t => t.use.isLoad && t.use.writes.any fun r => rs.contains r

/-- The address after the instruction that waits, along its prediction; its destinations are unknown. -/
def raFrom (k : CoreRec) (op : RaOp) (w : RaWalk) : Option RaWalk :=
  let u := w.forget (raDests op)
  match op with
  | .branch b => u.branch k b
  | _ => some { u with pc := u.pc + 4 }

/-- RUNAHEAD_ENTER (R173): the next instruction waits for a load that has been outstanding for over 32 cycles,
which pass here; run-ahead decodes up to 64 later instructions. -/
def execRunaheadEnter (x : CtxId) (code : List RaInstr) (s : State) : Host.Outcome State Fault Refusal :=
  .next (
    if !canIssue s x then s
    else match code.find? (·.pc == (ctxRec s x).pc) with
      | none => s
      | some i => match awaitedLoad s x i.regs with
        | none => s
        | some t =>
          let s := waitUntil s (t.timer.getD s.t.now + 33 * 8 / max (arithK s x.c) 1 + 1)
          let r := ctxRec s x
          match raFrom (coreRec s x.c x.k.val) i.op ⟨r.pc, shadowInit s x, r.rets⟩ with
          | none => s
          | some w =>
            let z := raRun x code 64 w s
            if z.1 then z.2.2
            else updCtx x (fun k => { k with runahead := true, shadow := some z.2.1.regs, raLoad := some t.id }) z.2.2)

/-- RUNAHEAD_ENTRY_EXPIRE (R175): 4,096 cycles after it was filled. -/
def execRunaheadEntryExpire (x : CtxId) (e : Fin 8) (s : State) : Host.Outcome State Fault Refusal :=
  .next (
    let r := ctxRec s x
    match r.entries[e.val]? with
    | some n =>
      if n.data.isNone then s
      else
        let s := waitUntil s (n.filled + 4096 * 8 / max (arithK s x.c) 1)
        addRaDiscarded x 1 (setCtx x { ctxRec s x with entries := r.entries.eraseIdx e.val } s)
    | none => s)

/-! ### Instruction cache (R182) -/

/-- Global address of an instruction: space 0x0, with module 0xFF (R171, R182). -/
def fetchAddr (a : Nat) : Word := BitVec.ofNat 64 (0xFF * 2 ^ 56 + a)

/-- Reads a line for fetch: its status. -/
def fetchLine (x : CtxId) (line : Nat) (s : State) : Byte × State :=
  match owner s x.c with
  | none => (0x03, s)
  | some p =>
    match translate (stackMap s p) (64 * line) with
    | none => (0x03, s)
    | some (n, phys) =>
      if partResetting s p then (0x05, s)
      else if s.net.dry.stk.getLsbD n.val || (pageOf s n phys).dry then (0x09, s)
      else
        let r := stackRead n phys 64 (fetchAddr (64 * line)) (some p) false (coreUnit x.c x.k.val) s
        (r.1, r.2.2)

/-- Puts a line in the core's 4-way cache of 256 lines; sets are taken by the low line bits, and which
line of a full set goes is a free value. -/
def addLine (c : Cl) (k : Nat) (line : Nat) (s : State) : State :=
  let r := coreRec s c k
  let mine := r.lines.filter fun l => l % 64 == line % 64
  if r.lines.contains line then s
  else if mine.length < 4 then setCore c k { r with lines := line :: r.lines } s
  else
    let f := takeFree s
    let old := mine.getD (f.1.toNat % 4) 0
    setCore c k { r with lines := line :: r.lines.erase old, badLines := r.badLines.erase old } f.2

/-- A parity error met in a line: the line is invalidated, to be fetched again, and counts as a corrected error of
the cluster; 64 within 1 h fence the core (R182, R197, R200, R482). LAST_MEM has no code for the cache: a free
value (DESIGN CHOICE: log entry 141). -/
def cacheParity (x : CtxId) (line : Nat) (s : State) : State :=
  let r := coreRec s x.c x.k.val
  let f := takeFree (setCore x.c x.k.val { r with lines := r.lines.erase line, badLines := r.badLines.erase line } s)
  let s := f.2
  let old := s.mem.clErr.get {} (ck x.c)
  let new := old.count 1 0 (fetchAddr (64 * line)) (f.1.toNat % 4)
  let s := { s with mem := { s.mem with clErr := s.mem.clErr.set {} (ck x.c) new } }
  let s := counterWrap (clAddr 4 x.c 0xF000) (owner s x.c) old.corrected 1 s
  let s := postEccCorrected (clUnit x.c) (localTide s x.c) new.lastAddr 1 s
  let k := strike (2 ^ 45 + ok x.c x.k.val) 0 hour 64 false s
  if k.1 && !isWellhead s x.c then fenceCore x.c x.k 1 k.2 else k.2

/-- ICACHE_FILL (R182): the line and the next one, or FETCH. A line that holds a parity error is invalidated and
fetched again, which is no miss. -/
def execIcacheFill (x : CtxId) (a : BitVec 48) (s : State) : Host.Outcome State Fault Refusal :=
  .next (settle <| 
    let r := ctxRec s x
    if r.state ≠ .ready || r.runahead || r.pc ≠ a || !arithOn s x.c || dryCore s x.c x.k.val then s
    else
      let fetchTrap (st : Byte) (s : State) : State := takeTrap x 0x05 st 0 a (fetchAddr a.toNat) a s
      if !pcOk a then fetchTrap 0x03 s
      else if lineCached s x a then s
      else
        let s := if (coreRec s x.c x.k.val).badLines.contains (a.toNat / 64) then cacheParity x (a.toNat / 64) s else addMisses x s
        let f := fetchLine x (a.toNat / 64) s
        if f.1 ≠ 0x00 then fetchTrap f.1 f.2
        else
          let s := addLine x.c x.k.val (a.toNat / 64) f.2
          let g := fetchLine x (a.toNat / 64 + 1) s
          if g.1 = 0x00 then addLine x.c x.k.val (a.toNat / 64 + 1) g.2 else g.2)

end Sys2Proof.Machine
end

