-- ==== Sys2Proof/Machine/RegSpace.lean ====
section
/-! DEFINITION. Space 0x4: the control register blocks, their reads and writes, and the fountain send
registers (spec/07_memory.md R187-R189 and the owning chapters). -/

namespace Sys2Proof.Machine

open Sys2Proof

/-! ### The maps (R187, R188) -/

/-- A register of space 0x4 by its block; offsets count from the block or its part. -/
inductive RegName where
  | ctx (k : Fin 24) (n : Fin 4) (off : Nat)
  | core (k : Fin 24) (off : Nat)
  | array (off : Nat)
  | region
  | hist (i : Fin 4) (off : Nat)
  | pump (ch : Fin 8) (off : Nat)
  | pumpCtr (off : Nat)
  | ep (e : Fin 256) (off : Nat)
  | bar (b : Fin 32) (off : Nat)
  | sync (off : Nat)
  | fountain (k : Fin 24) (off : Nat)
  | clErr (off : Nat)
  | num (off : Nat)
  | stackMap (off : Nat)
  | stErr (n : Fin 48) (off : Nat)
  | stPump (n : Fin 48) (ch : Fin 16) (off : Nat)
  | stPumpCtr (n : Fin 48) (off : Nat)
  | reserved
  | outside
  deriving DecidableEq, Repr

/-- The register at a cluster-block offset. -/
def clReg (o : Nat) : RegName :=
  if o < 0x3000 then
    let k := Fin.ofNat 24 (o / 0x200)
    let r := o % 0x200
    if r < 0x100 then .ctx k (Fin.ofNat 4 (r / 0x40)) (r % 0x40) else .core k r
  else if 0x4000 ≤ o ∧ o < 0x4030 then .array (o - 0x4000)
  else if 0x4100 ≤ o ∧ o < 0x4108 then .region
  else if 0x5000 ≤ o ∧ o < 0x5800 then .hist (Fin.ofNat 4 ((o - 0x5000) / 0x200)) (o % 0x200)
  else if 0x6000 ≤ o ∧ o < 0x7000 then
    let r := o - 0x6000
    if r < 0x400 then .pump (Fin.ofNat 8 (r / 0x80)) (r % 0x80)
    else if r < 0x418 then .pumpCtr (r - 0x400) else .reserved
  else if 0x8000 ≤ o ∧ o < 0xC000 then
    let r := o - 0x8000
    if r < 0x2000 then .ep (Fin.ofNat 256 (r / 0x20)) (r % 0x20)
    else if r < 0x2200 then .bar (Fin.ofNat 32 ((r - 0x2000) / 0x10)) (r % 0x10)
    else if r < 0x2228 then .sync (r - 0x2200)
    else if 0x3C00 ≤ r ∧ r < 0x3F00 then .fountain (Fin.ofNat 24 ((r - 0x3C00) / 0x20)) (r % 0x20)
    else .reserved
  else if 0xF000 ≤ o ∧ o < 0xF020 then .clErr (o - 0xF000)
  else .outside

/-- The register at a module-block offset. -/
def modReg (o : Nat) : RegName :=
  if o < 0x400 then .num o
  else if 0x1000 ≤ o ∧ o < 0x1100 then .stackMap (o - 0x1000)
  else if 0x2000 ≤ o ∧ o < 0x2600 then .stErr (Fin.ofNat 48 ((o - 0x2000) / 0x20)) (o % 0x20)
  else if 0x10000 ≤ o ∧ o < 0x40000 then
    let n := Fin.ofNat 48 ((o - 0x10000) / 0x1000)
    let r := o % 0x1000
    if r < 0x800 then .stPump n (Fin.ofNat 16 (r / 0x80)) (r % 0x80)
    else if r < 0x818 then .stPumpCtr n (r - 0x800) else .reserved
  else .outside

/-! ### Register words -/

def CtxState.code : CtxState → Nat
  | .idle => 0 | .ready => 1 | .waiting => 2 | .stopped => 3

/-- CTX_STATUS (R176). -/
def ctxStatusWord (r : CtxRec) : Nat :=
  put (CtxState.code r.state) 0 2 + put r.waitKind.toNat 2 2 + put (b2n r.inTrap) 4 1 + put (b2n r.runahead) 5 1 +
  put r.cmdStatus.toNat 8 8 +
  put (if r.waitKind = 2 then r.waitTarget.toNat % 256 else r.waitTarget.toNat) 16 10

/-- A context register (R176); none for a write-only one. -/
def ctxRegWord (r : CtxRec) (off : Nat) : Option Nat :=
  match off / 8 with
  | 0 => some (ctxStatusWord r)
  | 1 => none
  | 2 => some r.pc.toNat
  | 3 => some r.vector.toNat
  | 4 => some (put r.cause.toNat 0 8 + put r.causeStatus.toNat 8 8 + put r.causeFormat.toNat 16 5)
  | 5 => some r.trapPc.toNat
  | 6 => some r.trapAddr.toNat
  | _ => some 0

/-- A core's own register (R176, R184). -/
def coreRegWord (s : State) (c : Cl) (k : Nat) (off : Nat) : Nat :=
  let r := coreRec s c k
  if off = 0x100 then put r.hint.toNat 0 5 + put (arithK s c) 8 5
  else if off = 0x108 then put r.noteObj.toNat 0 5 + put (b2n r.note) 5 1
  else if off = 0x140 then r.issued.toNat
  else if off = 0x148 then r.raIssued.toNat
  else if off = 0x150 then r.raUsed.toNat
  else if off = 0x158 then r.raDiscarded.toNat
  else if off = 0x160 then r.icMisses.toNat
  else if off = 0x168 then
    (r.waitCycles.toNat + ((List.finRange 4).map fun n => waitSoFar s ⟨c, Fin.ofNat 24 k, n⟩).sum) % 2 ^ 64
  else 0

def SlotState.code : SlotState → Nat
  | .free => 0 | .loading => 1 | .loaded => 2 | .active => 3

/-- ARRAY_STATUS (R80's table). -/
def arrStatusWord (a : ArrRec) : Nat :=
  put (if a.state = .idle then 0 else a.active.val) 0 2 + put a.epoch.toNat 2 2 + put (ArrState.code a.state) 4 2 +
  put (match a.pend with | some p => p.slot.val | none => 0) 6 2 + put (b2n a.pend.isSome) 8 1 + put (b2n a.late) 9 1 +
  put a.cause.toNat 10 2 + put (SlotState.code a.slots[0]) 12 2 + put (SlotState.code a.slots[1]) 14 2 +
  put (SlotState.code a.slots[2]) 16 2 + put (SlotState.code a.slots[3]) 18 2 + put a.loadStatus.toNat 20 8 +
  put a.switchStatus.toNat 28 8 + put a.cmdStatus.toNat 36 8

def arrRegWord (a : ArrRec) (off : Nat) : Option Nat :=
  match off / 8 with
  | 0 => some (arrStatusWord a)
  | 4 => some a.stallLimit.toNat
  | 5 => some a.discard.toNat
  | _ => none

/-- Eight bytes of a histogram window (R137). -/
def histWord (s : State) (c : Cl) (i : Fin 4) (off : Nat) : Option Nat :=
  let t := histTile c i
  let r := sfOf s t
  if off < 0x100 then some (put (r.bins.get 0 (off / 4)) 0 32 + put (r.bins.get 0 (off / 4 + 1)) 32 32)
  else if off = 0x100 then none
  else if off = 0x108 then
    let n := ctxOf s t
    some (if (tileOf s t).on then put (fld (body n) 32 8) 0 8 + put (fld (body n) 24 1) 8 1 + put (fld n 0 16) 16 16 else 0)
  else some 0

def ChanState.code : ChanState → Nat
  | .idle => 0 | .running => 1 | .halted => 2

/-- A channel register (R257). -/
def chanWord (r : ChanRec) (off : Nat) : Option Nat :=
  match off / 8 with
  | 0 => some r.priority.toNat
  | 1 => some (put (ChanState.code r.state) 0 2 + put r.queue.length 2 5 + put r.lastStatus.toNat 8 8 +
      put r.lastTag.toNat 16 16 + put r.failTag.toNat 32 16 + put r.cmdStatus.toNat 48 8)
  | 2 => none
  | 3 => some (put r.failUnit.toNat 0 32 + put r.failByte.toNat 32 32)
  | 4 => some r.completed.toNat
  | _ => some 0

def pumpCtrWord (r : PumpCtr) (off : Nat) : Nat :=
  match off / 8 with
  | 0 => r.bytesMoved.toNat
  | 1 => r.raReads.toNat
  | _ => r.raDiscarded.toNat

def EpState.code : EpState → Nat
  | .closed => 0 | .listening => 1 | .opening => 2 | .opened => 3 | .peerClosed => 4 | .broken => 5 | .basin => 6

def epHeld (r : EpRec) : Nat := r.slots.countP fun e => e.2.isSome

/-- EP_STATE (R285). -/
def epStateWord (r : EpRec) : Nat :=
  put (EpState.code r.state) 0 3 + put (b2n r.split) 3 1 + put (b2n r.contributor) 4 1 + put r.creditsReq 8 8 +
  put r.creditsRsp 16 7 + put (epHeld r) 24 8 + put (r.queue / 4096) 32 10 +
  put (match r.note with | some n => n.core | none => 0) 42 5 + put (match r.note with | some n => n.obj | none => 0) 47 5 +
  put (b2n r.note.isSome) 52 1 + put r.cmdStatus.toNat 56 8

/-- EP_PEER (R285). -/
def epPeerWord (r : EpRec) : Nat :=
  match r.basin with
  | some b => put b.format.toNat 0 5 + put (b2n b.max) 5 1 + put (b2n b.sat) 6 1 + put (b2n b.done) 7 1 + put b.chunks 8 8
  | none => r.peer.toNat

/-- EP_SEQ (R285). -/
def epSeqWord (r : EpRec) : Nat :=
  match r.basin with
  | some b => put b.count.toNat 0 32 + put b.target.toNat 32 32
  | none =>
    if r.contributor then put r.cursor 0 7 + put (8 - r.creditsReq) 7 4
    else put r.sndReq.toNat 0 16 + put r.rcvReq.toNat 16 16 + put r.sndRsp.toNat 32 16 + put r.rcvRsp.toNat 48 16

def epWord (r : EpRec) (off : Nat) : Option Nat :=
  match off / 8 with
  | 0 => some (epStateWord r)
  | 1 => some (epPeerWord r)
  | 2 => some (epSeqWord r)
  | _ => none

/-- BAR_CONFIG and BAR_STATUS (R285). -/
def barWord (r : BarRec) (off : Nat) : Nat :=
  if off / 8 = 0 then
    put r.expected 0 7 + put (b2n r.stagger) 7 1 + put r.core 8 5 + put r.obj 13 5 + put (b2n r.valid) 18 1 + put r.lead.toNat 32 16
  else put r.generation.toNat 0 16 + put r.arrived 16 7 + put (b2n r.held) 23 1 + put r.lastStatus.toNat 24 8

/-- The block's other registers (R285). -/
def syncWord (s : State) (c : Cl) (off : Nat) : Nat :=
  let r := syncRegs s c
  match off / 8 with
  | 0 => stagger s c
  | 1 => r.watchdog.toNat
  | 2 => r.duplicates.toNat
  | 3 => r.windowErrors.toNat
  | _ => r.lateReleases.toNat

def fregOf (s : State) (c : Cl) (k : Nat) : FReg := s.net.fregs.get {} (ok c k)
def setFreg (c : Cl) (k : Nat) (r : FReg) (s : State) : State :=
  { s with net := { s.net with fregs := s.net.fregs.set {} (ok c k) r } }

/-- A fountain register (R226). -/
def fountainWord (r : FReg) (off : Nat) : Option Nat :=
  match off / 8 with
  | 0 => some r.value.toNat
  | 1 => none
  | 2 => some (put r.status.toNat 0 8 + put (b2n r.inFlight) 8 1 + put r.failed.toNat 16 16)
  | _ => some 0

/-- A memory error block (R201). -/
def errWord (e : MemErr) (off : Nat) : Nat :=
  match off / 8 with
  | 0 => e.corrected.toNat
  | 1 => e.uncorrected.toNat
  | 2 => e.lastAddr.toNat
  | _ => put e.lastMem.toNat 0 2 + put (b2n e.lastUncorr) 2 1

def RegionState.code : RegionState → Nat
  | .free => 0 | .opened => 1 | .closing => 2 | .committed => 3 | .aborted => 4

/-- A region slot register (R147). -/
def regionWord (g : RegionSlot) (off : Nat) : Option Nat :=
  match off / 8 with
  | 0 => none
  | 1 => some (put (RegionState.code g.state) 0 3 + put g.attempt.val 8 3 + put g.format.toNat 11 5 + put g.tag.toNat 16 16 +
      put g.nextFormat.toNat 32 5 + put g.action.toNat 37 2 + put g.cmdStatus.toNat 40 8)
  | 2 => some (put g.overflows.toNat 0 32 + put g.firstUnit.toNat 32 32)
  | _ => some g.underflows.toNat

def policyWord (b : NumBlock) : Nat :=
  put (b2n b.nanTrap) 0 1 + put b.repeatMax.val 1 3 + put (b2n b.seedMode) 4 1 + put (b2n b.coreSentinel) 5 1

/-- A register of the numerics block (R59, R134, R135). -/
def numWord (b : NumBlock) (off : Nat) : Option Nat :=
  if 0x100 ≤ off ∧ off < 0x300 then regionWord (b.slots[Fin.ofNat 16 ((off - 0x100) / 32)]) (off % 32)
  else match off / 8 with
    | 0 => some (nanWord b.nan)
    | 1 => some b.nan.location.toNat
    | 2 => some b.nan.tide.toNat
    | 4 => some b.nanCount.toNat
    | 5 => some b.nanLost.toNat
    | 6 => some b.blockUnderflow.toNat
    | 7 => some b.overflowCount.toNat
    | 8 => some b.lateReports.toNat
    | 16 => some (policyWord b)
    | 17 => some b.seedBase.toNat
    | 18 => some b.underflowStep.toNat
    | _ => some 0

/-- A region entry of the stack map, 16 bytes (R192). -/
def regionEntry (r : Option StackRegion) : Nat :=
  match r with
  | none => 0
  | some r => put r.start 0 12 + put (r.members.length * r.depth) 16 12 + put (b2n r.linear) 28 1 + put 1 29 1 +
      put (r.members.foldl (fun n m => n + 2 ^ m.val) 0) 64 48

def stackMapWord (s : State) (p : Fin 64) (off : Nat) : Nat :=
  match partOf s p with
  | some r => fld (regionEntry r.regions[Fin.ofNat 16 (off / 16)]) (64 * (off / 8 % 2)) 64
  | none => 0

/-! ### Reading (R134, R176, R189, R257, R285) -/

/-- Checks 5 to 7 of a module block that belongs to the requester's partition (R188). -/
def ownBlock (s : State) (who : Requester) : Byte ⊕ Fin 64 :=
  match partPerm s who with
  | none => .inl 0x04
  | some p => if partResetting s p then .inl 0x05 else .inr p

/-- Permission to pump-wide counters (R257). -/
def pumpCtrPerm (s : State) (who : Requester) (p : PumpId) : Byte :=
  match p with
  | .cluster c => chanPerm s who (.cluster c 0)
  | .stack st =>
    let ok : Bool := match who with
      | .wellhead none => true
      | _ => match partPerm s who with
        | some q => (List.finRange 16).any fun ch => (chanOf s (.stack st ch)).owner == some q
        | none => false
    if !ok then 0x04 else if !pumpOn s p then 0x09 else 0x00

/-- A register read: its status, and its value (none where the spec gives none: a write-only one). -/
def readReg (s : State) (who : Requester) (c : Cl) (r : RegName) : Byte × Option Nat :=
  let cl (v : Option Nat) : Byte × Option Nat :=
    let st := regPerm s who c
    if st = 0x00 then (0x00, v) else (st, some 0)
  let chan (ch : ChanId) (off : Nat) : Byte × Option Nat :=
    let st := chanPerm s who ch
    if st = 0x00 then (0x00, chanWord (chanOf s ch) off) else (st, some 0)
  let ctr (p : PumpId) (off : Nat) : Byte × Option Nat :=
    let st := pumpCtrPerm s who p
    if st = 0x00 then (0x00, some (pumpCtrWord (pumpCtr s p) off)) else (st, some 0)
  let own (f : Fin 64 → Option Nat) : Byte × Option Nat :=
    match ownBlock s who with
    | .inl st => (st, some 0)
    | .inr p => (0x00, f p)
  match r with
  | .ctx k n off => cl (ctxRegWord (ctxRec s ⟨c, k, n⟩) off)
  | .core k off => cl (some (coreRegWord s c k.val off))
  | .array off => cl (arrRegWord (arrOf s c) off)
  | .region => cl (some (regionOf s c).toNat)
  | .hist i off => cl (histWord s c i off)
  | .pump ch off => chan (.cluster c ch) off
  | .pumpCtr off => ctr (.cluster c) off
  | .ep e off => cl (epWord (epOf s c e.val) off)
  | .bar b off => cl (some (barWord (barOf s c b.val) off))
  | .sync off => cl (some (syncWord s c off))
  | .fountain k off => cl (fountainWord (fregOf s c k.val) off)
  | .clErr off => cl (some (errWord (s.mem.clErr.get {} (ck c)) off))
  | .num off => own fun p => numWord (numBlock s p) off
  | .stackMap off => own fun p => some (stackMapWord s p off)
  | .stErr n off => (0x00, some (errWord (s.mem.stErr.get {} n.val) off))
  | .stPump n ch off => chan (.stack n ch) off
  | .stPumpCtr n off => ctr (.stack n) off
  | .reserved => cl (some 0)
  | .outside => (0x03, some 0)

/-- Reads a register into `ioReply` and `ioData`; a write-only register reads a free value. -/
def regRead (who : Requester) (c : Cl) (r : RegName) (s : State) : State :=
  let s := match r with | .num _ => reportsDue s | _ => s
  let a := readReg s who c r
  match a.2 with
  | some v => { s with ioReply := a.1, ioData := BitVec.ofNat 64 v }
  | none => let f := takeFree s; { f.2 with ioReply := a.1, ioData := f.1 }

/-! ### Fountain sends (R226, R227) -/

/-- A core's send waits for its implied RELEASE fence of scope M; the store that asks for the send is no earlier access
of its own (R205, R227). -/
def fountainHeld (who : Requester) (r : RegName) (self : Option Nat) (s : State) : Bool :=
  match who, r with
  | .core x, .fountain _ off =>
    off / 8 == 1 && !(myXacts s x).all fun t =>
      some t.id == self || !(inScope s x .m t.addr && (t.use.isLoad || t.use.isAtomic || t.use.isStore))
  | _, _ => false

/-- A FOUNTAIN_CMD write by core `k`'s register set. -/
def fountainCmd (who : Requester) (c : Cl) (k : Fin 24) (v : Word) (s : State) : State :=
  let st := regPerm s who c
  let r := fregOf s c k.val
  let n := v.toNat
  let note := if bit n 42 then some (⟨fld n 32 5, fld n 37 5⟩ : NoteRef) else none
  let refuse (st : Byte) (note : Option NoteRef) : State := reply 0x00 (notifyOpt c note (setFreg c k.val { r with status := st } s))
  if st ≠ 0x00 then reply st s
  else if 24 ≤ fld n 32 5 then refuse 0x03 none
  else match owner s c with
    | none => reply 0x04 s
    | some p =>
      let f := Fin.ofNat 16 n
      match s.net.fountains.get none (p.val * 16 + f.val) with
      | none => refuse 0x03 note
      | some g =>
        if fld n 4 4 ≠ 0 ∨ fld n 30 2 ≠ 0 ∨ fld n 43 21 ≠ 0 ∨ fld n 8 3 ≠ 0 then refuse 0x03 note
        else if r.inFlight then refuse 0x01 note
        else
          let id := s.net.nextSend
          let mk (m : Cl) : FVal := { send := id, part := p, f := f, off := fld n 8 22, value := r.value, member := m }
          let send : FSend := { id := id, part := p, f := f, src := c, core := k, note := note,
                                left := g.members.length, worst := 0x00, failed := 0 }
          reply 0x00 (setFreg c k.val { r with inFlight := true } { s with net := { s.net with
            fvals := s.net.fvals ++ g.members.map mk, fsends := s.net.fsends ++ [send], nextSend := id + 1 } })

/-- FOUNTAIN_SEND (R226, R227): a write whose implied fence still waits is not performed yet. -/
def execFountainSend (who : Requester) (c : Cl) (k : Fin 24) (v : Word) (s : State) : Host.Outcome State Fault Refusal :=
  .next (if fountainHeld who (.fountain k 8) none s then s else fountainCmd who c k v s)

/-! ### Writing (R6, R189) -/

/-- The state of an outcome. -/
def nextOf (s : State) (o : Host.Outcome State Fault Refusal) : State :=
  match o with
  | .next t => t
  | _ => s

/-- A CTX_CMD write (R176). -/
def ctxCmdWrite (who : Requester) (x : CtxId) (v : Word) (s : State) : State :=
  match fld v.toNat 0 3 with
  | 1 => nextOf s (execCtxStart who x v s)
  | 2 => nextOf s (execCtxStop who x v s)
  | 3 => nextOf s (execCtxResume who x v s)
  | 4 => nextOf s (execCtxReset who x v s)
  | _ => ctxCmd who x v 0 (fun s => (0x03, s)) s

/-- An ARRAY_CMD write (R80). -/
def arrayCmdWrite (who : Requester) (c : Cl) (v : Word) (s : State) : State :=
  match fld v.toNat 0 3 with
  | 1 => nextOf s (execArrayFreeze who c v s)
  | 2 => nextOf s (execArrayResume who c v s)
  | 3 => nextOf s (execArrayRelease who c v s)
  | _ => arrWrite who c (setCmdStatus c 0x03) s

/-- A region slot CMD write (R148); a reserved CMD is refused and notifies. -/
def regionCmdWrite (who : Requester) (i : Fin 16) (v : Word) (s : State) : State :=
  match fld v.toNat 0 3 with
  | 1 => nextOf s (execRegionOpen who i v s)
  | 2 => nextOf s (execRegionClose who i v s)
  | 3 => nextOf s (execRegionAbort who i v s)
  | 4 => nextOf s (execRegionRelease who i v s)
  | _ => regionCmd who i v 0 (fun p c note _ b g s =>
      some (notifyOpt c note (setNum p { b with slots := vset b.slots i { g with cmdStatus := 0x03 } } s))) s

/-- A CH_CMD write (R257). -/
def chCmdWrite (who : Requester) (ch : ChanId) (v : Word) (s : State) : State :=
  match fld v.toNat 0 2 with
  | 1 => nextOf s (execPumpRestart who ch v s)
  | 2 => nextOf s (execPumpAbort who ch v s)
  | _ => chanCmd who ch v (fun _ s => (0x03, s)) s

/-- An EP_CMD write (R285). -/
def epCmdWrite (who : Requester) (c : Cl) (e : Fin 256) (v : Word) (s : State) : State :=
  match fld v.toNat 0 3 with
  | 1 => nextOf s (execConsume who c e v s)
  | 2 => nextOf s (execSetCursor who c e v s)
  | 3 => nextOf s (execBasinClear who c e v s)
  | _ => epCmd who c e v (fun _ _ s => (0x03, s)) s

/-- Stores a plain register's value, if permitted. -/
def storeReg (who : Requester) (c : Cl) (f : State → State) (s : State) : State :=
  let st := regPerm s who c
  if st = 0x00 then reply 0x00 (f s) else reply st s

/-- A write to a read-only register (R189). -/
def readOnly (who : Requester) (c : Cl) (s : State) : State :=
  let st := regPerm s who c
  if st = 0x00 ∨ st = 0x09 then reply 0x04 s else reply st s

/-- A write to a channel's register (R257). -/
def chanWrite (who : Requester) (ch : ChanId) (off : Nat) (v : Word) (s : State) : State :=
  match off / 8 with
  | 0 =>
    let st := chanPerm s who ch
    if st ≠ 0x00 then reply st s
    else reply 0x00 (setChan ch { chanOf s ch with priority := BitVec.ofNat 2 (fld v.toNat 0 2) } s)
  | 2 => chCmdWrite who ch v s
  | _ =>
    let st := chanPerm s who ch
    reply (if st ≠ 0x00 then st else 0x04) s

/-- A register write by its name: rows of their own, plain stores, read-only and reserved ones. In the blocks of
R176, R257 and R285, whose chapters grant access more narrowly than R189, a write to reserved bytes is one of their
"any other write": NOT_PERMITTED. DEDUCED, log entry 144. -/
def writeReg (who : Requester) (c : Cl) (r : RegName) (v : Word) (s : State) : State :=
  let n := v.toNat
  match r with
  | .ctx k i off =>
    match off / 8 with
    | 1 => ctxCmdWrite who ⟨c, k, i⟩ v s
    | 3 => storeReg who c (updCtx ⟨c, k, i⟩ fun r => { r with vector := BitVec.ofNat 48 n }) s
    | _ => readOnly who c s
  | .core k off =>
    if off = 0x108 then
      storeReg who c (fun s => setCore c k.val { coreRec s c k.val with noteObj := BitVec.ofNat 5 n, note := bit n 5 } s) s
    else readOnly who c s
  | .array off =>
    match off / 8 with
    | 0 => storeReg who c (updArr c fun a => { a with late := a.late && !bit n 9 }) s
    | 1 => arrayCmdWrite who c v s
    | 2 => nextOf s (execCtxLoad who c v s)
    | 3 => arrWrite who c (switchReq c n) s
    | 4 => storeReg who c (updArr c fun a => { a with stallLimit := BitVec.ofNat 32 n }) s
    | _ => readOnly who c s
  | .region => nextOf s (execRegionWrite who c v s)
  | .hist i off =>
    if off = 0x100 then nextOf s (execHistClear who c i v s)
    else if off < 0x110 then readOnly who c s
    else storeReg who c id s
  | .pump ch off => chanWrite who (.cluster c ch) off v s
  | .pumpCtr _ => let st := pumpCtrPerm s who (.cluster c); reply (if st = 0x00 then 0x04 else st) s
  | .ep e off => if off / 8 = 3 then epCmdWrite who c e v s else readOnly who c s
  | .bar _ _ => readOnly who c s
  | .sync off =>
    if off / 8 = 1 then storeReg who c (fun s => setSyncRegs c { syncRegs s c with watchdog := BitVec.ofNat 32 n } s) s
    else readOnly who c s
  | .fountain k off =>
    match off / 8 with
    | 0 => storeReg who c (fun s => setFreg c k.val { fregOf s c k.val with value := v } s) s
    | 1 => fountainCmd who c k v s
    | _ => readOnly who c s
  | .clErr _ => readOnly who c s
  | .num off =>
    if 0x100 ≤ off ∧ off < 0x300 ∧ off % 32 < 8 then regionCmdWrite who (Fin.ofNat 16 ((off - 0x100) / 32)) v s
    else match ownBlock s who with
      | .inl st => reply st s
      | .inr _ => reply 0x04 s
  | .stackMap _ => match ownBlock s who with
      | .inl st => reply st s
      | .inr _ => reply 0x04 s
  | .stErr _ _ => reply 0x04 s
  | .stPump st ch off => chanWrite who (.stack st ch) off v s
  | .stPumpCtr st _ => let r := pumpCtrPerm s who (.stack st); reply (if r = 0x00 then 0x04 else r) s
  | .reserved => readOnly who c s
  | .outside => reply 0x03 s

/-- The register an address names and its cluster, the requester's own for a module block. -/
def regAddr (home : Cl) (a : Word) : Cl × RegName :=
  let o := fld a.toNat 0 22
  if bit a.toNat 38 then (home, modReg o) else ((addrCl a).getD home, clReg o)

/-- A space 0x4 write of `size` bytes (R9, R187, R189). -/
def spaceWrite (who : Requester) (a : Word) (size : Nat) (v : Word) (s : State) : State :=
  let home : Cl := match who with
    | .core x => x.c
    | .io c _ => c
    | .config c => c
    | _ => ⟨0, 0, 0⟩
  let m := addrModule a
  if !layoutOk a || addrSpace a != 4 || size != 8 || a.toNat % 8 != 0 then reply 0x03 s
  else if m != 0xFF && some m != ownModule s then reply 0x04 s
  else
    let r := regAddr home a
    if fountainHeld who r.2 none s then s else writeReg who r.1 r.2 v s

end Sys2Proof.Machine
end

