-- ==== Sys2Proof/Machine/MemServe.lean ====
section
/-! DEFINITION. Requests served at memories, registers and host memory; page zeroing, the patrol
scrub and the CXL.mem window (spec/07_memory.md). -/

namespace Sys2Proof.Machine

open Sys2Proof

/-! ### Serving (R185, R198, R199, R203, R207) -/

/-- An older request of the same unit to overlapping bytes has not been performed (R203). -/
def olderOverlap (s : State) (x : Xact) : Bool :=
  s.net.xacts.any fun y =>
    y.who == x.who && decide (y.id < x.id) && y.kind != .message &&
    (match y.phase with | .inject => true | .going => true | .there => true | _ => false) &&
    decide ((selfAddr s y.addr).toNat < (selfAddr s x.addr).toNat + x.len) && decide ((selfAddr s x.addr).toNat < (selfAddr s y.addr).toNat + y.len) &&
    !(y.kind == .read && x.kind == .read)

/-- New bytes of an atomic from the old ones (R46, R47, R207). -/
def atomNew (op : Nat) (sat : Bool) (old src cmp : List Byte) : List Byte :=
  let n := old.length
  match op with
  | 0 => leBytes 4 (ofInt 32 (clampInt (-(2 ^ 31)) (2 ^ 31 - 1) (sgn 32 (leNat old) + sgn 32 (leNat src))))
  | 1 => leBytes 8 (leNat old + leNat src)
  | 2 => leBytes 4 ((addV (decodeElem 8 (leNat old)) (decodeElem 8 (leNat src))).finish (.flt fp32) sat).code
  | 3 => src
  | _ => if old = cmp.take n then src else old

/-- Performs an access on an SRAM and answers it. -/
def sramServe (x : Xact) (s : State) : State :=
  let u := whoUnit x.who
  match x.kind with
  | .read =>
    let r := sramRead x.addr x.len x.ra u s
    answer x r.1 r.2.1 r.2.2
  | .write =>
    let r := sramWrite x.addr x.data u s
    answer x r.1 [] r.2
  | .atomic op =>
    let r := sramRead x.addr x.len false u s
    if r.1 ≠ 0x00 then answer x r.1 [] r.2.2
    else
      let w := sramWrite x.addr (atomNew op x.sat r.2.1 x.data (leBytes 8 x.operand.toNat)) u r.2.2
      answer x w.1 (if w.1 = 0x00 then r.2.1 else []) w.2
  | _ => s

/-- A core's local memory or a memory tile that is dry (R483). -/
def dryUnit (s : State) (c : Cl) (a : Word) : Bool :=
  let o := fld a.toNat 0 22
  match addrSpace a with
  | 2 => s.net.dry.cores.get false (ok c (fld o 16 5))
  | 3 => (List.finRange 32).any fun t => tileKind t == 3 && memNum t == fld o 17 4 && s.net.dry.tiles.get false (ck c * 32 + t.val)
  | _ => false

/-- A cluster's SRAM serves a request (R185). -/
def clusterServe (x : Xact) (c : Cl) (s : State) : State :=
  if dryUnit s c x.addr then answer x 0x09 [] s
  else if olderOverlap s x then s
  else settle (sramServe x s)

/-- Adds bytes to the energy meters' counts (R329). -/
def countStack (n : Fin 48) (p : Fin 64) (k : Nat) (s : State) : State :=
  { s with pwr := { s.pwr with stackBytes := s.pwr.stackBytes.upd 0 (n.val * 64 + p.val) (· + k) } }
def countPort (port : Nat) (p : Fin 64) (k : Nat) (s : State) : State :=
  { s with pwr := { s.pwr with portBytes := s.pwr.portBytes.upd 0 (port * 64 + p.val) (· + k) } }

/-- The stack answers: it is not dry, not in self-refresh, and its supply is on (R338, R485). -/
def stackOn (s : State) (n : Fin 48) : Bool :=
  s.pwr.rails && !s.net.dry.stk.getLsbD n.val && !(s.pwr.stk.get {} n.val).refresh

/-- Checks 5 to 7 on a stack page. -/
def stackCheck (s : State) (x : Xact) (n : Fin 48) (phys : Nat) : Byte :=
  match x.part with
  | none => 0x04
  | some p =>
    if (pageOf s n phys).holder ≠ some p then 0x04
    else if resetRefuses s p x.id then 0x05
    else if !stackOn s n then 0x09
    else 0x00

/-- A stack serves a request (R185, R194-R199). -/
def stackServe (x : Xact) (s : State) : State :=
  match x.phys with
  | none => answer x 0x03 [] s
  | some (n, phys) =>
    let u := whoUnit x.who
    let st := stackCheck s x n phys
    if st ≠ 0x00 then answer x st [] s
    else if olderOverlap s x then s
    else
      let s := match x.part with | some p => countStack n p x.len s | none => s
      settle (match x.kind with
      | .read =>
        let r := stackRead n phys x.len x.addr x.part x.ra u s
        answer x r.1 r.2.1 r.2.2
      | .write =>
        match stackWrite n phys x.data x.addr x.part u s with
        | none => s
        | some r => answer x r.1 [] r.2
      | .atomic op =>
        let r := stackRead n phys x.len x.addr x.part false u s
        if r.1 ≠ 0x00 then answer x r.1 [] r.2.2
        else
          match stackWrite n phys (atomNew op x.sat r.2.1 x.data (leBytes 8 x.operand.toNat)) x.addr x.part u r.2.2 with
          | none => s
          | some w => answer x w.1 (if w.1 = 0x00 then r.2.1 else []) w.2
      | _ => s)

/-- The status that a completion of the host gives (R190). -/
def cplStatus : Config.HostCpl → Byte
  | .success => 0x00
  | .unsupported => 0x04
  | .abort => 0x09
  | .poisoned => 0x0C

/-- The host's answer to an access: that of the first page it touches that gives one (R190). -/
def hostStatus (s : State) (a n : Nat) : Byte :=
  let bad := (List.range ((a + n - 1) / 4096 - a / 4096 + 1)).map fun i => cplStatus (s.mem.hostErr.get .success (a / 4096 + i))
  (bad.find? (· ≠ 0x00)).getD 0x00

/-- A host port serves a request to space 0x8 (R190): a write is posted; nothing answers on a port
that is down, and its read times out. -/
def hostServe (x : Xact) (s : State) : State :=
  match x.part with
  | none => answer x 0x04 [] s
  | some p =>
    match hostPort s p with
    | none => answer x 0x04 [] s
    | some port =>
      if olderOverlap s x then s else
      let a := fld x.addr.toNat 0 52
      let st := hostStatus s a x.len
      let s := countPort (16 + port.val) p x.len s
      match x.kind with
      | .write => answer x 0x00 [] (if st = 0x00 ∧ s.host.ports[port].up then { s with mem := { s.mem with host := writeBytes s.mem.host a x.data } } else s)
      | .read =>
        if !s.host.ports[port].up then s
        else if st ≠ 0x00 then answer x st [] s
        else answer x 0x00 (readBytes s.mem.host a x.len) s
      | _ => s

/-- A register request is performed at its block (R189). -/
def regServe (x : Xact) (s : State) : State :=
  let r := regAddr x.src x.addr
  match x.kind with
  | .write =>
    if fountainHeld x.who r.2 (some x.id) s then s else
    let s := writeReg x.who r.1 r.2 (BitVec.ofNat 64 (leNat x.data)) s
    answer x s.ioReply [] s
  | .read =>
    let s := regRead x.who r.1 r.2 s
    answer x s.ioReply (if s.ioReply = 0x00 then (leBytes 8 s.ioData.toNat).take x.len else []) s
  | _ => s

/-- MEM_ACCESS_SERVE (R185): a read, write or atomic at its target; space 0x3 has a row of its own. -/
def execMemAccessServe (id : Nat) (s : State) : Host.Outcome State Fault Refusal :=
  .next (
    match xactOf s id with
    | none => s
    | some x =>
      let mine : Bool := match x.kind with | .read => true | .write => true | .atomic _ => true | _ => false
      if x.phase != .there || !mine then s
      else match addrSpace x.addr with
        | 0x0 => stackServe x s
        | 0x8 => hostServe x s
        | 0x4 => if asleep s (regAddr x.src x.addr).1 && !bit x.addr.toNat 38 then s else regServe x s
        | 0x3 => s
        | _ => nextOf s (.next (atTarget id (fun _ => true) clusterServe s)))

/-- MEM_TILE_OUTSIDE_ACCESS (R124): a space 0x3 request takes its bank port. -/
def execMemTileOutsideAccess (id : Nat) (s : State) : Host.Outcome State Fault Refusal :=
  .next (atTarget id (fun x => addrSpace x.addr == 3 && (match x.kind with | .read => true | .write => true | .atomic _ => true | _ => false))
    clusterServe s)

/-! ### CXL.mem (R209-R212) -/

/-- Sends read data to the host. -/
def cxlReply (port : Fin 2) (d : Nat) (err : Bool) (s : State) : State :=
  { s with out := s.out ++ [.cxlData port (BitVec.ofNat 512 d) err] }

/-- Signals an uncorrectable internal error (R211). -/
def aerSignal (port : Fin 2) (s : State) : State :=
  let r := s.host.ports[port]
  { s with host := { s.host with ports := vset s.host.ports port { r with aer := r.aer + 1 } } }

/-- Counts an access to an unmapped slice (R210). -/
def hdmCount (s : State) : State :=
  let old := s.mem.hdmUnmapped
  wrapEvent atbinUnit 0 0x0405 none old 1 { s with mem := { s.mem with hdmUnmapped := old + 1 } }

/-- The page a device address reaches through its slice: its partition and place. -/
def hdmTarget (s : State) (a : Nat) : Option (Fin 64 × Option (Fin 48 × Nat)) :=
  match s.mem.slices.get none (a / 2 ^ 30) with
  | none => none
  | some (p, page) => some (p, translate (stackMap s p) (page * 2 ^ 30 + a % 2 ^ 30))

/-- The global address of a mapped slice's byte: its partition's space 0x0 offset. -/
def hdmAddr (s : State) (a : Nat) : Word :=
  match s.mem.slices.get none (a / 2 ^ 30) with
  | some (_, page) => BitVec.ofNat 64 (0xFF * 2 ^ 56 + page * 2 ^ 30 + a % 2 ^ 30)
  | none => 0

/-- GiB of a stack the fuses enable (R4). -/
def stackPages (variant : Nat) : Nat := if variant = 1 then 32 else 64

/-- HDM range in GiB (R209). -/
def hdmGib (s : State) : Nat := 48 * stackPages s.boot.variant

/-- The device address that a host address selects at a port (R209): none where the port's decoder does not hold it, or
where 2-way interleave gives it to the other port. The decoder covers the whole range, so the address counts from its
base (DEDUCED, log entry 150). -/
def hdmDecode (s : State) (port : Fin 2) (hpa : Nat) : Option Nat :=
  let d := s.host.ports[port].hdm
  let a := hpa - d.base
  if hpa < d.base ∨ hdmGib s * 2 ^ 30 ≤ a then none
  else if d.ways2 && a / 2 ^ (8 + d.gran.val) % 2 != port.val then none
  else some (a / 64 * 64)

/-- CXL_MEM_READ (R210, R211). -/
def execCxlMemRead (port : Fin 2) (hpa : Nat) (s : State) : Host.Outcome State Fault Refusal :=
  .next (
    if !s.host.ports[port].up then s
    else match hdmDecode s port hpa with
    | none => s
    | some a =>
      match hdmTarget s a with
      | none => cxlReply port 0 false (hdmCount s)
      | some (_, none) => cxlReply port 0 false (hdmCount s)
      | some (p, some (n, phys)) =>
        let s := countPort (16 + port.val) p 64 s
        if partResetting s p then cxlReply port 0 false s
        else if !stackOn s n then cxlReply port (2 ^ 512 - 1) true (aerSignal port s)
        else
          let addr := hdmAddr s a
          let r := stackRead n phys 64 addr (some p) false (cxlUnit port) (countStack n p 64 s)
          settle (if r.1 = 0x00 then cxlReply port (leNat r.2.1) false r.2.2
            else cxlReply port (2 ^ 512 - 1) true (aerSignal port r.2.2)))

/-- A CXL.mem write at a device address: performed, discarded, or none while the page's ahead list is full (R196,
R210, R211). -/
def cxlWrite (port : Fin 2) (a : Nat) (data : BitVec 512) (s : State) : Option State :=
  match hdmTarget s a with
  | none => some (hdmCount s)
  | some (_, none) => some (hdmCount s)
  | some (p, some (n, phys)) =>
    let s := countPort (16 + port.val) p 64 s
    if partResetting s p || !stackOn s n then some s
    else (stackWrite n phys (leBytes 64 data.toNat) (hdmAddr s a) (some p) (cxlUnit port) (countStack n p 64 s)).map fun r => settle r.2

/-- CXL_MEM_WRITE (R210, R211): behind those that wait for a watermark (R196). -/
def execCxlMemWrite (port : Fin 2) (hpa : Nat) (data : BitVec 512) (s : State) : Host.Outcome State Fault Refusal :=
  .next (
    if !s.host.ports[port].up then s
    else match hdmDecode s port hpa with
    | none => s
    | some a =>
      let hold : State := { s with mem := { s.mem with cxlHeld := s.mem.cxlHeld ++ [(port, a, data)] } }
      if s.mem.cxlHeld.any fun e => e.2.1 == a then hold else (cxlWrite port a data s).getD hold)

/-- The writes that waited for a watermark are tried again, in order (R196). -/
def retryCxl (s : State) : State :=
  s.mem.cxlHeld.foldl (fun s e =>
    let hold : State := { s with mem := { s.mem with cxlHeld := s.mem.cxlHeld ++ [e] } }
    if s.mem.cxlHeld.any fun f => f.2.1 == e.2.1 then hold else (cxlWrite e.1 e.2.1 e.2.2 s).getD hold)
    { s with mem := { s.mem with cxlHeld := [] } }

/-! ### Zeroing (R195, R196) -/

/-- Takes a page off the causes that wait for it; a cause with none left posts WIPE_DONE. -/
def pageZeroed (jobs : List Nat) (s : State) : State :=
  jobs.foldl (fun s j =>
    match s.mem.jobs.find? (·.id == j) with
    | none => s
    | some w =>
      if 1 < w.left then
        let dec (v : WipeJob) : WipeJob := if v.id = j then { v with left := v.left - 1 } else v
        { s with mem := { s.mem with jobs := s.mem.jobs.map dec } }
      else
        let s := { s with mem := { s.mem with jobs := s.mem.jobs.filter fun v => v.id != j } }
        postEvent .wipeDone atbinUnit w.part (moduleTide s)
          ([match w.part with | some p => BitVec.ofNat 8 p.val | none => 0xFF, BitVec.ofNat 8 w.cause, 0, 0] ++ leBytes 4 w.pages) s) s

/-- PAGE_ZERO_DONE (R195, R196): the page at the head of the stack's order is zero but for the granules
written meanwhile; what is written in full loses its error (R198). -/
def execPageZeroDone (st : Fin 48) (s : State) : Host.Outcome State Fault Refusal :=
  .next (
    match s.mem.zeroing.get [] st.val with
    | [] => s
    | page :: rest =>
      let key := st.val * 64 + page
      let p := s.mem.pages.get {} key
      let base := st.val * 2 ^ 36 + page * 2 ^ 30
      let zeroed (j : Nat) : Bool := base ≤ 32 * j && 32 * j < base + 2 ^ 30 && !p.ahead.contains (32 * j % 2 ^ 30 / 4096)
      let s := { s with mem := { s.mem with
        zeroing := s.mem.zeroing.set [] st.val rest
        stackErr := s.mem.stackErr.filter fun e => !zeroed e.1
        pages := s.mem.pages.set {} key { p with mark := 262144, ahead := [], jobs := [] } } }
      retryCxl (pageZeroed p.jobs s))

/-! ### Patrol scrub (R197, R200) -/

/-- PATROL_SCRUB: units below 2^40 are 8-byte SRAM units, those from it on 32-byte halves of stacks. -/
def execPatrolScrub (unit : Nat) (s : State) : Host.Outcome State Fault Refusal :=
  .next (settle (
    if unit < 2 ^ 40 then
      let a := sramUnitAddr unit
      match addrCl a with
      | some c => if computeOff s c then s else (sramRead a 8 false (clUnit c) s).2.2
      | none => s
    else
      let k := 32 * (unit - 2 ^ 40)
      let n := Fin.ofNat 48 (k / 2 ^ 36)
      let phys := k % 2 ^ 36
      if stackOn s n && !granuleZero s n phys then
        (stackRead n phys 32 (BitVec.ofNat 64 (n.val * 2 ^ 58 + phys)) none false (stackUnit n) s).2.2
      else s))

end Sys2Proof.Machine
end

