-- ==== Sys2Proof/Machine/Mesh.lean ====
section
/-! DEFINITION. The mesh: forwarding, route epochs, aqueduct lanes, fountain values, timeouts and the
channel watchdog (spec/08_mesh.md, 10_sync_and_channels.md R280, R286, 16_ocsal_fabric.md R422). -/

namespace Sys2Proof.Machine

open Sys2Proof

/-! ### Leaving by an Ocsal port (R419, R422) -/

/-- The request packet of a remote access. -/
def remotePkt (s : State) (x : Xact) (p : Fin 64) (port : Fin 16) (tag : Nat) : OcsalPkt :=
  { kind := 0, type := BitVec.ofNat 4 x.kind.code, transit := false, dest := addrModule x.addr, src := (ownModule s).getD 0xFF,
    hops := 0, portTag := BitVec.ofNat 12 tag, srcPort := port, part := p, status := 0,
    len := BitVec.ofNat 9 (if x.kind = .read then x.len else x.data.length), op := BitVec.ofNat 4 x.kind.op, sat := x.sat,
    addr := x.addr, payload := x.data }

/-- A table entry of a port adapter that is free, the one drawn if it is (R422 does not say which is taken). -/
def freeTag (draw : Nat) (r : PortRec) : Option Nat :=
  if r.table.get none (draw % 4096) == none then some (draw % 4096)
  else (List.range (r.table.length + 1)).find? fun i => i < 4096 && r.table.get none i == none

/-- The port adapter takes a remote request: it goes out, waits for table, credit or retry space, or
finds no port (R422); a VLN2 peer takes messages and object updates only (R436). -/
def adapterSend (x : Xact) (s : State) : State :=
  match x.part with
  | none => answer x 0x04 [] s
  | some p =>
    match ocsalPort s x.who p x.src (addrModule x.addr) with
    | none => answer x 0x09 [] s
    | some port =>
      let r := portRec s port
      if r.rev1 && (match x.kind with | .read => true | .write => true | .atomic _ => true | _ => false) then answer x 0x04 [] s
      else
      let f := takeFree s
      match freeTag f.1.toNat r with
      | none => s
      | some tag =>
        let pkt := remotePkt s x p port tag
        if !portReady s port pkt then s
        else
          let s := setPort port { r with table := r.table.set none tag (some x.id) } f.2
          countPort port.val p (32 + x.data.length)
            (sendPkt port pkt (setXact { x with phase := .there, pos := x.dst, since := s.t.now } s))

/-! ### Forwarding (R214-R223, R234, R236, R237) -/

/-- The packet belongs to a past epoch (R234). -/
def stale (s : State) (x : Xact) : Bool := x.epoch.toNat != s.net.routeEpoch % 4

/-- The output port by which a packet leaves its DEST router: the local port, or the one to the adapter (R217, R219). -/
def exitPort (x : Xact) : Fin 5 :=
  if isReply x then injPort x.who else match x.adapter with | some n => edgePort n | none => 4

/-- The packet is one the router can deal with towards an output: 0-3 N, E, S, W, 4 local. Stale and
unroutable packets, and those in a dead router, are dealt with at any output. -/
def wants (s : State) (r : Cl) (out : Fin 5) (x : Xact) : Bool :=
  inMesh x && x.pos == r &&
    (s.net.deadRouters.get false (ck r) || stale s x ||
      match nextHop s.net.cur s.net.routeEpoch r (xactGoal x) x.vc1 with
      | .deliver => out == exitPort x
      | .port d _ => out.val == d.val
      | .unreachable => true)

/-- The packet is first in the buffer that holds it. -/
def firstOfVc (s : State) (x : Xact) : Bool :=
  (s.net.xacts.find? fun y =>
    inMesh y && y.pos == x.pos && y.port == x.port && onReplyClass y == onReplyClass x && y.vc1 == x.vc1).any (·.id == x.id)

/-- A crossing that is lost, by its lanes or its control bus: what is queued for it waits (R230). -/
def crossDown (s : State) (r : Cl) (d : Fin 4) : Bool :=
  match crossingOf r d with
  | none => false
  | some k => (lostCrossings s).contains k

/-- The packet is ready for an output (R215): first in its buffer and, where it goes on to a live neighbour, with the
credits that its flits take there (R214). -/
def readyFor (s : State) (r : Cl) (out : Fin 5) (x : Xact) : Bool :=
  wants s r out x && firstOfVc s x &&
    (s.net.deadRouters.get false (ck r) || stale s x ||
      match nextHop s.net.cur s.net.routeEpoch r (xactGoal x) x.vc1 with
      | .port d move => (match nbr r d with
        | none => false
        | some u => s.net.deadRouters.get false (ck u) ||
            (!crossDown s r d && !s.t.unlocked.contains (fieldOf u) &&
              decide (xactFlits x ≤ vcCredits s u ⟨(opp d).val, by omega⟩ (onReplyClass x) (x.vc1 || move))))
      | _ => true)

/-- A virtual channel of a router's output by number: REQ0, REQ1, RSP0, RSP1. -/
def turnKey (r : Cl) (out : Fin 5) (x : Xact) : Nat :=
  (ck r * 5 + out.val) * 4 + 2 * b2n (onReplyClass x) + b2n x.vc1

/-- Of the packets of one class, the one whose turn it is: within a virtual channel the input ports take turns (R215);
between the two channels of a class the spec names no order, so a free value picks. -/
def byTurn (s : State) (r : Cl) (out : Fin 5) (l : List Xact) : Option Xact :=
  let v0 := l.filter fun x => !x.vc1
  let v1 := l.filter fun x => x.vc1
  let q := if v0.isEmpty then v1 else if v1.isEmpty then v0 else if Config.vcPick s.freeCount then v1 else v0
  match q with
  | [] => none
  | y :: _ =>
    let t := s.net.turns.get 0 (turnKey r out y)
    (List.finRange 5).findSome? fun i => q.find? fun x => x.port == t + i

/-- The packet granted (R215): a request that has waited 64 network cycles, else a reply, else a request. -/
def granted (s : State) (r : Cl) (out : Fin 5) : Option Xact :=
  let l := s.net.xacts.filter (readyFor s r out)
  let reqs := l.filter fun x => !onReplyClass x
  let aged := reqs.filter fun x => netCycles s.t x.since + 64 ≤ netCycles s.t s.t.now
  let rsps := l.filter onReplyClass
  byTurn s r out (if !aged.isEmpty then aged else if !rsps.isEmpty then rsps else reqs)

/-- A packet is gone: its requester sees TIMEOUT later, unless nobody waits for it. -/
def loseXact (x : Xact) (s : State) : State :=
  let waited : Bool := match x.use with | .drop => false | .remote => false | .pending _ => false | _ => !x.dead
  if waited then setXact { x with phase := .lost } s else dropXact x.id s

/-- A request held at injection goes into the mesh under the current epoch and lists, if it can. -/
def inject (x : Xact) (s : State) : State :=
  let x := { x with src := srcRouter s x.who x.src x.addr }
  match route s x.who x.part x.kind x.addr x.len x.src with
  | .inl st => atHome x st [] s
  | .inr d =>
    let y := enter s { x with dst := d.1, out := d.2.isSome, adapter := d.2 }
    if y.phase = .inject then setXact y s
    else
      let s := dropXact y.id s
      { s with net := { s.net with xacts := s.net.xacts ++ [y] } }

/-- Room has come free in a router's injection buffers: what waits there goes in, in order. -/
def refill (r : Cl) (s : State) : State :=
  if s.net.paused then s
  else (s.net.xacts.filter fun x => x.phase == .inject && x.src == r).foldl (fun s x => inject x s) s

/-- A request that met STALE_EPOCH is sent once more, behind those that wait (R224, R234). -/
def resendStale (x : Xact) (s : State) : State :=
  let y := { x with resent := true, phase := .inject }
  let s := dropXact x.id s
  inject y { s with net := { s.net with xacts := s.net.xacts ++ [y] } }

/-- The cluster takes no replies: fenced, off or in reset (R236). -/
def repliesRefused (s : State) (who : Requester) (c : Cl) : Bool :=
  (whoEdge who).isNone && (match who with | .wellhead _ => false | _ => true) &&
    (computeOff s c || (match owner s c with | some p => partResetting s p | none => false))

/-- A reply at its requester's router (R234, R236, R240). -/
def deliverReply (x : Xact) (st : Byte) (d : List Byte) (s : State) : State :=
  if repliesRefused s x.who x.src then countDiscard x.src (loseXact x s)
  else if st = 0x0F ∧ !x.resent ∧ !x.dead then resendStale x s
  else atHome x st d s

/-- A request at its destination router: to the adapter beyond it or to the cluster (R217, R236). -/
def deliverRequest (x : Xact) (s : State) : State :=
  let m := addrModule x.addr
  if x.out && m != 0xFF && some m != ownModule s then adapterSend x s
  else setXact { x with phase := .there, since := s.t.now } s

/-- Ports of a router at which flit errors have been seen of late (R482). -/
def errorPorts (s : State) (c : Cl) : Nat :=
  ((s.boot.badReads.filter fun e => e.1 / 4 = 2 ^ 45 + ck c).map (·.1)).eraseDups.length

/-- Distance of a router from its wafer's wellhead. -/
def wellDist (s : State) (c : Cl) : Nat :=
  match wellheadOf s c.w with
  | none => 0
  | some h => (max h.x.val c.x.val - min h.x.val c.x.val) + (max h.y.val c.y.val - min h.y.val c.y.val)

/-- A flit with an uncorrectable error is dropped with its packet; more than 16 within 1 ms on a port
fence one router of the pair (R214, R482). -/
def flitDrop (x : Xact) (r u : Cl) (d : Fin 4) (s : State) : State :=
  let k := ctrOf s u
  let s := wrapEvent (clUnit u) 0 0x0B03 none k.flitErrors 1 (setCtr u { k with flitErrors := k.flitErrors + 1 } s)
  let t := strike (4 * (2 ^ 45 + ck u) + (opp d).val) 0 (usec 1000) 17 false (loseXact x s)
  if !t.1 then t.2
  else
    let s := t.2
    let a := errorPorts s u
    let b := errorPorts s r
    fenceRouter (if b < a then u else if a < b then r else if wellDist s u < wellDist s r then r else u) 1 s

/-- A flit fails its CRC on one of a crossing's lanes and is sent again from the retry buffer (R228); more than 16
failures of a lane in 1 ms take it out of service (R229). -/
def laneCrc (r : Cl) (k : Nat) (odd : Bool) (s : State) : State :=
  let ctr := ctrOf s r
  let s := wrapEvent (clUnit r) 0 0x0B03 none ctr.laneRetries 1 (setCtr r { ctr with laneRetries := ctr.laneRetries + 1 } s)
  let wx := k / 128
  let base := 2 * (k % 128)
  let lane := if laneOut s wx (base + b2n odd) then base + b2n (!odd) else base + b2n odd
  let lane := if s.net.spares.get none (wx * 16 + lane / 16) = some (lane, true) then 192 + lane / 16 else lane
  let t := strike (2 ^ 47 + wx * 256 + lane) 0 (usec 1000) 17 false s
  if t.1 then laneFail (Fin.ofNat 4 (wx / 2)) (Fin.ofNat 2 wx) lane 1 1 t.2 else t.2

/-- Network cycles from when a packet is at a router until it is at the next (R222, R223): injection where it has just
come in, a hop or a crossing, and what an elastic link of an island adds. -/
def hopCycles (s : State) (x : Xact) (r u : Cl) (f : Nat) : Nat :=
  let inj : Bool := x.port == 4 || (match injPort x.who with | 4 => false | p => p == x.port && r == x.src)
  (if inj then 4 else 0) + (if u.w = r.w then 2 else 48) +
    (if fieldOf r ≠ fieldOf u ∧ (inIsland s r || inIsland s u) then 4 + Config.elastic f % 5 else 0)

/-- Half nanoseconds of `n` network cycles (R299, R300). -/
def cycTime (s : State) (n : Nat) : Nat := n * (if s.t.coast then 2 else 1)

/-- Network cycles that a packet's flits take to leave: one each (R215), and on a crossing what 64 bytes take at 50 GB/s
for each lane in service (R228, R229). -/
def leaveCycles (s : State) (r : Cl) (out : Fin 5) (n : Nat) : Nat :=
  if h : out.val < 4 then
    match crossingOf r ⟨out.val, h⟩ with
    | none => n
    | some k => (n * (64 / max 1 (lanesActive s (k / 128) (k % 128))) + 24) / 25
  else n

/-- The output port is taken for a packet, its flits back to back (R215). -/
def takeOutput (r : Cl) (out : Fin 5) (x : Xact) (s : State) : State :=
  let key := ck r * 5 + out.val
  let s := waitUntil s (s.net.outFree.get 0 key)
  { s with net := { s.net with outFree := s.net.outFree.set 0 key (s.t.now + cycTime s (leaveCycles s r out (xactFlits x))) } }

/-- One hop of a packet: it comes last in the next router's buffer. -/
def hop (x : Xact) (r u : Cl) (d : Fin 4) (move : Bool) (s : State) : State :=
  let f := s.freeCount
  let s := { s with freeCount := f + 1 }
  if u.w = r.w && Config.flitError f then flitDrop x r u d s
  else
    let s := waitUntil s (x.since + cycTime s (hopCycles s x r u f))
    let y := { x with pos := u, port := ⟨(opp d).val, by omega⟩, vc1 := x.vc1 || move, since := s.t.now }
    let s := dropXact x.id s
    let s := { s with net := { s.net with xacts := s.net.xacts ++ [y] } }
    match crossingOf r d with
    | some k => (Config.laneErrors f).foldl (fun s odd => laneCrc r k odd s) s
    | none => s

/-- What a router does with the packet it grants. -/
def forward (r : Cl) (out : Fin 5) (x : Xact) (s : State) : State :=
  if s.net.deadRouters.get false (ck r) then loseXact x s
  else if stale s x then
    match x.phase with
    | .back _ _ => setXact { x with epoch := BitVec.ofNat 2 s.net.routeEpoch, vc1 := false } s
    | _ =>
      let k := ctrOf s r
      let s := wrapEvent (clUnit r) 0 0x0B03 none k.staleAnswered 1 (setCtr r { k with staleAnswered := k.staleAnswered + 1 } s)
      answerAt r 4 x 0x0F [] s
  else
    match nextHop s.net.cur s.net.routeEpoch r (xactGoal x) x.vc1 with
    | .deliver =>
      let s := takeOutput r out x (waitUntil s (x.since + cycTime s (4 + (xactFlits x - 1))))
      match x.phase with
      | .back st d => deliverReply x st d s
      | _ => deliverRequest x s
    | .unreachable =>
      match x.phase with
      | .back _ _ => countDiscard r (loseXact x s)
      | _ => answerAt r 4 x 0x09 [] s
    | .port d move =>
      match nbr r d with
      | none => s
      | some u =>
        if s.net.deadRouters.get false (ck u) then countDiscard r (loseXact x s)
        else hop x r u d move (takeOutput r out x s)

/-- ROUTER_FORWARD (R215, R219, R234, R237): not in an island whose clocks have not locked (R306). -/
def execRouterForward (r : Cl) (out : Fin 5) (s : State) : Host.Outcome State Fault Refusal :=
  .next (
    if s.t.unlocked.contains (fieldOf r) then s
    else match granted s r out with
    | some x =>
      refill r (forward r out x { s with
        freeCount := s.freeCount + 1
        net := { s.net with turns := s.net.turns.set 0 (turnKey r out x) (x.port + 1) } })
    | none => s)

/-! ### PENDING and TIMEOUT (R238-R240) -/

/-- The target router holds the request: its cluster is idle, or a reply is owed in a reset's drain. -/
def heldAtTarget (s : State) (x : Xact) : Bool :=
  x.phase == .there && (addrModule x.addr == 0xFF || some (addrModule x.addr) == ownModule s) &&
    ((!x.out && asleep s x.dst) || match (if x.out then x.part else owner s x.dst) with
      | some p => (match partOf s p with | some r => (match r.reset with | some t => t.owed.contains x.id | none => false) | none => false)
      | none => false)

/-- A PENDING notice for a request, on its way from the target's router (R217, R239). -/
def sendPending (x : Xact) (s : State) : State :=
  let n := { x with id := s.net.nextId, use := .pending x.id, data := [], timer := none, dead := false, again := false }
  let s := { s with net := { s.net with xacts := s.net.xacts ++ [n], nextId := s.net.nextId + 1 } }
  answer n 0x00 [] s

/-- PENDING_NOTICE (R239): every 5 µs of holding. -/
def execPendingNotice (id : Nat) (s : State) : Host.Outcome State Fault Refusal :=
  .next (match xactOf s id with
    | none => s
    | some x =>
      if !heldAtTarget s x then s
      else
        let s := waitUntil s (x.since + usec 5)
        let k := ctrOf s x.dst
        let s := wrapEvent (clUnit x.dst) 0 0x0B03 none k.pendingSent 1 (setCtr x.dst { k with pendingSent := k.pendingSent + 1 } s)
        sendPending x (setXact { x with since := s.t.now } s))

/-- Completes a request with a status by what its requester does with the answer. -/
def completeWith (x : Xact) (st : Byte) (s : State) : State :=
  match x.use with
  | .load _ _ _ _ => readReply x st [] s
  | .blockLoad _ _ _ _ _ _ _ => readReply x st [] s
  | .object _ => readReply x st [] s
  | .runahead => readReply x st [] s
  | .store _ => writeReply x st [] s
  | .atomic _ _ _ => writeReply x st [] s
  | .chOpen _ _ => openReply x st [] s
  | .send _ _ _ _ _ => messageReply ioDone x st [] s
  | .pumpRead _ _ _ _ => pumpReadReply x st [] s
  | .pumpIndex _ _ _ => pumpReadReply x st [] s
  | .pumpWrite _ _ _ _ => pumpWriteReply x st [] s
  | .ioWrite _ => ioReplied x st [] s
  | _ => s

/-- REQUEST_TIMEOUT (R238, R240): the limit passes; a reply that still comes is a late one. -/
def execRequestTimeout (id : Nat) (s : State) : Host.Outcome State Fault Refusal :=
  .next (match xactOf s id with
    | none => s
    | some x =>
      match x.timer, x.phase with
      | _, .home _ _ => s
      | none, _ => s
      | some t, ph =>
        if x.dead || relocking s then s
        else
          let s := waitUntil s (t + timeoutOf s x)
          let s := if ph = .lost then dropXact x.id s else setXact { x with dead := true, use := .drop } s
          completeWith x 0x06 s)

/-! ### Route epochs (R233-R235) -/

/-- ROUTER_DIES (R237). -/
def execRouterDies (c : Cl) (s : State) : Host.Outcome State Fault Refusal := .next (fenceRouter c 5 s)

/-- ROUTE_TABLES_LOADED (R233 step 4): the launch is at least 10 µs on. -/
def execRouteTablesLoaded (s : State) : Host.Outcome State Fault Refusal :=
  .next (
    if s.net.stage = .computing then
      { s with net := { s.net with stage := .loaded (s.t.now + usec 10) } }
    else s)

/-- ROUTE_EPOCH_LAUNCH (R233 step 5). -/
def execRouteEpochLaunch (s : State) : Host.Outcome State Fault Refusal :=
  .next (match s.net.stage with
    | .loaded l =>
      let s := waitUntil s l
      { s with net := { s.net with stage := .draining s.t.now, paused := true } }
    | _ => s)

/-- Clusters newly out of service in the coming map. -/
def newlyDry (old new : DryMap) : List Cl :=
  new.clusters.filterMap fun e => if e.2 ≠ 0 ∧ old.clusters.get 0 e.1 = 0 then clOfKey e.1 else none

/-- Stacks and ports whose frontage has too few live routers under a bank become dry (R25); a stack
with none posts UNIT_FENCED cause 5 (R372). -/
def frontDry (b : Bank) (s : State) : State :=
  let s := (List.finRange 48).foldl (fun s n =>
    if (liveFront b n).isEmpty && !s.net.dry.stk.getLsbD n.val then
      fencedEvent (stackUnit n) (stackParts s n) 5 s.net.routeEpoch (setDry (fun d => { d with stk := d.stk ||| (1 <<< n.val) }) s)
    else s) s
  let s := (List.finRange 16).foldl (fun s p =>
    if (liveFront b (ocsalStack p)).length < 4 && !portDry s p then
      fencedEvent (portUnit p) (portRec s p).bound.toList 5 s.net.routeEpoch
        (portDark p 0 (setDry (fun d => { d with ocsal := d.ocsal ||| (1 <<< p.val) }) s))
    else s) s
  (List.finRange 2).foldl (fun s p =>
    if (liveFront b (cxlStack p)).isEmpty then setDry (fun d => { d with cxl := d.cxl ||| (1 <<< p.val) }) s else s) s

/-- A barrier's tree passed through a router or a crossing that the epoch change removes (R269). -/
def treeHit (s : State) (old new : Bank) (r : BarRoot) : Bool :=
  let l := treeRouters old s.net.routeEpoch r.root r.members
  l.any fun v =>
    (new.dead.contains (ck v) && !old.dead.contains (ck v)) ||
      match (treeParent old s.net.routeEpoch r.root v).bind (crossingOf v) with
      | some k => new.lost.contains k && !old.lost.contains k
      | none => false

/-- A barrier whose tree the loss met (R269): an unreleased generation that a member has arrived for
takes a forced release; members still to receive a release receive it with HW_FAULT. -/
def repairBarrier (p : Fin 64) (b : Fin 32) (s : State) : State :=
  match rootOf s p b.val with
  | none => s
  | some r =>
    let fail (k : BarPkt) : BarPkt := match k with
      | .release q d c g _ l => if q = p ∧ d = b then .release q d c g 0x09 l else k
      | _ => k
    let keep (k : BarPkt) : Bool := match k with
      | .arrive q d _ _ => !(q == p && d == b)
      | _ => true
    let s := { s with sync := { s.sync with pkts := (s.sync.pkts.map fail).filter keep } }
    let waiting : Bool := r.members.any fun c => (barOf s c b.val).sent && (barOf s c b.val).generation == r.generation
    if waiting then forceRelease p b 0x09 s else s

/-- ROUTE_EPOCH_DRAIN_END (R233 step 7, R231, R269): the drain ends when no request is left in a
router, else at 100 µs. -/
def execRouteEpochDrainEnd (s : State) : Host.Outcome State Fault Refusal :=
  .next (match s.net.stage, s.net.standby with
    | .draining since, some b =>
      let s := if s.net.xacts.any (fun x => x.phase == .going) then waitUntil s (since + usec 100) else s
      let old := s.net.published
      let oldBank := s.net.cur
      let hit := s.sync.roots.filterMap fun e => match e.2 with
        | some r => if treeHit s oldBank b r then some e.1 else none
        | none => none
      let s := { s with net := { s.net with
        routeEpoch := s.net.routeEpoch + 1, epochTide := moduleTide s, cur := b, standby := none, stage := .none, paused := false
        published := { s.net.coming with wells := wellKeys s } } }
      let before := s.net.dry
      let s := frontDry b (dropDoomed b s)
      let add (d : DryMap) : DryMap :=
        { d with stk := d.stk ||| (s.net.dry.stk &&& ~~~ before.stk), ocsal := d.ocsal ||| (s.net.dry.ocsal &&& ~~~ before.ocsal),
                 cxl := d.cxl ||| (s.net.dry.cxl &&& ~~~ before.cxl) }
      let s := { s with net := { s.net with published := add s.net.published } }
      let s := { s with boot := { s.boot with repair := { s.boot.repair with dry := s.net.published, pages := s.boot.retired, spares := s.net.spares } } }
      let gone := newlyDry old s.net.published
      let bars : List (Fin 64 × Fin 32) := s.sync.roots.map fun e => (Fin.ofNat 64 (e.1 / 32), Fin.ofNat 32 e.1)
      let s := bars.foldl (fun s k =>
        let s := dropMember k.1 k.2 gone 0x09 s
        if hit.contains (k.1.val * 32 + k.2.val) then repairBarrier k.1 k.2 s else s) s
      let reroot (e : Nat × Option Fountain) : Nat × Option Fountain := (e.1, e.2.map fun f =>
        if gone.contains f.root then { f with root := (f.members.filter fun c => !gone.contains c).headD f.root } else f)
      let s := { s with net := { s.net with fountains := s.net.fountains.map reroot } }
      let s := (s.net.xacts.filter fun x => x.phase == .inject).foldl (fun s x => inject x s) s
      if s.net.again then startEpoch { s with net := { s.net with again := false } } else s
    | _, _ => s)

/-! ### Aqueducts (R229, R230) -/

/-- AQUEDUCT_LANE_FAIL (R229). -/
def execAqueductLaneFail (w : Fin 4) (x : Fin 2) (lane : Fin 204) (rate : Bool) (s : State) : Host.Outcome State Fault Refusal :=
  .next (laneFail w x lane.val (b2n rate) 1 s)

/-- AQUEDUCT_SPARE_READY (R229 step 3): 20 µs after its training began. -/
def execAqueductSpareReady (w : Fin 4) (x : Fin 2) (g : Fin 12) (s : State) : Host.Outcome State Fault Refusal :=
  .next (
    let wx := w.val * 2 + x.val
    let key := wx * 16 + g.val
    match s.net.spares.get none key with
    | some (l, false) =>
      let s := waitUntil s (s.net.spareAt.get 0 key)
      let s := { s with net := { s.net with spares := s.net.spares.set none key (some (l, true)), spareAt := s.net.spareAt.set 0 key 0 } }
      postTo .linkUp (laneUnit w x (192 + g.val)) [] false (moduleTide s)
        (([0, 0] : List Byte) ++ leBytes 2 (lanesActive s wx (l / 2))) s
    | _ => s)

/-- CONTROL_CROSSING_BUS_FAIL (R230): the crossing is lost from the next epoch on. -/
def execControlCrossingBusFail (c : Cl) (x : Fin 2) (s : State) : Host.Outcome State Fault Refusal :=
  .next (
    let d : Fin 4 := if x = 0 then (if c.w.val % 2 = 0 then 1 else 3) else (if c.w.val < 2 then 2 else 0)
    match crossingOf c d with
    | none => s
    | some k =>
      if s.net.busLost.get false k then s
      else startEpoch { s with net := { s.net with busLost := s.net.busLost.set false k true } })

/-! ### Fountain values (R227) -/

/-- A member's answer to a value is counted at its send. -/
def fountainAck (send : Nat) (st : Byte) (s : State) : State :=
  let g (f : FSend) : FSend :=
    if f.id = send then
      { f with left := f.left - 1, worst := if f.worst.toNat < st.toNat then st else f.worst
               failed := if st = 0x00 then f.failed else min (f.failed + 1) 0xFFFF }
    else f
  { s with net := { s.net with fsends := s.net.fsends.map g } }

/-- FOUNTAIN_VALUE_APPLY (R227): values reach each member in the root's order; an idle member holds its
value until it wakes (R236). -/
def execFountainValueApply (i : Nat) (s : State) : Host.Outcome State Fault Refusal :=
  .next (match s.net.fvals[i]? with
    | none => s
    | some v =>
      let c := v.member
      let before : Bool := (s.net.fvals.take i).any fun u => u.part == v.part && u.f == v.f && u.member == c
      if before || (asleep s c && !computeOff s c) then s
      else
        let s := { s with net := { s.net with fvals := s.net.fvals.eraseIdx i } }
        if partResetting s v.part then fountainAck v.send 0x05 s
        else if owner s c ≠ some v.part then fountainAck v.send 0x04 s
        else if computeOff s c then fountainAck v.send 0x09 s
        else
          let s := writeReg (.config c) c (clReg v.off) v.value s
          fountainAck v.send s.ioReply s)

/-- FOUNTAIN_ACK_COMPLETE (R227): the oldest send of the fountain that every member has answered. -/
def execFountainAckComplete (p : Fin 64) (f : Fin 16) (s : State) : Host.Outcome State Fault Refusal :=
  .next (match s.net.fsends.find? fun g => g.part == p && g.f == f && g.left == 0 with
    | none => s
    | some g =>
      let s := { s with net := { s.net with fsends := s.net.fsends.filter fun h => h.id != g.id } }
      if owner s g.src ≠ some p then s
      else
        let r := fregOf s g.src g.core.val
        notifyOpt g.src g.note (setFreg g.src g.core.val
          { r with status := g.worst, inFlight := false, failed := BitVec.ofNat 16 g.failed } s))

/-! ### Dumps and the channel watchdog (R280, R286) -/

/-- Contexts that wait on an object (R259). -/
def objWaiters (s : State) (c : Cl) (core obj : Nat) : Nat :=
  (clCtxs c).countP fun x => match (ctxRec s x).wait with | some w => w.core == core && w.obj == obj | none => false

/-- A context's word of the record (R286). -/
def dumpCtx (r : CtxRec) : Nat :=
  put (CtxState.code r.state) 0 2 + put r.waitKind.toNat 2 2 +
  put (if r.waitKind = 2 then r.waitTarget.toNat % 256 else r.waitTarget.toNat) 4 10 +
  (match r.wait with | some w => put w.cond 14 2 + put (match w.deadline with | some d => d.toNat | none => 0) 32 32 | none => 0)

/-- The cluster dump record, 15,648 bytes (R286). -/
def syncDump (s : State) (c : Cl) : List Byte :=
  leBytes 4 (clUnit c).toNat ++ leBytes 4 (stagger s c) ++ leBytes 8 (localTide s c).toNat ++ leBytes 16 0 ++
  ((List.range 768).flatMap fun i => leBytes 8 ((objVal s c (i / 32) (i % 32)).toNat + objWaiters s c (i / 32) (i % 32) * 2 ^ 32)) ++
  ((clCtxs c).flatMap fun x => leBytes 8 (dumpCtx (ctxRec s x))) ++
  ((List.range 32).flatMap fun b => leBytes 8 (barWord (barOf s c b) 0) ++ leBytes 8 (barWord (barOf s c b) 8)) ++
  ((List.range 256).flatMap fun e =>
    let r := epOf s c e
    leBytes 8 (epStateWord r) ++ leBytes 8 (epPeerWord r) ++ leBytes 8 (epSeqWord r) ++
    leBytes 8 (r.gen.toNat + put r.waiting.length 32 8))

/-- A waiter's endpoint, its class, when its wait began, and its unit. -/
def waitOf (s : State) (w : Waiter) : Option (Fin 256 × Bool × Nat × BitVec 32) :=
  match w with
  | .ctx x =>
    let r := ctxRec s x
    match r.held with
    | some (.send e _ _) => some (e, r.waitTarget.toNat / 256 % 2 == 1, r.waitFrom, coreUnit x.c x.k.val)
    | _ => none
  | .io c i =>
    let t : TileId := ⟨c, Fin.ofNat 32 (8 * (i.val + 1))⟩
    let r := ioOf s t
    if r.creditWait.isSome then some (Fin.ofNat 256 (fld (body (ctxOf s t)) 312 8), false, r.creditFrom, tileUnit t) else none

/-- Some unit of `d` waits for credit on an endpoint whose peer lies in `c` (R280). -/
def waitsFor (s : State) (d c : Cl) : Bool :=
  s.sync.eps.any fun e => e.1 / 256 == ck d && !e.2.waiting.isEmpty && !farAddr s e.2.peer && addrCl e.2.peer == some c

/-- CHANNEL_DEADLOCK (R280): once for a wait, which goes on. A peer on another module is that module's: no mutual
wait is found there, and the snapshot holds zeros for its cluster (DESIGN CHOICE: log entry 143). -/
def execChannelDeadlock (c : Cl) (w : Waiter) (s : State) : Host.Outcome State Fault Refusal :=
  .next (
    let mine : Bool := match w with | .ctx x => x.c == c | .io d _ => d == c
    let limit := (syncRegs s c).watchdog.toNat
    match waitOf s w with
    | none => s
    | some (e, cls, since, unit) =>
      if !mine || limit == 0 || s.sync.reported.contains w || !arithOn s c then s
      else
        let s := waitUntil s (since + usec limit)
        let r := epOf s c e.val
        let peer := if farAddr s r.peer then none else addrCl r.peer
        let cycle : Bool := match peer with | some d => waitsFor s d c | none => false
        let s := { s with sync := { s.sync with reported := s.sync.reported ++ [w] } }
        match owner s c with
        | none => s
        | some p =>
          let capture : Bool := (s.sync.snapshots.get [] p.val).isEmpty
          let detail := leBytes 4 (e.val + b2n cls * 2 ^ 8 + b2n cycle * 2 ^ 9 + b2n capture * 2 ^ 10) ++
            leBytes 4 ((s.t.now - since) / 2000) ++ leBytes 8 r.peer.toNat
          let tide := localTide s c
          let s := if capture then
              let recs := syncDump s c ++ (match peer with | some d => syncDump s d | none => List.replicate 15648 0)
              let snap := detail ++ leBytes 8 unit.toNat ++ leBytes 8 tide.toNat ++ recs
              { s with sync := { s.sync with snapshots := s.sync.snapshots.set [] p.val snap } }
            else s
          postEvent .channelDeadlock unit (some p) tide detail s)

end Sys2Proof.Machine
end

