-- ==== Sys2Proof/Machine/Fields.lean ====
section
/-! DEFINITION. A field's rails: compute off, dark and restored, and the stamps that a stopped clock
holds back (spec/12_power_and_heat.md R314, R336-R338, 19_faults.md R488, 11_time_and_clocks.md R303). -/

namespace Sys2Proof.Machine

open Sys2Proof

/-- Changes the values of a map, keeping its canonical form. -/
def mapVals {α : Type} [DecidableEq α] (d : α) (f : Nat → α → α) (m : SMap α) : SMap α :=
  (m.map fun e => (e.1, f e.1 e.2)).filter fun e => e.2 ≠ d

/-- Partitions with clusters in a field. -/
def fieldParts (s : State) (f : Fin 192) : List (Fin 64) := ((fieldClusters f).filterMap (owner s)).eraseDups

/-- A temperature in two bytes. -/
def temp2 (t : Int) : List Byte := leBytes 2 (ofInt 16 t)

/-- FIELD_COMPUTE_OFF (R346). -/
def fieldOffEvent (f : Fin 192) (cause : Nat) (back : Bool) (s : State) : State :=
  postTo .fieldComputeOff (fieldUnit f) (fieldParts s f) false (moduleTide s)
    (([BitVec.ofNat 8 cause, BitVec.ofNat 8 (b2n back)] : List Byte) ++ temp2 (fieldRec s f).temp) s

/-- The field's compute turns off: for HOT (cause 1), or for a short (cause 2), which latches and
makes its clusters COMPUTE_DRY at the next route epoch (R314, R336). No reset, no CLOSE. -/
def fieldOff (f : Fin 192) (cause : Nat) (s : State) : State :=
  let r := fieldRec s f
  if r.state ≠ .on then s
  else
    let s := setField f { r with state := .computeOff, cause := BitVec.ofNat 4 cause, latchC := r.latchC || cause == 2, hot := 0, coolSince := none } s
    let s := fieldOffEvent f cause false (loseFieldMem f s)
    if cause = 2 then (fieldClusters f).foldl (fun s c => if clLive s c then clDry c 1 s else s) s else s

/-- The field goes dark: CRIT (3), a network short (4) or a PLL that does not lock (5). Its routers stop
and a route epoch change starts (R233, R307, R314). -/
def fieldDark (f : Fin 192) (cause : Nat) (s : State) : State :=
  let r := fieldRec s f
  if r.state = .dark then s
  else
    let ps := fieldParts s f
    let s := setField f { r with state := .dark, cause := BitVec.ofNat 4 cause, latchN := r.latchN || cause == 4, hot := 0, crit := 0 } s
    let s := loseFieldMem f s
    let s := (fieldClusters f).foldl (fun s c =>
      let s := clDark c s
      { s with net := { s.net with deadRouters := s.net.deadRouters.set false (ck c) true } }) s
    let s := { s with t := { s.t with unlocked := s.t.unlocked.filter (· ≠ f) } }
    let s := postTo .fieldDark (fieldUnit f) ps false (moduleTide s)
      (([BitVec.ofNat 8 cause, 0] : List Byte) ++ temp2 r.temp) s
    startEpoch s

/-- The field's compute is allowed back after HOT: the regulator goes on at OP4 voltage, every live cluster takes a cluster
compute reset and is zeroed in 32 µs, the ceiling starts at 8 (R337); a plan taken meanwhile is applied (R341). -/
def fieldBack (f : Fin 192) (s : State) : State :=
  let r := fieldRec s f
  let off := match r.plan with | some p => p.1 | none => r.offset
  let s := setField f { r with
    state := .on, cause := 0, tceil := 8, ceilAt := s.t.now, warn := true, coolSince := none, hot := 0, restartAt := s.t.now
    offset := off, kmax := (match r.plan with | some p => p.2 | none => r.kmax), plan := none, vset := 550 + 5 * off } s
  let s := (fieldClusters f).foldl (fun s c =>
    if clLive s c && sleepOf s c != .off then
      setOp c {} (setSleep c .awake (zeroCluster c (clusterReset c s)))
    else s) s
  fieldOffEvent f 1 true (waitUntil s (s.t.now + usec 32))

/-- Watchdogs of the clusters named stood still for `d` (R91, R280, R303, R332). -/
def shiftWatch (hit : Nat → Bool) (d : Nat) (s : State) : State :=
  let arr (k : Nat) (a : ArrRec) : ArrRec :=
    if hit k && (a.state == .running || a.state == .switching) then { a with moved := a.moved + d } else a
  let io (k : Nat) (r : IoRec) : IoRec := if hit (k / 32) && r.creditWait.isSome then { r with creditFrom := r.creditFrom + d } else r
  let ctx (k : Nat) (r : CtxRec) : CtxRec := if hit (k / 128) && r.state == .waiting then { r with waitFrom := r.waitFrom + d } else r
  { s with
    arr := { s.arr with recs := mapVals {} arr s.arr.recs, ios := mapVals {} io s.arr.ios }
    core := { s.core with ctxs := mapVals {} ctx s.core.ctxs } }

/-- A cluster is awake again: its clock runs, and its watchdogs stood still while it slept (R91, R280, R296). -/
def awaken (c : Cl) (s : State) : State :=
  setSleep c .awake (shiftWatch (fun k => k == ck c) (s.t.now - (opRec s c).sleepFrom) s)

/-- Request timers stood still for `d` (R303). -/
def shiftTimers (d : Nat) (s : State) : State :=
  { s with net := { s.net with xacts := s.net.xacts.map fun x => { x with timer := x.timer.map (· + d) } } }

end Sys2Proof.Machine
end

