-- ==== Sys2Proof/Machine/Queues.lean ====
section
/-! DEFINITION. Host functions: links, BAR0 registers, queue pairs, event queues, the fetch of commands
and their completions (spec/13_host_and_commands.md R348-R362, 18_module_hardware.md R468). -/

namespace Sys2Proof.Machine

open Sys2Proof

/-! ### Functions and links (R349, R353, R359) -/

/-- The function answers: its port's link is up and, for a VF, it is enabled. -/
def fnOn (s : State) (f : FnId) : Bool := s.host.ports[f.port].up && decide (f.vf.val ≤ s.host.ports[f.port].numVfs)

def setQ (f : FnId) (q : Fin 4) (r : QRec) (s : State) : State :=
  let g := fnRec s f
  setFn f { g with qs := vset g.qs q r } s

def updCxl (p : Fin 2) (f : CxlPort → CxlPort) (s : State) : State :=
  { s with host := { s.host with ports := vset s.host.ports p (f s.host.ports[p]) } }

/-- Commands of a queue that are fetched and not yet completed. -/
def fetched (s : State) (f : FnId) (q : Fin 4) : List Cmd := s.host.cmds.filter fun c => c.live && c.key.fn == f && c.key.q == q

/-- Commands already fetched from these queues complete unseen (R353). -/
def unhear (hit : CmdKey → Bool) (s : State) : State :=
  let g (c : Cmd) : Cmd := if hit c.key then { c with live := false } else c
  { s with host := { s.host with cmds := s.host.cmds.map g } }

/-- The function's queues are disabled and its undelivered records dropped (R359). -/
def fnDown (f : FnId) (s : State) : State :=
  let r := fnRec s f
  let off (q : QRec) : QRec := { q with enable := false, state := .disabled, unsig := 0 }
  unhear (fun k => k.fn == f) (setFn f { r with enable := false, state := .disabled, unsig := 0, qs := r.qs.map off } s)

/-- Functions of a port with any state. -/
def portFns (s : State) (p : Fin 2) : List FnId :=
  s.host.fns.filterMap fun e => if e.1 / 64 = p.val then some ⟨p, Fin.ofNat 64 e.1⟩ else none

/-- LINK_DOWN or LINK_UP of a CXL port (R372). -/
def cxlLinkEvent (e : EvCode) (p : Fin 2) (reason lanes : Nat) (s : State) : State :=
  postTo e (cxlUnit p) [] false (moduleTide s) (([2, BitVec.ofNat 8 reason] : List Byte) ++ leBytes 2 lanes) s

/-- The port's link goes down (R359). -/
def linkDown (p : Fin 2) (reason : Nat) (s : State) : State :=
  if !s.host.ports[p].up then s
  else
    let s := (portFns s p).foldl (fun s f => fnDown f s) (updCxl p (fun r => { r with up := false, width := 0 }) s)
    cxlLinkEvent .linkDown p reason 0 s

/-- CXL_LINK_DOWN (R359). -/
def execCxlLinkDown (p : Fin 2) (s : State) : Host.Outcome State Fault Refusal := .next (linkDown p 0 s)

/-- PERST_N_ASSERT (R468). -/
def execPerstNAssert (p : Fin 2) (s : State) : Host.Outcome State Fault Refusal :=
  .next (updCxl p (fun r => { r with perst := true }) (linkDown p 0 s))

/-- PERST_N_DEASSERT (R468): training may start; CXL_LINK_TRAINED ends it. -/
def execPerstNDeassert (p : Fin 2) (s : State) : Host.Outcome State Fault Refusal :=
  .next (updCxl p (fun r => { r with perst := false }) s)

/-- The port may train: PERST_N deasserted, bring-up step 3 over, the port not dry (R402, R468). -/
def cxlMayTrain (s : State) (p : Fin 2) : Bool :=
  !s.host.ports[p].perst && s.pwr.rails && !s.net.dry.cxl.getLsbD p.val

/-- CXL_LINK_TRAINED (R209, R348): x8 and x4 carry traffic; a narrower width stays in training and is told
through the other port. -/
def execCxlLinkTrained (p : Fin 2) (l : CxlTrain) (s : State) : Host.Outcome State Fault Refusal :=
  .next (
    if !cxlMayTrain s p || s.host.ports[p].up then s
    else if l.width = 8 ∨ l.width = 4 then
      cxlLinkEvent .linkUp p 0 l.width.val (updCxl p (fun r => { r with up := true, width := l.width.val, hdm := l.hdm }) s)
    else if l.width = 2 ∨ l.width = 1 then cxlLinkEvent .linkDown p 4 l.width.val s
    else s)

/-- NUMVFS_CHANGE (R349): a VF that goes loses its queues. -/
def execNumvfsChange (p : Fin 2) (n : Fin 64) (s : State) : Host.Outcome State Fault Refusal :=
  .next (
    let gone := (portFns s p).filter fun f => n.val < f.vf.val
    gone.foldl (fun s f => fnDown f s) (updCxl p (fun r => { r with numVfs := n.val }) s))

/-- FUNCTION_LEVEL_RESET (R359). -/
def execFunctionLevelReset (f : FnId) (s : State) : Host.Outcome State Fault Refusal :=
  .next (if fnOn s f then fnDown f s else s)

/-! ### Queue registers (R352-R354) -/

/-- Fields of Q_CFG; sizes keep their values while ENABLE is 1. -/
def QRec.config (r : QRec) (n : Nat) : QRec :=
  { r with vector := Fin.ofNat 8 (fld n 9 3), irqEn := bit n 12, irqCount := fld n 16 8, irqDelay := fld n 24 8
           sqSize := if r.enable then r.sqSize else fld n 1 4, cpqSize := if r.enable then r.cpqSize else fld n 5 4 }

def FnRec.config (r : FnRec) (n : Nat) : FnRec :=
  { r with vector := Fin.ofNat 8 (fld n 5 3), irqEn := bit n 8, minSev := fld n 16 4, irqDelay := fld n 24 8
           size := if r.enable then r.size else fld n 1 4 }

/-- A size exponent is in range. -/
def sizeIn (lo v : Nat) : Bool := lo ≤ v && v ≤ 12

/-- The pair starts: RUNNING, or ERROR with BAD_PARAM (R353). -/
def QRec.start (r : QRec) : QRec :=
  if r.enable then r
  else
    let good := r.sqBase.toNat % 4096 == 0 && r.cpqBase.toNat % 4096 == 0 && sizeIn 1 r.sqSize && sizeIn 1 r.cpqSize
    { r with enable := true, sqHead := 0, sqTail := 0, cpqHead := 0, cpqTail := 0, phase := true, unsig := 0
             state := if good then .running else .error, err := if good then 0x00 else 0x03 }

/-- The event queue starts (R352, R353). -/
def FnRec.start (r : FnRec) : FnRec :=
  if r.enable then r
  else
    let good := r.eqBase.toNat % 4096 == 0 && sizeIn 4 r.size
    { r with enable := true, head := 0, tail := 0, phase := true, lost := 0, unsig := 0
             state := if good then .running else .error, err := if good then 0x00 else 0x03 }

/-- QUEUE_ENABLE (R353): Q_CFG or EQ_CFG with ENABLE 1. -/
def execQueueEnable (f : FnId) (q : QSel) (v : Word) (s : State) : Host.Outcome State Fault Refusal :=
  .next (
    if !fnOn s f then s
    else
      let r := fnRec s f
      match q with
      | .pair q => setQ f q ((r.qs[q].config v.toNat).start) s
      | .events => setFn f ((r.config v.toNat).start) s)

/-- QUEUE_DISABLE (R353): Q_CFG or EQ_CFG with ENABLE 0. -/
def execQueueDisable (f : FnId) (q : QSel) (v : Word) (s : State) : Host.Outcome State Fault Refusal :=
  .next (
    if !fnOn s f then s
    else
      let r := fnRec s f
      match q with
      | .pair q => unhear (fun k => k.fn == f && k.q == q)
          (setQ f q { r.qs[q].config v.toNat with enable := false, state := .disabled, unsig := 0 } s)
      | .events => setFn f { r.config v.toNat with enable := false, state := .disabled, unsig := 0 } s)

/-- SQ_TAIL (R354). -/
def execSqTail (f : FnId) (q : Fin 4) (v : Word) (s : State) : Host.Outcome State Fault Refusal :=
  .next (
    let r := (fnRec s f).qs[q]
    let n := fld v.toNat 0 12
    if !fnOn s f || r.state != .running then s
    else if 2 ^ r.sqSize ≤ n then setQ f q { r with state := .error, err := 0x03 } s
    else setQ f q { r with sqTail := n } s)

/-- CPQ_HEAD (R353, R354). -/
def execCpqHead (f : FnId) (q : Fin 4) (v : Word) (s : State) : Host.Outcome State Fault Refusal :=
  .next (
    let r := (fnRec s f).qs[q]
    let n := fld v.toNat 0 12
    if !fnOn s f || r.state != .running then s
    else if 2 ^ r.cpqSize ≤ n then setQ f q { r with state := .error, err := 0x03 } s
    else setQ f q { r with cpqHead := n } s)

/-- EQ_HEAD (R353, R354). -/
def execEqHead (f : FnId) (v : Word) (s : State) : Host.Outcome State Fault Refusal :=
  .next (
    let r := fnRec s f
    let n := fld v.toNat 0 12
    if !fnOn s f || r.state != .running then s
    else if 2 ^ r.size ≤ n then setFn f { r with state := .error, err := 0x03 } s
    else setFn f { r with head := n } s)

/-- IRQ_DELAY_EXPIRE (R358). -/
def execIrqDelayExpire (f : FnId) (q : QSel) (s : State) : Host.Outcome State Fault Refusal :=
  .next (
    let r := fnRec s f
    match q with
    | .pair q =>
      let p := r.qs[q]
      if p.unsig = 0 || !p.irqEn || p.state != .running then s
      else sendMsix f p.vector (setQ f q { p with unsig := 0 } (waitUntil s (p.unsigAt + usec p.irqDelay)))
    | .events =>
      if r.unsig = 0 || !r.irqEn || r.state != .running then s
      else sendMsix f r.vector (setFn f { r with unsig := 0 } (waitUntil s (r.unsigAt + usec r.irqDelay))))

/-! ### Other BAR0 registers (R351) -/

/-- A write to the MSI-X table: an entry unmasked with its pending bit set sends its message (PCIe). -/
def msixWrite (f : FnId) (off size : Nat) (v : Word) (s : State) : State :=
  let r := fnRec s f
  let i : Fin 8 := Fin.ofNat 8 (off / 16)
  let lo := 8 * (off % 16)
  let w := 8 * size
  let old := r.msix[i].toNat
  let new := BitVec.ofNat 128 (old - put (fld old lo w) lo w + put v.toNat lo w)
  let s := setFn f { r with msix := vset r.msix i new } s
  if r.pba.getLsbD i.val && !new.getLsbD 96 then
    sendMsix f i (setFn f { fnRec s f with pba := (fnRec s f).pba &&& ~~~ ((1 : BitVec 8) <<< i.val) } s)
  else s

/-- A write to a function's BAR0. -/
def bar0Write (f : FnId) (off size : Nat) (v : Word) (s : State) : State :=
  if !fnOn s f then s
  else if 0x2000 ≤ off ∧ off < 0x2080 then
    if (size = 4 ∨ size = 8) ∧ off % size = 0 then msixWrite f (off - 0x2000) size v s else s
  else if size ≠ 8 ∨ off % 8 ≠ 0 then s
  else
    let r := fnRec s f
    if off = 0x100 then (if r.enable then s else setFn f { r with eqBase := v } s)
    else if off = 0x108 then nextOf s (if bit v.toNat 0 then execQueueEnable f .events v s else execQueueDisable f .events v s)
    else if off = 0x110 then nextOf s (execEqHead f v s)
    else if off = 0x118 then (if bit v.toNat 29 then setFn f { r with overflow := false } s else s)
    else if 0x200 ≤ off ∧ off < 0x300 then
      let q : Fin 4 := Fin.ofNat 4 ((off - 0x200) / 0x40)
      let p := r.qs[q]
      match off % 0x40 / 8 with
      | 0 => if p.enable then s else setQ f q { p with sqBase := v } s
      | 1 => if p.enable then s else setQ f q { p with cpqBase := v } s
      | 2 => nextOf s (if bit v.toNat 0 then execQueueEnable f (.pair q) v s else execQueueDisable f (.pair q) v s)
      | 3 => nextOf s (execSqTail f q v s)
      | 4 => nextOf s (execCpqHead f q v s)
      | _ => s
    else s

/-- REGISTER_WRITE (R189, R351): a plain register stores; one with a row of its own acts as that row. -/
def execRegisterWrite (a : RegWrite) (s : State) : Host.Outcome State Fault Refusal :=
  .next (match a with
    | .space4 who addr size v => spaceWrite who addr size v s
    | .bar0 f off size v => bar0Write f off size v s)

/-! ### Fetch and completion (R354-R356, R358) -/

/-- Fields of a command record (R355). -/
def cmdOp (raw : BitVec 512) : Nat := fld raw.toNat 0 16
def cmdFence (raw : BitVec 512) : Bool := bit raw.toNat 16
def cmdPart (raw : BitVec 512) : Nat := fld raw.toNat 24 8
def cmdTag (raw : BitVec 512) : BitVec 16 := BitVec.ofNat 16 (fld raw.toNat 32 16)
/-- Dword `n` of a command. -/
def cmdD (raw : BitVec 512) (n : Nat) : Nat := fld raw.toNat (32 * n) 32

/-- The opcodes of the command tables (R363, R364, R368). -/
def opcodes : List Nat :=
  [0x0101, 0x0102, 0x0103, 0x0201, 0x0202, 0x0203, 0x0204, 0x0206, 0x0207, 0x0208, 0x0209, 0x020A, 0x020B, 0x020C, 0x020D, 0x020E,
   0x020F, 0x0301, 0x0302, 0x0303, 0x0401, 0x0402, 0x0403, 0x0404, 0x0405, 0x0501, 0x0502, 0x0503, 0x0504, 0x0601, 0x0602, 0x0603,
   0x0604, 0x0605, 0x0701, 0x0702, 0x0703, 0x0704] ++
  [0x0801, 0x0802, 0x0803, 0x0804, 0x0901, 0x0902, 0x0903, 0x0904, 0x0905, 0x0A01, 0x0A02, 0x0A03, 0x0B01, 0x0B02, 0x0B03, 0x0B04,
   0x0B05]

/-- The 32 bytes of a completion (R356). -/
def cpqBytes (c : Cmd) (st : Byte) (phase : Bool) (head : Nat) (res : List Byte) : List Byte :=
  leBytes 4 (c.key.tag.toNat + st.toNat * 2 ^ 16 + b2n phase * 2 ^ 24) ++ leBytes 4 (head + c.key.q.val * 2 ^ 12) ++
  (res ++ List.replicate 24 0).take 24

/-- Writes a completion and signals it (R356, R358); a host access that fails puts the pair in ERROR. -/
def writeCompletion (c : Cmd) (st : Byte) (res : List Byte) (s : State) : State :=
  let f := c.key.fn
  let r := (fnRec s f).qs[c.key.q]
  if !c.live || r.state != .running then s
  else
    let a := r.cpqBase.toNat + 32 * r.cpqTail
    let bad := hostStatus s a 32
    if bad ≠ 0x00 then setQ f c.key.q { r with state := .error, err := bad } s
    else
      let s := hostWrite a (cpqBytes c st r.phase r.sqHead res) s
      let tail := (r.cpqTail + 1) % 2 ^ r.cpqSize
      let r : QRec := { r with cpqTail := tail, phase := if tail = 0 then !r.phase else r.phase,
                               unsig := r.unsig + 1, unsigAt := if r.unsig = 0 then s.t.now else r.unsigAt }
      if r.irqEn && (decide (max 1 r.irqCount ≤ r.unsig) || r.irqDelay == 0) then
        sendMsix f r.vector (setQ f c.key.q { r with unsig := 0 } s)
      else setQ f c.key.q r s

/-- The command leaves the list of those in flight. -/
def dropCmd (serial : Nat) (s : State) : State :=
  { s with host := { s.host with cmds := s.host.cmds.filter fun d => d.serial != serial } }

/-- No earlier command of the same SQ is in flight, or the command is no fence (R355). -/
def fenceClear (s : State) (c : Cmd) : Bool :=
  !cmdFence c.raw || !(s.host.cmds.any fun d => d.key.fn == c.key.fn && d.key.q == c.key.q && decide (d.serial < c.serial))

/-- Commands with an unknown opcode complete with BAD_OPCODE as soon as they may start (R361). -/
def flushUnknown (s : State) : State :=
  s.host.cmds.foldl (fun s c =>
    if opcodes.contains (cmdOp c.raw) || !fenceClear s c then s
    else writeCompletion c 0x02 [] (dropCmd c.serial s)) s

/-- Completes a command. -/
def complete (k : CmdKey) (st : Byte) (res : List Byte) (s : State) : State :=
  match s.host.cmds.find? (·.key == k) with
  | none => s
  | some c => flushUnknown (writeCompletion c st res (dropCmd c.serial s))

/-- COMMAND_FETCH (R354, R355): with room in the CPQ for every command of the pair in flight. -/
def execCommandFetch (f : FnId) (q : Fin 4) (s : State) : Host.Outcome State Fault Refusal :=
  .next (
    let r := (fnRec s f).qs[q]
    let n := 2 ^ r.cpqSize
    let used := (r.cpqTail + n - r.cpqHead) % n
    if !fnOn s f || r.state != .running || r.sqHead == r.sqTail then s
    else if n - 1 < used + (fetched s f q).length + 1 then s
    else
      let a := r.sqBase.toNat + 64 * r.sqHead
      let bad := hostStatus s a 64
      if bad ≠ 0x00 then setQ f q { r with state := .error, err := bad } s
      else
        let raw := BitVec.ofNat 512 (leNat (readBytes s.mem.host a 64))
        let c : Cmd := { key := ⟨f, q, cmdTag raw⟩, raw := raw, serial := s.host.nextSerial, live := true, started := false, done := none }
        let s := setQ f q { r with sqHead := (r.sqHead + 1) % 2 ^ r.sqSize } s
        flushUnknown { s with host := { s.host with cmds := s.host.cmds ++ [c], nextSerial := s.host.nextSerial + 1 } })

end Sys2Proof.Machine
end

