-- ==== Sys2Proof/Machine/Clock.lean ====
section
/-! DEFINITION. The tide's distribution and discipline, the idle governor, the spring and the clock mesh
(spec/11_time_and_clocks.md). -/

namespace Sys2Proof.Machine

open Sys2Proof

/-! ### The tide (R289-R291, R475) -/

/-- A tide's record from cycle `n` on, with a correction. -/
def TideRec.restart (r : TideRec) (n : Nat) (c : Corr) : TideRec := { r with base := tideFx r n, since := n, corr := c }

/-- Tide units per network cycle as the root measures them over the next 1 µs of the disciplined tide, its slew included:
8.0, or 16.0 while the loop coasts, where nothing is slewed (R290, R300). -/
def rootRate (s : State) : Nat :=
  (tideFx s.t.atbin (s.t.now + 2000) - tideFx s.t.atbin s.t.now) / 2000 * (if s.t.coast then 2 else 1)

/-- The routers below a router on the tide tree, the spanning tree of the current bank (R220, R225, R290). -/
def tideBelow (s : State) (r : Cl) : List Cl :=
  match s.net.cur.root with
  | none => []
  | some root => ([0, 1, 2, 3] : List (Fin 4)).filterMap fun d =>
      (nbr r d).filter fun u => treeParent s.net.cur s.net.routeEpoch root u == some (d + 2)

/-- Half nanoseconds of a hop of the control plane, with what an elastic crossing measures of itself (R222, R290). -/
def tideHop (s : State) (r u : Cl) : Nat :=
  cycTime s ((if u.w = r.w then 2 else 48) +
    (if fieldOf r ≠ fieldOf u ∧ (inIsland s r || inIsland s u) then 4 + Config.elastic s.freeCount % 5 else 0))

/-- A router sends a TIDE packet on down the tree. -/
def tideDown (r : Cl) (pkt : BitVec 128) (s : State) : State :=
  { s with t := { s.t with tides := s.t.tides ++ (tideBelow s r).map fun u => ⟨u, pkt, tideHop s r u, s.t.now + tideHop s r u⟩ } }

/-- The TIDE packet the root sends (R290). -/
def tidePacket (s : State) : BitVec 128 :=
  BitVec.ofNat 128 (1 + put s.t.seq.toNat 6 2 + put (rootRate s) 32 32 + put (moduleTide s).toNat 64 64)

/-- TIDE_SEND (R290): 1 µs after the last, the root's counter is loaded from Atbin's tide and goes out down the tree;
routers receive it by TIDE_RECEIVE. -/
def execTideSend (s : State) : Host.Outcome State Fault Refusal :=
  .next (match meshRoot s with
    | none => s
    | some r =>
      if !s.pwr.rails || 2 ≤ (clState s r).val then s
      else
        let s := match s.t.tideSent with | some n => waitUntil s (n + usec 1) | none => s
        let n := netCycles s.t s.t.now
        let l := localRec s r
        let rate := BitVec.ofNat 32 (rootRate s)
        let l : TideRec := { base := max (tideFx l n) ((moduleTide s).toNat * 2 ^ 27), since := n, rate := rate, corr := .none, win := l.win }
        tideDown r (tidePacket s) { s with t := { s.t with
          seq := s.t.seq + 1, tideSent := some s.t.now, locals := s.t.locals.set {} (ck r) l } })

/-- A local tide corrected by a packet (R291). -/
def correctTide (s : State) (r : TideRec) (pkt : BitVec 128) : TideRec :=
  let p := pkt.toNat
  let n := netCycles s.t s.t.now
  let e := (BitVec.ofNat 64 (fld p 64 64) + BitVec.ofNat 64 (fld p 8 16) - tideAt r n).toInt
  let c : Corr := if e.natAbs ≤ 64 then .even e else if 0 < e then .none else .slow e.natAbs
  { base := if 64 < e then tideFx r n + e.toNat * 2 ^ 27 else tideFx r n
    since := n, rate := BitVec.ofNat 32 (fld p 32 32), corr := c, win := if s.t.coast then 1000 else 2000 }

/-- A packet with the time of its last hop added to DELAY: 8 tide units a half nanosecond (R290). -/
def withHop (pkt : BitVec 128) (hop : Nat) : BitVec 128 :=
  BitVec.ofNat 128 (pkt.toNat - fld pkt.toNat 8 16 * 2 ^ 8 + put (fld pkt.toNat 8 16 + 8 * hop) 8 16)

/-- TIDE_RECEIVE (R290, R291): a packet on the tide tree reaches a live router, which adds its hop to DELAY, corrects its
local tide and sends the packet on. -/
def execTideReceive (c : Cl) (pkt : BitVec 128) (s : State) : Host.Outcome State Fault Refusal :=
  .next (match s.t.tides.find? fun e => e.dst == c && e.pkt == pkt with
    | none => s
    | some e =>
      let s := waitUntil { s with t := { s.t with tides := s.t.tides.erase e } } e.due
      if !s.pwr.rails || 2 ≤ (clState s c).val || fld pkt.toNat 0 4 != 1 then s
      else
        let p := withHop pkt e.hop
        tideDown c p { s with t := { s.t with locals := s.t.locals.set {} (ck c) (correctTide s (localRec s c) p) } })

/-- The module keeps its own master tide (R288, R430). -/
def isManager (s : State) : Bool := s.fab.role == .standalone || s.fab.role == .manager

/-- A sample of facility time in ns at a tide: ORIGIN is set the first time and past 1 ms, else the tide
slews at no more than 50 ppm (R289). -/
def discipline (facility : Nat) (tide : Word) (s : State) : State :=
  let ns := tide.toNat / 16
  let t := { s.t with synced := true, syncAt := s.t.now, holdover := false }
  let origin := BitVec.ofInt 64 ((facility : Int) - ns)
  if !t.originSet then { s with t := { t with origin := origin, originSet := true, offset := 0 } }
  else
    let off : Int := (ns : Int) - ((facility : Int) - t.origin.toInt)
    if 1000000 < off.natAbs then
      { s with t := { t with origin := origin, rebases := t.rebases + 1, offset := off, atbin := t.atbin.restart s.t.now .none } }
    else { s with t := { t with offset := off, atbin := t.atbin.restart s.t.now (.ppm (-(off * 16))) } }

/-- TIDE_DISCIPLINE_SAMPLE (R289): a PTP sample at the manager; with 1PPS as the source it gives the second numbers. -/
def execTideDisciplineSample (facilityNs : BitVec 64) (s : State) : Host.Outcome State Fault Refusal :=
  .next (
    if isManager s && s.t.discipline == 1 then discipline facilityNs.toNat (moduleTide s) s
    else if isManager s && s.t.discipline == 2 then { s with t := { s.t with ptp := some (facilityNs, moduleTide s) } }
    else s)

/-- The whole second nearest to a time in ns. -/
def nearSecond (ns : Int) : Int := (ns + 500000000) / 1000000000

/-- The second of an edge by the last PTP sample (R289). -/
def ptpSecond (s : State) (stamp : Word) : Option Word :=
  s.t.ptp.map fun p => BitVec.ofInt 64 (nearSecond ((p.1.toNat : Int) + ((stamp.toNat : Int) - p.2.toNat) / 16))

/-- PPS_EDGE (R289, R475): the edge's tide stamp; its second is the one named by SET_SECONDS, else PTP's, else the whole
second nearest to the disciplined tide. -/
def execPpsEdge (stamp : BitVec 64) (s : State) : Host.Outcome State Fault Refusal :=
  .next (
    if !(isManager s && s.t.discipline == 2) then s
    else
      let est := ((stamp.toNat / 16 : Nat) : Int) + s.t.origin.toInt
      let sec := nearSecond est
      let far := 100000 < (est - sec * 1000000000).natAbs
      let named := s.t.seconds.orElse fun _ => ptpSecond s stamp
      let s := { s with t := { s.t with seconds := none } }
      if s.t.originSet then
        if far then s
        else discipline (match named with | some v => v.toNat * 1000000000 | none => (sec * 1000000000).toNat) stamp s
      else match named with
        | some v => discipline (v.toNat * 1000000000) stamp s
        | none => s)

/-- DISCIPLINE_SOURCE_LOST (R289, R475): 2 s after the last good sample. -/
def execDisciplineSourceLost (s : State) : Host.Outcome State Fault Refusal :=
  .next (
    if !isManager s || s.t.discipline == 0 then s
    else
      let s := waitUntil s (s.t.syncAt + usec 2000000)
      { s with t := { s.t with synced := false, holdover := true } })

/-! ### The idle governor (R295-R297, R339) -/

/-- A cluster has nothing in progress (R295). -/
def clIdle (s : State) (c : Cl) : Bool :=
  let a := arrOf s c
  ((clCtxs c).all fun x => (ctxRec s x).state != .ready) &&
  (a.state == .idle || a.state == .frozen || (a.state == .running && tokensHeld s c == 0)) &&
  ((pumpChans (.cluster c)).all fun ch => (chanOf s ch).state != .running) &&
  (s.sync.notes.all fun n => n.c ≠ c) && (combinerOf s c).isEmpty &&
  (s.net.xacts.all fun x => !(x.phase == .there && x.dst == c && !x.out)) &&
  (s.net.fvals.all fun v => v.member ≠ c)

/-- Distance of a short tide ahead, 0 where it is past (R293). -/
def shortAhead (s : State) (c : Cl) (d : BitVec 32) : Nat := (d - (localTide s c).setWidth 32).toInt.toNat

/-- Tide units to the cluster's next known event (R295): deadlines, the pending tide switch, held
releases. -/
def nextEvent (s : State) (c : Cl) : Option Nat :=
  let dl := (clCtxs c).filterMap fun x =>
    let r := ctxRec s x
    if r.state == .waiting then r.wait.bind fun w => w.deadline.map (shortAhead s c) else none
  let sw := match (arrOf s c).pend with
    | some p => (p.launch.map fun l => (l - localTide s c).toInt.toNat).toList
    | none => []
  let rel := (List.range 32).filterMap fun b =>
    let r := barOf s c b
    r.release.map fun l => (relLaunch s c r l.1 - localTide s c).toInt.toNat
  (dl ++ sw ++ rel).min?

/-- A barrier arrival awaits a release that may come too soon to wake for (R297). -/
def barrierSoon (s : State) (c : Cl) : Bool :=
  (List.range 32).any fun b =>
    let r := barOf s c b
    r.sent && r.release.isNone && decide (r.lead.toNat < 2000)

/-- The cluster enters retention; its arithmetic clock stops. -/
def fallAsleep (c : Cl) (s : State) : State :=
  setSleep c .retention (setOp c { opRec s c with sleepFrom := s.t.now } s)

/-- RETENTION_ENTER (R296, R297): with no known event, after GOV_HOLD of idleness. Wellheads stay awake. -/
def execRetentionEnter (c : Cl) (s : State) : Host.Outcome State Fault Refusal :=
  .next (
    let p := (owner s c).bind (partOf s)
    let retMin := match p with | some r => r.retMin | none => 10
    let hold := match p with | some r => r.govHold | none => 20
    if sleepOf s c != .awake || !arithOn s c || isWellhead s c || !clIdle s c || barrierSoon s c then s
    else match nextEvent s c with
      | some d => if retMin * 16000 ≤ d then fallAsleep c s else s
      | none => fallAsleep c (waitUntil s (s.t.now + usec hold)))

/-- The wake begins and takes 1.5 µs (R296, R339). -/
def startWake (c : Cl) (s : State) : State := setSleep c (.waking (s.t.now + 3000)) s

/-- GOVERNOR_WAKE (R296): at the next known event minus the wake time minus 200 ns. -/
def execGovernorWake (c : Cl) (s : State) : Host.Outcome State Fault Refusal :=
  .next (
    if sleepOf s c != .retention then s
    else match nextEvent s c with
      | none => s
      | some d => startWake c (if 27200 < d then waitTide s c (localTide s c + BitVec.ofNat 64 (d - 27200)) else s))

/-- Something unforeseen waits for the cluster: a request, an object operation or notification, a
message, a fountain value or a reply (R296). -/
def arrival (s : State) (c : Cl) : Bool :=
  (s.net.xacts.any fun x => (x.phase == .there && x.dst == c && !x.out) ||
    (match x.phase with | .back _ _ => x.pos == c && x.src == c | .home _ _ => x.src == c | _ => false)) ||
  (s.sync.notes.any fun n => n.c == c) || (s.net.fvals.any fun v => v.member == c)

/-- ARRIVAL_WAKE (R296). -/
def execArrivalWake (c : Cl) (s : State) : Host.Outcome State Fault Refusal :=
  .next (if sleepOf s c == .retention && arrival s c then startWake c s else s)

/-- WAKE_COMPLETE (R339). -/
def execWakeComplete (c : Cl) (s : State) : Host.Outcome State Fault Refusal :=
  .next (match sleepOf s c with
    | .waking n => awaken c (waitUntil s n)
    | _ => s)

/-! ### The spring (R298-R303) -/

/-- The loop coasts or runs from now on; cycles passed so far are kept (R299, R300). -/
def setCoast (b : Bool) (s : State) : State :=
  { s with t := { s.t with cycBase := netCycles s.t s.t.now, cycAt := s.t.now, coast := b } }

def other (p : Fin 2) : Fin 2 := if p = 0 then 1 else 0

/-- A switch of input is requested (R301). -/
def requestSwitch (dst : Fin 2) (s : State) : State :=
  { s with t := { s.t with spring := .switching dst s.t.now ((moduleTide s).setWidth 32) } }

/-- The automatic switch, where it applies (R301). -/
def autoSwitch (s : State) : State :=
  if s.t.coast && s.t.spring == .settled && s.t.autoSwitch && !s.t.valid[s.t.source] && s.t.valid[other s.t.source] then
    requestSwitch (other s.t.source) s
  else s

/-- The selected input is lost: the loop coasts, REF_LOST is posted (R300, R310). -/
def loseRef (port : Fin 2) (range : Bool) (s : State) : State :=
  let s := if s.t.coast then s else setCoast true s
  postTo .refLost (cxlUnit port) [] true (moduleTide s) [BitVec.ofNat 8 port.val, BitVec.ofNat 8 (b2n range)] s

/-- A pause of every arithmetic clock ends: watchdogs and timers stood still (R303). -/
def endPause (since : Nat) (s : State) : State :=
  shiftTimers (s.t.now - since) (shiftWatch (fun _ => true) (s.t.now - since) { s with t := { s.t with restartAt := s.t.now } })

/-- REF_LOST (R298, R300, R301): an input is lost; the selected one makes the loop coast, and one lost
during its relock ends the relock. -/
def execRefLost (port : Fin 2) (range : Bool) (s : State) : Host.Outcome State Fault Refusal :=
  .next (
    if !s.t.valid[port] then s
    else
      let s := { s with t := { s.t with valid := vset s.t.valid port false, noEdge := vset s.t.noEdge port (!range) } }
      if port ≠ s.t.source then s
      else match s.t.spring with
        | .relocking _ _ _ since =>
          autoSwitch (loseRef port range (setCoast true (endPause since { s with t := { s.t with spring := .settled } })))
        | _ => autoSwitch (loseRef port range s))

/-- REF_VALID (R298, R301): while the loop coasts, the other input's return may start the automatic
switch, and the selected one's return, with the other lost, a relock. -/
def execRefValid (port : Fin 2) (s : State) : Host.Outcome State Fault Refusal :=
  .next (
    let s := { s with t := { s.t with valid := vset s.t.valid port true, noEdge := vset s.t.noEdge port false } }
    if !s.t.coast || s.t.spring != .settled then s
    else if port = s.t.source then
      (if s.t.valid[other port] then s else { s with t := { s.t with spring := .relocking port port false s.t.now } })
    else autoSwitch s)

/-- The switch has taken the new input; the loop relocks, unless that input is lost (R301, R302). -/
def startRelock (dst : Fin 2) (hang : Bool) (s : State) : State :=
  let old := s.t.source
  let s := { s with t := { s.t with source := dst, spring := .relocking old dst hang s.t.now } }
  if s.t.valid[dst] then s
  else autoSwitch (loseRef dst (!s.t.noEdge[dst]) { s with t := { s.t with spring := .settled } })

/-- SPRING_INPUT_CHANGED (R301 steps 2 and 3): the switch waits for an edge of the old clock and one of the new, so it
never ends where either has stopped. -/
def execSpringInputChanged (s : State) : Host.Outcome State Fault Refusal :=
  .next (match s.t.spring with
    | .switching dst _ _ => if s.t.noEdge[s.t.source] || s.t.noEdge[dst] then s else startRelock dst false s
    | _ => s)

/-- CLK_SWITCH_HANG (R302, R310): 1 ms after the request. -/
def execClkSwitchHang (s : State) : Host.Outcome State Fault Refusal :=
  .next (match s.t.spring with
    | .switching dst since tide =>
      let s := waitUntil s (since + usec 1000)
      let old := s.t.source
      let s := postTo .clkSwitchHang (cxlUnit old) [] true (moduleTide s)
        (([BitVec.ofNat 8 old.val, BitVec.ofNat 8 dst.val, 0, 0] : List Byte) ++ leBytes 4 tide.toNat) s
      startRelock dst true s
    | _ => s)

/-- Commands of an opcode that wait for a larger step to end. -/
def endStarted (op : Nat) (st : Byte) (s : State) : State :=
  ((s.host.cmds.filter fun c => c.started && cmdOp c.raw == op).map (·.key)).foldl (fun s k => complete k st [] s) s

/-- SPRING_RELOCK_DONE (R301 step 4, R303, R414): 50 µs after the relock began. -/
def execSpringRelockDone (s : State) : Host.Outcome State Fault Refusal :=
  .next (match s.t.spring with
    | .relocking old dst hang since =>
      let s := waitUntil s (since + usec 50)
      let s := endPause since (setCoast false s)
      let s := { s with t := { s.t with spring := .settled, lastRelock := (moduleTide s).setWidth 32 } }
      let s := postTo .springSwitched (cxlUnit dst) [] true (moduleTide s)
        (([BitVec.ofNat 8 old.val, BitVec.ofNat 8 dst.val, BitVec.ofNat 8 (b2n hang), 0] : List Byte) ++
          leBytes 4 ((s.t.now - since) / 2000)) s
      endStarted 0x0703 0x00 (retrainAll s)
    | _ => s)

/-! ### The clock mesh (R304-R307) -/

/-- Neighbour fields, across the aqueduct bridges too (R304). -/
def fieldNbrs (f : Fin 192) : List (Fin 192) :=
  let w := f.val / 48
  let gx := f.val % 8 + 8 * (w % 2)
  let gy := f.val % 48 / 8 + 6 * (w / 2)
  let at_ (x y : Nat) : Fin 192 := Fin.ofNat 192 (48 * (x / 8 + 2 * (y / 6)) + 8 * (y % 6) + x % 8)
  (if 0 < gx then [at_ (gx - 1) gy] else []) ++ (if gx < 15 then [at_ (gx + 1) gy] else []) ++
  (if 0 < gy then [at_ gx (gy - 1)] else []) ++ (if gy < 11 then [at_ gx (gy + 1)] else [])

/-- The four fields at the module's centre: w0.f(7,5), w1.f(0,5), w2.f(7,0), w3.f(0,0). -/
def injection : List (Fin 192) := [47, 88, 103, 144]

/-- Fields of `ok` joined to those of the list by chains in `ok`. -/
def growFields (ok : List (Fin 192)) : Nat → List (Fin 192) → List (Fin 192)
  | 0, l => l
  | n + 1, l =>
    let more := ok.filter fun f => !l.contains f && (fieldNbrs f).any l.contains
    if more.isEmpty then l else growFields ok n (l ++ more)

/-- Connected sets of a list of fields, each from its lowest-numbered field. -/
def components : Nat → List (Fin 192) → List (List (Fin 192))
  | 0, _ => []
  | n + 1, l =>
    match l.head? with
    | none => []
    | some f =>
      let part := growFields l 192 [f]
      let isle := l.filter part.contains
      isle :: components n (l.filter fun g => !part.contains g)

/-- Fields in forerunner islands: every live one in a module in forerunner mode, which is one island (R306, R308). -/
def islandFields (s : State) : List (Fin 192) :=
  if s.t.foreOn then (List.finRange 192).filter fun f => (fieldRec s f).state != .dark else s.t.islands.flatten

/-- Fields whose node is locked. -/
def lockedFields (s : State) : List (Fin 192) :=
  (List.finRange 192).filter fun f => (fieldRec s f).state != .dark && !(islandFields s).contains f && !s.t.unlocked.contains f

/-- NODE_UNLOCKED (R306): the nodes declared, and those that no chain of locked nodes joins to an
injection field; their compute pauses. -/
def execNodeUnlocked (fields : List (Fin 192)) (s : State) : Host.Outcome State Fault Refusal :=
  .next (
    if !s.pwr.rails || s.t.foreOn then s
    else
      let ok := lockedFields s
      let stay := ok.filter fun f => !fields.contains f
      let reach := growFields stay 192 (injection.filter stay.contains)
      let bad := ok.filter fun f => !reach.contains f
      if bad.isEmpty then s
      else { s with t := { s.t with unlocked := s.t.unlocked ++ bad, unlockedAt := s.t.now } })

/-- ISLAND_FALLBACK (R310). -/
def islandEvent (isle : List (Fin 192)) (s : State) : State :=
  let live := isle.flatMap fun f => (fieldClusters f).filter (clLive s)
  let ps := (isle.flatMap (fieldParts s)).eraseDups
  let low : Fin 192 := isle.headD 0
  postTo .islandFallback (fieldUnit low) ps false (moduleTide s)
    (leBytes 2 isle.length ++ leBytes 2 live.length ++ [BitVec.ofNat 8 (b2n (isle.any injection.contains))]) s

/-- ISLAND_PLL_LOCKED (R306 steps 3 to 5): a field whose PLL fails goes dark; each connected set of the
others is an island from now on, posted 20.8 µs after the pause began, and its checked channels are to break (R279). -/
def execIslandPllLocked (failed : List (Fin 192)) (s : State) : Host.Outcome State Fault Refusal :=
  .next (
    if s.t.unlocked.isEmpty then s
    else
      let unlockedFrom := s.t.unlockedAt
      let s := waitUntil s (unlockedFrom + usec 20)
      let s := (s.t.unlocked.filter failed.contains).foldl (fun s f => fieldDark f 5 s) s
      let isles := components 192 ((List.finRange 192).filter s.t.unlocked.contains)
      let s := shiftWatch (fun k => (clOfKey k).any fun c => s.t.unlocked.contains (fieldOf c)) (s.t.now - s.t.unlockedAt) s
      let s := s.t.unlocked.foldl (fun s f => setField f { fieldRec s f with restartAt := s.t.now } s) s
      let s := { s with
        t := { s.t with unlocked := [], islands := s.t.islands ++ isles }
        sync := { s.sync with fallen := s.sync.fallen ++ isles.flatten } }
      isles.foldl (fun s i => islandEvent i s) (waitUntil s (unlockedFrom + 41600)))

end Sys2Proof.Machine
end

