-- ==== Sys2Proof/Machine/Weir.lean ====
section
/-! DEFINITION. Operating points, the weir and its caps, energy meters, droop, field and stack heat,
parking and ageing (spec/12_power_and_heat.md, 18_module_hardware.md R464, R473). -/

namespace Sys2Proof.Machine

open Sys2Proof

/-! ### Caps (R320-R322) -/

/-- The cap a CAP_IN level names, 0.1 kW (R321). -/
def levelCap (l : Nat) : Nat := min 880 (200 + 5 * l)

/-- The coolant limit for an inlet temperature in 1/16 °C and a flow in 0.1 L/min, 0.1 kW (R322). -/
def coolantCurve (t : Int) (f : Nat) : Nat :=
  if 800 < t ∨ f < 500 then 200
  else
    let base : Nat := if t ≤ 720 then 1760 else (1760 - 7 * (t - 720)).toNat
    max 200 (base * min f 1500 / 3000)

/-- The coolant limit now: 20 kW while a sensor has been silent for 10 ms (R322, R464). -/
def coolantLimit (s : State) : Nat :=
  match s.pwr.silentSince with
  | some n => if n + usec 10000 ≤ s.t.now then 200 else coolantCurve s.pwr.coolIn s.pwr.flow
  | none => coolantCurve s.pwr.coolIn s.pwr.flow

/-- The limit CAP_IN sets and its LIMIT_SOURCE (R321). -/
def capInLimit (s : State) : Nat × Nat :=
  match s.pwr.capIn with
  | .valid => (levelCap s.pwr.capLevel, 1)
  | .held _ => (levelCap s.pwr.capLevel, 1)
  | _ => (s.pwr.capFailsafe, 2)

/-- The effective limit and the source that sets it; of equal ones the first in the order of R320. -/
def effectiveLimit (s : State) : Nat × Nat :=
  let l := [(s.pwr.cap, 0)] ++ (if s.pwr.capInEn then [capInLimit s] else []) ++ [(coolantLimit s, 3)] ++
    (if s.pwr.share ≠ 0 then [(s.pwr.share, 4)] else []) ++ [(880, 5)]
  l.foldl (fun b x => if x.1 < b.1 then x else b) (s.pwr.cap, 0)

/-- The limit without the chassis share (R326). -/
def limitNoShare (s : State) : Nat := (effectiveLimit { s with pwr := { s.pwr with share := 0 } }).1

/-! ### Preferences and grants (R317-R319) -/

/-- A cluster's preferred point (R169, R318). -/
def preference (s : State) (c : Cl) : Nat :=
  match owner s c with
  | none => 8
  | some p =>
    if isWellhead s c then 8
    else
      let hint := (List.range 24).foldl (fun m k => max m (coreRec s c k).hint.toNat) 0
      if hint ≠ 0 then hint else (match partOf s p with | some r => r.defaultOp | none => 16)

/-- MAX_OP of the cluster's partition. -/
def maxOp (s : State) (c : Cl) : Nat :=
  match (owner s c).bind (partOf s) with
  | some r => r.maxOp
  | none => 16

/-- The grant of R318 under a module ceiling. -/
def grantFor (s : State) (ceil : Nat) (c : Cl) : Nat :=
  let f := fieldRec s (fieldOf c)
  max 4 (min (preference s c) (min (maxOp s c) (min ceil (min s.pwr.wceil[c.w] (min f.tceil f.kmax)))))

/-- Nominal voltage of a point, mV (R316). -/
def vnom (k : Nat) : Nat := 470 + 20 * k

/-- KMAX that an OFFSET in 5 mV units gives (R317). -/
def kmaxOf (off : Nat) : Nat := if off ≤ 12 then 16 else if off ≤ 16 then 15 else 14

/-- A cluster takes a grant: down at once; up when the regulator has stepped up, never during a droop
(R319, R333). -/
def applyGrant (g : Nat) (wait : Bool) (o : OpRec) : OpRec :=
  if g < o.k then { o with grant := g, k := g, raise := none }
  else if o.droop ≠ .none then (if g ≤ o.grant then { o with grant := g, raise := none } else { o with raise := some g })
  else if g = o.k then { o with grant := g, raise := none }
  else if wait then { o with grant := g, raise := some g }
  else { o with grant := g, k := g, raise := none }

/-- The grants and the setpoint of a field (R317-R319). -/
def grantField (f : Fin 192) (s : State) : State :=
  let r := fieldRec s f
  let cs := (fieldClusters f).filter fun c => !computeOff s c
  if r.state ≠ .on ∨ cs.isEmpty then s
  else
    let g (c : Cl) := grantFor s s.pwr.ceiling c
    let target := vnom (cs.foldl (fun m c => max m (g c)) 4) + 5 * r.offset
    let rising (c : Cl) : Bool := (opRec s c).raise.isSome && (opRec s c).droop == .none
    let pending := cs.any rising
    let cut := cs.any fun c => rising c && (match (opRec s c).raise with | some x => decide (g c < x) | none => false)
    let up := decide (r.vset < target)
    let s := cs.foldl (fun s c => setOp c (applyGrant (g c) (up || pending) (opRec s c)) s) s
    setField f { r with vset := if !up && (cut || pending) then r.vset else target
                        stepEnd := if up then s.t.now + 16 * (target - r.vset) else r.stepEnd } s

def grantAll (s : State) : State := (List.finRange 192).foldl (fun s f => grantField f s) s

/-- REGULATOR_SETPOINT_REACHED (R319): once the regulator has stepped up, the clusters that wait for it rise. -/
def execRegulatorSetpointReached (f : Fin 192) (s : State) : Host.Outcome State Fault Refusal :=
  .next ((fieldClusters f).foldl (fun s c =>
    let o := opRec s c
    match o.raise with
    | some g => if o.droop = .none ∧ !computeOff s c then setOp c { o with k := g, raise := none } s else s
    | none => s) (waitUntil s (fieldRec s f).stepEnd))

/-! ### Prediction (R324) -/

/-- Calibrated estimate of a cluster at a point, mW. -/
def clusterEst (s : State) (c : Cl) (k t : Nat) : Nat :=
  Config.clusterMw (ck c) (if computeOff s c then 0 else k) t s.pwr.interval * (fieldRec s (fieldOf c)).factor / 1000

/-- Bus input of a wafer quadrant: its clusters and its calibrated conversion losses. -/
def waferEst (s : State) (w : Fin 4) (ceil : Nat) (t : Nat) (wceil : Nat) : Nat :=
  let s' := { s with pwr := { s.pwr with wceil := vset s.pwr.wceil w wceil } }
  let n := ((waferClusters w).map fun c => clusterEst s c (grantFor s' ceil c) t).sum
  n + Config.lossMw w.val n s.pwr.interval * s.pwr.quads[w] / 1000

def stacksEst (s : State) : Nat := ((List.range 48).map fun n => Config.stackMw n s.pwr.interval).sum
def portsEst (s : State) : Nat := ((List.range 18).map fun n => Config.portMw n s.pwr.interval).sum

/-- predict(k, t): the module input in mW. -/
def predict (s : State) (k t : Nat) : Nat :=
  ((List.finRange 4).map fun w => waferEst s w k t s.pwr.wceil[w]).sum + stacksEst s + portsEst s + Config.networkMw s.pwr.interval

/-- The largest k from 16 down to 4 that fits. -/
def fitK (ok : Nat → Bool) : Nat := (([16, 15, 14, 13, 12, 11, 10, 9, 8, 7, 6, 5].find? ok)).getD 4

/-- At most one step up (R324). -/
def stepUp (old new : Nat) : Nat := if old + 1 < new then old + 1 else new

/-- The ceilings and the throttle of an interval. -/
def newCeilings (limit : Nat) (s : State) : State :=
  let wc (w : Fin 4) : Nat := max 4 (stepUp s.pwr.wceil[w] (fitK fun k => decide (waferEst s w 16 8 k ≤ 21000000 * 99 / 100)))
  let s := { s with pwr := { s.pwr with wceil := Vector.ofFn wc } }
  let lim := limit * 100000 * 96 / 100
  let ceil := max 4 (stepUp s.pwr.ceiling (fitK fun k => decide (predict s k 8 ≤ lim)))
  let t := if ceil = 4 then ([8, 7, 6, 5, 4, 3, 2].find? fun t => decide (predict s 4 t ≤ lim)).getD 1 else 8
  { s with pwr := { s.pwr with ceiling := ceil, throttle := stepUp s.pwr.throttle t } }

/-- CAP_LIMITING (R346). -/
def capEvent (kind high excess : Nat) (s : State) : State :=
  let p := s.pwr
  postTo .capLimiting atbinUnit [] false (moduleTide s)
    (([BitVec.ofNat 8 kind, BitVec.ofNat 8 p.limitSource, BitVec.ofNat 8 p.ceiling, BitVec.ofNat 8 p.throttle] : List Byte) ++
      leBytes 2 p.limit ++ leBytes 2 p.est ++ [BitVec.ofNat 8 high, 0] ++ leBytes 2 excess) s

/-- The point a cluster would be granted under no ceiling of the weir (R318). -/
def wanted (s : State) (c : Cl) : Nat :=
  let f := fieldRec s (fieldOf c)
  min (preference s c) (min (maxOp s c) (min f.tceil f.kmax))

/-- Highest preference that the ceilings or the throttle hold below itself; 0 for none (R328). -/
def heldPref (s : State) : Nat :=
  (allClusters.filter fun c => !computeOff s c).foldl (fun m c =>
    if min s.pwr.ceiling s.pwr.wceil[c.w] < wanted s c ∨ s.pwr.throttle < 8 then max m (preference s c) else m) 0

/-- CAP_LIMITING on entry and exit, each after 1 ms and at most one a second (R328). -/
def limitingStep (s : State) : State :=
  let high := heldPref s
  let n := s.t.now
  let p := s.pwr
  let soon : Bool := match p.limitAt with | some a => decide (n < a + usec 1000000) | none => false
  if high ≠ 0 then
    let since := p.heldSince.getD n
    let s := { s with pwr := { p with heldSince := some since, freeSince := none } }
    if !p.limiting && decide (since + usec 1000 ≤ n) && !soon then
      capEvent 1 high 0 { s with pwr := { s.pwr with limiting := true, limitAt := some n } }
    else s
  else
    let since := p.freeSince.getD n
    let s := { s with pwr := { p with heldSince := none, freeSince := some since } }
    if p.limiting && decide (since + usec 1000 ≤ n) && !soon then
      capEvent 0 0 0 { s with pwr := { s.pwr with limiting := false, limitAt := some n } }
    else s

/-! ### Energy (R329, R330) -/

def energyOf (s : State) (p : Fin 64) : Energy := s.pwr.energy.get {} p.val
def setEnergy (p : Fin 64) (e : Energy) (s : State) : State :=
  { s with pwr := { s.pwr with energy := s.pwr.energy.set {} p.val e } }

/-- A partition's part of an energy divided by bytes. -/
def byteShare (m : SMap Nat) (unit : Nat) (p : Fin 64) (nj : Nat) : Nat :=
  let total := ((List.range 64).map fun q => m.get 0 (unit * 64 + q)).sum
  if total = 0 then 0 else nj * m.get 0 (unit * 64 + p.val) / total

/-- Charges an interval of 2 µs: 1 mW for it is 2 nJ. What bytes do not divide is shared. -/
def chargeEnergy (s : State) : State :=
  let ps := s.part.parts.filterMap fun e => if e.2.isSome then some (Fin.ofNat 64 e.1 : Fin 64) else none
  let cl (c : Cl) := 2 * clusterEst s c (opRec s c).k (max 1 s.pwr.throttle)
  let own (p : Fin 64) := ((allClusters.filter fun c => owner s c == some p && !isWellhead s c).map cl).sum
  let none_ := ((allClusters.filter fun c => owner s c == none || isWellhead s c).map cl).sum
  let mem (p : Fin 64) := ((List.range 48).map fun n => byteShare s.pwr.stackBytes n p (2 * Config.stackMw n s.pwr.interval)).sum
  let link (p : Fin 64) := ((List.range 18).map fun n => byteShare s.pwr.portBytes n p (2 * Config.portMw n s.pwr.interval)).sum
  let direct (p : Fin 64) := own p + mem p + link p
  let given := (ps.map fun p => mem p + link p).sum
  let pool := 2 * predict s s.pwr.ceiling (max 1 s.pwr.throttle) - ((ps.map own).sum + none_) - given
  let all := (ps.map direct).sum
  let part (p : Fin 64) := if all = 0 then 0 else pool * direct p / all
  let tide := moduleTide s
  let s := ps.foldl (fun s p =>
    let e := energyOf s p
    setEnergy p { compute := e.compute + own p, memory := e.memory + mem p, link := e.link + link p
                  shared := e.shared + part p, tide := tide } s) s
  let o := s.pwr.overhead
  { s with pwr := { s.pwr with
    overhead := { o with compute := o.compute + none_, shared := o.shared + (pool - (ps.map part).sum), tide := tide }
    stackBytes := [], portBytes := [] } }

/-- WEIR_INTERVAL (R320-R330): at the next multiple of 2 µs. -/
def execWeirInterval (s : State) : Host.Outcome State Fault Refusal :=
  .next (
    if !s.pwr.rails then s
    else
      let s := chargeEnergy (waitUntil s ((s.t.now / 4000 + 1) * 4000))
      let l := effectiveLimit s
      let s := { s with pwr := { s.pwr with limit := l.1, limitSource := l.2 } }
      let hold : Bool := match s.pwr.backstop with | some n => decide (s.t.now < n) | none => false
      let s := if hold then s else newCeilings l.1 { s with pwr := { s.pwr with backstop := none } }
      let s := grantAll s
      let s := { s with pwr := { s.pwr with est := predict s s.pwr.ceiling s.pwr.throttle / 100000 } }
      let s := limitingStep s
      { s with pwr := { s.pwr with interval := s.pwr.interval + 1 } })

/-- A factor moves one eighth of the way to its ratio, within 0.8 and 1.25 (R325). -/
def calibrate (factor ratio : Nat) : Nat := max 800 (min 1250 ((((7 * factor + ratio : Nat) + 4) / 8)))

/-- WEIR_CALIBRATE (R325): a factor at a bound for 10 updates becomes 1.25. -/
def execWeirCalibrate (fields quads : Ratios) (s : State) : Host.Outcome State Fault Refusal :=
  .next (
    if !s.pwr.rails then s
    else
      let s := fields.foldl (fun s e =>
        let f : Fin 192 := Fin.ofNat 192 e.1
        let r := fieldRec s f
        let x := calibrate r.factor e.2
        let b := if x = 800 ∨ x = 1250 then r.bound + 1 else 0
        setField f { r with factor := if 10 ≤ b then 1250 else x, bound := b } s) s
      let q := quads.foldl (fun (q : Vector Nat 4) e => let w : Fin 4 := Fin.ofNat 4 e.1; vset q w (calibrate q[w] e.2)) s.pwr.quads
      { s with pwr := { s.pwr with quads := q } })

/-- FEED_MEASURE (R327): the backstop above 98% of the effective limit. -/
def execFeedMeasure (a b last100 : Nat) (s : State) : Host.Outcome State Fault Refusal :=
  .next (
    if !s.pwr.rails then s
    else
      let s := { s with pwr := { s.pwr with feedA := a, feedB := b, meas := last100 } }
      if last100 * 100 ≤ (effectiveLimit s).1 * 98 then s
      else
        let s := { s with pwr := { s.pwr with ceiling := 4, throttle := 1, backstop := some (s.t.now + usec 1000) } }
        capEvent 2 (heldPref s) 0 (grantAll s))

/-! ### Chassis shares (R326) -/

/-- Numbered modules of the manager's ring, itself first. -/
def ringModules (s : State) : List (BitVec 8) :=
  match s.fab.num with
  | none => []
  | some me =>
    me :: (((List.range 255).map (BitVec.ofNat 8)).filter fun m => m ≠ me && moduleAssigned s m &&
      ringPorts.any fun i => (portRec s i).state == .up && ((portRec s i).peer == m ||
        ((portRec s i).peer != 0xFF && Config.peerReaches (portRec s i).peer.toNat m.toNat s.fab.epoch.toNat)))

/-- A module's limit without its share and its demand; the manager's own are computed. -/
def demandOf (s : State) (m : BitVec 8) : Nat × Nat :=
  if some m = s.fab.num then (limitNoShare s, predict s 16 8 / 100000) else Config.moduleDemand m.toNat s.pwr.interval

/-- The share a module should have: the floor, and its part of what is above the floors. -/
def shareTarget (s : State) (ms : List (BitVec 8)) (m : BitVec 8) : Nat :=
  let above := s.pwr.chassisCap - 200 * ms.length
  let all := (ms.map fun n => (demandOf s n).2).sum
  max 200 (min (demandOf s m).1 (200 + (if all = 0 then 0 else above * (demandOf s m).2 / all)))

/-- Gives a module its share: the manager's own at once, another's by SHARE. -/
def giveShare (m : BitVec 8) (v : Nat) (s : State) : State :=
  let s := { s with pwr := { s.pwr with shares := s.pwr.shares.set 0 m.toNat v } }
  if some m = s.fab.num then { s with pwr := { s.pwr with share := v } }
  else controlOut m 0x7 (leBytes 2 v) { s with pwr := { s.pwr with waiting := if s.pwr.waiting.contains m.toNat then s.pwr.waiting else s.pwr.waiting ++ [m.toNat] } }

/-- The floors of the ring have gone above CHASSIS_CAP by an excess, or no longer do (R326, R346). -/
def excessStep (excess : Nat) (s : State) : State :=
  let was := s.pwr.excess
  let s := { s with pwr := { s.pwr with excess := excess } }
  if excess ≠ 0 ∧ was = 0 then capEvent 3 0 excess s
  else if excess = 0 ∧ was ≠ 0 then capEvent 4 0 0 s
  else s

/-- SHARE_REALLOCATE (R326): shares are lowered, and joining modules given their floor, first; any is
raised only once every module so changed has confirmed. -/
def execShareReallocate (s : State) : Host.Outcome State Fault Refusal :=
  .next (
    if s.fab.role != .manager || s.pwr.chassisCap == 0 then s
    else
      let ms := ringModules s
      let old (m : BitVec 8) := s.pwr.shares.get 0 m.toNat
      let now := s.pwr.shares.filter fun e => ms.any fun m => m.toNat = e.1
      let s := { s with pwr := { s.pwr with shares := now, waiting := s.pwr.waiting.filter fun n => ms.any fun m => m.toNat = n } }
      let goal := ms.map fun m => (m, shareTarget s ms m)
      let first := goal.filter fun g => old g.1 = 0 ∨ g.2 < old g.1
      let s := if !first.isEmpty then
          first.foldl (fun s g => giveShare g.1 (if old g.1 = 0 then 200 else g.2) s) s
        else if s.pwr.waiting.isEmpty then
          (goal.filter fun g => old g.1 < g.2).foldl (fun s g => giveShare g.1 g.2 s) s
        else s
      excessStep (200 * ms.length - s.pwr.chassisCap) s)

/-- SHARE (R326): the module applies its share and confirms it; every module of the ring posts the excess of the
floors, which no packet carries: a free value. -/
def execShare (v : BitVec 16) (s : State) : Host.Outcome State Fault Refusal :=
  .next (
    if s.fab.role != .worker && s.fab.role != .standby then s
    else
      let excess := if v = 200#16 then Config.ringExcess s.freeCount else 0
      controlOut s.fab.manager 0x7 (leBytes 2 v.toNat)
        (excessStep excess { s with freeCount := s.freeCount + 1, pwr := { s.pwr with share := v.toNat } }))

/-- SHARE_ACK (R326). -/
def execShareAck (m : BitVec 8) (s : State) : Host.Outcome State Fault Refusal :=
  .next { s with pwr := { s.pwr with waiting := s.pwr.waiting.filter fun n => n ≠ m.toNat } }

/-! ### CAP_IN (R321, R473) -/

/-- CAP_IN is no longer valid: its level is held from now on. -/
def capLost (s : State) : State :=
  { s with pwr := { s.pwr with
    capGoodSince := none
    capIn := (match s.pwr.capIn with | .valid => .held s.t.now | c => c) } }

/-- CAP_IN_FRAME (R473, R321): a level counts at its second good frame; after CAP_FAILSAFE took over it
must have been valid for 100 ms. -/
def execCapInFrame (b0 b1 b2 : Byte) (s : State) : Host.Outcome State Fault Refusal :=
  .next (
    if b0 ≠ 0x5A ∨ b2 ≠ b1 ^^^ 0xFF then capLost s
    else if s.pwr.capFrame ≠ some b1.toNat then capLost { s with pwr := { s.pwr with capFrame := some b1.toNat } }
    else
      let since := s.pwr.capGoodSince.getD s.t.now
      let s := { s with pwr := { s.pwr with capLevel := b1.toNat, capGoodSince := some since } }
      let next : CapIn := match s.pwr.capIn with
        | .failsafe => if since + usec 100000 ≤ s.t.now then .valid else .failsafe
        | _ => .valid
      { s with pwr := { s.pwr with capIn := next } })

/-- CAP_IN_INVALID (R473): a gap of more than 30 ms, or another pattern. -/
def execCapInInvalid (s : State) : Host.Outcome State Fault Refusal :=
  .next (capLost { s with pwr := { s.pwr with capFrame := none } })

/-- CAP_IN_HOLD_EXPIRE (R321). -/
def execCapInHoldExpire (s : State) : Host.Outcome State Fault Refusal :=
  .next (match s.pwr.capIn with
    | .held since =>
      let s := waitUntil s (since + usec 1000000)
      { s with pwr := { s.pwr with capIn := .failsafe } }
    | _ => s)

/-! ### Droop (R331-R333) -/

/-- The point a droop falls to. -/
def droopK (k : Nat) : Nat := max 4 (k / 2)

/-- DROOP_SOFT (R332). -/
def execDroopSoft (c : Cl) (s : State) : Host.Outcome State Fault Refusal :=
  .next (
    let o := opRec s c
    let f := fieldOf c
    let r := fieldRec s f
    if !arithOn s c then s
    else
      let s := setOp c { o with k := if o.droop = .none then droopK o.k else o.k, droop := .soft } (setField f { r with soft := r.soft + 1 } s)
      wrapEvent (fieldUnit f) 0 0x0B04 none r.soft 1 s)

/-- DROOP_HARD (R332): the arithmetic clock stops. -/
def execDroopHard (c : Cl) (s : State) : Host.Outcome State Fault Refusal :=
  .next (
    let o := opRec s c
    let f := fieldOf c
    let r := fieldRec s f
    if !arithOn s c then s
    else
      let k := if o.droop = .none then droopK o.k else o.k
      let s := setOp c { o with k := k, droop := .paused s.t.now } (setField f { r with hard := r.hard + 1 } s)
      wrapEvent (fieldUnit f) 0 0x0B04 none r.hard 1 s)

/-- DROOP_PAUSE_END (R332): after at least 20 ns; watchdogs stood still and the issue ramps restart. -/
def execDroopPauseEnd (c : Cl) (s : State) : Host.Outcome State Fault Refusal :=
  .next (
    let o := opRec s c
    match o.droop with
    | .paused since =>
      let s := waitUntil s (since + 40)
      restartRamps c (shiftWatch (fun k => k = ck c) (s.t.now - since) (setOp c { o with droop := .restarted, restartAt := s.t.now } s))
    | _ => s)

/-- DROOP_RECOVERY (R332, R333): after 1 µs within 20 mV, one point per group boundary up to the grant. -/
def execDroopRecovery (c : Cl) (s : State) : Host.Outcome State Fault Refusal :=
  .next (
    let o := opRec s c
    if o.droop = .soft ∨ o.droop = .restarted then
      let s := waitUntil s (s.t.now + usec 1 + 8 * (o.grant - o.k))
      setOp c { o with k := max o.k o.grant, droop := .none, raise := none } s
    else s)

/-! ### Shorts and heat (R314, R335-R338) -/

/-- RAIL_SHORT (R314). -/
def execRailShort (f : Fin 192) (network : Bool) (s : State) : Host.Outcome State Fault Refusal :=
  .next (if !s.pwr.rails then s else if network then fieldDark f 4 s else fieldOff f 2 s)

/-- THERMAL_STEP may be posted for a unit: at most one per 100 ms (R346). -/
def stepDue (s : State) (last : Option Nat) : Bool :=
  match last with | some n => decide (n + usec 100000 ≤ s.t.now) | none => true

/-- THERMAL_STEP (R346). -/
def thermalEvent (unit : BitVec 32) (kind : Nat) (t : Int) (ceil limit : Nat) (s : State) : State :=
  postTo .thermalStep unit [] false (moduleTide s)
    (([BitVec.ofNat 8 kind, 0] : List Byte) ++ temp2 t ++ [BitVec.ofNat 8 ceil, 0, 0, 0] ++ leBytes 2 limit) s

/-- THERMAL_STEP of a field, within its rate. -/
def fieldStep (f : Fin 192) (kind : Nat) (s : State) : State :=
  let r := fieldRec s f
  if stepDue s r.stepAt then
    thermalEvent (fieldUnit f) kind r.temp r.tceil 0 (setField f { r with stepAt := some s.t.now } s)
  else s

/-- WARN and its thermal ceiling (R336). -/
def warnStep (f : Fin 192) (s : State) : State :=
  let r := fieldRec s f
  let n := s.t.now
  if 1440 ≤ r.temp then
    if !r.warn then fieldStep f 0 (setField f { r with warn := true, ceilAt := n, coolSince := none } s)
    else if r.ceilAt + usec 100 ≤ n then setField f { r with tceil := max 4 (r.tceil - 1), ceilAt := n, coolSince := none } s
    else setField f { r with coolSince := none } s
  else if r.warn then
    if r.temp ≤ 1392 then
      let since := r.coolSince.getD n
      if since + usec 1000 ≤ n then fieldStep f 1 (setField f { r with warn := false, ceilAt := n, coolSince := none } s)
      else setField f { r with coolSince := some since } s
    else setField f { r with coolSince := none } s
  else if r.tceil < 16 ∧ r.ceilAt + usec 1000 ≤ n then setField f { r with tceil := r.tceil + 1, ceilAt := n } s
  else s

/-- FIELD_TEMP_SAMPLE (R335, R336), every 10 µs. -/
def execFieldTempSample (f : Fin 192) (t : Int) (s : State) : Host.Outcome State Fault Refusal :=
  .next (
    let r := fieldRec s f
    if !s.pwr.rails || r.state == .dark then s
    else
      let hot := if 1600 ≤ t then r.hot + 1 else 0
      let crit := if 1760 ≤ t then r.crit + 1 else 0
      let cool := if r.state = .computeOff then (if t ≤ 1280 then some (r.coolSince.getD s.t.now) else none) else r.coolSince
      let s := setField f { r with temp := t, hot := hot, crit := crit, coolSince := cool } s
      if 2 ≤ crit then fieldDark f 3 s
      else if r.state = .computeOff then s
      else if 2 ≤ hot then fieldOff f 1 s
      else warnStep f s)

/-- HOT_RESTORE (R337): after 10 ms at or below 80 °C. -/
def execHotRestore (f : Fin 192) (s : State) : Host.Outcome State Fault Refusal :=
  .next (
    let r := fieldRec s f
    match r.coolSince with
    | some n =>
      if r.state = .computeOff ∧ r.cause = 1 ∧ s.pwr.rails then fieldBack f (waitUntil s (n + usec 10000)) else s
    | none => s)

def setStk (st : Fin 48) (r : StkTemp) (s : State) : State := { s with pwr := { s.pwr with stk := s.pwr.stk.set {} st.val r } }

/-- THERMAL_STEP of a stack, within its rate. -/
def stkStep (st : Fin 48) (kind : Nat) (s : State) : State :=
  let r := s.pwr.stk.get {} st.val
  if stepDue s r.stepAt then thermalEvent (stackUnit st) kind r.temp 0 0 (setStk st { r with stepAt := some s.t.now } s) else s

/-- STACK_TEMP_SAMPLE (R338, R482), every 1 ms. -/
def execStackTempSample (st : Fin 48) (t : Int) (s : State) : Host.Outcome State Fault Refusal :=
  .next (
    let r := s.pwr.stk.get {} st.val
    if !s.pwr.rails then s
    else
      let s := setStk st { r with temp := t } s
      let r := { r with temp := t }
      if 1680 ≤ t then
        let s := if r.half then s else stkStep st 4 (setStk st { r with half := true, coolSince := none } s)
        fenceStack st 5 (setStk st { s.pwr.stk.get {} st.val with refresh := true } s)
      else if 1520 ≤ t then (if r.half then setStk st { r with coolSince := none } s else stkStep st 4 (setStk st { r with half := true, coolSince := none } s))
      else if !r.half then s
      else if t ≤ 1440 then
        let since := r.coolSince.getD s.t.now
        if since + usec 1000 ≤ s.t.now then stkStep st 5 (setStk st { r with half := false, coolSince := none } s)
        else setStk st { r with coolSince := some since } s
      else setStk st { r with coolSince := none } s)

/-! ### Parking and ageing (R340-R342) -/

/-- CLUSTER_PARK (R340, R390): 10 ms after it became unbound, or after READY. -/
def execClusterPark (c : Cl) (s : State) : Host.Outcome State Fault Refusal :=
  .next (
    if !s.pwr.park || !s.boot.ready || (owner s c).isSome || isWellhead s c || computeOff s c then s
    else setSleep c .off (zeroCluster c (waitUntil s (max s.boot.readyAt (s.part.unboundAt.get 0 (ck c)) + usec 10000))))

/-- No offset gives the field margin: its compute is fenced (R341, R482). -/
def fenceField (f : Fin 192) (s : State) : State :=
  let r := fieldRec s f
  if r.aged || r.state == .dark then s
  else
    let e := applyEpoch s
    let ps := fieldParts s f
    let s := setField f { r with aged := true } s
    let s := (fieldClusters f).foldl (fun s c =>
      if clLive s c then clDry c 1 (setSleep c .off (zeroCluster c (clusterReset c s))) else s) s
    fencedEvent (fieldUnit f) ps 4 e (startEpoch s)

/-- AGEING_REPLANNED (R346). -/
def ageingEvent (changed fell : Nat) (unscheduled : Bool) (s : State) : State :=
  let offs := (List.finRange 192).map fun f => (fieldRec s f).offset
  let ks := (List.finRange 192).map fun f => (fieldRec s f).kmax
  postTo .ageingReplanned atbinUnit [] false (moduleTide s)
    (leBytes 2 changed ++ leBytes 2 fell ++ [BitVec.ofNat 8 (offs.foldl max 0), BitVec.ofNat 8 (ks.foldl min 16),
      BitVec.ofNat 8 (b2n unscheduled), 0] ++ leBytes 4 s.pwr.hours) s

/-- AGEING_MONITOR_READ (R342): a monitor below half its target. -/
def execAgeingMonitorRead (f : Fin 192) (low : Bool) (s : State) : Host.Outcome State Fault Refusal :=
  .next (
    let r := fieldRec s f
    if !low || r.state != .on || !s.pwr.rails || r.aged then s
    else if 20 ≤ r.offset then fenceField f s
    else
      let k := kmaxOf (r.offset + 1)
      ageingEvent 1 (b2n (decide (k < r.kmax))) true (setField f { r with offset := r.offset + 1, kmax := k } s))

/-- A field takes its planned offset; with its compute off it takes it when compute returns (R341). -/
def planField (f : Fin 192) (off : Option (Fin 21)) (s : State) : State :=
  let r := fieldRec s f
  match off with
  | none => fenceField f s
  | some o =>
    let k := kmaxOf o.val
    if r.state = .computeOff then setField f { r with plan := some (o.val, k) } s
    else setField f { r with offset := o.val, kmax := k } s

/-- Fields whose OFFSET differs, and whose KMAX is lower, than before. -/
def planChanges (s t : State) : Nat × Nat :=
  (((List.finRange 192).filter fun f => (fieldRec s f).offset ≠ (fieldRec t f).offset).length,
   ((List.finRange 192).filter fun f => (fieldRec t f).kmax < (fieldRec s f).kmax).length)

/-- AGEING_REPLAN (R341): every 1,000 operating hours, which the row lets pass. -/
def execAgeingReplan (plan : List (Fin 192 × Option (Fin 21))) (s : State) : Host.Outcome State Fault Refusal :=
  .next (
    if !s.pwr.rails then s
    else
      let h := max s.pwr.hours (s.pwr.planHours + 1000)
      let t := plan.foldl (fun s e => planField e.1 e.2 s) { s with pwr := { s.pwr with hours := h, planHours := h } }
      let n := planChanges s t
      if n.1 = 0 ∧ n.2 = 0 then t else ageingEvent n.1 n.2 false t)

end Sys2Proof.Machine
end

