-- ==== Sys2Proof/Machine/Boot.lean ====
section
/-! DEFINITION. Firmware slots, power-on, the steps of a bring-up, and the life-cycle wipe
(spec/15_bring_up.md, 17_security.md R438-R453, 14_partitions_and_reset.md R384, R390). -/

namespace Sys2Proof.Machine

open Sys2Proof

/-! ### Firmware slots (R439, R445, R446) -/

/-- A field of a slot: `n` bytes at an offset, little-endian. -/
def slotNat (s : State) (i : Fin 2) (off n : Nat) : Nat := leNat (readBytes s.boot.flash[i] off n)

/-- Bytes of a slot that must be zero. -/
def slotZero (s : State) (i : Fin 2) (off n : Nat) : Bool := (readBytes s.boot.flash[i] off n).all (· == 0)

/-- The header is valid (R439, R445). -/
def headerOk (s : State) (i : Fin 2) : Bool :=
  slotNat s i 0 4 == 0x57465441 && slotNat s i 4 4 != 0 && decide (slotNat s i 0x10 4 ≤ 2 ^ 28 - 512) &&
  decide (slotNat s i 9 1 ≤ slotNat s i 8 1) && slotZero s i 0xA 6 && slotZero s i 0x14 12 && slotZero s i 0xB1 79 &&
  slotZero s i 0x160 160

/-- SVN, MIN_SVN and VERSION of a slot; the delivered firmware's are the implementation's. -/
def slotSvn (s : State) (i : Fin 2) : Nat := if s.boot.factory[i] then Config.factorySvn else slotNat s i 8 1
def slotMinSvn (s : State) (i : Fin 2) : Nat := if s.boot.factory[i] then 0 else slotNat s i 9 1
def slotVersion (s : State) (i : Fin 2) : BitVec 32 :=
  if s.boot.factory[i] then Config.factoryVersion
  else if slotNat s i 0 4 = 0x57465441 then BitVec.ofNat 32 (slotNat s i 4 4) else 0

/-- A big-endian number of bytes, and its bytes: how keys and signatures are carried (spec/17_security.md). -/
def beNat (d : List Byte) : Nat := leNat d.reverse
def beBytes (n v : Nat) : List Byte := (leBytes n v).reverse

/-- An uncompressed P-384 point as its two coordinates. -/
def pointOf (d : List Byte) : BitVec 768 := BitVec.ofNat 768 (beNat (d.drop 1))

/-- A signature: r followed by s, each 48 bytes and big-endian. -/
def signatureOf (d : List Byte) : BitVec 768 := BitVec.ofNat 768 (beNat d)

/-- A 384-bit digest as bytes carry it. -/
def digestOf (d : List Byte) : BitVec 384 := BitVec.ofNat 384 (leNat d)

/-- The slot passes R439. -/
def slotPasses (s : State) (i : Fin 2) : Bool :=
  decide (s.boot.svn ≤ slotSvn s i) && (s.boot.factory[i] || (
    let f := s.boot.flash[i]
    let key := readBytes f 0x50 97
    headerOk s i && Config.sha384 key == s.boot.rootHash &&
    Config.verify (pointOf key) (readBytes f 0 256) (signatureOf (readBytes f 0x100 96)) &&
    Config.sha384 (readBytes f 512 (slotNat s i 0x10 4)) == digestOf (readBytes f 0x20 48)))

/-- The other slot. -/
def otherSlot (i : Fin 2) : Fin 2 := if i = 0 then 1 else 0

def setSlot (i : Fin 2) (v : SlotFw) (s : State) : State := { s with boot := { s.boot with slots := vset s.boot.slots i v } }

/-! ### What a loss of power or a cold bring-up leaves (R315, R385, R390, R404, R437) -/

/-- Units dry by fuse (R3, R5, R399). -/
def fuseDry (variant : Nat) : DryMap := if variant = 2 then { ocsal := 0xF0CC } else {}

/-- The power state that flash, the sensors and the facility's own signals hold. -/
def coldPower (p : Power) : Power :=
  let field (_ : Nat) (r : FieldRec) : FieldRec :=
    { offset := (match r.plan with | some x => x.1 | none => r.offset)
      kmax := (match r.plan with | some x => x.2 | none => r.kmax), aged := r.aged }
  { cap := p.cap, capFailsafe := p.capFailsafe, hours := p.hours, planHours := p.planHours, interval := p.interval
    feeds := p.feeds, feedsLost := p.feedsLost, epo := p.epo, fields := mapVals {} field p.fields
    coolIn := p.coolIn, coolOut := p.coolOut, flow := p.flow, wet := p.wet, silentSince := p.silentSince
    hotInSince := p.hotInSince, lowFlowSince := p.lowFlowSince, hotOutSince := p.hotOutSince, wetSince := p.wetSince
    coolOkSince := p.coolOkSince, standby := p.standby }

/-- Fuses, flash and what Atbin counts over bring-ups. -/
def coldBoot (b : Boot) : Boot :=
  { variant := b.variant, rootHash := b.rootHash, secret := b.secret, svn := b.svn, serial := b.serial
    lc := b.lc, count := b.count, owner := b.owner, scope := b.scope, wipe := b.wipe, slots := b.slots, factory := b.factory
    flash := b.flash, slot := b.slot, select := b.select, trial := b.trial, provHash := b.provHash, retHash := b.retHash
    repair := b.repair, log := b.log, keys := b.keys }

/-- Everything volatile at its reset value; the tide starts again at 0 (R405). -/
def coldState (s : State) : State :=
  let port (p : CxlPort) : CxlPort := { perst := p.perst }
  { State.reset with
    t := { now := s.t.now, cycAt := s.t.now, atbin := { since := s.t.now }, preferred := s.t.preferred, valid := s.t.valid, noEdge := s.t.noEdge }
    pwr := coldPower s.pwr
    mem := { host := s.mem.host, hostErr := s.mem.hostErr }
    net := { dry := fuseDry s.boot.variant }
    host := { ports := s.host.ports.map port }
    boot := coldBoot s.boot
    fab := { role := s.fab.role, num := s.fab.num, record := s.fab.record }
    out := s.out
    freeCount := s.freeCount
    pending := s.pending }

/-- A bring-up stops (R393, R476). -/
def stopAt (n : Nat) (s : State) : State :=
  { s with boot := { s.boot with step := n }, pwr := { s.pwr with faultOut := true } }

/-- The ROM runs a slot: a COMMITTED one in trial, another as the ACTIVE one (R439, R448). -/
def runSlot (i : Fin 2) (s : State) : State :=
  let trial := s.boot.slots[i] == .committed
  let s := { s with boot := { s.boot with slot := i, trial := trial, step := 1 } }
  if trial then s
  else
    let o := otherSlot i
    setSlot i .active (if s.boot.slots[o] = .active then setSlot o .written s else s)

/-- A trial slot has failed: REJECTED, and the other slot selected (R448). -/
def rejectTrial (s : State) : State :=
  let i := s.boot.select
  let s := setSlot i .rejected s
  { s with boot := { s.boot with trial := false, select := otherSlot i } }

/-- The ROM's check at the start of a cold bring-up (R439, R448, R449): a trial not confirmed before the
last reset has failed. -/
def romCheck (s : State) : State :=
  let s := if s.boot.trial then rejectTrial s else s
  let a := s.boot.select
  if slotPasses s a then runSlot a s
  else
    let s := if s.boot.slots[a] = .committed then rejectTrial s else s
    if slotPasses s (otherSlot a) then runSlot (otherSlot a) s else stopAt 0x70 s

/-- A cold bring-up begins (R391): Atbin runs on the standby supply. -/
def startCold (s : State) : State :=
  let s := coldState s
  romCheck { s with
    pwr := { s.pwr with standby := true }
    boot := { s.boot with cold := true, began := s.t.now } }

/-- Every rail, standby too, goes off: nothing is saved, links go down and the bypasses close (R315). -/
def powerOff (why : Shut) (s : State) : State :=
  let s := coldState s
  { s with
    t := { s.t with valid := Vector.replicate 2 false, noEdge := Vector.replicate 2 true }
    pwr := { s.pwr with standby := false, shut := why } }

/-- What Atbin writes to the flash log at an EPO_N or coolant shutdown (R465, R492), in the layout of
R357: a cause and the readings as details. -/
def logStop (cause : Nat) (s : State) : State :=
  let r := leBytes 4 0 ++ leBytes 4 atbinUnit.toNat ++ leBytes 8 (moduleTide s).toNat ++
    ([BitVec.ofNat 8 cause, BitVec.ofNat 8 (b2n s.pwr.wet)] ++ temp2 s.pwr.coolIn ++ temp2 s.pwr.coolOut ++ leBytes 2 s.pwr.flow ++
      List.replicate 8 0)
  { s with boot := { s.boot with log := (s.boot.log ++ [r]).drop (s.boot.log.length + 1 - 65536) } }

/-- POWER_IN (R391, R392, R472): with a feed present and EPO_N deasserted, a module that has no power. -/
def execPowerIn (s : State) : Host.Outcome State Fault Refusal :=
  .next (if s.pwr.standby || s.pwr.epo || !(s.pwr.feeds[0] || s.pwr.feeds[1]) then s else startCold s)

/-! ### Warm start (R384, R385, R391) -/

/-- DEV_RESET KIND 6: everything but Atbin's standby supply; partitions are deleted, queues disabled,
ports DARK; tide, settings, ceilings, calibration, OVERHEAD and the repair map stay (R347, R405, R437). -/
def startWarm (s : State) : State :=
  let s := { s with boot := { s.boot with ready := false } }
  let fns := s.host.fns.map fun e => (⟨Fin.ofNat 2 (e.1 / 64), Fin.ofNat 64 e.1⟩ : FnId)
  let s := fns.foldl (fun s f => fnDown f s) s
  let port (_ : Nat) (p : PortRec) : PortRec :=
    { sent := p.sent, received := p.received, fec := p.fec, retries := p.retries, tags := p.tags, dropped := p.dropped }
  let link (p : CxlPort) : CxlPort := { perst := p.perst }
  let pages := s.boot.repair.pages.foldl (fun m k => m.set ({} : PageRec) k { dry := true }) []
  { State.reset with
    t := { s.t with cycBase := netCycles s.t s.t.now, cycAt := s.t.now, locals := [], tides := [], tideSent := none, coast := false
                    spring := .settled, foreOn := false, islands := [], unlocked := [], sleep := [] }
    pwr := { s.pwr with rails := false, readyOut := false, ops := [], energy := [], stackBytes := [], portBytes := []
                        slotId := Fin.ofNat 16 (Config.slotStraps s.t.now).toNat }
    mem := { host := s.mem.host, hostErr := s.mem.hostErr, pages := pages, clErr := s.mem.clErr, stErr := s.mem.stErr }
    net := { dry := s.boot.repair.dry, spares := s.boot.repair.spares, counters := s.net.counters
             deadRouters := (s.boot.repair.dry.clusters.filter fun e => 2 ≤ e.2.val).map fun e => (e.1, true) }
    host := { fns := s.host.fns, nextSerial := s.host.nextSerial, ports := s.host.ports.map link }
    boot := { s.boot with
      step := 2, cold := false, began := s.t.now, newlyDry := [], waited := 0, coolWait := none, wellheads := s.boot.repair.wellheads
      silent := [], loading := [], retired := s.boot.repair.pages, struck := [], badReads := [] }
    fab := { role := s.fab.role, num := s.fab.num, record := s.fab.record, ports := mapVals {} port s.fab.ports }
    out := s.out
    freeCount := s.freeCount
    pending := s.pending }

/-- A warm start becomes a cold bring-up, from step 2: Atbin keeps running, and its tide goes on (R391,
R405). -/
def turnCold (s : State) : State :=
  let w := coldState s
  { w with
    t := { w.t with
      atbin := s.t.atbin, seq := s.t.seq, origin := s.t.origin, originSet := s.t.originSet, offset := s.t.offset, rebases := s.t.rebases
      synced := s.t.synced, syncAt := s.t.syncAt, holdover := s.t.holdover }
    pwr := { w.pwr with slotId := s.pwr.slotId }
    boot := { w.boot with step := 2, cold := true, began := s.boot.began, waited := s.boot.waited } }

/-! ### What the steps find (R394-R400) -/

/-- A cluster becomes COMPUTE_DRY if it was live. -/
def bootDry (s : State) (c : Cl) : State := if clLive s c then clDry c 1 s else s

/-- A compute regulator that fails is latched off (R394). -/
def bootLatch (s : State) (f : Fin 192) : State :=
  let r := fieldRec s f
  if r.state = .dark then s
  else (fieldClusters f).foldl bootDry (setField f { r with state := .computeOff, cause := 2, latchC := true } s)

/-- A failing router (R395). -/
def bootRouter (s : State) (c : Cl) : State :=
  if 2 ≤ (clState s c).val then s
  else
    let s := clDry c 2 s
    { s with net := { s.net with deadRouters := s.net.deadRouters.set false (ck c) true } }

/-- Dry clusters, cores and tiles of a test; more than 4 cores or tiles, or an I/O tile, make the cluster dry (R395,
R396). -/
def bootClusters (r : StepResult) (s : State) : State :=
  let s := r.clusterDry.foldl bootDry s
  let s := r.dryCores.foldl (fun s k => setDry (fun d => { d with cores := d.cores.set false (ok k.1 k.2.val) true }) s) s
  let s := r.dryTiles.foldl (fun s k => setDry (fun d => { d with tiles := d.tiles.set false (ck k.1 * 32 + k.2.val) true }) s) s
  let s := (r.dryTiles.filter fun k => tileKind k.2 == 4).foldl (fun s k => bootDry s k.1) s
  ((r.dryCores.map (·.1)) ++ r.dryTiles.map (·.1)).foldl (fun s c =>
    if 4 < dryCores s c ∨ 4 < dryTiles s c then bootDry s c else s) s

/-- No core or tile of the cluster is dry (R2). -/
def clFull (s : State) (c : Cl) : Bool := clLive s c && dryCores s c == 0 && dryTiles s c == 0

/-- The wellhead candidates of a wafer, in order (R17). -/
def candidates (w : Fin 4) : List Cl := [⟨w, 47, 47⟩, ⟨w, 48, 47⟩, ⟨w, 47, 48⟩, ⟨w, 48, 48⟩]

/-- The wellheads of a cold bring-up; a wafer with none is lost (R17, R18, R393). -/
def chooseWellheads (s : State) : State :=
  let heads := (List.finRange 4).foldl (fun (m : SMap (Option Cl)) w => m.set none w.val ((candidates w).find? (clFull s))) []
  let s := { s with boot := { s.boot with wellheads := heads } }
  let s := ((List.finRange 4).filter fun w => heads.get none w.val == none).foldl bootWaferLost s
  if heads.isEmpty then stopAt 0x72 s else s

/-- A lane fails in step 9: dry, and its group's spare stands in for it where one is free (R229, R397). -/
def bootLane (s : State) (e : Fin 4 × Fin 2 × Fin 204) : State :=
  let wx := e.1.val * 2 + e.2.1.val
  let l := e.2.2.val
  setDry (fun d => { d with lanes := d.lanes.set false (wx * 256 + l) true }) s

/-- The spare of a dry lane's group enters service. -/
def bootSpare (s : State) (e : Fin 4 × Fin 2 × Fin 204) : State :=
  let wx := e.1.val * 2 + e.2.1.val
  let l := e.2.2.val
  let k := wx * 16 + l / 16
  if l < 192 ∧ s.net.dry.lanes.get false (wx * 256 + 192 + l / 16) = false ∧ s.net.spares.get none k = none then
    { s with net := { s.net with spares := s.net.spares.set none k (some (l, true)) } }
  else s

/-- A page with a row beyond repair is dry (R397). -/
def bootPage (s : State) (e : Fin 48 × Fin 64) : State :=
  let k := e.1.val * 64 + e.2.val
  if s.boot.retired.contains k then s
  else { s with
    boot := { s.boot with retired := s.boot.retired ++ [k] }
    mem := { s.mem with pages := s.mem.pages.set {} k { s.mem.pages.get {} k with dry := true } } }

/-- Clusters that L3072's fuses take (R399): beyond 7,680 a wafer, those with an exception record first,
then by descending cluster index. -/
def surplusOf (s : State) (w : Fin 4) : List Cl :=
  let ok := (waferClusters w).filter fun c => clLive s c && !isWellhead s c
  let part := (ok.filter fun c => !clFull s c).reverse
  let full := (ok.filter (clFull s)).reverse
  (part ++ full).take (ok.length - 7680)

/-- The dry map, banks and frontage lists of route epoch 1 (R400). -/
def firstEpoch (s : State) : State :=
  let aged := (List.finRange 192).filter fun f => (fieldRec s f).aged
  let s := aged.foldl (fun s f => (fieldClusters f).foldl bootDry s) s
  let s := if s.boot.cold then
      let surplus := if s.boot.variant = 2 then (List.finRange 4).flatMap (surplusOf s) else []
      surplus.foldl bootDry { s with boot := { s.boot with repair := { s.boot.repair with surplus := surplus.map ck } } }
    else s
  let b := buildBank s
  let s := frontDry b (markCut b s)
  { s with net := { s.net with
    routeEpoch := 1, epochTide := moduleTide s, cur := b, standby := none, stage := .none, again := false, paused := false
    published := { s.net.dry with wells := wellKeys s } } }

/-- Units of a dry map that another does not hold, by identifier (R402). -/
def newUnits (old new : DryMap) : List (BitVec 32) :=
  let cls := new.clusters.filterMap fun e => if old.clusters.get 0 e.1 = 0 then (clOfKey e.1).map clUnit else none
  let cores := new.cores.filterMap fun e => if old.cores.get false e.1 then none else (clOfKey (e.1 / 32)).map fun c => coreUnit c (e.1 % 32)
  let tiles := new.tiles.filterMap fun e =>
    if old.tiles.get false e.1 then none else (clOfKey (e.1 / 32)).map fun c => tileUnit ⟨c, Fin.ofNat 32 e.1⟩
  let stks := ((List.finRange 48).filter fun n => new.stk.getLsbD n.val && !old.stk.getLsbD n.val).map stackUnit
  let ocs := ((List.finRange 16).filter fun p => new.ocsal.getLsbD p.val && !old.ocsal.getLsbD p.val).map portUnit
  let cxls := ((List.finRange 2).filter fun p => new.cxl.getLsbD p.val && !old.cxl.getLsbD p.val).map cxlUnit
  let lanes := new.lanes.filterMap fun e =>
    if old.lanes.get false e.1 then none else some (laneUnit (Fin.ofNat 4 (e.1 / 512)) (Fin.ofNat 2 (e.1 / 256)) (e.1 % 256))
  cls ++ cores ++ tiles ++ stks ++ ocs ++ cxls ++ lanes

/-- Live clusters of a wafer: those of LIVE in the dry map, the wellhead and exception records left out
(R231). -/
def liveCount (s : State) (d : DryMap) (w : Fin 4) : Nat :=
  let s := { s with net := { s.net with dry := d } }
  let dry := d.clusters.countP fun e => e.1 / 16384 == w.val && !d.wells.contains e.1
  let part := ((d.cores.map (·.1)) ++ d.tiles.map (·.1)).filterMap fun k => clOfKey (k / 32)
  let part := (part.filter fun c => c.w = w && clLive s c && !d.wells.contains (ck c)).eraseDups
  9216 - d.wells.countP (· / 16384 == w.val) - dry - part.length

def liveTotal (s : State) : Nat := ((List.finRange 4).map (liveCount s s.net.published)).sum

/-- READY and what follows it (R402, R403). -/
def postReady (s : State) : State :=
  let secs := (s.t.now - s.boot.began) / usec 1000000
  let new := s.boot.newlyDry
  let s := postTo .ready atbinUnit [] true (moduleTide s)
    (([BitVec.ofNat 8 (b2n (!s.boot.cold)), 0] : List Byte) ++ leBytes 2 secs ++ leBytes 4 (liveTotal s) ++ leBytes 4 new.length) s
  let s := (List.finRange 2).foldl (fun s p =>
    if s.host.ports[p].up || s.net.dry.cxl.getLsbD p.val then s else cxlLinkEvent .linkDown p 3 0 s) s
  let s := if s.t.coast then
      postTo .refLost (cxlUnit s.t.source) [] true (moduleTide s)
        [BitVec.ofNat 8 s.t.source.val, BitVec.ofNat 8 (b2n (!s.t.noEdge[s.t.source]))] s
    else s
  (new.take 256).foldl (fun s u => fencedEvent u [] 0 1 s) s

/-! ### The steps (R392) -/

/-- Typical duration of a step in ms; step 11 takes 120 s where half of each stack is enabled, and twice as long while
the loop coasts (R392). -/
def stepMs (s : State) (n : Nat) : Nat :=
  if s.boot.cold && n == 11 then (if s.boot.variant = 1 then 120000 else 220000) * (if s.t.coast then 2 else 1) else
  ((if s.boot.cold then [2000, 200, 500, 2500, 300, 15000, 3000, 10000, 5000, 5000, 220000, 4000, 1000, 1000, 500]
    else [0, 200, 500, 1000, 300, 1000, 3000, 2000, 3000, 9000, 0, 3000, 1000, 500, 500] : List Nat)).getD (n - 1) 0

/-- The coolant lets the input stage close (R466). -/
def coolantReady (s : State) : Bool := decide (s.pwr.coolIn ≤ 800) && decide (500 ≤ s.pwr.flow) && !s.pwr.wet

/-- A step begins; step 3 waits for coolant (R466). -/
def enterStep (n : Nat) (s : State) : State :=
  { s with boot := { s.boot with step := n, coolWait := if n = 3 ∧ !coolantReady s then some s.t.now else none } }

/-- End of step 2: a cold bring-up has its memory error and router counters cleared (R201, R241); a warm start without a usable repair map, or with a wipe pending,
becomes cold (R391). -/
def endStep2 (s : State) : State :=
  let s := if s.boot.cold then { s with mem := { s.mem with clErr := [], stErr := [] }, net := { s.net with counters := [] } } else s
  let m := s.boot.repair
  if !s.boot.cold && (!m.valid || m.version != slotVersion s s.boot.slot || s.boot.wipe.isSome) then turnCold s
  else enterStep 3 s

/-- End of step 3: the rails behind the input stage come up, on a cold bring-up with the ceilings at 4 and
THROTTLE 8 (R347). -/
def endStep3 (r : StepResult) (s : State) : State :=
  if s.boot.coolWait.isSome then s
  else if !r.ok || r.converterFail.eraseDups.length == 4 then stopAt 0x71 s
  else
    let p := s.pwr
    let p := if s.boot.cold then { p with ceiling := 4, wceil := Vector.replicate 4 4, throttle := 8 } else p
    enterStep 4 { s with pwr := { p with rails := true } }

/-- End of step 4: the spring's input, and the regulator tests (R394, R404). -/
def endStep4 (r : StepResult) (s : State) : State :=
  let p := s.t.preferred
  let src := if s.t.valid[p] then p else if s.t.valid[other p] then other p else p
  let s := { s with t := { s.t with source := src, spring := .settled } }
  let s := if s.t.valid[src] then (if s.t.coast then setCoast false s else s) else (if s.t.coast then s else setCoast true s)
  let s := r.converterFail.foldl bootWaferLost s
  let s := r.networkRailFail.foldl (bootDark 4) s
  enterStep 5 (r.computeRailFail.foldl bootLatch s)

/-- End of step 5: fields whose node does not lock are dark; a pending wipe runs next (R306, R308, R406). -/
def endStep5 (r : StepResult) (s : State) : State :=
  let s := r.unlocked.foldl (bootDark 5) s
  let s := { s with t := { s.t with foreOn := s.t.forerunner } }
  if s.boot.wipe.isSome then { s with boot := { s.boot with step := 0x20 } } else enterStep 6 s

/-- Fields that were dark for CRIT come back, their clusters retested (R347, R400): those the repair map records dry,
for a defect or by fuse, stay so. -/
def restoreCrit (s : State) : State :=
  ((List.finRange 192).filter fun f => (fieldRec s f).state == .dark && (fieldRec s f).cause == 3).foldl (fun s f =>
    let s := setField f { fieldRec s f with state := .on, cause := 0, hot := 0, crit := 0 } s
    (fieldClusters f).foldl (fun s c =>
      let old := s.net.dry.beneath.get 0 (ck c)
      let s := setDry (fun d => { d with beneath := d.beneath.set 0 (ck c) 0 }) (clDry c old s)
      { s with net := { s.net with deadRouters := s.net.deadRouters.set false (ck c) (2 ≤ old.val) } }) s) s

/-- End of step 6: logic self-test and wellheads (R395, R17, R18). -/
def endStep6 (r : StepResult) (s : State) : State :=
  if s.boot.cold then
    let s := chooseWellheads (bootClusters r (r.routerDead.foldl bootRouter s))
    if s.boot.step = 0x72 then s else enterStep 7 s
  else if !r.wellheadFail.isEmpty then turnCold s
  else enterStep 7 (bootClusters r (r.routerDead.foldl bootRouter (restoreCrit s)))

/-- A trial boot is confirmed (R448): the slot is ACTIVE and the fused counter rises to MIN_SVN. -/
def confirmTrial (s : State) : State :=
  if !s.boot.trial then s
  else
    let i := s.boot.slot
    let o := otherSlot i
    let s := setSlot i .active (if s.boot.slots[o] = .active then setSlot o .written s else s)
    { s with boot := { s.boot with trial := false, select := i, svn := max s.boot.svn (slotMinSvn s i) } }

/-- The trial slot is REJECTED and the other boots cold (R448). -/
def failTrial (s : State) : State := startCold (rejectTrial s)

/-- Bring-up time that counts towards the limit of a trial (R448). -/
def trialTime (s : State) : Nat := s.t.now - s.boot.began - s.boot.waited

/-- End of step 7: the wellheads run and the tide is spread (R405, R448). -/
def endStep7 (s : State) : State :=
  if s.boot.trial && decide (usec 60000000 < trialTime s) then failTrial s
  else
    let s := { s with t := { s.t with locals := [], cycBase := (moduleTide s).toNat / 8, cycAt := s.t.now } }
    enterStep 8 (confirmTrial s)

/-- Step 15 writes the repair map, and READY follows (R392, R401, R402, R476). -/
def endStep15 (s : State) : State :=
  let k := takeFree s
  let s := k.2
  let b := s.boot
  let map : RepairMap :=
    { valid := true, version := slotVersion s b.slot, wellheads := b.wellheads, dry := s.net.published, pages := b.retired
      surplus := b.repair.surplus, spares := s.net.spares }
  postReady { s with
    mem := { s.mem with freeKey := k.1 }
    boot := { b with repair := map, step := 16, ready := true, readyAt := s.t.now }
    pwr := { s.pwr with readyOut := true } }

/-- A step ends and the next begins. -/
def endStep (r : StepResult) (s : State) : State :=
  match s.boot.step with
  | 1 => enterStep 2 { s with pwr := { s.pwr with slotId := Fin.ofNat 16 (Config.slotStraps s.t.now).toNat } }
  | 2 => endStep2 s
  | 3 => endStep3 r s
  | 4 => endStep4 r s
  | 5 => endStep5 r s
  | 6 => endStep6 r s
  | 7 => endStep7 s
  | 8 => enterStep 9 (bootClusters r { s with mem := { s.mem with sram := [], sramErr := [] } })
  | 9 => enterStep 10 (r.laneFail.foldl bootSpare (r.laneFail.foldl bootLane s))
  | 10 => enterStep (if s.boot.cold then 11 else 12)
            (r.stackFail.foldl (fun s n => setDry (fun d => { d with stk := d.stk ||| (1 <<< n.val) }) s) s)
  | 11 => enterStep 12 (r.dryPage.foldl bootPage s)
  | 12 => enterStep 13 (r.portFail.foldl (fun s p => setDry (fun d => { d with ocsal := d.ocsal ||| (1 <<< p.val) }) s) s)
  | 13 =>
    let s := firstEpoch s
    let old := if s.boot.repair.valid then s.boot.repair.dry else {}
    enterStep 14 { s with boot := { s.boot with newlyDry := newUnits old s.net.published } }
  | 14 =>
    let s := if s.boot.cold && decide (s.pwr.planHours + 1000 ≤ s.pwr.hours) then
        r.fieldPlan.foldl (fun s e => planField e.1 e.2 s) { s with pwr := { s.pwr with planHours := s.pwr.hours } }
      else s
    enterStep 15 s
  | 15 => endStep15 s
  | _ => s

/-- BRINGUP_STEP_DONE (R392): a step takes its typical time; outside steps 1 to 15, and while step 3 waits
for coolant, nothing happens. -/
def execBringupStepDone (r : StepResult) (s : State) : Host.Outcome State Fault Refusal :=
  .next (
    if s.boot.step = 0 ∨ 15 < s.boot.step ∨ s.boot.coolWait.isSome then s
    else endStep r (waitUntil s (s.t.now + usec (1000 * stepMs s s.boot.step))))

/-- BRINGUP_COOLANT_READY (R466): the wait does not count against a trial. -/
def execBringupCoolantReady (s : State) : Host.Outcome State Fault Refusal :=
  .next (match s.boot.coolWait with
    | none => s
    | some n =>
      if coolantReady s then { s with boot := { s.boot with coolWait := none, waited := s.boot.waited + (s.t.now - n) } } else s)

/-- TRIAL_BOOT_TIMEOUT (R448): step 7 has not ended after 60 s of bring-up time. -/
def execTrialBootTimeout (s : State) : Host.Outcome State Fault Refusal :=
  .next (
    if !s.boot.trial || s.boot.step == 0 || decide (7 < s.boot.step) || s.boot.coolWait.isSome then s
    else failTrial (waitUntil s (s.boot.began + s.boot.waited + usec 60000000)))

/-- LIFECYCLE_WIPE_DONE (R406, R453): memories are zero, the flash areas erased, and the new state
commits. -/
def execLifecycleWipeDone (s : State) : Host.Outcome State Fault Refusal :=
  .next (match s.boot.wipe with
    | none => s
    | some w =>
      if s.boot.step ≠ 0x20 then s
      else
        let s := waitUntil s (s.t.now + usec 45000000)
        let b := s.boot
        let owner := match w.1 with | .provisioned => w.2.1 | .returned => 0 | _ => b.owner
        enterStep 6 { s with
          mem := { s.mem with sram := [], stack := [], sramErr := [], stackErr := [] }
          fab := { s.fab with record := [] }
          boot := { b with lc := w.1, count := b.count + 1, owner := owner, scope := (if w.1 = .debug then w.2.2 else 0), wipe := none
                           log := [], waited := b.waited + usec 45000000 } })

/-- RECOVERY_IMAGE (R440): with no slot that passes, an image goes to slot A and boots if it passes. -/
def execRecoveryImage (image : List Byte) (s : State) : Host.Outcome State Fault Refusal :=
  .next (
    if s.boot.step ≠ 0x70 then s
    else
      let b := s.boot
      let s := { s with boot := { b with
        flash := vset b.flash 0 (writeBytes [] 0 (image.take (2 ^ 28))), factory := vset b.factory 0 false
        slots := vset b.slots 0 .written, select := 0, trial := false } }
      if slotPasses s 0 then startCold s else s)

end Sys2Proof.Machine
end

