-- ==== Sys2Proof/Machine/Power.lean ====
section
/-! DEFINITION. Coolant, the feeds, EPO_N and PRESENT_N (spec/12_power_and_heat.md R312, R315,
18_module_hardware.md R459-R472). -/

namespace Sys2Proof.Machine

open Sys2Proof

/-! ### Coolant (R322, R464, R465) -/

/-- Since when a condition has held. -/
def heldSince (now : Nat) (old : Option Nat) (holds : Bool) : Option Nat := if holds then some (old.getD now) else none

/-- A condition has held for `d`. -/
def heldFor (now d : Nat) (since : Option Nat) : Bool :=
  match since with
  | some n => decide (n + d ≤ now)
  | none => false

/-- The readings of a sample and since when each condition of R464 and R465 has held. -/
def readCoolant (r : Coolant) (n : Nat) (p : Power) : Power :=
  let p := { p with coolIn := r.inlet.getD p.coolIn, coolOut := r.outlet.getD p.coolOut, flow := r.flow.getD p.flow, wet := r.wet
                    silentSince := heldSince n p.silentSince (r.inlet.isNone || r.outlet.isNone || r.flow.isNone) }
  { p with
    hotInSince := heldSince n p.hotInSince (decide (880 < p.coolIn))
    lowFlowSince := heldSince n p.lowFlowSince (decide (p.flow < 300))
    hotOutSince := heldSince n p.hotOutSince (decide (1120 < p.coolOut))
    wetSince := heldSince n p.wetSince p.wet
    coolOkSince := heldSince n p.coolOkSince (decide (p.coolIn ≤ 720) && decide (1200 ≤ p.flow) && !p.wet) }

/-- Coolant shutdown (R465): every rail but the standby supply goes off, and the flash log keeps the
cause, the readings and the tide. -/
def coolantShutdown (cause : Nat) (s : State) : State :=
  let s := coldState (logStop cause s)
  { s with pwr := { s.pwr with shut := if cause = 4 then .leak else .coolant, faultOut := true } }

/-- Derating begins or ends (R322, R346). -/
def derateStep (s : State) : State :=
  let d : Bool := decide (coolantLimit s < 880)
  if d == s.pwr.derated || !s.boot.ready || !stepDue s s.pwr.deratedAt then s
  else
    thermalEvent atbinUnit (if d then 2 else 3) s.pwr.coolIn 0 (coolantLimit s)
      { s with pwr := { s.pwr with derated := d, deratedAt := some s.t.now } }

/-- COOLANT_SAMPLE (R464). The shutdown limits act while rails are on. -/
def execCoolantSample (r : Coolant) (s : State) : Host.Outcome State Fault Refusal :=
  .next (
    if !s.pwr.standby then s
    else
      let n := s.t.now
      let p := readCoolant r n s.pwr
      let s := { s with pwr := p }
      if !p.rails then s
      else if heldFor n (usec 100000) p.wetSince then coolantShutdown 4 s
      else if heldFor n (usec 1000000) p.hotInSince then coolantShutdown 1 s
      else if heldFor n (usec 1000000) p.lowFlowSince then coolantShutdown 2 s
      else if heldFor n (usec 1000000) p.hotOutSince then coolantShutdown 3 s
      else derateStep s)

/-- COOLANT_RESTART (R465): after 60 s of acceptable coolant; never after a leak. -/
def execCoolantRestart (s : State) : Host.Outcome State Fault Refusal :=
  .next (match s.pwr.coolOkSince with
    | some n => if s.pwr.shut = .coolant ∧ s.pwr.standby then startCold (waitUntil s (n + usec 60000000)) else s
    | none => s)

/-! ### Feeds and the facility's signals (R312, R315, R459, R461, R472) -/

/-- FEED_LOSS (R312): the other feed carries the load; with both absent the ride-through begins. -/
def execFeedLoss (f : Fin 2) (s : State) : Host.Outcome State Fault Refusal :=
  .next (
    let feeds := vset s.pwr.feeds f false
    let gone := !feeds[0] && !feeds[1]
    { s with pwr := { s.pwr with feeds := feeds, feedsLost := heldSince s.t.now s.pwr.feedsLost gone } })

/-- FEED_RETURN (R461). -/
def execFeedReturn (f : Fin 2) (s : State) : Host.Outcome State Fault Refusal :=
  .next { s with pwr := { s.pwr with feeds := vset s.pwr.feeds f true, feedsLost := none } }

/-- FEED_RIDE_THROUGH_EXPIRE (R312): 2 ms with both feeds absent. -/
def execFeedRideThroughExpire (s : State) : Host.Outcome State Fault Refusal :=
  .next (match s.pwr.feedsLost with
    | some n => if s.pwr.standby then powerOff .epo (waitUntil s (n + usec 2000)) else s
    | none => s)

/-- EPO_N_ASSERT (R315): asserted for 1 ms. -/
def execEpoNAssert (s : State) : Host.Outcome State Fault Refusal :=
  .next (
    let s := waitUntil s (s.t.now + usec 1000)
    let s := { s with pwr := { s.pwr with epo := true } }
    if s.pwr.standby then powerOff .epo (logStop 5 s) else s)

/-- EPO_N_DEASSERT (R472): 100 ms later, with a feed present, a cold bring-up. -/
def execEpoNDeassert (s : State) : Host.Outcome State Fault Refusal :=
  .next (
    if !s.pwr.epo then s
    else
      let s := { s with pwr := { s.pwr with epo := false } }
      if s.pwr.feeds[0] || s.pwr.feeds[1] then startCold (waitUntil s (s.t.now + usec 100000)) else s)

/-- PRESENT_N_LOSS (R459): lost for 100 µs, as EPO_N. -/
def execPresentNLoss (s : State) : Host.Outcome State Fault Refusal :=
  .next (if s.pwr.standby then powerOff .epo (waitUntil s (s.t.now + usec 100)) else s)

end Sys2Proof.Machine
end

