-- ==== Sys2Proof/Machine/Parts.lean ====
section
/-! DEFINITION. Partitions: binding and leaving of clusters and pages, the partition compute reset and
the larger resets (spec/14_partitions_and_reset.md). -/

namespace Sys2Proof.Machine

open Sys2Proof

/-! ### Requests that targets have accepted (R386 step 4) -/

/-- A target serves a request it holds, whatever its kind. -/
def serveOne (s : State) (id : Nat) : State :=
  ([execMemAccessServe, execMemTileOutsideAccess, execObjectRead, execObjectSet, fun i => execObjectAdd (.packet i), execObjectCas,
    execOpenArrive, execMessageArrive, execCreditArrive, execCloseArrive, execBasinContribution] :
      List (Nat → State → Host.Outcome State Fault Refusal)).foldl (fun s f => nextOf s (f id s)) s

/-- A request still held is answered PARTITION_RESETTING (R386 step 5). -/
def refuseHeld (s : State) (id : Nat) : State :=
  match xactOf s id with
  | some x => if x.phase = .there then answer x 0x05 [] s else s
  | none => s

/-- Requests held by the clusters named, or by stacks for the pages named. -/
def heldBy (s : State) (cl : Cl → Bool) (page : Fin 48 → Nat → Bool) : List Nat :=
  (s.net.xacts.filter fun x => x.phase == .there &&
    ((!x.out && cl x.dst) || x.phys.any fun q => page q.1 (q.2 / 2 ^ 30))).map (·.id)

/-! ### Pages (R194, R195, R379) -/

/-- Rekeys pages, given by key, holder and partition page, for one cause; WIPE_DONE follows when the last
is zero. -/
def rekeySet (part : Option (Fin 64)) (cause : Nat) (ps : List (Nat × Option (Fin 64) × Nat)) (s : State) : State :=
  if ps.isEmpty then s
  else
    let j := s.mem.nextJob
    let s := { s with mem := { s.mem with
      nextJob := j + 1, jobs := s.mem.jobs ++ [{ id := j, part := part, cause := cause, pages := ps.length, left := ps.length }] } }
    ps.foldl (fun s e => rekeyPage (Fin.ofNat 48 (e.1 / 64)) (e.1 % 64) j e.2.1 e.2.2 s) s

/-- Physical pages a partition holds, by key. -/
def heldPages (s : State) (p : Fin 64) : List (Nat × PageRec) := s.mem.pages.filter fun e => e.2.holder = some p

/-- A new key for a partition's pages (R194). -/
def drawKey (p : Fin 64) (s : State) : State :=
  let k := takeFree s
  { k.2 with mem := { k.2.mem with keys := k.2.mem.keys.set 0 p.val k.1 } }

/-- Frees pages: accesses already accepted complete, the pages take the free-page key, and slices mapped
to their partition pages unmap (R379). -/
def freePages (p : Fin 64) (ks : List Nat) (index : Nat → Bool) (s : State) : State :=
  let s := (heldBy s (fun _ => false) (fun n g => ks.contains (n.val * 64 + g))).foldl serveOne s
  let s := rekeySet none 1 (ks.map fun k => (k, none, 0)) s
  { s with mem := { s.mem with slices := s.mem.slices.filter fun e =>
      match e.2 with | some (q, g) => !(q == p && index g) | none => false } }

/-! ### Clusters join and leave (R376-R378) -/

/-- The cluster's generators hold key 0 and count 0 (R155). -/
def clearGens (c : Cl) (s : State) : State :=
  let s := (List.range 24).foldl (fun s k => setCore c k { coreRec s c k with gen := {}, act := 0 } s) s
  (allTiles c).foldl (fun s t => setIo t { ioOf s t with gen := {}, act := 0 } (setSf t { sfOf s t with gen := {}, act := 0 } s)) s

/-- Fountain registers of the cluster, and notifications on their way to it, are gone. -/
def clearSends (c : Cl) (s : State) : State :=
  { s with
    net := { s.net with fregs := s.net.fregs.filter fun e => e.1 / 32 ≠ ck c }
    sync := { s.sync with notes := s.sync.notes.filter fun n => n.c ≠ c } }

/-- A cluster is bound to a partition (R377): powered up if parked, its generators seeded with ACT 1. -/
def bindCluster (p : Fin 64) (s : State) (c : Cl) : State :=
  let s := if clLive s c && sleepOf s c == .off then setSleep c .awake (zeroCluster c s) else s
  let s := { s with part := { s.part with bind := s.part.bind.set none (ck c) (some p) } }
  let s := clearGens c s
  if clLive s c then (List.range 24).foldl (fun s k => seedCore c k s) s else s

/-- The cluster becomes unbound, its units at their reset values (R378, R390). -/
def unbindCluster (s : State) (c : Cl) : State :=
  let s := clearSends c (clearGens c s)
  { s with
    part := { s.part with bind := s.part.bind.set none (ck c) none, unboundAt := s.part.unboundAt.set 0 (ck c) s.t.now }
    sync := { s.sync with bars := s.sync.bars.filter fun e => e.1 / 32 ≠ ck c } }

/-- Clusters leave a partition's barriers and fountains (R378). -/
def leaveTrees (p : Fin 64) (cs : List Cl) (s : State) : State :=
  let s := (List.finRange 32).foldl (fun s b => dropMember p b cs 0x0B s) s
  let lost := s.net.fvals.filter fun v => v.part == p && cs.contains v.member
  let s := { s with net := { s.net with fvals := s.net.fvals.filter fun v => !(v.part == p && cs.contains v.member) } }
  let s := lost.foldl (fun s v => fountainAck v.send 0x05 s) s
  let f (k : Nat) (o : Option Fountain) : Option Fountain :=
    if k / 16 ≠ p.val then o
    else o.bind fun f =>
      let ms := f.members.filter fun c => !cs.contains c
      if ms.isEmpty then none else some { root := if cs.contains f.root then ms.headD f.root else f.root, members := ms }
  { s with net := { s.net with fountains := mapVals none f s.net.fountains } }

/-- Every endpoint of a cluster closes (R278). -/
def closeAll (c : Cl) (s : State) : State :=
  let es := s.sync.eps.filterMap fun e => if e.1 / 256 = ck c then some (Fin.ofNat 256 e.1) else none
  es.foldl (fun s e => closeEp c e s) s

/-- The units of a cluster stop (R386 step 3). -/
def stopCluster (s : State) (c : Cl) : State := resetClusterPump c (closeAll c (resetArray c (resetCtxs c s)))

/-- Clusters leave a partition (R378): units stop, accepted requests are served, memories zeroed. -/
def leaveClusters (p : Fin 64) (cs : List Cl) (s : State) : State :=
  let live := cs.filter (clLive s)
  let ids := heldBy s cs.contains (fun _ _ => false)
  let s := live.foldl stopCluster s
  let s := live.foldl (fun s c => if asleep s c then setSleep c .awake s else s) s
  let s := ids.foldl refuseHeld (ids.foldl serveOne s)
  let s := live.foldl (fun s c => zeroCluster c (clusterReset c s)) s
  cs.foldl unbindCluster (leaveTrees p cs s)

/-! ### Partition compute reset (R386-R388) -/

/-- Stack pump channels bound to a partition. -/
def boundChans (s : State) (p : Fin 64) : List ChanId :=
  s.pump.chans.filterMap fun e =>
    if 2 ^ 30 ≤ e.1 ∧ e.2.owner = some p then some (.stack (Fin.ofNat 48 ((e.1 - 2 ^ 30) / 16)) (Fin.ofNat 16 e.1)) else none

/-- Steps 1 and 3: the partition takes no more work and its units stop; a larger reset absorbs one that
runs (R388). -/
def startReset (kind : Nat) (deleting : Bool) (s : State) (p : Fin 64) : State :=
  match partOf s p with
  | none => s
  | some r =>
    match r.reset with
    | some z => setPart p (some { r with reset := some { z with kind := max z.kind kind, deleting := z.deleting || deleting } }) s
    | none =>
      let owed := heldBy s (fun c => owner s c == some p) (fun n g => (s.mem.pages.get {} (n.val * 64 + g)).holder == some p)
      let z : PReset := { since := s.t.now, kind := kind, zeroing := false, deleting := deleting, owed := owed }
      let s := setPart p (some { r with state := if deleting then .deleting else .resetting, reset := some z }) s
      let s := ((partClusters s p).filter (clLive s)).foldl stopCluster s
      (boundChans s p).foldl (fun s ch => resetChan ch s) s

/-- PARTITION_RESET_DRAIN_END (R386 steps 2, 5 and 6): when no accepted request is unserved, or 100 µs
after the start. -/
def execPartitionResetDrainEnd (p : Fin 64) (s : State) : Host.Outcome State Fault Refusal :=
  .next (match partOf s p with
    | none => s
    | some r =>
      match r.reset with
      | none => s
      | some z =>
        if z.zeroing then s
        else
          let left := z.owed.filter fun i => (xactOf s i).any fun x => x.phase == .there
          let s := left.foldl refuseHeld (waitUntil s (z.since + usec (if left.isEmpty then 2 else 100)))
          let s := drawKey p s
          let s := rekeySet (some p) 2 ((heldPages s p).map fun e => (e.1, some p, e.2.index)) s
          setPart p (some { r with reset := some { z with zeroing := true, owed := [] } }) s)

/-- A partition's numerics after its reset (R63, R136, R152, R156). -/
def resetNum (p : Fin 64) (s : State) : State :=
  let b := numBlock s p
  let k := if b.seedMode then (b.seedBase, s) else takeFree s
  let s := setNum p { nanTrap := b.nanTrap, repeatMax := b.repeatMax, seedMode := b.seedMode, coreSentinel := b.coreSentinel,
                      underflowStep := b.underflowStep, seedBase := k.1, seedSet := b.seedSet, highAt := b.highAt } k.2
  { s with num := { s.num with
    nans := s.num.nans.filter fun r => r.part ≠ p
    overflows := s.num.overflows.filter fun r => r.part ≠ p
    underflows := s.num.underflows.filter fun r => r.part ≠ p } }

/-- Barriers go back to generation 0; sends, values and snapshots of the old run are dropped (R269,
R287). -/
def resetTrees (p : Fin 64) (s : State) : State :=
  let mine (k : BarPkt) : Bool := match k with | .arrive q _ _ _ => q == p | .release q _ _ _ _ _ => q == p
  let root (k : Nat) (o : Option BarRoot) : Option BarRoot := if k / 32 = p.val then o.map fun r => { r with generation := 0, got := [] } else o
  let bar (k : Nat) (r : BarRec) : BarRec :=
    if (clOfKey (k / 32)).any fun c => owner s c == some p then
      { expected := r.expected, stagger := r.stagger, core := r.core, obj := r.obj, valid := r.valid, lead := r.lead }
    else r
  { s with
    sync := { s.sync with
      pkts := s.sync.pkts.filter fun k => !mine k
      roots := mapVals none root s.sync.roots
      bars := mapVals {} bar s.sync.bars
      snapshots := s.sync.snapshots.set [] p.val [] }
    net := { s.net with fvals := s.net.fvals.filter fun v => v.part ≠ p, fsends := s.net.fsends.filter fun v => v.part ≠ p } }

/-- A cluster of the partition is zeroed and returns to its reset values, its generators seeded anew (R155,
R386 steps 6 and 7). -/
def resetBound (s : State) (c : Cl) : State :=
  let act (s : State) : State :=
    let s := (List.range 24).foldl (fun s k => setCore c k { coreRec s c k with act := 0 } s) s
    (allTiles c).foldl (fun s t => setIo t { ioOf s t with act := 0 } (setSf t { sfOf s t with act := 0 } s)) s
  clusterReset c (act (clearSends c (zeroCluster c (if asleep s c then setSleep c .awake s else s))))

/-- Everything bound to a partition that has been reset is freed, and it ceases to exist (R195, R363). -/
def deletePartition (p : Fin 64) (s : State) : State :=
  let cs := partClusters s p
  let s := cs.foldl unbindCluster s
  let s := freePages p ((heldPages s p).map (·.1)) (fun _ => true) s
  let chan (_ : Nat) (r : ChanRec) : ChanRec := if r.owner = some p then { r with owner := none } else r
  let port (_ : Nat) (r : PortRec) : PortRec := if r.bound = some p then { r with bound := none } else r
  setPart p none { s with
    pump := { s.pump with chans := mapVals {} chan s.pump.chans }
    fab := { s.fab with ports := mapVals {} port s.fab.ports }
    net := { s.net with fountains := s.net.fountains.filter fun e => e.1 / 16 ≠ p.val }
    sync := { s.sync with roots := s.sync.roots.filter fun e => e.1 / 32 ≠ p.val }
    num := { s.num with blocks := s.num.blocks.set {} p.val {} }
    pwr := { s.pwr with energy := s.pwr.energy.set {} p.val {} }
    mem := { s.mem with keys := s.mem.keys.set 0 p.val 0 } }

/-- The partition a VF is bound to (R349). -/
def partOfVf (s : State) (f : FnId) : Option (Fin 64) :=
  if f.vf.val = 0 then none
  else s.part.parts.findSome? fun e => match e.2 with
    | some r => if r.port = f.port ∧ r.vf = f.vf then some (Fin.ofNat 64 e.1 : Fin 64) else none
    | none => none

/-- The partition number a command names, or its VF's own (R355). -/
def cmdTarget (s : State) (c : Cmd) : Option (Fin 64) :=
  if c.key.fn.vf.val ≠ 0 then partOfVf s c.key.fn
  else if cmdPart c.raw < 64 then some (Fin.ofNat 64 (cmdPart c.raw)) else none

/-- Some partition is in a wafer or module compute reset. -/
def wideReset (s : State) : Bool :=
  s.part.parts.any fun e => e.2.any fun r => r.reset.any fun z => decide (4 ≤ z.kind)

/-- Completes the RESET commands whose partitions are no longer in reset, and DEV_RESET once every
partition of it is done (R386 step 8, R388). -/
def finishResets (s : State) : State :=
  if wideReset s then s
  else
    let done := s.host.cmds.filter fun c => c.started && cmdOp c.raw == 0x020A && (cmdTarget s c).any fun p => !partResetting s p
    let s := done.foldl (fun s c => complete c.key 0x00 [] s) s
    endStarted 0x0103 0x00 s

/-- PARTITION_RESET_DONE (R372). -/
def resetDoneEvent (p : Fin 64) (kind since : Nat) (s : State) : State :=
  postEvent .partitionResetDone atbinUnit (some p) (moduleTide s)
    (([BitVec.ofNat 8 p.val, BitVec.ofNat 8 kind, 0, 0] : List Byte) ++ leBytes 4 ((s.t.now - since) / 2000)) s

/-- PARTITION_RESET_ZERO_DONE (R386 steps 6 to 8): zeroing takes 32 µs. -/
def execPartitionResetZeroDone (p : Fin 64) (s : State) : Host.Outcome State Fault Refusal :=
  .next (match partOf s p with
    | none => s
    | some r =>
      match r.reset with
      | none => s
      | some z =>
        if !z.zeroing then s
        else
          let s := resetTrees p (resetNum p (waitUntil s (s.t.now + usec 32)))
          let s := ((partClusters s p).filter (clLive s)).foldl resetBound s
          let s := setPart p (some { r with reset := none, lastReset := moduleTide s, state := if r.beds.isEmpty then .empty else .active }) s
          let s := resetDoneEvent p z.kind z.since s
          let gone := s.host.cmds.filter fun c => c.started && cmdOp c.raw == 0x0202 && cmdTarget s c == some p
          let s := if z.deleting then gone.foldl (fun s c => complete c.key 0x00 [] s) (deletePartition p s) else s
          finishResets s)

/-- A wafer or module compute reset (R384): every partition with a cluster on the wafers, and their
unbound clusters. -/
def startWide (ws : List (Fin 4)) (kind : Nat) (s : State) : State :=
  let ps := (List.finRange 64).filter fun p => (partOf s p).isSome && (kind == 5 || (partClusters s p).any fun c => ws.contains c.w)
  let s := ps.foldl (startReset kind false) s
  let free := (ws.flatMap waferClusters).filter fun c => owner s c == none && clLive s c
  free.foldl (fun s c => zeroCluster c (clusterReset c s)) s

end Sys2Proof.Machine
end

