-- ==== Sys2Proof/Machine/Wellhead.lean ====
section
/-! DEFINITION. Wellheads watched over their service lines, a lost wafer, and stacks and bus converters that
fail at run time (spec/19_faults.md R482, R489). -/

namespace Sys2Proof.Machine

open Sys2Proof

/-- Tells that the wafer is lost: its wellhead is gone, one UNIT_FENCED names it, and an epoch change starts (R489). -/
def waferGone (w : Fin 4) (ps : List (Fin 64)) (e : Nat) (s : State) : State :=
  fencedEvent (waferUnit w) ps 5 e (startEpoch { s with boot := { s.boot with
    wellheads := s.boot.wellheads.set none w.val none, loading := s.boot.loading.set none w.val none
    silent := s.boot.silent.set none w.val none } })

/-- No candidate is live: the wafer's clusters are dark from the next route epoch on, which switches its fields off
(R489). -/
def doomWafer (w : Fin 4) (s : State) : State :=
  if s.pwr.lostWafers.contains w || s.boot.doomed.contains w then s
  else
    let e := applyEpoch s
    let ps := ((waferFields w).flatMap (fieldParts s)).eraseDups
    let s := ((waferFields w).flatMap fieldClusters).foldl (fun s c => clDark c s) s
    waferGone w ps e { s with boot := { s.boot with doomed := s.boot.doomed ++ [w] } }

/-- A wafer without rails: its fields are switched off and read DARK, without FIELD_DARK; one UNIT_FENCED names the
wafer (R489). -/
def loseWafer (w : Fin 4) (s : State) : State :=
  if s.pwr.lostWafers.contains w then s
  else
    let e := applyEpoch s
    let ps := ((waferFields w).flatMap (fieldParts s)).eraseDups
    let s := (waferFields w).foldl (fun s f => loseFieldMem f s) s
    let s := bootWaferLost s w
    waferGone w ps e { s with t := { s.t with unlocked := s.t.unlocked.filter fun f => f.val / 48 ≠ w.val } }

/-- The new wellhead's cluster leaves the partition it is bound to, which is told (R489 step 2). -/
def takeCluster (c : Cl) (s : State) : State :=
  match owner s c with
  | none => s
  | some p => fencedEvent (clUnit c) [p] 1 (applyEpoch s) (leaveClusters p [c] s)

/-- A wellhead is lost: the first live candidate is loaded, or the wafer is lost (R489). -/
def loseWellhead (w : Fin 4) (s : State) : State :=
  match wellheadOf s w with
  | none => s
  | some old =>
    let s := { s with boot := { s.boot with wellheads := s.boot.wellheads.set none w.val none, silent := s.boot.silent.set none w.val none } }
    let s := fenceCluster old 1 s
    match (candidates w).find? (clLive s) with
    | none => doomWafer w s
    | some c =>
      let s := takeCluster c s
      { s with boot := { s.boot with loading := s.boot.loading.set none w.val (some c) } }

/-- WELLHEAD_POLL (R489): a poll every 100 µs, which the row lets pass; silence of 1 ms is a loss. -/
def execWellheadPoll (w : Fin 4) (answers : Bool) (s : State) : Host.Outcome State Fault Refusal :=
  .next (
    if !s.boot.ready || !s.pwr.rails || (wellheadOf s w).isNone then s
    else
      let s := waitUntil s (s.t.now + usec 100)
      if answers then { s with boot := { s.boot with silent := s.boot.silent.set none w.val none } }
      else
        let since := (s.boot.silent.get none w.val).getD (s.t.now - usec 100)
        if since + usec 1000 ≤ s.t.now then loseWellhead w s
        else { s with boot := { s.boot with silent := s.boot.silent.set none w.val (some since) } })

/-- WELLHEAD_REPLACED (R489 step 3): within 200 ms; the repair map records the choice. -/
def execWellheadReplaced (w : Fin 4) (s : State) : Host.Outcome State Fault Refusal :=
  .next (match s.boot.loading.get none w.val with
    | none => s
    | some c =>
      let s := waitUntil s (s.t.now + usec 200000)
      { s with boot := { s.boot with
        wellheads := s.boot.wellheads.set none w.val (some c), loading := s.boot.loading.set none w.val none
        repair := { s.boot.repair with wellheads := s.boot.repair.wellheads.set none w.val (some c) } } })

/-- BUS_CONVERTER_FAILURE (R489): the wafer is left without its rails. -/
def execBusConverterFailure (conv : Fin 16) (s : State) : Host.Outcome State Fault Refusal :=
  .next (if s.pwr.rails then loseWafer (Fin.ofNat 4 (conv.val / 4)) s else s)

/-- STACK_FAILURE (R482, R485): a stack loses training. -/
def execStackFailure (st : Fin 48) (s : State) : Host.Outcome State Fault Refusal :=
  .next (if s.pwr.rails then fenceStack st 5 s else s)

end Sys2Proof.Machine
end

