-- ==== Sys2Proof/Machine/Command.lean ====
section
/-! DEFINITION. What every command of the tables shares: when it may run, the checks before its own, host
buffers, cluster sets, and the reach of R364 (spec/13_host_and_commands.md R355, R360-R362, R364). -/

namespace Sys2Proof.Machine

open Sys2Proof

/-! ### Kinds of commands (R350, R360, R361, R454) -/

/-- How a command meets others: it changes nothing, a partition, or the module (R360). -/
inductive CmdClass where
  | reads | partition | module
  deriving DecidableEq, Repr

/-- The partition a command needs: none; an existing one; an existing one, or 0xFF from a PF; clusters within
the reach of R364, which from a VF that no partition is bound to is empty; a new number. -/
inductive CmdPartition where
  | none | one | maybe | reach | new
  deriving DecidableEq, Repr

/-- A row of the command tables: opcode, issuers, its class, the partition it names, the parameter bits it
defines by dword, and whether it runs before READY and in RETURNED. -/
structure CmdRow where
  op : Nat
  pfOnly : Bool
  cls : CmdClass
  part : CmdPartition
  bits : List (Nat × Nat)
  early : Bool := false
  returned : Bool := false
  deriving DecidableEq, Repr

/-- A full dword. -/
def all32 : Nat := 0xFFFFFFFF

/-- The dwords of a buffer at D2-D4, and of one behind a parameter in D2. -/
def bufBits : List (Nat × Nat) := [(2, all32), (3, all32), (4, all32)]
def bufBits3 : List (Nat × Nat) := [(3, all32), (4, all32), (5, all32)]

/-- The rows of R363, R364 and R368 by opcode; what a command's parameters leave out is reserved. -/
def cmdRows : List CmdRow :=
  [{ op := 0x0101, pfOnly := false, cls := .reads, part := .none, bits := bufBits, early := true, returned := true },
   { op := 0x0102, pfOnly := false, cls := .reads, part := .none, bits := [], early := true, returned := true },
   { op := 0x0103, pfOnly := true, cls := .module, part := .none, bits := [(2, 0x1F)], returned := true },
   { op := 0x0201, pfOnly := true, cls := .partition, part := .new, bits := [(2, 0x3F01)] },
   { op := 0x0202, pfOnly := true, cls := .partition, part := .one, bits := [] },
   { op := 0x0203, pfOnly := true, cls := .partition, part := .one, bits := [(2, 0x3F01)] },
   { op := 0x0204, pfOnly := true, cls := .partition, part := .one, bits := bufBits ++ [(5, 1)] },
   { op := 0x0206, pfOnly := true, cls := .partition, part := .one, bits := [(2, 0x3F), (3, 0x0FFF0FFF), (4, all32), (5, 0xFFFF)] },
   { op := 0x0207, pfOnly := true, cls := .partition, part := .maybe, bits := [(2, 0xF3F)] },
   { op := 0x0208, pfOnly := true, cls := .partition, part := .maybe, bits := [(2, 0xF)] },
   { op := 0x0209, pfOnly := false, cls := .partition, part := .one, bits := [(2, all32), (3, all32), (4, all32)] },
   { op := 0x020A, pfOnly := false, cls := .partition, part := .one, bits := [(2, 0x7F03), (3, 0xFFFF)] },
   { op := 0x020B, pfOnly := false, cls := .partition, part := .one, bits := (2, 0xFFFF001F) :: bufBits3 },
   { op := 0x020C, pfOnly := false, cls := .partition, part := .one, bits := [(2, 0x1F)] },
   { op := 0x020D, pfOnly := false, cls := .partition, part := .one, bits := (2, 0xF) :: bufBits3 },
   { op := 0x020E, pfOnly := false, cls := .partition, part := .one, bits := [(2, 0xF)] }] ++
  [{ op := 0x020F, pfOnly := false, cls := .reads, part := .one, bits := bufBits },
   { op := 0x0301, pfOnly := false, cls := .partition, part := .one, bits := bufBits ++ [(5, 1)] },
   { op := 0x0302, pfOnly := false, cls := .partition, part := .reach, bits := [(2, 0x3FFFFFFF), (3, 0x3FFFFF), (4, all32), (5, all32)] },
   { op := 0x0303, pfOnly := false, cls := .reads, part := .reach, bits := [(2, 0xFFFF), (3, 0x3FFFFF)] },
   { op := 0x0401, pfOnly := false, cls := .partition, part := .one, bits := bufBits ++ [(5, all32), (6, all32), (7, 1)] },
   { op := 0x0402, pfOnly := false, cls := .partition, part := .one, bits := [(2, 0xFFF), (3, 0xFFF)] },
   { op := 0x0403, pfOnly := true, cls := .module, part := .one, bits := [(2, 0xFFF), (3, 0xFFF)] },
   { op := 0x0404, pfOnly := true, cls := .partition, part := .maybe, bits := [(2, 0xFFF)] },
   { op := 0x0405, pfOnly := false, cls := .reads, part := .maybe, bits := bufBits },
   { op := 0x0501, pfOnly := false, cls := .reads, part := .reach, bits := (2, 0x3FFFFFFF) :: bufBits3 },
   { op := 0x0502, pfOnly := false, cls := .reads, part := .reach, bits := (2, 0xFFFF) :: bufBits3 },
   { op := 0x0503, pfOnly := false, cls := .reads, part := .reach, bits := (2, 0xFFFF) :: bufBits3 },
   { op := 0x0504, pfOnly := false, cls := .reads, part := .one, bits := bufBits }] ++
  [{ op := 0x0601, pfOnly := false, cls := .reads, part := .none, bits := bufBits },
   { op := 0x0602, pfOnly := true, cls := .module, part := .none, bits := [(2, all32), (3, all32)] },
   { op := 0x0603, pfOnly := false, cls := .reads, part := .one, bits := [] },
   { op := 0x0604, pfOnly := false, cls := .partition, part := .one, bits := [(2, all32), (3, all32)] },
   { op := 0x0605, pfOnly := false, cls := .reads, part := .maybe, bits := bufBits },
   { op := 0x0701, pfOnly := false, cls := .reads, part := .none, bits := bufBits },
   { op := 0x0702, pfOnly := true, cls := .module, part := .none, bits := [(2, all32), (3, all32)] },
   { op := 0x0703, pfOnly := true, cls := .module, part := .none, bits := [(2, 1)] },
   { op := 0x0704, pfOnly := true, cls := .partition, part := .none, bits := [(2, all32), (3, all32)] },
   { op := 0x0801, pfOnly := false, cls := .reads, part := .none, bits := bufBits },
   { op := 0x0802, pfOnly := true, cls := .module, part := .none, bits := [(2, 0x30F)] },
   { op := 0x0803, pfOnly := true, cls := .module, part := .none, bits := [(2, 3)] },
   { op := 0x0804, pfOnly := true, cls := .module, part := .one, bits := [(2, 0x3FFF), (3, 1)] }] ++
  [{ op := 0x0901, pfOnly := true, cls := .module, part := .none, bits := bufBits ++ [(5, all32)] },
   { op := 0x0902, pfOnly := true, cls := .module, part := .none, bits := [] },
   { op := 0x0903, pfOnly := false, cls := .reads, part := .none, bits := [], returned := true },
   { op := 0x0904, pfOnly := true, cls := .module, part := .none, bits := bufBits ++ [(5, 7)] },
   { op := 0x0905, pfOnly := false, cls := .reads, part := .none, bits := [], returned := true },
   { op := 0x0A01, pfOnly := false, cls := .reads, part := .one, bits := bufBits },
   { op := 0x0A02, pfOnly := false, cls := .partition, part := .one,
     bits := [(2, 7), (4, all32), (5, all32), (6, all32), (7, all32), (8, all32), (9, all32)] },
   { op := 0x0A03, pfOnly := false, cls := .partition, part := .one, bits := [] },
   { op := 0x0B01, pfOnly := false, cls := .reads, part := .none, bits := bufBits, returned := true },
   { op := 0x0B02, pfOnly := true, cls := .module, part := .none, bits := [(2, all32)] },
   { op := 0x0B03, pfOnly := true, cls := .reads, part := .none, bits := (2, 0x3FFFFFFF) :: bufBits3, returned := true },
   { op := 0x0B04, pfOnly := true, cls := .reads, part := .none, bits := bufBits, returned := true },
   { op := 0x0B05, pfOnly := true, cls := .reads, part := .none, bits := bufBits, returned := true }]

def cmdRow (op : Nat) : Option CmdRow := cmdRows.find? fun r => r.op == op

/-! ### The checks before a command's own (R355, R361) -/

/-- Reserved bits of the record and its parameters are 0. -/
def reservedZero (r : CmdRow) (raw : BitVec 512) : Bool :=
  fld raw.toNat 17 7 == 0 && fld raw.toNat 48 16 == 0 &&
    (List.range 14).all fun i =>
      let d := i + 2
      let m := match r.bits.find? fun e => e.1 == d with | some e => e.2 | none => 0
      cmdD raw d &&& (all32 - m) == 0

/-- A VF names 0xFF or its own partition (R355). -/
def vfNames (s : State) (c : Cmd) : Bool :=
  c.key.fn.vf.val == 0 || cmdPart c.raw == 0xFF ||
    (match partOfVf s c.key.fn with | some p => cmdPart c.raw == p.val | none => false)

/-- PARTITION names an existing partition where the command needs or gives one (R361). -/
def partNamed (s : State) (r : CmdRow) (c : Cmd) : Bool :=
  let exists_ : Bool := (cmdTarget s c).any fun p => (partOf s p).isSome
  match r.part with
  | .new => decide (cmdPart c.raw < 64)
  | .one => exists_
  | .reach => cmdPart c.raw == 0xFF || exists_
  | _ => cmdPart c.raw == 0xFF && (c.key.fn.vf.val == 0 || r.part == .none) || exists_

/-- The general checks, in the order of R361; 0x00 where they pass. -/
def cmdCheck (s : State) (r : CmdRow) (c : Cmd) : Byte :=
  if !reservedZero r c.raw then 0x03
  else if !s.boot.ready && !r.early then 0x01
  else if s.boot.lc == .returned && !r.returned then 0x04
  else if !vfNames s c then 0x04
  else if r.pfOnly && c.key.fn.vf.val != 0 then 0x04
  else if !partNamed s r c then 0x03
  else 0x00

/-! ### Cluster sets (R362) -/

/-- The rectangle a CSET names, x within y; none where x0 > x1 or y0 > y1, or a coordinate is above 95. -/
def csetOf (n : Nat) : Option (List Cl) :=
  let w : Fin 4 := Fin.ofNat 4 n
  let x0 := fld n 2 7
  let y0 := fld n 9 7
  let x1 := fld n 16 7
  let y1 := fld n 23 7
  if x1 < x0 ∨ y1 < y0 ∨ 95 < x1 ∨ 95 < y1 ∨ fld n 30 2 ≠ 0 then none
  else some ((List.range (y1 + 1 - y0)).flatMap fun j => (List.range (x1 + 1 - x0)).map fun i =>
    ⟨w, Fin.ofNat 96 (x0 + i), Fin.ofNat 96 (y0 + j)⟩)

/-! ### When a command may run (R355, R360, R361, R489) -/

/-- Wafers whose wellhead a command needs (R489). -/
def cmdWafers (s : State) (c : Cmd) : List (Fin 4) :=
  let mine : List (Fin 4) := match cmdTarget s c with
    | some p => ((partClusters s p).map (·.w)).eraseDups
    | none => []
  match cmdOp c.raw with
  | 0x0204 => [0, 1, 2, 3]
  | 0x0206 => mine
  | 0x0209 => mine
  | 0x020A => mine
  | 0x0301 => mine
  | 0x0302 => [Fin.ofNat 4 (cmdD c.raw 2)]
  | 0x0303 => [Fin.ofNat 4 (fld (cmdD c.raw 2) 14 2)]
  | 0x0401 => mine
  | 0x0501 => [Fin.ofNat 4 (cmdD c.raw 2)]
  | 0x0502 => [Fin.ofNat 4 (fld (cmdD c.raw 2) 14 2)]
  | 0x0503 => [Fin.ofNat 4 (fld (cmdD c.raw 2) 14 2)]
  | _ => []

/-- A command of another class of work holds this one up. -/
def held (s : State) (r : CmdRow) (c : Cmd) : Bool :=
  let cls (d : Cmd) : Option CmdClass := (cmdRow (cmdOp d.raw)).map (·.cls)
  let wellhead : Bool := (cmdWafers s c).any fun w => (s.boot.loading.get none w.val).isSome
  match r.cls with
  | .reads => wellhead
  | .module => wellhead || (s.host.cmds.any fun d => d.started && cls d == some .module)
  | .partition =>
    let t := cmdTarget s c
    wellhead || (t.any (partResetting s)) ||
      (t.isSome && s.host.cmds.any fun d => decide (d.serial < c.serial) && cls d == some .partition && cmdTarget s d == t)

/-- The command may run now: not yet started, no fence or other work before it, and at most 16 at once. -/
def mayRun (s : State) (r : CmdRow) (c : Cmd) : Bool :=
  !c.started && fenceClear s c && decide ((s.host.cmds.filter fun d => d.started).length < 16) && !held s r c

/-- Runs a command whose opcode and form are those of the row: a check of R361 that fails completes it, else
its own part runs. -/
def runCmd (k : CmdKey) (op : Nat) (form : BitVec 512 → Bool) (body : Cmd → State → State) (s : State) : State :=
  match s.host.cmds.find? (·.key == k), cmdRow op with
  | some c, some r =>
    if cmdOp c.raw ≠ op || !form c.raw || !mayRun s r c then s
    else
      let st := cmdCheck s r c
      if st ≠ 0x00 then complete k st [] s else body c s
  | _, _ => s

/-- Every record of the opcode. -/
def anyForm : BitVec 512 → Bool := fun _ => true

/-- The command goes on; a larger step completes it. -/
def markStarted (c : Cmd) (s : State) : State :=
  let g (d : Cmd) : Cmd := if d.serial = c.serial then { d with started := true } else d
  { s with host := { s.host with cmds := s.host.cmds.map g } }

/-- The command's partition; the checks leave none only for a command of the module. -/
def withPart (c : Cmd) (s : State) (f : Fin 64 → PartRec → State) : State :=
  match cmdTarget s c with
  | some p => match partOf s p with
    | some r => f p r
    | none => complete c.key 0x03 [] s
  | none => complete c.key 0x03 [] s

/-! ### Host buffers (R190, R362) -/

/-- Address and length of the buffer whose address begins at a dword. -/
def bufAddr (c : Cmd) (d : Nat) : Nat := cmdD c.raw d + cmdD c.raw (d + 1) * 2 ^ 32
def bufLen (c : Cmd) (d : Nat) : Nat := cmdD c.raw (d + 2)

/-- The host's answer to an access to a buffer of the command's function. -/
def bufStatus (s : State) (c : Cmd) (a n : Nat) : Byte :=
  if n = 0 then 0x00
  else if !s.host.ports[c.key.fn.port].up then 0x06
  else hostStatus s a n

/-- Writes bulk data and completes the command (R362); FULL names the length needed. -/
def giveData (c : Cmd) (d : Nat) (data : List Byte) (s : State) : State :=
  let a := bufAddr c d
  if a % 64 ≠ 0 then complete c.key 0x03 [] s
  else if bufLen c d < data.length then complete c.key 0x0E (leBytes 4 0 ++ leBytes 4 data.length) s
  else
    let st := bufStatus s c a data.length
    if st ≠ 0x00 then complete c.key st [] s
    else complete c.key 0x00 (leBytes 4 data.length) (hostWrite a data s)

/-- Reads a command's buffer, or the status that ends the command. -/
def takeData (s : State) (c : Cmd) (d : Nat) : Byte ⊕ List Byte :=
  let a := bufAddr c d
  if a % 64 ≠ 0 then .inl 0x03
  else
    let st := bufStatus s c a (bufLen c d)
    if st ≠ 0x00 then .inl st else .inr (readBytes s.mem.host a (bufLen c d))

/-- The entries of `n` bytes of a buffer; none where it holds no whole number of them, or none. -/
def entriesOf (n : Nat) : Nat → List Byte → Option (List Nat)
  | 0, _ => none
  | k + 1, l =>
    if l.length < n then none
    else if l.length = n then some [leNat l]
    else (entriesOf n k (l.drop n)).map fun r => leNat (l.take n) :: r

/-! ### Reach (R364) -/

/-- The requester a command's accesses are made as: its partition's, or the module's. -/
def cmdWho (s : State) (c : Cmd) : Requester := .wellhead (cmdTarget s c)

/-- A cluster is within the command's reach. -/
def inReach (s : State) (c : Cmd) (x : Cl) : Bool :=
  match cmdTarget s c with
  | none => c.key.fn.vf.val == 0
  | some p => owner s x == some p

/-- The cluster a CID names. -/
def cidOf (n : Nat) : Option Cl := clOfKey (n % 2 ^ 16)

/-- A sleeping cluster that the wellhead reaches wakes (R236, R296). -/
def rouse (c : Cl) (s : State) : State :=
  if asleep s c then awaken c (waitUntil s (s.t.now + 3000)) else s

/-! ### Memory accesses of a command (R185, R364, R367) -/

/-- Checks of one access to a memory of a partition; the stack and place of a space 0x0 address. -/
def memCheck (s : State) (p : Fin 64) (a : Word) : Byte :=
  if !layoutOk a then 0x03
  else match addrSpace a with
    | 0 => match translate (stackMap s p) (fld a.toNat 0 42) with
      | none => 0x03
      | some q =>
        if (pageOf s q.1 q.2).holder ≠ some p then 0x04
        else if !stackOn s q.1 then 0x09 else 0x00
    | _ => match addrCl a with
      | none => 0x03
      | some c =>
        if owner s c ≠ some p then 0x04
        else if computeOff s c || dryUnit s c a then 0x09 else 0x00

/-- A page under zeroing whose ahead list is full is zeroed to its end before the access goes on (R196). -/
def waitZero (st : Fin 48) (phys : Nat) : Nat → State → State
  | 0, s => s
  | k + 1, s => if granuleZero s st phys then waitZero st phys k (nextOf s (execPageZeroDone st s)) else s

/-- One write of at most 256 bytes. -/
def memPut (p : Fin 64) (a : Word) (d : List Byte) (s : State) : Byte × State :=
  let st := memCheck s p a
  if st ≠ 0x00 then (st, s)
  else if addrSpace a = 0 then
    match translate (stackMap s p) (fld a.toNat 0 42) with
    | none => (0x03, s)
    | some q =>
      let s := countStack q.1 p d.length s
      let full : Bool := (zeroAhead q.1 q.2 s).isNone
      let s := if full then waitZero q.1 q.2 65 s else s
      match stackWrite q.1 q.2 d a (some p) atbinUnit s with
      | none => (0x06, s)
      | some r => (r.1, settle r.2)
  else
    let s := match addrCl a with | some c => rouse c s | none => s
    let r := sramWrite a d atbinUnit s
    (r.1, settle r.2)

/-- One read of at most 256 bytes. -/
def memGet (p : Fin 64) (a : Word) (n : Nat) (s : State) : Byte × List Byte × State :=
  let st := memCheck s p a
  if st ≠ 0x00 then (st, [], s)
  else if addrSpace a = 0 then
    match translate (stackMap s p) (fld a.toNat 0 42) with
    | none => (0x03, [], s)
    | some q =>
      let r := stackRead q.1 q.2 n a (some p) false atbinUnit (countStack q.1 p n s)
      (r.1, r.2.1, settle r.2.2)
  else
    let s := match addrCl a with | some c => rouse c s | none => s
    let r := sramRead a n false atbinUnit s
    (r.1, r.2.1, settle r.2.2)

/-- Writes data packet by packet: the first failing status, the bytes written before it, the state. -/
def memPutAll (p : Fin 64) : List (Nat × List Byte) → Nat → State → Byte × Nat × State
  | [], n, s => (0x00, n, s)
  | (a, d) :: r, n, s =>
    let w := memPut p (BitVec.ofNat 64 a) d s
    if w.1 ≠ 0x00 then (w.1, n, w.2) else memPutAll p r (n + d.length) w.2

/-- Reads packet by packet. -/
def memGetAll (p : Fin 64) : List (Nat × List Byte) → List Byte → State → Byte × List Byte × State
  | [], l, s => (0x00, l, s)
  | (a, d) :: r, l, s =>
    let w := memGet p (BitVec.ofNat 64 a) d.length s
    if w.1 ≠ 0x00 then (w.1, l, w.2.2) else memGetAll p r (l ++ w.2.1) w.2.2

/-- The packets of a transfer of data at an address. -/
def cut (a : Nat) (d : List Byte) : List (Nat × List Byte) := packets (d.length + 1) a d

end Sys2Proof.Machine
end

