-- ==== Sys2Proof/Machine/Admin.lean ====
section
/-! DEFINITION. Device and partition commands (spec/13_host_and_commands.md R363, R369, R370,
14_partitions_and_reset.md R373-R389). -/

namespace Sys2Proof.Machine

open Sys2Proof

/-! ### IDENTIFY and GET_STATUS (R352, R369, R370) -/

/-- DEV_STATUS as a function reads it (R352). -/
def devStatusWord (s : State) (f : FnId) : Nat :=
  let lc : Nat := match s.boot.lc with | .blank => 0 | .provisioned => 1 | .deployed => 2 | .debug => 3 | .returned => 4
  let p := partOfVf s f
  put (b2n s.boot.ready) 0 1 + put s.boot.step 1 7 + put lc 8 3 + put s.boot.slot.val 11 1 + put (b2n (f.vf.val == 0)) 12 1 +
  put f.vf.val 13 6 + put f.port.val 19 1 + put (match p with | some p => p.val | none => 0) 20 6 + put (b2n p.isSome) 26 1

/-- STATE of Q_STATUS and EQ_STATUS (R352). -/
def queueStateCode : QState → Nat
  | .disabled => 0 | .running => 1 | .error => 2

/-- Q_CFG and Q_STATUS as read (R352). -/
def qCfgWord (r : QRec) : Nat :=
  put (b2n r.enable) 0 1 + put r.sqSize 1 4 + put r.cpqSize 5 4 + put r.vector.val 9 3 + put (b2n r.irqEn) 12 1 +
  put r.irqCount 16 8 + put r.irqDelay 24 8
def qStatusWord (r : QRec) : Nat :=
  put (queueStateCode r.state) 0 2 + put r.err.toNat 8 8 + put r.sqHead 16 12 + put r.cpqTail 28 12 + put (b2n r.phase) 40 1

/-- EQ_CFG and EQ_STATUS as read (R352). -/
def eqCfgWord (r : FnRec) : Nat :=
  put (b2n r.enable) 0 1 + put r.size 1 4 + put r.vector.val 5 3 + put (b2n r.irqEn) 8 1 + put r.minSev 16 4 + put r.irqDelay 24 8
def eqStatusWord (r : FnRec) : Nat :=
  put (queueStateCode r.state) 0 2 + put r.err.toNat 8 8 + put r.tail 16 12 + put (b2n r.phase) 28 1 +
  put (b2n r.overflow) 29 1 + put r.lost 32 32

/-- What a host reads at a BAR0 offset (R351, R352): the value of `size` bytes there; anything but an aligned
8-byte access, or an aligned 4-byte one to the MSI-X table and pending bits, reads as 0. A read changes nothing,
so it is no row; none for a write-only register, whose read the manual leaves open. -/
def bar0Read (s : State) (f : FnId) (off size : Nat) : Option Nat :=
  let r := fnRec s f
  let msi : Bool := 0x2000 ≤ off && off < 0x2080 || 0x3000 ≤ off && off < 0x3008
  if !fnOn s f ∨ off % size ≠ 0 ∨ (size ≠ 8 ∧ !(size == 4 && msi)) then some 0
  else if msi then
    some (if off < 0x3000 then fld r.msix[(Fin.ofNat 8 ((off - 0x2000) / 16))].toNat (8 * (off % 16)) (8 * size)
      else fld r.pba.toNat (8 * (off % 8)) (8 * size))
  else if off = 0 then some (put 1 0 16 + put 1 16 16 + put 4 32 8 + put 8 40 8)
  else if off = 8 then some (devStatusWord s f)
  else if off = 0x100 then some r.eqBase.toNat
  else if off = 0x108 then some (eqCfgWord r)
  else if off = 0x110 then none
  else if off = 0x118 then some (eqStatusWord r)
  else if 0x200 ≤ off ∧ off < 0x300 then
    let q := r.qs[(Fin.ofNat 4 ((off - 0x200) / 0x40))]
    match off % 0x40 / 8 with
    | 0 => some q.sqBase.toNat
    | 1 => some q.cpqBase.toNat
    | 2 => some (qCfgWord q)
    | 3 => none
    | 4 => none
    | 5 => some (qStatusWord q)
    | _ => some 0
  else some 0

/-- Clusters LIVE in the published map with dry cores or tiles (R231). -/
def exceptions (s : State) : List Cl :=
  let d := s.net.published
  let ks := (((d.cores.map (·.1)) ++ d.tiles.map (·.1)).map (· / 32)).eraseDups
  (ks.filterMap clOfKey).filter fun c => d.clusters.get 0 (ck c) == 0 && !d.wells.contains (ck c)

/-- Bytes DRY_MAP_READ returns. -/
def dryMapLen (s : State) : Nat := 0x2540 + 16 * (exceptions s).length

/-- Enabled GiB of a stack: its fused capacity less its free dry pages; 0 if dry (R370, R485). -/
def stackGib (s : State) (n : Fin 48) : Nat :=
  if s.net.published.stk.getLsbD n.val then 0
  else
    let free := s.boot.retired.filter fun k =>
      k / 64 = n.val ∧ k % 64 < stackPages s.boot.variant ∧ (s.mem.pages.get {} k).holder = none
    stackPages s.boot.variant - free.eraseDups.length

/-- 16-bit fields of a word. -/
def words4 (l : List Nat) : List Byte := l.flatMap (leBytes 2)

/-- The inventory; its counts read 0 before route epoch 1 (R370, R402). -/
def inventory (s : State) : List Byte :=
  let on : Bool := s.net.routeEpoch ≠ 0
  let g (n : Nat) : Nat := if on then n else 0
  let lc : Nat := match s.boot.lc with | .blank => 0 | .provisioned => 1 | .deployed => 2 | .debug => 3 | .returned => 4
  let well (w : Fin 4) : Nat := match wellheadOf s w with | some c => ck c | none => 0xFFFF
  let full := if s.boot.variant = 2 then 7680 else 8960
  orderingNumber s.boot.variant ++ leBytes 16 s.boot.serial.toNat ++
  words4 ((List.finRange 4).map fun w => g (liveCount s s.net.published w)) ++
  words4 [g full, g full, g full, g full] ++
  words4 ((List.finRange 4).map fun w => if on then well w else 0) ++
  leBytes 2 s.net.routeEpoch ++ leBytes 4 (g (dryMapLen s)) ++ leBytes 2 0 ++
  ([20, 4, 6, 2, 24, 4, 32, 0].map fun n => BitVec.ofNat 8 (g n)) ++
  words4 [g 4096, g 64, g 128, 0] ++
  ((List.finRange 48).map fun n => BitVec.ofNat 8 (g (stackGib s n))) ++
  leBytes 4 (g ((~~~ s.net.published.ocsal).toNat + (~~~ s.net.published.cxl).toNat * 2 ^ 16)) ++ leBytes 4 0 ++
  words4 [g 4000, g 2000, g 4, g 16] ++ words4 [g 550, g 850, g 700, 0] ++
  ([64, 63, 32, 16, 16, 4, 0, 0].map fun n => BitVec.ofNat 8 (g n)) ++
  leBytes 2 (g (hdmGib s)) ++ leBytes 6 0 ++ List.replicate 88 0 ++
  ((List.finRange 192).map fun f => BitVec.ofNat 8 (g (fieldRec s f).kmax)) ++
  leBytes 4 (slotVersion s s.boot.slot).toNat ++ leBytes 4 (slotVersion s (otherSlot s.boot.slot)).toNat ++
  leBytes 8 lc ++ List.replicate 48 0

/-- The IDENTIFY result (R369). -/
def identifyResult (s : State) (f : FnId) : List Byte :=
  words4 [1, 1, 1, 1, 1, 1] ++ leBytes 4 512 ++
  leBytes 4 (put f.vf.val 0 15 + put (b2n (f.vf.val == 0)) 15 1 + put f.port.val 16 8 +
    put (match partOfVf s f with | some p => p.val | none => 0xFF) 24 8) ++ leBytes 4 0

/-- IDENTIFY (R369, R370). -/
def execIdentify (k : CmdKey) (s : State) : Host.Outcome State Fault Refusal :=
  .next (runCmd k 0x0101 anyForm (fun c s =>
    let a := bufAddr c 2
    let n := bufLen c 2
    if n = 0 then complete k 0x00 (identifyResult s k.fn) s
    else if a % 64 ≠ 0 then complete k 0x03 [] s
    else if n < 512 then complete k 0x0E (leBytes 4 0 ++ leBytes 4 512) s
    else
      let st := bufStatus s c a 512
      if st ≠ 0x00 then complete k st [] s
      else complete k 0x00 (identifyResult s k.fn) (hostWrite a (inventory s) s)) s)

/-- GET_STATUS (R363). -/
def execGetStatus (k : CmdKey) (s : State) : Host.Outcome State Fault Refusal :=
  .next (runCmd k 0x0102 anyForm (fun _ s =>
    complete k 0x00 (leBytes 8 (devStatusWord s k.fn) ++ leBytes 8 (moduleTide s).toNat) s) s)

/-! ### DEV_RESET (R383, R384) -/

/-- KIND of a DEV_RESET. -/
def devKind (raw : BitVec 512) : Nat := fld (cmdD raw 2) 0 3

/-- DEV_RESET KIND 4, and the kinds it refuses (R363, R384). -/
def execDevResetWafer (k : CmdKey) (s : State) : Host.Outcome State Fault Refusal :=
  .next (runCmd k 0x0103 (fun r => decide (devKind r ≤ 4)) (fun c s =>
    if devKind c.raw < 4 then complete k 0x03 [] s
    else finishResets (markStarted c (startWide [Fin.ofNat 4 (fld (cmdD c.raw 2) 3 2)] 4 s))) s)

/-- DEV_RESET KIND 5 (R384). -/
def execDevResetModuleCompute (k : CmdKey) (s : State) : Host.Outcome State Fault Refusal :=
  .next (runCmd k 0x0103 (fun r => devKind r == 5) (fun c s =>
    finishResets (markStarted c (startWide [0, 1, 2, 3] 5 s))) s)

/-- DEV_RESET KIND 6, the module full reset (R384); no completion. -/
def execDevResetModuleFull (k : CmdKey) (s : State) : Host.Outcome State Fault Refusal :=
  .next (runCmd k 0x0103 (fun r => devKind r == 6) (fun _ s => startWarm s) s)

/-- DEV_RESET KIND 7, cold (R383); no completion. -/
def execDevResetCold (k : CmdKey) (s : State) : Host.Outcome State Fault Refusal :=
  .next (runCmd k 0x0103 (fun r => devKind r == 7) (fun _ s => startCold s) s)

/-! ### Partitions and their VF (R349, R363, R380) -/

/-- Port and VF of D2. -/
def vfParam (c : Cmd) : Fin 2 × Fin 64 := (Fin.ofNat 2 (cmdD c.raw 2), Fin.ofNat 64 (fld (cmdD c.raw 2) 8 6))

/-- A VF is bound to a partition other than the one given. -/
def vfTaken (s : State) (v : Fin 2 × Fin 64) (but : Option (Fin 64)) : Bool :=
  match partOfVf s ⟨v.1, v.2⟩ with
  | some p => some p != but
  | none => false

/-- PART_CREATE (R363): its numerics, power setting, timeouts and energy record at their reset values, its
seed base and its page key drawn (R136, R194). -/
def execPartCreate (k : CmdKey) (s : State) : Host.Outcome State Fault Refusal :=
  .next (runCmd k 0x0201 anyForm (fun c s =>
    let p : Fin 64 := Fin.ofNat 64 (cmdPart c.raw)
    let v := vfParam c
    if v.2 = 0 then complete k 0x03 [] s
    else if (partOf s p).isSome || vfTaken s v none then complete k 0x04 [] s
    else
      let b := takeFree s
      let s := setNum p { seedBase := b.1 } (drawKey p b.2)
      let s := setEnergy p {} (setPart p (some { port := v.1, vf := v.2 }) s)
      complete k 0x00 [] s) s)

/-- PART_DELETE (R363, R384): a partition compute reset, then everything bound is freed. -/
def execPartDelete (k : CmdKey) (s : State) : Host.Outcome State Fault Refusal :=
  .next (runCmd k 0x0202 anyForm (fun c s =>
    withPart c s fun p _ => startReset 3 true (markStarted c s) p) s)

/-- PART_SET_VF (R363, R380). -/
def execPartSetVf (k : CmdKey) (s : State) : Host.Outcome State Fault Refusal :=
  .next (runCmd k 0x0203 anyForm (fun c s =>
    withPart c s fun p r =>
      let v := vfParam c
      if v.2 = 0 then complete k 0x03 [] s
      else if vfTaken s v (some p) then complete k 0x04 [] s
      else complete k 0x00 [] (setPart p (some { r with port := v.1, vf := v.2 }) s)) s)

/-! ### Beds (R374, R377, R378) -/

/-- A bed entry of 2 bytes; none where it is out of range or a reserved bit is set. -/
def bedEntry (n : Nat) : Option Nat :=
  if fld n 0 5 < 24 ∧ fld n 5 5 < 24 ∧ n / 2 ^ 12 = 0 then some (576 * fld n 10 2 + 24 * fld n 5 5 + fld n 0 5) else none

/-- The beds of a buffer; none where it holds no entry, half of one, or a bad one. -/
def bedEntries (d : List Byte) : Option (List Nat) :=
  (entriesOf 2 (d.length + 1) d).bind fun l => l.mapM bedEntry

/-- Place of a bed in the module's plane. -/
def bedXY (b : Nat) : Nat × Nat := (b % 24 + 24 * (b / 576 % 2), b % 576 / 24 + 24 * (b / 1152))

/-- Two beds share an edge, across the aqueduct too (R374). -/
def bedsAdjacent (a b : Nat) : Bool :=
  let p := bedXY a
  let q := bedXY b
  (max p.1 q.1 - min p.1 q.1) + (max p.2 q.2 - min p.2 q.2) == 1

/-- Beds joined to those of `seen` by chains within the list. -/
def growBeds (all : List Nat) : Nat → List Nat → List Nat
  | 0, seen => seen
  | n + 1, seen =>
    let more := all.filter fun b => !seen.contains b && seen.any (bedsAdjacent b)
    if more.isEmpty then seen else growBeds all n (seen ++ more)

/-- The beds form one connected set, or none (R374). -/
def bedsConnected (l : List Nat) : Bool :=
  match l with
  | [] => true
  | b :: _ => let got := growBeds l l.length [b]; l.all got.contains

/-- The partition that holds a bed. -/
def bedOwner (s : State) (b : Nat) : Option (Fin 64) :=
  s.part.parts.findSome? fun e => match e.2 with
    | some r => if r.beds.contains b then some (Fin.ofNat 64 e.1 : Fin 64) else none
    | none => none

/-- Beds in increasing number, each once. -/
def sortBeds (l : List Nat) : List Nat := (List.range 2304).filter l.contains

/-- Clusters bound to a partition that are not dry. -/
def boundLive (s : State) (p : Fin 64) : Nat := ((partClusters s p).filter (clLive s)).length

/-- UNBIND of a BEDS command. -/
def bedsKind (raw : BitVec 512) : Bool := bit (cmdD raw 5) 0

/-- BEDS with D5[0] 0 (R363, R377): parked clusters take 60 µs to power up and 32 µs to zero. -/
def execBedsBind (k : CmdKey) (s : State) : Host.Outcome State Fault Refusal :=
  .next (runCmd k 0x0204 (fun r => !bedsKind r) (fun c s =>
    withPart c s fun p r =>
      match takeData s c 2 with
      | .inl st => complete k st [] s
      | .inr d => match bedEntries d with
        | none => complete k 0x03 [] s
        | some named =>
          let new := (named.filter fun b => !r.beds.contains b).eraseDups
          let beds := sortBeds (r.beds ++ new)
          if !bedsConnected beds then complete k 0x03 [] s
          else if new.any fun b => (bedOwner s b).isSome then complete k 0x07 [] s
          else if new.any fun b => (bedClusters b).all fun x => !clLive s x then complete k 0x09 [] s
          else
            let parked : Bool := (new.flatMap bedClusters).any fun x => clLive s x && sleepOf s x == .off
            let s := setPart p (some { r with beds := beds, state := .active }) (if parked then waitUntil s (s.t.now + usec 92) else s)
            let s := ((new.flatMap bedClusters).filter fun x => !isWellhead s x).foldl (bindCluster p) s
            complete k 0x00 (leBytes 4 (boundLive s p)) s) s)

/-- BEDS with D5[0] 1 (R363, R378). -/
def execBedsUnbind (k : CmdKey) (s : State) : Host.Outcome State Fault Refusal :=
  .next (runCmd k 0x0204 bedsKind (fun c s =>
    withPart c s fun p r =>
      match takeData s c 2 with
      | .inl st => complete k st [] s
      | .inr d => match bedEntries d with
        | none => complete k 0x03 [] s
        | some named =>
          let beds := r.beds.filter fun b => !named.contains b
          if !bedsConnected beds then complete k 0x03 [] s
          else if named.any fun b => !r.beds.contains b then complete k 0x04 [] s
          else
            let gone := (named.eraseDups.flatMap bedClusters).filter fun x => owner s x == some p
            let s := leaveClusters p gone s
            let s := match partOf s p with
              | some r => setPart p (some { r with beds := beds, state := if beds.isEmpty then .empty else .active }) s
              | none => s
            complete k 0x00 (leBytes 4 (boundLive s p)) s) s)

/-! ### Stack regions (R192, R363, R379) -/

/-- Parameters of SET_REGION. -/
def regIndex (raw : BitVec 512) : Fin 16 := Fin.ofNat 16 (cmdD raw 2)
def regValid (raw : BitVec 512) : Bool := bit (cmdD raw 2) 5
def regStart (raw : BitVec 512) : Nat := fld (cmdD raw 3) 0 12
def regPages (raw : BitVec 512) : Nat := fld (cmdD raw 3) 16 12
def regStacks (raw : BitVec 512) : List (Fin 48) :=
  (List.finRange 48).filter fun n => bit (cmdD raw 4 + cmdD raw 5 * 2 ^ 32) n.val

/-- Free pages of a stack, lowest first. -/
def freeStackPages (s : State) (n : Fin 48) : List Nat :=
  (List.range (stackPages s.boot.variant)).filter fun i =>
    let r := s.mem.pages.get {} (n.val * 64 + i)
    r.holder.isNone && !r.dry && !s.boot.retired.contains (n.val * 64 + i)

/-- Pages of a region. -/
def regionSize (r : StackRegion) : Nat := r.members.length * r.depth

/-- Two page ranges overlap. -/
def rangesMeet (a n b m : Nat) : Bool := decide (a < b + m) && decide (b < a + n)

/-- The physical pages of a region by key, with the partition page each backs: in linear mode its own, else
the first of its depth. -/
def regionPages (r : StackRegion) : List (Nat × Nat) :=
  (r.members.zip r.phys).zipIdx.flatMap fun e =>
    e.1.2.zipIdx.map fun q =>
      (e.1.1.val * 64 + q.1, if r.linear then r.start + e.2 * r.depth + q.2 else r.start + q.2 * r.members.length)

/-- SET_REGION with VALID 1 (R363, R379). -/
def execSetRegionBind (k : CmdKey) (s : State) : Host.Outcome State Fault Refusal :=
  .next (runCmd k 0x0206 regValid (fun c s =>
    withPart c s fun p r =>
      let i := regIndex c.raw
      let m := regStacks c.raw
      let n := regPages c.raw
      let a := regStart c.raw
      let others := r.regions.toList.filterMap id
      if n = 0 ∨ 3072 < n ∨ m.isEmpty ∨ n % m.length ≠ 0 ∨ 4096 < a + n then complete k 0x03 [] s
      else if m.any fun x => s.net.dry.stk.getLsbD x.val then complete k 0x03 [] s
      else if r.regions[i].isSome then complete k 0x04 [] s
      else if others.any fun o => rangesMeet a n o.start (regionSize o) then complete k 0x03 [] s
      else
        let depth := n / m.length
        let phys := m.map fun x => (freeStackPages s x).take depth
        if phys.any fun l => l.length < depth then complete k 0x07 [] s
        else
          let g : StackRegion := { start := a, linear := bit (cmdD c.raw 2) 4, members := m, depth := depth, phys := phys }
          let s := setPart p (some { r with regions := vset r.regions i (some g) }) s
          let s := rekeySet (some p) 0 ((regionPages g).map fun e => (e.1, some p, e.2)) s
          complete k 0x00 [] s) s)

/-- SET_REGION with VALID 0 (R363, R379). -/
def execSetRegionFree (k : CmdKey) (s : State) : Host.Outcome State Fault Refusal :=
  .next (runCmd k 0x0206 (fun r => !regValid r) (fun c s =>
    withPart c s fun p r =>
      let i := regIndex c.raw
      match r.regions[i] with
      | none => complete k 0x00 [] s
      | some g =>
        let s := setPart p (some { r with regions := vset r.regions i none }) s
        let s := freePages p ((regionPages g).map (·.1)) (fun n => decide (g.start ≤ n) && decide (n < g.start + regionSize g)) s
        complete k 0x00 [] s) s)

/-! ### Pumps, ports and timeouts (R238, R244, R380, R426) -/

/-- BIND_PUMP (R244, R363): the channel aborts, then changes its owner. -/
def execBindPump (k : CmdKey) (s : State) : Host.Outcome State Fault Refusal :=
  .next (runCmd k 0x0207 anyForm (fun c s =>
    let n := fld (cmdD c.raw 2) 0 6
    let ch : ChanId := .stack (Fin.ofNat 48 n) (Fin.ofNat 16 (fld (cmdD c.raw 2) 8 4))
    if 48 ≤ n then complete k 0x03 [] s
    else
      let s := abortChan ch true s
      complete k 0x00 [] (setChan ch { chanOf s ch with owner := cmdTarget s c } s)) s)

/-- BIND_PORT (R426). -/
def execBindPort (k : CmdKey) (s : State) : Host.Outcome State Fault Refusal :=
  .next (runCmd k 0x0208 anyForm (fun c s =>
    let port : Fin 16 := Fin.ofNat 16 (cmdD c.raw 2)
    let r := portRec s port
    match cmdTarget s c with
    | none => complete k 0x00 [] (setPort port { r with bound := none } s)
    | some p =>
      if portDry s port then complete k 0x09 [] s
      else if r.bound.isSome && r.bound != some p then complete k 0x04 [] s
      else complete k 0x00 [] (setPort port { r with bound := some p } s)) s)

/-- A timeout in its range, or 0. -/
def timeoutIn (lo hi v : Nat) : Bool := v == 0 || (decide (lo ≤ v) && decide (v ≤ hi))

/-- SET_TIMEOUTS (R238, R363). -/
def execSetTimeouts (k : CmdKey) (s : State) : Host.Outcome State Fault Refusal :=
  .next (runCmd k 0x0209 anyForm (fun c s =>
    withPart c s fun p r =>
      let m := cmdD c.raw 2
      let o := cmdD c.raw 3
      let h := cmdD c.raw 4
      if !timeoutIn 2 1000 m || !timeoutIn 100 100000 o || !timeoutIn 100 100000 h then complete k 0x03 [] s
      else
        let pick (v old : Nat) : Nat := if v = 0 then old else v
        complete k 0x00 [] (setPart p (some { r with mesh := pick m r.mesh, remote := pick o r.remote, host := pick h r.host }) s)) s)

/-! ### RESET (R183, R383, R386) -/

/-- Kind of a RESET. -/
def resetKind (raw : BitVec 512) : Nat := fld (cmdD raw 2) 0 2

/-- RESET kind 1, and kind 0, which it refuses (R363). -/
def execResetContext (k : CmdKey) (s : State) : Host.Outcome State Fault Refusal :=
  .next (runCmd k 0x020A (fun r => decide (resetKind r ≤ 1)) (fun c s =>
    withPart c s fun p _ =>
      let core := fld (cmdD c.raw 2) 8 5
      match cidOf (cmdD c.raw 3) with
      | none => complete k 0x03 [] s
      | some x =>
        if resetKind c.raw = 0 ∨ 24 ≤ core then complete k 0x03 [] s
        else if owner s x ≠ some p then complete k 0x04 [] s
        else complete k 0x00 [] (ctxReset ⟨x, Fin.ofNat 24 core, Fin.ofNat 4 (fld (cmdD c.raw 2) 13 2)⟩ s)) s)

/-- RESET kind 2 (R363). -/
def execResetClusterCompute (k : CmdKey) (s : State) : Host.Outcome State Fault Refusal :=
  .next (runCmd k 0x020A (fun r => resetKind r == 2) (fun c s =>
    withPart c s fun p _ =>
      match cidOf (cmdD c.raw 3) with
      | none => complete k 0x03 [] s
      | some x =>
        if 23 < fld (cmdD c.raw 2) 8 5 then complete k 0x03 [] s
        else if owner s x ≠ some p then complete k 0x04 [] s
        else complete k 0x00 [] (clusterReset x s)) s)

/-- RESET kind 3 (R363, R386); PARTITION_RESET_ZERO_DONE completes it. -/
def execResetPartitionCompute (k : CmdKey) (s : State) : Host.Outcome State Fault Refusal :=
  .next (runCmd k 0x020A (fun r => resetKind r == 3) (fun c s =>
    withPart c s fun p _ =>
      if 23 < fld (cmdD c.raw 2) 8 5 then complete k 0x03 [] s else startReset 3 false (markStarted c s) p) s)

/-! ### Barriers and fountains (R225, R264, R363) -/

/-- An entry of BARRIER_CREATE: its cluster and the member's settings; none where a field is out of range. -/
def barEntry (lead n : Nat) : Option (Cl × BarRec) :=
  match cidOf n with
  | none => none
  | some c =>
    if fld n 16 7 = 0 ∨ 96 < fld n 16 7 ∨ 23 < fld n 24 5 ∨ n / 2 ^ 34 ≠ 0 then none
    else some (c, { expected := fld n 16 7, stagger := bit n 23, core := fld n 24 5, obj := fld n 29 5, valid := true
                    lead := BitVec.ofNat 16 lead })

/-- The trees in use: barriers and fountains share the tables (R225). -/
def treesHeld (s : State) : List (Cl × List Cl) :=
  (s.sync.roots.filterMap fun e => e.2.map fun r => (r.root, r.members)) ++
  (s.net.fountains.filterMap fun e => e.2.map fun f => (f.root, f.members))

/-- Entries of a router's tree table (R225). -/
def treeTable : Nat := 128

/-- Some router on a new tree has no tree-table entry left (R225). -/
def treesFull (s : State) (root : Cl) (ms : List Cl) : Bool :=
  let held := treesHeld s
  decide (treeTable ≤ held.length) && (treeRouters s.net.cur s.net.routeEpoch root ms).any fun v =>
    decide (treeTable ≤ held.countP fun t => (treeEntry s.net.cur s.net.routeEpoch t.1 t.2 v).isSome)

/-- Atbin's choice of a root among the members (R264). -/
def chooseRoot (s : State) (key : Nat) (ms : List Cl) : Cl :=
  (ms[Config.treePort s.net.routeEpoch (2 ^ 21 + key) 0 % ms.length]?).getD (ms.headD ⟨0, 0, 0⟩)

/-- The partition holds hall bindings, so its barriers are hall barriers (R433). -/
def hallHeld (s : State) (p : Fin 64) : Bool :=
  match partOf s p with
  | some r => !r.hall.isEmpty
  | none => false

/-- BARRIER_CREATE (R264, R363). -/
def execBarrierCreate (k : CmdKey) (s : State) : Host.Outcome State Fault Refusal :=
  .next (runCmd k 0x020B anyForm (fun c s =>
    withPart c s fun p _ =>
      let b : Fin 32 := Fin.ofNat 32 (cmdD c.raw 2)
      let lead := fld (cmdD c.raw 2) 16 16
      match takeData s c 3 with
      | .inl st => complete k st [] s
      | .inr d => match (entriesOf 8 (d.length + 1) d).bind fun l => l.mapM (barEntry lead) with
        | none => complete k 0x03 [] s
        | some es =>
          let ms := es.map (·.1)
          if ms.eraseDups.length ≠ ms.length then complete k 0x03 [] s
          else if (rootOf s p b.val).isSome || ms.any fun x => owner s x != some p then complete k 0x04 [] s
          else
            let root := chooseRoot s (p.val * 32 + b.val) ms
            if treesFull s root ms then complete k 0x07 [] s
            else
              let s := es.foldl (fun s e => setBar e.1 b.val e.2 s) s
              complete k 0x00 [] (setRoot p b.val
                (some { root := root, members := ms, lead := lead, generation := 0, got := [], hall := hallHeld s p }) s)) s)

/-- BARRIER_DELETE (R363). -/
def execBarrierDelete (k : CmdKey) (s : State) : Host.Outcome State Fault Refusal :=
  .next (runCmd k 0x020C anyForm (fun c s =>
    withPart c s fun p _ =>
      let b : Fin 32 := Fin.ofNat 32 (cmdD c.raw 2)
      match rootOf s p b.val with
      | none => complete k 0x03 [] s
      | some r =>
        let keep (q : BarPkt) : Bool := match q with
          | .arrive a d _ _ => !(a == p && d == b)
          | .release a d _ _ _ _ => !(a == p && d == b)
        let s := r.members.foldl (fun s x => setBar x b.val {} s) s
        let s := { s with sync := { s.sync with pkts := s.sync.pkts.filter keep } }
        complete k 0x00 [] (setRoot p b.val none s)) s)

/-- FOUNTAIN_CREATE (R225, R363). -/
def execFountainCreate (k : CmdKey) (s : State) : Host.Outcome State Fault Refusal :=
  .next (runCmd k 0x020D anyForm (fun c s =>
    withPart c s fun p _ =>
      let key := p.val * 16 + cmdD c.raw 2 % 16
      match takeData s c 3 with
      | .inl st => complete k st [] s
      | .inr d => match (entriesOf 2 (d.length + 1) d).bind fun l => l.mapM cidOf with
        | none => complete k 0x03 [] s
        | some ms =>
          if ms.eraseDups.length ≠ ms.length then complete k 0x03 [] s
          else if (s.net.fountains.get none key).isSome || ms.any fun x => owner s x != some p then complete k 0x04 [] s
          else
            let root := chooseRoot s (2 ^ 12 + key) ms
            if treesFull s root ms then complete k 0x07 [] s
            else
              let f : Fountain := { root := root, members := ms }
              complete k 0x00 [] { s with net := { s.net with fountains := s.net.fountains.set none key (some f) } }) s)

/-- FOUNTAIN_DELETE (R363). -/
def execFountainDelete (k : CmdKey) (s : State) : Host.Outcome State Fault Refusal :=
  .next (runCmd k 0x020E anyForm (fun c s =>
    withPart c s fun p _ =>
      let key := p.val * 16 + cmdD c.raw 2 % 16
      if (s.net.fountains.get none key).isNone then complete k 0x03 [] s
      else complete k 0x00 [] { s with net := { s.net with fountains := s.net.fountains.set none key none } }) s)

/-! ### PART_QUERY (R389) -/

def PartState.code : PartState → Nat
  | .empty => 1 | .active => 2 | .rebinding => 3 | .resetting => 4 | .deleting => 5

/-- A bit map of `n` bits in bytes. -/
def bitMap (n : Nat) (f : Nat → Bool) : List Byte :=
  (List.range (n / 8)).map fun i => BitVec.ofNat 8 ((List.range 8).foldl (fun a j => a + b2n (f (8 * i + j)) * 2 ^ j) 0)

/-- The PART_QUERY buffer, 704 bytes. -/
def partQuery (s : State) (p : Fin 64) (r : PartRec) : List Byte :=
  let chans := (List.range 768).filter fun i => (chanOf s (.stack (Fin.ofNat 48 (i / 16)) (Fin.ofNat 16 i))).owner == some p
  let ports := (List.finRange 16).foldl (fun n q => n + b2n ((portRec s q).bound == some p) * 2 ^ q.val) 0
  let bars := (List.range 32).foldl (fun n b => n + b2n (rootOf s p b).isSome * 2 ^ b) 0
  let fnts := (List.range 16).foldl (fun n f => n + b2n (s.net.fountains.get none (p.val * 16 + f)).isSome * 2 ^ f) 0
  leBytes 4 (put p.val 0 8 + put r.port.val 8 1 + put r.vf.val 16 6 + put r.state.code 24 4) ++ leBytes 4 (boundLive s p) ++
  leBytes 2 r.beds.length ++ leBytes 2 (heldPages s p).length ++ leBytes 2 chans.length ++ leBytes 2 ports ++
  leBytes 4 r.mesh ++ leBytes 4 r.remote ++ leBytes 4 r.host ++ leBytes 4 bars ++
  leBytes 2 fnts ++ leBytes 2 r.hall.length ++ leBytes 4 0 ++ leBytes 8 r.lastReset.toNat ++ List.replicate 16 0 ++
  bitMap 2304 r.beds.contains ++ (r.regions.toList.flatMap fun g => leBytes 16 (regionEntry g)) ++ bitMap 768 chans.contains

/-- PART_QUERY (R363, R389). -/
def execPartQuery (k : CmdKey) (s : State) : Host.Outcome State Fault Refusal :=
  .next (runCmd k 0x020F anyForm (fun c s =>
    withPart c s fun p r => giveData c 2 (partQuery s p r) s) s)

end Sys2Proof.Machine
end

