-- ==== Sys2Proof/Machine/Images.lean ====
section
/-! DEFINITION. Image, memory and dump commands (spec/13_host_and_commands.md R364-R367,
03_spatial_array.md R93, 04_array_tiles.md R107, R121, R126, R132, 07_memory.md R195, R209, R210). -/

namespace Sys2Proof.Machine

open Sys2Proof

/-! ### The image container (R365, R366) -/

/-- One bit of a CRC-32C. -/
def crcBit (v : BitVec 32) : BitVec 32 := if v.getLsbD 0 then (v >>> 1) ^^^ 0x82F63B78#32 else v >>> 1

/-- One byte of a CRC-32C. -/
def crcByte (v : BitVec 32) (b : Byte) : BitVec 32 :=
  crcBit (crcBit (crcBit (crcBit (crcBit (crcBit (crcBit (crcBit (v ^^^ b.setWidth 32))))))))

/-- CRC-32C (PRESUMED: the Castagnoli polynomial, reflected, with both inversions). -/
def crc32c (d : List Byte) : BitVec 32 := ~~~ (d.foldl crcByte (0xFFFFFFFF : BitVec 32))

/-- A section entry. -/
structure Section where
  type : Nat
  slot : Fin 4
  load : Bool
  cset : Nat
  dest : Nat
  off : Nat
  size : Nat
  deriving DecidableEq, Repr

/-- The entry a 256-bit number spells. -/
def sectionOf (n : Nat) : Section :=
  { type := fld n 0 8, slot := Fin.ofNat 4 (fld n 8 2), load := bit n 10, cset := fld n 32 32, dest := fld n 64 64
    off := fld n 128 64, size := fld n 192 32 }

/-- The section is one that goes to cisterns. -/
def Section.spread (e : Section) : Bool := e.type == 2 || e.type == 3

/-- A section entry that LOAD_IMAGE takes (R366, R367). -/
def sectionOk (len n : Nat) : Bool :=
  let e := sectionOf n
  fld n 11 21 == 0 && fld n 224 32 == 0 && decide (1 ≤ e.type) && decide (e.type ≤ 5) && decide (e.off + e.size ≤ len) &&
    (if e.spread then
      (csetOf e.cset).isSome && decide (e.dest + e.size ≤ 2 ^ 22) && (e.type == 3 || e.size == 32768)
    else e.cset == 0 && decide (e.dest + e.size ≤ 2 ^ 42))

/-- The section table of an image; none where the header or an entry is refused (R365-R367). -/
def imageSections (d : List Byte) : Option (List Section) :=
  let h := leNat (d.take 64)
  let n := fld h 96 16
  let es := (List.range n).map fun i => leNat ((d.drop (64 + 32 * i)).take 32)
  let crc := crc32c (d.take 24 ++ ([0, 0, 0, 0] : List Byte) ++ d.drop 28)
  if d.length < 64 ∨ fld h 0 32 ≠ 0x49585253 ∨ fld h 32 16 ≠ 1 ∨ fld h 48 16 ≠ 1 ∨ fld h 64 16 ≠ 1 ∨ fld h 80 16 ≠ 1 then none
  else if n = 0 ∨ 4096 < n ∨ fld h 112 16 ≠ 0 ∨ fld h 128 64 ≠ d.length ∨ fld h 224 32 ≠ 0 ∨ fld h 336 176 ≠ 0 then none
  else if fld h 192 32 ≠ crc.toNat ∨ d.length < 64 + 32 * n ∨ !es.all (sectionOk d.length) then none
  else some (es.map sectionOf)

/-! ### LOAD_IMAGE (R367) -/

/-- A cluster's standing as a target of a section: 0x00, or why it fails. -/
def sectionTarget (p : Fin 64) (skip : Bool) (e : Section) (s : State) (x : Cl) : Byte :=
  if owner s x ≠ some p then 0x04
  else if !clLive s x then (if skip then 0x00 else 0x09)
  else if e.type = 2 ∧ e.load ∧ (arrOf s x).slots[e.slot] ≠ .free then 0x04
  else 0x00

/-- The first status of a list that is not OK. -/
def firstBad (l : List Byte) : Byte := (l.find? (· != 0x00)).getD 0x00

/-- Streams a section's bytes to a cluster's cistern; a status of before stops it. -/
def streamOne (p : Fin 64) (dest : Nat) (d : List Byte) (r : Byte × State) (x : Cl) : Byte × State :=
  if r.1 ≠ 0x00 then r
  else
    let w := memPutAll p (cut (clAddr 1 x dest).toNat d) 0 r.2
    (w.1, w.2.2)

/-- Loads an image that stands in a cluster's cistern (R78, R79, R367). -/
def loadOne (slot : Fin 4) (off : Nat) (r : Byte × State) (x : Cl) : Byte × State :=
  let s := r.2
  if r.1 ≠ 0x00 then r
  else if computeOff s x then (0x09, s)
  else if (arrOf s x).slots[slot] ≠ .free then (0x04, s)
  else if (arrOf s x).load.isSome then (0x01, s)
  else if off % 1024 ≠ 0 ∨ 0x3F8000 < off then (0x03, s)
  else
    let l := loadImage x off s
    let st := l.1
    let s := l.2
    let s := updArr x (fun a => { a with loadStatus := st }) s
    if st ≠ 0x00 then (st, s)
    else (0x00, (allTiles x).foldl (fun s t => setSlotRec t slot (imageRec s x off t.t) s)
      (updArr x (fun a => { a with slots := vset a.slots slot .loaded }) s))

/-- One section: its status and the state after it. -/
def putSection (p : Fin 64) (skip : Bool) (img : List Byte) (e : Section) (s : State) : Byte × State :=
  let d := (img.drop e.off).take e.size
  if e.spread then
    let xs := (csetOf e.cset).getD []
    let st := firstBad (xs.map (sectionTarget p skip e s))
    if st ≠ 0x00 then (st, s)
    else
      let live := xs.filter (clLive s)
      let r := live.foldl (streamOne p e.dest d) (0x00, s)
      if e.type = 2 ∧ e.load then live.foldl (loadOne e.slot e.dest) r else r
  else
    let w := memPutAll p (cut (0xFF * 2 ^ 56 + e.dest) d) 0 s
    (w.1, w.2.2)

/-- The sections in order: the status, how many are done, the state. -/
def putSections (p : Fin 64) (skip : Bool) (img : List Byte) : List Section → Nat → State → Byte × Nat × State
  | [], n, s => (0x00, n, s)
  | e :: r, n, s =>
    let w := putSection p skip img e s
    if w.1 ≠ 0x00 then (w.1, n, w.2) else putSections p skip img r (n + 1) w.2

/-- The instruction caches of a partition hold nothing (R182). -/
def flushCaches (p : Fin 64) (s : State) : State :=
  let g (k : Nat) (r : CoreRec) : CoreRec :=
    if (clOfKey (k / 32)).any fun c => owner s c == some p then { r with lines := [], badLines := [] } else r
  { s with core := { s.core with cores := mapVals {} g s.core.cores } }

/-- Loads the sections of an image in order (R364-R367). -/
def loadSections (k : CmdKey) (p : Fin 64) (skip : Bool) (d : List Byte) (es : List Section) (s : State) : State :=
  let w := putSections p skip d es 0 s
  let s := if (es.take w.2.1).any fun e => e.type == 1 then flushCaches p w.2.2 else w.2.2
  complete k w.1 (leBytes 4 w.2.1 ++ leBytes 4 (if w.1 = 0x00 then all32 else w.2.1)) s

/-- LOAD_IMAGE (R364-R367). -/
def execLoadImage (k : CmdKey) (s : State) : Host.Outcome State Fault Refusal :=
  .next (runCmd k 0x0301 anyForm (fun c s =>
    withPart c s fun p _ =>
      match takeData s c 2 with
      | .inl st => complete k st [] s
      | .inr d => match imageSections d with
        | none => complete k 0x03 [] s
        | some es => loadSections k p (bit (cmdD c.raw 5) 0) d es s) s)

/-- A register access of a command to one cluster: refused outside the reach, else as the register's own
chapter says. -/
def putReg (c : Cmd) (off : Nat) (v : Word) (r : List Byte × State) (x : Cl) : List Byte × State :=
  if !inReach r.2 c x then (r.1 ++ [0x04], r.2)
  else
    let s := writeReg (cmdWho r.2 c) x (clReg off) v (rouse x r.2)
    (r.1 ++ [s.ioReply], s)

/-- REG_WRITE (R364). -/
def execRegWrite (k : CmdKey) (s : State) : Host.Outcome State Fault Refusal :=
  .next (runCmd k 0x0302 anyForm (fun c s =>
    let off := cmdD c.raw 3
    match csetOf (cmdD c.raw 2) with
    | none => complete k 0x03 [] s
    | some xs =>
      if off % 8 ≠ 0 then complete k 0x03 [] s
      else
        let v := BitVec.ofNat 64 (cmdD c.raw 4 + cmdD c.raw 5 * 2 ^ 32)
        let w := xs.foldl (putReg c off v) ([], s)
        let bad := w.1.filter (· != 0x00)
        let worst := bad.foldl (fun (m : Byte) b => if m.toNat < b.toNat then b else m) 0x00
        let s := { w.2 with ioReply := s.ioReply }
        complete k worst (leBytes 4 (w.1.length - bad.length) ++ leBytes 4 0 ++ leBytes 2 bad.length ++ [worst]) s) s)

/-- A register of a cluster for a command: a write-only one reads a free value. -/
def getReg (c : Cmd) (x : Cl) (off : Nat) (s : State) : Byte × Word × State :=
  let r := readReg s (cmdWho s c) x (clReg off)
  match r.2 with
  | some v => (r.1, BitVec.ofNat 64 v, s)
  | none => let f := takeFree s; (r.1, f.1, f.2)

/-- REG_READ (R364). -/
def execRegRead (k : CmdKey) (s : State) : Host.Outcome State Fault Refusal :=
  .next (runCmd k 0x0303 anyForm (fun c s =>
    let off := cmdD c.raw 3
    match cidOf (cmdD c.raw 2) with
    | none => complete k 0x03 [] s
    | some x =>
      if off % 8 ≠ 0 then complete k 0x03 [] s
      else if !inReach s c x then complete k 0x04 [] s
      else
        let r := getReg c x off (rouse x s)
        if r.1 ≠ 0x00 then complete k r.1 [] r.2.2 else complete k 0x00 (leBytes 8 r.2.1.toNat) r.2.2) s)

/-! ### MEM_COPY (R364) -/

/-- MEM_COPY (R364): the first failing access stops it; bytes before it stand. -/
def execMemCopy (k : CmdKey) (s : State) : Host.Outcome State Fault Refusal :=
  .next (runCmd k 0x0401 anyForm (fun c s =>
    withPart c s fun p _ =>
      let host := bufAddr c 2
      let n := bufLen c 2
      let a := cmdD c.raw 5 + cmdD c.raw 6 * 2 ^ 32
      if n = 0 ∨ 2 ^ 24 < n ∨ fld a 56 8 ≠ 0xFF ∨ 3 < fld a 52 4 ∨ host % 64 ≠ 0 then complete k 0x03 [] s
      else
        let st := bufStatus s c host n
        if st ≠ 0x00 then complete k st (leBytes 4 0) s
        else if bit (cmdD c.raw 7) 0 then
          let w := memGetAll p (cut a (List.replicate n 0)) [] s
          complete k w.1 (leBytes 4 w.2.1.length) (hostWrite host w.2.1 w.2.2)
        else
          let w := memPutAll p (cut a (readBytes s.mem.host host n)) 0 s
          complete k w.1 (leBytes 4 w.2.1) w.2.2) s)

/-! ### WIPE and the HDM range (R195, R209, R210) -/

/-- Partition page `g` lies in the stack map. -/
def pageMapped (s : State) (p : Fin 64) (g : Nat) : Bool := (translate (stackMap s p) (g * 2 ^ 30)).isSome

/-- Physical pages that back partition pages `a` to `a + n - 1`, with the page each is listed under: an
interleaved region backs a page with one page of every member. -/
def wipedPages (s : State) (p : Fin 64) (a n : Nat) : List (Nat × Nat) :=
  (stackMap s p).flatMap fun r =>
    (regionPages r).filter fun e => rangesMeet e.2 (if r.linear then 1 else r.members.length) a n

/-- WIPE (R195, R364). -/
def execWipe (k : CmdKey) (s : State) : Host.Outcome State Fault Refusal :=
  .next (runCmd k 0x0402 anyForm (fun c s =>
    withPart c s fun p _ =>
      let a := cmdD c.raw 2
      let n := cmdD c.raw 3
      if n = 0 ∨ !(List.range n).all (fun i => pageMapped s p (a + i)) then complete k 0x03 [] s
      else complete k 0x00 [] (rekeySet (some p) 3 ((wipedPages s p a n).map fun e => (e.1, some p, e.2)) s)) s)

/-- Maps or unmaps a slice. -/
def setSlice (i : Nat) (v : Option (Fin 64 × Nat)) (s : State) : State :=
  { s with mem := { s.mem with slices := s.mem.slices.set none i v } }

/-- HDM_MAP (R210, R364). -/
def execHdmMap (k : CmdKey) (s : State) : Host.Outcome State Fault Refusal :=
  .next (runCmd k 0x0403 anyForm (fun c s =>
    withPart c s fun p _ =>
      let i := cmdD c.raw 2
      let g := cmdD c.raw 3
      if hdmGib s ≤ i ∨ !pageMapped s p g then complete k 0x03 [] s
      else complete k 0x00 [] (setSlice i (some (p, g)) s)) s)

/-- HDM_UNMAP (R210, R364). -/
def execHdmUnmap (k : CmdKey) (s : State) : Host.Outcome State Fault Refusal :=
  .next (runCmd k 0x0404 anyForm (fun c s => complete k 0x00 [] (setSlice (cmdD c.raw 2) none s)) s)

/-- A slice's word in MEM_INFO. -/
def sliceWord (o : Option (Fin 64 × Nat)) : Nat :=
  match o with
  | some (p, g) => put p.val 0 6 + put g 6 12 + 2 ^ 31
  | none => 0

/-- MEM_INFO (R364): the layout of the list of dry pages is open. -/
def execMemInfo (k : CmdKey) (s : State) : Host.Outcome State Fault Refusal :=
  .next (runCmd k 0x0405 anyForm (fun c s =>
    let t := cmdTarget s c
    let slices := if c.key.fn.vf.val = 0 then (List.range (hdmGib s)).flatMap fun i => leBytes 4 (sliceWord (s.mem.slices.get none i)) else []
    let dry := (s.mem.pages.filter fun e => e.2.dry && (t.isNone || e.2.holder == t)).map (·.1)
    giveData c 2 (leBytes 8 s.mem.hdmUnmapped.toNat ++ slices ++ Config.dryPageBytes dry) s) s)

/-! ### Dumps (R93, R280, R286, R364) -/

/-- SYNC_DUMP (R286, R364). -/
def execSyncDump (k : CmdKey) (s : State) : Host.Outcome State Fault Refusal :=
  .next (runCmd k 0x0501 anyForm (fun c s =>
    match csetOf (cmdD c.raw 2) with
    | none => complete k 0x03 [] s
    | some xs =>
      if !xs.all (inReach s c) then complete k 0x04 [] s
      else giveData c 3 (xs.flatMap (syncDump s)) s) s)

/-- The multiplier's stage (R107). -/
def mulStage (s : State) (t : TileId) : Nat :=
  let b := body (ctxOf s t)
  let r := mulOf s t
  if r.cur.isNone then 0
  else if r.drains.any fun d => d.m == r.row && r.pass == 0 then 2
  else if !mulHasA (fld b 0 5) r && (operand s t 1).isNone then 3
  else if r.pass == 0 && r.pos == 0 && fld b 40 2 == 1 && (operand s t 3).isNone then 3
  else 1

/-- KIND_STATE of a tile (R107, R121, R126, R132). -/
def kindState (s : State) (t : TileId) : Nat :=
  match tileKind t.t with
  | 1 =>
    let r := mulOf s t
    let rows := fld (body (ctxOf s t)) 16 4
    put r.row 0 7 + put r.pass 8 16 + put (mulStage s t) 24 2 +
    put (b2n (r.shadow.elems.length != 0 && r.shadow.elems.length == 2 * rows)) 26 1 +
    put (b2n (ramping s t r)) 27 1 + put r.drainRow 32 7 + put r.issues.toNat 64 48 + put r.satEvents.toNat 128 32
  | 2 =>
    let r := sfOf s t
    put r.elements.toNat 0 48 + put r.rowTokens.toNat 48 16 + put r.stat0.toNat 64 32 + put r.stat1.toNat 96 32 + put r.stat2.toNat 128 32 +
    put r.satEvents.toNat 160 32 + put r.nanMade.toNat 192 32
  | 3 =>
    let r := memTileOf s t
    put r.rd 0 12 + put r.wr 16 12 + put r.fill 32 13 + put r.reps 48 16 + put r.oor.toNat 64 32
  | 4 =>
    let r := ioOf s t
    let b := body (ctxOf s t)
    put r.inRow 0 16 + put r.inRep 16 16 + put r.outRow 32 16 + put r.outRep 48 16 + put r.lastStatus.toNat 64 8 +
    put (b2n (inDue b r && gateShut b r)) 72 1 + put (b2n r.creditWait.isSome) 73 1 +
    put (if inDue b r && gateShut b r then (gateNext b r).toNat else 0) 96 32 + put r.outstanding.length 128 32
  | _ => 0

/-- The 5 tag bits of a token (R68). -/
def tokenTag (k : Token) : Nat := b2n k.data + b2n k.last * 2 + b2n k.pred * 4 + k.epoch.toNat * 8

/-- An operation in flight, by kind: a multiplier's rows not yet drained; a special-function tile's statistics that are
due, or values that its CONVERT stage gathers into a block; an I/O tile's conversion of such values (R93; DEDUCED, log
entry 161). -/
def inFlight (s : State) (t : TileId) : Bool :=
  match tileKind t.t with
  | 1 => !(mulOf s t).aRow.isEmpty || !(mulOf s t).flying.isEmpty || !(mulOf s t).drains.isEmpty
  | 2 => (sfOf s t).due.isSome || !(sfOf s t).outVals.isEmpty
  | 4 => !(ioOf s t).outVals.isEmpty
  | _ => false

/-- OP_INDEX: a multiplier's and an I/O tile's operations and the mode stage of a special-function tile have index 0 (R93,
R107, R108, R132). -/
def opIndex (s : State) (t : TileId) : Nat := if inFlight s t then 0 else 0xFFFF

/-- A tile dump record, 64 bytes (R93). -/
def tileRecord (s : State) (t : TileId) : List Byte :=
  let r := tileOf s t
  let per (f : Fin 4 → Nat) (w : Nat) : Nat := f 0 + f 1 * 2 ^ w + f 2 * 2 ^ (2 * w) + f 3 * 2 ^ (3 * w)
  let head (d : Fin 4) : Option Token := (r.inq.get d).head?
  let markers := per (fun d => b2n ((head d).any fun k => !k.data)) 1
  let tags := per (fun d => match head d with | some k => tokenTag k | none => 0) 5
  leBytes 64 ((tileUnit t).toNat + put r.slot.val 32 2 + put r.epoch.toNat 34 2 + markers * 2 ^ 36 +
    per (fun d => (r.inq.get d).length) 4 * 2 ^ 40 + per (fun d => b2n (r.pass.get d).isSome) 1 * 2 ^ 56 +
    per (fun d => r.credits.get d) 4 * 2 ^ 60 + per (fun d => b2n (blockedOut s t d)) 1 * 2 ^ 76 + opIndex s t * 2 ^ 80 + tags * 2 ^ 96 +
    r.tokIn.toNat * 2 ^ 128 + r.tokOut.toNat * 2 ^ 192 + kindState s t * 2 ^ 256)

/-- ARRAY_DUMP (R93, R364). -/
def execArrayDump (k : CmdKey) (s : State) : Host.Outcome State Fault Refusal :=
  .next (runCmd k 0x0502 anyForm (fun c s =>
    match cidOf (cmdD c.raw 2) with
    | none => complete k 0x03 [] s
    | some x =>
      if !inReach s c x || (arrOf s x).state != .frozen then complete k 0x04 [] s
      else giveData c 3 (leBytes 8 (arrStatusWord (arrOf s x)) ++ (allTiles x).flatMap (tileRecord s)) s) s)

/-- The words of a cluster's registers at offsets, write-only ones free values. -/
def dumpRegs (c : Cmd) (x : Cl) : List Nat → List Byte → State → List Byte × State
  | [], l, s => (l, s)
  | o :: r, l, s =>
    let w := getReg c x o s
    dumpRegs c x r (l ++ leBytes 8 w.2.1.toNat) w.2.2

/-- CORE_DUMP (R176, R364): the 24 core control blocks. -/
def execCoreDump (k : CmdKey) (s : State) : Host.Outcome State Fault Refusal :=
  .next (runCmd k 0x0503 anyForm (fun c s =>
    match cidOf (cmdD c.raw 2) with
    | none => complete k 0x03 [] s
    | some x =>
      if !inReach s c x then complete k 0x04 [] s
      else
        let s := rouse x s
        let st := regPerm s (cmdWho s c) x
        if st ≠ 0x00 then complete k st [] s
        else
          let w := dumpRegs c x ((List.range 1536).map (8 * ·)) [] s
          giveData c 3 w.1 w.2) s)

/-- DEADLOCK_READ (R280, R364): a success releases the snapshot. -/
def execDeadlockRead (k : CmdKey) (s : State) : Host.Outcome State Fault Refusal :=
  .next (runCmd k 0x0504 anyForm (fun c s =>
    withPart c s fun p _ =>
      let d := s.sync.snapshots.get [] p.val
      if d.isEmpty then complete k 0x07 [] s
      else
        let good : Bool := bufAddr c 2 % 64 == 0 && decide (d.length ≤ bufLen c 2) && bufStatus s c (bufAddr c 2) d.length == 0x00
        let s := if good then { s with sync := { s.sync with snapshots := s.sync.snapshots.set [] p.val [] } } else s
        giveData c 2 d s) s)

end Sys2Proof.Machine
end

