-- ==== Sys2Proof/Machine/Manage.lean ====
section
/-! DEFINITION. Power, clock, fabric, firmware, numerics and diagnostics commands
(spec/13_host_and_commands.md R368 and the chapters it names). -/

namespace Sys2Proof.Machine

open Sys2Proof

/-! ### Power (R330, R343, R344) -/

/-- POWER_CONFIG (R343). -/
def powerConfigWord (p : Power) : Nat :=
  put p.cap 0 10 + put (b2n p.capInEn) 10 1 + put p.capFailsafe 16 10 + put (b2n p.park) 26 1 + put p.chassisCap 32 12

/-- CAP_IN is valid now (R321). -/
def capValid (p : Power) : Bool :=
  match p.capIn with
  | .valid => true
  | _ => false

/-- POWER_STATUS (R343). -/
def powerStatusWord (s : State) : Nat :=
  let p := s.pwr
  let hot := (List.finRange 192).foldl (fun (m : Int) f => max m (fieldRec s f).temp) (fieldRec s 0).temp
  put p.limit 0 12 + put p.limitSource 12 3 + put (b2n p.limiting) 15 1 + put p.ceiling 16 5 + put p.throttle 21 4 +
  put p.est 32 12 + put p.meas 48 12 + put p.feedA 64 12 + put p.feedB 76 12 + put p.capLevel 88 8 + put (b2n (capValid p)) 96 1 +
  put (ofInt 16 p.coolIn) 128 16 + put (ofInt 16 p.coolOut) 144 16 + put p.flow 160 16 + put (ofInt 16 hot) 176 16 + put p.share 192 12

/-- POWER_GET (R343). -/
def execPowerGet (k : CmdKey) (s : State) : Host.Outcome State Fault Refusal :=
  .next (runCmd k 0x0601 anyForm (fun c s => giveData c 2 (leBytes 8 (powerConfigWord s.pwr) ++ leBytes 32 (powerStatusWord s)) s) s)

/-- No chassis cap applies any more: every module of the ring drops its share (R326, R343). -/
def dropShares (s : State) : State :=
  if s.fab.role != .manager then s
  else
    let others := (ringModules s).filter fun m => some m ≠ s.fab.num
    let s := others.foldl (fun s m => controlOut m 0x7 (leBytes 2 0) s) s
    excessStep 0 { s with pwr := { s.pwr with share := 0, shares := [], waiting := [] } }

/-- A write of POWER_CONFIG: BAD_PARAM out of range, with nothing written. -/
def setPowerConfig (v : Nat) (s : State) : Byte × State :=
  let cap := fld v 0 10
  let safe := fld v 16 10
  let ch := fld v 32 12
  let ring := if s.fab.role = .manager then 200 * (ringModules s).length else 0
  if fld v 11 5 ≠ 0 ∨ fld v 27 5 ≠ 0 ∨ fld v 44 20 ≠ 0 then (0x03, s)
  else if cap < 200 ∨ 880 < cap ∨ safe < 200 ∨ 880 < safe then (0x03, s)
  else if ch ≠ 0 ∧ (ch < 200 ∨ 3520 < ch ∨ ch < ring) then (0x03, s)
  else
    let s := { s with pwr := { s.pwr with cap := cap, capInEn := bit v 10, capFailsafe := safe, park := bit v 26, chassisCap := ch } }
    (0x00, if ch = 0 then dropShares s else s)

/-- POWER_SET (R343). -/
def execPowerSet (k : CmdKey) (s : State) : Host.Outcome State Fault Refusal :=
  .next (runCmd k 0x0602 anyForm (fun c s =>
    let r := setPowerConfig (cmdD c.raw 2 + cmdD c.raw 3 * 2 ^ 32) s
    complete k r.1 [] r.2) s)

/-- PART_POWER_GET (R344). -/
def execPartPowerGet (k : CmdKey) (s : State) : Host.Outcome State Fault Refusal :=
  .next (runCmd k 0x0603 anyForm (fun c s =>
    withPart c s fun _ r =>
      complete k 0x00 (leBytes 8 (put r.defaultOp 0 5 + put r.maxOp 8 5 + put r.retMin 16 16 + put r.govHold 32 16)) s) s)

/-- PART_POWER_SET (R344). -/
def execPartPowerSet (k : CmdKey) (s : State) : Host.Outcome State Fault Refusal :=
  .next (runCmd k 0x0604 anyForm (fun c s =>
    withPart c s fun p r =>
      let v := cmdD c.raw 2 + cmdD c.raw 3 * 2 ^ 32
      let d := fld v 0 5
      let m := fld v 8 5
      if fld v 5 3 ≠ 0 ∨ fld v 13 3 ≠ 0 ∨ fld v 48 16 ≠ 0 then complete k 0x03 [] s
      else if d < 4 ∨ 16 < d ∨ m < 4 ∨ 16 < m ∨ m < d ∨ fld v 16 16 < 2 ∨ fld v 32 16 < 1 then complete k 0x03 [] s
      else complete k 0x00 [] (setPart p (some { r with defaultOp := d, maxOp := m, retMin := fld v 16 16, govHold := fld v 32 16 }) s)) s)

/-- An energy record, kept in nJ and read in µJ (R330). -/
def energyBytes (e : Energy) : List Byte :=
  leBytes 8 (e.compute / 1000) ++ leBytes 8 (e.memory / 1000) ++ leBytes 8 (e.link / 1000) ++ leBytes 8 (e.shared / 1000) ++
  leBytes 8 (e.compute / 1000 + e.memory / 1000 + e.link / 1000 + e.shared / 1000) ++ leBytes 8 e.tide.toNat

/-- ENERGY_READ (R330). -/
def execEnergyRead (k : CmdKey) (s : State) : Host.Outcome State Fault Refusal :=
  .next (runCmd k 0x0605 anyForm (fun c s =>
    giveData c 2 (energyBytes (match cmdTarget s c with | some p => energyOf s p | none => s.pwr.overhead)) s) s)

/-! ### Clocks (R289, R301, R309) -/

/-- Codes of the roles in CLOCK_STATUS (R309, R430). -/
def Role.code : Role → Nat
  | .standalone => 0 | .manager => 1 | .worker => 2 | .standby => 2

/-- CLOCK_STATUS (R309). -/
def clockStatusWord (s : State) : Nat :=
  let t := s.t
  let synced : Bool := t.synced && decide (t.now ≤ t.syncAt + usec 2000000)
  put t.source.val 0 1 + put (b2n t.coast) 1 1 + put (b2n t.valid[0]) 2 1 + put (b2n t.valid[1]) 3 1 + put (b2n (t.spring != .settled)) 4 1 +
  put (if t.foreOn then 2 else if t.islands.isEmpty then 0 else 1) 5 2 + put (islandFields s).length 8 8 + put (Role.code s.fab.role) 16 2 +
  put (if isManager s then t.discipline.toNat else 3) 18 2 + put (b2n synced) 20 1 + put (b2n t.holdover) 21 1 +
  put t.lastRelock.toNat 32 32 + put (moduleTide s).toNat 64 64 + put t.origin.toNat 128 64 + put (ofInt 32 t.offset) 192 32 +
  put t.rebases.toNat 224 32

/-- CLOCK_GET (R309). -/
def execClockGet (k : CmdKey) (s : State) : Host.Outcome State Fault Refusal :=
  .next (runCmd k 0x0701 anyForm (fun c s =>
    let t := s.t
    let cfg := put t.preferred.val 0 1 + put (b2n t.autoSwitch) 1 1 + put t.discipline.toNat 2 2 + put (b2n t.forerunner) 4 1
    giveData c 2 (leBytes 8 cfg ++ leBytes 32 (clockStatusWord s)) s) s)

/-- CLOCK_SET (R309): AUTO_SWITCH acts at once; without a source the tide is in holdover (R289). -/
def execClockSet (k : CmdKey) (s : State) : Host.Outcome State Fault Refusal :=
  .next (runCmd k 0x0702 anyForm (fun c s =>
    let v := cmdD c.raw 2
    if fld v 5 27 ≠ 0 ∨ cmdD c.raw 3 ≠ 0 ∨ fld v 2 2 = 3 then complete k 0x03 [] s
    else
      let d := BitVec.ofNat 2 (fld v 2 2)
      let s := { s with t := { s.t with
        preferred := Fin.ofNat 2 v, autoSwitch := bit v 1, discipline := d, forerunner := bit v 4
        holdover := if isManager s && d == 0 then true else s.t.holdover } }
      complete k 0x00 [] (autoSwitch s)) s)

/-- SPRING_SWITCH (R301): it completes at the end of the relock. -/
def execSpringSwitch (k : CmdKey) (s : State) : Host.Outcome State Fault Refusal :=
  .next (runCmd k 0x0703 anyForm (fun c s =>
    let dst := Fin.ofNat 2 (cmdD c.raw 2)
    if !s.t.valid[dst] then complete k 0x04 [] s
    else if dst == s.t.source && s.t.spring == .settled && !s.t.coast then complete k 0x00 [] s
    else if s.t.spring != .settled then complete k 0x01 [] s
    else requestSwitch dst (markStarted c s)) s)

/-- SET_SECONDS (R289, R368). -/
def execSetSeconds (k : CmdKey) (s : State) : Host.Outcome State Fault Refusal :=
  .next (runCmd k 0x0704 anyForm (fun c s =>
    if !isManager s || s.t.discipline != 2 then complete k 0x04 [] s
    else complete k 0x00 [] { s with t := { s.t with seconds := some (BitVec.ofNat 64 (cmdD c.raw 2 + cmdD c.raw 3 * 2 ^ 32)) } }) s)

/-! ### Ocsal ports and role (R413-R415, R425, R430) -/

def PortState.code : PortState → Nat
  | .dark => 0 | .training => 1 | .securing => 2 | .up => 3 | .retraining => 4 | .failed => 5

/-- The port's bypass pair is closed; no for a switch port. -/
def bypassClosed (s : State) (p : Fin 16) : Bool :=
  match pairOf p with
  | some k => s.fab.closed[k]
  | none => false

/-- An Ocsal port record (R415). -/
def portWord (s : State) (p : Fin 16) : Nat :=
  let r := portRec s p
  let lanes := if r.state = .securing ∨ r.state = .up ∨ r.state = .retraining then portLanes r else 0
  put (PortState.code r.state) 0 3 + put (b2n r.enabled) 3 1 + put (b2n (portDry s p)) 4 1 + put (b2n (bypassClosed s p)) 5 1 +
  put lanes 8 4 + put (b2n r.spare) 12 1 + put r.peer.toNat 16 8 + put r.peerPort.val 24 4 + put (b2n r.rev1) 28 1 +
  put (match r.bound with | some q => q.val | none => 0) 32 6 + put (b2n r.bound.isSome) 38 1 + put r.lastStatus.toNat 40 8 +
  put r.rtt 64 32 + put r.sent.toNat 128 64 + put r.received.toNat 192 64 + put r.fec.toNat 256 64 + put r.retries.toNat 320 64 +
  put r.tags.toNat 384 64 + put r.dropped.toNat 448 64

/-- OCSAL_STATUS (R415). -/
def execOcsalStatus (k : CmdKey) (s : State) : Host.Outcome State Fault Refusal :=
  .next (runCmd k 0x0801 anyForm (fun c s => giveData c 2 ((List.finRange 16).flatMap fun p => leBytes 64 (portWord s p)) s) s)

/-- A port goes to step 1 of R413. -/
def beginTraining (p : Fin 16) (s : State) : State :=
  setPort p { portRec s p with state := .training, since := s.t.now, noPeerPosted := false, bad := [], spareFor := none, spareAt := none, spare := false } s

/-- A port that may run trains; a ring port only with its mate, whose pair then opens (R413, R417). -/
def startPort (p : Fin 16) (s : State) : State :=
  match pairOf p with
  | none => beginTraining p s
  | some k =>
    let m := mateOf p
    let r := portRec s m
    if r.enabled && !portDry s m && r.state != .failed then
      let s := if r.state.on then s else beginTraining m s
      bypassTo k false (beginTraining p s)
    else setPort p { portRec s p with state := .dark } s

/-- Port and operation of an OCSAL_PORT. -/
def portParam (c : Cmd) : Fin 16 := Fin.ofNat 16 (cmdD c.raw 2)
def portOp (raw : BitVec 512) : Nat := fld (cmdD raw 2) 8 2

/-- OCSAL_PORT enable (R413, R417, R474). -/
def execOcsalPortEnable (k : CmdKey) (s : State) : Host.Outcome State Fault Refusal :=
  .next (runCmd k 0x0802 (fun r => portOp r == 1) (fun c s =>
    let p := portParam c
    let r := portRec s p
    if portDry s p then complete k 0x09 [] s
    else if (pairOf p).isSome && decide (4 ≤ s.pwr.slotId.val) then complete k 0x04 [] s
    else
      let s := setPort p { r with enabled := true } s
      complete k 0x00 [] (if r.state.on then s else startPort p s)) s)

/-- OCSAL_PORT disable (R414); the reserved operation 3 is refused. -/
def execOcsalPortDisable (k : CmdKey) (s : State) : Host.Outcome State Fault Refusal :=
  .next (runCmd k 0x0802 (fun r => portOp r == 0 || portOp r == 3) (fun c s =>
    let p := portParam c
    let r := portRec s p
    if portOp c.raw = 3 then complete k 0x03 [] s
    else if portDry s p then complete k 0x09 [] s
    else
      let s := setPort p { r with enabled := false } s
      let s := if r.state.on && r.acked != r.txSeq then waitUntil s (s.t.now + usec 100) else s
      complete k 0x00 [] (portDark p 2 s)) s)

/-- OCSAL_PORT retrain (R414): an UP port retrains, a FAILED one goes back to training. -/
def execOcsalPortRetrain (k : CmdKey) (s : State) : Host.Outcome State Fault Refusal :=
  .next (runCmd k 0x0802 (fun r => portOp r == 2) (fun c s =>
    let p := portParam c
    let r := portRec s p
    if portDry s p then complete k 0x09 [] s
    else complete k 0x00 [] (if r.state = .up then toRetrain p s else if r.state = .failed then startPort p s else s)) s)

/-- Some partition holds a hall binding. -/
def anyHall (s : State) : Bool := s.part.parts.any fun e => e.2.any fun r => !r.hall.isEmpty

/-- Role of an OCSAL_ROLE. -/
def roleOf : Nat → Role
  | 0 => .standalone
  | 1 => .manager
  | 2 => .worker
  | _ => .standby

/-- JOIN goes out on the first UP port (R431). -/
def sendJoin (s : State) : State :=
  match (List.finRange 16).find? fun p => (portRec s p).state == .up with
  | none => s
  | some p =>
    { s with
      fab := { s.fab with joining := true }
      out := s.out ++ [.control p 0xFF 0x4 (leBytes 16 s.boot.serial.toNat ++ leBytes 1 (if s.fab.role = .standby then 3 else 2))] }

/-- The module begins to serve as manager: it takes 0x00 the first time (R421). -/
def serveManager (s : State) : State :=
  let n := s.fab.num.getD 0x00
  let rec_ := if s.fab.record.any fun e => e.1 == s.boot.serial then s.fab.record else s.fab.record ++ [(s.boot.serial, n)]
  let mask := s.fab.record.foldl (fun (m : BitVec 256) e => m ||| ((1 : BitVec 256) <<< e.2.toNat)) (s.fab.mask ||| ((1 : BitVec 256) <<< n.toNat))
  { s with fab := { s.fab with num := some n, manager := n, record := rec_, mask := mask, joining := false } }

/-- OCSAL_ROLE (R430, R431). -/
def execOcsalRole (k : CmdKey) (s : State) : Host.Outcome State Fault Refusal :=
  .next (runCmd k 0x0803 anyForm (fun c s =>
    let r := roleOf (fld (cmdD c.raw 2) 0 2)
    if anyHall s then complete k 0x04 [] s
    else if s.fab.poll.isSome then complete k 0x01 [] s
    else if r = s.fab.role then complete k 0x00 [] s
    else
      let s := { s with fab := { s.fab with role := r, upstream := none } }
      let s := match r with
        | .standalone =>
          { s with fab := { s.fab with num := none, manager := 0xFF, standby := 0xFF, mask := 0, joining := false }
                   pwr := { s.pwr with share := 0, shares := [], waiting := [], excess := 0 } }
        | .manager =>
          let s := serveManager s
          if s.pwr.chassisCap = 0 then { s with pwr := { s.pwr with share := 0 } } else s
        | _ => if s.fab.num.isNone || s.fab.manager == 0xFF then sendJoin s else s
      complete k 0x00 [] s) s)

/-- A partition's barriers join, or leave, the hall (R433). -/
def markHall (p : Fin 64) (s : State) : State :=
  let h := hallHeld s p
  let g (k : Nat) (o : Option BarRoot) : Option BarRoot := if k / 32 = p.val then o.map fun r => { r with hall := h } else o
  { s with sync := { s.sync with roots := mapVals none g s.sync.roots } }

/-- Remote module and partition of a HALL_BIND. -/
def hallParam (c : Cmd) : BitVec 8 × Fin 64 := (BitVec.ofNat 8 (fld (cmdD c.raw 2) 0 8), Fin.ofNat 64 (fld (cmdD c.raw 2) 8 6))

/-- D3[0] of a HALL_BIND. -/
def hallUndo (raw : BitVec 512) : Bool := bit (cmdD raw 3) 0

/-- HALL_BIND with D3[0] 0 (R425). -/
def execHallBind (k : CmdKey) (s : State) : Host.Outcome State Fault Refusal :=
  .next (runCmd k 0x0804 (fun r => !hallUndo r) (fun c s =>
    withPart c s fun p r =>
      let h := hallParam c
      let all : Nat := (s.part.parts.map fun e => (match e.2 with | some q => q.hall.length | none => 0)).sum
      if h.1 = 0xFF then complete k 0x03 [] s
      else if s.fab.num.isNone then complete k 0x04 [] s
      else if some h.1 = s.fab.num ∨ !moduleAssigned s h.1 then complete k 0x03 [] s
      else if r.hall.contains h then complete k 0x00 [] s
      else if r.hall.any fun e => e.1 == h.1 then complete k 0x04 [] s
      else if 64 ≤ r.hall.length ∨ 1024 ≤ all then complete k 0x07 [] s
      else complete k 0x00 [] (markHall p (setPart p (some { r with hall := r.hall ++ [h] }) s))) s)

/-- HALL_BIND with D3[0] 1 (R425). -/
def execHallUnbind (k : CmdKey) (s : State) : Host.Outcome State Fault Refusal :=
  .next (runCmd k 0x0804 hallUndo (fun c s =>
    withPart c s fun p r =>
      let h := hallParam c
      complete k 0x00 [] (markHall p (setPart p (some { r with hall := r.hall.filter (· != h) }) s))) s)

/-! ### Firmware and life-cycle (R446-R453) -/

/-- FW_WRITE (R447). -/
def execFwWrite (k : CmdKey) (s : State) : Host.Outcome State Fault Refusal :=
  .next (runCmd k 0x0901 anyForm (fun c s =>
    let off := cmdD c.raw 5
    if off % 4096 ≠ 0 ∨ 2 ^ 20 < bufLen c 2 ∨ 2 ^ 28 < off + bufLen c 2 then complete k 0x03 [] s
    else match takeData s c 2 with
      | .inl st => complete k st [] s
      | .inr d =>
        let i := otherSlot s.boot.slot
        let b := s.boot
        let select := if b.slots[i] = .committed then b.slot else b.select
        complete k 0x00 [] { s with boot := { b with
          select := select, slots := vset b.slots i .written, factory := vset b.factory i false
          flash := vset b.flash i (writeBytes b.flash[i] off d) } }) s)

/-- FW_COMMIT (R447). -/
def execFwCommit (k : CmdKey) (s : State) : Host.Outcome State Fault Refusal :=
  .next (runCmd k 0x0902 anyForm (fun _ s =>
    let i := otherSlot s.boot.slot
    let v := s.boot.slots[i]
    if v ≠ .written ∧ v ≠ .committed then complete k 0x04 [] s
    else if slotPasses s i then complete k 0x00 [] (setSlot i .committed { s with boot := { s.boot with select := i } })
    else complete k 0x08 [] (setSlot i .written { s with boot := { s.boot with select := s.boot.slot } })) s)

def SlotFw.code : SlotFw → Nat
  | .empty => 0 | .written => 1 | .committed => 2 | .active => 3 | .rejected => 4

/-- FW_STATUS (R446). -/
def execFwStatus (k : CmdKey) (s : State) : Host.Outcome State Fault Refusal :=
  .next (runCmd k 0x0903 anyForm (fun _ s =>
    complete k 0x00 (leBytes 4 s.boot.slot.val ++ leBytes 4 (slotVersion s 0).toNat ++ leBytes 4 (slotVersion s 1).toNat ++
      leBytes 4 (SlotFw.code s.boot.slots[1])) s) s)

def LcState.code : LcState → Nat
  | .blank => 0 | .provisioned => 1 | .deployed => 2 | .debug => 3 | .returned => 4

/-- The life-cycle state of a code. -/
def lcOf (n : Nat) : Option LcState :=
  match n with
  | 0 => some .blank | 1 => some .provisioned | 2 => some .deployed | 3 => some .debug | 4 => some .returned
  | _ => none

/-- A transition of R450. -/
def lcAllowed (a b : LcState) : Bool :=
  match a, b with
  | .blank, .provisioned => true
  | .provisioned, .deployed => true
  | .deployed, .debug => true
  | .debug, .deployed => true
  | .returned, _ => false
  | _, .returned => true
  | _, _ => false

/-- The signer is one that R450 allows for the transition. -/
def lcSigner (b : Boot) (target : LcState) (key : BitVec 384) : Bool :=
  let owner : Bool := b.lc != .blank && key == b.owner
  match target with
  | .provisioned => key == b.provHash
  | .returned => owner || key == b.retHash
  | _ => owner

/-- The status of a token for a target code, and the transition where it passes (R451, R452). -/
def lcCheck (s : State) (target : Nat) (d : List Byte) : Byte × LcState :=
  let n (off len : Nat) : Nat := leNat ((d.drop off).take len)
  let b := s.boot
  let key := (d.drop 0x100).take 97
  match lcOf target with
  | none => (0x04, b.lc)
  | some t =>
    if !lcAllowed b.lc t || n 6 1 != target || n 7 1 != LcState.code b.lc then (0x04, b.lc)
    else if n 0 4 ≠ 0x4B54434C ∨ n 4 2 ≠ 1 ∨ n 8 16 ≠ b.serial.toNat ∨ n 0x18 4 ≠ b.count.toNat then (0x08, b.lc)
    else if !lcSigner b t (Config.sha384 key) ||
        !Config.verify (pointOf key) (d.take 0x180) (signatureOf ((d.drop 0x180).take 96)) then (0x08, b.lc)
    else if (t ≠ .debug ∧ n 0x1C 4 ≠ 0) ∨ 16 ≤ n 0x1C 4 then (0x03, b.lc)
    else if n 0x50 176 ≠ 0 ∨ n 0x161 31 ≠ 0 ∨ n 0x1E0 32 ≠ 0 then (0x03, b.lc)
    else (0x00, t)

/-- LC_TRANSITION (R452): the completion is written, then a cold bring-up starts with the wipe pending. -/
def execLcTransition (k : CmdKey) (s : State) : Host.Outcome State Fault Refusal :=
  .next (runCmd k 0x0904 anyForm (fun c s =>
    if bufLen c 2 ≠ 512 then complete k 0x03 [] s
    else match takeData s c 2 with
      | .inl st => complete k st [] s
      | .inr d =>
        let r := lcCheck s (fld (cmdD c.raw 5) 0 3) d
        if r.1 ≠ 0x00 then complete k r.1 [] s
        else
          let s := complete k 0x00 [] s
          let owner := digestOf ((d.drop 0x20).take 48)
          let scope := BitVec.ofNat 32 (leNat ((d.drop 0x1C).take 4))
          startCold { s with boot := { s.boot with wipe := some (r.2, owner, scope) } }) s)

/-- LC_STATUS (R368). -/
def execLcStatus (k : CmdKey) (s : State) : Host.Outcome State Fault Refusal :=
  .next (runCmd k 0x0905 anyForm (fun _ s =>
    complete k 0x00 ([BitVec.ofNat 8 (LcState.code s.boot.lc), BitVec.ofNat 8 (b2n s.boot.wipe.isSome)] : List Byte) s) s)

/-! ### Numerics (R59, R134-R136, R156) -/

/-- Words of a numerics block at offsets; write-only ones free values. -/
def numWords (b : NumBlock) : List Nat → List Byte → State → List Byte × State
  | [], l, s => (l, s)
  | o :: r, l, s =>
    match numWord b o with
    | some v => numWords b r (l ++ leBytes 8 v) s
    | none => let f := takeFree s; numWords b r (l ++ leBytes 8 f.1.toNat) f.2

/-- NUM_GET (R134). -/
def execNumGet (k : CmdKey) (s : State) : Host.Outcome State Fault Refusal :=
  .next (runCmd k 0x0A01 anyForm (fun c s =>
    let s := reportsDue s
    withPart c s fun p _ =>
      let w := numWords (numBlock s p) ((List.range 96).map (8 * ·)) [] s
      giveData c 2 w.1 w.2) s)

/-- NUM_SET (R135, R136, R156): a SEED_BASE written counts while SEED_MODE is 1. -/
def execNumSet (k : CmdKey) (s : State) : Host.Outcome State Fault Refusal :=
  .next (runCmd k 0x0A02 anyForm (fun c s =>
    withPart c s fun p _ =>
      let d := cmdD c.raw 2
      let v := cmdD c.raw 4 + cmdD c.raw 5 * 2 ^ 32
      if fld v 6 58 ≠ 0 then complete k 0x03 [] s
      else
        let b := numBlock s p
        let b := if bit d 0 then { b with nanTrap := bit v 0, repeatMax := Fin.ofNat 8 (fld v 1 3), seedMode := bit v 4, coreSentinel := bit v 5 } else b
        let b := if bit d 1 then { b with seedSet := some (BitVec.ofNat 64 (cmdD c.raw 6 + cmdD c.raw 7 * 2 ^ 32)) } else b
        let b := if bit d 2 then { b with underflowStep := BitVec.ofNat 64 (cmdD c.raw 8 + cmdD c.raw 9 * 2 ^ 32) } else b
        let b := if b.seedMode then { b with seedBase := b.seedSet.getD b.seedBase } else b
        complete k 0x00 [] (setNum p b s)) s)

/-- NAN_CLEAR (R59). -/
def execNanClear (k : CmdKey) (s : State) : Host.Outcome State Fault Refusal :=
  .next (runCmd k 0x0A03 anyForm (fun c s =>
    withPart c s fun p _ =>
      let b := numBlock s p
      complete k 0x00 [] (setNum p { b with nan := { b.nan with valid := false } } s)) s)

/-! ### Diagnostics (R201, R231, R241, R345, R482) -/

/-- CLUSTER of a cluster in the dry map; the wellhead reads COMPUTE_DRY. -/
def mapCode (s : State) (c : Cl) : Nat :=
  let v := s.net.published.clusters.get 0 (ck c)
  if v = 0 ∧ s.net.published.wells.contains (ck c) then 1 else v.val

/-- Four cluster codes of a byte of the dry map. -/
def mapByte (s : State) (w : Fin 4) (i : Nat) : Byte :=
  let code (j : Nat) : Nat := mapCode s ⟨w, Fin.ofNat 96 (j % 96), Fin.ofNat 96 (j / 96)⟩
  BitVec.ofNat 8 (code (4 * i) + code (4 * i + 1) * 4 + code (4 * i + 2) * 16 + code (4 * i + 3) * 64)

/-- Bits of a list of flags as a number. -/
def flags (n : Nat) (f : Nat → Bool) : Nat := (List.range n).foldl (fun a i => a + b2n (f i) * 2 ^ i) 0

/-- The dry map (R231). -/
def dryMapBytes (s : State) : List Byte :=
  let d := s.net.published
  let ex := exceptions s
  let lanes (k : Nat) : List Byte := leBytes 32 (flags 204 fun l => d.lanes.get false (k * 256 + l))
  let record (c : Cl) : List Byte :=
    leBytes 16 (ck c + flags 24 (fun k => d.cores.get false (ok c k)) * 2 ^ 16 + flags 32 (fun t => d.tiles.get false (ck c * 32 + t)) * 2 ^ 40)
  leBytes 2 1 ++ leBytes 2 s.net.routeEpoch ++ leBytes 4 ex.length ++ leBytes 8 s.net.epochTide.toNat ++
  words4 ((List.finRange 4).map fun w => liveCount s d w) ++ leBytes 8 (d.ocsal.toNat + d.cxl.toNat * 2 ^ 16) ++ leBytes 8 d.stk.toNat ++
  List.replicate 24 0 ++ ((List.finRange 4).flatMap fun w => (List.range 2304).map (mapByte s w)) ++
  ((List.range 8).flatMap lanes) ++ ex.flatMap record

/-- DRY_MAP_READ (R231). -/
def execDryMapRead (k : CmdKey) (s : State) : Host.Outcome State Fault Refusal :=
  .next (runCmd k 0x0B01 anyForm (fun c s => giveData c 2 (dryMapBytes s) s) s)

/-- What FENCE_UNIT can name. -/
inductive FenceTarget where
  | core (c : Cl) (k : Fin 24)
  | tile (t : TileId)
  | cluster (c : Cl)
  | stack (n : Fin 48)
  | lane (w : Fin 4) (x : Fin 2) (l : Fin 204)
  | port (p : Fin 16)
  deriving DecidableEq, Repr

/-- The unit an identifier of kind 0, 1, 2, 5, 6 or 7 names (R7, R20). -/
def fenceTarget (n : Nat) : Option FenceTarget :=
  let w := Fin.ofNat 4 (fld n 26 2)
  let y := fld n 19 7
  let x := fld n 12 7
  let sub := fld n 0 12
  let c : Cl := ⟨w, Fin.ofNat 96 x, Fin.ofNat 96 y⟩
  let at_ : Bool := decide (x < 96) && decide (y < 96)
  match fld n 28 4 with
  | 0 => if at_ ∧ sub < 24 then some (.core c (Fin.ofNat 24 sub)) else none
  | 1 => if at_ ∧ sub < 32 then some (.tile ⟨c, Fin.ofNat 32 sub⟩) else none
  | 2 => if at_ ∧ sub = 0 then some (.cluster c) else none
  | 5 => if x = 0 ∧ y = 0 ∧ sub < 12 then some (.stack (Fin.ofNat 48 (12 * w.val + sub))) else none
  | 6 =>
    let a := Fin.ofNat 2 (sub / 256)
    if sub < 512 ∧ sub % 256 < 204 ∧ (laneUnit w a (sub % 256)).toNat = n then some (.lane w a (Fin.ofNat 204 (sub % 256))) else none
  | 7 => if w = 0 ∧ x = 0 ∧ y = 0 ∧ sub < 16 then some (.port (Fin.ofNat 16 sub)) else none
  | _ => none

/-- FENCE_UNIT (R482): a unit already dry takes no further effect. -/
def execFenceUnit (k : CmdKey) (s : State) : Host.Outcome State Fault Refusal :=
  .next (runCmd k 0x0B02 anyForm (fun c s =>
    match fenceTarget (cmdD c.raw 2) with
    | none => complete k 0x03 [] s
    | some (.core x i) => if isWellhead s x then complete k 0x04 [] s else complete k 0x00 [] (fenceCore x i 2 s)
    | some (.tile t) => if isWellhead s t.c then complete k 0x04 [] s else complete k 0x00 [] (fenceTile t 2 s)
    | some (.cluster x) => if isWellhead s x then complete k 0x04 [] s else complete k 0x00 [] (fenceCluster x 2 s)
    | some (.stack n) => complete k 0x00 [] (fenceStack n 2 s)
    | some (.lane w x l) => complete k 0x00 [] (laneFail w x l.val 2 2 s)
    | some (.port p) => complete k 0x00 [] (fencePort p 2 s)) s)

/-- A router's counters in the order of R241. -/
def counterBytes (r : RouterCtr) : List Byte :=
  [r.discarded, r.flitErrors, r.laneRetries, r.staleAnswered, r.lateReplies, r.pendingSent].flatMap fun v => leBytes 8 v.toNat

/-- ROUTER_COUNTERS (R241). -/
def execRouterCounters (k : CmdKey) (s : State) : Host.Outcome State Fault Refusal :=
  .next (runCmd k 0x0B03 anyForm (fun c s =>
    match csetOf (cmdD c.raw 2) with
    | none => complete k 0x03 [] s
    | some xs => giveData c 3 (xs.flatMap fun x => counterBytes (ctrOf s x)) s) s)

def FieldState.code : FieldState → Nat
  | .on => 0 | .computeOff => 1 | .dark => 2

/-- A field power record (R345); the currents are what the regulators measure. -/
def fieldPowerWord (s : State) (f : Fin 192) : Nat :=
  let r := fieldRec s f
  put (ofInt 16 r.temp) 0 16 + put r.tceil 16 5 + put r.kmax 21 5 + put r.offset 26 5 + put r.vset 32 10 + put r.cause.toNat 42 4 +
  put (FieldState.code r.state) 46 2 + put (Config.sensor (2 * f.val) s.t.now) 64 32 + put (Config.sensor (2 * f.val + 1) s.t.now) 96 32 +
  put r.soft.toNat 128 64 + put r.hard.toNat 192 64

/-- FIELD_POWER_READ (R345). -/
def execFieldPowerRead (k : CmdKey) (s : State) : Host.Outcome State Fault Refusal :=
  .next (runCmd k 0x0B04 anyForm (fun c s => giveData c 2 ((List.finRange 192).flatMap fun f => leBytes 32 (fieldPowerWord s f)) s) s)

/-- MEM_ERROR_READ (R201). -/
def execMemErrorRead (k : CmdKey) (s : State) : Host.Outcome State Fault Refusal :=
  .next (runCmd k 0x0B05 anyForm (fun c s =>
    giveData c 2 ((List.range 48).flatMap fun n =>
      ([0, 8, 16, 24] : List Nat).flatMap fun o => leBytes 8 (errWord (s.mem.stErr.get {} n) o)) s) s)

end Sys2Proof.Machine
end

