-- ==== Sys2Proof/Machine/Ocsal.lean ====
section
/-! DEFINITION. The Ocsal link: flits, lanes, training and keys, bypass pairs, and data packets that arrive
(spec/16_ocsal_fabric.md R408-R427, 17_security.md R443). -/

namespace Sys2Proof.Machine

open Sys2Proof

/-! ### Packets in transit (R423) -/

/-- Counts a packet dropped at a port. -/
def dropOcsal (p : Fin 16) (s : State) : State :=
  let r := portRec s p
  wrapEvent (portUnit p) 0 0x0801 none r.dropped 1 (setPort p { r with dropped := r.dropped + 1 } s)

/-- A direct port to a module (R422, R423). -/
def directPort (s : State) (m : BitVec 8) : Option (Fin 16) :=
  ringPorts.find? fun i => (portRec s i).state == .up && (portRec s i).peer == m

/-- Packets in transit leave by their egress ports as these have credit and room, in order; one whose
direct port is gone waits. -/
def drainTransit (s : State) : State :=
  s.fab.transit.foldl (fun s pkt =>
    match directPort s pkt.dest with
    | some e => if portReady s e pkt then sendPkt e pkt s else { s with fab := { s.fab with transit := s.fab.transit ++ [pkt] } }
    | none => { s with fab := { s.fab with transit := s.fab.transit ++ [pkt] } }) { s with fab := { s.fab with transit := [] } }

/-! ### Flits (R410, R411) -/

/-- A flit counted by what became of it. -/
def flitCounts (p : Fin 16) (f : Flit) (taken : Bool) (s : State) : State :=
  let r := portRec s p
  let fec := if f.fecOk then f.corrected else 0
  let bad := b2n (f.fecOk && !f.tagOk)
  let u := portUnit p
  let s := setPort p { r with received := r.received + BitVec.ofNat 64 (b2n taken), fec := r.fec + BitVec.ofNat 64 fec, tags := r.tags + BitVec.ofNat 64 bad } s
  wrapEvent u 0 0x0801 none r.tags bad (wrapEvent u 0 0x0801 none r.fec fec (wrapEvent u 0 0x0801 none r.received (b2n taken) s))

/-- Flits the peer has acknowledged once an ACK field is taken: it names the last SEQ it has in order. -/
def ackedBy (r : PortRec) (ack : BitVec 24) : Nat :=
  let d := (ack.toNat + 1 + 2 ^ 24 - r.acked % 2 ^ 24) % 2 ^ 24
  if r.acked + d ≤ r.txSeq then r.acked + d else r.acked

/-- Every flit the peer has not acknowledged is sent again. -/
def resend (p : Fin 16) (s : State) : State :=
  let r := portRec s p
  let n := r.txSeq - r.acked
  if n = 0 then s
  else
    let s := setPort p { r with retries := r.retries + BitVec.ofNat 64 n } { s with out := s.out ++ [.flits p (BitVec.ofNat 24 r.acked)] }
    wrapEvent (portUnit p) 0 0x0801 none r.retries n s

/-- FLIT_RECEIVE (R410, R411): in SEQ order with FEC and tag good, else dropped with NAK. -/
def execFlitReceive (port : Fin 16) (f : Flit) (s : State) : Host.Outcome State Fault Refusal :=
  .next (
    let r := portRec s port
    if r.state ≠ .up then s
    else
      let ok : Bool := f.fecOk && f.tagOk && f.seq == BitVec.ofNat 24 r.rxSeq
      let s := flitCounts port f ok s
      let r := portRec s port
      if !ok then
        let times := if f.fecOk && !f.tagOk then (r.tagTimes.filter fun n => decide (s.t.now < n + usec 1000)) ++ [s.t.now] else r.tagTimes
        setPort port { r with tagTimes := times } { s with out := s.out ++ [.nak port (BitVec.ofNat 24 (r.rxSeq + 2 ^ 24 - 1))] }
      else
        let r := { r with rxSeq := r.rxSeq + 1, acked := ackedBy r f.ack }
        let r := if f.creditVc.val < 5 then { r with credits := vset r.credits f.creditVc (r.credits[f.creditVc] + f.creditCount.toNat) } else r
        let s := setPort port r s
        drainTransit (if f.nak then resend port s else s))

/-! ### Lanes (R409) -/

/-- The port has lanes in service. -/
def PortState.lanesOn : PortState → Bool
  | .securing => true
  | .up => true
  | .retraining => true
  | _ => false

/-- OCSAL_LANE_FAIL (R409): the width falls, and a free spare (lane 8) starts to take the lane's place. -/
def execOcsalLaneFail (port : Fin 16) (lane : Fin 9) (rate : Bool) (s : State) : Host.Outcome State Fault Refusal :=
  .next (
    let r := portRec s port
    if !r.state.lanesOn || r.bad.contains lane then s
    else
      let old := portLanes r
      let lost := lane.val == 8
      let take : Bool := !lost && !r.bad.contains 8 && r.spareFor.isNone
      let r := { r with
        bad := r.bad ++ [lane], spare := r.spare && !lost
        spareFor := if lost then none else if take then some lane else r.spareFor
        spareAt := if lost then none else if take then some (s.t.now + usec 20) else r.spareAt }
      let s := setPort port r s
      if portLanes r = old then s else portEvent .linkDown port (if rate then 1 else 0) (portLanes r) s)

/-- OCSAL_SPARE_READY (R409): within 20 µs of the lane's loss. -/
def execOcsalSpareReady (port : Fin 16) (s : State) : Host.Outcome State Fault Refusal :=
  .next (
    let r := portRec s port
    match r.spareAt with
    | none => s
    | some n =>
      let s := waitUntil s n
      let r := { r with spare := true, spareAt := none }
      portEvent .linkUp port 4 (portLanes r) (setPort port r s))

/-! ### Training (R413, R414, R443) -/

/-- The port's fibres reach a peer: a switch port, or a ring port whose pair is open (R417). -/
def pairOpen (s : State) (p : Fin 16) : Bool :=
  match pairOf p with
  | some k => !s.fab.closed[k] && s.fab.changing[k] == none
  | none => true

/-- PORT_TRAINED (R413): 30 ms after step 1 the peer is known and SPDM begins. -/
def execPortTrained (port : Fin 16) (peer : PeerId) (s : State) : Host.Outcome State Fault Refusal :=
  .next (
    let r := portRec s port
    if r.state ≠ .training || !pairOpen s port then s
    else
      let s := waitUntil s (r.since + usec 30000)
      setPort port { r with state := .securing, peer := peer.mod, peerPort := peer.port, rev1 := peer.rev1, peerSerial := peer.serial
                            peerRole := peer.role } s)

/-- PORT_TRAIN_RETRY (R413): no peer after 1 s; the first time it is told. -/
def execPortTrainRetry (port : Fin 16) (s : State) : Host.Outcome State Fault Refusal :=
  .next (
    let r := portRec s port
    if r.state ≠ .training then s
    else
      let s := waitUntil s (r.since + usec 1000000)
      let s := setPort port { r with since := s.t.now, noPeerPosted := true } s
      if r.noPeerPosted then s else portEvent .linkDown port 3 0 s)

/-- The module accepts the peer's chain and state (R443). -/
def peerAccepted (s : State) (a : PeerAuth) : Bool :=
  a.chainOk && (s.boot.lc != .deployed || (a.lcState == 2 && a.ownerHash == s.boot.owner))

/-- SPDM connections by peer: DOE ports 0-1, Ocsal ports 2-17. -/
def connKey : SpdmPeer → Nat
  | .doe p => p.val
  | .ocsal p => 2 + p.val

def connOf (s : State) (p : SpdmPeer) : SpdmRec := s.sec.conns.get {} (connKey p)
def setConn (p : SpdmPeer) (r : SpdmRec) (s : State) : State :=
  { s with sec := { s.sec with conns := s.sec.conns.set {} (connKey p) r } }

/-- The keys of the sessions that are meant change. -/
def updateKeys (hit : BitVec 32 → Bool) (r : SpdmRec) : SpdmRec :=
  { r with open_ := r.open_.map fun e => if hit e.1 then (e.1, e.2 + 1) else e }

/-- PORT_SECURED (R413, R443): by 130 ms after step 1 the port is UP under new keys, or FAILED. A worker's
first UP port carries its JOIN (R431). -/
def execPortSecured (port : Fin 16) (auth : PeerAuth) (s : State) : Host.Outcome State Fault Refusal :=
  .next (
    let r := portRec s port
    if r.state ≠ .securing then s
    else
      let s := waitUntil s (s.t.now + usec 100000)
      if !peerAccepted s auth then portFail port 3 0x08 s
      else
        let first := (List.finRange 16).all fun p => (portRec s p).state != .up
        let s := setPort port { r with state := .up, txSeq := 0, rxSeq := 0, acked := 0, sinceKey := 0, phase := false, keys := 0
                                       credits := Vector.replicate 8 2048, tagTimes := [], retrainTimes := [] } s
        let s := setConn (.ocsal port) { version := true, caps := true, algs := true, open_ := [(0, 0)] } s
        let s := portEvent .linkUp port 2 (portLanes r) s
        if first && (s.fab.role == .worker || s.fab.role == .standby) then sendJoin s else s)

/-- PORT_RETRAIN (R409, R414): more than 16 tag failures in 1 ms, or fewer than 4 lanes. -/
def execPortRetrain (port : Fin 16) (s : State) : Host.Outcome State Fault Refusal :=
  .next (
    let r := portRec s port
    let tags := (r.tagTimes.filter fun n => decide (s.t.now < n + usec 1000)).length
    if r.state = .up ∧ (16 < tags ∨ portLanes r < 4) then toRetrain port s else s)

/-- A port goes on to its next key (R412). -/
def nextKey (p : Fin 16) (s : State) : State :=
  let r := portRec s p
  setPort p { r with phase := !r.phase, keys := r.keys + 1, sinceKey := 0 } s

/-- PORT_RETRAIN_DONE (R412, R414): within 200 µs; the port resends from the peer's ACK under the kept
keys, then changes key. -/
def execPortRetrainDone (port : Fin 16) (ok lostLock : Bool) (peerAck : BitVec 24) (s : State) : Host.Outcome State Fault Refusal :=
  .next (
    let r := portRec s port
    if r.state ≠ .retraining then s
    else
      let s := waitUntil s (s.t.now + usec 200)
      if !ok then portFail port (if lostLock then 0 else 1) 0x09 s
      else nextKey port (resend port (setPort port { r with state := .up, acked := ackedBy r peerAck, tagTimes := [] } s)))

/-- KEY_UPDATE (R412, R443): after 2^40 flits. -/
def execKeyUpdate (port : Fin 16) (s : State) : Host.Outcome State Fault Refusal :=
  .next (
    let r := portRec s port
    if r.state ≠ .up ∨ r.sinceKey < 2 ^ 40 then s
    else
      let c := connOf s (.ocsal port)
      setConn (.ocsal port) (updateKeys (fun _ => true) c) (nextKey port s))

/-- BYPASS_CHANGE (R417): the port's own pair ends its change after 10 ms; or a neighbour's pair has
changed, and the port that faced it loses its link and trains to its new peer. -/
def execBypassChange (port : Fin 16) (own : Bool) (s : State) : Host.Outcome State Fault Refusal :=
  .next (match pairOf port with
    | none => s
    | some k =>
      if own then
        match s.fab.changing[k] with
        | none => s
        | some close =>
          let s := waitUntil s (s.t.now + usec 10000)
          { s with fab := { s.fab with closed := vset s.fab.closed k close, changing := vset s.fab.changing k none } }
      else
        let r := portRec s port
        if !r.state.lanesOn then s else beginTraining port (portEvent .linkDown port 3 0 s))

/-! ### Packets that arrive (R419, R422, R423, R425, R427) -/

/-- The request a packet makes; none for a reserved TYPE. -/
def pktKind (pkt : OcsalPkt) : Option ReqKind :=
  match pkt.type.toNat with
  | 0 => some .read
  | 1 => some .write
  | 2 => some (.atomic pkt.op.toNat)
  | 3 => some (.object pkt.op.toNat)
  | 4 => some .message
  | _ => none

/-- The router an arriving request enters by: of the port's frontage, by the rule of R23 for the target
cluster. -/
def entryRouter (s : State) (port : Fin 16) (a : Word) : Option Cl :=
  frontRouter s.net.cur (ocsalStack port) ((targetCl s a).getD ⟨0, 0, 0⟩)

/-- An OBJECT packet with a reserved operation code (R260). -/
def reservedObject : ReqKind → Bool
  | .object op => (4 ≤ op && op ≤ 7) || 11 ≤ op
  | _ => false

/-- A remote request enters the mesh as an edge-adapter request, or is answered with the check it fails. -/
def remoteIn (port : Fin 16) (pkt : OcsalPkt) (k : ReqKind) (s : State) : State :=
  let a := pkt.addr
  let who : Requester := .remote pkt.src pkt.part port (pkt.portTag.toNat + 4096 * pkt.srcPort.val)
  let own := hallPart s pkt.src pkt.part
  let src := (entryRouter s port a).getD ⟨0, 0, 0⟩
  let x : Xact :=
    { id := s.net.nextId, who := who, part := own, kind := k, addr := a
      phys := if addrSpace a = 0 then own.bind fun p => translate (stackMap s p) (fld a.toNat 0 42) else none
      len := if k = .read then pkt.len.toNat else pkt.payload.length, data := pkt.payload, operand := 0, sat := pkt.sat, ra := false
      epoch := 0, src := src, dst := src, out := false, pos := src, vc1 := false, since := s.t.now, phase := .inject, resent := false
      timer := none, dead := false, again := false, use := .remote }
  let answerNow (st : Byte) : State := replyOut x pkt.src pkt.part port (pkt.portTag.toNat + 4096 * pkt.srcPort.val) st (match k with | .object _ => [0, 0, 0, 0] | _ => []) s
  if !layoutOk a || reservedObject k then answerNow 0x03
  else if !remoteOk k a then answerNow 0x04
  else match own with
    | none => answerNow 0x04
    | some p =>
      if (entryRouter s port a).isNone then answerNow 0x09
      else
        let s := countPort port.val p (32 + pkt.payload.length) s
        inject x { s with net := { s.net with xacts := s.net.xacts ++ [x], nextId := s.net.nextId + 1 } }

/-- A reply goes on to the request its port table names; PENDING only restarts the timer (R239, R427). -/
def remoteReply (pkt : OcsalPkt) (s : State) : State :=
  let r := portRec s pkt.srcPort
  match r.table.get none pkt.portTag.toNat with
  | none => s
  | some id =>
    let pend : Bool := pkt.type == 0xD
    let s := if pend then s else setPort pkt.srcPort { r with table := r.table.set none pkt.portTag.toNat none } s
    match xactOf s id with
    | none => s
    | some x =>
      if pend then setXact { x with timer := x.timer.map fun _ => s.t.now } s
      else answer x pkt.status pkt.payload s

/-- OCSAL_PACKET_ARRIVE (R419): injected, forwarded in transit, or dropped. Control packets for this module
are rows of their own. -/
def execOcsalPacketArrive (port : Fin 16) (pkt : OcsalPkt) (s : State) : Host.Outcome State Fault Refusal :=
  .next (
    if (portRec s port).state ≠ .up then s
    else if pkt.kind = 3 ∨ 8 ≤ pkt.hops.toNat then dropOcsal port s
    else if some pkt.dest ≠ s.fab.num then
      if !pkt.transit && decide (port.val < 8) && (directPort s pkt.dest).isSome then
        drainTransit { s with fab := { s.fab with transit := s.fab.transit ++ [{ pkt with transit := true }] } }
      else dropOcsal port s
    else if !moduleAssigned s pkt.src then dropOcsal port s
    else match pkt.kind.toNat with
      | 0 => (match pktKind pkt with
        | some k => remoteIn port pkt k s
        | none => dropOcsal port s)
      | 1 => remoteReply pkt s
      | _ => s)

end Sys2Proof.Machine
end

