-- ==== Sys2Proof/Machine/Hall.lean ====
section
/-! DEFINITION. Manager and workers: tide over Ocsal, heartbeats, takeover, numbers and hall barriers
(spec/16_ocsal_fabric.md R420, R421, R430-R435). -/

namespace Sys2Proof.Machine

open Sys2Proof

/-- The module works under a manager. -/
def isWorker (s : State) : Bool := s.fab.role == .worker || s.fab.role == .standby

/-- MANAGER_CHANGE (R372). -/
def managerEvent (old new : BitVec 8) (s : State) : State :=
  postTo .managerChange atbinUnit [] true (moduleTide s)
    [old, new, (ownModule s).getD 0xFF, BitVec.ofNat 8 (Role.code s.fab.role)] s

/-! ### The tide over Ocsal (R292, R420, R432) -/

/-- One-way delay of a link in tide units of 1/16 ns; RTT is in ns and CORRECTION in 1/16 ns (R415, R420, R432). -/
def linkDelay (r : PortRec) : Nat := (16 * r.rtt - r.corr) / 2

/-- The payload of a TIDE control packet. -/
def tidePayload (s : State) : List Byte :=
  leBytes 8 (moduleTide s).toNat ++ leBytes 8 0 ++ leBytes 4 (rootRate s) ++ leBytes 1 s.fab.manager.toNat

/-- OCSAL_TIDE_SEND (R420, R432): every 10 µs, by the manager on its UP ports and by a worker on those other
than its upstream port. -/
def execOcsalTideSend (s : State) : Host.Outcome State Fault Refusal :=
  .next (
    let from_ : Bool := s.fab.role == .manager || (isWorker s && s.fab.upstream.isSome && !s.t.holdover)
    if !from_ then s
    else
      let s := waitUntil s (s.t.now + usec 10)
      let ports := (List.finRange 16).filter fun p => (portRec s p).state == .up && (s.fab.role == .manager || s.fab.upstream != some p)
      { s with out := s.out ++ ports.map fun p => Out.control p (portRec s p).peer 0x1 (tidePayload s) })

/-- The upstream port: the one with the lowest measured delay of those that TIDE packets come by. -/
def chooseUpstream (port : Fin 16) (s : State) : Fin 16 :=
  match s.fab.upstream with
  | none => port
  | some u => if (portRec s u).state != .up || decide (linkDelay (portRec s port) < linkDelay (portRec s u)) then port else u

/-- Corrects the disciplined copy to a tide by the slew and step rules of R291. -/
def correctCopy (v : Word) (s : State) : State :=
  let r := s.t.atbin
  let n := s.t.now
  let e := (v - tideAt r n).toInt
  let c : Corr := if e.natAbs ≤ 64 then .even e else if 0 < e then .none else .slow e.natAbs
  let base := if 64 < e then tideFx r n + e.toNat * 2 ^ 27 else tideFx r n
  { s with t := { s.t with atbin := { base := base, since := n, rate := r.rate, corr := c, win := r.win }
                           holdover := false, synced := true, syncAt := n } }

/-- OCSAL_TIDE (R432): a worker takes the tide that comes by its upstream port, with its link's delay and
CORRECTION added. -/
def execOcsalTide (port : Fin 16) (tide correction : Word) (_rate : BitVec 32) (_manager : BitVec 8) (s : State) :
    Host.Outcome State Fault Refusal :=
  .next (
    if !isWorker s || s.fab.num.isNone || (portRec s port).state != .up then s
    else
      let u := chooseUpstream port s
      let s := { s with fab := { s.fab with upstream := some u } }
      if u ≠ port then s
      else
        let v := tide + correction + BitVec.ofNat 64 (linkDelay (portRec s port))
        correctCopy v { s with fab := { s.fab with tideAt := s.t.now } })

/-- TIDE_HOLDOVER (R432): 1 ms without a TIDE packet. -/
def execTideHoldover (s : State) : Host.Outcome State Fault Refusal :=
  .next (
    if !isWorker s || s.fab.num.isNone || s.t.holdover then s
    else
      let s := waitUntil s (s.fab.tideAt + usec 1000)
      { s with t := { s.t with holdover := true } })

/-- DELAY_REQ (R415, R420, R432): every 1 ms on an UP port. -/
def execDelayReq (port : Fin 16) (rtt correction : Nat) (s : State) : Host.Outcome State Fault Refusal :=
  .next (
    let r := portRec s port
    if r.state ≠ .up then s
    else
      let s := waitUntil s (s.t.now + usec 1000)
      setPort port { r with rtt := rtt % 2 ^ 32, corr := correction }
        { s with out := s.out ++ [.control port r.peer 0x2 (leBytes 8 (moduleTide s).toNat)] })

/-! ### Hall barriers (R433-R435) -/

/-- A hall barrier's generation is under way in this module: some member has arrived. -/
def hallUnderway (s : State) (b : Fin 32) (r : BarRoot) : Bool :=
  r.hall && (!r.got.isEmpty || r.members.any fun c => (barOf s c b.val).sent)

/-- Incomplete generations of hall barriers are released with HW_FAULT (R434, R435). -/
def releaseHall (s : State) : State :=
  (List.finRange 64).foldl (fun s p => (List.finRange 32).foldl (fun s b =>
    match rootOf s p b.val with
    | some r => if hallUnderway s b r then forceRelease p b 0x09 s else s
    | none => s) s) s

/-- A hall barrier's release reaches the module and goes down its own tree (R267, R433). -/
def hallDeliver (p : Fin 64) (b : Fin 32) (gen : BitVec 16) (st : Byte) (l : Word) (s : State) : State :=
  match rootOf s p b.val with
  | none => s
  | some r =>
    if !r.hall || gen ≠ r.generation then s
    else sendReleases p b r.members gen st l (setRoot p b.val (some { r with generation := r.generation + 1, got := [] }) s)

/-- HALL_BARRIER_RELEASE (R433). -/
def execHallBarrierRelease (p : Fin 64) (b : Fin 32) (gen : BitVec 16) (status : BitVec 8) (launch : BitVec 32) (s : State) :
    Host.Outcome State Fault Refusal :=
  .next (hallDeliver p b gen status (launchAt (moduleTide s) launch 0) s)

/-- The member modules of the hall barrier of a module's partition, itself first: by this module's own
bindings, and by those that only other modules know (R433). -/
def hallMembers (s : State) (m : BitVec 8) (p : Fin 64) (b : Fin 32) : List (BitVec 8 × Fin 64) :=
  let far := (Config.hallGroup m.toNat p.val b.val).map fun e => ((BitVec.ofNat 8 e.1, Fin.ofNat 64 e.2) : BitVec 8 × Fin 64)
  let mine : List (BitVec 8 × Fin 64) := match s.fab.num with
    | some me => ((List.finRange 64).filter fun q => (rootOf s q b.val).isSome && hallPaired s q m p).map fun q => (me, q)
    | none => []
  ((m, p) :: (mine ++ far)).eraseDups

/-- A member module can be reached, or is this one. -/
def memberThere (s : State) (m : BitVec 8) : Bool := some m == s.fab.num || (controlPort s m).isSome

/-- One member's release: down the own tree, or a packet to its module. -/
def hallRelease (b : Fin 32) (st : Byte) (l : Word) (s : State) (e : BitVec 8 × Fin 64 × BitVec 16) : State :=
  if some e.1 = s.fab.num then hallDeliver e.2.1 b e.2.2 st l s
  else controlOut e.1 0x6 (leBytes 1 e.2.1.val ++ leBytes 1 b.val ++ leBytes 2 e.2.2.toNat ++ leBytes 1 e.1.toNat ++ leBytes 1 st.toNat ++
    leBytes 4 (l.setWidth 32).toNat) s

/-- LEAD of a hall barrier: of this module's own member, else as its members have it. -/
def hallLead (s : State) (ms : List (BitVec 8 × Fin 64)) (m : BitVec 8) (p : Fin 64) (b : Fin 32) : Nat :=
  match (ms.find? fun e => some e.1 == s.fab.num).bind fun e => rootOf s e.2 b.val with
  | some r => r.lead
  | none => (Config.hallLead m.toNat p.val b.val).toNat

/-- HALL_BARRIER_ARRIVE (R433): at the manager; the last arrival releases at tide + LEAD + the largest delay
to a member + 1 µs. A member that cannot be reached is left out. -/
def execHallBarrierArrive (mod : BitVec 8) (p : Fin 64) (b : Fin 32) (gen : BitVec 16) (s : State) : Host.Outcome State Fault Refusal :=
  .next (
    let own : Bool := some mod == s.fab.num
    let ready : Bool := !own || (match rootOf s p b.val with | some r => r.hall && r.generation == gen && r.members.all r.got.contains | none => false)
    if s.fab.role != .manager || !ready then s
    else
      let old := s.fab.hall.get [] b.val
      let got := (old.filter fun e => !(e.1 == mod && e.2.1 == p)) ++ [(mod, p, gen)]
      let ms := (hallMembers s mod p b).filter fun e => memberThere s e.1
      let here (e : BitVec 8 × Fin 64) : Bool := got.any fun g => g.1 == e.1 && g.2.1 == e.2
      if !ms.all here then { s with fab := { s.fab with hall := s.fab.hall.set [] b.val got } }
      else
        let mine (g : BitVec 8 × Fin 64 × BitVec 16) : Bool := ms.any fun e => e.1 == g.1 && e.2 == g.2.1
        let delay := (ms.map fun e => match controlPort s e.1 with
          | some q => linkDelay (portRec s q)
          | none => 0).foldl max 0
        let l := moduleTide s + BitVec.ofNat 64 (16 * (hallLead s ms mod p b + delay + 1000))
        let s := { s with fab := { s.fab with hall := s.fab.hall.set [] b.val (got.filter fun g => !mine g) } }
        (got.filter mine).foldl (hallRelease b 0x00 l) s)

/-- At the manager: a generation that waits for a member module that is lost is released with HW_FAULT
(R433). -/
def dropLostHall (s : State) : State :=
  if s.fab.role != .manager then s
  else (List.finRange 32).foldl (fun s b =>
    let got := s.fab.hall.get [] b.val
    let lost (g : BitVec 8 × Fin 64 × BitVec 16) : Bool := (hallMembers s g.1 g.2.1 b).any fun e => !memberThere s e.1
    let out := got.filter lost
    if out.isEmpty then s
    else out.foldl (hallRelease b 0x09 (moduleTide s)) { s with fab := { s.fab with hall := s.fab.hall.set [] b.val (got.filter fun g => !lost g) } }) s

/-! ### Heartbeats and takeover (R430, R434, R435) -/

/-- Numbered modules other than this one. -/
def others (s : State) : List (BitVec 8) :=
  ((List.range 255).map (BitVec.ofNat 8)).filter fun m => moduleAssigned s m && some m != s.fab.num

/-- HEARTBEAT goes to every numbered module (R420). -/
def sendHeartbeat (s : State) : State :=
  let payload := leBytes 1 s.fab.manager.toNat ++ leBytes 1 s.fab.standby.toNat ++ leBytes 32 s.fab.mask.toNat ++ leBytes 4 s.fab.epoch.toNat
  (others s).foldl (fun s m => controlOut m 0x3 payload s) s

/-- The serial number of the peer that has a module number. -/
def serialOf (s : State) (m : BitVec 8) : Option (BitVec 128) :=
  ((List.finRange 16).find? fun p => (portRec s p).state == .up && (portRec s p).peer == m).map fun p => (portRec s p).peerSerial

/-- A manager that meets another gives way to one that serves workers, or where neither or both do to the
lower serial number (R430). -/
def givesWay (s : State) (h : Heartbeat) : Bool :=
  let theirs : Bool := (h.mask &&& ~~~ ((1 : BitVec 256) <<< h.manager.toNat)) != 0
  let ours : Bool := !(others s).isEmpty
  if theirs && !ours then true
  else if ours && !theirs then false
  else match serialOf s h.manager with
    | some n => decide (n.toNat < s.boot.serial.toNat)
    | none => false

/-- A heartbeat at a worker: a new manager ends incomplete hall barriers (R434). -/
def hearManager (h : Heartbeat) (s : State) : State :=
  let old := s.fab.manager
  let role := if s.fab.role = .standby ∧ h.standby ≠ 0xFF ∧ some h.standby ≠ s.fab.num ∧ s.fab.num.isSome then Role.worker else s.fab.role
  let s := { s with fab := { s.fab with heardAt := s.t.now, manager := h.manager, standby := h.standby, mask := h.mask, epoch := h.tableEpoch
                                        poll := none, role := role } }
  if old = 0xFF ∨ old = h.manager then s else managerEvent old h.manager (releaseHall s)

/-- HEARTBEAT (R420, R421, R430, R434): sent every 100 µs by the manager, or received. -/
def execHeartbeat (rx : Option Heartbeat) (s : State) : Host.Outcome State Fault Refusal :=
  .next (match rx with
    | none => if s.fab.role != .manager then s else sendHeartbeat (waitUntil s (s.t.now + usec 100))
    | some h =>
      if isWorker s then hearManager h s
      else if s.fab.role != .manager || !givesWay s h then s
      else
        let old := s.fab.manager
        let role := if h.standby = 0xFF then Role.standby else .worker
        let s := { s with fab := { s.fab with role := role, num := none, manager := h.manager, standby := h.standby, mask := h.mask
                                              epoch := h.tableEpoch, heardAt := s.t.now, hall := [] } }
        sendJoin (managerEvent old h.manager s))

/-- ORIGIN goes on as the lost manager had it (R289, R434). No packet of R420 carries it: its value is free (DESIGN CHOICE,
log entry 170). -/
def takeOrigin (s : State) : State :=
  let o := Config.managerOrigin s.freeCount
  { s with freeCount := s.freeCount + 1, t := { s.t with origin := o.getD 0, originSet := o.isSome } }

/-- The new manager numbers on from the replicated record, within the assignment mask it last heard (R421, R434). -/
def takeRecord (s : State) : State :=
  let me := (ownModule s).getD 0xFF
  let l := (Config.managerRecord s.freeCount).filter fun e => e.1 != s.boot.serial && e.2 != me && s.fab.mask.getLsbD e.2.toNat
  { s with freeCount := s.freeCount + 1, fab := { s.fab with record := (s.boot.serial, me) :: l } }

/-- The standby becomes manager once more than half of the other numbered modules, itself among them,
confirm the loss (R434). -/
def tryTakeover (s : State) : State :=
  match s.fab.poll, s.fab.num with
  | some l, some me =>
    let voters := (others s).filter fun m => m ≠ s.fab.manager
    let yes := 1 + (l.filter voters.contains).length
    if 2 * yes ≤ voters.length + 1 then s
    else
      let old := s.fab.manager
      let s := takeRecord (takeOrigin s)
      let s := { s with fab := { s.fab with role := .manager, manager := me, standby := 0xFF, poll := none, upstream := none, hall := [] } }
      sendHeartbeat (managerEvent old me (releaseHall s))
  | _, _ => s

/-- HEARTBEAT_LOSS (R434, R435): 10 ms without a HEARTBEAT. The standby polls, and polls again every 10 ms;
without a standby, workers end incomplete hall barriers. -/
def execHeartbeatLoss (s : State) : Host.Outcome State Fault Refusal :=
  .next (
    if !isWorker s || s.fab.num.isNone || s.fab.manager == 0xFF then s
    else
      let s := waitUntil s (if s.fab.poll.isSome then s.t.now + usec 10000 else s.fab.heardAt + usec 10000)
      if s.fab.role = .standby then
        let seen := (moduleTide s).toNat - 8 * (s.t.now - s.fab.heardAt)
        let s := (others s).foldl (fun s m => controlOut m 0x5 (leBytes 8 seen) s) { s with fab := { s.fab with poll := some [] } }
        tryTakeover s
      else if s.fab.standby = 0xFF then releaseHall s
      else s)

/-- POLL (R434): a module confirms if it has had no HEARTBEAT for 5 ms. -/
def execPoll (src : BitVec 8) (_lastSeen : Word) (s : State) : Host.Outcome State Fault Refusal :=
  .next (
    if !isWorker s || s.fab.num.isNone then s
    else
      let seen := (moduleTide s).toNat - 8 * (s.t.now - s.fab.heardAt)
      controlOut src 0x5 (leBytes 8 seen ++ leBytes 1 (b2n (decide (s.fab.heardAt + usec 5000 ≤ s.t.now)))) s)

/-- POLL_RSP (R434). -/
def execPollRsp (src : BitVec 8) (confirms : Bool) (s : State) : Host.Outcome State Fault Refusal :=
  .next (match s.fab.poll with
    | none => s
    | some l =>
      if s.fab.role != .standby || !confirms || l.contains src then s
      else tryTakeover { s with fab := { s.fab with poll := some (l ++ [src]) } })

/-! ### Module numbers (R421, R431) -/

/-- The number of a module: the one recorded for its serial number, else the lowest free. -/
def numberFor (s : State) (serial : BitVec 128) : Option (BitVec 8) :=
  match s.fab.record.find? fun e => e.1 == serial with
  | some e => some e.2
  | none => ((List.range 255).map (BitVec.ofNat 8)).find? fun m => !moduleAssigned s m

/-- JOIN (R421, R430, R431): the manager records a number and answers ASSIGN. -/
def execJoin (port : Fin 16) (serial : BitVec 128) (role : BitVec 2) (s : State) : Host.Outcome State Fault Refusal :=
  .next (
    if s.fab.role != .manager || (portRec s port).state != .up then s
    else match numberFor s serial with
      | none => s
      | some n =>
        let known : Bool := s.fab.record.any fun e => e.1 == serial
        let f := s.fab
        { s with
          fab := { f with
            record := if known then f.record else f.record ++ [(serial, n)]
            mask := f.mask ||| ((1 : BitVec 256) <<< n.toNat), epoch := f.epoch + 1
            standby := if role = 3 ∧ f.standby = 0xFF then n else f.standby
            ports := f.ports.set {} port.val { portRec s port with peer := if (portRec s port).peerSerial = serial then n else (portRec s port).peer } }
          out := s.out ++ [.control port n 0x4 (leBytes 1 n.toNat ++ leBytes 1 f.manager.toNat)] })

/-- ASSIGN (R431): the module has its number and its manager. -/
def execAssign (num manager : BitVec 8) (s : State) : Host.Outcome State Fault Refusal :=
  .next (
    if !isWorker s || !s.fab.joining || num == 0xFF then s
    else managerEvent 0xFF manager
      { s with fab := { s.fab with num := some num, manager := manager, joining := false, heardAt := s.t.now, tideAt := s.t.now
                                   record := [(s.boot.serial, num)] } })

end Sys2Proof.Machine
end

