-- ==== Sys2Proof/Machine/Spdm.lean ====
section
/-! DEFINITION. Attestation over SPDM and IDE key management (spec/17_security.md R441-R444,
13_host_and_commands.md R348, 15_bring_up.md R403). The response codes are DMTF SPDM's. -/

namespace Sys2Proof.Machine

open Sys2Proof

/-! ### Identity and measurements (R441, R444) -/

/-- The body of the running firmware image. -/
def runningBody (s : State) : List Byte :=
  let b := s.boot
  if b.factory[b.slot] then Config.factoryBody else readBytes b.flash[b.slot] 512 (slotNat s b.slot 0x10 4)

/-- The private part of the alias key: of the device secret, the running image, LC_STATE and OWNER_KEY_HASH. -/
def aliasKey (s : State) : BitVec 384 :=
  Config.derive s.boot.secret
    (leBytes 48 (Config.sha384 (runningBody s)).toNat ++ leBytes 1 (LcState.code s.boot.lc) ++ leBytes 48 s.boot.owner.toNat)

/-- A measurement block (R444); none where there is none. -/
def measurement (s : State) (i : Nat) : Option (List Byte) :=
  let b := s.boot
  match i with
  | 1 => some (leBytes 48 (Config.sha384 (runningBody s)).toNat)
  | 2 => some (leBytes 48 (Config.sha384 (Config.wellheadSection (runningBody s))).toNat)
  | 3 => some (leBytes 1 (LcState.code b.lc) ++ leBytes 4 b.scope.toNat ++ leBytes 4 b.count.toNat ++ leBytes 48 b.owner.toNat ++
      leBytes 7 0)
  | 4 => some (orderingNumber b.variant ++ leBytes 4 b.svn ++ leBytes 4 (slotVersion s b.slot).toNat)
  | _ => none

/-- Every block, as the alias certificate carries them. -/
def measurements (s : State) : List Byte := ([1, 2, 3, 4].filterMap (measurement s)).flatten

/-- The certificate chain of slot 0. -/
def certChain (s : State) : List Byte := Config.certificate (Config.publicKey (aliasKey s)) (measurements s)

/-! ### The responder (R442) -/

/-- Atbin answers the peer: a DOE mailbox while the port's link is up, an Ocsal link while the session is
being established or the port is up. -/
def spdmHears (s : State) : SpdmPeer → Bool
  | .doe p => s.host.ports[p].up
  | .ocsal p => match (portRec s p).state with
    | .securing => true
    | .up => true
    | .retraining => true
    | _ => false

def spdmOut (peer : SpdmPeer) (code : Byte) (payload : List Byte) (s : State) : State :=
  { s with out := s.out ++ [.spdm peer code payload] }

/-- An ERROR response. -/
def spdmError (peer : SpdmPeer) (e : Byte) (s : State) : State := spdmOut peer 0x7F [e] s

/-- A request of a peer that has agreed on algorithms; before that it is unexpected. -/
def spdmServe (peer : SpdmPeer) (s : State) (f : SpdmRec → State) : State :=
  if !spdmHears s peer then s
  else if (connOf s peer).algs then f (connOf s peer) else spdmError peer 0x04 s

/-- A request about a certificate slot: only slot 0 holds a chain. -/
def spdmSlot (peer : SpdmPeer) (slot : Fin 8) (s : State) (f : SpdmRec → State) : State :=
  spdmServe peer s fun r => if slot = 0 then f r else spdmError peer 0x01 s

/-- A request within an established session. -/
def spdmSession (peer : SpdmPeer) (session : BitVec 32) (s : State) (f : SpdmRec → State) : State :=
  spdmServe peer s fun r => if r.open_.any fun e => e.1 == session then f r else spdmError peer 0x02 s

/-- A payload with its signature under the alias key. -/
def signed (s : State) (d : List Byte) : List Byte := d ++ beBytes 96 (Config.sign (aliasKey s) d).toNat

/-- SPDM_GET_VERSION: SPDM 1.3; the connection starts anew. -/
def execSpdmGetVersion (peer : SpdmPeer) (s : State) : Host.Outcome State Fault Refusal :=
  .next (if spdmHears s peer then spdmOut peer 0x04 [0x13] (setConn peer { version := true } s) else s)

/-- SPDM_GET_CAPABILITIES. -/
def execSpdmGetCapabilities (peer : SpdmPeer) (s : State) : Host.Outcome State Fault Refusal :=
  .next (
    let r := connOf s peer
    if !spdmHears s peer then s
    else if !r.version then spdmError peer 0x04 s
    else spdmOut peer 0x61 [] (setConn peer { r with caps := true } s))

/-- SPDM_NEGOTIATE_ALGORITHMS: ECDSA P-384, SHA-384, ECDHE on secp384r1 and AES-256-GCM, or none. -/
def execSpdmNegotiateAlgorithms (peer : SpdmPeer) (offersSuite : Bool) (s : State) : Host.Outcome State Fault Refusal :=
  .next (
    let r := connOf s peer
    if !spdmHears s peer then s
    else if !r.caps then spdmError peer 0x04 s
    else if !offersSuite then spdmError peer 0x01 s
    else spdmOut peer 0x63 [] (setConn peer { r with algs := true } s))

/-- SPDM_GET_DIGESTS: the digest of slot 0's chain. -/
def execSpdmGetDigests (peer : SpdmPeer) (slot : Fin 8) (s : State) : Host.Outcome State Fault Refusal :=
  .next (spdmSlot peer slot s fun _ => spdmOut peer 0x01 (leBytes 48 (Config.sha384 (certChain s)).toNat) s)

/-- SPDM_GET_CERTIFICATE: a part of the chain; transfers beyond 64 KiB are refused. -/
def execSpdmGetCertificate (peer : SpdmPeer) (slot : Fin 8) (off len : Nat) (s : State) : Host.Outcome State Fault Refusal :=
  .next (spdmSlot peer slot s fun _ =>
    if 65536 < off + len then spdmError peer 0x01 s else spdmOut peer 0x02 (((certChain s).drop off).take len) s)

/-- SPDM_CHALLENGE: signed with the alias key. -/
def execSpdmChallenge (peer : SpdmPeer) (slot : Fin 8) (nonce : BitVec 256) (s : State) : Host.Outcome State Fault Refusal :=
  .next (spdmSlot peer slot s fun _ =>
    spdmOut peer 0x03 (signed s (leBytes 48 (Config.sha384 (certChain s)).toNat ++ leBytes 32 nonce.toNat)) s)

/-- SPDM_GET_MEASUREMENTS: 0 asks for their number, 0xFF for every block (R444). -/
def execSpdmGetMeasurements (peer : SpdmPeer) (index : Byte) (s : State) : Host.Outcome State Fault Refusal :=
  .next (spdmServe peer s fun _ =>
    if index = 0 then spdmOut peer 0x60 [4] s
    else if index = 0xFF then spdmOut peer 0x60 (measurements s) s
    else match measurement s index.toNat with
      | some d => spdmOut peer 0x60 d s
      | none => spdmError peer 0x01 s)

/-- Sessions a peer may hold: 4 per PF, 1 per Ocsal port (R442). -/
def sessionLimit : SpdmPeer → Nat
  | .doe _ => 4
  | .ocsal _ => 1

/-- SPDM_KEY_EXCHANGE: a handshake begins, with a fresh ECDHE share signed by the alias key. -/
def execSpdmKeyExchange (peer : SpdmPeer) (slot : Fin 8) (session : BitVec 32) (share : BitVec 768) (s : State) :
    Host.Outcome State Fault Refusal :=
  .next (spdmSlot peer slot s fun r =>
    if sessionLimit peer ≤ r.hand.length + r.open_.length then spdmError peer 0x0A s
    else if r.hand.contains session || r.open_.any (fun e => e.1 == session) then spdmError peer 0x01 s
    else
      let own := (Config.publicKey ((Config.freeWide s.freeCount).setWidth 384)).toNat
      let d := leBytes 4 session.toNat ++ beBytes 96 own
      let sig := beBytes 96 (Config.sign (aliasKey s) (beBytes 96 share.toNat ++ d)).toNat
      spdmOut peer 0x64 (d ++ sig) (setConn peer { r with hand := r.hand ++ [session] } { s with freeCount := s.freeCount + 1 }))

/-- SPDM_FINISH: the session is established where the requester's proof verifies. -/
def execSpdmFinish (peer : SpdmPeer) (session : BitVec 32) (proofOk : Bool) (s : State) : Host.Outcome State Fault Refusal :=
  .next (spdmServe peer s fun r =>
    if !r.hand.contains session then spdmError peer 0x02 s
    else
      let hand := r.hand.filter fun e => e != session
      if proofOk then spdmOut peer 0x65 [] (setConn peer { r with hand := hand, open_ := r.open_ ++ [(session, 0)] } s)
      else spdmError peer 0x06 (setConn peer { r with hand := hand } s))

/-- SPDM_HEARTBEAT. -/
def execSpdmHeartbeat (peer : SpdmPeer) (session : BitVec 32) (s : State) : Host.Outcome State Fault Refusal :=
  .next (spdmSession peer session s fun _ => spdmOut peer 0x68 [] s)

/-- SPDM_KEY_UPDATE: the session's keys change. -/
def execSpdmKeyUpdate (peer : SpdmPeer) (session : BitVec 32) (s : State) : Host.Outcome State Fault Refusal :=
  .next (spdmSession peer session s fun r =>
    spdmOut peer 0x69 [] (setConn peer (updateKeys (fun e => e == session) r) s))

/-- SPDM_END_SESSION. -/
def execSpdmEndSession (peer : SpdmPeer) (session : BitVec 32) (s : State) : Host.Outcome State Fault Refusal :=
  .next (spdmSession peer session s fun r =>
    spdmOut peer 0x6C [] (setConn peer { r with open_ := r.open_.filter fun e => e.1 != session } s))

/-- IDE_KEY_MANAGEMENT (R348, R442): keys come only over a secured session on the port's mailbox; stream 0 is the
link stream. -/
def execIdeKeyManagement (port : Fin 2) (session : BitVec 32) (mem : Bool) (stream : Fin 5) (key : BitVec 256) (s : State) :
    Host.Outcome State Fault Refusal :=
  .next (spdmSession (.doe port) session s fun _ =>
    let put_ (c : CxlPort) : CxlPort := if mem then { c with ideMem := key } else { c with ide := c.ide.set 0 stream.val key }
    spdmOut (.doe port) 0x7E [BitVec.ofNat 8 stream.val] (updCxl port put_ s))

end Sys2Proof.Machine
end

