-- ==== Sys2Proof/Machine/Mgmt.lean ====
section
/-! DEFINITION. Monitoring over I3C, the management port and the service connector
(spec/17_security.md R455, 18_module_hardware.md R465, R477, R478, 16_ocsal_fabric.md R421). -/

namespace Sys2Proof.Machine

open Sys2Proof

/-- A monitoring reading (R477): temperatures of the hottest field and stack, the coolant's inlet, outlet and
flow, the power of the feeds, READY and FAULT. -/
def reading (s : State) (i : Fin 8) : List Byte :=
  let p := s.pwr
  let temps (l : List Int) : Nat := ofInt 16 (l.foldl (fun m t => max m t) (l.headD 0))
  leBytes 2 (match i.val with
    | 0 => temps ((List.finRange 192).map fun f => (fieldRec s f).temp)
    | 1 => temps ((List.range 48).map fun n => (p.stk.get {} n).temp)
    | 2 => ofInt 16 p.coolIn
    | 3 => ofInt 16 p.coolOut
    | 4 => p.flow
    | 5 => p.feedA + p.feedB
    | 6 => b2n p.readyOut
    | _ => b2n p.faultOut)

/-- I3C_REQUEST (R477): a reading; no setting changes. -/
def execI3cRequest (sensor : Fin 8) (s : State) : Host.Outcome State Fault Refusal :=
  .next (if s.pwr.standby then { s with out := s.out ++ [.i3c (reading s sensor)] } else s)

/-- The status of a management request, and what it brings. -/
def mgmtOut (st : Byte) (d : List Byte) (s : State) : State := { s with out := s.out ++ [.mgmt (st :: d)] }

/-- A cold bring-up commanded over the management port: after a leak shutdown only once the sensor is dry, after
an EPO_N one not (R465, R472). -/
def mgmtColdBringup (s : State) : State :=
  if s.pwr.epo || (s.pwr.shut == .leak && s.pwr.wet) then mgmtOut 0x04 [] s
  else mgmtOut 0x00 [] (startCold s)

/-- MANAGEMENT_REQUEST (R421, R343, R465, R477): the port is live while the standby supply is on. -/
def execManagementRequest (r : MgmtReq) (s : State) : Host.Outcome State Fault Refusal :=
  .next (
    if !s.pwr.standby then s
    else match r with
      | .powerConfig v => let x := setPowerConfig v.toNat s; mgmtOut x.1 [] x.2
      | .monitor i => mgmtOut 0x00 (reading s i) s
      | .readLog i => match s.boot.log[i]? with
        | some d => mgmtOut 0x00 d s
        | none => mgmtOut 0x03 [] s
      | .coldBringup => mgmtColdBringup s
      | .removeModule m =>
        if s.fab.role != .manager then mgmtOut 0x04 [] s
        else if some m = s.fab.num || !(s.fab.record.any fun e => e.2 == m) then mgmtOut 0x03 [] s
        else mgmtOut 0x00 [] { s with fab := { s.fab with record := s.fab.record.filter (fun e => e.2 != m)
                                                          mask := s.fab.mask &&& ~~~((1 : BitVec 256) <<< m.toNat) } })

/-- The instruction is open in the life-cycle state (R455). -/
def testAllowed (b : Boot) (i : TestInstr) : Bool :=
  let scope (n : Nat) : Bool := match b.lc with
    | .blank => true
    | .provisioned => n == 0
    | .deployed => false
    | .debug => bit b.scope.toNat n
    | .returned => true
  match i with
  | .bypass => true
  | .idcode => true
  | .samplePreload => scope 0
  | .extest => scope 0
  | .atbinDebug => scope 1
  | .clusterScan => scope 2
  | .stackTest => scope 3

/-- TEST_ACCESS (R455, R478): an instruction that the state does not allow acts as BYPASS. -/
def execTestAccess (i : TestInstr) (s : State) : Host.Outcome State Fault Refusal :=
  .next { s with out := s.out ++ [.test i (i == .bypass || !testAllowed s.boot i)] }

end Sys2Proof.Machine
end

