-- ==== Sys2Proof/Machine/Dispatch.lean ====
section
/-! DEFINITION. The meaning of each command: one arm per constructor of `Instr`. -/

namespace Sys2Proof.Machine

open Sys2Proof

def exec (i : Instr) (s : State) : Host.Outcome State Fault Refusal :=
  match i with
  | .registerWrite a => Sys2Proof.Machine.execRegisterWrite a s
  | .ctxLoad who c v => Sys2Proof.Machine.execCtxLoad who c v s
  | .ctxLoadDone c => Sys2Proof.Machine.execCtxLoadDone c s
  | .switchNormalNow who c v => Sys2Proof.Machine.execSwitchNormalNow who c v s
  | .switchAtTide who c v => Sys2Proof.Machine.execSwitchAtTide who c v s
  | .switchForced who c v => Sys2Proof.Machine.execSwitchForced who c v s
  | .switchLaunch c => Sys2Proof.Machine.execSwitchLaunch c s
  | .pendingSwitchStart c => Sys2Proof.Machine.execPendingSwitchStart c s
  | .heldForcedSwitchStart c => Sys2Proof.Machine.execHeldForcedSwitchStart c s
  | .sourceSwitch t => Sys2Proof.Machine.execSourceSwitch t s
  | .tileSwitch t => Sys2Proof.Machine.execTileSwitch t s
  | .arrayFreeze who c v => Sys2Proof.Machine.execArrayFreeze who c v s
  | .arrayResume who c v => Sys2Proof.Machine.execArrayResume who c v s
  | .arrayRelease who c v => Sys2Proof.Machine.execArrayRelease who c v s
  | .tokenSend t src => Sys2Proof.Machine.execTokenSend t src s
  | .rillCreditReturn t d => Sys2Proof.Machine.execRillCreditReturn t d s
  | .arrayStall c => Sys2Proof.Machine.execArrayStall c s
  | .mulChunkLoad t => Sys2Proof.Machine.execMulChunkLoad t s
  | .mulIssue t => Sys2Proof.Machine.execMulIssue t s
  | .mulAccumulate t => Sys2Proof.Machine.execMulAccumulate t s
  | .mulRowDrain t => Sys2Proof.Machine.execMulRowDrain t s
  | .sfElementwise t => Sys2Proof.Machine.execSfElementwise t s
  | .sfReduceEmit t => Sys2Proof.Machine.execSfReduceEmit t s
  | .sfRowApply t => Sys2Proof.Machine.execSfRowApply t s
  | .sfConvert t => Sys2Proof.Machine.execSfConvert t s
  | .sfRandomEmit t => Sys2Proof.Machine.execSfRandomEmit t s
  | .histClear who c j v => Sys2Proof.Machine.execHistClear who c j v s
  | .memFifo t store => Sys2Proof.Machine.execMemFifo t store s
  | .memReplay t => Sys2Proof.Machine.execMemReplay t s
  | .memCapture t => Sys2Proof.Machine.execMemCapture t s
  | .memAddressed t => Sys2Proof.Machine.execMemAddressed t s
  | .memTileOutsideAccess id => Sys2Proof.Machine.execMemTileOutsideAccess id s
  | .ioInboundRead t => Sys2Proof.Machine.execIoInboundRead t s
  | .ioGateOpen t => Sys2Proof.Machine.execIoGateOpen t s
  | .ioOutboundWrite t => Sys2Proof.Machine.execIoOutboundWrite t s
  | .ioWriteComplete id => Sys2Proof.Machine.execIoWriteComplete id s
  | .nanReportArrive j => Sys2Proof.Machine.execNanReportArrive j s
  | .overflowReportArrive j => Sys2Proof.Machine.execOverflowReportArrive j s
  | .underflowReportArrive j => Sys2Proof.Machine.execUnderflowReportArrive j s
  | .regionOpen who r v => Sys2Proof.Machine.execRegionOpen who r v s
  | .regionClose who r v => Sys2Proof.Machine.execRegionClose who r v s
  | .regionCloseEnd p r => Sys2Proof.Machine.execRegionCloseEnd p r s
  | .regionAbort who r v => Sys2Proof.Machine.execRegionAbort who r v s
  | .regionRelease who r v => Sys2Proof.Machine.execRegionRelease who r v s
  | .regionWrite who c v => Sys2Proof.Machine.execRegionWrite who c v s
  | .ctxStart who x v => Sys2Proof.Machine.execCtxStart who x v s
  | .ctxStop who x v => Sys2Proof.Machine.execCtxStop who x v s
  | .ctxResume who x v => Sys2Proof.Machine.execCtxResume who x v s
  | .ctxReset who x v => Sys2Proof.Machine.execCtxReset who x v s
  | .integerOp x op num32 rd ra b => Sys2Proof.Machine.execIntegerOp x op num32 rd ra b s
  | .branch x b => Sys2Proof.Machine.execBranch x b s
  | .scalarFpOp x op fa fb fc rd ra rb rc sat => Sys2Proof.Machine.execScalarFpOp x op fa fb fc rd ra rb rc sat s
  | .vectorArith x op fa fb fc vd va vb vc m sat => Sys2Proof.Machine.execVectorArith x op fa fb fc vd va vb vc m sat s
  | .vdot x fa fb vd va vb m sat => Sys2Proof.Machine.execVdot x fa fb vd va vb m sat s
  | .vcvt x vd vs src dst sat grad m part => Sys2Proof.Machine.execVcvt x vd vs src dst sat grad m part s
  | .vamax x fd vs fmt m => Sys2Proof.Machine.execVamax x fd vs fmt m s
  | .fscale x fd fa out => Sys2Proof.Machine.execFscale x fd fa out s
  | .vcvts x vd vs fa src dst sat grad m part => Sys2Proof.Machine.execVcvts x vd vs fa src dst sat grad m part s
  | .vbst x vs ra off blk src sat grad => Sys2Proof.Machine.execVbst x vs ra off blk src sat grad s
  | .vbld x vd ra off blk dst sat => Sys2Proof.Machine.execVbld x vd ra off blk dst sat s
  | .load x dst ra off size signed => Sys2Proof.Machine.execLoad x dst ra off size signed s
  | .store x src ra off size => Sys2Proof.Machine.execStore x src ra off size s
  | .ldl x dst off size signed => Sys2Proof.Machine.execLdl x dst off size signed s
  | .stl x src off size => Sys2Proof.Machine.execStl x src off size s
  | .atomic x kind wide rd ra rs rc sat => Sys2Proof.Machine.execAtomic x kind wide rd ra rs rc sat s
  | .fence x kind scope => Sys2Proof.Machine.execFence x kind scope s
  | .loadComplete id => Sys2Proof.Machine.execLoadComplete id s
  | .storeComplete id => Sys2Proof.Machine.execStoreComplete id s
  | .requestTimeout id => Sys2Proof.Machine.execRequestTimeout id s
  | .runaheadEnter x code => Sys2Proof.Machine.execRunaheadEnter x code s
  | .runaheadEntryExpire x e => Sys2Proof.Machine.execRunaheadEntryExpire x e s
  | .icacheFill x a => Sys2Proof.Machine.execIcacheFill x a s
  | .tide x rd => Sys2Proof.Machine.execTide x rd s
  | .phase x k => Sys2Proof.Machine.execPhase x k s
  | .rseed x => Sys2Proof.Machine.execRseed x s
  | .vrand x vd => Sys2Proof.Machine.execVrand x vd s
  | .iflush x => Sys2Proof.Machine.execIflush x s
  | .brk x => Sys2Proof.Machine.execBrk x s
  | .tret x rn => Sys2Proof.Machine.execTret x rn s
  | .halt x => Sys2Proof.Machine.execHalt x s
  | .objrd x rd ra => Sys2Proof.Machine.execObjrd x rd ra s
  | .objset x rd ra rv => Sys2Proof.Machine.execObjset x rd ra rv s
  | .objadd x rd ra rv => Sys2Proof.Machine.execObjadd x rd ra rv s
  | .objcas x rd ra rc rv => Sys2Proof.Machine.execObjcas x rd ra rc rv s
  | .wait x rd ra rb rc => Sys2Proof.Machine.execWait x rd ra rb rc s
  | .waitDeadline x => Sys2Proof.Machine.execWaitDeadline x s
  | .objectRead id => Sys2Proof.Machine.execObjectRead id s
  | .objectSet id => Sys2Proof.Machine.execObjectSet id s
  | .objectAdd src => Sys2Proof.Machine.execObjectAdd src s
  | .objectCas id => Sys2Proof.Machine.execObjectCas id s
  | .barrive x rd rb => Sys2Proof.Machine.execBarrive x rd rb s
  | .barrierArrive j => Sys2Proof.Machine.execBarrierArrive j s
  | .barrierRelease j => Sys2Proof.Machine.execBarrierRelease j s
  | .barrierLaunch c b => Sys2Proof.Machine.execBarrierLaunch c b s
  | .chaccept x rd re rs => Sys2Proof.Machine.execChaccept x rd re rs s
  | .chopen x rd re ra => Sys2Proof.Machine.execChopen x rd re ra s
  | .openArrive id => Sys2Proof.Machine.execOpenArrive id s
  | .openReplyArrive id => Sys2Proof.Machine.execOpenReplyArrive id s
  | .chsend x rd vs re => Sys2Proof.Machine.execChsend x rd vs re s
  | .messageArrive id => Sys2Proof.Machine.execMessageArrive id s
  | .messageAck id => Sys2Proof.Machine.execMessageAck id s
  | .chrecv x rd vd re => Sys2Proof.Machine.execChrecv x rd vd re s
  | .consume who c e v => Sys2Proof.Machine.execConsume who c e v s
  | .creditPacketSend c e => Sys2Proof.Machine.execCreditPacketSend c e s
  | .creditArrive id => Sys2Proof.Machine.execCreditArrive id s
  | .chclose x rd re => Sys2Proof.Machine.execChclose x rd re s
  | .closeArrive id => Sys2Proof.Machine.execCloseArrive id s
  | .setCursor who c e v => Sys2Proof.Machine.execSetCursor who c e v s
  | .basinContribution id => Sys2Proof.Machine.execBasinContribution id s
  | .basinCombine c => Sys2Proof.Machine.execBasinCombine c s
  | .basinClear who c e v => Sys2Proof.Machine.execBasinClear who c e v s
  | .channelDeadlock c w => Sys2Proof.Machine.execChannelDeadlock c w s
  | .checkedChannelBreak => Sys2Proof.Machine.execCheckedChannelBreak s
  | .psub x rs vn => Sys2Proof.Machine.execPsub x rs vn s
  | .pumpDescriptorStart ch => Sys2Proof.Machine.execPumpDescriptorStart ch s
  | .pumpReadReturn id => Sys2Proof.Machine.execPumpReadReturn id s
  | .pumpBeat p => Sys2Proof.Machine.execPumpBeat p s
  | .pumpWriteComplete id => Sys2Proof.Machine.execPumpWriteComplete id s
  | .pumpDescriptorComplete ch => Sys2Proof.Machine.execPumpDescriptorComplete ch s
  | .pumpRestart who ch v => Sys2Proof.Machine.execPumpRestart who ch v s
  | .pumpAbort who ch v => Sys2Proof.Machine.execPumpAbort who ch v s
  | .memAccessServe id => Sys2Proof.Machine.execMemAccessServe id s
  | .pageZeroDone st => Sys2Proof.Machine.execPageZeroDone st s
  | .patrolScrub unit => Sys2Proof.Machine.execPatrolScrub unit s
  | .cxlMemRead port hpa => Sys2Proof.Machine.execCxlMemRead port hpa s
  | .cxlMemWrite port hpa data => Sys2Proof.Machine.execCxlMemWrite port hpa data s
  | .routerForward r out => Sys2Proof.Machine.execRouterForward r out s
  | .pendingNotice id => Sys2Proof.Machine.execPendingNotice id s
  | .routerDies c => Sys2Proof.Machine.execRouterDies c s
  | .routeTablesLoaded => Sys2Proof.Machine.execRouteTablesLoaded s
  | .routeEpochLaunch => Sys2Proof.Machine.execRouteEpochLaunch s
  | .routeEpochDrainEnd => Sys2Proof.Machine.execRouteEpochDrainEnd s
  | .aqueductLaneFail w x lane rate => Sys2Proof.Machine.execAqueductLaneFail w x lane rate s
  | .aqueductSpareReady w x g => Sys2Proof.Machine.execAqueductSpareReady w x g s
  | .fountainSend who c k v => Sys2Proof.Machine.execFountainSend who c k v s
  | .fountainValueApply j => Sys2Proof.Machine.execFountainValueApply j s
  | .fountainAckComplete p f => Sys2Proof.Machine.execFountainAckComplete p f s
  | .tideSend => Sys2Proof.Machine.execTideSend s
  | .tideReceive c pkt => Sys2Proof.Machine.execTideReceive c pkt s
  | .tideDisciplineSample facilityNs => Sys2Proof.Machine.execTideDisciplineSample facilityNs s
  | .ppsEdge stamp => Sys2Proof.Machine.execPpsEdge stamp s
  | .retentionEnter c => Sys2Proof.Machine.execRetentionEnter c s
  | .governorWake c => Sys2Proof.Machine.execGovernorWake c s
  | .arrivalWake c => Sys2Proof.Machine.execArrivalWake c s
  | .wakeComplete c => Sys2Proof.Machine.execWakeComplete c s
  | .refLost port range => Sys2Proof.Machine.execRefLost port range s
  | .refValid port => Sys2Proof.Machine.execRefValid port s
  | .springInputChanged => Sys2Proof.Machine.execSpringInputChanged s
  | .springRelockDone => Sys2Proof.Machine.execSpringRelockDone s
  | .clkSwitchHang => Sys2Proof.Machine.execClkSwitchHang s
  | .nodeUnlocked fields => Sys2Proof.Machine.execNodeUnlocked fields s
  | .islandPllLocked failed => Sys2Proof.Machine.execIslandPllLocked failed s
  | .weirInterval => Sys2Proof.Machine.execWeirInterval s
  | .weirCalibrate fields quads => Sys2Proof.Machine.execWeirCalibrate fields quads s
  | .feedMeasure a b last100 => Sys2Proof.Machine.execFeedMeasure a b last100 s
  | .shareReallocate => Sys2Proof.Machine.execShareReallocate s
  | .share r => Sys2Proof.Machine.execShare r s
  | .shareAck mod => Sys2Proof.Machine.execShareAck mod s
  | .capInFrame b0 b1 b2 => Sys2Proof.Machine.execCapInFrame b0 b1 b2 s
  | .capInInvalid => Sys2Proof.Machine.execCapInInvalid s
  | .capInHoldExpire => Sys2Proof.Machine.execCapInHoldExpire s
  | .droopSoft c => Sys2Proof.Machine.execDroopSoft c s
  | .droopHard c => Sys2Proof.Machine.execDroopHard c s
  | .droopPauseEnd c => Sys2Proof.Machine.execDroopPauseEnd c s
  | .droopRecovery c => Sys2Proof.Machine.execDroopRecovery c s
  | .railShort f network => Sys2Proof.Machine.execRailShort f network s
  | .fieldTempSample f t => Sys2Proof.Machine.execFieldTempSample f t s
  | .hotRestore f => Sys2Proof.Machine.execHotRestore f s
  | .stackTempSample st t => Sys2Proof.Machine.execStackTempSample st t s
  | .coolantSample r => Sys2Proof.Machine.execCoolantSample r s
  | .coolantRestart => Sys2Proof.Machine.execCoolantRestart s
  | .ageingMonitorRead f low => Sys2Proof.Machine.execAgeingMonitorRead f low s
  | .ageingReplan plan => Sys2Proof.Machine.execAgeingReplan plan s
  | .clusterPark c => Sys2Proof.Machine.execClusterPark c s
  | .feedLoss f => Sys2Proof.Machine.execFeedLoss f s
  | .feedRideThroughExpire => Sys2Proof.Machine.execFeedRideThroughExpire s
  | .epoNAssert => Sys2Proof.Machine.execEpoNAssert s
  | .epoNDeassert => Sys2Proof.Machine.execEpoNDeassert s
  | .presentNLoss => Sys2Proof.Machine.execPresentNLoss s
  | .perstNAssert port => Sys2Proof.Machine.execPerstNAssert port s
  | .perstNDeassert port => Sys2Proof.Machine.execPerstNDeassert port s
  | .sqTail fn q v => Sys2Proof.Machine.execSqTail fn q v s
  | .cpqHead fn q v => Sys2Proof.Machine.execCpqHead fn q v s
  | .eqHead fn v => Sys2Proof.Machine.execEqHead fn v s
  | .queueEnable fn q v => Sys2Proof.Machine.execQueueEnable fn q v s
  | .queueDisable fn q v => Sys2Proof.Machine.execQueueDisable fn q v s
  | .commandFetch fn q => Sys2Proof.Machine.execCommandFetch fn q s
  | .irqDelayExpire fn q => Sys2Proof.Machine.execIrqDelayExpire fn q s
  | .functionLevelReset fn => Sys2Proof.Machine.execFunctionLevelReset fn s
  | .cxlLinkDown port => Sys2Proof.Machine.execCxlLinkDown port s
  | .identify k => Sys2Proof.Machine.execIdentify k s
  | .getStatus k => Sys2Proof.Machine.execGetStatus k s
  | .devResetWafer k => Sys2Proof.Machine.execDevResetWafer k s
  | .devResetModuleCompute k => Sys2Proof.Machine.execDevResetModuleCompute k s
  | .devResetModuleFull k => Sys2Proof.Machine.execDevResetModuleFull k s
  | .devResetCold k => Sys2Proof.Machine.execDevResetCold k s
  | .partCreate k => Sys2Proof.Machine.execPartCreate k s
  | .partDelete k => Sys2Proof.Machine.execPartDelete k s
  | .partSetVf k => Sys2Proof.Machine.execPartSetVf k s
  | .bedsBind k => Sys2Proof.Machine.execBedsBind k s
  | .bedsUnbind k => Sys2Proof.Machine.execBedsUnbind k s
  | .setRegionBind k => Sys2Proof.Machine.execSetRegionBind k s
  | .setRegionFree k => Sys2Proof.Machine.execSetRegionFree k s
  | .bindPump k => Sys2Proof.Machine.execBindPump k s
  | .bindPort k => Sys2Proof.Machine.execBindPort k s
  | .setTimeouts k => Sys2Proof.Machine.execSetTimeouts k s
  | .resetContext k => Sys2Proof.Machine.execResetContext k s
  | .resetClusterCompute k => Sys2Proof.Machine.execResetClusterCompute k s
  | .resetPartitionCompute k => Sys2Proof.Machine.execResetPartitionCompute k s
  | .partitionResetDrainEnd p => Sys2Proof.Machine.execPartitionResetDrainEnd p s
  | .partitionResetZeroDone p => Sys2Proof.Machine.execPartitionResetZeroDone p s
  | .barrierCreate k => Sys2Proof.Machine.execBarrierCreate k s
  | .barrierDelete k => Sys2Proof.Machine.execBarrierDelete k s
  | .fountainCreate k => Sys2Proof.Machine.execFountainCreate k s
  | .fountainDelete k => Sys2Proof.Machine.execFountainDelete k s
  | .partQuery k => Sys2Proof.Machine.execPartQuery k s
  | .loadImage k => Sys2Proof.Machine.execLoadImage k s
  | .regWrite k => Sys2Proof.Machine.execRegWrite k s
  | .regRead k => Sys2Proof.Machine.execRegRead k s
  | .memCopy k => Sys2Proof.Machine.execMemCopy k s
  | .wipe k => Sys2Proof.Machine.execWipe k s
  | .hdmMap k => Sys2Proof.Machine.execHdmMap k s
  | .hdmUnmap k => Sys2Proof.Machine.execHdmUnmap k s
  | .memInfo k => Sys2Proof.Machine.execMemInfo k s
  | .syncDump k => Sys2Proof.Machine.execSyncDump k s
  | .arrayDump k => Sys2Proof.Machine.execArrayDump k s
  | .coreDump k => Sys2Proof.Machine.execCoreDump k s
  | .deadlockRead k => Sys2Proof.Machine.execDeadlockRead k s
  | .powerGet k => Sys2Proof.Machine.execPowerGet k s
  | .powerSet k => Sys2Proof.Machine.execPowerSet k s
  | .partPowerGet k => Sys2Proof.Machine.execPartPowerGet k s
  | .partPowerSet k => Sys2Proof.Machine.execPartPowerSet k s
  | .energyRead k => Sys2Proof.Machine.execEnergyRead k s
  | .clockGet k => Sys2Proof.Machine.execClockGet k s
  | .clockSet k => Sys2Proof.Machine.execClockSet k s
  | .springSwitch k => Sys2Proof.Machine.execSpringSwitch k s
  | .setSeconds k => Sys2Proof.Machine.execSetSeconds k s
  | .ocsalStatus k => Sys2Proof.Machine.execOcsalStatus k s
  | .ocsalPortEnable k => Sys2Proof.Machine.execOcsalPortEnable k s
  | .ocsalPortDisable k => Sys2Proof.Machine.execOcsalPortDisable k s
  | .ocsalPortRetrain k => Sys2Proof.Machine.execOcsalPortRetrain k s
  | .ocsalRole k => Sys2Proof.Machine.execOcsalRole k s
  | .hallBind k => Sys2Proof.Machine.execHallBind k s
  | .hallUnbind k => Sys2Proof.Machine.execHallUnbind k s
  | .fwWrite k => Sys2Proof.Machine.execFwWrite k s
  | .fwCommit k => Sys2Proof.Machine.execFwCommit k s
  | .fwStatus k => Sys2Proof.Machine.execFwStatus k s
  | .lcTransition k => Sys2Proof.Machine.execLcTransition k s
  | .lcStatus k => Sys2Proof.Machine.execLcStatus k s
  | .numGet k => Sys2Proof.Machine.execNumGet k s
  | .numSet k => Sys2Proof.Machine.execNumSet k s
  | .nanClear k => Sys2Proof.Machine.execNanClear k s
  | .dryMapRead k => Sys2Proof.Machine.execDryMapRead k s
  | .fenceUnit k => Sys2Proof.Machine.execFenceUnit k s
  | .routerCounters k => Sys2Proof.Machine.execRouterCounters k s
  | .fieldPowerRead k => Sys2Proof.Machine.execFieldPowerRead k s
  | .memErrorRead k => Sys2Proof.Machine.execMemErrorRead k s
  | .powerIn => Sys2Proof.Machine.execPowerIn s
  | .bringupStepDone r => Sys2Proof.Machine.execBringupStepDone r s
  | .trialBootTimeout => Sys2Proof.Machine.execTrialBootTimeout s
  | .bringupCoolantReady => Sys2Proof.Machine.execBringupCoolantReady s
  | .lifecycleWipeDone => Sys2Proof.Machine.execLifecycleWipeDone s
  | .recoveryImage image => Sys2Proof.Machine.execRecoveryImage image s
  | .wellheadPoll w answers => Sys2Proof.Machine.execWellheadPoll w answers s
  | .wellheadReplaced w => Sys2Proof.Machine.execWellheadReplaced w s
  | .stackFailure st => Sys2Proof.Machine.execStackFailure st s
  | .flitReceive port f => Sys2Proof.Machine.execFlitReceive port f s
  | .ocsalLaneFail port lane rate => Sys2Proof.Machine.execOcsalLaneFail port lane rate s
  | .ocsalSpareReady port => Sys2Proof.Machine.execOcsalSpareReady port s
  | .portTrained port peer => Sys2Proof.Machine.execPortTrained port peer s
  | .portSecured port auth => Sys2Proof.Machine.execPortSecured port auth s
  | .portTrainRetry port => Sys2Proof.Machine.execPortTrainRetry port s
  | .portRetrain port => Sys2Proof.Machine.execPortRetrain port s
  | .portRetrainDone port ok lostLock peerAck => Sys2Proof.Machine.execPortRetrainDone port ok lostLock peerAck s
  | .keyUpdate port => Sys2Proof.Machine.execKeyUpdate port s
  | .bypassChange port own => Sys2Proof.Machine.execBypassChange port own s
  | .ocsalPacketArrive port pkt => Sys2Proof.Machine.execOcsalPacketArrive port pkt s
  | .ocsalTide port tide correction rate manager => Sys2Proof.Machine.execOcsalTide port tide correction rate manager s
  | .tideHoldover => Sys2Proof.Machine.execTideHoldover s
  | .delayReq port rtt correction => Sys2Proof.Machine.execDelayReq port rtt correction s
  | .heartbeat rx => Sys2Proof.Machine.execHeartbeat rx s
  | .heartbeatLoss => Sys2Proof.Machine.execHeartbeatLoss s
  | .poll src lastSeen => Sys2Proof.Machine.execPoll src lastSeen s
  | .pollRsp src confirms => Sys2Proof.Machine.execPollRsp src confirms s
  | .join port serial role => Sys2Proof.Machine.execJoin port serial role s
  | .assign num manager => Sys2Proof.Machine.execAssign num manager s
  | .hallBarrierArrive mod p b gen => Sys2Proof.Machine.execHallBarrierArrive mod p b gen s
  | .hallBarrierRelease p b gen status launch => Sys2Proof.Machine.execHallBarrierRelease p b gen status launch s
  | .spdmGetVersion peer => Sys2Proof.Machine.execSpdmGetVersion peer s
  | .spdmGetCapabilities peer => Sys2Proof.Machine.execSpdmGetCapabilities peer s
  | .spdmNegotiateAlgorithms peer offersSuite => Sys2Proof.Machine.execSpdmNegotiateAlgorithms peer offersSuite s
  | .spdmGetDigests peer slot => Sys2Proof.Machine.execSpdmGetDigests peer slot s
  | .spdmGetCertificate peer slot off len => Sys2Proof.Machine.execSpdmGetCertificate peer slot off len s
  | .spdmChallenge peer slot nonce => Sys2Proof.Machine.execSpdmChallenge peer slot nonce s
  | .spdmGetMeasurements peer index => Sys2Proof.Machine.execSpdmGetMeasurements peer index s
  | .spdmKeyExchange peer slot session share => Sys2Proof.Machine.execSpdmKeyExchange peer slot session share s
  | .spdmFinish peer session proofOk => Sys2Proof.Machine.execSpdmFinish peer session proofOk s
  | .spdmHeartbeat peer session => Sys2Proof.Machine.execSpdmHeartbeat peer session s
  | .spdmKeyUpdate peer session => Sys2Proof.Machine.execSpdmKeyUpdate peer session s
  | .spdmEndSession peer session => Sys2Proof.Machine.execSpdmEndSession peer session s
  | .i3cRequest sensor => Sys2Proof.Machine.execI3cRequest sensor s
  | .managementRequest r => Sys2Proof.Machine.execManagementRequest r s
  | .cxlLinkTrained port link => Sys2Proof.Machine.execCxlLinkTrained port link s
  | .feedReturn f => Sys2Proof.Machine.execFeedReturn f s
  | .busConverterFailure conv => Sys2Proof.Machine.execBusConverterFailure conv s
  | .regulatorSetpointReached f => Sys2Proof.Machine.execRegulatorSetpointReached f s
  | .disciplineSourceLost => Sys2Proof.Machine.execDisciplineSourceLost s
  | .ocsalTideSend => Sys2Proof.Machine.execOcsalTideSend s
  | .ideKeyManagement port session mem stream key => Sys2Proof.Machine.execIdeKeyManagement port session mem stream key s
  | .testAccess j => Sys2Proof.Machine.execTestAccess j s
  | .numvfsChange port n => Sys2Proof.Machine.execNumvfsChange port n s
  | .controlCrossingBusFail c x => Sys2Proof.Machine.execControlCrossingBusFail c x s
  | .clusterUnitFailure c u => Sys2Proof.Machine.execClusterUnitFailure c u s

end Sys2Proof.Machine
end

