-- ==== Sys2Proof/Machine/Tick.lean ====
section
/-! DEFINITION. What an idle step does: time passes, memory upsets happen, and work that waits on nothing but
time is taken up. -/

namespace Sys2Proof.Machine

open Sys2Proof

/-- A memory upset (R197): one error of a code unit is correctable, a second or a wide one is not. -/
def upsetMem (err : SMap Nat) (unit bits : Nat) : SMap Nat :=
  err.set 0 unit (if bits = 1 ∧ err.get 0 unit = 0 then 1 else 2)

/-- What the free value says of upsets at this tick. -/
def upset (s : State) : State :=
  let u := Config.upset s.freeCount
  let s := { s with freeCount := s.freeCount + 1 }
  match u with
  | none => s
  | some (mem, unit, bits) =>
    if !s.pwr.rails then s
    else if mem = 0 then { s with mem := { s.mem with sramErr := upsetMem s.mem.sramErr unit bits } }
    else if mem = 1 then { s with mem := { s.mem with stackErr := upsetMem s.mem.stackErr (unit % (48 * 2 ^ 31)) bits } }
    else
      let k := s.core.cores.get {} (unit / 256)
      match k.lines[unit % 256]? with
      | some l => { s with core := { s.core with cores := s.core.cores.set {} (unit / 256) { k with badLines := l :: k.badLines.erase l } } }
      | none => s

/-- What the free value says of the host's completions at this tick (R190). -/
def hostTurns (s : State) : State :=
  match Config.hostPage s.freeCount with
  | none => { s with freeCount := s.freeCount + 1 }
  | some (page, cpl) => { s with freeCount := s.freeCount + 1, mem := { s.mem with hostErr := s.mem.hostErr.set .success page cpl } }

/-- Events that a rate limit held back go out once it allows (R146, R486). -/
def postHeld (s : State) : State :=
  let s := s.mem.clErr.foldl (fun s e =>
    match clOfKey e.1 with
    | some c => postHeldEcc (clUnit c) (localTide s c) e.2.lastAddr s
    | none => s) s
  let s := s.mem.stErr.foldl (fun s e => postHeldEcc (stackUnit (Fin.ofNat 48 e.1)) (moduleTide s) e.2.lastAddr s) s
  s.part.parts.foldl (fun s e => if e.2.isSome then postHeldUnderflow (Fin.ofNat 64 e.1) s else s) s

/-- An idle step: half a nanosecond passes. -/
def tick (s : State) : State :=
  dropLostHall (drainTransit (postHeld (reportsDue (settle (hostTurns (upset (waitUntil s (s.t.now + 1))))))))

end Sys2Proof.Machine
end

