-- ==== Sys2Proof/Safety.lean ====
section
/-! DEFINITION. What a safe run of the block is, and the words that statements about it share: when a core
instruction issues, when a host command runs, and which parts of the state differ between two states. -/

namespace Sys2Proof.Machine

open Sys2Proof

/-- A step that answers a next state. -/
def goesOn (s : State) : Prop := ∃ t, step s = .next t

/-- Every byte memory has its canonical form: addresses strictly rise, and no entry holds the 0 that an unlisted
address reads as. -/
abbrev MemoryCanonical (s : State) : Prop :=
  SMap.wf 0 s.mem.sram = true ∧ SMap.wf 0 s.mem.stack = true ∧ SMap.wf 0 s.mem.host = true

/-! ### Frames -/

/-- The two states differ at most in what posting events writes: the event queues and rate windows, the flash
log, messages sent out, and host memory. -/
def OnlyEvents (s t : State) : Prop :=
  t = { s with host := t.host, boot := { s.boot with log := t.boot.log }, out := t.out, mem := { s.mem with host := t.mem.host } }

/-- The two states differ at most in numeric reports on their way, numerics counters and events. -/
def OnlyReports (s t : State) : Prop :=
  t = { s with num := t.num, host := t.host, boot := { s.boot with log := t.boot.log }, out := t.out,
               mem := { s.mem with host := t.mem.host } }

/-- Only the state of the cores differs, and in it only the context and its core. -/
def OnlyContext (x : CtxId) (s t : State) : Prop :=
  t = { s with core := t.core } ∧ (∀ y, y ≠ x → ctxRec t y = ctxRec s y) ∧
    ∀ c k, ok c k ≠ ok x.c x.k.val → coreRec t c k = coreRec s c k

/-! ### Core instructions -/

/-- The context can issue, and none of the registers named waits for an answer (R159). -/
abbrev Issues (s : State) (x : CtxId) (rs : List MemReg) : Prop := canIssue s x = true ∧ awaited s x rs = false

/-- The 48-bit part of the core's ISSUED counter is not about to wrap (R184, R487). -/
abbrev IssuedRoom (s : State) (x : CtxId) : Prop := (coreRec s x.c x.k.val).issued.toNat % 2 ^ 48 + 1 < 2 ^ 48

/-! ### Requests at their targets -/

/-- Request `q` waits at cluster `c`, which may serve it now: the checks at the target pass and the cluster runs
(R185, R236). -/
abbrev AtTarget (s : State) (id : Nat) (q : Xact) (c : Cl) : Prop :=
  xactOf s id = some q ∧ q.phase = .there ∧ addrCl q.addr = some c ∧ clusterCheck s q c = 0x00 ∧ asleep s c = false ∧
    arithOn s c = true

/-- Request `q` has its answer, status and data, at its requester (R202, R240). -/
abbrev Answered (s : State) (id : Nat) (q : Xact) (st : Byte) (d : List Byte) : Prop :=
  xactOf s id = some q ∧ q.phase = .home st d

/-- The context that an instruction of a core runs in (R159). -/
def issuer : Instr → Option CtxId
  | .integerOp x _ _ _ _ _ | .branch x _ | .scalarFpOp x _ _ _ _ _ _ _ _ _ | .vectorArith x _ _ _ _ _ _ _ _ _ _
  | .vdot x _ _ _ _ _ _ _ | .vcvt x _ _ _ _ _ _ _ _ | .vamax x _ _ _ _ | .fscale x _ _ _ | .vcvts x _ _ _ _ _ _ _ _ _
  | .vbst x _ _ _ _ _ _ _ | .vbld x _ _ _ _ _ _ | .load x _ _ _ _ _ | .store x _ _ _ _ | .ldl x _ _ _ _ | .stl x _ _ _
  | .atomic x _ _ _ _ _ _ _ | .fence x _ _ | .runaheadEnter x _ | .tide x _ | .phase x _ | .rseed x | .vrand x _
  | .iflush x | .brk x | .tret x _ | .halt x | .objrd x _ _ | .objset x _ _ _ | .objadd x _ _ _ | .objcas x _ _ _ _
  | .wait x _ _ _ _ | .barrive x _ _ | .chaccept x _ _ _ | .chopen x _ _ _ | .chsend x _ _ _ | .chrecv x _ _ _
  | .chclose x _ _ | .psub x _ _ => some x
  | _ => none

/-! ### Host commands -/

/-- The fetched command `c` is the one that `k` names, has this opcode, may run now, and passes the checks that
every command meets (R355, R360, R361). -/
def Runs (s : State) (k : CmdKey) (op : Nat) (c : Cmd) : Prop :=
  s.host.cmds.find? (·.key == k) = some c ∧ cmdOp c.raw = op ∧
    ∃ r, cmdRow op = some r ∧ mayRun s r c = true ∧ cmdCheck s r c = 0x00

/-- As `Runs`, of a command whose partition is `p`, with its record. -/
def RunsIn (s : State) (k : CmdKey) (op : Nat) (c : Cmd) (p : Fin 64) (r : PartRec) : Prop :=
  Runs s k op c ∧ cmdTarget s c = some p ∧ partOf s p = some r

/-- A host command with its key, its opcode and the records whose fields are of its form (R363, R364, R368). -/
def hostCommand : Instr → Option (CmdKey × Nat × (BitVec 512 → Bool))
  | .identify k => some (k, 0x0101, anyForm)
  | .getStatus k => some (k, 0x0102, anyForm)
  | .devResetWafer k => some (k, 0x0103, fun r => decide (devKind r ≤ 4))
  | .devResetModuleCompute k => some (k, 0x0103, fun r => devKind r == 5)
  | .devResetModuleFull k => some (k, 0x0103, fun r => devKind r == 6)
  | .devResetCold k => some (k, 0x0103, fun r => devKind r == 7)
  | .partCreate k => some (k, 0x0201, anyForm)
  | .partDelete k => some (k, 0x0202, anyForm)
  | .partSetVf k => some (k, 0x0203, anyForm)
  | .bedsBind k => some (k, 0x0204, fun r => !bedsKind r)
  | .bedsUnbind k => some (k, 0x0204, bedsKind)
  | .setRegionBind k => some (k, 0x0206, regValid)
  | .setRegionFree k => some (k, 0x0206, fun r => !regValid r)
  | .bindPump k => some (k, 0x0207, anyForm)
  | .bindPort k => some (k, 0x0208, anyForm)
  | .setTimeouts k => some (k, 0x0209, anyForm)
  | .resetContext k => some (k, 0x020A, fun r => decide (resetKind r ≤ 1))
  | .resetClusterCompute k => some (k, 0x020A, fun r => resetKind r == 2)
  | .resetPartitionCompute k => some (k, 0x020A, fun r => resetKind r == 3)
  | .barrierCreate k => some (k, 0x020B, anyForm)
  | .barrierDelete k => some (k, 0x020C, anyForm)
  | .fountainCreate k => some (k, 0x020D, anyForm)
  | .fountainDelete k => some (k, 0x020E, anyForm)
  | .partQuery k => some (k, 0x020F, anyForm)
  | .loadImage k => some (k, 0x0301, anyForm)
  | .regWrite k => some (k, 0x0302, anyForm)
  | .regRead k => some (k, 0x0303, anyForm)
  | .memCopy k => some (k, 0x0401, anyForm)
  | .wipe k => some (k, 0x0402, anyForm)
  | .hdmMap k => some (k, 0x0403, anyForm)
  | .hdmUnmap k => some (k, 0x0404, anyForm)
  | .memInfo k => some (k, 0x0405, anyForm)
  | .syncDump k => some (k, 0x0501, anyForm)
  | .arrayDump k => some (k, 0x0502, anyForm)
  | .coreDump k => some (k, 0x0503, anyForm)
  | .deadlockRead k => some (k, 0x0504, anyForm)
  | .powerGet k => some (k, 0x0601, anyForm)
  | .powerSet k => some (k, 0x0602, anyForm)
  | .partPowerGet k => some (k, 0x0603, anyForm)
  | .partPowerSet k => some (k, 0x0604, anyForm)
  | .energyRead k => some (k, 0x0605, anyForm)
  | .clockGet k => some (k, 0x0701, anyForm)
  | .clockSet k => some (k, 0x0702, anyForm)
  | .springSwitch k => some (k, 0x0703, anyForm)
  | .setSeconds k => some (k, 0x0704, anyForm)
  | .ocsalStatus k => some (k, 0x0801, anyForm)
  | .ocsalPortEnable k => some (k, 0x0802, fun r => portOp r == 1)
  | .ocsalPortDisable k => some (k, 0x0802, fun r => portOp r == 0 || portOp r == 3)
  | .ocsalPortRetrain k => some (k, 0x0802, fun r => portOp r == 2)
  | .ocsalRole k => some (k, 0x0803, anyForm)
  | .hallBind k => some (k, 0x0804, fun r => !hallUndo r)
  | .hallUnbind k => some (k, 0x0804, hallUndo)
  | .fwWrite k => some (k, 0x0901, anyForm)
  | .fwCommit k => some (k, 0x0902, anyForm)
  | .fwStatus k => some (k, 0x0903, anyForm)
  | .lcTransition k => some (k, 0x0904, anyForm)
  | .lcStatus k => some (k, 0x0905, anyForm)
  | .numGet k => some (k, 0x0A01, anyForm)
  | .numSet k => some (k, 0x0A02, anyForm)
  | .nanClear k => some (k, 0x0A03, anyForm)
  | .dryMapRead k => some (k, 0x0B01, anyForm)
  | .fenceUnit k => some (k, 0x0B02, anyForm)
  | .routerCounters k => some (k, 0x0B03, anyForm)
  | .fieldPowerRead k => some (k, 0x0B04, anyForm)
  | .memErrorRead k => some (k, 0x0B05, anyForm)
  | _ => none

end Sys2Proof.Machine
end

