-- ==== Sys2Proof/WellFormed.lean ====
section
/-! DEFINITION. Which commands are well formed: operands that no sender could give otherwise. The machine is
total on the rest too; a register value is never checked here, since the rules say what a bad one does. -/

namespace Sys2Proof

/-- A host access size (spec/13_host_and_commands.md R351). -/
def busSize (n : Nat) : Bool := n == 1 || n == 2 || n == 4 || n == 8

/-- A register file has loads and stores of this size (spec/06_cores.md R167). -/
def regSize (r : MemReg) (n : Nat) : Bool :=
  match r with
  | .x _ => busSize n
  | .f _ => n == 4 || n == 8
  | .v _ => n == 32

/-- A format code that is not reserved (spec/02_number_formats.md R27, R28). -/
def fmtKnown (f : Fmt) : Bool :=
  let c := f.toNat
  (decide (1 ≤ c) && decide (c ≤ 0x0D)) || (decide (0x10 ≤ c) && decide (c ≤ 0x15)) || c == 0x18 || c == 0x19

/-- A packet's payload fits its length field (spec/16_ocsal_fabric.md R419). -/
def pktFits (p : OcsalPkt) : Bool := decide (p.len.toNat ≤ 256) && decide (p.payload.length ≤ 256)

/-- A link width (spec/13_host_and_commands.md R348). -/
def linkWidth (n : Nat) : Bool := n == 1 || n == 2 || n == 4 || n == 8

/-- A list of units names each at most once. -/
def distinct {α : Type} [DecidableEq α] (l : List α) : Bool := decide l.Nodup

/-- The command is well formed. -/
def Instr.wf : Instr → Bool
  | .registerWrite (.space4 _ _ size _) => busSize size
  | .registerWrite (.bar0 _ off size _) => busSize size && decide (off + size ≤ 0x10000)
  | .load _ dst _ _ size _ => regSize dst size.val
  | .store _ src _ _ size => regSize src size.val
  | .ldl _ dst _ size _ => regSize dst size.val
  | .stl _ src _ size => regSize src size.val
  | .vcvt _ _ _ a b _ _ _ _ => fmtKnown a && fmtKnown b
  | .vcvts _ _ _ _ a b _ _ _ _ => fmtKnown a && fmtKnown b
  | .vbst _ _ _ _ a b _ _ => fmtKnown a && fmtKnown b
  | .vbld _ _ _ _ a b _ => fmtKnown a && fmtKnown b
  | .cxlMemRead _ hpa => hpa % 64 == 0
  | .cxlMemWrite _ hpa _ => hpa % 64 == 0
  | .cxlLinkTrained _ l => linkWidth l.width.val && l.hdm.base % 2 ^ 28 == 0
  | .ocsalPacketArrive _ pkt => pktFits pkt
  | .nodeUnlocked fields => distinct fields
  | .islandPllLocked failed => distinct failed
  | .ageingReplan plan => distinct (plan.map fun e => e.1)
  | .recoveryImage image => decide (image.length ≤ 2 ^ 28)
  | _ => true

end Sys2Proof
end

