-- ==== Sys2Proof/Certificates/Slice0/Obligations.lean ====
section
/-! DEFINITION. The statements for the provers: one proposition per family of commands or kind of state, with the rules of
spec/ it follows, and the invariants of the block. -/

open Sys2Proof Sys2Proof.Machine

/-! ### The block as a whole -/

/-- A step takes the command at the front of the queue and runs it with the queue's rest; on an empty queue the
block ticks. Every command answers a next state in every state, and none is refused. -/
def Obligations.StepRunsFrontCommand : Prop :=
  (∀ (s : State) (c : Instr) (rest : List Instr), s.pending = c :: rest → step s = exec c { s with pending := rest }) ∧
  (∀ s : State, s.pending = [] → step s = .next (tick s)) ∧
  (∀ (c : Instr) (s : State), ∃ t, exec c s = .next t)

/-- The memories of the block after reset, when no byte has been written, have the canonical form, and every byte
reads 0 (the model's choice: DESIGN CHOICE, log entry 14). -/
def Obligations.ResetMemoryCanonical : Prop :=
  MemoryCanonical State.reset ∧ State.reset.pending = [] ∧
    ∀ a n : Nat, readBytes State.reset.mem.sram a n = List.replicate n 0 ∧ readBytes State.reset.mem.stack a n = List.replicate n 0

/-- Every step keeps the canonical form of every memory: the addresses of the bytes listed rise strictly and no byte
listed is 0, so that equal memories are equal data. -/
def Obligations.StepKeepsMemoryCanonical : Prop :=
  ∀ s t : State, MemoryCanonical s → step s = .next t → MemoryCanonical t

/-- R12: cluster c(cx,cy) lies in field f(cx div 12, cy div 16), at field-local position (cx mod 12, cy mod 16). -/
def Obligations.ClusterLiesInItsField : Prop :=
  (∀ c : Cl, (fieldOf c).val = 48 * c.w.val + 8 * (c.y.val / 16) + c.x.val / 12) ∧
  (∀ c : Cl, (fieldClusters (fieldOf c))[12 * (c.y.val % 16) + c.x.val % 12]? = some c) ∧
  (∀ (c : Cl) (f : Fin 192), c ∈ fieldClusters f ↔ fieldOf c = f)

/-- R13: bed b(bx,by) holds clusters c(4bx…4bx+3, 4by…4by+3), lies wholly within one field, and each field holds
exactly 12 beds in 3 columns of 4; so a field that goes dark removes whole beds. -/
def Obligations.BedsLieInFields : Prop :=
  (∀ (w : Fin 4) (bx by_ : Fin 24) (c : Cl), c ∈ bedClusters (576 * w.val + 24 * by_.val + bx.val) ↔
    c.w = w ∧ 4 * bx.val ≤ c.x.val ∧ c.x.val ≤ 4 * bx.val + 3 ∧ 4 * by_.val ≤ c.y.val ∧ c.y.val ≤ 4 * by_.val + 3) ∧
  (∀ b, b < 2304 → (bedClusters b).length = 16 ∧ ∀ c ∈ bedClusters b, ∀ d ∈ bedClusters b, fieldOf c = fieldOf d) ∧
  (∀ (w v : Fin 4) (bx by_ : Fin 24) (fx : Fin 8) (fy : Fin 6) (f : Fin 192), f.val = 48 * v.val + 8 * fy.val + fx.val →
    ((∃ c ∈ bedClusters (576 * w.val + 24 * by_.val + bx.val), fieldOf c = f) ↔
      w = v ∧ 3 * fx.val ≤ bx.val ∧ bx.val ≤ 3 * fx.val + 2 ∧ 4 * fy.val ≤ by_.val ∧ by_.val ≤ 4 * fy.val + 3)) ∧
  (∀ (b : Nat) (f : Fin 192), b < 2304 → ((∃ c ∈ bedClusters b, c ∈ fieldClusters f) ↔ ∀ c ∈ bedClusters b, c ∈ fieldClusters f))

/-- R9: an access to space 7 or 9 to F, or with a non-zero bit outside its space's layout, completes with BAD_PARAM,
whether a unit's request, a request of another module, a register access or the memory of a command; no memory is
read or written for it but what an event writes to the host's queue. -/
def Obligations.AccessesOutsideTheLayout : Prop :=
  (∀ a : Word, (addrSpace a = 7 ∨ 9 ≤ addrSpace a) → layoutOk a = false) ∧
  (∀ a : Word, let n := a.toNat
    ((addrSpace a = 0 ∧ fld n 42 10 ≠ 0) ∨
     ((addrSpace a = 1 ∨ addrSpace a = 2 ∨ addrSpace a = 3 ∨ addrSpace a = 5 ∨ addrSpace a = 6) ∧ fld n 38 14 ≠ 0) ∨
     ((addrSpace a = 2 ∨ addrSpace a = 3) ∧ bit n 21 = true) ∨ (addrSpace a = 4 ∧ (fld n 39 13 ≠ 0 ∨ (bit n 38 = true ∧ fld n 22 16 ≠ 0))) ∨
     (addrSpace a = 5 ∧ fld n 13 9 ≠ 0) ∨ (addrSpace a = 6 ∧ fld n 20 2 ≠ 0)) → layoutOk a = false) ∧
  (∀ (who : Requester) (p : Option (Fin 64)) (k : ReqKind) (a : Word) (len : Nat) (d : List Byte) (op : Word) (sat ra : Bool)
    (src : Cl) (use : Use) (s : State), layoutOk a = false →
    ∃ q : Xact, q.id = s.net.nextId ∧ q.addr = a ∧ q.use = use ∧ q.phase = .home 0x03 [] ∧
      issueReq who p k a len d op sat ra src use s = { s with net := { s.net with xacts := s.net.xacts ++ [q], nextId := s.net.nextId + 1 } }) ∧
  (∀ (port : Fin 16) (pkt : OcsalPkt) (k : ReqKind) (s : State), layoutOk pkt.addr = false →
    let data : List Byte := match k with | .object _ => [0, 0, 0, 0] | _ => []
    ∃ q : Xact, q.kind = k ∧ q.addr = pkt.addr ∧
      remoteIn port pkt k s = replyOut q pkt.src pkt.part port (pkt.portTag.toNat + 4096 * pkt.srcPort.val) 0x03 data s ∧
      { (remoteIn port pkt k s).mem with host := s.mem.host } = s.mem) ∧
  (∀ (who : Requester) (a : Word) (size : Nat) (v : Word) (p : Fin 64) (s : State), layoutOk a = false →
    spaceWrite who a size v s = { s with ioReply := 0x03 } ∧ memCheck s p a = 0x03)

/-! ### Cores -/

/-- What retiring an instruction does: CTX_PC moves to the next word and ISSUED counts one; every register of the
context, every other context and core, and everything else stays as it was. A write of an integer register before it
shows in that register alone, and a write of x0 in none. An instruction whose context cannot issue changes nothing
(R158, R159, R176). With it the result statements of the core instructions carry their frames. -/
def Obligations.RetireAndRegisterWriteFrame : Prop :=
  (∀ (s : State) (x : CtxId) (i : Instr), issuer i = some x → canIssue s x = false → exec i s = .next s) ∧
  (∀ (s : State) (x : CtxId), IssuedRoom s x →
    OnlyContext x s (retire x s) ∧
    ctxRec (retire x s) x = { ctxRec s x with pc := (ctxRec s x).pc + 4 } ∧
    coreRec (retire x s) x.c x.k.val =
      { coreRec s x.c x.k.val with issued := (coreRec s x.c x.k.val).issued + 1 }) ∧
  (∀ (s : State) (x : CtxId) (rd i : Reg) (v : Word),
    OnlyContext x s (wx x rd v s) ∧ xr (wx x rd v s) x 0 = 0 ∧
    xr (wx x rd v s) x i = (if i = rd ∧ i ≠ 0 then v else xr s x i) ∧
    (ctxRec (wx x rd v s) x).f = (ctxRec s x).f ∧ (ctxRec (wx x rd v s) x).v = (ctxRec s x).v ∧
    (ctxRec (wx x rd v s) x).m = (ctxRec s x).m ∧ (ctxRec (wx x rd v s) x).pc = (ctxRec s x).pc) ∧
  (∀ (s : State) (x : CtxId) (vd i : Reg) (v : BitVec 256),
    OnlyContext x s (wv x vd v s) ∧ vr (wv x vd v s) x i = (if i = vd then v else vr s x i) ∧
    (ctxRec (wv x vd v s) x).x = (ctxRec s x).x ∧ (ctxRec (wv x vd v s) x).f = (ctxRec s x).f ∧
    (ctxRec (wv x vd v s) x).m = (ctxRec s x).m ∧ (ctxRec (wv x vd v s) x).pc = (ctxRec s x).pc)

/-- INTEGER_OP: where the context issues and no divisor is zero, the instruction completes with its result in rd (x0
discards it) and the next address, and a numeric INT32 result that saturated is reported; a zero divisor takes
INT_DIV0. The address and control operations wrap; the INT32 ones take the low halves, saturate and sign-extend;
quotients are truncated toward zero; a comparison gives 1 or 0 (R46, R167, R168, R171). A shift by the width or more
gives the model's free value of the operands (log entry 23), which is not told here. BRANCH: a conditional branch
goes to its target where its condition holds and to the next word where it does not, and moves its predictor
counter; a jump goes to its target; a call writes the address of the next word to rd and pushes it on the context's
return stack of 8; an indirect jump, an indirect call and a return go to the low 48 bits of ra, and a return pops
the stack (R168, R496). -/
def Obligations.IntegerAndBranchResults : Prop :=
  ((∀ (s : State) (x : CtxId) (op : IntOp) (rd ra : Reg) (b : Src2), Issues s x ([.x rd, .x ra] ++ src2Regs b) →
    (divZero op false (src2 s x b) = false →
      exec (.integerOp x op false rd ra b) s = .next (retire x (wx x rd (int64 op (xr s x ra) (src2 s x b)).v s))) ∧
    (divZero op true (src2 s x b) = false → let r := int32 op (xr s x ra) (src2 s x b)
      exec (.integerOp x op true rd ra b) s =
        .next (retire x (wx x rd r.v (if r.ovf then coreReport x false 0x0D [⟨0, true, 0⟩] s else s)))) ∧
    (∀ num32 : Bool, divZero op num32 (src2 s x b) = true →
      exec (.integerOp x op num32 rd ra b) s = .next (trapHere x 0x07 0 0 s))) ∧
  (∀ a b : Word, (∀ op, divZero op false b = true ↔ (op = .div ∨ op = .rem) ∧ b = 0) ∧
    (∀ op, divZero op true b = true ↔ (op = .div ∨ op = .rem) ∧ b.setWidth 32 = 0#32)) ∧
  (∀ a b : Word, let v := fun op => (int64 op a b).v
    v .add = a + b ∧ v .sub = a - b ∧ v .mul = a * b ∧ v .and = a &&& b ∧ v .or = a ||| b ∧ v .xor = a ^^^ b ∧
    (b.toNat < 64 → v .shl = a <<< b.toNat ∧ v .shr = a >>> b.toNat ∧ v .sar = a.sshiftRight b.toNat) ∧
    v .eq = (if a = b then 1 else 0) ∧ v .ne = (if a = b then 0 else 1) ∧
    v .lt = (if a.toInt < b.toInt then 1 else 0) ∧ v .ge = (if b.toInt ≤ a.toInt then 1 else 0) ∧
    v .ltu = (if a.toNat < b.toNat then 1 else 0) ∧ v .geu = (if b.toNat ≤ a.toNat then 1 else 0) ∧
    v .div = BitVec.ofInt 64 (a.toInt.tdiv b.toInt) ∧ v .rem = BitVec.ofInt 64 (a.toInt.tmod b.toInt)) ∧
  (∀ a b : Word, let x := a.setWidth 32
    let y := b.setWidth 32
    let v := fun op => (int32 op a b).v
    let is := fun op (i : Int) => int32 op a b =
      ⟨BitVec.ofInt 64 (max (-2 ^ 31) (min (2 ^ 31 - 1) i)), decide (i < -2 ^ 31 ∨ 2 ^ 31 - 1 < i)⟩
    is .add (x.toInt + y.toInt) ∧ is .sub (x.toInt - y.toInt) ∧ is .mul (x.toInt * y.toInt) ∧
    is .div (x.toInt.tdiv y.toInt) ∧ is .rem (x.toInt.tmod y.toInt) ∧
    v .and = (x &&& y).signExtend 64 ∧ v .or = (x ||| y).signExtend 64 ∧ v .xor = (x ^^^ y).signExtend 64 ∧
    (y.toNat < 32 → is .shl (x.toInt * 2 ^ y.toNat) ∧ v .shr = (x >>> y.toNat).signExtend 64 ∧
      v .sar = (x.sshiftRight y.toNat).signExtend 64) ∧
    v .eq = (if x = y then 1 else 0) ∧ v .ne = (if x = y then 0 else 1) ∧
    v .lt = (if x.toInt < y.toInt then 1 else 0) ∧ v .ge = (if y.toInt ≤ x.toInt then 1 else 0) ∧
    v .ltu = (if x.toNat < y.toNat then 1 else 0) ∧ v .geu = (if y.toNat ≤ x.toNat then 1 else 0) ∧
    ∀ op, op ≠ .add → op ≠ .sub → op ≠ .mul → op ≠ .div → op ≠ .rem → op ≠ .shl → (int32 op a b).ovf = false)) ∧
  (∀ (s : State) (x : CtxId), let pc := (ctxRec s x).pc
    (∀ (c : BrCond) (ra rb : Reg) (target : BitVec 48), Issues s x [.x ra, .x rb] →
      exec (.branch x (.cond c ra rb target)) s =
        .next (jumpTo x (if brTaken c (xr s x ra) (xr s x rb) then target else pc + 4)
          (trainPredictor x pc (brTaken c (xr s x ra) (xr s x rb)) s))) ∧
    (∀ target : BitVec 48, Issues s x [] → exec (.branch x (.jump target)) s = .next (jumpTo x target s)) ∧
    (∀ (rd : Reg) (target : BitVec 48), Issues s x [.x rd] →
      exec (.branch x (.call rd target)) s = .next (jumpTo x target (wx x rd ((pc + 4).setWidth 64) (pushRet x s)))) ∧
    (∀ rd ra : Reg, Issues s x [.x rd, .x ra] →
      exec (.branch x (.callInd rd ra)) s =
        .next (jumpTo x ((xr s x ra).setWidth 48) (wx x rd ((pc + 4).setWidth 64) (pushRet x s)))) ∧
    (∀ ra : Reg, Issues s x [.x ra] →
      exec (.branch x (.ret ra)) s =
        .next (jumpTo x ((xr s x ra).setWidth 48) (updCtx x (fun r => { r with rets := r.rets.drop 1 }) s))) ∧
    (∀ ra : Reg, Issues s x [.x ra] → exec (.branch x (.jumpInd ra)) s = .next (jumpTo x ((xr s x ra).setWidth 48) s)) ∧
    (ctxRec (pushRet x s) x).rets = ((pc + 4) :: (ctxRec s x).rets).take 8)

/-- SCALAR_FP_OP: a format the unit lacks takes ILLEGAL, two formats FORMAT_MISMATCH; else a compare writes 1 or 0
to the integer register, and any other operation writes its exact result, rounded once: an FP64 result to the
floating-point register, an FP32 one to its lower half, the upper a free value (log entry 162), an INT32 one
sign-extended to the integer register. A conversion follows the table of conversions, and a NaN it loses is counted
(R44, R45, R55, R60, R168). The vector instructions. VECTOR_ARITH: a format refused, or a move of a lane that is not
there, takes ILLEGAL, two formats FORMAT_MISMATCH; an arithmetic operation writes the unmasked lanes of vd, keeps
the others and reports the unmasked; a compare writes the mask bits of the unmasked lanes; a move writes one lane if
it is unmasked; a select takes each lane from va or vb by its mask bit; a sum adds the unmasked lanes, rounded once.
VDOT adds each group's exact dot product to its accumulator lane with one rounding. VAMAX writes the largest
magnitude of the unmasked lanes or NaN, FSCALE two to the row exponent or NaN. VCVT and VCVTS convert the elements
that the part selects, each unmasked one with the draw of its place if GRAD is set, and keep the rest; VCVTS first
divides by two to the row exponent. An FP32 result leaves the upper half of its register free (R44, R163, R164,
R166, R495; log entry 162). -/
def Obligations.FloatingAndVectorResults : Prop :=
  ((∀ (s : State) (x : CtxId) (op : FpOp) (fa fb fc : Fmt) (rd ra rb rc : Reg) (sat : Bool),
    Issues s x (scalarRegs op fa fb fc rd ra rb rc) →
    let unfit : Bool := !scalarFmtOk op fa || (1 < fpArity op && !scalarFmtOk op fb) || (2 < fpArity op && !scalarFmtOk op fc)
    let mixed : Bool := (1 < fpArity op && fb != fa) || (2 < fpArity op && fc != fa)
    let a := scalarSrc s x fa ra
    let b := scalarSrc s x fb rb
    let c := scalarSrc s x fc rc
    (unfit = true → exec (.scalarFpOp x op fa fb fc rd ra rb rc sat) s = .next (illegal x s)) ∧
    (unfit = false → mixed = true → exec (.scalarFpOp x op fa fb fc rd ra rb rc sat) s = .next (mismatch x fa s)) ∧
    (unfit = false → mixed = false → ∀ k, fpCmp op = some k →
      exec (.scalarFpOp x op fa fb fc rd ra rb rc sat) s = .next (retire x (wx x rd (if condV k a b then 1 else 0) s))) ∧
    (unfit = false → mixed = false → fpCmp op = none → (∀ d, op ≠ .cvt d) →
      let n := (fpExact op a b c).finish (eFmt fa) sat
      let u := coreReport x false fa.toNat [n] s
      (fa = 9 → exec (.scalarFpOp x op fa fb fc rd ra rb rc sat) s =
        .next (retire x (updCtx x (fun r => r.writeF rd (BitVec.ofNat 64 n.code)) u))) ∧
      (fa = 8 → ∃ half : Word, exec (.scalarFpOp x op fa fb fc rd ra rb rc sat) s =
        .next (retire x (updCtx x (fun r => r.writeF rd (BitVec.ofNat 64 (half.toNat / 2 ^ 32 * 2 ^ 32 + n.code % 2 ^ 32)))
          { u with freeCount := u.freeCount + 1 })))) ∧
    (∀ d : Fmt, op = .cvt d → unfit = false →
      let k := convertVal (eFmt d) sat none a
      let u := lostNan x.c (if d == 0xD && a.isNan then 1 else 0) (coreReport x false fa.toNat [⟨k.code, k.ovf, 0⟩] s)
      (d = 0xD → exec (.scalarFpOp x op fa fb fc rd ra rb rc sat) s =
        .next (retire x (wx x rd ((BitVec.ofNat 32 k.code).signExtend 64) u))) ∧
      (d = 9 → exec (.scalarFpOp x op fa fb fc rd ra rb rc sat) s =
        .next (retire x (updCtx x (fun r => r.writeF rd (BitVec.ofNat 64 k.code)) u))) ∧
      (d = 8 → ∃ half : Word, exec (.scalarFpOp x op fa fb fc rd ra rb rc sat) s =
        .next (retire x (updCtx x (fun r => r.writeF rd (BitVec.ofNat 64 (half.toNat / 2 ^ 32 * 2 ^ 32 + k.code % 2 ^ 32)))
          { u with freeCount := u.freeCount + 1 }))))) ∧
  (∀ a b c : Val, fpExact .add a b c = addV a b ∧ fpExact .sub a b c = subV a b ∧ fpExact .mul a b c = mulV a b ∧
    fpExact .fma a b c = fmaV a b c ∧ fpExact .div a b c = divV a b ∧ fpExact .sqrt a b c = sqrtV a ∧
    fpExact .min a b c = ⟨minmaxV false a b, 0⟩ ∧ fpExact .max a b c = ⟨minmaxV true a b, 0⟩)) ∧
  ((∀ (s : State) (x : CtxId) (op : VOp) (fa fb fc : Fmt) (vd va vb vc : Reg) (m : Fin 8) (sat : Bool),
    Issues s x (vecRegs op vd va vb vc) →
    let f := fa.toNat
    let n := elemsPerToken f
    let r := ctxRec s x
    let mask := r.readM m
    let unfit : Bool := !vecFmtOk fa || (1 < vArity op && !vecFmtOk fb) || (2 < vArity op && !vecFmtOk fc)
    let mixed : Bool := (1 < vArity op && fb != fa) || (2 < vArity op && fc != fa)
    (unfit = true → exec (.vectorArith x op fa fb fc vd va vb vc m sat) s = .next (illegal x s)) ∧
    (unfit = false → mixed = true → exec (.vectorArith x op fa fb fc vd va vb vc m sat) s = .next (mismatch x fa s)) ∧
    (unfit = false → mixed = false →
      (op = .add ∨ op = .sub ∨ op = .mul ∨ op = .fma ∨ op = .min ∨ op = .max ∨ op = .abs →
        let ns := (List.range n).map fun i => (vExact op ((vVals f r.v[va]).getD i .nan) ((vVals f r.v[vb]).getD i .nan)
          ((vVals f r.v[vc]).getD i .nan)).finish (eFmt fa) sat
        exec (.vectorArith x op fa fb fc vd va vb vc m sat) s = .next (retire x (wv x vd (mergeLanes f mask r.v[vd] (ns.map (·.code)))
          (coreReport x true f (unmasked mask ns) s)))) ∧
      (∀ k, vCmp op = some k → ∃ w : BitVec 32, exec (.vectorArith x op fa fb fc vd va vb vc m sat) s =
          .next (retire x (updCtx x (fun r => r.writeM (Fin.ofNat 8 vd.val) w) s)) ∧
        ∀ i, i < 32 → w.getLsbD i = if i < n ∧ mask.getLsbD i = true then condV k ((vVals f r.v[va]).getD i .nan)
          ((vVals f r.v[vb]).getD i .nan) else (r.readM (Fin.ofNat 8 vd.val)).getLsbD i) ∧
      (∀ i j, op = .move i j → (n ≤ i ∨ n ≤ j → exec (.vectorArith x op fa fb fc vd va vb vc m sat) s = .next (illegal x s)) ∧
        (i < n → j < n → exec (.vectorArith x op fa fb fc vd va vb vc m sat) s = .next (retire x (if mask.getLsbD j then
          wv x vd (mergeLanes f (1 <<< j) r.v[vd] (List.replicate n ((vCodes f r.v[va]).getD i 0))) s else s)))) ∧
      (op = .sel → exec (.vectorArith x op fa fb fc vd va vb vc m sat) s = .next (retire x (wv x vd (mergeLanes f mask r.v[vd]
        ((List.range n).map fun i => if (r.readM (Fin.ofNat 8 vc.val)).getLsbD i then (vCodes f r.v[va]).getD i 0
          else (vCodes f r.v[vb]).getD i 0)) s))) ∧
      (op = .sum → let q := (sumV (unmasked mask (vVals f r.v[va]))).finish (eFmt (BitVec.ofNat 5 (sumFmt f))) sat
        exec (.vectorArith x op fa fb fc vd va vb vc m sat) s = .next (retire x (wf x vd false q.code (coreReport x true f [q] s)))))) ∧
  (∀ (s : State) (x : CtxId) (fa fb : Fmt) (vd va vb : Reg) (m : Fin 8) (sat : Bool), Issues s x [.v vd, .v va, .v vb] →
    let ok (f : Fmt) : Bool := [4, 5, 6, 7, 0xB].contains f.toNat
    let f := fa.toNat
    let r := ctxRec s x
    let acc := if f = 0xB then 0xD else 8
    let ns := (List.range 8).map fun j => (dotAdd ((((vVals f r.v[va]).zip (vVals f r.v[vb])).drop (dotGroup f * j)).take (dotGroup f))
      ((vVals acc r.v[vd]).getD j .nan)).finish (eFmt (BitVec.ofNat 5 acc)) sat
    (ok fa = false ∨ ok fb = false → exec (.vdot x fa fb vd va vb m sat) s = .next (illegal x s)) ∧
    (ok fa = true → ok fb = true → fa ≠ fb → exec (.vdot x fa fb vd va vb m sat) s = .next (mismatch x fa s)) ∧
    (ok fa = true → fa = fb → exec (.vdot x fa fb vd va vb m sat) s = .next (retire x (wv x vd
      (mergeLanes acc (r.readM m) r.v[vd] (ns.map (·.code))) (coreReport x true f (unmasked (r.readM m) ns) s))))) ∧
  (∀ (ps : List (Val × Val)) (acc : Val), (acc.isNan = true → dotAdd ps acc = ⟨.nan, 0⟩) ∧
    (acc.isNan = false → (dotV ps).cause = 0 → dotAdd ps acc = addV (dotV ps).v acc) ∧
    (acc.isNan = false → (dotV ps).cause ≠ 0 → dotAdd ps acc = dotV ps)) ∧
  (∀ (s : State) (x : CtxId) (fd vs : Reg) (f : Fmt) (m : Fin 8), Issues s x [.f fd, .v vs] →
    let r := ctxRec s x
    let a := (unmasked (r.readM m) (vVals f.toNat r.v[vs])).foldl (fun a v => minmaxV true a v.abs) (.zero false)
    (vecFmtOk f = false → exec (.vamax x fd vs f m) s = .next (illegal x s)) ∧
    (vecFmtOk f = true → exec (.vamax x fd vs f m) s = .next (retire x (wf x fd false (a.finish (.flt fp32)).code s)))) ∧
  (∀ (s : State) (x : CtxId) (fd fa : Reg) (out : Fmt), Issues s x [.f fd, .f fa] →
    (scaleFmtOk out = false → exec (.fscale x fd fa out) s = .next (illegal x s)) ∧
    (scaleFmtOk out = true → exec (.fscale x fd fa out) s = .next (retire x (wf x fd false
      ((if (amaxOf s x fa).isNan then Val.nan else .fin false 1 (rowExp (eFmt out) (amaxOf s x fa))).finish (.flt fp32)).code s)))) ∧
  (∀ (s : State) (x : CtxId) (vd vs : Reg) (src dst : Fmt) (sat grad : Bool) (m : Fin 8) (part : BitVec 3),
    Issues s x [.v vd, .v vs] →
    (cvtFmtOk src = false ∨ cvtFmtOk dst = false → exec (.vcvt x vd vs src dst sat grad m part) s = .next (illegal x s)) ∧
    (cvtFmtOk src = true → cvtFmtOk dst = true → exec (.vcvt x vd vs src dst sat grad m part) s =
      .next (vConvert x vd vs src.toNat dst.toNat 0 false sat grad m part.toNat s))) ∧
  (∀ (s : State) (x : CtxId) (vd vs fa : Reg) (src dst : Fmt) (sat grad : Bool) (m : Fin 8) (part : BitVec 3),
    Issues s x [.v vd, .v vs, .f fa] →
    (cvtFmtOk src = false ∨ scaleFmtOk dst = false → exec (.vcvts x vd vs fa src dst sat grad m part) s = .next (illegal x s)) ∧
    (cvtFmtOk src = true → scaleFmtOk dst = true → exec (.vcvts x vd vs fa src dst sat grad m part) s =
      .next (vConvert x vd vs src.toNat dst.toNat (rowExp (eFmt dst) (amaxOf s x fa)) true sat grad m part.toNat s))) ∧
  (∀ (s : State) (x : CtxId) (vd vs : Reg) (src dst p : Nat) (e : Int) (scaled sat grad : Bool) (m : Fin 8),
    (cvtMap (elemsPerToken src) (elemsPerToken dst) p = none → vConvert x vd vs src dst e scaled sat grad m p s = illegal x s) ∧
    (∀ s0 d0 n, cvtMap (elemsPerToken src) (elemsPerToken dst) p = some (s0, d0, n) →
      let r := ctxRec s x
      let on := (List.range n).filter fun i => dstMask dst (r.readM m) (d0 + i)
      let draws := (coreDraws x grad on.length s).1
      let y := fun i => ((vVals src r.v[vs]).getD (s0 + i) .nan).scale (-e)
      ∃ u : State, OnlyReports { s with core := u.core } u ∧ ctxRec u x = r ∧
        vConvert x vd vs src dst e scaled sat grad m p s = retire x (wv x vd (BitVec.ofNat 256 (pack (fmtBits dst)
          ((List.range (elemsPerToken dst)).map fun i => if d0 ≤ i ∧ i - d0 ∈ on then
            (convertVal (eFmt (BitVec.ofNat 5 dst)) sat (drawAt draws (on.idxOf (i - d0))) (y (i - d0))).code
            else (vCodes dst r.v[vd]).getD i 0))) u))))

/-- The minimum and the maximum return NaN if either operand is NaN and order −0 below +0; comparisons with NaN are
false but for not-equal, and +0 equals −0; a sum of zeros of opposite signs is +0 (R49, R50). A block with a NaN
among its inputs is a NaN block: scale code 0xFF, shift byte 0, element codes 0, nothing counted as underflow or
overflow, and every element decodes to NaN (R38). A block of zeros gets scale code and shift byte 0 and counts no
underflow and no overflow (R40). -/
def Obligations.NanAndZeroRules : Prop :=
  ((∀ (mx : Bool) (v : Val), minmaxV mx .nan v = .nan ∧ minmaxV mx v .nan = .nan) ∧
  (∀ a b : Bool, minmaxV false (.zero a) (.zero b) = .zero (a || b) ∧ minmaxV true (.zero a) (.zero b) = .zero (a && b)) ∧
  (∀ (c : Nat) (v : Val), c < 6 → (condV c .nan v = true ↔ c = 3) ∧ (condV c v .nan = true ↔ c = 3)) ∧
  (∀ a b : Bool, condV 2 (.zero a) (.zero b) = true) ∧
  (∀ a : Bool, (addV (.zero a) (.zero !a)).v = .zero false)) ∧
  ((∀ (b : BFmt) (sat : Bool) (draws : Option (List Nat)) (xs : List Val), (∃ v ∈ xs, v = .nan) →
    encodeBlock b sat draws xs = ⟨0xFF, 0, xs.map fun _ => 0, 0, 0⟩ ∧
    b.decodeBlock (b.blockNat (encodeBlock b sat draws xs)) = List.replicate 32 .nan) ∧
  (∀ (b : BFmt) (sat : Bool) (draws : Option (List Nat)) (signs : List Bool),
    encodeBlock b sat draws (signs.map Val.zero) = ⟨0, 0, signs.map b.elem.zeroCode, 0, 0⟩))

/-- The system instructions: TIDE writes the cluster's local tide to rd; PHASE stores its operand where it is 0 or 4
to 16 and otherwise takes ILLEGAL; RSEED seeds the core's generator anew from the partition's seed; VRAND fills vd
with four successive words of the generator; IFLUSH empties the core's instruction cache; BRK completes and then
takes the BREAK trap; TRET in a handler leaves it and goes to the address in rn, and outside one takes ILLEGAL; HALT
waits while a store or atomic of the context is unanswered, and then leaves it IDLE (R155, R168-R172, R182). Taking
a trap. A READY or WAITING context: the record is written with cause, status, format, address and the instruction's
own address, the registers keep their values, a wait or a blocked send ends, run-ahead ends with its entries
discarded, and memory, the requests under way and every other context are as before; outside a handler, with
TRAP_VECTOR set, it goes on there in the handler; any other stops at the address to resume at, and notifies the
object of TRAP_NOTIFY where NOTIFY is set. An IDLE context, and one stopped by a trap, take none (R171, R172, R175). -/
def Obligations.SystemInstructionsAndTraps : Prop :=
  ((∀ (s : State) (x : CtxId) (rd : Reg), Issues s x [.x rd] →
    exec (.tide x rd) s = .next (retire x (wx x rd (localTide s x.c) s))) ∧
  (∀ (s : State) (x : CtxId) (k : BitVec 5), Issues s x [] →
    (k = 0 ∨ (4 ≤ k.toNat ∧ k.toNat ≤ 16) →
      exec (.phase x k) s = .next (retire x (setCore x.c x.k.val { coreRec s x.c x.k.val with hint := k } s))) ∧
    (¬ (k = 0 ∨ (4 ≤ k.toNat ∧ k.toNat ≤ 16)) → exec (.phase x k) s = .next (illegal x s))) ∧
  (∀ (s : State) (x : CtxId) (p : Fin 64), Issues s x [] → owner s x.c = some p →
    let r := coreRec s x.c x.k.val
    exec (.rseed x) s = .next (retire x (setCore x.c x.k.val
      { r with gen := Gen.seed (numBlock s p).seedBase (coreUnit x.c x.k.val) (r.act + 1), act := r.act + 1 } s))) ∧
  (∀ (s : State) (x : CtxId) (vd : Reg), Issues s x [.v vd] →
    let r := coreRec s x.c x.k.val
    exec (.vrand x vd) s = .next (retire x (wv x vd
      (mix (r.gen.ctr + 3) r.gen.key ++ mix (r.gen.ctr + 2) r.gen.key ++ mix (r.gen.ctr + 1) r.gen.key ++ mix r.gen.ctr r.gen.key)
      (setCore x.c x.k.val { r with gen := { r.gen with ctr := r.gen.ctr + 4 } } s)))) ∧
  (∀ (s : State) (x : CtxId), Issues s x [] →
    exec (.iflush x) s = .next (retire x (setCore x.c x.k.val { coreRec s x.c x.k.val with lines := [], badLines := [] } s))) ∧
  (∀ (s : State) (x : CtxId), Issues s x [] → let pc := (ctxRec s x).pc
    exec (.brk x) s = .next (takeTrap x 0x08 0x00 0 pc 0 (pc + 4) (retire x s))) ∧
  (∀ (s : State) (x : CtxId) (rn : Reg), Issues s x [.x rn] →
    ((ctxRec s x).inTrap = true →
      exec (.tret x rn) s = .next (jumpTo x ((xr s x rn).setWidth 48) (updCtx x (fun r => { r with inTrap := false }) s))) ∧
    ((ctxRec s x).inTrap = false → exec (.tret x rn) s = .next (illegal x s))) ∧
  (∀ (s : State) (x : CtxId), Issues s x [] →
    ((∀ t ∈ myXacts s x, t.use.isStore = false ∧ t.use.isAtomic = false) →
      exec (.halt x) s = .next (updCtx x (fun r => { r with state := .idle }) (retire x s))) ∧
    ((∃ t ∈ myXacts s x, t.use.isStore = true ∨ t.use.isAtomic = true) → exec (.halt x) s = .next s))) ∧
  (∀ (s : State) (x : CtxId) (cause st : Byte) (fmt : BitVec 5) (tpc resume : BitVec 48) (addr : Word),
    let r := ctxRec s x
    let k := coreRec s x.c x.k.val
    let t := takeTrap x cause st fmt tpc addr resume s
    let u := ctxRec t x
    (r.state = .ready ∨ r.state = .waiting →
      u.cause = cause ∧ u.causeStatus = st ∧ u.causeFormat = fmt ∧ u.trapPc = tpc ∧ u.trapAddr = addr ∧
      u.x = r.x ∧ u.f = r.f ∧ u.v = r.v ∧ u.m = r.m ∧ u.vector = r.vector ∧ u.entries = [] ∧ u.runahead = false ∧
      u.wait = none ∧ u.held = none ∧ t.mem.sram = s.mem.sram ∧ t.mem.stack = s.mem.stack ∧ t.net = s.net ∧
      (∀ y, y ≠ x → ctxRec t y = ctxRec s y) ∧
      (r.inTrap = false → r.vector ≠ 0 → u.state = .ready ∧ u.inTrap = true ∧ u.pc = r.vector ∧
        t.sync = (unwait (.ctx x) s).sync) ∧
      ((r.inTrap = true ∨ r.vector = 0) → u.state = .stopped ∧ u.inTrap = r.inTrap ∧ u.pc = resume ∧
        (k.note = false → t.sync = (unwait (.ctx x) s).sync) ∧
        (k.note = true → t.sync = { (unwait (.ctx x) s).sync with
          notes := s.sync.notes ++ [⟨x.c, ⟨x.k.val, k.noteObj.toNat⟩, 1, .none⟩] }))) ∧
    (r.state = .idle ∨ (r.state = .stopped ∧ r.trapped = true) → t = s))

/-- The context commands, written by a requester that may. A word with a non-zero reserved field, a START address
that is not valid, or an address with another command sets CMD_STATUS to BAD_PARAM and does nothing. START of an
idle context of a core that is not dry, outside the wellhead, makes it READY at the address given, with registers
cleared, x1 the core's unit identifier and x2 the context's number; of a context that is not idle it is
NOT_PERMITTED. STOP of a running one leaves it STOPPED, of another unchanged. RESUME of a stopped one leaves it
READY; of another it is NOT_PERMITTED. START and RESUME on a dry core are HW_FAULT. RESET leaves the context at its
reset values. CMD_STATUS holds each outcome, and the write is answered OK (R2, R158, R177, R183). A context command
that the requester may not give changes nothing but the answer, NOT_PERMITTED, the owner's reset or HW_FAULT as the
register checks say (R176, R185). -/
def Obligations.ContextCommandEffects : Prop :=
  (∀ (s : State) (who : Requester) (x : CtxId) (v : Word), regPerm s who x.c = 0x00 →
    let ans := fun (st : Byte) => reply 0x00 (updCtx x (fun r => { r with cmdStatus := st }) s)
    let pc := BitVec.ofNat 48 (fld v.toNat 16 48)
    (fld v.toNat 3 13 ≠ 0 → exec (.ctxStart who x v) s = .next (ans 0x03) ∧ exec (.ctxStop who x v) s = .next (ans 0x03) ∧
      exec (.ctxResume who x v) s = .next (ans 0x03) ∧ exec (.ctxReset who x v) s = .next (ans 0x03)) ∧
    (pcOk pc = false → exec (.ctxStart who x v) s = .next (ans 0x03)) ∧
    (fld v.toNat 16 48 ≠ 0 → exec (.ctxStop who x v) s = .next (ans 0x03) ∧
      exec (.ctxResume who x v) s = .next (ans 0x03) ∧ exec (.ctxReset who x v) s = .next (ans 0x03)) ∧
    (fld v.toNat 3 13 = 0 → pcOk pc = true →
      (dryCore s x.c x.k.val = true → exec (.ctxStart who x v) s = .next (ans 0x09)) ∧
      (dryCore s x.c x.k.val = false → isWellhead s x.c = true ∨ (ctxRec s x).state ≠ .idle →
        exec (.ctxStart who x v) s = .next (ans 0x04)) ∧
      (dryCore s x.c x.k.val = false → isWellhead s x.c = false → (ctxRec s x).state = .idle →
        ∃ t, exec (.ctxStart who x v) s = .next t ∧ t.ioReply = 0x00 ∧ (ctxRec t x).cmdStatus = 0x00 ∧
          (ctxRec t x).state = .ready ∧ (ctxRec t x).pc = pc ∧
          xr t x 1 = (coreUnit x.c x.k.val).setWidth 64 ∧ xr t x 2 = BitVec.ofNat 64 x.n.val ∧
          (∀ i : Reg, i ≠ 1 → i ≠ 2 → xr t x i = 0) ∧ (ctxRec t x).f = Vector.replicate 32 0 ∧
          (ctxRec t x).v = Vector.replicate 32 0 ∧ (ctxRec t x).m = Vector.replicate 8 0 ∧ t.mem = s.mem ∧
          ∀ y, y ≠ x → ctxRec t y = ctxRec s y)) ∧
    (fld v.toNat 3 13 = 0 → fld v.toNat 16 48 = 0 →
      ((ctxRec s x).state = .ready ∨ (ctxRec s x).state = .waiting →
        ∃ t, exec (.ctxStop who x v) s = .next t ∧ t.ioReply = 0x00 ∧ (ctxRec t x).cmdStatus = 0x00 ∧
          (ctxRec t x).state = .stopped ∧ (ctxRec t x).x = (ctxRec s x).x ∧ (ctxRec t x).pc = (ctxRec s x).pc ∧
          (ctxRec t x).wait = none ∧ (ctxRec t x).held = none ∧ ∀ y, y ≠ x → ctxRec t y = ctxRec s y) ∧
      ((ctxRec s x).state = .idle ∨ (ctxRec s x).state = .stopped → exec (.ctxStop who x v) s = .next (ans 0x00)) ∧
      (dryCore s x.c x.k.val = true → exec (.ctxResume who x v) s = .next (ans 0x09)) ∧
      (dryCore s x.c x.k.val = false → (ctxRec s x).state ≠ .stopped → exec (.ctxResume who x v) s = .next (ans 0x04)) ∧
      (dryCore s x.c x.k.val = false → (ctxRec s x).state = .stopped → exec (.ctxResume who x v) s =
        .next (reply 0x00 (updCtx x (fun r => { r with cmdStatus := 0x00 }) (updCtx x (fun r => { r with state := .ready }) s)))) ∧
      (∃ t, exec (.ctxReset who x v) s = .next t ∧ t.ioReply = 0x00 ∧ ctxRec t x = {} ∧ t.mem.sram = s.mem.sram ∧
        ∀ y, y ≠ x → ctxRec t y = ctxRec s y))) ∧
  (∀ (s : State) (who : Requester) (x : CtxId) (v : Word), regPerm s who x.c ≠ 0x00 →
    exec (.ctxStart who x v) s = .next { s with ioReply := regPerm s who x.c } ∧
    exec (.ctxStop who x v) s = .next { s with ioReply := regPerm s who x.c } ∧
    exec (.ctxResume who x v) s = .next { s with ioReply := regPerm s who x.c } ∧
    exec (.ctxReset who x v) s = .next { s with ioReply := regPerm s who x.c })

/-- The memory instructions, where their context issues. LOAD and STORE access the address in ra plus their offset,
LDL and STL that offset of the core's own local memory. A load of a size that its register file lacks takes ILLEGAL,
a misaligned one ALIGN; one that an earlier store or atomic of its context overlaps, or that finds 16 loads
outstanding, waits; one that lies in a run-ahead entry takes its data there, or the read on its way for it; any
other sends a read. A store that an earlier access overlaps, or that finds 32 posted, waits; any other discards the
run-ahead entries it overlaps and sends the low bytes of its register. An atomic sends its operands and discards
every entry. FENCE completes, with every entry discarded, once no access of its scope is outstanding. A request sent
is the newest of the mesh; no byte of memory changes before its target serves it (R167, R173, R175, R185, R203,
R204, R207). A misaligned load, store or atomic of a core takes the ALIGN trap at its own address: the trap record
names it, no request is sent and no memory changes (R167, R171, R185). Block accesses of a core, where their context
issues. A code that names no block format, an element format or a register group that R165 does not allow takes
ILLEGAL; a block that an earlier access overlaps, or that finds no room for its parts, waits. Otherwise a block
store encodes the group's 32 elements, sends the block's bytes in one part, or in two split at a 32-byte boundary,
and retires; a block load sends as many reads (R165, R202). -/
def Obligations.CoreMemoryInstructions : Prop :=
  ((∀ (s : State) (x : CtxId) (r : MemReg) (ra : Reg) (off : Word) (o : BitVec 16) (size : Fin 33) (signed : Bool),
    (Issues s x [r, .x ra] → exec (.load x r ra off size signed) s = .next (loadAt x r (xr s x ra + off) size.val signed s) ∧
      exec (.store x r ra off size) s = .next (storeAt x r (xr s x ra + off) size.val s)) ∧
    (Issues s x [r] → exec (.ldl x r o size signed) s = .next (loadAt x r (localAddr x o) size.val signed s) ∧
      exec (.stl x r o size) s = .next (storeAt x r (localAddr x o) size.val s)) ∧
    localAddr x o = clAddr 2 x.c (x.k.val * 2 ^ 16 + o.toNat)) ∧
  (∀ (s : State) (x : CtxId) (dst : MemReg) (a : Word) (n : Nat) (signed : Bool),
    let r := ctxRec s x
    let k := (selfAddr s a).toNat
    let hit := r.entries.find? fun e => (selfAddr s e.addr).toNat ≤ k ∧ k + n ≤ (selfAddr s e.addr).toNat + 64
    (sizeFits dst n = false → loadAt x dst a n signed s = illegal x s) ∧
    (sizeFits dst n = true → a.toNat % n ≠ 0 → loadAt x dst a n signed s = trapHere x 0x03 0 a s) ∧
    (sizeFits dst n = true → a.toNat % n = 0 →
      (overlaps s x a n false = true → loadAt x dst a n signed s = s) ∧
      (overlaps s x a n false = false →
        (∀ e d, hit = some e → e.data = some d → loadAt x dst a n signed s = retire x (addRaUsed x (writeLoaded x dst signed
          ((d.drop (k - (selfAddr s e.addr).toNat)).take n) (setCtx x { r with entries := r.entries.erase e } s)))) ∧
        (16 ≤ loadsOut s x → (hit = none ∨ ∃ e, hit = some e ∧ e.data = none) → loadAt x dst a n signed s = s) ∧
        (loadsOut s x < 16 →
          (∀ e, hit = some e → e.data = none → loadAt x dst a n signed s = retire x (addRaUsed x (takeEntry e.req
            (.load dst signed r.pc (some (k - (selfAddr s e.addr).toNat, n))) (setCtx x { r with entries := r.entries.erase e } s)))) ∧
          (hit = none → loadAt x dst a n signed s =
            retire x (issueReq (.core x) (owner s x.c) .read a n [] 0 false false x.c (.load dst signed r.pc none) s)))))) ∧
  (∀ (s : State) (x : CtxId) (src : MemReg) (a : Word) (n : Nat),
    let v := match src with | .x r => (xr s x r).toNat | .f r => (fr s x r).toNat | .v r => (vr s x r).toNat
    (sizeFits src n = false → storeAt x src a n s = illegal x s) ∧
    (sizeFits src n = true → a.toNat % n ≠ 0 → storeAt x src a n s = trapHere x 0x03 0 a s) ∧
    (sizeFits src n = true → a.toNat % n = 0 →
      (overlaps s x a n true = true ∨ 32 ≤ posted s x.c x.k → storeAt x src a n s = s) ∧
      (overlaps s x a n true = false → posted s x.c x.k < 32 → storeAt x src a n s = retire x (issueReq (.core x) (owner s x.c)
        .write a n (leBytes n v) 0 false false x.c (.store (ctxRec s x).pc) (dropOverlapped x a n s))))) ∧
  (∀ (s : State) (x : CtxId) (kind : AtomKind) (wide : Bool) (rd ra rs rc : Reg) (sat : Bool),
    Issues s x ([.x rd, .x ra, .x rs] ++ if kind = .cas then [.x rc] else []) →
    let a := xr s x ra
    let n := atomBytes kind wide
    (a.toNat % n ≠ 0 → exec (.atomic x kind wide rd ra rs rc sat) s = .next (trapHere x 0x03 0 a s)) ∧
    (a.toNat % n = 0 → overlaps s x a n true = true ∨ 32 ≤ posted s x.c x.k → exec (.atomic x kind wide rd ra rs rc sat) s = .next s) ∧
    (a.toNat % n = 0 → overlaps s x a n true = false → posted s x.c x.k < 32 → exec (.atomic x kind wide rd ra rs rc sat) s =
      .next (retire x (issueReq (.core x) (owner s x.c) (.atomic (AtomKind.code kind)) a n (leBytes n (xr s x rs).toNat)
        (if kind = .cas then xr s x rc else 0) sat false x.c (.atomic rd (n == 8) (ctxRec s x).pc) (dropEntries x s))))) ∧
  (∀ (s : State) (x : CtxId) (kind : FenceKind) (scope : FenceScope), Issues s x [] →
    (fenceOk s x kind scope = true → exec (.fence x kind scope) s = .next (retire x (dropEntries x s))) ∧
    (fenceOk s x kind scope = false → exec (.fence x kind scope) s = .next s)) ∧
  (∀ (who : Requester) (p : Option (Fin 64)) (k : ReqKind) (a : Word) (len : Nat) (d : List Byte) (op : Word) (sat ra : Bool)
    (src : Cl) (use : Use) (s : State),
    ∃ q : Xact, q.id = s.net.nextId ∧ q.who = who ∧ q.part = p ∧ q.kind = k ∧ q.addr = a ∧ q.len = len ∧ q.data = d ∧
      q.operand = op ∧ q.sat = sat ∧ q.ra = ra ∧ q.use = use ∧
      issueReq who p k a len d op sat ra src use s =
        { s with net := { s.net with xacts := s.net.xacts ++ [q], nextId := s.net.nextId + 1 } })) ∧
  ((∀ (s : State) (x : CtxId) (r : MemReg) (ra : Reg) (off : Word) (size : Fin 33) (signed : Bool), Issues s x [r, .x ra] →
    sizeFits r size.val = true → (xr s x ra + off).toNat % size.val ≠ 0 →
    exec (.load x r ra off size signed) s = .next (trapHere x 0x03 0 (xr s x ra + off) s) ∧
    exec (.store x r ra off size) s = .next (trapHere x 0x03 0 (xr s x ra + off) s)) ∧
  (∀ (s : State) (x : CtxId) (a : Word), (ctxRec s x).state = .ready → let t := trapHere x 0x03 0 a s
    (ctxRec t x).cause = 0x03 ∧ (ctxRec t x).trapPc = (ctxRec s x).pc ∧ (ctxRec t x).trapAddr = a ∧ t.net = s.net ∧
      t.mem.sram = s.mem.sram ∧ t.mem.stack = s.mem.stack)) ∧
  ((∀ (s : State) (x : CtxId) (vd ra : Reg) (off : Word) (blk dst : Fmt) (sat : Bool), Issues s x (.x ra :: groupList vd dst.toNat) →
    let ok : Bool := [0x08, 0x06, 0x07].contains dst.toNat && groupOk vd dst.toNat
    let a := xr s x ra + off
    (blockFmt blk.toNat = none ∨ ok = false → exec (.vbld x vd ra off blk dst sat) s = .next (illegal x s)) ∧
    (∀ b, blockFmt blk.toNat = some b → ok = true →
      let ps := blockParts a.toNat b.bytes
      (overlaps s x a b.bytes false = true ∨ 16 < loadsOut s x + ps.length → exec (.vbld x vd ra off blk dst sat) s = .next s) ∧
      (overlaps s x a b.bytes false = false → loadsOut s x + ps.length ≤ 16 →
        exec (.vbld x vd ra off blk dst sat) s = .next (retire x (ps.foldl (fun s p =>
          issueReq (.core x) (owner s x.c) .read (BitVec.ofNat 64 p.1) p.2 [] 0 false false x.c
            (.blockLoad vd blk dst sat (ctxRec s x).pc a none) s) s))))) ∧
  (∀ (s : State) (x : CtxId) (vs ra : Reg) (off : Word) (blk src : Fmt) (sat grad : Bool), Issues s x (.x ra :: groupList vs src.toNat) →
    let ok : Bool := [0x08, 0x06, 0x07, 0x04, 0x05, 0x0B].contains src.toNat && groupOk vs src.toNat
    let a := xr s x ra + off
    (blockFmt blk.toNat = none ∨ ok = false → exec (.vbst x vs ra off blk src sat grad) s = .next (illegal x s)) ∧
    (∀ b, blockFmt blk.toNat = some b → ok = true →
      let ps := blockParts a.toNat b.bytes
      (overlaps s x a b.bytes true = true ∨ 32 < posted s x.c x.k + ps.length → exec (.vbst x vs ra off blk src sat grad) s = .next s) ∧
      (overlaps s x a b.bytes true = false → posted s x.c x.k + ps.length ≤ 32 →
        let codes := (List.range (groupRegs src.toNat)).flatMap fun i =>
          vCodes src.toNat (vr s x (Fin.ofNat 32 (vs.val + i)))
        let d := leBytes b.bytes (b.blockNat (encodeBlock b sat (coreDraws x grad 32 s).1 ((codes.take 32).map (decodeElem src.toNat))))
        ∃ t, exec (.vbst x vs ra off blk src sat grad) s = .next t ∧ (ctxRec t x).pc = (ctxRec s x).pc + 4 ∧
          (t.net.xacts.drop s.net.xacts.length).map (fun q => (q.kind, q.addr, q.data)) =
            ps.map (fun p => (ReqKind.write, BitVec.ofNat 64 p.1, (d.drop (p.1 - a.toNat)).take p.2)) ∧
          t.net.xacts.take s.net.xacts.length = s.net.xacts ∧ t.mem.sram = s.mem.sram ∧ t.mem.stack = s.mem.stack))) ∧
  (∀ (a : Nat) (b : BFmt), ((blockParts a b.bytes).map (·.2)).sum = b.bytes ∧
    ∀ e ∈ blockParts a b.bytes, e.1 / 32 = (e.1 + e.2 - 1) / 32 ∨ 32 < e.2))

/-- The answers of a core's requests. One whose context was reset or started again since is forgotten and does
nothing else; one for a sleeping cluster waits. Otherwise the request is forgotten, and a load's data are written as
the instruction says, a load that took over a run-ahead read gets its own bytes, or is made again if that read
failed, a block load's part waits for the other or completes the block, an object operation's register gets old
value and status, a run-ahead entry its data or is dropped; an answered store leaves all else as it was, and an
atomic writes the old value, the upper half of a 4-byte one free. A failed load, block load, store or atomic takes
the ACCESS trap of its own instruction with the status and its address. A request whose time is up completes in the
same way with TIMEOUT, and a reply that may still come is unused (R165, R171, R174, R175, R183, R202, R238, R240,
R261). Run-ahead and the instruction cache. RUNAHEAD_ENTER of a context that could issue, whose next instruction
waits for a load: once that load has been outstanding for more than 32 cycles, the instructions after it are walked
along the predicted path, at most 64; if the walk comes to its end nothing but its reads is left of it, else the
context stands in run-ahead with the shadow registers and the load it waits for. Of each instruction walked, an
integer one with known sources sets its shadow register, a load of a known address is read ahead, and any other
destination becomes unknown; an instruction that ends run-ahead, or would trap, ends the walk. An entry is discarded
4,096 cycles after it was filled. ICACHE_FILL of a line that is cached changes nothing; of an invalid address, or
one whose line cannot be read, it takes the FETCH trap; else it counts a miss, or a corrected error for a line with
a parity error, and puts the line, and the next one if it can be read, into the cache (R173, R175, R182). A branch's
two-bit counter moves one step towards the outcome and saturates; it predicts taken from 2 on; the one that bits
[11:2] of the branch's address name is moved and no other; in the core's record at reset each predicts not taken
(R496). -/
def Obligations.AnswersFetchAndPrediction : Prop :=
  ((∀ (s : State) (id : Nat) (q : Xact) (x : CtxId) (st : Byte) (d : List Byte), Answered s id q st d → q.who = .core x →
    let u := dropXact id s
    let v := loadReturns x q u
    (asleep s q.src = true → exec (.loadComplete id) s = .next s ∧ exec (.storeComplete id) s = .next s) ∧
    (asleep s q.src = false → q.orphaned = true → (q.use.isRead = true → exec (.loadComplete id) s = .next u) ∧
      (q.use.isWrite = true → exec (.storeComplete id) s = .next u)) ∧
    (asleep s q.src = false → q.orphaned = false →
      (∀ dst signed pc, q.use = .load dst signed pc none → exec (.loadComplete id) s =
        .next (if st = 0x00 then writeLoaded x dst signed d v else accessTrap x st pc q.addr v)) ∧
      (∀ dst signed pc off n, q.use = .load dst signed pc (some (off, n)) → exec (.loadComplete id) s =
        .next (if st = 0x00 then writeLoaded x dst signed ((d.drop off).take n) v else loadAgain x q dst signed pc off n u)) ∧
      (∀ vd blk dst sat pc a half, q.use = .blockLoad vd blk dst sat pc a half → exec (.loadComplete id) s =
        .next (if st = 0x00 then blockReturns x q vd blk dst sat pc a half d v else accessTrap x st pc q.addr (dropMate x pc a v))) ∧
      (∀ rd, q.use = .object rd → exec (.loadComplete id) s =
        .next (wx x rd (BitVec.ofNat 64 ((if st = 0x00 then leNat (d.take 4) else 0) + st.toNat * 2 ^ 32)) u)) ∧
      (q.use = .runahead →
        let filled := (ctxRec u x).entries.map fun e => if e.req = q.id then { e with data := some d, filled := s.t.now } else e
        let es := if st = 0x00 then filled else (ctxRec u x).entries.filter (·.req != q.id)
        exec (.loadComplete id) s = .next (setCtx x { ctxRec u x with entries := es } u)) ∧
      (∀ pc, q.use = .store pc → exec (.storeComplete id) s = .next (if st = 0x00 then u else accessTrap x st pc q.addr u)) ∧
      (∀ rd wide pc, q.use = .atomic rd wide pc →
        (st ≠ 0x00 → exec (.storeComplete id) s = .next (accessTrap x st pc q.addr u)) ∧
        (st = 0x00 → wide = true → exec (.storeComplete id) s = .next (wx x rd (BitVec.ofNat 64 (leNat d)) u)) ∧
        (st = 0x00 → wide = false → ∃ h : Word, exec (.storeComplete id) s = .next (wx x rd
          (BitVec.ofNat 64 (h.toNat / 2 ^ 32 * 2 ^ 32 + leNat (d.take 4))) { u with freeCount := u.freeCount + 1 }))))) ∧
  (∀ (s : State) (x : CtxId) (r : Reg) (signed : Bool) (d : List Byte),
    writeLoaded x (.x r) signed d s = wx x r (if signed then BitVec.ofInt 64 (sgn (8 * d.length) (leNat d)) else BitVec.ofNat 64 (leNat d)) s ∧
    writeLoaded x (.f r) signed d s = wf x r (d.length == 8) (leNat d) s ∧
    writeLoaded x (.v r) signed d s = wv x r (BitVec.ofNat 256 (leNat d)) s) ∧
  (∀ (s : State) (id : Nat) (q : Xact) (began : Nat),
    xactOf s id = some q → (∀ st d, q.phase ≠ .home st d) → q.timer = some began → q.dead = false → relocking s = false →
    let w := waitUntil s (began + timeoutOf s q)
    let u := if q.phase = .lost then dropXact q.id w else setXact { q with dead := true, use := .drop } w
    exec (.requestTimeout id) s = .next (completeWith q 0x06 u) ∧
    (∀ x, q.who = .core x → q.orphaned = false →
      (∀ pc, q.use = .store pc → completeWith q 0x06 u = accessTrap x 0x06 pc q.addr u) ∧
      (∀ dst signed pc, q.use = .load dst signed pc none → completeWith q 0x06 u = accessTrap x 0x06 pc q.addr (loadReturns x q u)) ∧
      (∀ rd wide pc, q.use = .atomic rd wide pc → completeWith q 0x06 u = accessTrap x 0x06 pc q.addr u) ∧
      (∀ rd, q.use = .object rd → completeWith q 0x06 u = wx x rd (BitVec.ofNat 64 (6 * 2 ^ 32)) u)))) ∧
  ((∀ (s : State) (x : CtxId) (code : List RaInstr) (i : RaInstr) (q : Xact), canIssue s x = true →
    code.find? (fun i => i.pc == (ctxRec s x).pc) = some i → awaitedLoad s x i.regs = some q →
    let u := waitUntil s (q.timer.getD s.t.now + 33 * 8 / max (arithK s x.c) 1 + 1)
    let start := raFrom (coreRec s x.c x.k.val) i.op ⟨(ctxRec s x).pc, shadowInit u x, (ctxRec s x).rets⟩
    (start = none → exec (.runaheadEnter x code) s = .next u) ∧
    (∀ w, start = some w → let z := raRun x code 64 w u
      exec (.runaheadEnter x code) s = .next (if z.1 then z.2.2
        else updCtx x (fun k => { k with runahead := true, shadow := some z.2.1.regs, raLoad := some q.id }) z.2.2))) ∧
  (∀ (s : State) (x : CtxId) (w : RaWalk),
    raStep x .stop w s = none ∧
    (∀ ds, raStep x (.unknown ds) w s = some (({ w with pc := w.pc + 4 } : RaWalk).forget ds, s)) ∧
    (∀ b, raStep x (.branch b) w s = (w.branch (coreRec s x.c x.k.val) b).map fun w => (w, s)) ∧
    (∀ op rd ra v p, shadowGet w.regs ra = some p → divZero op false v = false → raStep x (.int op rd ra (.imm v)) w s =
      some ({ w with pc := w.pc + 4, regs := shadowSet w.regs (.x rd) (some (int64 op p v).v) }, s)) ∧
    (∀ op rd ra b, shadowGet w.regs ra = none → raStep x (.int op rd ra b) w s =
      some (({ w with pc := w.pc + 4 } : RaWalk).forget [.x rd], s)) ∧
    (∀ dst ra off size p, shadowGet w.regs ra = some p → sizeFits dst size = true → (p + off).toNat % max size 1 = 0 →
      raStep x (.load dst ra off size) w s = some (({ w with pc := w.pc + 4 } : RaWalk).forget [dst], raRead x (p + off) s))) ∧
  (∀ (s : State) (x : CtxId) (e : Fin 8) (n : RaEntry) (d : List Byte), (ctxRec s x).entries[e.val]? = some n → n.data = some d →
    ∃ t, exec (.runaheadEntryExpire x e) s = .next t ∧ (ctxRec t x).entries = (ctxRec s x).entries.eraseIdx e.val ∧
      n.filled + 4096 * 8 / max (arithK s x.c) 1 ≤ t.t.now) ∧
  (∀ (s : State) (x : CtxId) (a : BitVec 48), (ctxRec s x).state = .ready → (ctxRec s x).runahead = false →
    (ctxRec s x).pc = a → arithOn s x.c = true → dryCore s x.c x.k.val = false →
    (pcOk a = false → exec (.icacheFill x a) s = .next (settle (takeTrap x 0x05 0x03 0 a (fetchAddr a.toNat) a s))) ∧
    (pcOk a = true → lineCached s x a = true → exec (.icacheFill x a) s = .next (settle s)) ∧
    (pcOk a = true → lineCached s x a = false →
      let line := a.toNat / 64
      let m := if (coreRec s x.c x.k.val).badLines.contains line then cacheParity x line s else addMisses x s
      let f := fetchLine x line m
      (f.1 ≠ 0x00 → exec (.icacheFill x a) s = .next (settle (takeTrap x 0x05 f.1 0 a (fetchAddr a.toNat) a f.2))) ∧
      (f.1 = 0x00 → let u := addLine x.c x.k.val line f.2
        let g := fetchLine x (line + 1) u
        exec (.icacheFill x a) s = .next (settle (if g.1 = 0x00 then addLine x.c x.k.val (line + 1) g.2 else g.2))))) ∧
  (∀ (s : State) (c : Cl) (k line : Nat), (coreRec (addLine c k line s) c k).lines.contains line = true)) ∧
  ((∀ k : BitVec 2, stepCounter k true = (if k = 3 then 3 else k + 1) ∧ stepCounter k false = (if k = 0 then 0 else k - 1)) ∧
  (∀ (s : State) (x : CtxId) (pc : BitVec 48) (taken : Bool),
    let r := coreRec s x.c x.k.val
    let u := coreRec (trainPredictor x pc taken s) x.c x.k.val
    SMap.get 1 u.predictor (pc.toNat / 4 % 1024) = stepCounter (SMap.get 1 r.predictor (pc.toNat / 4 % 1024)) taken ∧
    ∀ i, i ≠ pc.toNat / 4 % 1024 → SMap.get 1 u.predictor i = SMap.get 1 r.predictor i) ∧
  (∀ (r : CoreRec) (pc : BitVec 48), predictTaken r pc = true ↔ 2 ≤ (SMap.get 1 r.predictor (pc.toNat / 4 % 1024)).toNat) ∧
  (∀ pc : BitVec 48, predictTaken ({} : CoreRec) pc = false))

/-! ### Objects, barriers and channels -/

/-- OBJRD, OBJSET, OBJADD and OBJCAS, where their context issues: each discards the run-ahead entries, sends one
object request with its operation code, operand and comparand, and goes on; the updating ones wait while the RELEASE
that they imply must wait (R175, R205, R261). An object operation at its target answers the value from before it: a
read leaves the object, SET stores the operand, ADD adds it modulo 2^32, and CAS stores it where the object equals
the comparand. An engine-made notification adds its count and is gone; a pump's then ends its descriptor; while its
cluster sleeps it waits; it adds nothing where the cluster's compute is off, its partition is in reset, or a pump's
names a cluster of another partition, and there a pump's halts its descriptor, and an I/O tile's is a failure at the
tile, with the status. Changing an object changes that object alone among objects (R256, R260, R494). -/
def Obligations.ObjectAccesses : Prop :=
  ((∀ (s : State) (x : CtxId) (rd ra : Reg), Issues s x [.x rd, .x ra] →
    exec (.objrd x rd ra) s = .next (retire x (issueReq (.core x) (owner (dropEntries x s) x.c) (.object 0) (xr s x ra) 4 [0, 0, 0, 0] 0
      false false x.c (.object rd) (dropEntries x s)))) ∧
  (∀ (s : State) (x : CtxId) (rd ra rv rc : Reg),
    let send := fun op (cmp : Word) => retire x (issueReq (.core x) (owner (dropEntries x s) x.c) (.object op) (xr s x ra) 4
      (leBytes 4 (xr s x rv).toNat) cmp false false x.c (.object rd) (dropEntries x s))
    (Issues s x [.x rd, .x ra, .x rv] → impliedRelease s x (xr s x ra) = true →
      exec (.objset x rd ra rv) s = .next (send 1 0) ∧ exec (.objadd x rd ra rv) s = .next (send 2 0)) ∧
    (Issues s x [.x rd, .x ra, .x rc, .x rv] → impliedRelease s x (xr s x ra) = true →
      exec (.objcas x rd ra rc rv) s = .next (send 3 (xr s x rc))) ∧
    (impliedRelease s x (xr s x ra) = false → exec (.objset x rd ra rv) s = .next s ∧ exec (.objadd x rd ra rv) s = .next s ∧
      exec (.objcas x rd ra rc rv) s = .next s))) ∧
  ((∀ (s : State) (id : Nat) (q : Xact) (c : Cl), AtTarget s id q c →
    let o := addrObj q.addr
    let old := objVal s c o.1 o.2
    let ans (v : BitVec 32) : State := answer q 0x00 (leBytes 4 old.toNat) (setObj c o.1 o.2 v s)
    (q.kind = .object 0 → exec (.objectRead id) s = .next (ans old)) ∧
    (q.kind = .object 1 → exec (.objectSet id) s = .next (ans (objOperand q))) ∧
    (q.kind = .object 2 → exec (.objectAdd (.packet id)) s = .next (ans (old + objOperand q))) ∧
    (q.kind = .object 3 → exec (.objectCas id) s =
      .next (ans (if old = q.operand.setWidth 32 then objOperand q else old)))) ∧
  (∀ (s : State) (i : Nat) (n : Note), s.sync.notes[i]? = some n →
    let u := { s with sync := { s.sync with notes := s.sync.notes.eraseIdx i } }
    let resets : Bool := match owner s n.c with | some p => partResetting s p | none => false
    (resets = false → computeOff s n.c = false → asleep s n.c = false → n.ref.core < 24 → n.ref.obj < 32 →
      let v := setObj n.c n.ref.core n.ref.obj (objVal s n.c n.ref.core n.ref.obj + n.add) u
      (n.by_ = .none → exec (.objectAdd (.note i)) s = .next v) ∧
      (∀ t, n.by_ = .io t → exec (.objectAdd (.note i)) s = .next v) ∧
      (∀ ch serial p, n.by_ = .pump ch serial p → isWellhead s n.c = false → owner s n.c = some p →
        exec (.objectAdd (.note i)) s = .next (noteDone ch serial 0x00 v))) ∧
    (resets = false → computeOff s n.c = false → asleep s n.c = true →
      (∀ ch serial p, n.by_ = .pump ch serial p → isWellhead s n.c = false ∧ owner s n.c = some p) → exec (.objectAdd (.note i)) s = .next s) ∧
    (resets = false → computeOff s n.c = false → asleep s n.c = false → 24 ≤ n.ref.core ∨ 32 ≤ n.ref.obj →
      (n.by_ = .none → exec (.objectAdd (.note i)) s = .next u) ∧ (∀ t, n.by_ = .io t → exec (.objectAdd (.note i)) s = .next u) ∧
      (∀ ch serial p, n.by_ = .pump ch serial p → isWellhead s n.c = false → owner s n.c = some p →
        exec (.objectAdd (.note i)) s = .next (noteDone ch serial 0x00 u))) ∧
    (n.by_ = .none → resets = true ∨ computeOff s n.c = true → exec (.objectAdd (.note i)) s = .next u) ∧
    (∀ t, n.by_ = .io t → resets = true ∨ computeOff s n.c = true →
      exec (.objectAdd (.note i)) s = .next (ioFail t (if resets then 0x05 else 0x09) u)) ∧
    (∀ ch serial p, n.by_ = .pump ch serial p →
      (isWellhead s n.c = true ∨ owner s n.c ≠ some p → exec (.objectAdd (.note i)) s = .next (noteDone ch serial 0x04 u)) ∧
      (isWellhead s n.c = false → owner s n.c = some p → partResetting s p = true →
        exec (.objectAdd (.note i)) s = .next (noteDone ch serial 0x05 u)) ∧
      (isWellhead s n.c = false → owner s n.c = some p → partResetting s p = false → computeOff s n.c = true →
        exec (.objectAdd (.note i)) s = .next (noteDone ch serial 0x09 u)))) ∧
  (∀ (s : State) (c : Cl) (k o : Nat) (v : BitVec 32) (key : Nat),
    SMap.get 0 (setObj c k o v s).sync.objs key = if key = objKey c k o then v else SMap.get 0 s.sync.objs key))

/-- The comparison of WAIT is made on the difference as a signed 32-bit number, so it survives a wrap of the object:
GE holds for exactly the values from the target to 2^31 − 1 above it, and LT for the rest (R262). -/
def Obligations.WaitComparisonWrapSafe : Prop :=
  (∀ (v t : BitVec 32), objCond 2 v t = true ↔ (v - t).toNat < 2 ^ 31) ∧
  (∀ (v t : BitVec 32), objCond 3 v t = !objCond 2 v t) ∧
  (∀ (v t : BitVec 32), (objCond 0 v t = true ↔ v = t) ∧ (objCond 1 v t = true ↔ v ≠ t)) ∧
  (∀ (t d : BitVec 32), d.toNat < 2 ^ 31 → objCond 2 (t + d) t = true)

/-- WAIT, where its context issues. One that names a core above 23 takes the ACCESS trap with BAD_PARAM and CTX_PC
at the next instruction. Any other first waits for the accesses that an ACQUIRE waits for; then, where its condition
holds, it completes with 0, where its deadline has passed, with 1, and otherwise it leaves the context WAITING on
the object with its deadline, a deadline of 0 being none, with no register and no other context changed (R160, R171,
R205, R262). WAIT_DEADLINE of a waiting context with a deadline, while the arithmetic clock runs: the local tide
comes to the deadline, the releases of that moment are taken first, and then, if the context still waits, it
completes with 0 where its condition holds and with 1 where it does not and the deadline has passed; while the clock
stands still, and for a context without a deadline, nothing happens (R160, R262, R293, R294). -/
def Obligations.WaitCompletes : Prop :=
  (∀ (s : State) (x : CtxId) (rd ra rb rc : Reg), Issues s x [.x rd, .x ra, .x rb, .x rc] →
    let w := (xr s x ra).toNat
    let core := fld w 0 5
    let obj := fld w 5 5
    let t := (xr s x rb).setWidth 32
    let d := (xr s x rc).setWidth 32
    (24 ≤ core → exec (.wait x rd ra rb rc) s =
      .next (accessTrap x 0x03 (ctxRec s x).pc (clAddr 5 x.c (core * 256 + obj * 8)) (retire x s))) ∧
    (core < 24 → fenceOk s x .acquire .g = false → exec (.wait x rd ra rb rc) s = .next s) ∧
    (core < 24 → fenceOk s x .acquire .g = true →
      (objCond (fld w 10 2) (objVal s x.c core obj) t = true → exec (.wait x rd ra rb rc) s = .next (finishWait x rd 0 s)) ∧
      (objCond (fld w 10 2) (objVal s x.c core obj) t = false → d ≠ 0 → deadlinePast s x.c d = true →
        exec (.wait x rd ra rb rc) s = .next (finishWait x rd 1 s)) ∧
      (objCond (fld w 10 2) (objVal s x.c core obj) t = false → (d = 0 ∨ deadlinePast s x.c d = false) →
        ∃ u, exec (.wait x rd ra rb rc) s = .next u ∧ (ctxRec u x).state = .waiting ∧ (ctxRec u x).waitKind = 1 ∧
          (ctxRec u x).waitTarget = BitVec.ofNat 10 (obj * 32 + core) ∧
          (ctxRec u x).wait = some ⟨core, obj, fld w 10 2, t, if d = 0 then none else some d, rd⟩ ∧
          (ctxRec u x).x = (ctxRec s x).x ∧ (ctxRec u x).pc = (ctxRec s x).pc ∧ OnlyContext x s u)) ∧
    (∀ (v : BitVec 32), deadlinePast s x.c v = true ↔ (v - (localTide s x.c).setWidth 32).toInt ≤ 0)) ∧
  ((∀ (s : State) (x : CtxId) (w : WaitRec), (ctxRec s x).state = .waiting → (ctxRec s x).wait = some w →
    (w.deadline = none → exec (.waitDeadline x) s = .next s) ∧
    (∀ d, w.deadline = some d →
      let t := localTide s x.c
      let u := releasesDue x.c (waitTide s x.c (t + (d - t.setWidth 32).signExtend 64))
      (arithOn s x.c = false → exec (.waitDeadline x) s = .next s) ∧
      (arithOn s x.c = true →
        ((ctxRec u x).state ≠ .waiting → exec (.waitDeadline x) s = .next u) ∧
        ((ctxRec u x).state = .waiting →
          (objCond w.cond (objVal u x.c w.core w.obj) w.value = true → exec (.waitDeadline x) s = .next (finishWait x w.rd 0 u)) ∧
          (objCond w.cond (objVal u x.c w.core w.obj) w.value = false → deadlinePast u x.c d = true →
            exec (.waitDeadline x) s = .next (finishWait x w.rd 1 u)))))) ∧
  (∀ (s : State) (x : CtxId) (rd : Reg) (v : Word), rd ≠ 0 →
    (ctxRec (finishWait x rd v s) x).state = .ready ∧ xr (finishWait x rd v s) x rd = v ∧
    (ctxRec (finishWait x rd v s) x).pc = (ctxRec s x).pc + 4 ∧ (ctxRec (finishWait x rd v s) x).wait = none))

/-- Barriers. BARRIVE, once the accesses that a RELEASE waits for are answered, writes its status to rd: BAD_PARAM
for a barrier that is not there, NOT_PERMITTED where the cluster expects no arrivals, BUSY while an arrival is held;
otherwise OK, and one below EXPECTED counts, and the last sends the cluster's arrival for the generation in
progress, or is held if that was sent already. An arrival that the root expects and that completes its members
decides the launch, LEAD after the root's tide, and sends every member its release, or, of a hall barrier, tells the
manager; any other is forgotten. A release whose launch has passed is applied at once and counted as late if the
arithmetic clock runs; any other is held, and BARRIER_LAUNCH applies it at its launch: GENERATION counts one,
LAST_STATUS takes the release's status, the release object is notified, and an arrival that was held is sent (R266,
R267, R294, R433). -/
def Obligations.BarrierGeneration : Prop :=
  (∀ (s : State) (x : CtxId) (rd rb : Reg) (p : Fin 64), Issues s x [.x rd, .x rb] → owner s x.c = some p →
    let b : Fin 32 := Fin.ofNat 32 (xr s x rb).toNat
    let r := barOf s x.c b.val
    let done := fun (st : Word) (u : State) => retire x (wx x rd st u)
    (fenceOk s x .release .m = false → exec (.barrive x rd rb) s = .next s) ∧
    (fenceOk s x .release .m = true →
      (rootOf s p b.val = none → r.valid = false → exec (.barrive x rd rb) s = .next (done 0x03 s)) ∧
      ((rootOf s p b.val).isSome = true ∨ r.valid = true →
        (r.expected = 0 → exec (.barrive x rd rb) s = .next (done 0x04 s)) ∧
        (r.expected ≠ 0 → r.held = true → exec (.barrive x rd rb) s = .next (done 0x0E s)) ∧
        (r.expected ≠ 0 → r.held = false →
          (r.arrived + 1 < r.expected → exec (.barrive x rd rb) s = .next (done 0 (setBar x.c b.val { r with arrived := r.arrived + 1 } s))) ∧
          (r.expected ≤ r.arrived + 1 → r.sent = true →
            exec (.barrive x rd rb) s = .next (done 0 (setBar x.c b.val { r with arrived := 0, held := true } s))) ∧
          (r.expected ≤ r.arrived + 1 → r.sent = false → exec (.barrive x rd rb) s =
            .next (done 0 (sendBar (.arrive p b x.c r.generation) (setBar x.c b.val { r with arrived := 0, sent := true } s)))))))) ∧
  (∀ (s : State) (i : Nat) (p : Fin 64) (b : Fin 32) (c : Cl) (gen : BitVec 16), s.sync.pkts[i]? = some (.arrive p b c gen) →
    (rootOf s p b.val = none → exec (.barrierArrive i) s = .next (dropPkt i s)) ∧
    (∀ r, rootOf s p b.val = some r →
      (gen ≠ r.generation ∨ r.members.contains c = false ∨ r.got.contains c = true → exec (.barrierArrive i) s = .next (dropPkt i s)) ∧
      (gen = r.generation → r.members.contains c = true → r.got.contains c = false →
        let u := setRoot p b.val (some { r with got := c :: r.got }) (dropPkt i s)
        (r.members.all (c :: r.got).contains = false → exec (.barrierArrive i) s = .next u) ∧
        (r.members.all (c :: r.got).contains = true → r.hall = true → exec (.barrierArrive i) s = .next (controlOut s.fab.manager 0x6
          (leBytes 1 p.val ++ leBytes 1 b.val ++ leBytes 2 r.generation.toNat ++ leBytes 1 ((ownModule s).getD 0xFF).toNat) u)) ∧
        (r.members.all (c :: r.got).contains = true → r.hall = false → ∃ t, exec (.barrierArrive i) s = .next t ∧
          rootOf t p b.val = some { r with generation := r.generation + 1, got := [] } ∧
          t.sync.pkts = s.sync.pkts.eraseIdx i ++ r.members.map fun m =>
            .release p b m r.generation 0x00 (localTide s r.root + BitVec.ofNat 64 (16 * r.lead)))))) ∧
  (∀ (s : State) (i : Nat) (p : Fin 64) (b : Fin 32) (c : Cl) (gen : BitVec 16) (st : Byte) (l : Word),
    s.sync.pkts[i]? = some (.release p b c gen st l) →
    let r := barOf s c b.val
    let full := localTide s c + ((l.setWidth 32 - (localTide s c).setWidth 32).signExtend 64)
    (r.valid = false ∨ gen ≠ r.generation → exec (.barrierRelease i) s = .next (dropPkt i s)) ∧
    (r.valid = true → gen = r.generation →
      ((localTide s c - relLaunch s c r full).toInt > 0 → arithOn s c = true →
        exec (.barrierRelease i) s = .next (applyRelease p c b st true (dropPkt i s))) ∧
      ((localTide s c - relLaunch s c r full).toInt ≤ 0 ∨ arithOn s c = false →
        exec (.barrierRelease i) s = .next (setBar c b.val { r with release := some (full, st) } (dropPkt i s))))) ∧
  (∀ (s : State) (c : Cl) (b : Fin 32) (p : Fin 64) (l : Word) (st : Byte), (barOf s c b.val).release = some (l, st) → owner s c = some p →
    let at_ := relLaunch s c (barOf s c b.val) l
    (arithOn s c = false → exec (.barrierLaunch c b) s = .next s) ∧
    (arithOn s c = true → exec (.barrierLaunch c b) s = .next (applyRelease p c b st (launchMissed s c at_) (waitTide s c at_)))) ∧
  (∀ (s : State) (p : Fin 64) (c : Cl) (b : Fin 32) (st : Byte) (late : Bool),
    let r := barOf s c b.val
    let t := applyRelease p c b st late s
    (barOf t c b.val).generation = r.generation + 1 ∧ (barOf t c b.val).lastStatus = st ∧ (barOf t c b.val).release = none ∧
    (barOf t c b.val).sent = r.held ∧ (barOf t c b.val).held = false ∧
    t.sync.notes = s.sync.notes ++ [⟨c, ⟨r.core, r.obj⟩, 1, .none⟩] ∧
    t.sync.pkts = s.sync.pkts ++ (if r.held then [.arrive p b c (r.generation + 1)] else []) ∧
    (late = true → (s.sync.regs.get {} (ck c)).lateReleases.toNat % 2 ^ 48 + 1 < 2 ^ 48 →
      (t.sync.regs.get {} (ck c)).lateReleases = (s.sync.regs.get {} (ck c)).lateReleases + 1) ∧ t.mem.sram = s.mem.sram)

/-- Opening a channel. CHACCEPT and CHOPEN, where their context issues, write their status to rd: a word that the
checks refuse gives its status and changes nothing else; an accepted CHACCEPT leaves its CLOSED endpoint LISTENING,
or a BASIN with a generation of its own and its chunks at the operation's identity; an accepted CHOPEN leaves it
OPENING and sends OPEN. OPEN that meets a LISTENING endpoint of the same mode opens it with full credits and a
generation of its own, and notifies; one that meets a basin is told its generation, format and chunks; any other is
refused with the status of its check. The reply acts on the endpoint that still waits for it: OPEN with full
credits, or a contributor of a basin with 8, or CLOSED, and the status goes to the opener's register unless its
context was reset since (R271, R272, R281). Closing a channel. CHCLOSE, where its context issues, closes its
endpoint, tells a connected peer and writes OK, or BAD_PARAM, with nothing closed, for a word with bits set beyond
its endpoint. CLOSE that meets an OPEN endpoint leaves it PEER_CLOSED, ends its waiters and notifies; it is answered
OK there and anywhere else, where it changes nothing. When an island falls back, every checked channel that ends in
it or crosses it becomes BROKEN (R278, R279). Basins. SET_CURSOR of a contributor moves its next chunk; out of range
it is BAD_PARAM, at another endpoint NOT_PERMITTED. A contribution of another generation is answered CLOSED, of
another format FORMAT_MISMATCH, of a chunk that is not there BAD_PARAM and counted; any other joins the combiner, or
waits while 64 are in it. Combining takes the oldest contribution: one of an earlier generation is dropped;
otherwise the chunk is read and, without an error, written back element by element combined, the count goes up by
one, and a count that reaches the target sets DONE and notifies. BASIN_CLEAR of a basin fills its chunks with the
identity and clears count and DONE; elsewhere it is NOT_PERMITTED. A wait for a credit that outlasts the watchdog is
reported once (R280-R285). -/
def Obligations.ChannelsOpenAndBasins : Prop :=
  ((∀ (s : State) (x : CtxId) (rd re rs : Reg), Issues s x [.x rd, .x re, .x rs] →
    let w := (xr s x re).toNat
    let v := (xr s x rs).toNat
    let e := fld w 0 8
    let fmt := fld v 1 5
    let bad : Bool := if bit v 0 then !(fmt == 0x08 || fmt == 0x06 || fmt == 0x07 || fmt == 0x0D) || fld v 8 8 == 0
      || 128 < fld v 8 8 || fld v 48 16 != 0 else v != 0
    let r : EpRec := { state := .listening, split := bit w 22, queue := fld w 8 14 * 256, note := epNote w, cmdStatus := (epOf s x.c e).cmdStatus }
    let b : Basin := ⟨BitVec.ofNat 5 fmt, bit v 6, bit v 7, fld v 8 8, BitVec.ofNat 32 (fld v 16 32), 0, false⟩
    (epWordCheck s x.c w bad ≠ 0x00 → exec (.chaccept x rd re rs) s = .next (retire x (wx x rd ((epWordCheck s x.c w bad).setWidth 64) s))) ∧
    (epWordCheck s x.c w bad = 0x00 → bit v 0 = false → exec (.chaccept x rd re rs) s = .next (retire x (wx x rd 0 (setEp x.c e r s)))) ∧
    (epWordCheck s x.c w bad = 0x00 → bit v 0 = true →
      let u := setEp x.c e { r with state := .basin, basin := some b, gen := s.sync.nextGen } s
      exec (.chaccept x rd re rs) s = .next (retire x (wx x rd 0 (fillBasin x.c r.queue b
        { u with sync := { u.sync with nextGen := s.sync.nextGen + 1 } }))))) ∧
  (∀ (s : State) (x : CtxId) (rd re ra : Reg), Issues s x [.x rd, .x re, .x ra] →
    let w := (xr s x re).toNat
    let a := xr s x ra
    let e := fld w 0 8
    let st := epWordCheck s x.c w (addrSpace a != 6 || !layoutOk a || addrLand a != 0)
    (st ≠ 0x00 → exec (.chopen x rd re ra) s = .next (retire x (wx x rd (st.setWidth 64) s))) ∧
    (st = 0x00 → ∃ d, (d.take 4) = leBytes 4 (fld w 0 23) ∧ exec (.chopen x rd re ra) s = .next (retire x
      (issueReq (.core x) (owner s x.c) (.object 9) a 4 d 0 false false x.c (.chOpen (Fin.ofNat 256 e) rd)
        (setEp x.c e { state := .opening, split := bit w 22, queue := fld w 8 14 * 256, note := epNote w, peer := a,
                       conn := s.net.nextId, cmdStatus := (epOf s x.c e).cmdStatus } s))))) ∧
  (∀ (s : State) (id : Nat) (q : Xact) (c : Cl), AtTarget s id q c → q.kind = .object 9 →
    let e := addrEp q.addr
    let r := epOf s c e
    let w := leNat (q.data.take 4)
    (r.state = .listening →
      (bit w 22 ≠ r.split ∨ (r.split = false ∧ checkedRefused s q c = true) → exec (.openArrive id) s = .next (answer q 0x04 [] s)) ∧
      (bit w 22 = r.split → (r.split = true ∨ checkedRefused s q c = false) →
        let u := setEp c e { r with state := .opened, peer := BitVec.ofNat 64 (leNat ((q.data.drop 4).take 8)), gen := s.sync.nextGen, conn := q.id,
                                    creditsReq := (fullCredits r.split).1, creditsRsp := (fullCredits r.split).2 } s
        exec (.openArrive id) s = .next (answer q 0x00 (leBytes 4 s.sync.nextGen.toNat ++ [0, 0, 0])
          (notifyOpt c r.note { u with sync := { u.sync with nextGen := s.sync.nextGen + 1 } })))) ∧
    (∀ b, r.state = .basin → r.basin = some b →
      (fld w 8 14 ≠ 0 → exec (.openArrive id) s = .next (answer q 0x03 [] s)) ∧
      (fld w 8 14 = 0 → bit w 22 = false → checkedRefused s q c = true → exec (.openArrive id) s = .next (answer q 0x04 [] s)) ∧
      (fld w 8 14 = 0 → (bit w 22 = true ∨ checkedRefused s q c = false) → exec (.openArrive id) s =
        .next (answer q 0x00 (leBytes 4 r.gen.toNat ++ [1, b.format.setWidth 8, BitVec.ofNat 8 b.chunks]) s))) ∧
    (r.state = .closed → exec (.openArrive id) s = .next (answer q 0x0A [] s)) ∧
    (r.state ≠ .listening → r.state ≠ .basin → r.state ≠ .closed → exec (.openArrive id) s = .next (answer q 0x04 [] s))) ∧
  (fullCredits true = (64, 64) ∧ fullCredits false = (128, 0)) ∧
  (∀ (s : State) (id : Nat) (q : Xact) (x : CtxId) (e : Fin 256) (rd : Reg) (st : Byte) (d : List Byte),
    Answered s id q st d → q.who = .core x → q.use = .chOpen e rd → asleep s q.src = false →
    let r := epOf s x.c e.val
    ∃ t, exec (.openReplyArrive id) s = .next t ∧ t = (if q.orphaned then t else wx x rd (st.setWidth 64) t) ∧
      (r.state = .opening → r.conn = q.id → st ≠ 0x00 → epOf t x.c e.val = { cmdStatus := r.cmdStatus }) ∧
      (r.state = .opening → r.conn = q.id → st = 0x00 → (epOf t x.c e.val).state = .opened ∧
        (epOf t x.c e.val).gen = BitVec.ofNat 32 (leNat (d.take 4)) ∧
        (d.getD 4 0 = 0 → (epOf t x.c e.val).contributor = false ∧
          ((epOf t x.c e.val).creditsReq, (epOf t x.c e.val).creditsRsp) = fullCredits r.split) ∧
        (d.getD 4 0 ≠ 0 → (epOf t x.c e.val).contributor = true ∧ (epOf t x.c e.val).creditsReq = 8 ∧ (epOf t x.c e.val).creditsRsp = 0 ∧
          (epOf t x.c e.val).format = (d.getD 5 0).setWidth 5 ∧ (epOf t x.c e.val).chunks = (d.getD 6 0).toNat)) ∧
      (r.state ≠ .opening ∨ r.conn ≠ q.id → epOf t x.c e.val = r))) ∧
  ((∀ (s : State) (x : CtxId) (rd re : Reg), Issues s x [.x rd, .x re] →
    let e : Fin 256 := Fin.ofNat 256 (xr s x re).toNat
    (fld (xr s x re).toNat 8 56 ≠ 0 → exec (.chclose x rd re) s = .next (retire x (wx x rd 0x03 s))) ∧
    (fld (xr s x re).toNat 8 56 = 0 → exec (.chclose x rd re) s = .next (retire x (wx x rd 0 (closeEp x.c e s)))) ∧
    (epOf (closeEp x.c e s) x.c e.val).state = .closed ∧
    ((epOf s x.c e.val).waiting = [] → connected (epOf s x.c e.val) = true → ∃ k, (closeEp x.c e s).net.xacts = s.net.xacts ++ [k] ∧
      k.kind = .object 0xA ∧ k.addr = (epOf s x.c e.val).peer)) ∧
  (∀ (s : State) (id : Nat) (q : Xact) (c : Cl), AtTarget s id q c → q.kind = .object 0xA →
    let r := epOf s c (addrEp q.addr)
    (r.state = .opened → exec (.closeArrive id) s = .next (answer q 0x00 (leBytes 4 0)
      (notifyOpt c r.note (leaveOpen c (addrEp q.addr) .peerClosed s)))) ∧
    (r.state ≠ .opened → exec (.closeArrive id) s = .next (answer q 0x00 (leBytes 4 0) s))) ∧
  (∀ (s : State), (s.sync.fallen = [] → exec .checkedChannelBreak s = .next s) ∧
    (s.sync.fallen ≠ [] → ∃ t, exec .checkedChannelBreak s = .next t ∧ t.sync.fallen = [] ∧
      ∀ (c : Cl) (e : Fin 256), crossesFallen s c (epOf s c e.val) = true → (epOf t c e.val).state = .broken))) ∧
  ((∀ (s : State) (who : Requester) (c : Cl) (e : Fin 256) (v : Word), regPerm s who c = 0x00 → fld v.toNat 4 4 = 0 → fld v.toNat 16 48 = 0 →
    let r := epOf s c e.val
    let ans := fun (st : Byte) (u : State) => reply 0x00 (setEp c e.val { epOf u c e.val with cmdStatus := st } u)
    (r.contributor = true → connected r = true → fld v.toNat 8 8 < r.chunks →
      exec (.setCursor who c e v) s = .next (ans 0x00 (setEp c e.val { r with cursor := fld v.toNat 8 8 } s))) ∧
    (r.contributor = true → connected r = true → r.chunks ≤ fld v.toNat 8 8 → exec (.setCursor who c e v) s = .next (ans 0x03 s)) ∧
    (r.contributor = false ∨ connected r = false → exec (.setCursor who c e v) s = .next (ans 0x04 s)) ∧
    (∀ b, r.state = .basin → r.basin = some b → let b' := { b with count := 0, done := false }
      exec (.basinClear who c e v) s = .next (ans 0x00 (fillBasin c r.queue b' (setEp c e.val { r with basin := some b' } s)))) ∧
    (r.state ≠ .basin → exec (.basinClear who c e v) s = .next (ans 0x04 s))) ∧
  (∀ (s : State) (who : Requester) (c : Cl) (e : Fin 256) (v : Word), regPerm s who c = 0x00 → fld v.toNat 4 4 ≠ 0 ∨ fld v.toNat 16 48 ≠ 0 →
    let u := reply 0x00 (setEp c e.val { epOf s c e.val with cmdStatus := 0x03 } s)
    exec (.setCursor who c e v) s = .next u ∧ exec (.basinClear who c e v) s = .next u) ∧
  (∀ (s : State) (id : Nat) (q : Xact) (c : Cl) (b : Basin), AtTarget s id q c → q.kind = .message →
    let e : Fin 256 := Fin.ofNat 256 (addrEp q.addr)
    let r := epOf s c e.val
    let tr := leNat ((q.data.drop 32).take 8)
    r.basin = some b →
    (BitVec.ofNat 32 (fld tr 32 32) ≠ r.gen → exec (.basinContribution id) s = .next (answer q 0x0A [] s)) ∧
    (BitVec.ofNat 32 (fld tr 32 32) = r.gen →
      (fld tr 24 5 ≠ b.format.toNat → exec (.basinContribution id) s = .next (answer q 0x0D [] s)) ∧
      (fld tr 24 5 = b.format.toNat →
        (b.chunks ≤ addrLand q.addr / 32 → exec (.basinContribution id) s = .next (answer q 0x03 [] (countWindow c s))) ∧
        (addrLand q.addr / 32 < b.chunks → 64 ≤ (combinerOf s c).length → exec (.basinContribution id) s = .next s) ∧
        (addrLand q.addr / 32 < b.chunks → (combinerOf s c).length < 64 → exec (.basinContribution id) s = .next (answer q 0x00 []
          (setCombiner c (combinerOf s c ++ [⟨e, addrLand q.addr / 32, q.data.take 32, r.gen⟩]) s)))))) ∧
  (∀ (s : State) (c : Cl), (combinerOf s c = [] ∨ arithOn s c = false → exec (.basinCombine c) s = .next s) ∧
    (∀ k rest b f, combinerOf s c = k :: rest → arithOn s c = true → (epOf s c k.ep.val).basin = some b → elemFmt b.format.toNat = some f →
      let r := epOf s c k.ep.val
      let u := setCombiner c rest s
      let a := clAddr 1 c (r.queue + 32 * k.chunk)
      let m := sramRead a 32 false (clUnit c) u
      let n := 256 / f.bits
      let outs := (List.range n).map fun i => combineElem b f ((unpack (leNat m.2.1) f.bits n).getD i 0) ((unpack (leNat k.data) f.bits n).getD i 0)
      let hit : Bool := b.target != 0 && b.count + 1 == b.target
      (r.gen ≠ k.gen → exec (.basinCombine c) s = .next u) ∧
      (r.gen = k.gen → ∃ t, exec (.basinCombine c) s = .next t ∧ combinerOf t c = rest ∧
        (epOf t c k.ep.val).basin = some { b with count := b.count + 1, done := b.done || hit } ∧
        t.sync.notes = s.sync.notes ++ (if hit then (r.note.toList.map fun o => ⟨c, o, 1, .none⟩) else []) ∧
        (m.1 = 0x00 → t.mem.sram = (sramWrite a (leBytes 32 (pack f.bits (outs.map (·.code)))) (clUnit c) m.2.2).2.mem.sram) ∧
        (m.1 ≠ 0x00 → t.mem.sram = s.mem.sram)))) ∧
  (∀ (b : Basin) (f : EFmt) (x y : Nat), combineElem b f x y = if b.max then (minmaxV true (f.decode x) (f.decode y)).finish f
    else (addV (f.decode x) (f.decode y)).finish f b.sat) ∧
  (∀ (s : State) (c : Cl) (w : Waiter), (match w with | .ctx x => x.c = c | .io d _ => d = c) → ∀ e cls since unit,
    waitOf s w = some (e, cls, since, unit) →
    ((syncRegs s c).watchdog.toNat = 0 ∨ s.sync.reported.contains w = true ∨ arithOn s c = false → exec (.channelDeadlock c w) s = .next s) ∧
    ((syncRegs s c).watchdog.toNat ≠ 0 → s.sync.reported.contains w = false → arithOn s c = true →
      ∃ t, exec (.channelDeadlock c w) s = .next t ∧ t.sync.reported = s.sync.reported ++ [w] ∧
        since + usec (syncRegs s c).watchdog.toNat ≤ t.t.now ∧ t.core = s.core ∧ t.mem.sram = s.mem.sram)))

/-- Messages. CHSEND, where its context issues, writes the status that its endpoint refuses it with, or waits for
its implied RELEASE, or, with a credit, spends it and sends one message of 32 bytes and a trailer, or else leaves
its context WAITING for one. A message at a queue is refused where the endpoint is not connected, its sender not the
peer, the connection another or the slot not its own; it lands in an expected empty slot, is counted as seen before,
or is outside the window. Its reply acts on the endpoint that still holds the connection: OK leaves it (a
contributor's credit returns), CLOSED and IN_RESET return the credit and leave it PEER_CLOSED, a first TIMEOUT sends
it again, and a second, or another status, leaves it BROKEN. CHRECV takes the next message of its class and frees
its slot, or writes EMPTY, CLOSED or what refuses it; CONSUME frees as many; the freed slots return in one CREDIT
packet, which adds them to the peer's credits up to the full count (R161, R272-R277, R285). -/
def Obligations.ChannelMessages : Prop :=
  (∀ (s : State) (x : CtxId) (rd vs re : Reg), Issues s x [.x rd, .v vs, .x re] →
    let w := (xr s x re).toNat
    let e : Fin 256 := Fin.ofNat 256 (fld w 0 8)
    let cls := bit w 8
    let r := epOf s x.c e.val
    let st := if fld w 14 50 ≠ 0 then 0x03 else sendCheck r cls (fld w 9 5) (!r.split || r.contributor)
    (st ≠ 0x00 → exec (.chsend x rd vs re) s = .next (retire x (wx x rd (st.setWidth 64) s))) ∧
    (st = 0x00 → impliedRelease s x r.peer = false → exec (.chsend x rd vs re) s = .next s) ∧
    (st = 0x00 → impliedRelease s x r.peer = true →
      (hasCredit r cls = true →
        exec (.chsend x rd vs re) s = .next (retire x (sendMsg (.core x) x.c e cls (leBytes 32 (vr s x vs).toNat) (some rd) 0 s))) ∧
      (hasCredit r cls = false → ∃ t, exec (.chsend x rd vs re) s = .next t ∧ (ctxRec t x).state = .waiting ∧ (ctxRec t x).waitKind = 2 ∧
        (ctxRec t x).held = some (.send e (vr s x vs) rd) ∧
        (epOf t x.c e.val).waiting = r.waiting ++ [.ctx x] ∧ (ctxRec t x).pc = (ctxRec s x).pc))) ∧
  (∀ (s : State) (id : Nat) (q : Xact) (c : Cl), AtTarget s id q c → q.kind = .message →
    let e := addrEp q.addr
    let r := epOf s c e
    let tr := leNat ((q.data.drop 32).take 8)
    let seq : BitVec 16 := BitVec.ofNat 16 (fld tr 0 16)
    let cls := bit tr 29
    let n := if r.split then 64 else 128
    let slot := seq.toNat % n + (if cls then 64 else 0)
    let rcv := if cls then r.rcvRsp else r.rcvReq
    r.state ≠ .basin →
    (connected r = false → exec (.messageArrive id) s = .next (answer q 0x0A [] s)) ∧
    (connected r = true → isPeer r q (fld tr 16 8) = false → exec (.messageArrive id) s = .next (answer q 0x04 [] s)) ∧
    (connected r = true → isPeer r q (fld tr 16 8) = true →
      (BitVec.ofNat 32 (fld tr 32 32) ≠ r.gen ∨ r.contributor = true → exec (.messageArrive id) s = .next (answer q 0x0A [] s)) ∧
      (BitVec.ofNat 32 (fld tr 32 32) = r.gen → r.contributor = false →
        (addrLand q.addr ≠ slot * 32 → exec (.messageArrive id) s = .next (answer q 0x03 [] (countWindow c s))) ∧
        (addrLand q.addr = slot * 32 →
          ((seq - rcv).toNat < n → r.slots.get none slot = none →
            exec (.messageArrive id) s = .next (answer q 0x00 [] (land c e slot seq (q.data.take 32) s))) ∧
          (r.slots.get none slot ≠ none ∨ n ≤ (seq - rcv).toNat →
            ((seq - rcv).toNat < n ∧ r.slots.get none slot = some seq ∨ 1 ≤ (rcv - seq).toNat ∧ (rcv - seq).toNat ≤ 4096 →
              exec (.messageArrive id) s = .next (answer q 0x00 [] (countDup c s))) ∧
            (¬ ((seq - rcv).toNat < n ∧ r.slots.get none slot = some seq ∨ 1 ≤ (rcv - seq).toNat ∧ (rcv - seq).toNat ≤ 4096) →
              exec (.messageArrive id) s = .next (answer q 0x03 [] (countWindow c s)))))))) ∧
  (∀ (s : State) (id : Nat) (q : Xact) (c : Cl) (ep : Fin 256) (cls : Bool) (seq : BitVec 16) (rd : Option Reg) (conn : Nat) (st : Byte)
    (d : List Byte), Answered s id q st d → q.use = .send ep cls seq rd conn → senderCl q.who = some c → asleep s q.src = false →
    let u := dropXact id s
    let r := epOf s c ep.val
    let fin := fun v => sendDone q rd st ioDone v
    (connected r = false ∨ r.conn ≠ conn → exec (.messageAck id) s = .next (fin u)) ∧
    (connected r = true → r.conn = conn →
      (st = 0x00 → exec (.messageAck id) s = .next (fin (if r.contributor then sendWaiting c ep 256 (creditBack c ep.val cls u) else u))) ∧
      (st = 0x0A ∨ st = 0x05 → exec (.messageAck id) s = .next (fin (leaveOpen c ep.val .peerClosed (creditBack c ep.val cls u)))) ∧
      (st = 0x06 → r.contributor = true → exec (.messageAck id) s = .next (fin (sendWaiting c ep 256 (creditBack c ep.val cls u)))) ∧
      (st = 0x06 → r.contributor = false → q.again = true → exec (.messageAck id) s = .next (fin (leaveOpen c ep.val .broken u))) ∧
      (st = 0x06 → r.contributor = false → q.again = false → ∃ t k, exec (.messageAck id) s = .next t ∧ xactOf t u.net.nextId = some k ∧
        k.kind = .message ∧ k.addr = q.addr ∧ k.data = q.data ∧ k.use = q.use ∧ k.again = true ∧ t.sync = s.sync ∧ t.core = s.core) ∧
      (st ≠ 0x00 → st ≠ 0x0A → st ≠ 0x05 → st ≠ 0x06 → exec (.messageAck id) s = .next (fin (leaveOpen c ep.val .broken u))))) ∧
  (∀ (s : State) (x : CtxId) (rd vd re : Reg), Issues s x [.x rd, .v vd, .x re] →
    let w := (xr s x re).toNat
    let e := fld w 0 8
    let cls := bit w 8
    let r := epOf s x.c e
    let slot := (if cls then r.rcvRsp else r.rcvReq).toNat % (if r.split then 64 else 128) + (if cls then 64 else 0)
    let u := dropEntries x s
    let m := sramRead (clAddr 1 x.c (r.queue + 32 * slot)) 32 false (coreUnit x.c x.k.val) u
    let done := fun (st : Word) v => retire x (wx x rd st v)
    (fenceOk s x .acquire .g = false → exec (.chrecv x rd vd re) s = .next s) ∧
    (fenceOk s x .acquire .g = true →
      (fld w 9 55 ≠ 0 ∨ (cls = true ∧ r.split = false) → exec (.chrecv x rd vd re) s = .next (done 0x03 u)) ∧
      (fld w 9 55 = 0 → (cls = false ∨ r.split = true) →
        (r.contributor = true ∨ connected r = false → exec (.chrecv x rd vd re) s = .next (done 0x04 u)) ∧
        (r.contributor = false → connected r = true →
          (slotHeld r cls 0 = true → m.1 = 0x00 →
            exec (.chrecv x rd vd re) s = .next (done 0 (freeSlot x.c e cls (wv x vd (BitVec.ofNat 256 (leNat m.2.1)) m.2.2)))) ∧
          (slotHeld r cls 0 = true → m.1 ≠ 0x00 → exec (.chrecv x rd vd re) s = .next (done (m.1.setWidth 64) m.2.2)) ∧
          (slotHeld r cls 0 = false → r.state = .opened → exec (.chrecv x rd vd re) s = .next (done 0x01 u)) ∧
          (slotHeld r cls 0 = false → r.state ≠ .opened → exec (.chrecv x rd vd re) s = .next (done 0x0A u)))))) ∧
  (∀ (s : State) (who : Requester) (c : Cl) (e : Fin 256) (v : Word), regPerm s who c = 0x00 →
    let r := epOf s c e.val
    let cls := bit v.toNat 3
    let k := fld v.toNat 8 8
    let ans := fun (st : Byte) (u : State) => reply 0x00 (setEp c e.val { epOf u c e.val with cmdStatus := st } u)
    (fld v.toNat 4 4 ≠ 0 ∨ fld v.toNat 16 48 ≠ 0 ∨ k = 0 ∨ (cls = true ∧ r.split = false) → exec (.consume who c e v) s = .next (ans 0x03 s)) ∧
    (fld v.toNat 4 4 = 0 → fld v.toNat 16 48 = 0 → k ≠ 0 → (cls = false ∨ r.split = true) →
      (r.contributor = true ∨ connected r = false ∨ (List.range k).all (slotHeld r cls) = false →
        exec (.consume who c e v) s = .next (ans 0x04 s)) ∧
      (r.contributor = false → connected r = true → (List.range k).all (slotHeld r cls) = true →
        exec (.consume who c e v) s = .next (ans 0x00 ((List.range k).foldl (fun s _ => freeSlot c e.val cls s) s))))) ∧
  (∀ (s : State) (c : Cl) (e : Nat) (cls : Bool), let r := epOf s c e
    let t := epOf (freeSlot c e cls s) c e
    t.slots.get none ((if cls then r.rcvRsp else r.rcvReq).toNat % (if r.split then 64 else 128) + (if cls then 64 else 0)) = none ∧
    (cls = true → t.rcvRsp = r.rcvRsp + 1 ∧ t.freedRsp = r.freedRsp + 1 ∧ t.rcvReq = r.rcvReq ∧ t.freedReq = r.freedReq) ∧
    (cls = false → t.rcvReq = r.rcvReq + 1 ∧ t.freedReq = r.freedReq + 1 ∧ t.rcvRsp = r.rcvRsp ∧ t.freedRsp = r.freedRsp)) ∧
  (∀ (s : State) (c : Cl) (e : Fin 256), let r := epOf s c e.val
    let u := setEp c e.val { r with freedReq := 0, freedRsp := 0, freedAt := none } s
    (r.freedReq + r.freedRsp = 0 → exec (.creditPacketSend c e) s = .next s) ∧
    (r.freedReq + r.freedRsp ≠ 0 → (r.state = .opened ∨ r.state = .broken) →
      exec (.creditPacketSend c e) s = .next (issueReq (.config c) (owner s c) (.object 8) r.peer 4
        (leBytes 4 (r.freedReq + r.freedRsp * 2 ^ 16)) 0 false false c (.credit e) u)) ∧
    (r.freedReq + r.freedRsp ≠ 0 → r.state ≠ .opened → r.state ≠ .broken → exec (.creditPacketSend c e) s = .next u)) ∧
  (∀ (s : State) (id : Nat) (q : Xact) (c : Cl), AtTarget s id q c → q.kind = .object 8 →
    let e : Fin 256 := Fin.ofNat 256 (addrEp q.addr)
    let r := epOf s c e.val
    let n := leNat (q.data.take 4)
    (connected r = true → r.contributor = false →
      exec (.creditArrive id) s = .next (answer q 0x00 (leBytes 4 0) (sendWaiting c e 512 (setEp c e.val
        { r with creditsReq := min (fullCredits r.split).1 (r.creditsReq + fld n 0 16),
                 creditsRsp := min (fullCredits r.split).2 (r.creditsRsp + fld n 16 16) } s)))) ∧
    (connected r = false ∨ r.contributor = true → exec (.creditArrive id) s = .next (answer q 0x00 (leBytes 4 0) s)))

/-! ### Pumps and memory -/

/-- PSUB of a context that issues. An odd vn is an illegal instruction. Until the fence of its accesses holds, the
state stays as it is. Then the selector's reserved bits, the channel's binding, its power, the descriptor's fields
and the room in the queue are checked in this order: a failed check traps with its status after the instruction
retired, but a full queue of the cluster's own pump makes PSUB wait. A descriptor that passes joins the end of the
channel's queue, of a cluster's or of a bound stack's pump; an IDLE channel becomes RUNNING (R205, R245, R246,
R249). A pump's reads and beats. The reply of a read of a descriptor still queued is kept for its place: its bytes
in the read buffer, its index elements beside their elements, or its failed status with the place it hits; then a
failure that the next byte waits for halts the descriptor, units that write nothing are passed, and reads are issued
up to the pump's limits. A reply to a discarded read, or to a descriptor gone, only frees its place in those limits.
A beat goes to the channel whose turn it is: it moves up to 64 bytes into the packet under way, writes the packet
once it is complete, and issues reads again; a pump without power, or with no channel ready, does nothing. Bytes
written and answered OK are counted, and nothing is counted of a write from before a reset (R251, R253, R254, R256,
R257, R258). A channel's descriptors in order. A start marks the first descriptor not started once the reads of
those before it are issued or, with FENCE, their writes complete; it waits on a halted channel and without power. A
started head with every byte written and no write under way sends its notification once or, without one, leaves the
queue and counts with status OK; until then nothing is done. RESTART, refused unless the channel is HALTED, drops
the halted descriptor and goes on; ABORT, refused of an IDLE channel, discards every descriptor, notifies those that
ask, and leaves the channel IDLE with status ABORTED and the last tag; a reserved bit gives BAD_PARAM; each writes
CMD_STATUS. A write that the channel's permissions refuse is answered with their status and changes nothing else
(R253, R255, R256, R257). -/
def Obligations.PumpChannels : Prop :=
  (∀ (s : State) (x : CtxId) (rs vn : Reg), Issues s x [.x rs, .v vn, .v (vn + 1)] →
    let w := (xr s x rs).toNat
    let raw := (vr s x vn).toNat + (vr s x (vn + 1)).toNat * 2 ^ 256
    let far := farAddr s (BitVec.ofNat 64 (dSrc raw)) || farAddr s (BitVec.ofNat 64 (dDst raw)) ||
      (dIndexed raw && farAddr s (BitVec.ofNat 64 (dIndex raw)))
    let ch : ChanId := if bit w 4 then .stack (Fin.ofNat 48 (fld w 5 6)) (Fin.ofNat 16 w) else .cluster x.c (Fin.ofNat 8 w)
    let r := chanOf s ch
    let selBad : Bool := fld w 11 53 != 0 || (if bit w 4 then decide (48 ≤ fld w 5 6) else fld w 5 6 != 0 || bit w 3)
    let st : Byte := if selBad then 0x03 else if bit w 4 && (r.owner.isNone || r.owner != owner s x.c) then 0x04
      else if bit w 4 && !pumpOn s (chanPump ch) then 0x09 else if !descOk s raw then 0x03
      else if bit w 4 && decide (16 ≤ r.queue.length) then 0x0E else 0x00
    (vn.val % 2 = 1 → exec (.psub x rs vn) s = .next (illegal x s)) ∧
    (vn.val % 2 = 0 → fenceOk s x .release (if far then .g else .m) = false → exec (.psub x rs vn) s = .next s) ∧
    (vn.val % 2 = 0 → fenceOk s x .release (if far then .g else .m) = true →
      (st ≠ 0x00 → exec (.psub x rs vn) s = .next (accessTrap x st (ctxRec s x).pc (chanAddr ch) (retire x s))) ∧
      (st = 0x00 → bit w 4 = false → 8 ≤ r.queue.length → exec (.psub x rs vn) s = .next s) ∧
      (∀ p, st = 0x00 → (bit w 4 = false → r.queue.length < 8) → owner s x.c = some p → exec (.psub x rs vn) s =
        .next (retire x (setChan ch { r with
            queue := r.queue ++ [{ serial := s.pump.nextSerial, raw := BitVec.ofNat 512 raw, part := p }],
            state := if r.state = .idle then .running else r.state }
          { s with pump := { s.pump with nextSerial := s.pump.nextSerial + 1 } }))))) ∧
  ((∀ (s : State) (id : Nat) (q : Xact) (st : Byte) (data : List Byte) (ch : ChanId) (serial u off : Nat) (d : Desc),
    Answered s id q st data → q.who = .pump ch → q.use = .pumpRead ch serial u off → (whoEdge q.who ≠ none ∨ asleep s q.src = false) →
    (chanOf s ch).queue.find? (fun e => e.serial == serial) = some d → q.orphaned = false →
    let bad : BadRead := { u := u, off := off, st := st, quiet := if q.ra then some (q.addr, q.len) else none }
    let d1 : Desc := if st = 0x00 then { d with buf := d.buf ++ [(u, off, data)] } else { d with bad := d.bad ++ [bad] }
    let t := checkBad ch (skipUnits ch 65 (setDesc ch d1 (dropXact id s)))
    exec (.pumpReadReturn id) s = .next (issueReads (chanPump ch) 64
      (if !beatReady (dropXact id s) ch && beatReady t ch then setChan ch { chanOf t ch with waitSince := netCycles t.t t.t.now } t else t))) ∧
  (∀ (s : State) (id : Nat) (q : Xact) (st : Byte) (data : List Byte) (ch : ChanId) (serial first : Nat) (d : Desc),
    Answered s id q st data → q.who = .pump ch → q.use = .pumpIndex ch serial first → (whoEdge q.who ≠ none ∨ asleep s q.src = false) →
    (chanOf s ch).queue.find? (fun e => e.serial == serial) = some d → q.orphaned = false →
    let w := dIdxBytes d.raw.toNat
    let vs := (List.range (data.length / w)).map fun i => (first + i, BitVec.ofNat 64 (leNat ((data.drop (w * i)).take w)))
    let bad : BadRead := { u := first, off := 0, st := st, quiet := if q.ra then some (q.addr, q.len) else none }
    let d1 : Desc := if st = 0x00 then { d with idx := vs.foldl (fun m v => m.set none v.1 (some v.2)) d.idx } else { d with bad := d.bad ++ [bad] }
    let t := checkBad ch (skipUnits ch 65 (setDesc ch d1 (dropXact id s)))
    exec (.pumpReadReturn id) s = .next (issueReads (chanPump ch) 64
      (if !beatReady (dropXact id s) ch && beatReady t ch then setChan ch { chanOf t ch with waitSince := netCycles t.t t.t.now } t else t))) ∧
  (∀ (s : State) (id : Nat) (q : Xact) (st : Byte) (data : List Byte) (ch : ChanId) (serial u off : Nat), Answered s id q st data →
    q.who = .pump ch → (q.use = .pumpRead ch serial u off ∨ q.use = .pumpIndex ch serial u) → (whoEdge q.who ≠ none ∨ asleep s q.src = false) →
    (q.orphaned = true ∨ (chanOf s ch).queue.find? (fun e => e.serial == serial) = none) →
    exec (.pumpReadReturn id) s = .next (issueReads (chanPump ch) 64 (dropXact id s))) ∧
  (∀ (s : State) (p : PumpId) (ch : ChanId) (d : Desc) (a len : Nat) (bytes : List Byte), pumpOn s p = true → beatChan s p = some ch →
    writeDesc s ch = some d → beatData d = some (a, len, bytes) →
    let carry := d.carry ++ bytes
    let off := d.wrOff + len
    let d1 : Desc := if dLen d.raw.toNat ≤ off then { d with wrU := d.wrU + 1, wrOff := 0, carry := [], writes := d.writes + 1 }
      else { d with wrOff := off, carry := [], writes := d.writes + 1 }
    let t := if carry.length < len then setDesc ch (trimBuf { d with carry := carry }) s
      else pumpReq ch d .write a len carry false (.pumpWrite ch d.serial d.wrU d.wrOff) (setDesc ch (trimBuf d1) s)
    let t := setPumpCtr p { pumpCtr t p with last := chanKey ch % 16 } t
    exec (.pumpBeat p) s = .next (issueReads p 64 (checkBad ch (skipUnits ch 65
      (setChan ch { chanOf t ch with waitSince := netCycles t.t t.t.now } t))))) ∧
  (∀ (s : State) (p : PumpId), pumpOn s p = false ∨ beatChan s p = none → exec (.pumpBeat p) s = .next s) ∧
  (∀ (s : State) (id : Nat) (q : Xact) (st : Byte) (data : List Byte) (ch : ChanId) (serial u off : Nat), Answered s id q st data →
    q.who = .pump ch → q.use = .pumpWrite ch serial u off → (whoEdge q.who ≠ none ∨ asleep s q.src = false) →
    let t := if st = 0x00 then addMoved (chanPump ch) q.len (dropXact id s) else dropXact id s
    (q.orphaned = true → exec (.pumpWriteComplete id) s = .next (dropXact id s)) ∧
    (q.orphaned = false → (chanOf t ch).queue.find? (fun e => e.serial == serial) = none → exec (.pumpWriteComplete id) s = .next t) ∧
    (∀ d, q.orphaned = false → (chanOf t ch).queue.find? (fun e => e.serial == serial) = some d →
      let d1 : Desc := { d with writes := d.writes - 1 }
      let u1 := setDesc ch d1 t
      exec (.pumpWriteComplete id) s = .next (settleHead ch 17 (if st ≠ 0x00 then haltAt ch d1 st u off u1 else u1))))) ∧
  ((∀ (s : State) (ch : ChanId) (d : Desc), (chanOf s ch).queue.find? (fun e => !e.started) = some d →
    let before := (chanOf s ch).queue.filter fun e => e.started
    let idle (e : Desc) : Bool := (e.halted || decide (e.count ≤ e.wrU)) && e.writes == 0
    let ready : Bool := if dFence d.raw.toNat then before.all idle else before.all fun e => e.halted || decide (e.count ≤ e.rdU)
    (pumpOn s (chanPump ch) = true → (chanOf s ch).state ≠ .halted → ready = true → exec (.pumpDescriptorStart ch) s =
      .next (issueReads (chanPump ch) 64 (setDesc ch { d with started := true } (setChan ch { chanOf s ch with state := .running } s)))) ∧
    (pumpOn s (chanPump ch) = true → ((chanOf s ch).state = .halted ∨ ready = false) →
      exec (.pumpDescriptorStart ch) s = .next (issueReads (chanPump ch) 64 s)) ∧
    (pumpOn s (chanPump ch) = false → exec (.pumpDescriptorStart ch) s = .next s)) ∧
  (∀ (s : State) (ch : ChanId),
    let t := skipUnits ch 65 s
    (∀ d rest, (chanOf t ch).queue = d :: rest →
      let done : Prop := d.started = true ∧ d.halted = false ∧ d.count ≤ d.wrU ∧ d.writes = 0 ∧ d.noteSent = false
      (done → dNotify d.raw.toNat = true → exec (.pumpDescriptorComplete ch) s = .next (sendNote ch d (setDesc ch { d with noteSent := true } t))) ∧
      (done → dNotify d.raw.toNat = false → exec (.pumpDescriptorComplete ch) s = .next (finishDesc ch d t)) ∧
      (¬ done → exec (.pumpDescriptorComplete ch) s = .next t)) ∧
    ((chanOf t ch).queue = [] → exec (.pumpDescriptorComplete ch) s = .next t)) ∧
  (∀ (s : State) (who : Requester) (ch : ChanId) (v : Word),
    let r := chanOf s ch
    (chanPerm s who ch ≠ 0x00 → exec (.pumpRestart who ch v) s = .next (reply (chanPerm s who ch) s) ∧
      exec (.pumpAbort who ch v) s = .next (reply (chanPerm s who ch) s)) ∧
    (chanPerm s who ch = 0x00 → fld v.toNat 2 62 ≠ 0 →
      exec (.pumpRestart who ch v) s = .next (reply 0x00 (setChan ch { r with cmdStatus := 0x03 } s)) ∧
      exec (.pumpAbort who ch v) s = .next (reply 0x00 (setChan ch { r with cmdStatus := 0x03 } s))) ∧
    (chanPerm s who ch = 0x00 → fld v.toNat 2 62 = 0 →
      (r.state ≠ .halted → exec (.pumpRestart who ch v) s = .next (reply 0x00 (setChan ch { r with cmdStatus := 0x04 } s))) ∧
      (r.state = .idle → exec (.pumpAbort who ch v) s = .next (reply 0x00 (setChan ch { r with cmdStatus := 0x04 } s))) ∧
      (r.state = .halted →
        let q := r.queue.map fun d => { d with dropped := d.halted }
        let u := issueReads (chanPump ch) 64 (settleHead ch 17 (setChan ch { r with state := .running, queue := q } s))
        exec (.pumpRestart who ch v) s = .next (reply 0x00 (setChan ch { chanOf u ch with cmdStatus := 0x00 } u))) ∧
      (r.state ≠ .idle → ∃ t, exec (.pumpAbort who ch v) s = .next t ∧ (chanOf t ch).queue = [] ∧ (chanOf t ch).state = .idle ∧
        (chanOf t ch).cmdStatus = 0x00 ∧ (∀ d, r.queue.getLast? = some d → (chanOf t ch).lastStatus = 0x0B ∧ (chanOf t ch).lastTag = d.tag) ∧
        t.ioReply = 0x00 ∧ t.mem.sram = s.mem.sram ∧ t.core = s.core))))

/-- Reading bytes just written to a byte memory gives the bytes written, and a write changes no byte outside its
range. -/
def Obligations.MemoryReadAfterWrite : Prop :=
  ∀ (m : SMap Byte) (a : Nat) (d : List Byte), SMap.wf 0 m = true →
    SMap.wf 0 (writeBytes m a d) = true ∧ readBytes (writeBytes m a d) a d.length = d ∧
      ∀ b, b < a ∨ a + d.length ≤ b → SMap.get 0 (writeBytes m a d) b = SMap.get 0 m b

/-- Requests that reached their SRAM or stack. At a cluster in spaces 0x1 to 0x3, where space 0x3 is
MEM_TILE_OUTSIDE_ACCESS, a failed check of ownership, reset or power is answered with its code; a dry unit answers
HW_FAULT; an older overlapping request of the same unit is performed first; otherwise the access is performed and
answered. At a stack, a page not mapped answers BAD_PARAM and a failed check its code; a read answers the stack's
bytes or its error; a write stores or answers its error, or waits while the page's ahead list is full; an atomic
reads and writes in one, and a failed read stores nothing (R185, R194, R196, R199, R203, R207). Requests that
reached a register or host memory. A register write takes its block's effect and answers its status, but a fountain
command waits for its sender's stores; a register read answers the value. A host access without a partition or a
port answers NOT_PERMITTED; an older overlapping request of the same unit is performed first; a write is posted,
answered OK at once, and stores where the port is up and the host completes it; a read answers the host's bytes or
the status of its completion, and has no answer on a port that is down (R189, R190, R203, R227). Where an SRAM has
no unit in error, a read answers the bytes in memory and changes none, and a write stores exactly its bytes and
changes no stack (R185, R199). -/
def Obligations.MemoryAccessesServed : Prop :=
  ((∀ (s : State) (id : Nat) (q : Xact) (c : Cl), xactOf s id = some q → q.phase = .there → addrCl q.addr = some c →
    (q.kind = .read ∨ q.kind = .write ∨ ∃ op, q.kind = .atomic op) →
    let cmd : Instr := if addrSpace q.addr = 3 then .memTileOutsideAccess id else .memAccessServe id
    addrSpace q.addr = 1 ∨ addrSpace q.addr = 2 ∨ addrSpace q.addr = 3 →
    (clusterCheck s q c ≠ 0x00 → exec cmd s = .next (answer q (clusterCheck s q c) [] s)) ∧
    (clusterCheck s q c = 0x00 → asleep s c = false → arithOn s c = true →
      (dryUnit s c q.addr = true → exec cmd s = .next (answer q 0x09 [] s)) ∧
      (dryUnit s c q.addr = false → olderOverlap s q = true → exec cmd s = .next s) ∧
      (dryUnit s c q.addr = false → olderOverlap s q = false →
        let u := whoUnit q.who
        let r := sramRead q.addr q.len q.ra u s
        let w := sramWrite q.addr q.data u s
        (q.kind = .read → exec cmd s = .next (settle (answer q r.1 r.2.1 r.2.2))) ∧
        (q.kind = .write → exec cmd s = .next (settle (answer q w.1 [] w.2))) ∧
        (∀ op, q.kind = .atomic op →
          let r := sramRead q.addr q.len false u s
          let w := sramWrite q.addr (atomNew op q.sat r.2.1 q.data (leBytes 8 q.operand.toNat)) u r.2.2
          (r.1 ≠ 0x00 → exec cmd s = .next (settle (answer q r.1 [] r.2.2))) ∧
          (r.1 = 0x00 → exec cmd s = .next (settle (answer q w.1 (if w.1 = 0x00 then r.2.1 else []) w.2))))))) ∧
  (∀ (s : State) (id : Nat) (q : Xact), xactOf s id = some q → q.phase = .there → addrSpace q.addr = 0 →
    (q.kind = .read ∨ q.kind = .write ∨ ∃ op, q.kind = .atomic op) →
    (q.phys = none → exec (.memAccessServe id) s = .next (answer q 0x03 [] s)) ∧
    (∀ n phys, q.phys = some (n, phys) →
      (stackCheck s q n phys ≠ 0x00 → exec (.memAccessServe id) s = .next (answer q (stackCheck s q n phys) [] s)) ∧
      (stackCheck s q n phys = 0x00 → olderOverlap s q = true → exec (.memAccessServe id) s = .next s) ∧
      (∀ p, stackCheck s q n phys = 0x00 → olderOverlap s q = false → q.part = some p →
        let u := countStack n p q.len s
        (q.kind = .read →
          let r := stackRead n phys q.len q.addr q.part q.ra (whoUnit q.who) u
          exec (.memAccessServe id) s = .next (settle (answer q r.1 r.2.1 r.2.2))) ∧
        (q.kind = .write →
          (∀ r, stackWrite n phys q.data q.addr q.part (whoUnit q.who) u = some r →
            exec (.memAccessServe id) s = .next (settle (answer q r.1 [] r.2))) ∧
          (stackWrite n phys q.data q.addr q.part (whoUnit q.who) u = none → exec (.memAccessServe id) s = .next (settle u))) ∧
        (∀ op, q.kind = .atomic op →
          let r := stackRead n phys q.len q.addr q.part false (whoUnit q.who) u
          let w := stackWrite n phys (atomNew op q.sat r.2.1 q.data (leBytes 8 q.operand.toNat)) q.addr q.part (whoUnit q.who) r.2.2
          (r.1 ≠ 0x00 → exec (.memAccessServe id) s = .next (settle (answer q r.1 [] r.2.2))) ∧
          (∀ v, r.1 = 0x00 → w = some v →
            exec (.memAccessServe id) s = .next (settle (answer q v.1 (if v.1 = 0x00 then r.2.1 else []) v.2))) ∧
          (r.1 = 0x00 → w = none → exec (.memAccessServe id) s = .next (settle u))))))) ∧
  ((∀ (s : State) (id : Nat) (q : Xact), xactOf s id = some q → q.phase = .there → addrSpace q.addr = 4 →
    let r := regAddr q.src q.addr
    asleep s r.1 = false ∨ bit q.addr.toNat 38 = true →
    (q.kind = .write → fountainHeld q.who r.2 (some q.id) s = true → exec (.memAccessServe id) s = .next s) ∧
    (q.kind = .write → fountainHeld q.who r.2 (some q.id) s = false →
      let u := writeReg q.who r.1 r.2 (BitVec.ofNat 64 (leNat q.data)) s
      exec (.memAccessServe id) s = .next (answer q u.ioReply [] u)) ∧
    (q.kind = .read →
      let u := regRead q.who r.1 r.2 s
      exec (.memAccessServe id) s = .next (answer q u.ioReply (if u.ioReply = 0x00 then (leBytes 8 u.ioData.toNat).take q.len else []) u))) ∧
  (∀ (s : State) (id : Nat) (q : Xact), xactOf s id = some q → q.phase = .there → addrSpace q.addr = 8 →
    (q.kind = .read ∨ q.kind = .write) →
    (q.part = none → exec (.memAccessServe id) s = .next (answer q 0x04 [] s)) ∧
    (∀ p, q.part = some p → hostPort s p = none → exec (.memAccessServe id) s = .next (answer q 0x04 [] s)) ∧
    (∀ p port, q.part = some p → hostPort s p = some port → olderOverlap s q = true → exec (.memAccessServe id) s = .next s) ∧
    (∀ p (port : Fin 2), q.part = some p → hostPort s p = some port → olderOverlap s q = false →
      let a := fld q.addr.toNat 0 52
      let u := countPort (16 + port.val) p q.len s
      let st := hostStatus s a q.len
      (q.kind = .write → st = 0x00 → (s.host.ports[port]).up = true →
        exec (.memAccessServe id) s = .next (answer q 0x00 [] { u with mem := { u.mem with host := writeBytes u.mem.host a q.data } })) ∧
      (q.kind = .write → (st ≠ 0x00 ∨ (s.host.ports[port]).up = false) → exec (.memAccessServe id) s = .next (answer q 0x00 [] u)) ∧
      (q.kind = .read → (s.host.ports[port]).up = true → st ≠ 0x00 → exec (.memAccessServe id) s = .next (answer q st [] u)) ∧
      (q.kind = .read → (s.host.ports[port]).up = true → st = 0x00 →
        exec (.memAccessServe id) s = .next (answer q 0x00 (readBytes s.mem.host a q.len) u)) ∧
      (q.kind = .read → (s.host.ports[port]).up = false → exec (.memAccessServe id) s = .next u)))) ∧
  ((∀ (s : State) (a : Word) (n : Nat) (ra : Bool) (u : BitVec 32), s.mem.sramErr = [] → (∃ c, addrCl a = some c) →
    (sramRead a n ra u s).1 = 0x00 ∧ (sramRead a n ra u s).2.1 = readBytes s.mem.sram (sramKey a) n ∧
      (sramRead a n ra u s).2.2.mem.sram = s.mem.sram) ∧
  (∀ (s : State) (a : Word) (d : List Byte) (u : BitVec 32), s.mem.sramErr = [] → (∃ c, addrCl a = some c) →
    (sramWrite a d u s).1 = 0x00 ∧ (sramWrite a d u s).2.mem.sram = writeBytes s.mem.sram (sramKey a) d ∧
      (sramWrite a d u s).2.mem.stack = s.mem.stack))

/-- PAGE_ZERO_DONE zeroes the page at the head of its stack's order: the page's watermark covers all 262,144
granules, its ahead list is empty, no unit outside the granules written meanwhile keeps an error, and the next
page's turn comes; with no page to zero it does nothing. PATROL_SCRUB reads an 8-byte SRAM unit of a cluster whose
compute is on, or a 32-byte unit of a stack that answers and whose granule is not still to be zeroed, as any
requester reads it, and no other (R195-R198, R200). The CXL.mem window, at a port that is up and an address that its
decoder gives to this port. A read of a mapped slice answers the 64 bytes of the page it names, all ones with an
error where the stack is in error or does not answer, and zeros while the partition is in reset; a write stores, is
discarded in reset or where the stack does not answer, and waits behind a write to the same bytes or while the ahead
list is full. A slice not mapped reads as zeros, drops writes, and counts. At a port that is down, or at an address
not this port's, nothing happens (R196, R209, R210, R211). -/
def Obligations.ScrubZeroingAndCxlWindow : Prop :=
  ((∀ (s : State) (n : Fin 48), s.mem.zeroing.get [] n.val = [] → exec (.pageZeroDone n) s = .next s) ∧
  (∀ (s : State) (n : Fin 48) (page : Nat) (rest : List Nat), s.mem.zeroing.get [] n.val = page :: rest →
    let p := s.mem.pages.get {} (n.val * 64 + page)
    let base := n.val * 2 ^ 36 + page * 2 ^ 30
    let zeroed (j : Nat) : Bool := base ≤ 32 * j && 32 * j < base + 2 ^ 30 && !p.ahead.contains (32 * j % 2 ^ 30 / 4096)
    let t := { s with mem := { s.mem with
      zeroing := s.mem.zeroing.set [] n.val rest, stackErr := s.mem.stackErr.filter fun e => !zeroed e.1,
      pages := s.mem.pages.set {} (n.val * 64 + page) { p with mark := 262144, ahead := [], jobs := [] } } }
    exec (.pageZeroDone n) s = .next (retryCxl (pageZeroed p.jobs t))) ∧
  (∀ (s : State) (unit : Nat) (c : Cl), unit < 2 ^ 40 → addrCl (sramUnitAddr unit) = some c →
    (computeOff s c = false → exec (.patrolScrub unit) s = .next (settle (sramRead (sramUnitAddr unit) 8 false (clUnit c) s).2.2)) ∧
    (computeOff s c = true → exec (.patrolScrub unit) s = .next (settle s))) ∧
  (∀ (s : State) (unit : Nat), 2 ^ 40 ≤ unit →
    let k := 32 * (unit - 2 ^ 40)
    let n := Fin.ofNat 48 (k / 2 ^ 36)
    (stackOn s n = true → granuleZero s n (k % 2 ^ 36) = false → exec (.patrolScrub unit) s = .next (settle
      (stackRead n (k % 2 ^ 36) 32 (BitVec.ofNat 64 (n.val * 2 ^ 58 + k % 2 ^ 36)) none false (stackUnit n) s).2.2)) ∧
    (stackOn s n = false ∨ granuleZero s n (k % 2 ^ 36) = true → exec (.patrolScrub unit) s = .next (settle s)))) ∧
  ((∀ (s : State) (port : Fin 2) (hpa : Nat) (d : BitVec 512), (s.host.ports[port]).up = false ∨ hdmDecode s port hpa = none →
    exec (.cxlMemRead port hpa) s = .next s ∧ exec (.cxlMemWrite port hpa d) s = .next s) ∧
  (∀ (s : State) (port : Fin 2) (hpa a : Nat), (s.host.ports[port]).up = true → hdmDecode s port hpa = some a →
    ((hdmTarget s a = none ∨ ∃ p, hdmTarget s a = some (p, none)) → exec (.cxlMemRead port hpa) s = .next (cxlReply port 0 false (hdmCount s))) ∧
    (∀ p n phys, hdmTarget s a = some (p, some (n, phys)) →
      let u := countPort (16 + port.val) p 64 s
      let r := stackRead n phys 64 (hdmAddr u a) (some p) false (cxlUnit port) (countStack n p 64 u)
      (partResetting u p = true → exec (.cxlMemRead port hpa) s = .next (cxlReply port 0 false u)) ∧
      (partResetting u p = false → stackOn u n = false →
        exec (.cxlMemRead port hpa) s = .next (cxlReply port (2 ^ 512 - 1) true (aerSignal port u))) ∧
      (partResetting u p = false → stackOn u n = true → r.1 = 0x00 →
        exec (.cxlMemRead port hpa) s = .next (settle (cxlReply port (leNat r.2.1) false r.2.2))) ∧
      (partResetting u p = false → stackOn u n = true → r.1 ≠ 0x00 →
        exec (.cxlMemRead port hpa) s = .next (settle (cxlReply port (2 ^ 512 - 1) true (aerSignal port r.2.2)))))) ∧
  (∀ (s : State) (port : Fin 2) (hpa a : Nat) (d : BitVec 512), (s.host.ports[port]).up = true → hdmDecode s port hpa = some a →
    let hold : State := { s with mem := { s.mem with cxlHeld := s.mem.cxlHeld ++ [(port, a, d)] } }
    ((∃ e ∈ s.mem.cxlHeld, e.2.1 = a) → exec (.cxlMemWrite port hpa d) s = .next hold) ∧
    ((∀ e ∈ s.mem.cxlHeld, e.2.1 ≠ a) →
      ((hdmTarget s a = none ∨ ∃ p, hdmTarget s a = some (p, none)) → exec (.cxlMemWrite port hpa d) s = .next (hdmCount s)) ∧
      (∀ p n phys, hdmTarget s a = some (p, some (n, phys)) →
        let u := countPort (16 + port.val) p 64 s
        let w := stackWrite n phys (leBytes 64 d.toNat) (hdmAddr u a) (some p) (cxlUnit port) (countStack n p 64 u)
        (partResetting u p = true ∨ stackOn u n = false → exec (.cxlMemWrite port hpa d) s = .next u) ∧
        (∀ v, partResetting u p = false → stackOn u n = true → w = some v → exec (.cxlMemWrite port hpa d) s = .next (settle v.2)) ∧
        (partResetting u p = false → stackOn u n = true → w = none → exec (.cxlMemWrite port hpa d) s = .next hold)))))

/-! ### The mesh -/

/-- ROUTER_FORWARD. In an island whose clocks have not locked, and at an output for which no packet is ready,
nothing happens. Otherwise the granted packet's input port gives up its turn and the packet is dealt with, and what
waits at injection moves up: in a dead router it is lost; a request of a past epoch is answered STALE_EPOCH there
and counted, and a reply of one takes the current epoch on REQ0's class; at its destination a request goes to its
target and a reply to its requester, once its flits are in; with no live route a request is answered HW_FAULT and a
reply is discarded and counted; for a dead neighbour a packet is discarded and counted; any other takes the output
that its route names and makes one hop. A hop without a flit error, or to another wafer without a lane error, brings
it last into the next router's buffer, after its cycles (R215, R219, R220, R222, R234, R237). A PENDING notice for a
request that its target holds comes 5 µs after the holding began or the last notice: it is counted at the target's
router, and travels back to the requester; the request stays. A request not held there has no notice (R217, R239). -/
def Obligations.RouterForwarding : Prop :=
  ((∀ (s : State) (r : Cl) (out : Fin 5), (s.t.unlocked.contains (fieldOf r) = true ∨ granted s r out = none) →
    exec (.routerForward r out) s = .next s) ∧
  (∀ (s : State) (r : Cl) (out : Fin 5) (q : Xact), s.t.unlocked.contains (fieldOf r) = false → granted s r out = some q →
    let u : State := { s with freeCount := s.freeCount + 1,
                              net := { s.net with turns := s.net.turns.set 0 (turnKey r out q) (q.port + 1) } }
    let req : Bool := match q.phase with | .back _ _ => false | _ => true
    let k := ctrOf u r
    (s.net.deadRouters.get false (ck r) = true → exec (.routerForward r out) s = .next (refill r (loseXact q u))) ∧
    (s.net.deadRouters.get false (ck r) = false → stale s q = true →
      (req = true → exec (.routerForward r out) s = .next (refill r (answerAt r 4 q 0x0F []
        (wrapEvent (clUnit r) 0 0x0B03 none k.staleAnswered 1 (setCtr r { k with staleAnswered := k.staleAnswered + 1 } u))))) ∧
      (req = false → exec (.routerForward r out) s =
        .next (refill r (setXact { q with epoch := BitVec.ofNat 2 s.net.routeEpoch, vc1 := false } u)))) ∧
    (s.net.deadRouters.get false (ck r) = false → stale s q = false →
      let h := nextHop s.net.cur s.net.routeEpoch r (xactGoal q) q.vc1
      let v := takeOutput r out q (waitUntil u (q.since + cycTime u (4 + (xactFlits q - 1))))
      (h = .deliver → req = true → exec (.routerForward r out) s = .next (refill r (deliverRequest q v))) ∧
      (∀ st d, h = .deliver → q.phase = .back st d → exec (.routerForward r out) s = .next (refill r (deliverReply q st d v))) ∧
      (h = .unreachable → req = true → exec (.routerForward r out) s = .next (refill r (answerAt r 4 q 0x09 [] u))) ∧
      (h = .unreachable → req = false → exec (.routerForward r out) s = .next (refill r (countDiscard r (loseXact q u)))) ∧
      (∀ d move n, h = .port d move → nbr r d = some n →
        (s.net.deadRouters.get false (ck n) = true → exec (.routerForward r out) s = .next (refill r (countDiscard r (loseXact q u)))) ∧
        (s.net.deadRouters.get false (ck n) = false →
          exec (.routerForward r out) s = .next (refill r (hop q r n d move (takeOutput r out q u))))))) ∧
  (∀ (s : State) (q : Xact) (r n : Cl) (d : Fin 4) (move : Bool),
    (n.w ≠ r.w ∨ Config.flitError s.freeCount = false) → (crossingOf r d = none ∨ Config.laneErrors s.freeCount = []) →
    let u := waitUntil { s with freeCount := s.freeCount + 1 } (q.since + cycTime s (hopCycles s q r n s.freeCount))
    let y : Xact := { q with pos := n, port := ⟨(opp d).val, by omega⟩, vc1 := q.vc1 || move, since := u.t.now }
    hop q r n d move s = { u with net := { u.net with xacts := s.net.xacts.filter (fun x => x.id != q.id) ++ [y] } })) ∧
  (∀ (s : State) (id : Nat) (q : Xact), xactOf s id = some q →
    (heldAtTarget s q = false → exec (.pendingNotice id) s = .next s) ∧
    (heldAtTarget s q = true →
      let u := waitUntil s (q.since + usec 5)
      let k := ctrOf u q.dst
      let v := wrapEvent (clUnit q.dst) 0 0x0B03 none k.pendingSent 1 (setCtr q.dst { k with pendingSent := k.pendingSent + 1 } u)
      exec (.pendingNotice id) s = .next (sendPending q (setXact { q with since := v.t.now } v)) ∧
      s.t.now ≤ u.t.now ∧ q.since + usec 5 ≤ u.t.now))

/-- A change of route epoch. A loss starts one, and during one is kept for the next. Loaded tables launch at least
10 µs on; the launch pauses injection and begins the drain. The end of the drain counts the epoch, brings the
standby tables into use and ends the pause; a fault met meanwhile starts the next change. A router that dies is
marked dead with its cluster, once. A failed control bus loses its crossing, with a new epoch, once. A unit that
fails is fenced with cause 1: its tile, its core, or its whole cluster; a wellhead's are not (R230, R233, R235,
R237, R482, R483). -/
def Obligations.RouteEpochChange : Prop :=
  (∀ (s : State), s.net.stage ≠ .none → startEpoch s = { s with net := { s.net with again := true } }) ∧
  (∀ (s : State), s.net.stage = .none → (startEpoch s).net.stage = .computing ∧ (startEpoch s).net.standby = some (buildBank s) ∧
    (startEpoch s).net.paused = s.net.paused ∧ (startEpoch s).net.routeEpoch = s.net.routeEpoch ∧ (startEpoch s).net.cur = s.net.cur) ∧
  (∀ (s : State), (s.net.stage = .computing →
      exec .routeTablesLoaded s = .next { s with net := { s.net with stage := .loaded (s.t.now + usec 10) } }) ∧
    (s.net.stage ≠ .computing → exec .routeTablesLoaded s = .next s)) ∧
  (∀ (s : State),
    (∀ l, s.net.stage = .loaded l →
      let u := waitUntil s l
      exec .routeEpochLaunch s = .next { u with net := { u.net with stage := .draining u.t.now, paused := true } } ∧ l ≤ u.t.now) ∧
    ((∀ l, s.net.stage ≠ .loaded l) → exec .routeEpochLaunch s = .next s)) ∧
  (∀ (s : State) (since : Nat) (b : Bank), s.net.stage = .draining since → s.net.standby = some b →
    ∃ t, exec .routeEpochDrainEnd s = .next t ∧ t.net.routeEpoch = s.net.routeEpoch + 1 ∧ t.net.cur = b ∧ t.net.paused = false ∧
      t.net.again = false ∧ (s.net.again = false → t.net.stage = .none ∧ t.net.standby = none) ∧
      (s.net.again = true → t.net.stage = .computing)) ∧
  (∀ (s : State), ((∀ l, s.net.stage ≠ .draining l) ∨ s.net.standby = none) → exec .routeEpochDrainEnd s = .next s) ∧
  (∀ (s : State) (c : Cl), exec (.routerDies c) s = .next (fenceRouter c 5 s) ∧
    (2 ≤ (clState s c).val → exec (.routerDies c) s = .next s) ∧
    ((clState s c).val < 2 → ∃ t, exec (.routerDies c) s = .next t ∧ t.net.deadRouters.get false (ck c) = true ∧ 2 ≤ (clState t c).val)) ∧
  (∀ (s : State) (c : Cl) (x : Fin 2),
    let d : Fin 4 := if x = 0 then (if c.w.val % 2 = 0 then 1 else 3) else (if c.w.val < 2 then 2 else 0)
    (crossingOf c d = none → exec (.controlCrossingBusFail c x) s = .next s) ∧
    (∀ k, crossingOf c d = some k →
      (s.net.busLost.get false k = true → exec (.controlCrossingBusFail c x) s = .next s) ∧
      (s.net.busLost.get false k = false → exec (.controlCrossingBusFail c x) s =
        .next (startEpoch { s with net := { s.net with busLost := s.net.busLost.set false k true } })))) ∧
  (∀ (s : State) (c : Cl), isWellhead s c = true → ∀ u, exec (.clusterUnitFailure c u) s = .next s) ∧
  (∀ (s : State) (c : Cl), isWellhead s c = false →
    (∀ t, tileKind t ≠ 0 → exec (.clusterUnitFailure c (.tileParity t)) s = .next (fenceTile ⟨c, t⟩ 1 s)) ∧
    (∀ t, tileKind t = 0 → exec (.clusterUnitFailure c (.tileParity t)) s = .next s) ∧
    (∀ k, exec (.clusterUnitFailure c (.coreRegs k)) s = .next (fenceCore c k 1 s)) ∧
    (∀ u, u = .pump ∨ u = .objectUnit ∨ u = .combiner ∨ u = .configPath → exec (.clusterUnitFailure c u) s = .next (fenceCluster c 1 s)))

/-- An aqueduct lane that fails, if it still serves, goes out of service and LINK_DOWN is posted with its reason; a
signal lane takes its group's spare where that is free and serves, which starts to train for 20 µs; a spare that
fails stands in for nothing any more. A spare that has trained carries the lane it stands for from then on, and
LINK_UP is posted; without a training spare nothing happens (R229, R482). FOUNTAIN_SEND. A core's write waits for
its stores. Then the permission is checked and answered; a bad core field leaves BAD_PARAM in the status, and an
unknown fountain or a reserved bit BAD_PARAM, or a send under way INVALID_STATE, with its notification; else one
send starts: every member has a value on its way, and the registers read IN_FLIGHT. Each member applies its values
in the root's order, as a register write, unless the partition is in reset, the member is another's or its compute
is off, and answers; a member asleep holds its value. The oldest send that every member has answered completes with
the worst status, the number of members that failed and its notification (R226, R227, R236). -/
def Obligations.AqueductsAndFountains : Prop :=
  ((∀ (s : State) (w : Fin 4) (x : Fin 2) (lane : Fin 204) (rate : Bool),
    let wx := w.val * 2 + x.val
    (s.net.dry.lanes.get false (wx * 256 + lane.val) = true → exec (.aqueductLaneFail w x lane rate) s = .next s) ∧
    (s.net.dry.lanes.get false (wx * 256 + lane.val) = false →
      let g := if lane.val < 192 then lane.val / 16 else lane.val - 192
      let spare := s.net.spares.get none (wx * 16 + g)
      ∃ t, exec (.aqueductLaneFail w x lane rate) s = .next t ∧ t.net.dry.lanes.get false (wx * 256 + lane.val) = true ∧
        (lane.val < 192 → spare = none → s.net.dry.lanes.get false (wx * 256 + 192 + g) = false →
          t.net.spares.get none (wx * 16 + g) = some (lane.val, false) ∧ t.net.spareAt.get 0 (wx * 16 + g) = s.t.now + usec 20) ∧
        (lane.val < 192 → (spare ≠ none ∨ s.net.dry.lanes.get false (wx * 256 + 192 + g) = true) → t.net.spares.get none (wx * 16 + g) = spare) ∧
        (192 ≤ lane.val → t.net.spares.get none (wx * 16 + g) = none) ∧
        t.mem.sram = s.mem.sram ∧ t.core = s.core)) ∧
  (∀ (s : State) (w : Fin 4) (x : Fin 2) (g : Fin 12),
    let wx := w.val * 2 + x.val
    let k := wx * 16 + g.val
    (∀ l, s.net.spares.get none k = some (l, false) →
      let u := waitUntil s (s.net.spareAt.get 0 k)
      let v : State := { u with net := { u.net with spares := u.net.spares.set none k (some (l, true)), spareAt := u.net.spareAt.set 0 k 0 } }
      exec (.aqueductSpareReady w x g) s = .next (postTo .linkUp (laneUnit w x (192 + g.val)) [] false (moduleTide v)
        (([0, 0] : List Byte) ++ leBytes 2 (lanesActive v wx (l / 2))) v)) ∧
    ((∀ l, s.net.spares.get none k ≠ some (l, false)) → exec (.aqueductSpareReady w x g) s = .next s))) ∧
  ((∀ (s : State) (who : Requester) (c : Cl) (k : Fin 24) (v : Word),
    let n := v.toNat
    let r := fregOf s c k.val
    let note := if bit n 42 then some (⟨fld n 32 5, fld n 37 5⟩ : NoteRef) else none
    let f : Fin 16 := Fin.ofNat 16 n
    (fountainHeld who (.fountain k 8) none s = true → exec (.fountainSend who c k v) s = .next s) ∧
    (fountainHeld who (.fountain k 8) none s = false →
      (regPerm s who c ≠ 0x00 → exec (.fountainSend who c k v) s = .next (reply (regPerm s who c) s)) ∧
      (regPerm s who c = 0x00 → 24 ≤ fld n 32 5 →
        exec (.fountainSend who c k v) s = .next (reply 0x00 (setFreg c k.val { r with status := 0x03 } s))) ∧
      (regPerm s who c = 0x00 → fld n 32 5 < 24 → owner s c = none → exec (.fountainSend who c k v) s = .next (reply 0x04 s)) ∧
      (∀ p, regPerm s who c = 0x00 → fld n 32 5 < 24 → owner s c = some p →
        let e := s.net.fountains.get none (p.val * 16 + f.val)
        let bad : Prop := e = none ∨ fld n 4 4 ≠ 0 ∨ fld n 30 2 ≠ 0 ∨ fld n 43 21 ≠ 0 ∨ fld n 8 3 ≠ 0
        (bad → exec (.fountainSend who c k v) s = .next (reply 0x00 (notifyOpt c note (setFreg c k.val { r with status := 0x03 } s)))) ∧
        (¬ bad → r.inFlight = true →
          exec (.fountainSend who c k v) s = .next (reply 0x00 (notifyOpt c note (setFreg c k.val { r with status := 0x01 } s)))) ∧
        (∀ g, ¬ bad → r.inFlight = false → e = some g →
          let mk (m : Cl) : FVal := { send := s.net.nextSend, part := p, f := f, off := fld n 8 22, value := r.value, member := m }
          let send : FSend := { id := s.net.nextSend, part := p, f := f, src := c, core := k, note := note,
                                left := g.members.length, worst := 0x00, failed := 0 }
          exec (.fountainSend who c k v) s = .next (reply 0x00 (setFreg c k.val { r with inFlight := true } { s with net := { s.net with
            fvals := s.net.fvals ++ g.members.map mk, fsends := s.net.fsends ++ [send], nextSend := s.net.nextSend + 1 } })))))) ∧
  (∀ (s : State) (i : Nat), s.net.fvals[i]? = none → exec (.fountainValueApply i) s = .next s) ∧
  (∀ (s : State) (i : Nat) (v : FVal), s.net.fvals[i]? = some v →
    let before := (s.net.fvals.take i).any fun u => u.part == v.part && u.f == v.f && u.member == v.member
    let held : Bool := before || (asleep s v.member && !computeOff s v.member)
    let u : State := { s with net := { s.net with fvals := s.net.fvals.eraseIdx i } }
    let st : Byte := if partResetting u v.part then 0x05 else if owner u v.member ≠ some v.part then 0x04
      else if computeOff u v.member then 0x09 else 0x00
    let t := writeReg (.config v.member) v.member (clReg v.off) v.value u
    (held = true → exec (.fountainValueApply i) s = .next s) ∧
    (held = false → st ≠ 0x00 → exec (.fountainValueApply i) s = .next (fountainAck v.send st u)) ∧
    (held = false → st = 0x00 → exec (.fountainValueApply i) s = .next (fountainAck v.send t.ioReply t))) ∧
  (∀ (s : State) (p : Fin 64) (f : Fin 16),
    let e := s.net.fsends.find? fun h => h.part == p && h.f == f && h.left == 0
    (e = none → exec (.fountainAckComplete p f) s = .next s) ∧
    (∀ g, e = some g →
      let u : State := { s with net := { s.net with fsends := s.net.fsends.filter fun h => h.id != g.id } }
      let r := fregOf u g.src g.core.val
      (owner u g.src ≠ some p → exec (.fountainAckComplete p f) s = .next u) ∧
      (owner u g.src = some p → exec (.fountainAckComplete p f) s = .next (notifyOpt g.src g.note
        (setFreg g.src g.core.val { r with status := g.worst, inFlight := false, failed := BitVec.ofNat 16 g.failed } u))))))

/-! ### Time and clocks -/

/-- A local tide that adds at least one unit a network cycle never decreases while a correction of R291 is made, and
a packet that arrives never sets it back (R291). -/
def Obligations.LocalTideNeverDecreases : Prop :=
  (∀ (r : TideRec) (n m : Nat), 2 ^ 27 ≤ r.rate.toNat → 128 ≤ r.win → r.since ≤ n → n ≤ m →
    (r.corr = .none ∨ (∃ e : Int, e.natAbs ≤ 64 ∧ r.corr = .even e) ∨ ∃ e, r.corr = .slow e) → tideFx r n ≤ tideFx r m) ∧
  (∀ (s : State) (r : TideRec) (pkt : BitVec 128), tideFx r (netCycles s.t s.t.now) ≤ tideFx (correctTide s r pkt) (netCycles s.t s.t.now))

/-- A TIDE packet that is due at a router, once its hop's time has passed, leaves the tree's links; at a live router
it corrects the local tide with its hop added to DELAY and goes on down the tree, and no other state changes. The
correction: with e = TIDE + DELAY − local tide, up to 64 units are spread, more ahead steps by e at once, more
behind is absorbed slowly, and RATE is taken from the packet. A packet that is on no link does nothing. The root's
send, 1 µs after its last, loads its counter with Atbin's tide where that is ahead, counts the sequence, and sends
the packet down the tree; without a live root nothing is sent (R290, R291). Atbin's tide at the module that keeps
it. A PTP sample disciplines it where PTP is the source, and with 1PPS gives the second numbers. A PPS edge,
whatever it does, uses up the second named for it; before an origin is set, it takes the second named or PTP's and
else is ignored; after that, an edge more than 100 µs from a whole second is ignored. A sample sets the origin the
first time and past 1 ms, and else slews by at most 50 ppm. 2 s without a sample is holdover. A module that keeps no
tide, or whose source is another, ignores each of these (R289). The tide over Ocsal. A numbered worker takes a TIDE
that comes by its upstream port, the UP port with the lowest measured delay, with the link's delay and CORRECTION
added, and only notes the port otherwise. The manager sends TIDE on its UP ports 10 µs on, and a worker with a tide
on those but its upstream one; no other module sends. A worker holds over 1 ms after its last TIDE, once. A
DELAY_REQ on an UP port, 1 ms on, measures the port's delay and goes out with the tide (R415, R420, R432). -/
def Obligations.TideDiscipline : Prop :=
  ((∀ (s : State) (c : Cl) (pkt : BitVec 128), (∀ e ∈ s.t.tides, e.dst ≠ c ∨ e.pkt ≠ pkt) → exec (.tideReceive c pkt) s = .next s) ∧
  (∀ (s : State) (c : Cl) (pkt : BitVec 128) (e : TidePkt), s.t.tides.find? (fun e => e.dst == c && e.pkt == pkt) = some e →
    let u := waitUntil { s with t := { s.t with tides := s.t.tides.erase e } } e.due
    let p := withHop pkt e.hop
    (s.pwr.rails = true → (clState s c).val < 2 → fld pkt.toNat 0 4 = 1 → exec (.tideReceive c pkt) s =
      .next (tideDown c p { u with t := { u.t with locals := u.t.locals.set {} (ck c) (correctTide u (localRec u c) p) } })) ∧
    ((s.pwr.rails = false ∨ 2 ≤ (clState s c).val ∨ fld pkt.toNat 0 4 ≠ 1) → exec (.tideReceive c pkt) s = .next u)) ∧
  (∀ (s : State) (r : TideRec) (pkt : BitVec 128),
    let n := netCycles s.t s.t.now
    let e := (BitVec.ofNat 64 (fld pkt.toNat 64 64) + BitVec.ofNat 64 (fld pkt.toNat 8 16) - tideAt r n).toInt
    let q := correctTide s r pkt
    q.since = n ∧ q.rate.toNat = fld pkt.toNat 32 32 ∧
      (64 < e → q.base = tideFx r n + e.toNat * 2 ^ 27 ∧ q.corr = .none) ∧
      (e.natAbs ≤ 64 → q.base = tideFx r n ∧ q.corr = .even e) ∧
      (e < -64 → q.base = tideFx r n ∧ q.corr = .slow e.natAbs)) ∧
  (∀ (s : State), (meshRoot s = none ∨ s.pwr.rails = false ∨ ∃ r, meshRoot s = some r ∧ 2 ≤ (clState s r).val) →
    exec .tideSend s = .next s) ∧
  (∀ (s : State) (r : Cl), meshRoot s = some r → s.pwr.rails = true → (clState s r).val < 2 →
    let u := match s.t.tideSent with | some n => waitUntil s (n + usec 1) | none => s
    let n := netCycles u.t u.t.now
    let l := localRec u r
    exec .tideSend s = .next (tideDown r (tidePacket u) { u with t := { u.t with
      seq := u.t.seq + 1, tideSent := some u.t.now,
      locals := u.t.locals.set {} (ck r) { base := max (tideFx l n) ((moduleTide u).toNat * 2 ^ 27), since := n,
                                           rate := BitVec.ofNat 32 (rootRate u), corr := .none, win := l.win } } }))) ∧
  ((∀ (s : State) (ns : BitVec 64),
    (isManager s = true → s.t.discipline = 1 → exec (.tideDisciplineSample ns) s = .next (discipline ns.toNat (moduleTide s) s)) ∧
    (isManager s = true → s.t.discipline = 2 →
      exec (.tideDisciplineSample ns) s = .next { s with t := { s.t with ptp := some (ns, moduleTide s) } }) ∧
    (isManager s = false ∨ (s.t.discipline ≠ 1 ∧ s.t.discipline ≠ 2) → exec (.tideDisciplineSample ns) s = .next s)) ∧
  (∀ (s : State) (stamp : BitVec 64), (isManager s = false ∨ s.t.discipline ≠ 2) → exec (.ppsEdge stamp) s = .next s) ∧
  (∀ (s : State) (stamp : BitVec 64), isManager s = true → s.t.discipline = 2 →
    let est := ((stamp.toNat / 16 : Nat) : Int) + s.t.origin.toInt
    let sec := (est + 500000000) / 1000000000
    let named := s.t.seconds.orElse fun _ => ptpSecond s stamp
    let u : State := { s with t := { s.t with seconds := none } }
    (∀ v, s.t.originSet = false → named = some v → exec (.ppsEdge stamp) s = .next (discipline (v.toNat * 1000000000) stamp u)) ∧
    (s.t.originSet = false → named = none → exec (.ppsEdge stamp) s = .next u) ∧
    (s.t.originSet = true → 100000 < (est - sec * 1000000000).natAbs → exec (.ppsEdge stamp) s = .next u) ∧
    (∀ v, s.t.originSet = true → (est - sec * 1000000000).natAbs ≤ 100000 → named = some v →
      exec (.ppsEdge stamp) s = .next (discipline (v.toNat * 1000000000) stamp u)) ∧
    (s.t.originSet = true → (est - sec * 1000000000).natAbs ≤ 100000 → named = none →
      exec (.ppsEdge stamp) s = .next (discipline (sec * 1000000000).toNat stamp u))) ∧
  (∀ (s : State) (f : Nat) (tide : Word),
    let t := (discipline f tide s).t
    let origin := BitVec.ofInt 64 ((f : Int) - (tide.toNat / 16 : Nat))
    let off : Int := ((tide.toNat / 16 : Nat) : Int) - ((f : Int) - s.t.origin.toInt)
    t.synced = true ∧ t.holdover = false ∧ t.syncAt = s.t.now ∧ t.originSet = true ∧
      (s.t.originSet = false → t.origin = origin ∧ t.offset = 0 ∧ t.atbin = s.t.atbin) ∧
      (s.t.originSet = true → 1000000 < off.natAbs → t.origin = origin ∧ t.rebases = s.t.rebases + 1 ∧ t.offset = off ∧
        t.atbin = s.t.atbin.restart s.t.now .none) ∧
      (s.t.originSet = true → off.natAbs ≤ 1000000 → t.origin = s.t.origin ∧ t.offset = off ∧
        t.atbin = s.t.atbin.restart s.t.now (.ppm (-(off * 16))))) ∧
  (∀ (s : State),
    let u := waitUntil s (s.t.syncAt + usec 2000000)
    (isManager s = true → s.t.discipline ≠ 0 →
      exec .disciplineSourceLost s = .next { u with t := { u.t with synced := false, holdover := true } }) ∧
    (isManager s = false ∨ s.t.discipline = 0 → exec .disciplineSourceLost s = .next s))) ∧
  ((∀ (s : State) (port : Fin 16) (tide corr : Word) (rate : BitVec 32) (m : BitVec 8),
    let takes : Prop := isWorker s = true ∧ s.fab.num.isSome = true ∧ (portRec s port).state = .up
    let u : State := { s with fab := { s.fab with upstream := some (chooseUpstream port s) } }
    (¬ takes → exec (.ocsalTide port tide corr rate m) s = .next s) ∧
    (takes → chooseUpstream port s ≠ port → exec (.ocsalTide port tide corr rate m) s = .next u) ∧
    (takes → chooseUpstream port s = port → exec (.ocsalTide port tide corr rate m) s =
      .next (correctCopy (tide + corr + BitVec.ofNat 64 (linkDelay (portRec u port))) { u with fab := { u.fab with tideAt := u.t.now } }))) ∧
  (∀ (s : State),
    let sends : Prop := s.fab.role = .manager ∨ (isWorker s = true ∧ s.fab.upstream.isSome = true ∧ s.t.holdover = false)
    let u := waitUntil s (s.t.now + usec 10)
    let ports := (List.finRange 16).filter fun p => (portRec u p).state == .up && (s.fab.role == .manager || s.fab.upstream != some p)
    (¬ sends → exec .ocsalTideSend s = .next s) ∧
    (sends → exec .ocsalTideSend s =
      .next { u with out := u.out ++ ports.map fun p => Out.control p (portRec u p).peer 0x1 (tidePayload u) })) ∧
  (∀ (s : State),
    let u := waitUntil s (s.fab.tideAt + usec 1000)
    let due : Prop := isWorker s = true ∧ s.fab.num.isSome = true ∧ s.t.holdover = false
    (due → exec .tideHoldover s = .next { u with t := { u.t with holdover := true } }) ∧ (¬ due → exec .tideHoldover s = .next s)) ∧
  (∀ (s : State) (port : Fin 16) (rtt corr : Nat),
    let u := waitUntil s (s.t.now + usec 1000)
    ((portRec s port).state = .up → exec (.delayReq port rtt corr) s =
      .next (setPort port { portRec s port with rtt := rtt % 2 ^ 32, corr := corr }
        { u with out := u.out ++ [.control port (portRec s port).peer 0x2 (leBytes 8 (moduleTide u).toNat)] })) ∧
    ((portRec s port).state ≠ .up → exec (.delayReq port rtt corr) s = .next s)))

/-- The retention governor. An awake idle cluster whose arithmetic clock runs, which is no wellhead and for which no
barrier release may come too soon, enters retention at once where its next known event is at least RET_MIN away, not
at all where it is nearer, and after GOV_HOLD where there is none; any other cluster does not. In retention, a known
event starts the wake 1.7 µs before it, and an arrival at once; a cluster is awake 1.5 µs later. An unbound cluster
that may park goes Off, its memories lost, 10 ms after it became unbound or after READY (R295-R297, R314, R339,
R340). Clock nodes. A node that loses lock takes with it the fields that no locked path reaches from the injection
nodes, and those pause, unless there is none, the power is off, or the module runs as one forerunner island. 20 µs
after the pause began, each paused field whose own PLL fails goes dark with cause 5, and the others run again, each
connected set of them as an island; without a paused field nothing happens (R306, R308). -/
def Obligations.SleepAndClockIslands : Prop :=
  ((∀ (s : State) (c : Cl),
    let p := (owner s c).bind (partOf s)
    let retMin := p.elim 10 (·.retMin)
    let hold := p.elim 20 (·.govHold)
    let may : Prop := sleepOf s c = .awake ∧ arithOn s c = true ∧ isWellhead s c = false ∧ clIdle s c = true ∧ barrierSoon s c = false
    (¬ may → exec (.retentionEnter c) s = .next s) ∧
    (∀ d, may → nextEvent s c = some d → retMin * 16000 ≤ d → exec (.retentionEnter c) s = .next (fallAsleep c s)) ∧
    (∀ d, may → nextEvent s c = some d → d < retMin * 16000 → exec (.retentionEnter c) s = .next s) ∧
    (may → nextEvent s c = none → exec (.retentionEnter c) s = .next (fallAsleep c (waitUntil s (s.t.now + usec hold))))) ∧
  (∀ (s : State) (c : Cl), sleepOf (fallAsleep c s) c = .retention) ∧
  (∀ (s : State) (c : Cl),
    (∀ d, sleepOf s c = .retention → nextEvent s c = some d →
      let u := if 27200 < d then waitTide s c (localTide s c + BitVec.ofNat 64 (d - 27200)) else s
      exec (.governorWake c) s = .next (setSleep c (.waking (u.t.now + 3000)) u)) ∧
    ((sleepOf s c ≠ .retention ∨ nextEvent s c = none) → exec (.governorWake c) s = .next s) ∧
    (sleepOf s c = .retention → arrival s c = true →
      exec (.arrivalWake c) s = .next (setSleep c (.waking (s.t.now + 3000)) s)) ∧
    ((sleepOf s c ≠ .retention ∨ arrival s c = false) → exec (.arrivalWake c) s = .next s)) ∧
  (∀ (s : State) (c : Cl),
    (∀ n, sleepOf s c = .waking n → exec (.wakeComplete c) s = .next (awaken c (waitUntil s n)) ∧ sleepOf (awaken c (waitUntil s n)) c = .awake) ∧
    ((∀ n, sleepOf s c ≠ .waking n) → exec (.wakeComplete c) s = .next s)) ∧
  (∀ (s : State) (c : Cl),
    let may : Prop := s.pwr.park = true ∧ s.boot.ready = true ∧ owner s c = none ∧ isWellhead s c = false ∧ computeOff s c = false
    (may → exec (.clusterPark c) s = .next (setSleep c .off (zeroCluster c
      (waitUntil s (max s.boot.readyAt (s.part.unboundAt.get 0 (ck c)) + usec 10000))))) ∧
    (¬ may → exec (.clusterPark c) s = .next s))) ∧
  ((∀ (s : State) (fs : List (Fin 192)),
    let stay := (lockedFields s).filter fun f => !fs.contains f
    let reach := growFields stay 192 (injection.filter stay.contains)
    let bad := (lockedFields s).filter fun f => !reach.contains f
    ((s.pwr.rails = false ∨ s.t.foreOn = true ∨ bad = []) → exec (.nodeUnlocked fs) s = .next s) ∧
    (s.pwr.rails = true → s.t.foreOn = false → bad ≠ [] → exec (.nodeUnlocked fs) s =
      .next { s with t := { s.t with unlocked := s.t.unlocked ++ bad, unlockedAt := s.t.now } })) ∧
  (∀ (s : State) (fs : List (Fin 192)), s.t.unlocked = [] → exec (.islandPllLocked fs) s = .next s) ∧
  (∀ (s : State) (fs : List (Fin 192)), s.t.unlocked ≠ [] → (∀ f ∈ fs, f ∉ s.t.unlocked) →
    let isles := components 192 ((List.finRange 192).filter s.t.unlocked.contains)
    ∃ t, exec (.islandPllLocked fs) s = .next t ∧ t.t.unlocked = [] ∧ t.t.islands = s.t.islands ++ isles ∧
      s.t.unlockedAt + usec 20 ≤ t.t.now ∧ t.mem.sram = s.mem.sram) ∧
  (∀ (s : State) (fs : List (Fin 192)) (f : Fin 192), (fieldRec s f).state ≠ .dark → f ∈ s.t.unlocked → f ∈ fs →
    ∃ t, exec (.islandPllLocked fs) s = .next t ∧ (fieldRec t f).state = .dark ∧ (fieldRec t f).cause = 5 ∧ t.t.unlocked = []))

/-- The spring's inputs. A lost input stops being valid; where it is the selected one the loop coasts and REF_LOST
is posted, a relock under way ends, and the loop may switch by itself. A valid input counts again; while the loop
coasts settled, the selected one's return relocks it if the other is lost, and the other's may start the automatic
switch. A switch ends at an edge of both clocks, so not where one has stopped, or 1 ms on by CLK_SWITCH_HANG, and
the loop relocks on the new input, if that is valid. 50 µs later the relock is done: the loop no longer coasts, the
time that the arithmetic clocks stood still is taken off the watchdogs and timers, the event is posted, the UP ports
retrain, and the commands that waited for it complete. In any other state these do nothing (R298, R300-R303, R310). -/
def Obligations.SpringInputs : Prop :=
  (∀ (s : State) (p : Fin 2) (range : Bool),
    let u : State := { s with t := { s.t with valid := vset s.t.valid p false, noEdge := vset s.t.noEdge p (!range) } }
    ((s.t.valid[p]) = false → exec (.refLost p range) s = .next s) ∧
    ((s.t.valid[p]) = true → p ≠ s.t.source → exec (.refLost p range) s = .next u) ∧
    (∀ a b d n, (s.t.valid[p]) = true → p = s.t.source → s.t.spring = .relocking a b d n → exec (.refLost p range) s =
      .next (autoSwitch (loseRef p range (setCoast true (endPause n { u with t := { u.t with spring := .settled } }))))) ∧
    ((s.t.valid[p]) = true → p = s.t.source → (∀ a b d n, s.t.spring ≠ .relocking a b d n) →
      exec (.refLost p range) s = .next (autoSwitch (loseRef p range u)))) ∧
  (∀ (s : State) (p : Fin 2) (range : Bool), (loseRef p range s).t.coast = true ∧ (loseRef p range s).t.spring = s.t.spring) ∧
  (∀ (s : State) (p : Fin 2),
    let u : State := { s with t := { s.t with valid := vset s.t.valid p true, noEdge := vset s.t.noEdge p false } }
    ((s.t.coast = false ∨ s.t.spring ≠ .settled) → exec (.refValid p) s = .next u) ∧
    (s.t.coast = true → s.t.spring = .settled → p = s.t.source → (u.t.valid[other p]) = true → exec (.refValid p) s = .next u) ∧
    (s.t.coast = true → s.t.spring = .settled → p = s.t.source → (u.t.valid[other p]) = false →
      exec (.refValid p) s = .next { u with t := { u.t with spring := .relocking p p false u.t.now } }) ∧
    (s.t.coast = true → s.t.spring = .settled → p ≠ s.t.source → exec (.refValid p) s = .next (autoSwitch u))) ∧
  (∀ (s : State),
    let go : Prop := s.t.coast = true ∧ s.t.spring = .settled ∧ s.t.autoSwitch = true ∧ (s.t.valid[s.t.source]) = false ∧
      (s.t.valid[other s.t.source]) = true
    (go → autoSwitch s = { s with t := { s.t with spring := .switching (other s.t.source) s.t.now ((moduleTide s).setWidth 32) } }) ∧
    (¬ go → autoSwitch s = s)) ∧
  (∀ (s : State) (dst : Fin 2) (since : Nat) (tide : BitVec 32), s.t.spring = .switching dst since tide →
    let u := waitUntil s (since + usec 1000)
    ((s.t.noEdge[s.t.source]) = false → (s.t.noEdge[dst]) = false → exec .springInputChanged s = .next (startRelock dst false s)) ∧
    ((s.t.noEdge[s.t.source]) = true ∨ (s.t.noEdge[dst]) = true → exec .springInputChanged s = .next s) ∧
    exec .clkSwitchHang s = .next (startRelock dst true (postTo .clkSwitchHang (cxlUnit s.t.source) [] true (moduleTide u)
      (([BitVec.ofNat 8 s.t.source.val, BitVec.ofNat 8 dst.val, 0, 0] : List Byte) ++ leBytes 4 tide.toNat) u))) ∧
  (∀ (s : State), (∀ a b d, s.t.spring ≠ .switching a b d) → exec .springInputChanged s = .next s ∧ exec .clkSwitchHang s = .next s) ∧
  (∀ (s : State) (dst : Fin 2) (hang : Bool),
    ((s.t.valid[dst]) = true →
      startRelock dst hang s = { s with t := { s.t with source := dst, spring := .relocking s.t.source dst hang s.t.now } }) ∧
    ((s.t.valid[dst]) = false →
      startRelock dst hang s = autoSwitch (loseRef dst (!s.t.noEdge[dst]) { s with t := { s.t with source := dst, spring := .settled } }))) ∧
  (∀ (s : State) (old dst : Fin 2) (hang : Bool) (since : Nat), s.t.spring = .relocking old dst hang since →
    let u := waitUntil s (since + usec 50)
    let v := endPause since (setCoast false u)
    let w : State := { v with t := { v.t with spring := .settled, lastRelock := (moduleTide v).setWidth 32 } }
    exec .springRelockDone s = .next (endStarted 0x0703 0x00 (retrainAll (postTo .springSwitched (cxlUnit dst) [] true (moduleTide w)
      (([BitVec.ofNat 8 old.val, BitVec.ofNat 8 dst.val, BitVec.ofNat 8 (b2n hang), 0] : List Byte) ++ leBytes 4 ((w.t.now - since) / 2000)) w)))) ∧
  (∀ (s : State), (∀ a b d n, s.t.spring ≠ .relocking a b d n) → exec .springRelockDone s = .next s)

/-! ### Power and heat -/

/-- The effective limit is no higher than any limit in force and equals one of them: POWER_CAP, CAP_IN where
enabled, the coolant limit, the chassis share where there is one, and 88.0 kW (R320). -/
def Obligations.EffectiveLimitIsTheLowest : Prop :=
  ∀ (s : State), (effectiveLimit s).1 ≤ s.pwr.cap ∧ (effectiveLimit s).1 ≤ coolantLimit s ∧ (effectiveLimit s).1 ≤ 880 ∧
    (s.pwr.capInEn = true → (effectiveLimit s).1 ≤ (capInLimit s).1) ∧ (s.pwr.share ≠ 0 → (effectiveLimit s).1 ≤ s.pwr.share) ∧
    ((effectiveLimit s).1 = s.pwr.cap ∨ (effectiveLimit s).1 = coolantLimit s ∨ (effectiveLimit s).1 = 880 ∨
      (s.pwr.capInEn = true ∧ (effectiveLimit s).1 = (capInLimit s).1) ∨ (s.pwr.share ≠ 0 ∧ (effectiveLimit s).1 = s.pwr.share))

/-- The weir. Each interval ends at the next multiple of 2 µs: energy is charged, the limit in force is taken, the
ceilings and the throttle are set anew unless the backstop holds, the clusters take their grants, and the interval
counts; without rails nothing happens. A ceiling is at least 4 and rises by at most one point an interval, as the
throttle does. A measurement above 98% of the effective limit sets ceiling 4 and throttle 1 for 1 ms, grants, and
posts the event; another is only kept. Calibration moves each factor named an eighth of the way, within 0.8 to 1.25,
and a factor at a bound ten times becomes 1.25. A setpoint reached lets the clusters of its field that wait for it
rise, if they run and do not droop (R319, R323-R325, R327). Chassis shares and CAP_IN. A worker takes the share it
is sent, acknowledges it, and tells of an excess of the floors, which only a share at the floor can mean and no
packet carries; another module ignores it. An acknowledgement ends the waiting for its module. The manager with a
CHASSIS_CAP forgets modules gone from its ring, gives cuts and joining modules their floor first, raises only once
every module has confirmed, and tells of an excess of the floors. A good CAP_IN frame counts at its second in a row,
but after the failsafe only once 100 ms have been good; a bad frame or a lost pin holds the level, and 1 s of
holding is the failsafe (R321, R326, R346, R473). -/
def Obligations.WeirAndCaps : Prop :=
  ((∀ (s : State), (s.pwr.rails = false → exec .weirInterval s = .next s) ∧
    (s.pwr.rails = true →
      let u := chargeEnergy (waitUntil s ((s.t.now / 4000 + 1) * 4000))
      let l := effectiveLimit u
      let v : State := { u with pwr := { u.pwr with limit := l.1, limitSource := l.2 } }
      let hold : Prop := ∃ n, v.pwr.backstop = some n ∧ v.t.now < n
      let fin (w : State) : State :=
        let x := grantAll w
        let y := limitingStep { x with pwr := { x.pwr with est := predict x x.pwr.ceiling x.pwr.throttle / 100000 } }
        { y with pwr := { y.pwr with interval := y.pwr.interval + 1 } }
      (hold → exec .weirInterval s = .next (fin v)) ∧
      (¬ hold → exec .weirInterval s = .next (fin (newCeilings l.1 { v with pwr := { v.pwr with backstop := none } }))))) ∧
  (∀ (s : State) (l : Nat), 4 ≤ (newCeilings l s).pwr.ceiling ∧
    ((newCeilings l s).pwr.ceiling ≤ s.pwr.ceiling + 1 ∨ (newCeilings l s).pwr.ceiling = 4) ∧
    (newCeilings l s).pwr.throttle ≤ s.pwr.throttle + 1) ∧
  (∀ (s : State) (a b w : Nat),
    let u : State := { s with pwr := { s.pwr with feedA := a, feedB := b, meas := w } }
    let v : State := { u with pwr := { u.pwr with ceiling := 4, throttle := 1, backstop := some (u.t.now + usec 1000) } }
    (s.pwr.rails = false → exec (.feedMeasure a b w) s = .next s) ∧
    (s.pwr.rails = true → w * 100 ≤ (effectiveLimit u).1 * 98 → exec (.feedMeasure a b w) s = .next u) ∧
    (s.pwr.rails = true → (effectiveLimit u).1 * 98 < w * 100 →
      exec (.feedMeasure a b w) s = .next (capEvent 2 (heldPref v) 0 (grantAll v)))) ∧
  (∀ (s : State) (fields quads : Ratios),
    let one (s : State) (e : Nat × Nat) : State :=
      let r := fieldRec s (Fin.ofNat 192 e.1)
      let x := calibrate r.factor e.2
      let b := if x = 800 ∨ x = 1250 then r.bound + 1 else 0
      setField (Fin.ofNat 192 e.1) { r with factor := if 10 ≤ b then 1250 else x, bound := b } s
    let q (s : State) := quads.foldl (fun (q : Vector Nat 4) e => let w : Fin 4 := Fin.ofNat 4 e.1; vset q w (calibrate q[w] e.2)) s.pwr.quads
    (s.pwr.rails = false → exec (.weirCalibrate fields quads) s = .next s) ∧
    (s.pwr.rails = true → exec (.weirCalibrate fields quads) s =
      .next { fields.foldl one s with pwr := { (fields.foldl one s).pwr with quads := q (fields.foldl one s) } })) ∧
  (∀ factor ratio, 800 ≤ calibrate factor ratio ∧ calibrate factor ratio ≤ 1250 ∧
    (800 ≤ (7 * factor + ratio + 4) / 8 → (7 * factor + ratio + 4) / 8 ≤ 1250 → calibrate factor ratio = (7 * factor + ratio + 4) / 8)) ∧
  (∀ (s : State) (f : Fin 192),
    let rise (s : State) (c : Cl) : State := match (opRec s c).raise with
      | some g => if (opRec s c).droop = .none ∧ computeOff s c = false then setOp c { opRec s c with k := g, raise := none } s else s
      | none => s
    exec (.regulatorSetpointReached f) s = .next ((fieldClusters f).foldl rise (waitUntil s (fieldRec s f).stepEnd)))) ∧
  ((∀ (s : State) (v : BitVec 16),
    let excess := if v = 200#16 then Config.ringExcess s.freeCount else 0
    (s.fab.role = .worker ∨ s.fab.role = .standby → exec (.share v) s = .next (controlOut s.fab.manager 0x7 (leBytes 2 v.toNat)
      (excessStep excess { s with freeCount := s.freeCount + 1, pwr := { s.pwr with share := v.toNat } }))) ∧
    (s.fab.role ≠ .worker → s.fab.role ≠ .standby → exec (.share v) s = .next s)) ∧
  (∀ (s : State) (e : Nat),
    let u : State := { s with pwr := { s.pwr with excess := e } }
    (e ≠ 0 → s.pwr.excess = 0 → excessStep e s = capEvent 3 0 e u) ∧
    (e = 0 → s.pwr.excess ≠ 0 → excessStep e s = capEvent 4 0 0 u) ∧
    ((e = 0 ↔ s.pwr.excess = 0) → excessStep e s = u)) ∧
  (∀ (s : State) (m : BitVec 8), exec (.shareAck m) s =
    .next { s with pwr := { s.pwr with waiting := s.pwr.waiting.filter fun n => n ≠ m.toNat } }) ∧
  (∀ (s : State), (s.fab.role ≠ .manager ∨ s.pwr.chassisCap = 0) → exec .shareReallocate s = .next s) ∧
  (∀ (s : State), s.fab.role = .manager → s.pwr.chassisCap ≠ 0 →
    let ms := ringModules s
    let old (m : BitVec 8) := s.pwr.shares.get 0 m.toNat
    let u : State := { s with pwr := { s.pwr with
      shares := s.pwr.shares.filter fun e => ms.any fun m => m.toNat = e.1,
      waiting := s.pwr.waiting.filter fun n => ms.any fun m => m.toNat = n } }
    let goal := ms.map fun m => (m, shareTarget u ms m)
    let first := goal.filter fun g => old g.1 = 0 ∨ g.2 < old g.1
    let excess := 200 * ms.length - s.pwr.chassisCap
    (first ≠ [] → exec .shareReallocate s =
      .next (excessStep excess (first.foldl (fun s g => giveShare g.1 (if old g.1 = 0 then 200 else g.2) s) u))) ∧
    (first = [] → u.pwr.waiting = [] → exec .shareReallocate s =
      .next (excessStep excess ((goal.filter fun g => old g.1 < g.2).foldl (fun s g => giveShare g.1 g.2 s) u))) ∧
    (first = [] → u.pwr.waiting ≠ [] → exec .shareReallocate s = .next (excessStep excess u))) ∧
  (∀ (s : State) (b0 b1 b2 : Byte),
    let since := s.pwr.capGoodSince.getD s.t.now
    let u : State := { s with pwr := { s.pwr with capLevel := b1.toNat, capGoodSince := some since } }
    (b0 ≠ 0x5A ∨ b2 ≠ b1 ^^^ 0xFF → exec (.capInFrame b0 b1 b2) s = .next (capLost s)) ∧
    (b0 = 0x5A → b2 = b1 ^^^ 0xFF → s.pwr.capFrame ≠ some b1.toNat →
      exec (.capInFrame b0 b1 b2) s = .next (capLost { s with pwr := { s.pwr with capFrame := some b1.toNat } })) ∧
    (b0 = 0x5A → b2 = b1 ^^^ 0xFF → s.pwr.capFrame = some b1.toNat →
      (s.pwr.capIn ≠ .failsafe ∨ since + usec 100000 ≤ s.t.now →
        exec (.capInFrame b0 b1 b2) s = .next { u with pwr := { u.pwr with capIn := .valid } }) ∧
      (s.pwr.capIn = .failsafe → s.t.now < since + usec 100000 → exec (.capInFrame b0 b1 b2) s = .next u))) ∧
  (∀ (s : State), exec .capInInvalid s = .next (capLost { s with pwr := { s.pwr with capFrame := none } }) ∧
    (capLost s).pwr.capGoodSince = none ∧ (capLost s).pwr.capLevel = s.pwr.capLevel ∧
    (s.pwr.capIn = .valid → (capLost s).pwr.capIn = .held s.t.now) ∧ (s.pwr.capIn ≠ .valid → (capLost s).pwr.capIn = s.pwr.capIn)) ∧
  (∀ (s : State),
    (∀ since, s.pwr.capIn = .held since →
      let u := waitUntil s (since + usec 1000000)
      exec .capInHoldExpire s = .next { u with pwr := { u.pwr with capIn := .failsafe } }) ∧
    ((∀ n, s.pwr.capIn ≠ .held n) → exec .capInHoldExpire s = .next s)))

/-- Field temperatures. A sample of a field that is not dark, while the rails are on, is kept: 110.0 °C twice in a
row makes the field dark, 100.0 °C twice turns the compute of a field that is on off, and else WARN is stepped. At
90.0 °C WARN begins and is posted, and the thermal ceiling falls by one each 100 µs, never below 4; after 1 ms at or
below 87.0 °C WARN ends and is posted, and the ceiling rises by one each 1 ms, up to 16. The compute that HOT turned
off comes back 10 ms after the field has cooled, with ceiling 8. A short turns off the compute, or with the network
rail makes the field dark. In any other case nothing happens (R314, R334-R337, R346). Stack temperatures, while the
rails are on. From 95.0 °C on the stack's rate is halved and from 105.0 °C it is in self-refresh and dry; 1 ms at or
below 90.0 °C ends the halving; the steps are posted. A stack that fails is fenced with cause 5, once; a bus
converter that fails takes its wafer's rails, once. Without rails nothing happens (R338, R346, R482, R485, R489). -/
def Obligations.Temperatures : Prop :=
  ((∀ (s : State) (f : Fin 192) (t : Int),
    let r := fieldRec s f
    let hot := if 1600 ≤ t then r.hot + 1 else 0
    let crit := if 1760 ≤ t then r.crit + 1 else 0
    let cool := if r.state = .computeOff then (if t ≤ 1280 then some (r.coolSince.getD s.t.now) else none) else r.coolSince
    let u := setField f { r with temp := t, hot := hot, crit := crit, coolSince := cool } s
    (s.pwr.rails = false ∨ r.state = .dark → exec (.fieldTempSample f t) s = .next s) ∧
    (s.pwr.rails = true → r.state ≠ .dark →
      (2 ≤ crit → exec (.fieldTempSample f t) s = .next (fieldDark f 3 u)) ∧
      (crit < 2 → r.state = .computeOff → exec (.fieldTempSample f t) s = .next u) ∧
      (crit < 2 → r.state = .on → 2 ≤ hot → exec (.fieldTempSample f t) s = .next (fieldOff f 1 u)) ∧
      (crit < 2 → r.state = .on → hot < 2 → exec (.fieldTempSample f t) s = .next (warnStep f u)))) ∧
  (∀ (s : State) (f : Fin 192),
    let r := fieldRec s f
    let n := s.t.now
    let since := r.coolSince.getD n
    (1440 ≤ r.temp → r.warn = false → warnStep f s = fieldStep f 0 (setField f { r with warn := true, ceilAt := n, coolSince := none } s)) ∧
    (1440 ≤ r.temp → r.warn = true → r.ceilAt + usec 100 ≤ n →
      warnStep f s = setField f { r with tceil := max 4 (r.tceil - 1), ceilAt := n, coolSince := none } s) ∧
    (1440 ≤ r.temp → r.warn = true → n < r.ceilAt + usec 100 → warnStep f s = setField f { r with coolSince := none } s) ∧
    (r.temp ≤ 1392 → r.warn = true → since + usec 1000 ≤ n →
      warnStep f s = fieldStep f 1 (setField f { r with warn := false, ceilAt := n, coolSince := none } s)) ∧
    (r.temp ≤ 1392 → r.warn = true → n < since + usec 1000 → warnStep f s = setField f { r with coolSince := some since } s) ∧
    (1392 < r.temp → r.temp < 1440 → r.warn = true → warnStep f s = setField f { r with coolSince := none } s) ∧
    (r.temp < 1440 → r.warn = false → r.tceil < 16 → r.ceilAt + usec 1000 ≤ n →
      warnStep f s = setField f { r with tceil := r.tceil + 1, ceilAt := n } s) ∧
    (r.temp < 1440 → r.warn = false → (16 ≤ r.tceil ∨ n < r.ceilAt + usec 1000) → warnStep f s = s)) ∧
  (∀ (s : State) (f : Fin 192) (cause : Nat), (fieldRec s f).state = .on → cause < 16 →
    (fieldRec (fieldOff f cause s) f).state = .computeOff ∧ (fieldRec (fieldOff f cause s) f).cause = BitVec.ofNat 4 cause) ∧
  (∀ (s : State) (f : Fin 192),
    (∀ n, (fieldRec s f).coolSince = some n → (fieldRec s f).state = .computeOff → (fieldRec s f).cause = 1 → s.pwr.rails = true →
      exec (.hotRestore f) s = .next (fieldBack f (waitUntil s (n + usec 10000)))) ∧
    (((fieldRec s f).coolSince = none ∨ (fieldRec s f).state ≠ .computeOff ∨ (fieldRec s f).cause ≠ 1 ∨ s.pwr.rails = false) →
      exec (.hotRestore f) s = .next s) ∧
    (fieldRec (fieldBack f s) f).state = .on ∧ (fieldRec (fieldBack f s) f).tceil = 8) ∧
  (∀ (s : State) (f : Fin 192), (s.pwr.rails = true → exec (.railShort f false) s = .next (fieldOff f 2 s) ∧
      exec (.railShort f true) s = .next (fieldDark f 4 s)) ∧
    (s.pwr.rails = false → ∀ b, exec (.railShort f b) s = .next s))) ∧
  ((∀ (s : State) (n : Fin 48) (t : Int),
    let r : StkTemp := { s.pwr.stk.get {} n.val with temp := t }
    let u := setStk n r s
    let h := stkStep n 4 (setStk n { r with half := true, coolSince := none } u)
    let since := r.coolSince.getD s.t.now
    (s.pwr.rails = false → exec (.stackTempSample n t) s = .next s) ∧
    (s.pwr.rails = true → 1680 ≤ t →
      let v := if r.half then u else h
      exec (.stackTempSample n t) s = .next (fenceStack n 5 (setStk n { v.pwr.stk.get {} n.val with refresh := true } v))) ∧
    (s.pwr.rails = true → 1520 ≤ t → t < 1680 → r.half = false → exec (.stackTempSample n t) s = .next h) ∧
    (s.pwr.rails = true → 1440 < t → t < 1680 → r.half = true → exec (.stackTempSample n t) s = .next (setStk n { r with coolSince := none } u)) ∧
    (s.pwr.rails = true → t < 1520 → r.half = false → exec (.stackTempSample n t) s = .next u) ∧
    (s.pwr.rails = true → t ≤ 1440 → r.half = true → since + usec 1000 ≤ s.t.now →
      exec (.stackTempSample n t) s = .next (stkStep n 5 (setStk n { r with half := false, coolSince := none } u))) ∧
    (s.pwr.rails = true → t ≤ 1440 → r.half = true → s.t.now < since + usec 1000 →
      exec (.stackTempSample n t) s = .next (setStk n { r with coolSince := some since } u))) ∧
  (∀ (s : State) (n : Fin 48), (s.pwr.rails = true → exec (.stackFailure n) s = .next (fenceStack n 5 s)) ∧
    (s.pwr.rails = false → exec (.stackFailure n) s = .next s)) ∧
  (∀ (s : State) (n : Fin 48), (s.net.dry.stk.getLsbD n.val = false → (fenceStack n 5 s).net.dry.stk.getLsbD n.val = true) ∧
    (s.net.dry.stk.getLsbD n.val = true → fenceStack n 5 s = s)) ∧
  (∀ (s : State) (k : Fin 16),
    let w := Fin.ofNat 4 (k.val / 4)
    (s.pwr.rails = true → exec (.busConverterFailure k) s = .next (loseWafer w s)) ∧
    (s.pwr.rails = false → exec (.busConverterFailure k) s = .next s) ∧
    (s.pwr.lostWafers.contains w = true → loseWafer w s = s) ∧
    (s.pwr.lostWafers.contains w = false → (loseWafer w s).pwr.lostWafers.contains w = true ∧ wellheadOf (loseWafer w s) w = none)))

/-- Droop, at a cluster whose arithmetic clock runs: a soft or a hard one halves the operating point, never below 4
and not again before it recovers, and counts in its field; a hard one also pauses the cluster. The pause ends after
20 ns: the watchdogs stood still and the issue ramps restart. Recovery, 1 µs and a group boundary for each point on,
returns to the grant. Anywhere else these do nothing (R331-R333). Ageing. A monitor below half its target, in a
field that is on and not aged out, raises the field's offset by one, with the KMAX that the offset allows, and posts
it; at 20 the field's compute is fenced. A replan, which lets 1,000 hours since the last pass, gives each field
named its offset, at once or when its compute returns, or fences its compute, and posts the event where an offset or
a KMAX changed. Anything else does nothing (R341, R342, R346). -/
def Obligations.DroopAndAgeing : Prop :=
  ((∀ (s : State) (c : Cl),
    let o := opRec s c
    let f := fieldOf c
    let r := fieldRec s f
    let k := if o.droop = .none then max 4 (o.k / 2) else o.k
    (arithOn s c = true → exec (.droopSoft c) s = .next (wrapEvent (fieldUnit f) 0 0x0B04 none r.soft 1
      (setOp c { o with k := k, droop := .soft } (setField f { r with soft := r.soft + 1 } s)))) ∧
    (arithOn s c = true → exec (.droopHard c) s = .next (wrapEvent (fieldUnit f) 0 0x0B04 none r.hard 1
      (setOp c { o with k := k, droop := .paused s.t.now } (setField f { r with hard := r.hard + 1 } s)))) ∧
    (arithOn s c = false → exec (.droopSoft c) s = .next s ∧ exec (.droopHard c) s = .next s)) ∧
  (∀ (s : State) (c : Cl),
    (∀ n, (opRec s c).droop = .paused n →
      let u := waitUntil s (n + 40)
      exec (.droopPauseEnd c) s = .next (restartRamps c (shiftWatch (fun k => k = ck c) (u.t.now - n)
        (setOp c { opRec s c with droop := .restarted, restartAt := u.t.now } u)))) ∧
    ((∀ n, (opRec s c).droop ≠ .paused n) → exec (.droopPauseEnd c) s = .next s)) ∧
  (∀ (s : State) (c : Cl),
    let o := opRec s c
    let low : Prop := o.droop = .soft ∨ o.droop = .restarted
    (low → exec (.droopRecovery c) s = .next (setOp c { o with k := max o.k o.grant, droop := .none, raise := none }
      (waitUntil s (s.t.now + usec 1 + 8 * (o.grant - o.k))))) ∧
    (¬ low → exec (.droopRecovery c) s = .next s))) ∧
  ((∀ (s : State) (f : Fin 192) (low : Bool),
    let r := fieldRec s f
    let k := kmaxOf (r.offset + 1)
    let acts : Prop := low = true ∧ r.state = .on ∧ s.pwr.rails = true ∧ r.aged = false
    (¬ acts → exec (.ageingMonitorRead f low) s = .next s) ∧
    (acts → 20 ≤ r.offset → exec (.ageingMonitorRead f low) s = .next (fenceField f s)) ∧
    (acts → r.offset < 20 → exec (.ageingMonitorRead f low) s =
      .next (ageingEvent 1 (b2n (decide (k < r.kmax))) true (setField f { r with offset := r.offset + 1, kmax := k } s)))) ∧
  (∀ n, kmaxOf n = if n ≤ 12 then 16 else if n ≤ 16 then 15 else 14) ∧
  (∀ (s : State) (plan : List (Fin 192 × Option (Fin 21))),
    let h := max s.pwr.hours (s.pwr.planHours + 1000)
    let t := plan.foldl (fun s e => planField e.1 e.2 s) { s with pwr := { s.pwr with hours := h, planHours := h } }
    let n := planChanges s t
    (s.pwr.rails = false → exec (.ageingReplan plan) s = .next s) ∧
    (s.pwr.rails = true → n = (0, 0) → exec (.ageingReplan plan) s = .next t) ∧
    (s.pwr.rails = true → n ≠ (0, 0) → exec (.ageingReplan plan) s = .next (ageingEvent n.1 n.2 false t))) ∧
  (∀ (s : State) (f : Fin 192),
    planField f none s = fenceField f s ∧
    (∀ o : Fin 21, (fieldRec s f).state ≠ .computeOff →
      planField f (some o) s = setField f { fieldRec s f with offset := o.val, kmax := kmaxOf o.val } s) ∧
    (∀ o : Fin 21, (fieldRec s f).state = .computeOff →
      planField f (some o) s = setField f { fieldRec s f with plan := some (o.val, kmaxOf o.val) } s)))

/-- The facility. A coolant sample is kept while the standby supply is on; with rails on, a leak of 100 ms or an
inlet, flow or outlet past its limit for 1 s, in this order, turns every rail but standby off and asserts FAULT_OUT,
and else derating is stepped. 60 s of good coolant restarts a module that coolant shut down, never after a leak. A
lost feed leaves the load to the other; with both absent the ride-through of 2 ms begins, and at its end the
supplies go off; a feed that returns ends it. EPO_N, asserted for 1 ms, and PRESENT_N, lost for 100 µs, turn the
supplies off; EPO_N released restarts the module cold 100 ms on, where a feed is present (R312, R315, R459, R461,
R464, R465, R472). Wellheads, polled every 100 µs once the module is READY and its rails are on. One that answers is
not silent; silence counts from the poll before the first without an answer, and after 1 ms the wellhead is lost:
its cluster's compute is fenced, and the first live cluster of the wafer's order starts to load, leaving its
partition, or with none the wafer is lost. The cluster that loads is the wellhead 200 ms later, and the repair map
keeps the choice (R489). -/
def Obligations.FacilityAndWellheads : Prop :=
  ((∀ (s : State) (r : Coolant),
    let p := readCoolant r s.t.now s.pwr
    let u : State := { s with pwr := p }
    let wet := heldFor s.t.now (usec 100000) p.wetSince
    let hotIn := heldFor s.t.now (usec 1000000) p.hotInSince
    let low := heldFor s.t.now (usec 1000000) p.lowFlowSince
    let hotOut := heldFor s.t.now (usec 1000000) p.hotOutSince
    (s.pwr.standby = false → exec (.coolantSample r) s = .next s) ∧
    (s.pwr.standby = true → p.rails = false → exec (.coolantSample r) s = .next u) ∧
    (s.pwr.standby = true → p.rails = true →
      (wet = true → exec (.coolantSample r) s = .next (coolantShutdown 4 u)) ∧
      (wet = false → hotIn = true → exec (.coolantSample r) s = .next (coolantShutdown 1 u)) ∧
      (wet = false → hotIn = false → low = true → exec (.coolantSample r) s = .next (coolantShutdown 2 u)) ∧
      (wet = false → hotIn = false → low = false → hotOut = true → exec (.coolantSample r) s = .next (coolantShutdown 3 u)) ∧
      (wet = false → hotIn = false → low = false → hotOut = false → exec (.coolantSample r) s = .next (derateStep u)))) ∧
  (∀ (s : State) (cause : Nat), (coolantShutdown cause s).pwr.rails = false ∧ (coolantShutdown cause s).pwr.faultOut = true ∧
    (coolantShutdown cause s).pwr.shut = (if cause = 4 then .leak else .coolant)) ∧
  (∀ (s : State),
    (∀ n, s.pwr.coolOkSince = some n → s.pwr.shut = .coolant → s.pwr.standby = true →
      exec .coolantRestart s = .next (startCold (waitUntil s (n + usec 60000000)))) ∧
    ((s.pwr.coolOkSince = none ∨ s.pwr.shut ≠ .coolant ∨ s.pwr.standby = false) → exec .coolantRestart s = .next s)) ∧
  (∀ (s : State) (f : Fin 2),
    let feeds := vset s.pwr.feeds f false
    (feeds[0] = false → feeds[1] = false → exec (.feedLoss f) s =
      .next { s with pwr := { s.pwr with feeds := feeds, feedsLost := some (s.pwr.feedsLost.getD s.t.now) } }) ∧
    ((feeds[0] = true ∨ feeds[1] = true) → exec (.feedLoss f) s =
      .next { s with pwr := { s.pwr with feeds := feeds, feedsLost := none } }) ∧
    exec (.feedReturn f) s = .next { s with pwr := { s.pwr with feeds := vset s.pwr.feeds f true, feedsLost := none } }) ∧
  (∀ (s : State),
    (∀ n, s.pwr.feedsLost = some n → s.pwr.standby = true → exec .feedRideThroughExpire s = .next (powerOff .epo (waitUntil s (n + usec 2000)))) ∧
    ((s.pwr.feedsLost = none ∨ s.pwr.standby = false) → exec .feedRideThroughExpire s = .next s)) ∧
  (∀ (s : State) (w : Shut), (powerOff w s).pwr.standby = false ∧ (powerOff w s).pwr.rails = false) ∧
  (∀ (s : State),
    let u := waitUntil s (s.t.now + usec 1000)
    let v : State := { u with pwr := { u.pwr with epo := true } }
    (s.pwr.standby = true → exec .epoNAssert s = .next (powerOff .epo (logStop 5 v))) ∧
    (s.pwr.standby = false → exec .epoNAssert s = .next v)) ∧
  (∀ (s : State),
    let u : State := { s with pwr := { s.pwr with epo := false } }
    (s.pwr.epo = false → exec .epoNDeassert s = .next s) ∧
    (s.pwr.epo = true → (s.pwr.feeds[0] = true ∨ s.pwr.feeds[1] = true) →
      exec .epoNDeassert s = .next (startCold (waitUntil u (u.t.now + usec 100000)))) ∧
    (s.pwr.epo = true → s.pwr.feeds[0] = false → s.pwr.feeds[1] = false → exec .epoNDeassert s = .next u)) ∧
  (∀ (s : State), (s.pwr.standby = true → exec .presentNLoss s = .next (powerOff .epo (waitUntil s (s.t.now + usec 100)))) ∧
    (s.pwr.standby = false → exec .presentNLoss s = .next s))) ∧
  ((∀ (s : State) (w : Fin 4),
    let u := waitUntil s (s.t.now + usec 100)
    let since := (s.boot.silent.get none w.val).getD (u.t.now - usec 100)
    let polls : Prop := s.boot.ready = true ∧ s.pwr.rails = true ∧ (wellheadOf s w).isSome = true
    (¬ polls → ∀ a, exec (.wellheadPoll w a) s = .next s) ∧
    (polls → exec (.wellheadPoll w true) s = .next { u with boot := { u.boot with silent := u.boot.silent.set none w.val none } }) ∧
    (polls → since + usec 1000 ≤ u.t.now → exec (.wellheadPoll w false) s = .next (loseWellhead w u)) ∧
    (polls → u.t.now < since + usec 1000 →
      exec (.wellheadPoll w false) s = .next { u with boot := { u.boot with silent := u.boot.silent.set none w.val (some since) } })) ∧
  (∀ (s : State) (w : Fin 4) (old : Cl), wellheadOf s w = some old →
    let u := fenceCluster old 1 { s with boot := { s.boot with
      wellheads := s.boot.wellheads.set none w.val none, silent := s.boot.silent.set none w.val none } }
    ((candidates w).find? (clLive u) = none → loseWellhead w s = doomWafer w u) ∧
    (∀ c, (candidates w).find? (clLive u) = some c →
      let v := takeCluster c u
      loseWellhead w s = { v with boot := { v.boot with loading := v.boot.loading.set none w.val (some c) } })) ∧
  (∀ (s : State) (w : Fin 4),
    let u := waitUntil s (s.t.now + usec 200000)
    (∀ c, s.boot.loading.get none w.val = some c → exec (.wellheadReplaced w) s = .next { u with boot := { u.boot with
      wellheads := u.boot.wellheads.set none w.val (some c), loading := u.boot.loading.set none w.val none,
      repair := { u.boot.repair with wellheads := u.boot.repair.wellheads.set none w.val (some c) } } }) ∧
    (s.boot.loading.get none w.val = none → exec (.wellheadReplaced w) s = .next s)))

/-! ### Host attachment and commands -/

/-- Doorbells of a running queue of a function that answers: a tail or head in range is taken, one out of range puts
the queue in ERROR with BAD_PARAM. A queue that does not run, and a function that does not answer, ignores them
(R353, R354). Queue enables, of a function that answers. ENABLE 1 takes the fields of the register, and where the
queue was disabled empties it and makes it RUNNING if its bases are page-aligned and its sizes in 1 to 12 (4 to 12
for events), else ERROR with BAD_PARAM; a queue already enabled keeps its sizes and places. ENABLE 0 makes it
DISABLED, and no command fetched from a disabled pair answers any more. Nothing else of the function changes, and a
function that does not answer ignores them (R352, R353). -/
def Obligations.QueueRegisters : Prop :=
  (∀ (s : State) (f : FnId) (q : Fin 4) (v : Word),
    let r := (fnRec s f).qs[q]
    let e := fnRec s f
    let n := fld v.toNat 0 12
    (fnOn s f = true → r.state = .running → n < 2 ^ r.sqSize → exec (.sqTail f q v) s = .next (setQ f q { r with sqTail := n } s)) ∧
    (fnOn s f = true → r.state = .running → 2 ^ r.sqSize ≤ n →
      exec (.sqTail f q v) s = .next (setQ f q { r with state := .error, err := 0x03 } s)) ∧
    (fnOn s f = true → r.state = .running → n < 2 ^ r.cpqSize → exec (.cpqHead f q v) s = .next (setQ f q { r with cpqHead := n } s)) ∧
    (fnOn s f = true → r.state = .running → 2 ^ r.cpqSize ≤ n →
      exec (.cpqHead f q v) s = .next (setQ f q { r with state := .error, err := 0x03 } s)) ∧
    (fnOn s f = true → e.state = .running → n < 2 ^ e.size → exec (.eqHead f v) s = .next (setFn f { e with head := n } s)) ∧
    (fnOn s f = true → e.state = .running → 2 ^ e.size ≤ n → exec (.eqHead f v) s = .next (setFn f { e with state := .error, err := 0x03 } s)) ∧
    (fnOn s f = false ∨ r.state ≠ .running → exec (.sqTail f q v) s = .next s ∧ exec (.cpqHead f q v) s = .next s) ∧
    (fnOn s f = false ∨ e.state ≠ .running → exec (.eqHead f v) s = .next s)) ∧
  ((∀ (s : State) (f : FnId) (sel : QSel) (v : Word), fnOn s f = false →
    exec (.queueEnable f sel v) s = .next s ∧ exec (.queueDisable f sel v) s = .next s) ∧
  (∀ (s : State) (f : FnId) (q : Fin 4) (v : Word), fnOn s f = true →
    let e := fnRec s f
    exec (.queueEnable f (.pair q) v) s = .next (setQ f q ((e.qs[q]).config v.toNat).start s) ∧
    exec (.queueEnable f .events v) s = .next (setFn f (e.config v.toNat).start s) ∧
    exec (.queueDisable f (.pair q) v) s = .next (unhear (fun k => k.fn == f && k.q == q)
      (setQ f q { (e.qs[q]).config v.toNat with enable := false, state := .disabled, unsig := 0 } s)) ∧
    exec (.queueDisable f .events v) s = .next (setFn f { e.config v.toNat with enable := false, state := .disabled, unsig := 0 } s)) ∧
  (∀ (r : QRec) (n : Nat),
    let c := r.config n
    c.vector = Fin.ofNat 8 (fld n 9 3) ∧ c.irqEn = bit n 12 ∧ c.irqCount = fld n 16 8 ∧ c.irqDelay = fld n 24 8 ∧
      c.sqSize = (if r.enable then r.sqSize else fld n 1 4) ∧ c.cpqSize = (if r.enable then r.cpqSize else fld n 5 4) ∧
      c.sqBase = r.sqBase ∧ c.cpqBase = r.cpqBase ∧ c.enable = r.enable) ∧
  (∀ (r : QRec), (r.enable = true → r.start = r) ∧
    (r.enable = false →
      let u := r.start
      let good : Prop := r.sqBase.toNat % 4096 = 0 ∧ r.cpqBase.toNat % 4096 = 0 ∧ 1 ≤ r.sqSize ∧ r.sqSize ≤ 12 ∧ 1 ≤ r.cpqSize ∧ r.cpqSize ≤ 12
      u.enable = true ∧ u.sqHead = 0 ∧ u.sqTail = 0 ∧ u.cpqHead = 0 ∧ u.cpqTail = 0 ∧ u.phase = true ∧ u.sqSize = r.sqSize ∧
        u.cpqSize = r.cpqSize ∧ (good → u.state = .running ∧ u.err = 0x00) ∧ (¬ good → u.state = .error ∧ u.err = 0x03))) ∧
  (∀ (r : FnRec) (n : Nat),
    let c := r.config n
    c.vector = Fin.ofNat 8 (fld n 5 3) ∧ c.irqEn = bit n 8 ∧ c.minSev = fld n 16 4 ∧ c.irqDelay = fld n 24 8 ∧
      c.size = (if r.enable then r.size else fld n 1 4) ∧ c.qs = r.qs ∧ c.enable = r.enable) ∧
  (∀ (r : FnRec), (r.enable = true → r.start = r) ∧
    (r.enable = false →
      let u := r.start
      let good : Prop := r.eqBase.toNat % 4096 = 0 ∧ 4 ≤ r.size ∧ r.size ≤ 12
      u.enable = true ∧ u.head = 0 ∧ u.tail = 0 ∧ u.lost = 0 ∧ u.phase = true ∧ u.qs = r.qs ∧
        (good → u.state = .running ∧ u.err = 0x00) ∧ (¬ good → u.state = .error ∧ u.err = 0x03))) ∧
  (∀ (s : State) (hit : CmdKey → Bool), ∀ c ∈ (unhear hit s).host.cmds, hit c.key = true → c.live = false))

/-- Commands and completions. A fetch takes the 64 bytes at SQ_HEAD of a running pair that is not empty and has room
for every completion it owes; a host access that fails puts the pair in ERROR, and otherwise nothing is fetched. A
delayed interrupt of a running queue is sent when its delay ends, if it is enabled and some record is unsignalled. A
completion that can still answer is the 32 bytes of R356 at CPQ_TAIL; the tail moves on, and its interrupt is sent
at the count, or at once without a delay; a host access that fails puts the pair in ERROR (R354-R356, R358). -/
def Obligations.CommandsAndCompletions : Prop :=
  (∀ (s : State) (f : FnId) (q : Fin 4),
    let r := (fnRec s f).qs[q]
    let n := 2 ^ r.cpqSize
    let a := r.sqBase.toNat + 64 * r.sqHead
    let raw := BitVec.ofNat 512 (leNat (readBytes s.mem.host a 64))
    let st := hostStatus s a 64
    let may : Prop := fnOn s f = true ∧ r.state = .running ∧ r.sqHead ≠ r.sqTail ∧
      (r.cpqTail + n - r.cpqHead) % n + (fetched s f q).length + 1 ≤ n - 1
    (¬ may → exec (.commandFetch f q) s = .next s) ∧
    (may → st ≠ 0x00 → exec (.commandFetch f q) s = .next (setQ f q { r with state := .error, err := st } s)) ∧
    (may → st = 0x00 →
      let u := setQ f q { r with sqHead := (r.sqHead + 1) % 2 ^ r.sqSize } s
      let c : Cmd := { key := ⟨f, q, cmdTag raw⟩, raw := raw, serial := u.host.nextSerial, live := true, started := false, done := none }
      exec (.commandFetch f q) s =
        .next (flushUnknown { u with host := { u.host with cmds := u.host.cmds ++ [c], nextSerial := u.host.nextSerial + 1 } }))) ∧
  (∀ (s : State) (f : FnId) (q : Fin 4),
    let p := (fnRec s f).qs[q]
    let due : Prop := p.unsig ≠ 0 ∧ p.irqEn = true ∧ p.state = .running
    (due → exec (.irqDelayExpire f (.pair q)) s =
      .next (sendMsix f p.vector (setQ f q { p with unsig := 0 } (waitUntil s (p.unsigAt + usec p.irqDelay))))) ∧
    (¬ due → exec (.irqDelayExpire f (.pair q)) s = .next s)) ∧
  (∀ (s : State) (f : FnId),
    let r := fnRec s f
    let due : Prop := r.unsig ≠ 0 ∧ r.irqEn = true ∧ r.state = .running
    (due → exec (.irqDelayExpire f .events) s =
      .next (sendMsix f r.vector (setFn f { r with unsig := 0 } (waitUntil s (r.unsigAt + usec r.irqDelay))))) ∧
    (¬ due → exec (.irqDelayExpire f .events) s = .next s)) ∧
  (∀ (s : State) (c : Cmd) (st : Byte) (res : List Byte),
    let f := c.key.fn
    let r := (fnRec s f).qs[c.key.q]
    let a := r.cpqBase.toNat + 32 * r.cpqTail
    let bad := hostStatus s a 32
    let u := hostWrite a (cpqBytes c st r.phase r.sqHead res) s
    let tail := (r.cpqTail + 1) % 2 ^ r.cpqSize
    let p : QRec := { r with cpqTail := tail, phase := if tail = 0 then !r.phase else r.phase,
                             unsig := r.unsig + 1, unsigAt := if r.unsig = 0 then s.t.now else r.unsigAt }
    let now : Prop := p.irqEn = true ∧ (max 1 p.irqCount ≤ p.unsig ∨ p.irqDelay = 0)
    ((c.live = false ∨ r.state ≠ .running) → writeCompletion c st res s = s) ∧
    (c.live = true → r.state = .running →
      (bad ≠ 0x00 → writeCompletion c st res s = setQ f c.key.q { r with state := .error, err := bad } s) ∧
      (bad = 0x00 → now → writeCompletion c st res s = sendMsix f p.vector (setQ f c.key.q { p with unsig := 0 } u)) ∧
      (bad = 0x00 → ¬ now → writeCompletion c st res s = setQ f c.key.q p u))) ∧
  (∀ (c : Cmd) (st : Byte) (phase : Bool) (head : Nat) (res : List Byte), res.length ≤ 24 → head < 4096 →
    let b := cpqBytes c st phase head res
    b.length = 32 ∧ leNat (b.take 2) = c.key.tag.toNat ∧ b[2]? = some st ∧ leNat ((b.drop 3).take 1) = b2n phase ∧
      leNat ((b.drop 4).take 4) = head + c.key.q.val * 4096 ∧ (b.drop 8).take res.length = res)

/-- Host links. A function reset, of a function that answers, disables its queues, and none of its fetched commands
answers any more; a lost link does so for every function of the port and is posted, once; PERST_N also holds the
port in reset until it is released. A port that may train and is down carries traffic at eight or four lanes, with
the decoder that the host set; at two or one it stays down, which is posted; any other training changes nothing. A
VF beyond NUMVFS loses its queues (R209, R348, R349, R353, R359, R468). Register writes. In space 0x4 a write
outside the layout, not of 8 bytes or misaligned answers BAD_PARAM, one to another module NOT_PERMITTED; a fountain
command waits for its sender's stores; any other goes to the register that its address names. A register that only
stores takes its fields where the permissions allow, one that cannot be written answers NOT_PERMITTED, and either
answers the status of a failed permission. In BAR0 an access of the wrong size or alignment, a register not there,
or a function that does not answer, does nothing; the bases take a value while their queue is disabled; the enables
and doorbells act as the commands of those names; OVERFLOW clears where 1 is written (R6, R187, R189, R351-R354,
R357). -/
def Obligations.HostLinksAndRegisterWrites : Prop :=
  ((∀ (s : State) (f : FnId), (fnOn s f = true → exec (.functionLevelReset f) s = .next (fnDown f s)) ∧
    (fnOn s f = false → exec (.functionLevelReset f) s = .next s)) ∧
  (∀ (s : State) (f : FnId), let t := fnDown f s
    (fnRec t f).state = .disabled ∧ (fnRec t f).enable = false ∧
      (∀ q : Fin 4, ((fnRec t f).qs[q]).state = .disabled ∧ ((fnRec t f).qs[q]).enable = false) ∧
      (∀ c ∈ t.host.cmds, c.key.fn = f → c.live = false) ∧ t.mem = s.mem ∧ t.core = s.core) ∧
  (∀ (s : State) (p : Fin 2),
    let u := updCxl p (fun r => { r with up := false, width := 0 }) s
    let down := if (s.host.ports[p]).up then cxlLinkEvent .linkDown p 0 0 ((portFns s p).foldl (fun s f => fnDown f s) u) else s
    exec (.cxlLinkDown p) s = .next down ∧ exec (.perstNAssert p) s = .next (updCxl p (fun r => { r with perst := true }) down) ∧
      exec (.perstNDeassert p) s = .next (updCxl p (fun r => { r with perst := false }) s)) ∧
  (∀ (s : State) (p : Fin 2) (w : Fin 9) (h : HdmSet),
    let may : Prop := cxlMayTrain s p = true ∧ (s.host.ports[p]).up = false
    (¬ may → exec (.cxlLinkTrained p ⟨w, h⟩) s = .next s) ∧
    (may → w = 8 ∨ w = 4 → exec (.cxlLinkTrained p ⟨w, h⟩) s =
      .next (cxlLinkEvent .linkUp p 0 w.val (updCxl p (fun r => { r with up := true, width := w.val, hdm := h }) s))) ∧
    (may → w = 2 ∨ w = 1 → exec (.cxlLinkTrained p ⟨w, h⟩) s = .next (cxlLinkEvent .linkDown p 4 w.val s)) ∧
    (w ≠ 8 → w ≠ 4 → w ≠ 2 → w ≠ 1 → exec (.cxlLinkTrained p ⟨w, h⟩) s = .next s)) ∧
  (∀ (s : State) (p : Fin 2) (n : Fin 64), exec (.numvfsChange p n) s =
    .next (((portFns s p).filter fun f => n.val < f.vf.val).foldl (fun s f => fnDown f s) (updCxl p (fun r => { r with numVfs := n.val }) s)))) ∧
  ((∀ (s : State) (who : Requester) (a : Word) (size : Nat) (v : Word),
    let home : Cl := match who with | .core x => x.c | .io c _ => c | .config c => c | _ => ⟨0, 0, 0⟩
    let r := regAddr home a
    let good : Prop := layoutOk a = true ∧ addrSpace a = 4 ∧ size = 8 ∧ a.toNat % 8 = 0
    let here : Prop := addrModule a = 0xFF ∨ some (addrModule a) = ownModule s
    (¬ good → exec (.registerWrite (.space4 who a size v)) s = .next (reply 0x03 s)) ∧
    (good → ¬ here → exec (.registerWrite (.space4 who a size v)) s = .next (reply 0x04 s)) ∧
    (good → here → fountainHeld who r.2 none s = true → exec (.registerWrite (.space4 who a size v)) s = .next s) ∧
    (good → here → fountainHeld who r.2 none s = false → exec (.registerWrite (.space4 who a size v)) s = .next (writeReg who r.1 r.2 v s))) ∧
  (∀ (s : State) (who : Requester) (c : Cl) (v : Word), regPerm s who c = 0x00 →
    (∀ k i, writeReg who c (.ctx k i 0x18) v s = reply 0x00 (updCtx ⟨c, k, i⟩ (fun r => { r with vector := BitVec.ofNat 48 v.toNat }) s)) ∧
    (∀ k : Fin 24, writeReg who c (.core k 0x108) v s =
      reply 0x00 (setCore c k.val { coreRec s c k.val with noteObj := BitVec.ofNat 5 v.toNat, note := bit v.toNat 5 } s)) ∧
    writeReg who c (.array 0) v s = reply 0x00 (updArr c (fun a => { a with late := a.late && !bit v.toNat 9 }) s) ∧
    writeReg who c (.array 0x20) v s = reply 0x00 (updArr c (fun a => { a with stallLimit := BitVec.ofNat 32 v.toNat }) s) ∧
    writeReg who c (.sync 8) v s = reply 0x00 (setSyncRegs c { syncRegs s c with watchdog := BitVec.ofNat 32 v.toNat } s) ∧
    (∀ k : Fin 24, writeReg who c (.fountain k 0) v s = reply 0x00 (setFreg c k.val { fregOf s c k.val with value := v } s)) ∧
    (∀ r, r = .reserved ∨ (∃ o, r = .bar 0 o) ∨ (∃ o, r = .clErr o) ∨ (∃ k : Fin 24, r = .core k 0) → writeReg who c r v s = reply 0x04 s)) ∧
  (∀ (s : State) (who : Requester) (c : Cl) (v : Word), regPerm s who c ≠ 0x00 → regPerm s who c ≠ 0x09 →
    ∀ r, r = .reserved ∨ r = .array 0x20 ∨ r = .sync 8 → writeReg who c r v s = reply (regPerm s who c) s) ∧
  (∀ (s : State) (f : FnId) (off size : Nat) (v : Word),
    (fnOn s f = false → exec (.registerWrite (.bar0 f off size v)) s = .next s) ∧
    (off < 0x2000 ∨ 0x2080 ≤ off → size ≠ 8 ∨ off % 8 ≠ 0 → exec (.registerWrite (.bar0 f off size v)) s = .next s)) ∧
  (∀ (s : State) (f : FnId) (v : Word) (q : Fin 4), fnOn s f = true →
    let e := fnRec s f
    let r := e.qs[q]
    let w (off : Nat) : Host.Outcome State Fault Refusal := exec (.registerWrite (.bar0 f off 8 v)) s
    let b := 0x200 + 0x40 * q.val
    w 0x100 = .next (if e.enable then s else setFn f { e with eqBase := v } s) ∧
    w 0x108 = (if bit v.toNat 0 then exec (.queueEnable f .events v) s else exec (.queueDisable f .events v) s) ∧
    w 0x110 = exec (.eqHead f v) s ∧
    w 0x118 = .next (if bit v.toNat 29 then setFn f { e with overflow := false } s else s) ∧
    w b = .next (if r.enable then s else setQ f q { r with sqBase := v } s) ∧
    w (b + 8) = .next (if r.enable then s else setQ f q { r with cpqBase := v } s) ∧
    w (b + 16) = (if bit v.toNat 0 then exec (.queueEnable f (.pair q) v) s else exec (.queueDisable f (.pair q) v) s) ∧
    w (b + 24) = exec (.sqTail f q v) s ∧ w (b + 32) = exec (.cpqHead f q v) s ∧ w (b + 40) = .next s) ∧
  (∀ (s : State) (f : FnId) (off size : Nat) (v : Word), fnOn s f = true → 0x2000 ≤ off → off < 0x2080 →
    ((size = 4 ∨ size = 8) → off % size = 0 → exec (.registerWrite (.bar0 f off size v)) s = .next (msixWrite f (off - 0x2000) size v s)) ∧
    ((size ≠ 4 ∧ size ≠ 8) ∨ off % size ≠ 0 → exec (.registerWrite (.bar0 f off size v)) s = .next s)))

/-- Checks before every command. The general check of a command's row gives BAD_PARAM for a reserved bit that is not
0; then NOT_READY before READY, but for the early commands; then NOT_PERMITTED in RETURNED, but for the commands
allowed there, for a VF that names a partition not its own, and for a VF at a PF's command; then BAD_PARAM where the
partition the command needs does not exist; else OK. Every host command whose record is not fetched, is of another
opcode or form, or may not run yet, changes nothing; one that may run and fails the check completes with that status
and does nothing else (R355, R360, R361). Bulk data and completions. A buffer not aligned to 64 bytes gives
BAD_PARAM; data longer than the buffer gives FULL with the length needed; a host access that fails gives its status;
in none of these is anything written. Otherwise the data is written and the completion carries its length. A buffer
is read in the same way, whole. Completing a command takes its record away and writes the completion; a command
already gone completes no more (R190, R355, R362). -/
def Obligations.CommandChecksAndBuffers : Prop :=
  ((∀ (s : State) (r : CmdRow) (c : Cmd),
    let zero := reservedZero r c.raw = true
    let ready := s.boot.ready = true ∨ r.early = true
    let open_ := s.boot.lc ≠ .returned ∨ r.returned = true
    let names := vfNames s c = true
    let issuer := r.pfOnly = false ∨ c.key.fn.vf.val = 0
    (¬ zero → cmdCheck s r c = 0x03) ∧ (zero → ¬ ready → cmdCheck s r c = 0x01) ∧ (zero → ready → ¬ open_ → cmdCheck s r c = 0x04) ∧
    (zero → ready → open_ → ¬ names → cmdCheck s r c = 0x04) ∧ (zero → ready → open_ → names → ¬ issuer → cmdCheck s r c = 0x04) ∧
    (zero → ready → open_ → names → issuer → partNamed s r c = false → cmdCheck s r c = 0x03) ∧
    (zero → ready → open_ → names → issuer → partNamed s r c = true → cmdCheck s r c = 0x00)) ∧
  (∀ (s : State) (c : Cmd), vfNames s c = true ↔
    (c.key.fn.vf.val = 0 ∨ cmdPart c.raw = 0xFF ∨ ∃ p, partOfVf s c.key.fn = some p ∧ cmdPart c.raw = p.val)) ∧
  (∀ (s : State) (r : CmdRow) (c : Cmd),
    let there : Prop := ∃ p q, cmdTarget s c = some p ∧ partOf s p = some q
    (r.part = .new → (partNamed s r c = true ↔ cmdPart c.raw < 64)) ∧ (r.part = .one → (partNamed s r c = true ↔ there)) ∧
    (r.part = .reach → (partNamed s r c = true ↔ cmdPart c.raw = 0xFF ∨ there)) ∧
    (r.part = .maybe → (partNamed s r c = true ↔ (cmdPart c.raw = 0xFF ∧ c.key.fn.vf.val = 0) ∨ there)) ∧
    (r.part = .none → (partNamed s r c = true ↔ cmdPart c.raw = 0xFF ∨ there))) ∧
  (∀ (i : Instr) (k : CmdKey) (op : Nat) (form : BitVec 512 → Bool), hostCommand i = some (k, op, form) → ∀ s : State,
    (s.host.cmds.find? (·.key == k) = none → exec i s = .next s) ∧
    (∀ c r, s.host.cmds.find? (·.key == k) = some c → cmdRow op = some r →
      (cmdOp c.raw ≠ op ∨ form c.raw = false ∨ mayRun s r c = false → exec i s = .next s) ∧
      (cmdOp c.raw = op → form c.raw = true → mayRun s r c = true → cmdCheck s r c ≠ 0x00 →
        exec i s = .next (complete k (cmdCheck s r c) [] s))))) ∧
  ((∀ (s : State) (c : Cmd) (d : Nat) (data : List Byte),
    let a := bufAddr c d
    let st := bufStatus s c a data.length
    (a % 64 ≠ 0 → giveData c d data s = complete c.key 0x03 [] s) ∧
    (a % 64 = 0 → bufLen c d < data.length → giveData c d data s = complete c.key 0x0E (leBytes 4 0 ++ leBytes 4 data.length) s) ∧
    (a % 64 = 0 → data.length ≤ bufLen c d → st ≠ 0x00 → giveData c d data s = complete c.key st [] s) ∧
    (a % 64 = 0 → data.length ≤ bufLen c d → st = 0x00 →
      giveData c d data s = complete c.key 0x00 (leBytes 4 data.length) (hostWrite a data s))) ∧
  (∀ (s : State) (c : Cmd) (d : Nat),
    let a := bufAddr c d
    let st := bufStatus s c a (bufLen c d)
    (a % 64 ≠ 0 → takeData s c d = .inl 0x03) ∧ (a % 64 = 0 → st ≠ 0x00 → takeData s c d = .inl st) ∧
    (a % 64 = 0 → st = 0x00 → takeData s c d = .inr (readBytes s.mem.host a (bufLen c d)))) ∧
  (∀ (s : State) (c : Cmd) (a n : Nat), bufStatus s c a 0 = 0x00 ∧
    (n ≠ 0 → (s.host.ports[c.key.fn.port]).up = false → bufStatus s c a n = 0x06) ∧
    (n ≠ 0 → (s.host.ports[c.key.fn.port]).up = true → bufStatus s c a n = hostStatus s a n)) ∧
  (∀ (s : State) (k : CmdKey) (st : Byte) (res : List Byte),
    (s.host.cmds.find? (·.key == k) = none → complete k st res s = s) ∧
    (∀ c, s.host.cmds.find? (·.key == k) = some c →
      complete k st res s = flushUnknown (writeCompletion c st res (dropCmd c.serial s)))))

/-- Commands that read the module answer its state as it stands, by BulkDataBuffers where they give bulk data:
IDENTIFY, with the 512-byte inventory where a buffer is given; status; power and its energy; clocks; Ocsal ports;
firmware and life-cycle; the dry map; router counters, BAD_PARAM for a bad cluster set; field power; memory error
counts (R201, R231, R241, R309, R330, R343, R345, R363, R369, R415, R446). Commands that read a partition: its query
record and power settings; its numerics block, its write-only words free values (the model's choice, DESIGN CHOICE);
the deadlock snapshot, FULL where there is none, released where it is given; and the memory information, whose list
of dry pages is a free value (DESIGN CHOICE) (R134, R280, R344, R364, R389). Dumps and register reads of clusters. A
cluster set or cluster that is none gives BAD_PARAM, one out of the command's reach NOT_PERMITTED, as does the array
dump of an array that is not FROZEN. SYNC_DUMP gives each cluster's objects, contexts, barriers and endpoints;
ARRAY_DUMP the array's status and tiles; CORE_DUMP, unless a register permission fails with its own status, the 24
core control blocks; REG_READ the register at an aligned offset, or its status. A sleeping cluster wakes first for
the last two (R93, R286, R296, R364). -/
def Obligations.ReadCommands : Prop :=
  ((∀ (s : State) (k : CmdKey) (c : Cmd), c.key = k → Runs s k 0x0101 c →
    let a := bufAddr c 2
    let n := bufLen c 2
    let st := bufStatus s c a 512
    (n = 0 → exec (.identify k) s = .next (complete k 0x00 (identifyResult s k.fn) s)) ∧
    (n ≠ 0 → a % 64 ≠ 0 → exec (.identify k) s = .next (complete k 0x03 [] s)) ∧
    (n ≠ 0 → a % 64 = 0 → n < 512 → exec (.identify k) s = .next (complete k 0x0E (leBytes 4 0 ++ leBytes 4 512) s)) ∧
    (a % 64 = 0 → 512 ≤ n → st ≠ 0x00 → exec (.identify k) s = .next (complete k st [] s)) ∧
    (a % 64 = 0 → 512 ≤ n → st = 0x00 →
      exec (.identify k) s = .next (complete k 0x00 (identifyResult s k.fn) (hostWrite a (inventory s) s)))) ∧
  (∀ (s : State) (k : CmdKey) (c : Cmd), c.key = k →
    (Runs s k 0x0102 c → exec (.getStatus k) s =
      .next (complete k 0x00 (leBytes 8 (devStatusWord s k.fn) ++ leBytes 8 (moduleTide s).toNat) s)) ∧
    (Runs s k 0x0601 c → exec (.powerGet k) s =
      .next (giveData c 2 (leBytes 8 (powerConfigWord s.pwr) ++ leBytes 32 (powerStatusWord s)) s)) ∧
    (Runs s k 0x0605 c → exec (.energyRead k) s =
      .next (giveData c 2 (energyBytes ((cmdTarget s c).elim s.pwr.overhead (energyOf s))) s)) ∧
    (Runs s k 0x0701 c → exec (.clockGet k) s = .next (giveData c 2 (leBytes 8 (put s.t.preferred.val 0 1 + put (b2n s.t.autoSwitch) 1 1 +
      put s.t.discipline.toNat 2 2 + put (b2n s.t.forerunner) 4 1) ++ leBytes 32 (clockStatusWord s)) s)) ∧
    (Runs s k 0x0801 c → exec (.ocsalStatus k) s =
      .next (giveData c 2 ((List.finRange 16).flatMap fun p => leBytes 64 (portWord s p)) s)) ∧
    (Runs s k 0x0903 c → exec (.fwStatus k) s = .next (complete k 0x00 (leBytes 4 s.boot.slot.val ++ leBytes 4 (slotVersion s 0).toNat ++
      leBytes 4 (slotVersion s 1).toNat ++ leBytes 4 (SlotFw.code s.boot.slots[1])) s)) ∧
    (Runs s k 0x0905 c → exec (.lcStatus k) s =
      .next (complete k 0x00 [BitVec.ofNat 8 (LcState.code s.boot.lc), BitVec.ofNat 8 (b2n s.boot.wipe.isSome)] s)) ∧
    (Runs s k 0x0B01 c → exec (.dryMapRead k) s = .next (giveData c 2 (dryMapBytes s) s)) ∧
    (Runs s k 0x0B03 c → (∀ xs, csetOf (cmdD c.raw 2) = some xs →
        exec (.routerCounters k) s = .next (giveData c 3 (xs.flatMap fun x => counterBytes (ctrOf s x)) s)) ∧
      (csetOf (cmdD c.raw 2) = none → exec (.routerCounters k) s = .next (complete k 0x03 [] s))) ∧
    (Runs s k 0x0B04 c → exec (.fieldPowerRead k) s =
      .next (giveData c 2 ((List.finRange 192).flatMap fun f => leBytes 32 (fieldPowerWord s f)) s)) ∧
    (Runs s k 0x0B05 c → exec (.memErrorRead k) s = .next (giveData c 2 ((List.range 48).flatMap fun n =>
      [0, 8, 16, 24].flatMap fun o => leBytes 8 (errWord (s.mem.stErr.get {} n) o)) s)))) ∧
  ((∀ (s : State) (k : CmdKey) (c : Cmd) (p : Fin 64) (r : PartRec), c.key = k →
    (RunsIn s k 0x020F c p r → exec (.partQuery k) s = .next (giveData c 2 (partQuery s p r) s)) ∧
    (RunsIn s k 0x0603 c p r → exec (.partPowerGet k) s =
      .next (complete k 0x00 (leBytes 8 (put r.defaultOp 0 5 + put r.maxOp 8 5 + put r.retMin 16 16 + put r.govHold 32 16)) s)) ∧
    (RunsIn s k 0x0A01 c p r → let u := reportsDue s
      let w := numWords (numBlock u p) ((List.range 96).map (8 * ·)) [] u
      exec (.numGet k) s = .next (giveData c 2 w.1 w.2) ∧ w.1.length = 768 ∧ w.2.num = u.num) ∧
    (RunsIn s k 0x0504 c p r → let d := s.sync.snapshots.get [] p.val
      let good : Prop := bufAddr c 2 % 64 = 0 ∧ d.length ≤ bufLen c 2 ∧ bufStatus s c (bufAddr c 2) d.length = 0x00
      (d = [] → exec (.deadlockRead k) s = .next (complete k 0x07 [] s)) ∧
      (d ≠ [] → good → exec (.deadlockRead k) s =
        .next (giveData c 2 d { s with sync := { s.sync with snapshots := s.sync.snapshots.set [] p.val [] } })) ∧
      (d ≠ [] → ¬ good → exec (.deadlockRead k) s = .next (giveData c 2 d s)))) ∧
  (∀ (s : State) (k : CmdKey) (c : Cmd), c.key = k → Runs s k 0x0405 c → ∃ keys : List Nat,
    (∀ n, n ∈ keys ↔ ∃ r, (n, r) ∈ s.mem.pages ∧ r.dry = true ∧ (cmdTarget s c = none ∨ r.holder = cmdTarget s c)) ∧
    exec (.memInfo k) s = .next (giveData c 2 (leBytes 8 s.mem.hdmUnmapped.toNat ++ (if c.key.fn.vf.val = 0 then
      (List.range (hdmGib s)).flatMap fun i => leBytes 4 (sliceWord (s.mem.slices.get none i)) else []) ++ Config.dryPageBytes keys) s))) ∧
  ((∀ (s : State) (k : CmdKey) (c : Cmd), c.key = k → Runs s k 0x0501 c →
    (csetOf (cmdD c.raw 2) = none → exec (.syncDump k) s = .next (complete k 0x03 [] s)) ∧
    (∀ xs, csetOf (cmdD c.raw 2) = some xs →
      ((∀ x ∈ xs, inReach s c x = true) → exec (.syncDump k) s = .next (giveData c 3 (xs.flatMap (syncDump s)) s)) ∧
      ((∃ x ∈ xs, inReach s c x = false) → exec (.syncDump k) s = .next (complete k 0x04 [] s)))) ∧
  (∀ (s : State) (k : CmdKey) (c : Cmd), c.key = k → cidOf (cmdD c.raw 2) = none →
    (Runs s k 0x0502 c → exec (.arrayDump k) s = .next (complete k 0x03 [] s)) ∧
    (Runs s k 0x0503 c → exec (.coreDump k) s = .next (complete k 0x03 [] s)) ∧
    (Runs s k 0x0303 c → exec (.regRead k) s = .next (complete k 0x03 [] s))) ∧
  (∀ (s : State) (k : CmdKey) (c : Cmd) (x : Cl), c.key = k → cidOf (cmdD c.raw 2) = some x →
    (Runs s k 0x0502 c →
      (inReach s c x = true → (arrOf s x).state = .frozen → exec (.arrayDump k) s =
        .next (giveData c 3 (leBytes 8 (arrStatusWord (arrOf s x)) ++ (allTiles x).flatMap (tileRecord s)) s)) ∧
      ((inReach s c x = false ∨ (arrOf s x).state ≠ .frozen) → exec (.arrayDump k) s = .next (complete k 0x04 [] s))) ∧
    (Runs s k 0x0503 c →
      let u := rouse x s
      let st := regPerm u (cmdWho u c) x
      let w := dumpRegs c x ((List.range 1536).map (8 * ·)) [] u
      (inReach s c x = false → exec (.coreDump k) s = .next (complete k 0x04 [] s)) ∧
      (inReach s c x = true → st ≠ 0x00 → exec (.coreDump k) s = .next (complete k st [] u)) ∧
      (inReach s c x = true → st = 0x00 → exec (.coreDump k) s = .next (giveData c 3 w.1 w.2))) ∧
    (Runs s k 0x0303 c →
      let off := cmdD c.raw 3
      let g := getReg c x off (rouse x s)
      (off % 8 ≠ 0 → exec (.regRead k) s = .next (complete k 0x03 [] s)) ∧
      (off % 8 = 0 → inReach s c x = false → exec (.regRead k) s = .next (complete k 0x04 [] s)) ∧
      (off % 8 = 0 → inReach s c x = true → g.1 ≠ 0x00 → exec (.regRead k) s = .next (complete k g.1 [] g.2.2)) ∧
      (off % 8 = 0 → inReach s c x = true → g.1 = 0x00 →
        exec (.regRead k) s = .next (complete k 0x00 (leBytes 8 g.2.1.toNat) g.2.2)))) ∧
  (∀ (s : State) (c : Cmd) (x : Cl) (off : Nat), (getReg c x off s).1 = (readReg s (cmdWho s c) x (clReg off)).1 ∧
    ∀ v, (readReg s (cmdWho s c) x (clReg off)).2 = some v → getReg c x off s =
      ((readReg s (cmdWho s c) x (clReg off)).1, BitVec.ofNat 64 v, s)))

/-- Partitions and their VF. PART_CREATE of a number that does not exist, for a VF that is not bound, makes the
partition with its VF, its numerics and energy at their reset values, and a seed base and page key newly drawn; VF 0
is BAD_PARAM, a number that exists or a VF that is bound NOT_PERMITTED. PART_SET_VF moves an existing partition to a
VF bound to no other, under the same checks. PART_DELETE starts the partition's reset, which deletes it at its end
(R136, R194, R363, R380). Beds. A buffer that cannot be read gives its status, one with no entry or a bad one
BAD_PARAM, as do beds that would not be one connected set. Binding a bed of another partition is FULL, one whose
clusters are all dry HW_FAULT; otherwise every cluster of the new beds but a wellhead is bound, a parked one powered
up and zeroed first, which takes 92 µs. Unbinding a bed that is not the partition's is NOT_PERMITTED; otherwise the
clusters of the named beds leave. The completion carries the clusters bound that are not dry (R363, R374, R377,
R378). Stack regions. Binding checks in order the size and place of the region and its stacks, BAD_PARAM, a dry
stack, BAD_PARAM, an entry already valid, NOT_PERMITTED, an overlap with another region, BAD_PARAM, and too few free
pages, FULL; then it takes the lowest free pages of each stack (the model's choice), sets the entry and rekeys them.
Freeing an entry that is not valid does nothing; a valid one is cleared and its pages freed (R192, R195, R363,
R379). Pump channels, ports and timeouts. BIND_PUMP of a stack above 47 is BAD_PARAM; otherwise the channel is
aborted, its queue empty and IDLE, and then owned by the partition named, or by none. BIND_PORT unbinds for 0xFF;
else a dry port is HW_FAULT, one bound to another partition NOT_PERMITTED, and any other is bound. SET_TIMEOUTS out
of a range is BAD_PARAM, otherwise a zero keeps its field (R238, R244, R363, R380, R426). Barriers and fountains. A
buffer that cannot be read gives its status; one with no entry, a bad one, or a cluster twice BAD_PARAM; an existing
barrier or fountain, or a cluster outside the partition, NOT_PERMITTED; a tree that finds a router with no entry
left FULL; otherwise it is created, a barrier with every member's settings, its root a member that the model leaves
free (DESIGN CHOICE). Deleting one that does not exist is BAD_PARAM; a barrier's members are cleared, and its
packets on their way dropped (R225, R264, R363). -/
def Obligations.PartitionCommands : Prop :=
  ((∀ (s : State) (k : CmdKey) (c : Cmd) (p : Fin 64), c.key = k → cmdPart c.raw = p.val → Runs s k 0x0201 c →
    let v := vfParam c
    (v.2 = 0 → exec (.partCreate k) s = .next (complete k 0x03 [] s)) ∧
    (v.2 ≠ 0 → (partOf s p).isSome = true ∨ vfTaken s v none = true → exec (.partCreate k) s = .next (complete k 0x04 [] s)) ∧
    (v.2 ≠ 0 → partOf s p = none → vfTaken s v none = false → ∃ u, exec (.partCreate k) s = .next (complete k 0x00 [] u) ∧
      partOf u p = some { port := v.1, vf := v.2 } ∧ (∀ q, q ≠ p → partOf u q = partOf s q) ∧
      numBlock u p = { seedBase := Config.free s.freeCount } ∧ (∀ q, q ≠ p → numBlock u q = numBlock s q) ∧ energyOf u p = {} ∧
      u.mem = { s.mem with keys := s.mem.keys.set 0 p.val (Config.free (s.freeCount + 1)) } ∧ u.core = s.core ∧ u.net = s.net ∧
      u.host = s.host)) ∧
  (∀ (s : State) (k : CmdKey) (c : Cmd) (p : Fin 64) (r : PartRec), c.key = k → RunsIn s k 0x0203 c p r →
    let v := vfParam c
    (v.2 = 0 → exec (.partSetVf k) s = .next (complete k 0x03 [] s)) ∧
    (v.2 ≠ 0 → vfTaken s v (some p) = true → exec (.partSetVf k) s = .next (complete k 0x04 [] s)) ∧
    (v.2 ≠ 0 → vfTaken s v (some p) = false →
      exec (.partSetVf k) s = .next (complete k 0x00 [] (setPart p (some { r with port := v.1, vf := v.2 }) s)))) ∧
  (∀ (s : State) (k : CmdKey) (c : Cmd) (p : Fin 64) (r : PartRec), c.key = k → RunsIn s k 0x0202 c p r →
    exec (.partDelete k) s = .next (startReset 3 true (markStarted c s) p)) ∧
  (∀ (s : State) (v : Fin 2 × Fin 64) (but : Option (Fin 64)),
    vfTaken s v but = true ↔ ∃ p, partOfVf s ⟨v.1, v.2⟩ = some p ∧ some p ≠ but)) ∧
  ((∀ (s : State) (k : CmdKey) (c : Cmd) (p : Fin 64) (r : PartRec), c.key = k → RunsIn s k 0x0204 c p r →
    (∀ st, takeData s c 2 = .inl st → (bedsKind c.raw = false → exec (.bedsBind k) s = .next (complete k st [] s)) ∧
      (bedsKind c.raw = true → exec (.bedsUnbind k) s = .next (complete k st [] s))) ∧
    (∀ d, takeData s c 2 = .inr d → bedEntries d = none → (bedsKind c.raw = false → exec (.bedsBind k) s = .next (complete k 0x03 [] s)) ∧
      (bedsKind c.raw = true → exec (.bedsUnbind k) s = .next (complete k 0x03 [] s)))) ∧
  (∀ (s : State) (k : CmdKey) (c : Cmd) (p : Fin 64) (r : PartRec) (d : List Byte) (named : List Nat), c.key = k →
    RunsIn s k 0x0204 c p r → takeData s c 2 = .inr d → bedEntries d = some named → bedsKind c.raw = false →
    let new := (named.filter fun b => !r.beds.contains b).eraseDups
    let beds := sortBeds (r.beds ++ new)
    let taken : Prop := ∃ b ∈ new, (bedOwner s b).isSome = true
    let dry : Prop := ∃ b ∈ new, ∀ x ∈ bedClusters b, clLive s x = false
    let parked := (new.flatMap bedClusters).any fun x => clLive s x && sleepOf s x == .off
    (bedsConnected beds = false → exec (.bedsBind k) s = .next (complete k 0x03 [] s)) ∧
    (bedsConnected beds = true → taken → exec (.bedsBind k) s = .next (complete k 0x07 [] s)) ∧
    (bedsConnected beds = true → ¬ taken → dry → exec (.bedsBind k) s = .next (complete k 0x09 [] s)) ∧
    (bedsConnected beds = true → ¬ taken → ¬ dry → ∃ u, exec (.bedsBind k) s = .next (complete k 0x00 (leBytes 4 (boundLive u p)) u) ∧
      partOf u p = some { r with beds := beds, state := .active } ∧ (∀ q, q ≠ p → partOf u q = partOf s q) ∧
      u.t.now = (if parked then s.t.now + usec 92 else s.t.now) ∧
      ∀ x, owner u x = if (∃ b ∈ new, x ∈ bedClusters b) ∧ isWellhead s x = false then some p else owner s x)) ∧
  (∀ (s : State) (k : CmdKey) (c : Cmd) (p : Fin 64) (r : PartRec) (d : List Byte) (named : List Nat), c.key = k →
    RunsIn s k 0x0204 c p r → takeData s c 2 = .inr d → bedEntries d = some named → bedsKind c.raw = true →
    let beds := r.beds.filter fun b => !named.contains b
    let gone := (named.eraseDups.flatMap bedClusters).filter fun x => owner s x == some p
    (bedsConnected beds = false → exec (.bedsUnbind k) s = .next (complete k 0x03 [] s)) ∧
    (bedsConnected beds = true → (∃ b ∈ named, b ∉ r.beds) → exec (.bedsUnbind k) s = .next (complete k 0x04 [] s)) ∧
    (bedsConnected beds = true → (∀ b ∈ named, b ∈ r.beds) → ∀ q, partOf (leaveClusters p gone s) p = some q →
      let u := setPart p (some { q with beds := beds, state := if beds = [] then .empty else .active }) (leaveClusters p gone s)
      exec (.bedsUnbind k) s = .next (complete k 0x00 (leBytes 4 (boundLive u p)) u))) ∧
  (∀ (s : State) (p : Fin 64) (cs : List Cl), ∀ x ∈ cs, owner (leaveClusters p cs s) x = none)) ∧
  ((∀ (s : State) (k : CmdKey) (c : Cmd) (p : Fin 64) (r : PartRec), c.key = k → RunsIn s k 0x0206 c p r → regValid c.raw = true →
    let i := regIndex c.raw
    let m := regStacks c.raw
    let n := regPages c.raw
    let a := regStart c.raw
    let shape : Prop := 1 ≤ n ∧ n ≤ 3072 ∧ m ≠ [] ∧ n % m.length = 0 ∧ a + n ≤ 4096
    let dry : Prop := ∃ x ∈ m, s.net.dry.stk.getLsbD x.val = true
    let overlap : Prop := ∃ j o, r.regions[(j : Fin 16)] = some o ∧ rangesMeet a n o.start (regionSize o) = true
    let phys := m.map fun x => (freeStackPages s x).take (n / m.length)
    let short : Prop := ∃ l ∈ phys, l.length < n / m.length
    let bad (st : Byte) : Prop := exec (.setRegionBind k) s = .next (complete k st [] s)
    (¬ shape → bad 0x03) ∧ (shape → dry → bad 0x03) ∧ (shape → ¬ dry → (r.regions[i]).isSome = true → bad 0x04) ∧
    (shape → ¬ dry → r.regions[i] = none → overlap → bad 0x03) ∧ (shape → ¬ dry → r.regions[i] = none → ¬ overlap → short → bad 0x07) ∧
    (shape → ¬ dry → r.regions[i] = none → ¬ overlap → ¬ short →
      let g : StackRegion := { start := a, linear := bit (cmdD c.raw 2) 4, members := m, depth := n / m.length, phys := phys }
      exec (.setRegionBind k) s = .next (complete k 0x00 [] (rekeySet (some p) 0 ((regionPages g).map fun e => (e.1, some p, e.2))
        (setPart p (some { r with regions := vset r.regions i (some g) }) s))))) ∧
  (∀ (s : State) (k : CmdKey) (c : Cmd) (p : Fin 64) (r : PartRec), c.key = k → RunsIn s k 0x0206 c p r → regValid c.raw = false →
    let i := regIndex c.raw
    (r.regions[i] = none → exec (.setRegionFree k) s = .next (complete k 0x00 [] s)) ∧
    (∀ g, r.regions[i] = some g → exec (.setRegionFree k) s = .next (complete k 0x00 []
      (freePages p ((regionPages g).map (·.1)) (fun n => decide (g.start ≤ n) && decide (n < g.start + regionSize g))
        (setPart p (some { r with regions := vset r.regions i none }) s))))) ∧
  (∀ (s : State) (n : Fin 48) (i : Nat), i ∈ freeStackPages s n ↔ i < stackPages s.boot.variant ∧
    (s.mem.pages.get {} (n.val * 64 + i)).holder = none ∧ (s.mem.pages.get {} (n.val * 64 + i)).dry = false ∧
    n.val * 64 + i ∉ s.boot.retired)) ∧
  ((∀ (s : State) (k : CmdKey) (c : Cmd), c.key = k → Runs s k 0x0207 c →
    let n := fld (cmdD c.raw 2) 0 6
    let ch : ChanId := .stack (Fin.ofNat 48 n) (Fin.ofNat 16 (fld (cmdD c.raw 2) 8 4))
    let u := abortChan ch true s
    (48 ≤ n → exec (.bindPump k) s = .next (complete k 0x03 [] s)) ∧
    (n < 48 → exec (.bindPump k) s = .next (complete k 0x00 [] (setChan ch { chanOf u ch with owner := cmdTarget u c } u))) ∧
    (chanOf u ch).queue = [] ∧ (chanOf u ch).state = .idle) ∧
  (∀ (s : State) (k : CmdKey) (c : Cmd), c.key = k → Runs s k 0x0208 c →
    let port : Fin 16 := Fin.ofNat 16 (cmdD c.raw 2)
    let r := portRec s port
    (cmdTarget s c = none → exec (.bindPort k) s = .next (complete k 0x00 [] (setPort port { r with bound := none } s))) ∧
    (∀ p, cmdTarget s c = some p →
      (portDry s port = true → exec (.bindPort k) s = .next (complete k 0x09 [] s)) ∧
      (portDry s port = false → (∃ q, r.bound = some q ∧ q ≠ p) → exec (.bindPort k) s = .next (complete k 0x04 [] s)) ∧
      (portDry s port = false → r.bound = none ∨ r.bound = some p →
        exec (.bindPort k) s = .next (complete k 0x00 [] (setPort port { r with bound := some p } s))))) ∧
  (∀ (s : State) (k : CmdKey) (c : Cmd) (p : Fin 64) (r : PartRec), c.key = k → RunsIn s k 0x0209 c p r →
    let m := cmdD c.raw 2
    let o := cmdD c.raw 3
    let h := cmdD c.raw 4
    let good : Prop := (m = 0 ∨ 2 ≤ m ∧ m ≤ 1000) ∧ (o = 0 ∨ 100 ≤ o ∧ o ≤ 100000) ∧ (h = 0 ∨ 100 ≤ h ∧ h ≤ 100000)
    (¬ good → exec (.setTimeouts k) s = .next (complete k 0x03 [] s)) ∧
    (good → exec (.setTimeouts k) s = .next (complete k 0x00 [] (setPart p (some { r with
      mesh := if m = 0 then r.mesh else m, remote := if o = 0 then r.remote else o, host := if h = 0 then r.host else h }) s))))) ∧
  ((∀ (s : State) (k : CmdKey) (c : Cmd) (p : Fin 64) (r : PartRec), c.key = k → RunsIn s k 0x020B c p r →
    let b : Fin 32 := Fin.ofNat 32 (cmdD c.raw 2)
    let lead := fld (cmdD c.raw 2) 16 16
    let entries (d : List Byte) := (entriesOf 8 (d.length + 1) d).bind fun l => l.mapM (barEntry lead)
    (∀ st, takeData s c 3 = .inl st → exec (.barrierCreate k) s = .next (complete k st [] s)) ∧
    (∀ d, takeData s c 3 = .inr d →
      (entries d = none → exec (.barrierCreate k) s = .next (complete k 0x03 [] s)) ∧
      (∀ es, entries d = some es →
        let ms := es.map (·.1)
        let once : Prop := ms.eraseDups.length = ms.length
        let may : Prop := rootOf s p b.val = none ∧ ∀ x ∈ ms, owner s x = some p
        let root := chooseRoot s (p.val * 32 + b.val) ms
        (¬ once → exec (.barrierCreate k) s = .next (complete k 0x03 [] s)) ∧
        (once → ¬ may → exec (.barrierCreate k) s = .next (complete k 0x04 [] s)) ∧
        (once → may → treesFull s root ms = true → exec (.barrierCreate k) s = .next (complete k 0x07 [] s)) ∧
        (once → may → treesFull s root ms = false → ∃ u, exec (.barrierCreate k) s = .next (complete k 0x00 [] u) ∧
          rootOf u p b.val = some { root := root, members := ms, lead := lead, generation := 0, got := [], hall := hallHeld s p } ∧
          (∀ e ∈ es, barOf u e.1 b.val = e.2) ∧ (∀ x, x ∉ ms → ∀ d : Fin 32, barOf u x d.val = barOf s x d.val) ∧ u = { s with sync := u.sync })))) ∧
  (∀ (s : State) (key : Nat) (x : Cl) (ms : List Cl), chooseRoot s key (x :: ms) ∈ x :: ms) ∧
  (∀ (s : State) (k : CmdKey) (c : Cmd) (p : Fin 64) (r : PartRec), c.key = k → RunsIn s k 0x020C c p r →
    let b : Fin 32 := Fin.ofNat 32 (cmdD c.raw 2)
    (rootOf s p b.val = none → exec (.barrierDelete k) s = .next (complete k 0x03 [] s)) ∧
    (∀ g, rootOf s p b.val = some g → ∃ u, exec (.barrierDelete k) s = .next (complete k 0x00 [] u) ∧ rootOf u p b.val = none ∧
      (∀ x ∈ g.members, barOf u x b.val = {}) ∧ (∀ x, x ∉ g.members → ∀ d : Fin 32, barOf u x d.val = barOf s x d.val) ∧
      (∀ c n, BarPkt.arrive p b c n ∉ u.sync.pkts) ∧ (∀ c n v m, BarPkt.release p b c n v m ∉ u.sync.pkts) ∧ u = { s with sync := u.sync })) ∧
  (∀ (s : State) (k : CmdKey) (c : Cmd) (p : Fin 64) (r : PartRec), c.key = k → RunsIn s k 0x020D c p r →
    let key := p.val * 16 + cmdD c.raw 2 % 16
    let entries (d : List Byte) := (entriesOf 2 (d.length + 1) d).bind fun l => l.mapM cidOf
    (∀ st, takeData s c 3 = .inl st → exec (.fountainCreate k) s = .next (complete k st [] s)) ∧
    (∀ d, takeData s c 3 = .inr d →
      (entries d = none → exec (.fountainCreate k) s = .next (complete k 0x03 [] s)) ∧
      (∀ ms, entries d = some ms →
        let once : Prop := ms.eraseDups.length = ms.length
        let may : Prop := s.net.fountains.get none key = none ∧ ∀ x ∈ ms, owner s x = some p
        let root := chooseRoot s (2 ^ 12 + key) ms
        (¬ once → exec (.fountainCreate k) s = .next (complete k 0x03 [] s)) ∧
        (once → ¬ may → exec (.fountainCreate k) s = .next (complete k 0x04 [] s)) ∧
        (once → may → treesFull s root ms = true → exec (.fountainCreate k) s = .next (complete k 0x07 [] s)) ∧
        (once → may → treesFull s root ms = false → exec (.fountainCreate k) s = .next (complete k 0x00 []
          { s with net := { s.net with fountains := s.net.fountains.set none key (some { root := root, members := ms }) } }))))) ∧
  (∀ (s : State) (k : CmdKey) (c : Cmd) (p : Fin 64) (r : PartRec), c.key = k → RunsIn s k 0x020E c p r →
    let key := p.val * 16 + cmdD c.raw 2 % 16
    ((s.net.fountains.get none key).isSome = true → exec (.fountainDelete k) s =
      .next (complete k 0x00 [] { s with net := { s.net with fountains := s.net.fountains.set none key none } })) ∧
    (s.net.fountains.get none key = none → exec (.fountainDelete k) s = .next (complete k 0x03 [] s))))

/-- Resets by command. A context or a cluster of the partition resets at once; kind 0, a cluster that is none or a
core above 23 is BAD_PARAM, a cluster of another partition NOT_PERMITTED. A partition's reset starts its drain.
DEV_RESET of a wafer or of the module's compute resets every partition there, of the module restarts it warm, and
cold restarts it cold; the kinds of RESET are BAD_PARAM (R363, R383, R384, R493). A partition's reset. It starts
unless one runs, which takes the larger kind; the units of its clusters that are not dry and its stack pump channels
stop, and the requests its targets hold are owed. The drain ends 2 µs after the start, or at 100 µs with those still
held answered PARTITION_RESETTING; a new key is drawn and the pages rekeyed. After 32 µs of zeroing its numerics,
barriers and clusters are at their reset values, the reset is over and its event posted, the partition is deleted if
that was asked, and commands that waited complete. Either step does nothing where no reset is at it (R386, R388). -/
def Obligations.ResetCommands : Prop :=
  ((∀ (s : State) (k : CmdKey) (c : Cmd), c.key = k → Runs s k 0x0103 c →
    (devKind c.raw = 4 → exec (.devResetWafer k) s = .next (finishResets (markStarted c (startWide [Fin.ofNat 4 (fld (cmdD c.raw 2) 3 2)] 4 s)))) ∧
    (devKind c.raw < 4 → exec (.devResetWafer k) s = .next (complete k 0x03 [] s)) ∧
    (devKind c.raw = 5 → exec (.devResetModuleCompute k) s = .next (finishResets (markStarted c (startWide [0, 1, 2, 3] 5 s)))) ∧
    (devKind c.raw = 6 → exec (.devResetModuleFull k) s = .next (startWarm s)) ∧
    (devKind c.raw = 7 → exec (.devResetCold k) s = .next (startCold s))) ∧
  (∀ (s : State) (k : CmdKey) (c : Cmd) (p : Fin 64) (r : PartRec), c.key = k → RunsIn s k 0x020A c p r →
    let core := fld (cmdD c.raw 2) 8 5
    (resetKind c.raw ≤ 1 → cidOf (cmdD c.raw 3) = none ∨ resetKind c.raw = 0 ∨ 24 ≤ core → exec (.resetContext k) s = .next (complete k 0x03 [] s)) ∧
    (resetKind c.raw = 2 → cidOf (cmdD c.raw 3) = none ∨ 24 ≤ core → exec (.resetClusterCompute k) s = .next (complete k 0x03 [] s)) ∧
    (resetKind c.raw = 3 → 24 ≤ core → exec (.resetPartitionCompute k) s = .next (complete k 0x03 [] s)) ∧
    (resetKind c.raw = 3 → core < 24 → exec (.resetPartitionCompute k) s = .next (startReset 3 false (markStarted c s) p)) ∧
    (∀ x, cidOf (cmdD c.raw 3) = some x → core < 24 →
      (resetKind c.raw = 1 → owner s x ≠ some p → exec (.resetContext k) s = .next (complete k 0x04 [] s)) ∧
      (resetKind c.raw = 1 → owner s x = some p → exec (.resetContext k) s =
        .next (complete k 0x00 [] (ctxReset ⟨x, Fin.ofNat 24 core, Fin.ofNat 4 (fld (cmdD c.raw 2) 13 2)⟩ s))) ∧
      (resetKind c.raw = 2 → owner s x ≠ some p → exec (.resetClusterCompute k) s = .next (complete k 0x04 [] s)) ∧
      (resetKind c.raw = 2 → owner s x = some p → exec (.resetClusterCompute k) s = .next (complete k 0x00 [] (clusterReset x s)))))) ∧
  ((∀ (s : State) (kind : Nat) (del : Bool) (p : Fin 64),
    (partOf s p = none → startReset kind del s p = s) ∧
    (∀ r, partOf s p = some r →
      (∀ z, r.reset = some z → startReset kind del s p =
        setPart p (some { r with reset := some { z with kind := max z.kind kind, deleting := z.deleting || del } }) s) ∧
      (r.reset = none →
        let owed := heldBy s (fun c => owner s c == some p) (fun n g => (s.mem.pages.get {} (n.val * 64 + g)).holder == some p)
        let st : PartState := if del then .deleting else .resetting
        let z : PReset := { since := s.t.now, kind := kind, zeroing := false, deleting := del, owed := owed }
        let u := setPart p (some { r with state := st, reset := some z }) s
        let v := ((partClusters u p).filter (clLive u)).foldl stopCluster u
        startReset kind del s p = (boundChans v p).foldl (fun s ch => resetChan ch s) v))) ∧
  (∀ (s : State) (p : Fin 64),
    ((∀ r z, partOf s p = some r → r.reset = some z → z.zeroing = true) → exec (.partitionResetDrainEnd p) s = .next s) ∧
    ((∀ r z, partOf s p = some r → r.reset = some z → z.zeroing = false) → exec (.partitionResetZeroDone p) s = .next s)) ∧
  (∀ (s : State) (p : Fin 64) (r : PartRec) (z : PReset), partOf s p = some r → r.reset = some z → z.zeroing = false →
    let left := z.owed.filter fun i => (xactOf s i).any fun x => x.phase == .there
    let u := drawKey p (left.foldl refuseHeld (waitUntil s (z.since + usec (if left = [] then 2 else 100))))
    exec (.partitionResetDrainEnd p) s = .next (setPart p (some { r with reset := some { z with zeroing := true, owed := [] } })
      (rekeySet (some p) 2 ((heldPages u p).map fun e => (e.1, some p, e.2.index)) u))) ∧
  (∀ (s : State) (i : Nat) (x : Xact), xactOf s i = some x → (x.phase = .there → refuseHeld s i = answer x 0x05 [] s) ∧
    (x.phase ≠ .there → refuseHeld s i = s)) ∧
  (∀ (s : State) (p : Fin 64) (r : PartRec) (z : PReset), partOf s p = some r → r.reset = some z → z.zeroing = true →
    let a := resetTrees p (resetNum p (waitUntil s (s.t.now + usec 32)))
    let b := ((partClusters a p).filter (clLive a)).foldl resetBound a
    let d := resetDoneEvent p z.kind z.since
      (setPart p (some { r with reset := none, lastReset := moduleTide b, state := if r.beds = [] then .empty else .active }) b)
    (z.deleting = false → exec (.partitionResetZeroDone p) s = .next (finishResets d)) ∧
    (z.deleting = true → exec (.partitionResetZeroDone p) s = .next (finishResets
      ((d.host.cmds.filter fun c => c.started && cmdOp c.raw == 0x0202 && cmdTarget d c == some p).foldl (fun s c => complete c.key 0x00 [] s)
        (deletePartition p d))))))

/-- Images and registers. LOAD_IMAGE of a buffer that cannot be read gives its status, of one that is no image
BAD_PARAM; otherwise its sections are put in order until one fails, and the completion names how many are done and
the one that failed. REG_WRITE of a bad cluster set or a misaligned offset is BAD_PARAM; otherwise it goes to every
cluster of the set, refused outside the reach, and the completion counts both kinds and names the highest status
(R364-R367). Copies, wipes and slices. MEM_COPY of no bytes or more than 16 MiB, of an address not local or not of
spaces 0x0 to 0x3, or from a buffer not aligned to 64 bytes is BAD_PARAM; a buffer that fails gives its status;
otherwise packets move one way until one fails, and the completion carries the bytes moved. WIPE of no page or of
one not mapped is BAD_PARAM, otherwise the pages named are rekeyed. HDM_MAP needs a slice of the range and a mapped
page, else BAD_PARAM; HDM_UNMAP always unmaps (R195, R210, R364). -/
def Obligations.MemoryCommands : Prop :=
  ((∀ (s : State) (k : CmdKey) (c : Cmd) (p : Fin 64) (r : PartRec), c.key = k → RunsIn s k 0x0301 c p r →
    (∀ st, takeData s c 2 = .inl st → exec (.loadImage k) s = .next (complete k st [] s)) ∧
    (∀ d, takeData s c 2 = .inr d → (imageSections d = none → exec (.loadImage k) s = .next (complete k 0x03 [] s)) ∧
      (∀ es, imageSections d = some es →
        let w := putSections p (bit (cmdD c.raw 5) 0) d es 0 s
        let u := if (es.take w.2.1).any fun e => e.type == 1 then flushCaches p w.2.2 else w.2.2
        exec (.loadImage k) s = .next (complete k w.1 (leBytes 4 w.2.1 ++ leBytes 4 (if w.1 = 0x00 then all32 else w.2.1)) u)))) ∧
  (∀ (s : State) (p : Fin 64) (skip : Bool) (img : List Byte) (e : Section) (es : List Section) (n : Nat),
    let w := putSection p skip img e s
    putSections p skip img [] n s = (0x00, n, s) ∧ (w.1 ≠ 0x00 → putSections p skip img (e :: es) n s = (w.1, n, w.2)) ∧
    (w.1 = 0x00 → putSections p skip img (e :: es) n s = putSections p skip img es (n + 1) w.2)) ∧
  (∀ (s : State) (k : CmdKey) (c : Cmd), c.key = k → Runs s k 0x0302 c →
    (csetOf (cmdD c.raw 2) = none ∨ cmdD c.raw 3 % 8 ≠ 0 → exec (.regWrite k) s = .next (complete k 0x03 [] s)) ∧
    (∀ xs, csetOf (cmdD c.raw 2) = some xs → cmdD c.raw 3 % 8 = 0 →
      let w := xs.foldl (putReg c (cmdD c.raw 3) (BitVec.ofNat 64 (cmdD c.raw 4 + cmdD c.raw 5 * 2 ^ 32))) ([], s)
      ∃ worst, exec (.regWrite k) s = .next (complete k worst (leBytes 4 (w.1.filter (· == 0x00)).length ++ leBytes 4 0 ++
          leBytes 2 (w.1.filter (· != 0x00)).length ++ [worst]) { w.2 with ioReply := s.ioReply }) ∧
        (∀ b ∈ w.1, b.toNat ≤ worst.toNat) ∧ (worst = 0x00 ∨ worst ∈ w.1) ∧ w.1.length = xs.length)) ∧
  (∀ (c : Cmd) (off : Nat) (v : Word) (l : List Byte) (s : State) (x : Cl),
    (inReach s c x = false → putReg c off v (l, s) x = (l ++ [0x04], s)) ∧
    (inReach s c x = true → let u := writeReg (cmdWho s c) x (clReg off) v (rouse x s)
      putReg c off v (l, s) x = (l ++ [u.ioReply], u)))) ∧
  ((∀ (s : State) (k : CmdKey) (c : Cmd) (p : Fin 64) (r : PartRec), c.key = k → RunsIn s k 0x0401 c p r →
    let host := bufAddr c 2
    let n := bufLen c 2
    let a := cmdD c.raw 5 + cmdD c.raw 6 * 2 ^ 32
    let st := bufStatus s c host n
    let good : Prop := 1 ≤ n ∧ n ≤ 2 ^ 24 ∧ fld a 56 8 = 0xFF ∧ fld a 52 4 ≤ 3 ∧ host % 64 = 0
    (¬ good → exec (.memCopy k) s = .next (complete k 0x03 [] s)) ∧
    (good → st ≠ 0x00 → exec (.memCopy k) s = .next (complete k st (leBytes 4 0) s)) ∧
    (good → st = 0x00 → bit (cmdD c.raw 7) 0 = false →
      let w := memPutAll p (cut a (readBytes s.mem.host host n)) 0 s
      exec (.memCopy k) s = .next (complete k w.1 (leBytes 4 w.2.1) w.2.2)) ∧
    (good → st = 0x00 → bit (cmdD c.raw 7) 0 = true →
      let w := memGetAll p (cut a (List.replicate n 0)) [] s
      exec (.memCopy k) s = .next (complete k w.1 (leBytes 4 w.2.1.length) (hostWrite host w.2.1 w.2.2)))) ∧
  (∀ (p : Fin 64) (a : Nat) (d : List Byte) (r : List (Nat × List Byte)) (n : Nat) (l : List Byte) (s : State),
    let w := memPut p (BitVec.ofNat 64 a) d s
    let g := memGet p (BitVec.ofNat 64 a) d.length s
    memPutAll p [] n s = (0x00, n, s) ∧ memGetAll p [] l s = (0x00, l, s) ∧
    (w.1 ≠ 0x00 → memPutAll p ((a, d) :: r) n s = (w.1, n, w.2)) ∧ (w.1 = 0x00 → memPutAll p ((a, d) :: r) n s = memPutAll p r (n + d.length) w.2) ∧
    (g.1 ≠ 0x00 → memGetAll p ((a, d) :: r) l s = (g.1, l, g.2.2)) ∧ (g.1 = 0x00 → memGetAll p ((a, d) :: r) l s = memGetAll p r (l ++ g.2.1) g.2.2)) ∧
  (∀ (s : State) (k : CmdKey) (c : Cmd) (p : Fin 64) (r : PartRec), c.key = k → RunsIn s k 0x0402 c p r →
    let a := cmdD c.raw 2
    let n := cmdD c.raw 3
    (n ≠ 0 → (∀ i < n, pageMapped s p (a + i) = true) → exec (.wipe k) s = .next (complete k 0x00 []
      (rekeySet (some p) 3 ((wipedPages s p a n).map fun e => (e.1, some p, e.2)) s))) ∧
    (n = 0 ∨ (∃ i < n, pageMapped s p (a + i) = false) → exec (.wipe k) s = .next (complete k 0x03 [] s))) ∧
  (∀ (s : State) (k : CmdKey) (c : Cmd) (p : Fin 64) (r : PartRec), c.key = k → RunsIn s k 0x0403 c p r →
    (cmdD c.raw 2 < hdmGib s → pageMapped s p (cmdD c.raw 3) = true →
      exec (.hdmMap k) s = .next (complete k 0x00 [] (setSlice (cmdD c.raw 2) (some (p, cmdD c.raw 3)) s))) ∧
    (hdmGib s ≤ cmdD c.raw 2 ∨ pageMapped s p (cmdD c.raw 3) = false → exec (.hdmMap k) s = .next (complete k 0x03 [] s))) ∧
  (∀ (s : State) (k : CmdKey) (c : Cmd), c.key = k → Runs s k 0x0404 c →
    exec (.hdmUnmap k) s = .next (complete k 0x00 [] (setSlice (cmdD c.raw 2) none s))))

/-- Power and clock settings. POWER_SET with a reserved bit, a limit out of its range, or a chassis cap below what
the manager's ring needs is BAD_PARAM; otherwise it is stored, and without a chassis cap the shares are dropped.
PART_POWER_SET checks its fields likewise. CLOCK_SET with a reserved bit or value is BAD_PARAM, otherwise stored,
and acts at once. SPRING_SWITCH to an input not valid is NOT_PERMITTED, to the one in use done, during a switch
NOT_READY, otherwise requested. SET_SECONDS is for the manager under PPS discipline only (R289, R301, R309, R343,
R344). -/
def Obligations.PowerAndClockSettings : Prop :=
  (∀ (s : State) (k : CmdKey) (c : Cmd), c.key = k → Runs s k 0x0602 c →
    let v := cmdD c.raw 2 + cmdD c.raw 3 * 2 ^ 32
    let cap := fld v 32 12
    let lim (n : Nat) : Prop := 200 ≤ n ∧ n ≤ 880
    let good : Prop := fld v 11 5 = 0 ∧ fld v 27 5 = 0 ∧ fld v 44 20 = 0 ∧ lim (fld v 0 10) ∧ lim (fld v 16 10) ∧
      (cap = 0 ∨ 200 ≤ cap ∧ cap ≤ 3520 ∧ (s.fab.role = .manager → 200 * (ringModules s).length ≤ cap))
    let u : State := { s with pwr := { s.pwr with
      cap := fld v 0 10, capInEn := bit v 10, capFailsafe := fld v 16 10, park := bit v 26, chassisCap := cap } }
    (¬ good → exec (.powerSet k) s = .next (complete k 0x03 [] s)) ∧
    (good → cap ≠ 0 → exec (.powerSet k) s = .next (complete k 0x00 [] u)) ∧
    (good → cap = 0 → exec (.powerSet k) s = .next (complete k 0x00 [] (dropShares u)))) ∧
  (∀ (s : State) (k : CmdKey) (c : Cmd) (p : Fin 64) (r : PartRec), c.key = k → RunsIn s k 0x0604 c p r →
    let v := cmdD c.raw 2 + cmdD c.raw 3 * 2 ^ 32
    let d := fld v 0 5
    let m := fld v 8 5
    let good : Prop := fld v 5 3 = 0 ∧ fld v 13 3 = 0 ∧ fld v 48 16 = 0 ∧ 4 ≤ d ∧ d ≤ m ∧ m ≤ 16 ∧ 2 ≤ fld v 16 16 ∧ 1 ≤ fld v 32 16
    (good → exec (.partPowerSet k) s = .next (complete k 0x00 []
      (setPart p (some { r with defaultOp := d, maxOp := m, retMin := fld v 16 16, govHold := fld v 32 16 }) s))) ∧
    (¬ good → exec (.partPowerSet k) s = .next (complete k 0x03 [] s))) ∧
  (∀ (s : State) (k : CmdKey) (c : Cmd), c.key = k → Runs s k 0x0702 c →
    let v := cmdD c.raw 2
    let good : Prop := fld v 5 27 = 0 ∧ cmdD c.raw 3 = 0 ∧ fld v 2 2 ≠ 3
    (¬ good → exec (.clockSet k) s = .next (complete k 0x03 [] s)) ∧
    (good → exec (.clockSet k) s = .next (complete k 0x00 [] (autoSwitch { s with t := { s.t with
      preferred := Fin.ofNat 2 v, autoSwitch := bit v 1, discipline := BitVec.ofNat 2 (fld v 2 2), forerunner := bit v 4
      holdover := if isManager s = true ∧ fld v 2 2 = 0 then true else s.t.holdover } })))) ∧
  (∀ (s : State) (k : CmdKey) (c : Cmd), c.key = k → Runs s k 0x0703 c →
    let d : Fin 2 := Fin.ofNat 2 (cmdD c.raw 2)
    let used : Prop := d = s.t.source ∧ s.t.spring = .settled ∧ s.t.coast = false
    (s.t.valid[d] = false → exec (.springSwitch k) s = .next (complete k 0x04 [] s)) ∧
    (s.t.valid[d] = true → used → exec (.springSwitch k) s = .next (complete k 0x00 [] s)) ∧
    (s.t.valid[d] = true → s.t.spring ≠ .settled → exec (.springSwitch k) s = .next (complete k 0x01 [] s)) ∧
    (s.t.valid[d] = true → s.t.spring = .settled → ¬ used → exec (.springSwitch k) s = .next (requestSwitch d (markStarted c s)))) ∧
  (∀ (s : State) (k : CmdKey) (c : Cmd), c.key = k → Runs s k 0x0704 c →
    (isManager s = false ∨ s.t.discipline ≠ 2 → exec (.setSeconds k) s = .next (complete k 0x04 [] s)) ∧
    (isManager s = true → s.t.discipline = 2 → exec (.setSeconds k) s = .next (complete k 0x00 [] { s with t := { s.t with
      seconds := some (BitVec.ofNat 64 (cmdD c.raw 2 + cmdD c.raw 3 * 2 ^ 32)) } })))

/-- Ocsal port settings. Operation 3 is BAD_PARAM and a dry port HW_FAULT. Enabling a ring port of a module in a
slot above 3 is NOT_PERMITTED; otherwise the port is enabled and, unless it is on, starts. Disabling takes the port
to DARK with reason 2, after 100 µs where flits that it sent are not acknowledged. A retrain takes an UP port to
RETRAINING, starts a FAILED one, and changes no other (R413, R414, R417, R474). Roles and hall bindings. OCSAL_ROLE
is NOT_PERMITTED while any hall is bound and NOT_READY while a change of number is polled; the role it has changes
nothing; STANDALONE gives up number and shares, MANAGER serves, and another role joins where it has no number or no
manager. HALL_BIND of 0xFF, of this module or of one not assigned is BAD_PARAM, without a number NOT_PERMITTED; the
same binding again is OK, another partition of a module already bound NOT_PERMITTED, and too many FULL; otherwise it
is added. The undo removes it (R425, R430, R431). -/
def Obligations.OcsalSettings : Prop :=
  (∀ (s : State) (k : CmdKey) (c : Cmd), c.key = k → Runs s k 0x0802 c →
    let p := portParam c
    let r := portRec s p
    let u := setPort p { r with enabled := true } s
    let w := setPort p { r with enabled := false } s
    let slot : Prop := pairOf p = none ∨ s.pwr.slotId.val < 4
    (portDry s p = true → (portOp c.raw = 1 → exec (.ocsalPortEnable k) s = .next (complete k 0x09 [] s)) ∧
      (portOp c.raw = 0 → exec (.ocsalPortDisable k) s = .next (complete k 0x09 [] s)) ∧
      (portOp c.raw = 2 → exec (.ocsalPortRetrain k) s = .next (complete k 0x09 [] s))) ∧
    (portOp c.raw = 3 → exec (.ocsalPortDisable k) s = .next (complete k 0x03 [] s)) ∧
    (portDry s p = false → portOp c.raw = 1 →
      (¬ slot → exec (.ocsalPortEnable k) s = .next (complete k 0x04 [] s)) ∧
      (slot → r.state.on = true → exec (.ocsalPortEnable k) s = .next (complete k 0x00 [] u)) ∧
      (slot → r.state.on = false → exec (.ocsalPortEnable k) s = .next (complete k 0x00 [] (startPort p u)))) ∧
    (portDry s p = false → portOp c.raw = 0 →
      let late : Prop := r.state.on = true ∧ r.acked ≠ r.txSeq
      (¬ late → exec (.ocsalPortDisable k) s = .next (complete k 0x00 [] (portDark p 2 w))) ∧
      (late → exec (.ocsalPortDisable k) s = .next (complete k 0x00 [] (portDark p 2 (waitUntil w (s.t.now + usec 100)))))) ∧
    (portDry s p = false → portOp c.raw = 2 →
      (r.state = .up → exec (.ocsalPortRetrain k) s = .next (complete k 0x00 [] (toRetrain p s))) ∧
      (r.state = .failed → exec (.ocsalPortRetrain k) s = .next (complete k 0x00 [] (startPort p s))) ∧
      (r.state ≠ .up → r.state ≠ .failed → exec (.ocsalPortRetrain k) s = .next (complete k 0x00 [] s)))) ∧
  ((∀ (s : State) (k : CmdKey) (c : Cmd), c.key = k → Runs s k 0x0803 c →
    let r := roleOf (fld (cmdD c.raw 2) 0 2)
    let u : State := { s with fab := { s.fab with role := r, upstream := none } }
    let goes (t : State) : Prop := exec (.ocsalRole k) s = .next (complete k 0x00 [] t)
    (anyHall s = true → exec (.ocsalRole k) s = .next (complete k 0x04 [] s)) ∧
    (anyHall s = false → s.fab.poll.isSome = true → exec (.ocsalRole k) s = .next (complete k 0x01 [] s)) ∧
    (anyHall s = false → s.fab.poll = none → r = s.fab.role → goes s) ∧
    (anyHall s = false → s.fab.poll = none → r ≠ s.fab.role →
      (r = .standalone → goes { u with
        fab := { u.fab with num := none, manager := 0xFF, standby := 0xFF, mask := 0, joining := false }
        pwr := { u.pwr with share := 0, shares := [], waiting := [], excess := 0 } }) ∧
      (r = .manager → s.pwr.chassisCap ≠ 0 → goes (serveManager u)) ∧
      (r = .manager → s.pwr.chassisCap = 0 → goes { serveManager u with pwr := { s.pwr with share := 0 } }) ∧
      (r = .worker ∨ r = .standby → s.fab.num = none ∨ s.fab.manager = 0xFF → goes (sendJoin u)) ∧
      (r = .worker ∨ r = .standby → s.fab.num.isSome = true → s.fab.manager ≠ 0xFF → goes u))) ∧
  (∀ (s : State) (k : CmdKey) (c : Cmd) (p : Fin 64) (r : PartRec), c.key = k → RunsIn s k 0x0804 c p r →
    let h := hallParam c
    let all : Nat := (s.part.parts.map fun e => (e.2.elim 0 fun q => q.hall.length)).sum
    let other : Prop := some h.1 ≠ s.fab.num ∧ moduleAssigned s h.1 = true
    let same : Prop := ∃ q, (h.1, q) ∈ r.hall
    let bad (st : Byte) : Prop := exec (.hallBind k) s = .next (complete k st [] s)
    (hallUndo c.raw = false → h.1 = 0xFF → bad 0x03) ∧
    (hallUndo c.raw = false → h.1 ≠ 0xFF → s.fab.num = none → bad 0x04) ∧
    (hallUndo c.raw = false → h.1 ≠ 0xFF → s.fab.num.isSome = true →
      (¬ other → bad 0x03) ∧ (other → h ∈ r.hall → bad 0x00) ∧ (other → h ∉ r.hall → same → bad 0x04) ∧
      (other → ¬ same → 64 ≤ r.hall.length ∨ 1024 ≤ all → bad 0x07) ∧
      (other → ¬ same → r.hall.length < 64 → all < 1024 →
        exec (.hallBind k) s = .next (complete k 0x00 [] (markHall p (setPart p (some { r with hall := r.hall ++ [h] }) s))))) ∧
    (hallUndo c.raw = true → exec (.hallUnbind k) s =
      .next (complete k 0x00 [] (markHall p (setPart p (some { r with hall := r.hall.filter (· != h) }) s))))))

/-- Firmware and life cycle. FW_WRITE out of its limits is BAD_PARAM, from a buffer that cannot be read its status;
otherwise the slot that does not run takes the bytes and is WRITTEN, and a slot that was to run no longer is.
FW_COMMIT of a slot neither WRITTEN nor COMMITTED is NOT_PERMITTED, of one that fails its checks AUTH_FAIL,
otherwise it is COMMITTED and to run. LC_TRANSITION needs 512 bytes and a buffer that can be read; a token that
fails gives its status, and one that passes completes and restarts the module cold with the wipe pending. A token
passes only for an allowed transition, with its own fields in place and the signature of an allowed signer (R446,
R447, R450-R452). -/
def Obligations.FirmwareAndLifeCycle : Prop :=
  (∀ (s : State) (k : CmdKey) (c : Cmd), c.key = k → Runs s k 0x0901 c →
    let off := cmdD c.raw 5
    let b := s.boot
    let i := otherSlot b.slot
    let good : Prop := off % 4096 = 0 ∧ bufLen c 2 ≤ 2 ^ 20 ∧ off + bufLen c 2 ≤ 2 ^ 28
    (¬ good → exec (.fwWrite k) s = .next (complete k 0x03 [] s)) ∧
    (good → ∀ st, takeData s c 2 = .inl st → exec (.fwWrite k) s = .next (complete k st [] s)) ∧
    (good → ∀ d, takeData s c 2 = .inr d → exec (.fwWrite k) s = .next (complete k 0x00 [] { s with boot := { b with
      select := if b.slots[i] = .committed then b.slot else b.select, slots := vset b.slots i .written
      factory := vset b.factory i false, flash := vset b.flash i (writeBytes b.flash[i] off d) } }))) ∧
  (∀ (s : State) (k : CmdKey) (c : Cmd), c.key = k → Runs s k 0x0902 c →
    let i := otherSlot s.boot.slot
    let may : Prop := s.boot.slots[i] = .written ∨ s.boot.slots[i] = .committed
    (¬ may → exec (.fwCommit k) s = .next (complete k 0x04 [] s)) ∧
    (may → slotPasses s i = true → exec (.fwCommit k) s = .next (complete k 0x00 [] (setSlot i .committed { s with boot := { s.boot with select := i } }))) ∧
    (may → slotPasses s i = false → exec (.fwCommit k) s =
      .next (complete k 0x08 [] (setSlot i .written { s with boot := { s.boot with select := s.boot.slot } })))) ∧
  (∀ (s : State) (k : CmdKey) (c : Cmd), c.key = k → Runs s k 0x0904 c →
    (bufLen c 2 ≠ 512 → exec (.lcTransition k) s = .next (complete k 0x03 [] s)) ∧
    (bufLen c 2 = 512 → ∀ st, takeData s c 2 = .inl st → exec (.lcTransition k) s = .next (complete k st [] s)) ∧
    (bufLen c 2 = 512 → ∀ d, takeData s c 2 = .inr d →
      let r := lcCheck s (fld (cmdD c.raw 5) 0 3) d
      let u := complete k 0x00 [] s
      (r.1 ≠ 0x00 → exec (.lcTransition k) s = .next (complete k r.1 [] s)) ∧
      (r.1 = 0x00 → exec (.lcTransition k) s = .next (startCold { u with boot := { u.boot with
        wipe := some (r.2, digestOf ((d.drop 0x20).take 48), BitVec.ofNat 32 (leNat ((d.drop 0x1C).take 4))) } })))) ∧
  (∀ (s : State) (target : Nat) (d : List Byte), (lcCheck s target d).1 = 0x00 →
    let n (off len : Nat) : Nat := leNat ((d.drop off).take len)
    let t := (lcCheck s target d).2
    let key := (d.drop 0x100).take 97
    lcOf target = some t ∧ lcAllowed s.boot.lc t = true ∧ n 6 1 = target ∧ n 7 1 = LcState.code s.boot.lc ∧ n 0 4 = 0x4B54434C ∧
      n 4 2 = 1 ∧ n 8 16 = s.boot.serial.toNat ∧ n 0x18 4 = s.boot.count.toNat ∧ lcSigner s.boot t (Config.sha384 key) = true ∧
      Config.verify (pointOf key) (d.take 0x180) (signatureOf ((d.drop 0x180).take 96)) = true ∧ (t ≠ .debug → n 0x1C 4 = 0)) ∧
  (∀ a b : LcState, lcAllowed a b = true ↔ (a = .blank ∧ b = .provisioned) ∨ (a = .provisioned ∧ b = .deployed) ∨ (a = .deployed ∧ b = .debug) ∨
    (a = .debug ∧ b = .deployed) ∨ (a ≠ .returned ∧ b = .returned))

/-- Numerics and units. NUM_SET with a reserved bit is BAD_PARAM; otherwise the fields that it selects are set and
the others kept, and a seed base that was set counts while SEED_MODE is 1. NAN_CLEAR clears VALID alone. FENCE_UNIT
of an identifier that names no unit of its kinds is BAD_PARAM, of a core, a tile or the cluster of a wellhead
NOT_PERMITTED; otherwise the unit is fenced with cause 2 (R59, R135, R136, R156, R482). -/
def Obligations.NumericsAndFencing : Prop :=
  (∀ (s : State) (k : CmdKey) (c : Cmd) (p : Fin 64) (r : PartRec), c.key = k → RunsIn s k 0x0A02 c p r →
    let d := cmdD c.raw 2
    let v := cmdD c.raw 4 + cmdD c.raw 5 * 2 ^ 32
    let o := numBlock s p
    let mode := if bit d 0 then bit v 4 else o.seedMode
    let set := if bit d 1 then some (BitVec.ofNat 64 (cmdD c.raw 6 + cmdD c.raw 7 * 2 ^ 32)) else o.seedSet
    (fld v 6 58 ≠ 0 → exec (.numSet k) s = .next (complete k 0x03 [] s)) ∧
    (fld v 6 58 = 0 → exec (.numSet k) s = .next (complete k 0x00 [] (setNum p { o with
      nanTrap := if bit d 0 then bit v 0 else o.nanTrap, repeatMax := if bit d 0 then Fin.ofNat 8 (fld v 1 3) else o.repeatMax
      seedMode := mode, coreSentinel := if bit d 0 then bit v 5 else o.coreSentinel, seedSet := set
      underflowStep := if bit d 2 then BitVec.ofNat 64 (cmdD c.raw 8 + cmdD c.raw 9 * 2 ^ 32) else o.underflowStep
      seedBase := if mode then set.getD o.seedBase else o.seedBase } s)))) ∧
  (∀ (s : State) (k : CmdKey) (c : Cmd) (p : Fin 64) (r : PartRec), c.key = k → RunsIn s k 0x0A03 c p r →
    exec (.nanClear k) s = .next (complete k 0x00 [] (setNum p { numBlock s p with nan := { (numBlock s p).nan with valid := false } } s))) ∧
  (∀ (s : State) (k : CmdKey) (c : Cmd), c.key = k → Runs s k 0x0B02 c →
    let u := fenceTarget (cmdD c.raw 2)
    let goes (x : Cl) (t : State) : Prop := (isWellhead s x = false → exec (.fenceUnit k) s = .next (complete k 0x00 [] t)) ∧
      (isWellhead s x = true → exec (.fenceUnit k) s = .next (complete k 0x04 [] s))
    (u = none → exec (.fenceUnit k) s = .next (complete k 0x03 [] s)) ∧
    (∀ x i, u = some (.core x i) → goes x (fenceCore x i 2 s)) ∧ (∀ t, u = some (.tile t) → goes t.c (fenceTile t 2 s)) ∧
    (∀ x, u = some (.cluster x) → goes x (fenceCluster x 2 s)) ∧
    (∀ n, u = some (.stack n) → exec (.fenceUnit k) s = .next (complete k 0x00 [] (fenceStack n 2 s))) ∧
    (∀ w x l, u = some (.lane w x l) → exec (.fenceUnit k) s = .next (complete k 0x00 [] (laneFail w x l.val 2 2 s))) ∧
    (∀ p, u = some (.port p) → exec (.fenceUnit k) s = .next (complete k 0x00 [] (fencePort p 2 s))))

/-- Power and the ways into a bring-up. Power starts a cold bring-up of a module without power, where EPO_N is not
asserted and a feed is present, else changes nothing; the bring-up starts at the ROM with the memories empty, in
step 1 or stopped with no slot that passes. A trial that is at most in step 7 and does not wait for coolant fails
after 60 s, and the other slot boots cold; otherwise the event changes nothing. With no slot that passes, a recovery
image goes to slot A, which boots where it passes; otherwise the event changes nothing. A wipe, in its place, takes
45 s, empties the memories and commits its state; otherwise nothing changes (R391, R406, R439, R440, R448, R453).
The steps of a bring-up. Each passes its typical time and the next begins; in no step, and while step 3 waits for
coolant, nothing happens. Step 1 reads the slot; 2 turns a warm start without a usable repair map cold; 3 stops
where the input stage or all converters fail, else raises the rails, cold with ceiling 4 and THROTTLE 8, and its
coolant wait ends when the coolant is ready; 4 chooses the spring's input; 5 gives way to a pending wipe; 6 chooses
the wellheads; 7 confirms a trial, or fails one late; 8 empties the SRAM; 9 to 12 mark what failed dry; 13 publishes
route epoch 1; 14 takes the ageing plan; 15 writes the repair map and ends in READY (R391-R403, R448, R466). -/
def Obligations.BringUp : Prop :=
  ((∀ (s : State),
    let may : Prop := s.pwr.standby = false ∧ s.pwr.epo = false ∧ (s.pwr.feeds[0] = true ∨ s.pwr.feeds[1] = true)
    (may → exec .powerIn s = .next (startCold s)) ∧ (¬ may → exec .powerIn s = .next s)) ∧
  (∀ (s : State), let u := startCold s
    u.pwr.standby = true ∧ u.pwr.rails = false ∧ u.boot.ready = false ∧ u.boot.cold = true ∧ u.mem.sram = [] ∧ u.mem.stack = [] ∧
      u.part.parts = [] ∧ u.mem.host = s.mem.host ∧ (u.boot.step = 1 ∨ u.boot.step = 0x70)) ∧
  (∀ (s : State),
    let may : Prop := s.boot.trial = true ∧ 1 ≤ s.boot.step ∧ s.boot.step ≤ 7 ∧ s.boot.coolWait = none
    (may → exec .trialBootTimeout s = .next (startCold (rejectTrial (waitUntil s (s.boot.began + s.boot.waited + usec 60000000))))) ∧
    (¬ may → exec .trialBootTimeout s = .next s)) ∧
  (∀ (s : State), let u := rejectTrial s
    u.boot.slots[s.boot.select] = .rejected ∧ u.boot.select = otherSlot s.boot.select ∧ u.boot.trial = false) ∧
  (∀ (s : State) (img : List Byte),
    let b := s.boot
    let u : State := { s with boot := { b with
      flash := vset b.flash 0 (writeBytes [] 0 (img.take (2 ^ 28))), factory := vset b.factory 0 false
      slots := vset b.slots 0 .written, select := 0, trial := false } }
    (b.step = 0x70 → slotPasses u 0 = true → exec (.recoveryImage img) s = .next (startCold u)) ∧
    (b.step = 0x70 → slotPasses u 0 = false → exec (.recoveryImage img) s = .next u) ∧
    (b.step ≠ 0x70 → exec (.recoveryImage img) s = .next s)) ∧
  (∀ (s : State) (w : LcState × BitVec 384 × BitVec 32), s.boot.wipe = some w → s.boot.step = 0x20 →
    ∃ t, exec .lifecycleWipeDone s = .next t ∧ t.boot.lc = w.1 ∧ t.boot.count = s.boot.count + 1 ∧ t.boot.wipe = none ∧ t.mem.sram = [] ∧
      t.mem.stack = [] ∧ t.boot.step = 6 ∧ t.boot.log = [] ∧ t.fab.record = [] ∧ t.t.now = s.t.now + usec 45000000 ∧
      t.boot.scope = (if w.1 = .debug then w.2.2 else 0) ∧
      (w.1 = .provisioned → t.boot.owner = w.2.1) ∧ (w.1 = .returned → t.boot.owner = 0) ∧
      (w.1 ≠ .provisioned → w.1 ≠ .returned → t.boot.owner = s.boot.owner)) ∧
  (∀ (s : State), s.boot.wipe = none ∨ s.boot.step ≠ 0x20 → exec .lifecycleWipeDone s = .next s)) ∧
  ((∀ (s : State) (r : StepResult),
    let may : Prop := 1 ≤ s.boot.step ∧ s.boot.step ≤ 15 ∧ s.boot.coolWait = none
    (may → exec (.bringupStepDone r) s = .next (endStep r (waitUntil s (s.t.now + usec (1000 * stepMs s s.boot.step))))) ∧
    (¬ may → exec (.bringupStepDone r) s = .next s)) ∧
  (∀ (s : State) (n : Nat), (enterStep n s).boot.step = n ∧
    (enterStep n s).boot.coolWait = (if n = 3 ∧ coolantReady s = false then some s.t.now else none) ∧
    (coolantReady s = true ↔ s.pwr.coolIn ≤ 800 ∧ 500 ≤ s.pwr.flow ∧ s.pwr.wet = false)) ∧
  (∀ (s : State),
    (s.boot.coolWait = none ∨ coolantReady s = false → exec .bringupCoolantReady s = .next s) ∧
    (∀ n, s.boot.coolWait = some n → coolantReady s = true → exec .bringupCoolantReady s =
      .next { s with boot := { s.boot with coolWait := none, waited := s.boot.waited + (s.t.now - n) } })) ∧
  (∀ (s : State) (r : StepResult),
    (s.boot.step = 1 → endStep r s = enterStep 2 { s with pwr := { s.pwr with slotId := Fin.ofNat 16 (Config.slotStraps s.t.now).toNat } }) ∧
    (s.boot.step = 2 → s.boot.cold = false →
      let m := s.boot.repair
      let good : Prop := m.valid = true ∧ m.version = slotVersion s s.boot.slot ∧ s.boot.wipe = none
      (good → endStep r s = enterStep 3 s) ∧ (¬ good → endStep r s = turnCold s)) ∧
    (s.boot.step = 2 → s.boot.cold = true → endStep r s =
      enterStep 3 { s with mem := { s.mem with clErr := [], stErr := [] }, net := { s.net with counters := [] } }) ∧
    (s.boot.step = 3 → s.boot.coolWait = none →
      let bad : Prop := r.ok = false ∨ r.converterFail.eraseDups.length = 4
      (bad → endStep r s = stopAt 0x71 s) ∧
      (¬ bad → (endStep r s).pwr.rails = true ∧ (endStep r s).boot.step = 4 ∧
        (s.boot.cold = true → (endStep r s).pwr.ceiling = 4 ∧ (endStep r s).pwr.throttle = 8) ∧
        (s.boot.cold = false → (endStep r s).pwr.ceiling = s.pwr.ceiling ∧ (endStep r s).pwr.throttle = s.pwr.throttle))) ∧
    (s.boot.step = 7 →
      let late : Prop := s.boot.trial = true ∧ usec 60000000 < trialTime s
      (late → endStep r s = failTrial s) ∧
      (¬ late → (endStep r s).boot.step = 8 ∧ (endStep r s).boot.trial = false ∧
        (s.boot.trial = true → (endStep r s).boot.slots[s.boot.slot] = .active ∧ (endStep r s).boot.select = s.boot.slot))) ∧
    (s.boot.step = 8 → endStep r s = enterStep 9 (bootClusters r { s with mem := { s.mem with sram := [], sramErr := [] } })) ∧
    (s.boot.step = 9 → endStep r s = enterStep 10 (r.laneFail.foldl bootSpare (r.laneFail.foldl bootLane s))) ∧
    (s.boot.step = 11 → endStep r s = enterStep 12 (r.dryPage.foldl bootPage s)) ∧
    (s.boot.step = 13 → (endStep r s).net.routeEpoch = 1 ∧ (endStep r s).boot.step = 14) ∧
    (s.boot.step = 15 → (endStep r s).boot.ready = true ∧ (endStep r s).boot.step = 16 ∧ (endStep r s).pwr.readyOut = true ∧
      (endStep r s).boot.repair.valid = true ∧ (endStep r s).boot.repair.version = slotVersion s s.boot.slot ∧
      (endStep r s).boot.repair.dry = s.net.published ∧ (endStep r s).mem.freeKey = Config.free s.freeCount)) ∧
  (∀ (s : State) (r : StepResult), s.boot.step = 5 → s.boot.wipe.isSome = true → (endStep r s).boot.step = 0x20) ∧
  (∀ (s : State) (r : StepResult), s.boot.step = 5 → s.boot.wipe = none → (endStep r s).boot.step = 6) ∧
  (∀ (s : State) (r : StepResult), s.boot.step = 6 → s.boot.cold = false → r.wellheadFail ≠ [] → endStep r s = turnCold s) ∧
  (∀ (s : State) (r : StepResult), (s.boot.step = 10 → s.boot.cold = true → (endStep r s).boot.step = 11) ∧
    (s.boot.step = 10 → s.boot.cold = false → (endStep r s).boot.step = 12) ∧ (s.boot.step = 12 → (endStep r s).boot.step = 13) ∧
    (s.boot.step = 14 → (endStep r s).boot.step = 15)) ∧
  (∀ (s : State), stepMs s 1 = (if s.boot.cold then 2000 else 0) ∧ stepMs s 6 = (if s.boot.cold then 15000 else 1000) ∧
    (s.boot.cold = true → s.t.coast = false → stepMs s 11 = (if s.boot.variant = 1 then 120000 else 220000)) ∧ stepMs s 15 = 500))

/-! ### Ocsal and security -/

/-- Flits and lanes. A flit at a port that is not UP changes nothing. Otherwise it is counted; one in sequence with
FEC and tag good is taken, and its ACK, its credits and its NAK act; any other is dropped with a NAK, the sequence
as it was, and a tag failure counts for the retrain limit. A lane that fails in service leaves it; the first of a
port with a whole spare makes it start, which takes 20 µs; a change of width is posted. Otherwise a lane's failure,
and a spare that is not due, change nothing (R409-R411). A port trains and is secured. A port in TRAINING whose pair
is open is SECURING with its peer's identity 30 ms after it began; one without a peer goes on training after 1 s,
and posts LINK_DOWN the first time. A peer that is accepted 100 ms later makes the port UP with sequence, credits
and keys afresh, posts LINK_UP, and a worker's first sends its JOIN; one that is not fails the port with AUTH_FAIL.
A port in another state changes nothing. A port that fails is FAILED with its status (R413, R431, R443). A port
retrains, changes key and its bypass. An UP port with more than 16 tag failures in 1 ms or fewer than four lanes
goes to RETRAINING; 200 µs later it is UP again, resends what its peer has not taken and has a new key, or fails. An
UP port after 2^40 flits has a new key, and its session too. The pair of a port ends its change after 10 ms; a port
in service whose neighbour changed posts LINK_DOWN and trains anew. In any other case the command changes nothing
(R409, R412, R414, R417, R443). -/
def Obligations.OcsalPortLife : Prop :=
  ((∀ (s : State) (p : Fin 16) (f : Flit) (taken : Bool), let r := portRec s p
    portRec (flitCounts p f taken s) p = { r with
      received := r.received + BitVec.ofNat 64 (b2n taken), fec := r.fec + BitVec.ofNat 64 (if f.fecOk then f.corrected else 0)
      tags := r.tags + BitVec.ofNat 64 (b2n (f.fecOk && !f.tagOk)) } ∧
    (∀ q, q ≠ p → portRec (flitCounts p f taken s) q = portRec s q) ∧ (flitCounts p f taken s).fab.transit = s.fab.transit) ∧
  (∀ (s : State) (p : Fin 16) (f : Flit),
    let r := portRec s p
    let ok : Prop := f.fecOk = true ∧ f.tagOk = true ∧ f.seq = BitVec.ofNat 24 r.rxSeq
    (r.state ≠ .up → exec (.flitReceive p f) s = .next s) ∧
    (r.state = .up → ok →
      let u := flitCounts p f true s
      let c := if f.creditVc.val < 5 then vset r.credits f.creditVc (r.credits[f.creditVc] + f.creditCount.toNat) else r.credits
      let v := setPort p { portRec u p with rxSeq := r.rxSeq + 1, acked := ackedBy r f.ack, credits := c } u
      (f.nak = false → exec (.flitReceive p f) s = .next (drainTransit v)) ∧
      (f.nak = true → exec (.flitReceive p f) s = .next (drainTransit (resend p v)))) ∧
    (r.state = .up → ¬ ok →
      let u := flitCounts p f false s
      let times := if f.fecOk = true ∧ f.tagOk = false then (r.tagTimes.filter fun n => decide (s.t.now < n + usec 1000)) ++ [s.t.now] else r.tagTimes
      exec (.flitReceive p f) s = .next (setPort p { portRec u p with tagTimes := times }
        { u with out := u.out ++ [.nak p (BitVec.ofNat 24 (r.rxSeq + 2 ^ 24 - 1))] }))) ∧
  (∀ (s : State) (p : Fin 16), s.fab.transit = [] → drainTransit s = s ∧
    ((portRec s p).txSeq ≤ (portRec s p).acked → resend p s = s)) ∧
  (∀ (s : State) (p : Fin 16) (l : Fin 9) (rate : Bool),
    let r := portRec s p
    let may : Prop := r.state.lanesOn = true ∧ l ∉ r.bad
    let spare : Prop := l.val ≠ 8 ∧ (8 : Fin 9) ∉ r.bad ∧ r.spareFor = none
    (¬ may → exec (.ocsalLaneFail p l rate) s = .next s) ∧
    (may →
      ∃ a b, (l.val = 8 → a = none ∧ b = none) ∧ (spare → a = some l ∧ b = some (s.t.now + usec 20)) ∧
        (l.val ≠ 8 → ¬ spare → a = r.spareFor ∧ b = r.spareAt) ∧
        let q : PortRec := { r with bad := r.bad ++ [l], spare := r.spare && l.val != 8, spareFor := a, spareAt := b }
        (portLanes q = portLanes r → exec (.ocsalLaneFail p l rate) s = .next (setPort p q s)) ∧
        (portLanes q ≠ portLanes r → exec (.ocsalLaneFail p l rate) s =
          .next (portEvent .linkDown p (if rate then 1 else 0) (portLanes q) (setPort p q s))))) ∧
  (∀ (s : State) (p : Fin 16), let r := portRec s p
    (r.spareAt = none → exec (.ocsalSpareReady p) s = .next s) ∧
    (∀ n, r.spareAt = some n →
      let q : PortRec := { r with spare := true, spareAt := none }
      exec (.ocsalSpareReady p) s = .next (portEvent .linkUp p 4 (portLanes q) (setPort p q (waitUntil s n)))))) ∧
  ((∀ (s : State) (p : Fin 16) (q : PeerId), let r := portRec s p
    let may : Prop := r.state = .training ∧ pairOpen s p = true
    (¬ may → exec (.portTrained p q) s = .next s) ∧
    (may → exec (.portTrained p q) s = .next (setPort p { r with
      state := .securing, peer := q.mod, peerPort := q.port, rev1 := q.rev1, peerSerial := q.serial, peerRole := q.role }
      (waitUntil s (r.since + usec 30000))))) ∧
  (∀ (s : State) (p : Fin 16), let r := portRec s p
    let u := waitUntil s (r.since + usec 1000000)
    let v := setPort p { r with since := u.t.now, noPeerPosted := true } u
    (r.state ≠ .training → exec (.portTrainRetry p) s = .next s) ∧
    (r.state = .training → r.noPeerPosted = true → exec (.portTrainRetry p) s = .next v) ∧
    (r.state = .training → r.noPeerPosted = false → exec (.portTrainRetry p) s = .next (portEvent .linkDown p 3 0 v))) ∧
  (∀ (s : State) (p : Fin 16) (a : PeerAuth), let r := portRec s p
    let u := waitUntil s (s.t.now + usec 100000)
    let v := setConn (.ocsal p) { version := true, caps := true, algs := true, open_ := [(0, 0)] } (setPort p { r with
      state := .up, txSeq := 0, rxSeq := 0, acked := 0, sinceKey := 0, phase := false, keys := 0, credits := Vector.replicate 8 2048
      tagTimes := [], retrainTimes := [] } u)
    let w := portEvent .linkUp p 2 (portLanes r) v
    let joins : Prop := (∀ q, (portRec s q).state ≠ .up) ∧ (s.fab.role = .worker ∨ s.fab.role = .standby)
    (r.state ≠ .securing → exec (.portSecured p a) s = .next s) ∧
    (r.state = .securing → peerAccepted s a = false → exec (.portSecured p a) s = .next (portFail p 3 0x08 u)) ∧
    (r.state = .securing → peerAccepted s a = true → joins → exec (.portSecured p a) s = .next (sendJoin w)) ∧
    (r.state = .securing → peerAccepted s a = true → ¬ joins → exec (.portSecured p a) s = .next w)) ∧
  (∀ (s : State) (a : PeerAuth), peerAccepted s a = true ↔
    a.chainOk = true ∧ (s.boot.lc = .deployed → a.lcState = 2 ∧ a.ownerHash = s.boot.owner)) ∧
  (∀ (s : State) (p : Fin 16) (n : Nat) (st : Byte), (portRec (portFail p n st s) p).state = .failed ∧
    (portRec (portFail p n st s) p).lastStatus = st)) ∧
  ((∀ (s : State) (p : Fin 16), let r := portRec s p
    let due : Prop := r.state = .up ∧ (16 < (r.tagTimes.filter fun n => decide (s.t.now < n + usec 1000)).length ∨ portLanes r < 4)
    (due → exec (.portRetrain p) s = .next (toRetrain p s)) ∧ (¬ due → exec (.portRetrain p) s = .next s)) ∧
  (∀ (s : State) (p : Fin 16) (lock : Bool) (ack : BitVec 24), let r := portRec s p
    let u := waitUntil s (s.t.now + usec 200)
    (r.state ≠ .retraining → ∀ ok, exec (.portRetrainDone p ok lock ack) s = .next s) ∧
    (r.state = .retraining → exec (.portRetrainDone p false lock ack) s = .next (portFail p (if lock then 0 else 1) 0x09 u)) ∧
    (r.state = .retraining → exec (.portRetrainDone p true lock ack) s =
      .next (nextKey p (resend p (setPort p { r with state := .up, acked := ackedBy r ack, tagTimes := [] } u))))) ∧
  (∀ (s : State) (p : Fin 16), let r := portRec s p
    portRec (nextKey p s) p = { r with phase := !r.phase, keys := r.keys + 1, sinceKey := 0 }) ∧
  (∀ (s : State) (p : Fin 16), let r := portRec s p
    let due : Prop := r.state = .up ∧ 2 ^ 40 ≤ r.sinceKey
    (due → exec (.keyUpdate p) s = .next (setConn (.ocsal p) (updateKeys (fun _ => true) (connOf s (.ocsal p))) (nextKey p s))) ∧
    (¬ due → exec (.keyUpdate p) s = .next s)) ∧
  (∀ (s : State) (p : Fin 16) (own : Bool), pairOf p = none → exec (.bypassChange p own) s = .next s) ∧
  (∀ (s : State) (p : Fin 16) (k : Fin 4), pairOf p = some k →
    (s.fab.changing[k] = none → exec (.bypassChange p true) s = .next s) ∧
    (∀ close, s.fab.changing[k] = some close → exec (.bypassChange p true) s =
      .next { waitUntil s (s.t.now + usec 10000) with fab := { s.fab with
        closed := vset s.fab.closed k close, changing := vset s.fab.changing k none } }) ∧
    ((portRec s p).state.lanesOn = false → exec (.bypassChange p false) s = .next s) ∧
    ((portRec s p).state.lanesOn = true → exec (.bypassChange p false) s = .next (beginTraining p (portEvent .linkDown p 3 0 s)))))

/-- Packets at a port. A port that is not UP takes none. A reserved KIND, eight hops, an unassigned source, or a
request of a reserved TYPE is dropped and counted. One for another module goes on, once, from a ring port to a port
of that module, else is dropped. A request to this module is answered at once with BAD_PARAM, NOT_PERMITTED or
HW_FAULT, or enters the mesh for the partition that the sender's is bound to; a reply ends its request, a PENDING
only restarts its timer, and one that no request waits for does nothing (R23, R239, R260, R419, R422-R425, R427).
The chassis. A manager sends its HEARTBEAT after 100 µs; another module sends none. A worker takes what it hears, a
new manager ends incomplete hall barriers; a manager gives way to one that goes before it, and takes up its number
anew. 10 ms without one makes the standby poll and, with a majority, serve, its record and ORIGIN as replicated,
which the model leaves free (DESIGN CHOICE); without a standby, workers end their hall barriers. A module asked
answers what it saw, and a confirmation counts once. JOIN records a number, once for a serial, and answers ASSIGN,
which a joining worker takes (R420, R421, R430, R431, R434, R435). Hall barriers. A release that reaches the module
goes down its own tree where the barrier is a hall barrier at that generation, and changes nothing otherwise. At the
manager an arrival of a member is recorded, of its own once its tree is complete; when every member that can be
reached has arrived they are all released, at the tide plus the lead, the largest delay to one and 1 µs. Another
module records none. Releases with a fault drop what is under way (R433-R435). -/
def Obligations.OcsalPacketsAndChassis : Prop :=
  ((∀ (s : State) (p : Fin 16) (k : OcsalPkt),
    let ok : Prop := (portRec s p).state = .up ∧ k.kind ≠ 3 ∧ k.hops.toNat < 8
    let here : Prop := ok ∧ some k.dest = s.fab.num ∧ moduleAssigned s k.src = true
    let on : Prop := k.transit = false ∧ p.val < 8 ∧ (directPort s k.dest).isSome = true
    let t (u : State) : Prop := exec (.ocsalPacketArrive p k) s = .next u
    ((portRec s p).state ≠ .up → t s) ∧ ((portRec s p).state = .up → k.kind = 3 ∨ 8 ≤ k.hops.toNat → t (dropOcsal p s)) ∧
    (ok → some k.dest ≠ s.fab.num → on → t (drainTransit { s with fab := { s.fab with transit := s.fab.transit ++ [{ k with transit := true }] } })) ∧
    (ok → some k.dest ≠ s.fab.num → ¬ on → t (dropOcsal p s)) ∧
    (ok → some k.dest = s.fab.num → moduleAssigned s k.src = false → t (dropOcsal p s)) ∧
    (here → k.kind = 0 → (∀ q, pktKind k = some q → t (remoteIn p k q s)) ∧ (pktKind k = none → t (dropOcsal p s))) ∧
    (here → k.kind = 1 → t (remoteReply k s)) ∧ (here → k.kind = 2 → t s)) ∧
  (∀ (s : State) (p : Fin 16), (portRec (dropOcsal p s) p).dropped = (portRec s p).dropped + 1 ∧
    ∀ q, q ≠ p → portRec (dropOcsal p s) q = portRec s q) ∧
  (∀ (s : State) (p : Fin 16) (k : OcsalPkt) (q : ReqKind),
    let own := hallPart s k.src k.part
    let tag := k.portTag.toNat + 4096 * k.srcPort.val
    let data := match q with | .object _ => [0, 0, 0, 0] | _ => []
    let form : Prop := layoutOk k.addr = true ∧ reservedObject q = false
    let refused (st : Byte) : Prop := ∃ x, remoteIn p k q s = replyOut x k.src k.part p tag st data s
    (¬ form → refused 0x03) ∧ (form → remoteOk q k.addr = false ∨ own = none → refused 0x04) ∧
    (form → remoteOk q k.addr = true → own.isSome = true → entryRouter s p k.addr = none → refused 0x09) ∧
    (∀ w src, form → remoteOk q k.addr = true → own = some w → entryRouter s p k.addr = some src → ∃ x u, remoteIn p k q s = inject x u ∧
      x.who = .remote k.src k.part p tag ∧ x.part = some w ∧ x.kind = q ∧ x.addr = k.addr ∧ x.data = k.payload ∧ x.src = src ∧
      x.out = false ∧ u.net.xacts = s.net.xacts ++ [x])) ∧
  (∀ (s : State) (k : OcsalPkt),
    let r := portRec s k.srcPort
    (r.table.get none k.portTag.toNat = none → remoteReply k s = s) ∧
    (∀ id, r.table.get none k.portTag.toNat = some id →
      let u := setPort k.srcPort { r with table := r.table.set none k.portTag.toNat none } s
      (k.type = 0xD → xactOf s id = none → remoteReply k s = s) ∧
      (k.type = 0xD → ∀ x, xactOf s id = some x → remoteReply k s = setXact { x with timer := x.timer.map fun _ => s.t.now } s) ∧
      (k.type ≠ 0xD → xactOf s id = none → remoteReply k s = u) ∧
      (k.type ≠ 0xD → ∀ x, xactOf s id = some x → remoteReply k s = answer x k.status k.payload u)))) ∧
  ((∀ (s : State), (s.fab.role = .manager → exec (.heartbeat none) s = .next (sendHeartbeat (waitUntil s (s.t.now + usec 100)))) ∧
    (s.fab.role ≠ .manager → exec (.heartbeat none) s = .next s)) ∧
  (∀ (s : State) (h : Heartbeat), isWorker s = true →
    let demoted : Prop := s.fab.role = .standby ∧ h.standby ≠ 0xFF ∧ some h.standby ≠ s.fab.num ∧ s.fab.num.isSome = true
    let u : State := { s with fab := { s.fab with heardAt := s.t.now, manager := h.manager, standby := h.standby, mask := h.mask, epoch := h.tableEpoch, poll := none, role := if demoted then .worker else s.fab.role } }
    let old := s.fab.manager
    (old = 0xFF ∨ old = h.manager → exec (.heartbeat (some h)) s = .next u) ∧
    (old ≠ 0xFF → old ≠ h.manager → exec (.heartbeat (some h)) s = .next (managerEvent old h.manager (releaseHall u)))) ∧
  (∀ (s : State) (h : Heartbeat), isWorker s = false →
    let way : Prop := s.fab.role = .manager ∧ givesWay s h = true
    (¬ way → exec (.heartbeat (some h)) s = .next s) ∧
    (way → let r : Role := if h.standby = 0xFF then .standby else .worker
      exec (.heartbeat (some h)) s = .next (sendJoin (managerEvent s.fab.manager h.manager { s with fab := { s.fab with role := r, num := none, manager := h.manager, standby := h.standby, mask := h.mask, epoch := h.tableEpoch, heardAt := s.t.now, hall := [] } })))) ∧
  (∀ (s : State),
    let may : Prop := isWorker s = true ∧ s.fab.num.isSome = true ∧ s.fab.manager ≠ 0xFF
    let u := waitUntil s (if s.fab.poll.isSome then s.t.now + usec 10000 else s.fab.heardAt + usec 10000)
    let seen := (moduleTide u).toNat - 8 * (u.t.now - s.fab.heardAt)
    (¬ may → exec .heartbeatLoss s = .next s) ∧
    (may → s.fab.role = .standby → exec .heartbeatLoss s = .next (tryTakeover
      ((others u).foldl (fun s m => controlOut m 0x5 (leBytes 8 seen) s) { u with fab := { u.fab with poll := some [] } }))) ∧
    (may → s.fab.role ≠ .standby → s.fab.standby = 0xFF → exec .heartbeatLoss s = .next (releaseHall u)) ∧
    (may → s.fab.role ≠ .standby → s.fab.standby ≠ 0xFF → exec .heartbeatLoss s = .next u)) ∧
  (∀ (s : State), s.fab.poll = none ∨ s.fab.num = none → tryTakeover s = s) ∧
  (∀ (s : State) (n : BitVec 8) (l : List (BitVec 8)), s.fab.num = some n → s.fab.poll = some l →
    let voters := (others s).filter fun m => m ≠ s.fab.manager
    let yes := 1 + (l.filter voters.contains).length
    (2 * yes ≤ voters.length + 1 → tryTakeover s = s) ∧
    (voters.length + 1 < 2 * yes → let t := tryTakeover s
      t.fab.role = .manager ∧ t.fab.manager = n ∧ t.fab.poll = none ∧ t.fab.standby = 0xFF ∧ t.fab.hall = [] ∧
        (∀ e ∈ t.fab.record, e = (s.boot.serial, n) ∨ (e.1 ≠ s.boot.serial ∧ s.fab.mask.getLsbD e.2.toNat = true)))) ∧
  (∀ (s : State) (m : BitVec 8) (v : Word),
    let seen := (moduleTide s).toNat - 8 * (s.t.now - s.fab.heardAt)
    (isWorker s = true ∧ s.fab.num.isSome = true → exec (.poll m v) s =
      .next (controlOut m 0x5 (leBytes 8 seen ++ leBytes 1 (b2n (decide (s.fab.heardAt + usec 5000 ≤ s.t.now)))) s)) ∧
    (isWorker s = false ∨ s.fab.num = none → exec (.poll m v) s = .next s)) ∧
  (∀ (s : State) (m : BitVec 8) (yes : Bool),
    (∀ l, s.fab.poll = some l → s.fab.role = .standby → yes = true → m ∉ l →
      exec (.pollRsp m yes) s = .next (tryTakeover { s with fab := { s.fab with poll := some (l ++ [m]) } })) ∧
    ((s.fab.poll = none ∨ s.fab.role ≠ .standby ∨ yes = false ∨ ∃ l, s.fab.poll = some l ∧ m ∈ l) → exec (.pollRsp m yes) s = .next s)) ∧
  (∀ (s : State) (p : Fin 16) (serial : BitVec 128) (role : BitVec 2),
    let may : Prop := s.fab.role = .manager ∧ (portRec s p).state = .up
    (¬ may ∨ numberFor s serial = none → exec (.join p serial role) s = .next s) ∧
    (∀ n, may → numberFor s serial = some n → ∃ t, exec (.join p serial role) s = .next t ∧
      (serial, n) ∈ t.fab.record ∧ ((s.fab.record.any fun e => e.1 == serial) = true → t.fab.record = s.fab.record) ∧
      t.fab.epoch = s.fab.epoch + 1 ∧ t.fab.mask = s.fab.mask ||| ((1 : BitVec 256) <<< n.toNat) ∧
      t.fab.standby = (if role = 3 ∧ s.fab.standby = 0xFF then n else s.fab.standby) ∧
      t.out = s.out ++ [.control p n 0x4 (leBytes 1 n.toNat ++ leBytes 1 s.fab.manager.toNat)] ∧ t = { s with fab := t.fab, out := t.out })) ∧
  (∀ (s : State) (n m : BitVec 8),
    let may : Prop := isWorker s = true ∧ s.fab.joining = true ∧ n ≠ 0xFF
    (¬ may → exec (.assign n m) s = .next s) ∧
    (may → exec (.assign n m) s = .next (managerEvent 0xFF m { s with fab := { s.fab with
      num := some n, manager := m, joining := false, heardAt := s.t.now, tideAt := s.t.now, record := [(s.boot.serial, n)] } })))) ∧
  ((∀ (s : State) (p : Fin 64) (b : Fin 32) (gen : BitVec 16) (st : BitVec 8) (l : BitVec 32),
    exec (.hallBarrierRelease p b gen st l) s = .next (hallDeliver p b gen st (launchAt (moduleTide s) l 0) s)) ∧
  (∀ (s : State) (p : Fin 64) (b : Fin 32) (gen : BitVec 16) (st : Byte) (l : Word),
    (rootOf s p b.val = none → hallDeliver p b gen st l s = s) ∧
    (∀ r, rootOf s p b.val = some r → (r.hall = false ∨ gen ≠ r.generation → hallDeliver p b gen st l s = s) ∧
      (r.hall = true → gen = r.generation → hallDeliver p b gen st l s =
        sendReleases p b r.members gen st l (setRoot p b.val (some { r with generation := r.generation + 1, got := [] }) s)))) ∧
  (∀ (s : State) (m : BitVec 8) (p : Fin 64) (b : Fin 32) (gen : BitVec 16),
    let tree : Prop := ∃ r, rootOf s p b.val = some r ∧ r.hall = true ∧ r.generation = gen ∧ ∀ x ∈ r.members, x ∈ r.got
    let may : Prop := s.fab.role = .manager ∧ (some m = s.fab.num → tree)
    let got := ((s.fab.hall.get [] b.val).filter fun e => !(e.1 == m && e.2.1 == p)) ++ [(m, p, gen)]
    let ms := (hallMembers s m p b).filter fun e => memberThere s e.1
    let all : Prop := ∀ e ∈ ms, ∃ g ∈ got, g.1 = e.1 ∧ g.2.1 = e.2
    let mine (g : BitVec 8 × Fin 64 × BitVec 16) : Bool := ms.any fun e => e.1 == g.1 && e.2 == g.2.1
    let delay := (ms.map fun e => ((controlPort s e.1).elim 0 fun q => linkDelay (portRec s q))).foldl max 0
    let l := moduleTide s + BitVec.ofNat 64 (16 * (hallLead s ms m p b + delay + 1000))
    (¬ may → exec (.hallBarrierArrive m p b gen) s = .next s) ∧
    (may → ¬ all → exec (.hallBarrierArrive m p b gen) s = .next { s with fab := { s.fab with hall := s.fab.hall.set [] b.val got } }) ∧
    (may → all → exec (.hallBarrierArrive m p b gen) s = .next ((got.filter mine).foldl (hallRelease b 0x00 l)
      { s with fab := { s.fab with hall := s.fab.hall.set [] b.val (got.filter fun g => !mine g) } }))) ∧
  (∀ (s : State) (b : Fin 32) (st : Byte) (l : Word) (m : BitVec 8) (p : Fin 64) (gen : BitVec 16),
    (some m = s.fab.num → hallRelease b st l s (m, p, gen) = hallDeliver p b gen st l s) ∧
    (some m ≠ s.fab.num → hallRelease b st l s (m, p, gen) = controlOut m 0x6 (leBytes 1 p.val ++ leBytes 1 b.val ++ leBytes 2 gen.toNat ++
      leBytes 1 m.toNat ++ leBytes 1 st.toNat ++ leBytes 4 (l.setWidth 32).toNat) s)))

/-- SPDM requests of a connection. A peer that Atbin does not hear gets no answer. GET_VERSION answers 1.3 and
starts the connection afresh; GET_CAPABILITIES before it, NEGOTIATE_ALGORITHMS before capabilities, and any later
request before algorithms are errors, as is a suite not offered. Digests, the certificate, within 64 KiB, and a
signed challenge are of slot 0 alone; a measurement that does not exist is an error, 0 asks for their number and
0xFF for all. Codes are those of SPDM (R442, R444). SPDM sessions. A peer that Atbin does not hear gets no answer,
and before algorithms are agreed an error. A key exchange of another slot than 0, beyond the session limit, or of a
session in use is an error; otherwise a handshake begins with a fresh share, a free value (DESIGN CHOICE), signed.
FINISH without a handshake is an error; with a good proof it opens the session, with a bad one ends it. HEARTBEAT,
KEY_UPDATE, END_SESSION and IDE keys need an open session: they answer, change its keys alone, end it, and set the
link's key of the kind named (R348, R442). -/
def Obligations.SpdmConversation : Prop :=
  ((∀ (s : State) (p : SpdmPeer) (o : Bool) (k : Fin 8) (off len : Nat) (n : BitVec 256) (i : Byte), spdmHears s p = false →
    ∀ c, c = .spdmGetVersion p ∨ c = .spdmGetCapabilities p ∨ c = .spdmNegotiateAlgorithms p o ∨ c = .spdmGetDigests p k ∨
      c = .spdmGetCertificate p k off len ∨ c = .spdmChallenge p k n ∨ c = .spdmGetMeasurements p i → exec c s = .next s) ∧
  (∀ (s : State) (p : SpdmPeer), spdmHears s p = true →
    exec (.spdmGetVersion p) s = .next (spdmOut p 0x04 [0x13] (setConn p { version := true } s)) ∧
    ((connOf s p).version = false → exec (.spdmGetCapabilities p) s = .next (spdmError p 0x04 s)) ∧
    ((connOf s p).version = true →
      exec (.spdmGetCapabilities p) s = .next (spdmOut p 0x61 [] (setConn p { connOf s p with caps := true } s))) ∧
    ((connOf s p).caps = false → ∀ o, exec (.spdmNegotiateAlgorithms p o) s = .next (spdmError p 0x04 s)) ∧
    ((connOf s p).caps = true → exec (.spdmNegotiateAlgorithms p false) s = .next (spdmError p 0x01 s) ∧
      exec (.spdmNegotiateAlgorithms p true) s = .next (spdmOut p 0x63 [] (setConn p { connOf s p with algs := true } s)))) ∧
  (∀ (s : State) (p : SpdmPeer) (k : Fin 8) (off len : Nat) (n : BitVec 256) (i : Byte), spdmHears s p = true → (connOf s p).algs = false →
    ∀ c, c = .spdmGetDigests p k ∨ c = .spdmGetCertificate p k off len ∨ c = .spdmChallenge p k n ∨ c = .spdmGetMeasurements p i →
      exec c s = .next (spdmError p 0x04 s)) ∧
  (∀ (s : State) (p : SpdmPeer) (k : Fin 8) (off len : Nat) (n : BitVec 256), spdmHears s p = true → (connOf s p).algs = true → k ≠ 0 →
    ∀ c, c = .spdmGetDigests p k ∨ c = .spdmGetCertificate p k off len ∨ c = .spdmChallenge p k n → exec c s = .next (spdmError p 0x01 s)) ∧
  (∀ (s : State) (p : SpdmPeer), spdmHears s p = true → (connOf s p).algs = true →
    exec (.spdmGetDigests p 0) s = .next (spdmOut p 0x01 (leBytes 48 (Config.sha384 (certChain s)).toNat) s) ∧
    (∀ off len, off + len ≤ 65536 → exec (.spdmGetCertificate p 0 off len) s = .next (spdmOut p 0x02 (((certChain s).drop off).take len) s)) ∧
    (∀ off len, 65536 < off + len → exec (.spdmGetCertificate p 0 off len) s = .next (spdmError p 0x01 s)) ∧
    (∀ n, exec (.spdmChallenge p 0 n) s =
      .next (spdmOut p 0x03 (signed s (leBytes 48 (Config.sha384 (certChain s)).toNat ++ leBytes 32 n.toNat)) s)) ∧
    exec (.spdmGetMeasurements p 0) s = .next (spdmOut p 0x60 [4] s) ∧
    exec (.spdmGetMeasurements p 0xFF) s = .next (spdmOut p 0x60 (measurements s) s) ∧
    (∀ i d, i ≠ 0 → i ≠ 0xFF → measurement s i.toNat = some d → exec (.spdmGetMeasurements p i) s = .next (spdmOut p 0x60 d s)) ∧
    (∀ i, i ≠ 0 → i ≠ 0xFF → measurement s i.toNat = none → exec (.spdmGetMeasurements p i) s = .next (spdmError p 0x01 s))) ∧
  (∀ (s : State) (i : Nat), measurement s i = none ↔ i = 0 ∨ 4 < i)) ∧
  ((∀ (s : State) (p : SpdmPeer) (k : Fin 8) (id : BitVec 32) (share : BitVec 768) (ok : Bool) (port : Fin 2) (m : Bool) (st : Fin 5) (key : BitVec 256),
    ∀ c q, (q = p ∧ (c = .spdmKeyExchange p k id share ∨ c = .spdmFinish p id ok ∨ c = .spdmHeartbeat p id ∨ c = .spdmKeyUpdate p id ∨
      c = .spdmEndSession p id)) ∨ (q = .doe port ∧ c = .ideKeyManagement port id m st key) →
    (spdmHears s q = false → exec c s = .next s) ∧ (spdmHears s q = true → (connOf s q).algs = false → exec c s = .next (spdmError q 0x04 s))) ∧
  (∀ (s : State) (p : SpdmPeer) (id : BitVec 32) (share : BitVec 768), spdmHears s p = true → (connOf s p).algs = true →
    let r := connOf s p
    let held := r.hand.length + r.open_.length
    let used : Prop := id ∈ r.hand ∨ ∃ n, (id, n) ∈ r.open_
    let own := (Config.publicKey ((Config.freeWide s.freeCount).setWidth 384)).toNat
    let d := leBytes 4 id.toNat ++ beBytes 96 own
    (∀ k, k ≠ 0 → exec (.spdmKeyExchange p k id share) s = .next (spdmError p 0x01 s)) ∧
    (sessionLimit p ≤ held → exec (.spdmKeyExchange p 0 id share) s = .next (spdmError p 0x0A s)) ∧
    (held < sessionLimit p → used → exec (.spdmKeyExchange p 0 id share) s = .next (spdmError p 0x01 s)) ∧
    (held < sessionLimit p → ¬ used → exec (.spdmKeyExchange p 0 id share) s = .next (spdmOut p 0x64
      (d ++ beBytes 96 (Config.sign (aliasKey s) (beBytes 96 share.toNat ++ d)).toNat)
      (setConn p { r with hand := r.hand ++ [id] } { s with freeCount := s.freeCount + 1 }))) ∧
    (id ∉ r.hand → ∀ ok, exec (.spdmFinish p id ok) s = .next (spdmError p 0x02 s)) ∧
    (id ∈ r.hand → exec (.spdmFinish p id true) s = .next (spdmOut p 0x65 []
        (setConn p { r with hand := r.hand.filter fun e => e != id, open_ := r.open_ ++ [(id, 0)] } s)) ∧
      exec (.spdmFinish p id false) s = .next (spdmError p 0x06 (setConn p { r with hand := r.hand.filter fun e => e != id } s)))) ∧
  (∀ p : Fin 2, sessionLimit (.doe p) = 4) ∧ (∀ p : Fin 16, sessionLimit (.ocsal p) = 1) ∧
  (∀ (s : State) (p : SpdmPeer) (id : BitVec 32), spdmHears s p = true → (connOf s p).algs = true →
    let r := connOf s p
    ((∃ n, (id, n) ∈ r.open_) →
      exec (.spdmHeartbeat p id) s = .next (spdmOut p 0x68 [] s) ∧
      exec (.spdmKeyUpdate p id) s = .next (spdmOut p 0x69 [] (setConn p { r with open_ := r.open_.map fun e => if e.1 = id then (e.1, e.2 + 1) else e } s)) ∧
      exec (.spdmEndSession p id) s = .next (spdmOut p 0x6C [] (setConn p { r with open_ := r.open_.filter fun e => e.1 != id } s))) ∧
    ((∀ n, (id, n) ∉ r.open_) → ∀ c, c = .spdmHeartbeat p id ∨ c = .spdmKeyUpdate p id ∨ c = .spdmEndSession p id →
      exec c s = .next (spdmError p 0x02 s))) ∧
  (∀ (s : State) (port : Fin 2) (id : BitVec 32) (stream : Fin 5) (key : BitVec 256), spdmHears s (.doe port) = true →
    (connOf s (.doe port)).algs = true →
    let r := connOf s (.doe port)
    let out := [BitVec.ofNat 8 stream.val]
    ((∀ n, (id, n) ∉ r.open_) → ∀ m, exec (.ideKeyManagement port id m stream key) s = .next (spdmError (.doe port) 0x02 s)) ∧
    ((∃ n, (id, n) ∈ r.open_) →
      exec (.ideKeyManagement port id true stream key) s = .next (spdmOut (.doe port) 0x7E out (updCxl port (fun c => { c with ideMem := key }) s)) ∧
      exec (.ideKeyManagement port id false stream key) s = .next (spdmOut (.doe port) 0x7E out (updCxl port (fun c => { c with ide := c.ide.set 0 stream.val key }) s)))))

/-- The management side. I3C and the management port answer while the standby supply is on, and do nothing without
it: readings; power settings as POWER_SET takes them; a record of the flash log, BAD_PARAM where there is none; a
cold bring-up, NOT_PERMITTED after an EPO_N or while a leak that stopped the module is still wet; and the removal of
a module, NOT_PERMITTED but at the manager, BAD_PARAM of itself or of one not recorded, which takes its record and
its number away. A test instruction is answered as BYPASS where the life-cycle state does not allow it, as IDCODE
and BYPASS always are (R421, R455, R465, R472, R477, R478). -/
def Obligations.ManagementAccess : Prop :=
  (∀ (s : State), s.pwr.standby = false → (∀ i, exec (.i3cRequest i) s = .next s) ∧ ∀ r, exec (.managementRequest r) s = .next s) ∧
  (∀ (s : State) (i : Fin 8), s.pwr.standby = true → exec (.i3cRequest i) s = .next { s with out := s.out ++ [.i3c (reading s i)] } ∧
    exec (.managementRequest (.monitor i)) s = .next (mgmtOut 0x00 (reading s i) s)) ∧
  (∀ (s : State) (v : Word), s.pwr.standby = true →
    exec (.managementRequest (.powerConfig v)) s = .next (mgmtOut (setPowerConfig v.toNat s).1 [] (setPowerConfig v.toNat s).2)) ∧
  (∀ (s : State) (i : Nat), s.pwr.standby = true →
    (∀ d, s.boot.log[i]? = some d → exec (.managementRequest (.readLog i)) s = .next (mgmtOut 0x00 d s)) ∧
    (s.boot.log[i]? = none → exec (.managementRequest (.readLog i)) s = .next (mgmtOut 0x03 [] s))) ∧
  (∀ (s : State), s.pwr.standby = true →
    let held : Prop := s.pwr.epo = true ∨ (s.pwr.shut = .leak ∧ s.pwr.wet = true)
    (held → exec (.managementRequest .coldBringup) s = .next (mgmtOut 0x04 [] s)) ∧
    (¬ held → exec (.managementRequest .coldBringup) s = .next (mgmtOut 0x00 [] (startCold s)))) ∧
  (∀ (s : State) (m : BitVec 8), s.pwr.standby = true →
    let there : Prop := some m ≠ s.fab.num ∧ ∃ n, (n, m) ∈ s.fab.record
    (s.fab.role ≠ .manager → exec (.managementRequest (.removeModule m)) s = .next (mgmtOut 0x04 [] s)) ∧
    (s.fab.role = .manager → ¬ there → exec (.managementRequest (.removeModule m)) s = .next (mgmtOut 0x03 [] s)) ∧
    (s.fab.role = .manager → there → exec (.managementRequest (.removeModule m)) s = .next (mgmtOut 0x00 []
      { s with fab := { s.fab with record := s.fab.record.filter (fun e => e.2 != m), mask := s.fab.mask &&& ~~~((1 : BitVec 256) <<< m.toNat) } }))) ∧
  (∀ (s : State) (i : TestInstr),
    exec (.testAccess i) s = .next { s with out := s.out ++ [.test i (i == .bypass || !testAllowed s.boot i)] }) ∧
  (∀ (b : Boot) (i : TestInstr), testAllowed b i = true ↔ i = .bypass ∨ i = .idcode ∨ b.lc = .blank ∨ b.lc = .returned ∨
    (b.lc = .provisioned ∧ (i = .samplePreload ∨ i = .extest)) ∨
    (b.lc = .debug ∧ bit b.scope.toNat (match i with | .atbinDebug => 1 | .clusterScan => 2 | .stackTest => 3 | _ => 0) = true))

/-! ### The arrays and the numerics blocks -/

/-- Array register writes. Each answers the status of a failed permission, with no effect; else OK. CTX_LOAD checks
in order its core, its reserved field, the wellhead and the slot, a load under way and its offset, with LOAD_STATUS
BAD_PARAM, BAD_PARAM, NOT_PERMITTED, NOT_READY and BAD_PARAM, and notifies but for the first; otherwise the load
begins. FREEZE, RESUME and RELEASE with a reserved field set give BAD_PARAM. FREEZE of an IDLE array is
NOT_PERMITTED, and keeps what a running one was doing; RESUME of a frozen array not stopped for a fault goes on with
it, else NOT_PERMITTED; RELEASE frees a LOADED slot that no switch waits for, NOT_PERMITTED where one does or the
slot is ACTIVE, NOT_READY while it loads. The three SWITCH rows differ in KIND alone (R78-R80, R94). A context load
ends. Where none is under way nothing happens. Otherwise the image is read from the cistern with its error code, and
LOAD_STATUS is the read's status or the first check of R79 that fails; the slot is LOADED, with every tile's record,
at OK and FREE otherwise, and the notification follows. The checks are of the headers, dry tiles, routing, bodies
and formats, in that order (R78, R79, R198). Switch requests. A core above 23 gives BAD_PARAM without a
notification; a reserved field, a launch or STAGGER without an at-tide kind, and a FREE slot BAD_PARAM; a held
forced switch NOT_READY. A forced request runs at once, or is held, the pending one dropped, while its slot loads.
Another is NOT_PERMITTED while FROZEN; one that cannot run yet, or is for a tide, becomes the pending one, FULL
where there is one; the rest start. The launch is the nearest instant, before or after the local tide, with its low
32 bits, the stagger added first (R80, R85-R87; the model's choices: log entry 156). Switches run. A pending one is
dropped where its slot is free; it starts once its slot is loaded, the array IDLE or RUNNING and its arithmetic
clock on: without a launch at once, with one at its tide, or LATE where that has passed. A held forced one runs, or
is ABORTED, when its load ends. In a wavefront a source switches when it has no output or its stream has ended,
another tile when a marker heads every forward input and it is drained; both need credits for their markers.
Otherwise each changes nothing. The array is stalled, and the event posted, when it holds tokens and its limit
passes (R82, R83, R85-R87, R91, R92, R294). -/
def Obligations.ArrayContextSwitches : Prop :=
  ((∀ (s : State) (who : Requester) (c : Cl) (v : Word), regPerm s who c ≠ 0x00 → ∀ i, i = .ctxLoad who c v ∨ i = .switchNormalNow who c v ∨
    i = .switchAtTide who c v ∨ i = .switchForced who c v ∨ i = .arrayFreeze who c v ∨ i = .arrayResume who c v ∨ i = .arrayRelease who c v →
    exec i s = .next (reply (regPerm s who c) s)) ∧
  (∀ (s : State) (who : Requester) (c : Cl) (v : Word), regPerm s who c = 0x00 →
    exec (.switchNormalNow who c v) s = .next (reply 0x00 (switchReq c (withKind v 0) s)) ∧
    exec (.switchAtTide who c v) s = .next (reply 0x00 (switchReq c (withKind v 1) s)) ∧
    exec (.switchForced who c v) s = .next (reply 0x00 (switchReq c (withKind v 2) s))) ∧
  (∀ (s : State) (who : Requester) (c : Cl) (v : Word), regPerm s who c = 0x00 →
    let a := arrOf s c
    let n := v.toNat
    let slot : Fin 4 := Fin.ofNat 4 (fld n 22 2)
    let note := noteOf (bit n 34) (fld n 24 5) (fld n 29 5)
    let core : Prop := fld n 24 5 < 24
    let zero : Prop := fld n 35 29 = 0
    let free : Prop := isWellhead s c = false ∧ a.slots[slot] = .free
    let place : Prop := fld n 0 10 = 0 ∧ fld n 0 22 ≤ 0x3F8000
    let ends (st : Byte) : Prop := exec (.ctxLoad who c v) s = .next (reply 0x00 (loadEnds c note st s))
    (¬ core → exec (.ctxLoad who c v) s = .next (reply 0x00 (updArr c (fun a => { a with loadStatus := 0x03 }) s))) ∧
    (core → ¬ zero → ends 0x03) ∧ (core → zero → ¬ free → ends 0x04) ∧ (core → zero → free → a.load.isSome = true → ends 0x01) ∧
    (core → zero → free → a.load = none → ¬ place → ends 0x03) ∧
    (core → zero → free → a.load = none → place → exec (.ctxLoad who c v) s =
      .next (reply 0x00 (updArr c (fun a => { a with slots := vset a.slots slot .loading, load := some ⟨slot, fld n 0 22, note⟩ }) s)))) ∧
  (∀ (s : State) (who : Requester) (c : Cl) (v : Word), regPerm s who c = 0x00 →
    let a := arrOf s c
    let t (u : State) : Prop := exec (.arrayFreeze who c v) s = .next (reply 0x00 u)
    (arrCmdBad (withCmd3 v 1) false = true → t (setCmdStatus c 0x03 s)) ∧
    (arrCmdBad (withCmd3 v 1) false = false → (a.state = .idle → t (setCmdStatus c 0x04 s)) ∧ (a.state = .frozen → t (setCmdStatus c 0x00 s)) ∧
      (a.state = .running ∨ a.state = .switching →
        t (updArr c (fun a => { a with state := .frozen, prior := a.state, cause := 0, cmdStatus := 0x00 }) s)))) ∧
  (∀ (s : State) (who : Requester) (c : Cl) (v : Word), regPerm s who c = 0x00 →
    let a := arrOf s c
    let may : Prop := a.state = .frozen ∧ a.cause ≠ 3
    let t (u : State) : Prop := exec (.arrayResume who c v) s = .next (reply 0x00 u)
    (arrCmdBad (withCmd3 v 2) false = true → t (setCmdStatus c 0x03 s)) ∧ (arrCmdBad (withCmd3 v 2) false = false → ¬ may → t (setCmdStatus c 0x04 s)) ∧
    (arrCmdBad (withCmd3 v 2) false = false → may →
      t (restartRamps c (updArr c (fun a => { a with state := a.prior, moved := s.t.now, cmdStatus := 0x00 }) s)))) ∧
  (∀ (s : State) (c : Cl) (d : Cl), arrOf (restartRamps c s) d = arrOf s d ∧ (restartRamps c s).mem = s.mem) ∧
  (∀ (s : State) (who : Requester) (c : Cl) (v : Word), regPerm s who c = 0x00 →
    let a := arrOf s c
    let k : Fin 4 := Fin.ofNat 4 (fld v.toNat 4 2)
    let waits : Prop := (∃ p, a.pend = some p ∧ p.slot = k) ∨ (∃ h, a.held = some h ∧ h.slot = k)
    let t (u : State) : Prop := exec (.arrayRelease who c v) s = .next (reply 0x00 u)
    (arrCmdBad (withCmd3 v 3) true = true → t (setCmdStatus c 0x03 s)) ∧
    (arrCmdBad (withCmd3 v 3) true = false → (a.slots[k] = .active → t (setCmdStatus c 0x04 s)) ∧ (a.slots[k] = .loading → t (setCmdStatus c 0x01 s)) ∧
      (a.slots[k] = .free → t (setCmdStatus c 0x00 s)) ∧ (a.slots[k] = .loaded → waits → t (setCmdStatus c 0x04 s)) ∧
      (a.slots[k] = .loaded → ¬ waits → t (updArr c (fun a => { a with slots := vset a.slots k .free, cmdStatus := 0x00 }) s)))) ∧
  (∀ (c : Cl) (note : Option NoteRef) (st : Byte) (s : State),
    loadEnds c note st s = notifyOpt c note (updArr c (fun a => { a with loadStatus := st }) s))) ∧
  ((∀ (s : State) (c : Cl), (arrOf s c).load = none → exec (.ctxLoadDone c) s = .next (settle s)) ∧
  (∀ (s : State) (c : Cl) (l : CtxLoading), (arrOf s c).load = some l →
    let st := (loadImage c l.offset s).1
    let u := (loadImage c l.offset s).2
    let v (x : SlotState) : State := updArr c (fun a => { a with slots := vset a.slots l.slot x, load := none }) u
    (st = 0x00 → exec (.ctxLoadDone c) s = .next (settle (loadEnds c l.note 0x00
      ((allTiles c).foldl (fun x t => setSlotRec t l.slot (imageRec u c l.offset t.t) x) (v .loaded))))) ∧
    (st ≠ 0x00 → exec (.ctxLoadDone c) s = .next (settle (loadEnds c l.note st (v .free))))) ∧
  (∀ (s : State) (c : Cl) (off : Nat),
    let r := sramRead (clAddr 1 c off) 32768 false (clUnit c) s
    (r.1 ≠ 0x00 → loadImage c off s = (r.1, r.2.2)) ∧ (r.1 = 0x00 → loadImage c off s = (loadStatus r.2.2 c off, r.2.2))) ∧
  (∀ (s : State) (c : Cl) (off : Nat),
    let recs := fun t => imageRec s c off t
    let hdr : Prop := ∀ t ∈ allTiles c, hdrOk t (recs t.t) = true
    let dry : Prop := ∀ t ∈ allTiles c, dryOk s t (recs t.t) = true
    let routes : Prop := ∀ t ∈ allTiles c, routeOk recs t = true
    let bodies : Prop := ∀ t ∈ allTiles c, bodyOk (recs t.t) = true
    let formats : Prop := ∀ t ∈ allTiles c, formatsOk recs t = true
    (¬ hdr → loadStatus s c off = 0x03) ∧ (hdr → ¬ dry → loadStatus s c off = 0x09) ∧ (hdr → dry → ¬ routes → loadStatus s c off = 0x03) ∧
    (hdr → dry → routes → ¬ bodies → loadStatus s c off = 0x03) ∧ (hdr → dry → routes → bodies → ¬ formats → loadStatus s c off = 0x0D) ∧
    (hdr → dry → routes → bodies → formats → loadStatus s c off = 0x00))) ∧
  ((∀ (s : State) (c : Cl) (v : Nat),
    let a := arrOf s c
    let slot : Fin 4 := Fin.ofNat 4 (fld v 0 2)
    let kind := fld v 2 2
    let note := noteOf (bit v 15) (fld v 5 5) (fld v 10 5)
    let core : Prop := fld v 5 5 < 24
    let good : Prop := core ∧ kind ≠ 3 ∧ fld v 16 16 = 0 ∧ (kind ≠ 1 → fld v 32 32 = 0 ∧ bit v 4 = false) ∧ a.slots[slot] ≠ .free
    let refused (st : Byte) : Prop := switchReq c v s = switchRefused c note st s
    let launch := if kind = 1 then some (launchAt (localTide s c) (BitVec.ofNat 32 (fld v 32 32)) (if bit v 4 then stagger s c * 4000 else 0)) else none
    let waits : Prop := a.slots[slot] = .loading ∨ a.state = .switching ∨ (a.state = .running ∧ a.pend.isSome = true) ∨ kind = 1
    (¬ core → switchReq c v s = updArr c (fun a => { a with switchStatus := 0x03 }) s) ∧ (core → ¬ good → refused 0x03) ∧
    (good → a.held.isSome = true → refused 0x01) ∧
    (good → a.held = none → kind = 2 → a.slots[slot] = .loading →
      switchReq c v s = updArr c (fun a => { a with held := some ⟨slot, note⟩ }) (dropPending c s)) ∧
    (good → a.held = none → kind = 2 → a.slots[slot] ≠ .loading → switchReq c v s = forceSwitch c slot note s) ∧
    (good → a.held = none → kind ≠ 2 → a.state = .frozen → refused 0x04) ∧
    (good → a.held = none → kind ≠ 2 → a.state ≠ .frozen →
      (waits → a.pend.isSome = true → refused 0x0E) ∧
      (waits → a.pend = none → switchReq c v s = updArr c (fun a => { a with pend := some ⟨slot, launch, note⟩ }) s) ∧
      (¬ waits → switchReq c v s = startSwitch c slot note s))) ∧
  (∀ (tide : Word) (l : BitVec 32) (extra : Nat), (launchAt tide l extra).setWidth 32 = l + BitVec.ofNat 32 extra ∧
    -2 ^ 31 ≤ (launchAt tide l extra - tide).toInt ∧ (launchAt tide l extra - tide).toInt < 2 ^ 31) ∧
  (∀ (s : State) (c : Cl) (st : Byte) (note : Option NoteRef),
    switchRefused c note st s = notifyOpt c note (updArr c (fun a => { a with switchStatus := st }) s)) ∧
  (∀ (s : State) (c : Cl), ((arrOf s c).pend = none → dropPending c s = s) ∧
    ∀ p, (arrOf s c).pend = some p → dropPending c s = notifyOpt c p.note (updArr c (fun a => { a with pend := none, switchStatus := 0x0B }) s))) ∧
  ((∀ (s : State) (c : Cl), (arrOf s c).pend = none → exec (.pendingSwitchStart c) s = .next s ∧ exec (.switchLaunch c) s = .next s) ∧
  (∀ (s : State) (c : Cl) (p : PendSwitch), (arrOf s c).pend = some p →
    let a := arrOf s c
    let may : Prop := (a.slots[p.slot] = .loaded ∨ a.slots[p.slot] = .active) ∧ (a.state = .idle ∨ a.state = .running) ∧ arithOn s c = true
    (a.slots[p.slot] = .free → exec (.pendingSwitchStart c) s = .next (dropPending c s)) ∧
    (a.slots[p.slot] ≠ .free → ¬ may → exec (.pendingSwitchStart c) s = .next s) ∧ (¬ may → exec (.switchLaunch c) s = .next s) ∧
    (p.launch = none → exec (.switchLaunch c) s = .next s ∧ (may → exec (.pendingSwitchStart c) s = .next (startPending c p false s))) ∧
    (∀ l, p.launch = some l → may →
      (launchPast s c l = true → exec (.pendingSwitchStart c) s = .next (startPending c p true s) ∧ exec (.switchLaunch c) s = .next (startPending c p true s)) ∧
      (launchPast s c l = false → exec (.pendingSwitchStart c) s = .next s ∧
        exec (.switchLaunch c) s = .next (startPending c p false (waitTide s c l))))) ∧
  (∀ (s : State) (c : Cl) (p : PendSwitch) (late : Bool), startPending c p late s =
    startSwitch c p.slot p.note (updArr c (fun a => { a with pend := none, late := a.late || late }) s)) ∧
  (∀ (s : State) (c : Cl), ((arrOf s c).held = none → exec (.heldForcedSwitchStart c) s = .next s) ∧
    ∀ h, (arrOf s c).held = some h →
      let u := updArr c (fun a => { a with held := none }) s
      let st := (arrOf s c).slots[h.slot]
      (st = .loaded ∨ st = .active → exec (.heldForcedSwitchStart c) s = .next (forceSwitch c h.slot h.note u)) ∧
      (st = .free → exec (.heldForcedSwitchStart c) s = .next (switchRefused c h.note 0x0B u)) ∧
      (st = .loading → exec (.heldForcedSwitchStart c) s = .next s)) ∧
  (∀ (s : State) (t : TileId),
    let live : Prop := (arrOf s t.c).state = .switching ∧ arithOn s t.c = true ∧ (tileOf s t).switched = false ∧ markerReady s t = true
    let src : Prop := live ∧ isSource (ctxOf s t) = true ∧ ((∀ d : Fin 4, activeOut (ctxOf s t) d = false) ∨
      ((tileOf s t).stream = false ∧ tileDrained s t = true))
    let rest : Prop := live ∧ isSource (ctxOf s t) = false ∧ markersIn s t = true ∧ (tileOf s t).stream = false ∧ tileDrained s t = true
    ((arrOf s t.c).wave = none ∨ ¬ src → exec (.sourceSwitch t) s = .next s) ∧ ((arrOf s t.c).wave = none ∨ ¬ rest → exec (.tileSwitch t) s = .next s) ∧
    (∀ w, (arrOf s t.c).wave = some w → (src → exec (.sourceSwitch t) s = .next (switchTile t w s)) ∧ (rest → exec (.tileSwitch t) s = .next (switchTile t w s)))) ∧
  (∀ (s : State) (c : Cl),
    let due : Prop := arrLive s c = true ∧ tokensHeld s c ≠ 0 ∧ (arrOf s c).stallLimit ≠ 0 ∧ arithOn s c = true
    let u := waitUntil s ((arrOf s c).moved + usec (arrOf s c).stallLimit.toNat)
    (¬ due → exec (.arrayStall c) s = .next s) ∧ (due → exec (.arrayStall c) s = .next (stallArr c 1 0 (blockedUnit u c) u))) ∧
  (∀ (s : State) (c : Cl) (cause : BitVec 2) (n : Nat) (unit : BitVec 32), arrLive s c = true →
    let u := freezeArr c cause s
    stallArr c cause n unit s = postEvent .arrayStall (clUnit c) (owner s c) (localTide s c) (stallDetail u c n unit) u ∧
      (arrOf u c).state = .frozen ∧ (arrOf u c).cause = cause ∧ (arrOf u c).prior = (arrOf s c).state))

/-- Rills. While the array does not run, no token moves and no credit returns. A pass-through token leaves where its
output has a credit, a result where every output of its mask has; a queue head leaves to its pass-through registers,
or into a reduction that can take it; a credit due returns to the sender. Otherwise nothing changes. A token sent
spends one credit and joins the neighbour's queue, or, of the epoch before the one that tile has switched to, is
discarded there, its credit due (R67, R70, R71, R84, R112). Memory tiles. A tile that does not run in the command's
mode changes nothing. A FIFO stores an operand token while it has a slot, and gives its oldest, with its tags, to a
free stage. A replay gives its slots in turn, LAST at the end of each round, while rounds are left, its PRED a free
value (DESIGN CHOICE). A capture stores a token whose predicate matches, notifies at LAST, and drops another. An
addressed tile takes an address token where it holds none and works through its valid entries: a read gives the
slot, or 0 out of range, a write stores its data where the predicate matches and the index is in range, and both
count those out of it. Each waits where a token or a stage is missing; a slot that cannot be corrected gives a free
value (R89, R122-R124, R198). -/
def Obligations.RillsAndMemoryTiles : Prop :=
  ((∀ (s : State) (t : TileId), arrRuns s t.c = false → (∀ x, exec (.tokenSend t x) s = .next s) ∧ ∀ d, exec (.rillCreditReturn t d) s = .next s) ∧
  (∀ (s : State) (t : TileId) (d : Fin 4), arrRuns s t.c = true → let r := tileOf s t
    (r.pass[d] = none ∨ r.credits[d] = 0 → exec (.tokenSend t (.pass d)) s = .next s) ∧
    (∀ k, r.pass[d] = some k → r.credits[d] ≠ 0 → exec (.tokenSend t (.pass d)) s =
      .next (touch t.c (sendOn t d k (updTile t (fun r => { r with pass := vset r.pass d none }) s))))) ∧
  (∀ (s : State) (t : TileId) (i : Fin 2), arrRuns s t.c = true → let r := tileOf s t
    let mask := hRes (ctxOf s t) i
    (r.res[i] = [] ∨ creditsFor r mask = false → exec (.tokenSend t (.result i)) s = .next s) ∧
    (∀ k rest, r.res[i] = k :: rest → creditsFor r mask = true → exec (.tokenSend t (.result i)) s =
      .next (touch t.c (sendMask t mask k (updTile t (fun x => { x with res := vset x.res i rest }) s))))) ∧
  (∀ (s : State) (t : TileId) (d : Fin 4), arrRuns s t.c = true → let n := ctxOf s t
    let takes : Prop := hPort n d = 1 ∧ tileRuns s t 2 = true ∧ fld (body n) 0 3 = 1 ∧ (sfOf s t).due = none ∧ stageFree s t 1 = true
    (headReady s t d = none → exec (.tokenSend t (.rill d)) s = .next s) ∧
    (∀ k, headReady s t d = some k →
      (hPort n d = 0 → hMask n d ≠ 0 → exec (.tokenSend t (.rill d)) s = .next (popHead t d s)) ∧
      (takes → exec (.tokenSend t (.rill d)) s = .next (reduceTake t k (popHead t d s))) ∧
      (hPort n d = 0 → hMask n d = 0 → exec (.tokenSend t (.rill d)) s = .next s) ∧
      (hPort n d ≠ 0 → ¬ takes → exec (.tokenSend t (.rill d)) s = .next s))) ∧
  (∀ (s : State) (t : TileId) (d : Fin 4), arrRuns s t.c = true →
    (tileNbr t d = none ∨ (tileOf s t).owed[d] = 0 → exec (.rillCreditReturn t d) s = .next s) ∧
    (∀ u, tileNbr t d = some u → (tileOf s t).owed[d] ≠ 0 → exec (.rillCreditReturn t d) s =
      .next (updTile u (fun r => { r with credits := vset r.credits (opp d) (r.credits[opp d] + 1) })
        (updTile t (fun r => { r with owed := vset r.owed d (r.owed[d] - 1) }) s)))) ∧
  (∀ (s : State) (t u : TileId) (d : Fin 4) (k : Token), tileNbr t d = some u →
    let w := sendOn t d k s
    let o := opp d
    (tileOf w t).credits[d] = (tileOf s t).credits[d] - 1 ∧
    (pastToken (tileOf s u) k = false → (tileOf w u).inq[o] = (tileOf s u).inq[o] ++ [k] ∧ (tileOf w u).owed[o] = (tileOf s u).owed[o]) ∧
    (pastToken (tileOf s u) k = true → (tileOf w u).inq[o] = (tileOf s u).inq[o] ∧ (tileOf w u).owed[o] = (tileOf s u).owed[o] + 1 ∧
      (arrOf w t.c).discard = (arrOf s t.c).discard + BitVec.ofNat 64 (b2n k.data))) ∧
  (∀ (s : State) (t : TileId) (d : Fin 4) (k : Token) (rest : List Token), (tileOf s t).inq[d] = k :: rest →
    let w := popHead t d s
    (tileOf w t).inq[d] = rest ∧ (tileOf w t).owed[d] = (tileOf s t).owed[d] + 1 ∧
    (∀ o : Fin 4, bit (hMask (ctxOf s t) d) o.val = true → (tileOf w t).pass[o] = some k) ∧ w.mem = s.mem ∧ w.core = s.core)) ∧
  ((∀ (s : State) (t : TileId),
    let mode := fld (body (ctxOf s t)) 0 2
    (tileRuns s t 3 = false ∨ mode ≠ 0 → ∀ x, exec (.memFifo t x) s = .next (settle s)) ∧
    (tileRuns s t 3 = false ∨ mode ≠ 1 → exec (.memReplay t) s = .next (settle s)) ∧
    (tileRuns s t 3 = false ∨ mode ≠ 2 → exec (.memCapture t) s = .next (settle s)) ∧
    (tileRuns s t 3 = false ∨ mode ≠ 3 → exec (.memAddressed t) s = .next (settle s))) ∧
  (∀ (s : State) (t : TileId), tileRuns s t 3 = true →
    let b := body (ctxOf s t)
    let r := memTileOf s t
    fld b 0 2 = 0 →
    (operand s t 1 = none ∨ fld b 20 13 ≤ r.fill → exec (.memFifo t true) s = .next (settle s)) ∧
    (∀ k, operand s t 1 = some k → r.fill < fld b 20 13 → exec (.memFifo t true) s = .next (settle (setMemTile t
      { r with wr := nextSlot b r.wr, fill := r.fill + 1, tags := r.tags ++ [(k.last, k.pred, k.epoch)] }
      (tileMemWrite t r.wr k.payload (takeOperand t 1 s))))) ∧
    (r.tags = [] ∨ stageFree s t 0 = false → exec (.memFifo t false) s = .next (settle s)) ∧
    (∀ g rest, r.tags = g :: rest → stageFree s t 0 = true → let d := tileMemTake t r.rd s
      exec (.memFifo t false) s = .next (settle (emit t 0 [⟨d.1, true, g.1, g.2.1, g.2.2⟩]
        (setMemTile t { r with rd := nextSlot b r.rd, fill := r.fill - 1, tags := rest } d.2))))) ∧
  (∀ (s : State) (t : TileId), tileRuns s t 3 = true →
    let b := body (ctxOf s t)
    let r := memTileOf s t
    fld b 0 2 = 1 →
    let may : Prop := stageFree s t 0 = true ∧ (fld b 48 16 = 0 ∨ r.reps < fld b 48 16) ∧ (r.rd ≠ fld b 8 12 ∨ mayStart s t = true)
    let last := decide (r.rd + 1 = fld b 8 12 + fld b 20 13)
    let u := updTile t (fun x => { x with stream := !last })
      (setMemTile t { r with rd := nextSlot b r.rd, reps := if last then r.reps + 1 else r.reps } { s with freeCount := s.freeCount + 1 })
    let d := tileMemTake t r.rd u
    (¬ may → exec (.memReplay t) s = .next (settle s)) ∧
    (may → exec (.memReplay t) s = .next (settle (emit t 0 [⟨d.1, true, last, (Config.free s.freeCount).getLsbD 0, (tileOf u t).epoch⟩] d.2)))) ∧
  (∀ (s : State) (t : TileId), tileRuns s t 3 = true →
    let b := body (ctxOf s t)
    let r := memTileOf s t
    let u := takeOperand t 1 s
    fld b 0 2 = 2 →
    (operand s t 1 = none → exec (.memCapture t) s = .next (settle s)) ∧
    (∀ k, operand s t 1 = some k → let v := setMemTile t { r with wr := nextSlot b r.wr } (tileMemWrite t r.wr k.payload u)
      (predOk (fld b 4 2) k.pred = false → exec (.memCapture t) s = .next (settle u)) ∧
      (predOk (fld b 4 2) k.pred = true → k.last = false → exec (.memCapture t) s = .next (settle v)) ∧
      (predOk (fld b 4 2) k.pred = true → k.last = true → exec (.memCapture t) s = .next (settle (notifyOpt t.c (memNote b) v))))) ∧
  (∀ (s : State) (t : TileId), tileRuns s t 3 = true → fld (body (ctxOf s t)) 0 2 = 3 → (memTileOf s t).addr = none →
    (operand s t 1 = none → exec (.memAddressed t) s = .next (settle s)) ∧
    (∀ k, operand s t 1 = some k → nextEntry k.payload.toNat 0 = none →
      let u := setMemTile t { memTileOf (takeOperand t 1 s) t with addr := none } (takeOperand t 1 s)
      exec (.memAddressed t) s = .next (settle u)) ∧
    (∀ k, operand s t 1 = some k → nextEntry k.payload.toNat 0 ≠ none →
      exec (.memAddressed t) s = exec (.memAddressed t) (setMemTile t { memTileOf s t with addr := some (k, 0) } (takeOperand t 1 s)))) ∧
  (∀ (s : State) (t : TileId) (k : Token) (i : Nat), tileRuns s t 3 = true → fld (body (ctxOf s t)) 0 2 = 3 → (memTileOf s t).addr = some (k, i) →
    let b := body (ctxOf s t)
    let r := memTileOf s t
    (nextEntry k.payload.toNat i = none → exec (.memAddressed t) s = .next (settle (setMemTile t { r with addr := none } s))) ∧
    (∀ j, nextEntry k.payload.toNat i = some j →
      let idx := fld k.payload.toNat (16 * j) 12
      let out := decide (fld b 20 13 ≤ idx)
      let more := (nextEntry k.payload.toNat (j + 1)).isSome
      let r' := { r with addr := if more then some (k, j + 1) else none, oor := satAdd32 r.oor (b2n out) }
      let d := if out then (0, s) else tileMemTake t (fld b 8 12 + idx) s
      (bit b 2 = false → stageFree s t 0 = false → exec (.memAddressed t) s = .next (settle s)) ∧
      (bit b 2 = false → stageFree s t 0 = true → exec (.memAddressed t) s =
        .next (settle (emit t 0 [⟨d.1, true, k.last && !more, k.pred, (tileOf s t).epoch⟩] (setMemTile t r' d.2)))) ∧
      (bit b 2 = true → operand s t 2 = none → exec (.memAddressed t) s = .next (settle s)) ∧
      (∀ w, bit b 2 = true → operand s t 2 = some w →
        let u := setMemTile t r' (takeOperand t 2 s)
        let v := tileMemWrite t (fld b 8 12 + idx) w.payload u
        let stores : Prop := predOk (fld b 4 2) k.pred = true ∧ out = false
        (¬ stores → exec (.memAddressed t) s = .next (settle u)) ∧ (stores → w.last = false → exec (.memAddressed t) s = .next (settle v)) ∧
        (stores → w.last = true → exec (.memAddressed t) s = .next (settle (notifyOpt t.c (memNote b) v)))))) ∧
  (∀ (s : State), s.boot.struck = [] → settle s = s) ∧
  (∀ (s : State) (t : TileId) (slot : Nat) (v : BitVec 256), readBytes (tileMemWrite t slot v s).mem.sram (tileMemKey t slot) 32 = leBytes 32 v.toNat))

/-- Multiplier tiles. A chunk token, of a tile that runs with its shadow chunk not full, is a header or an element
token of it; a full one becomes the chunk in use where there is none. An issue, with a chunk and the row not
draining, takes the tokens it needs and waits where they or the initial accumulators are missing; else it puts the
row's dot products on their way, in its cycle of the ramp. An accumulation adds the oldest to its accumulator with
one rounding, and reports. A finished row leaves as one token, its accumulators zero. Otherwise nothing changes
(R51, R53, R101-R105). -/
def Obligations.MultiplierTiles : Prop :=
  (∀ (s : State) (t : TileId),
    let b := body (ctxOf s t)
    let r := mulOf s t
    let may : Prop := tileRuns s t 1 = true ∧ r.shadow.elems.length < 2 * fld b 16 4 ∧ (bit b 46 = false ∨ r.cur = none)
    (¬ may ∨ operand s t 2 = none → exec (.mulChunkLoad t) s = .next s) ∧
    (∀ k, may → operand s t 2 = some k →
      let u := takeOperand t 2 s
      let hdr : Chunk := { r.shadow with hdrs := r.shadow.hdrs ++ [k.payload] }
      let el : Chunk := { r.shadow with elems := r.shadow.elems ++ [k.payload] }
      (chunkWantsHdr (fld b 0 5) r.shadow = true → exec (.mulChunkLoad t) s = .next (setMul t { r with shadow := hdr } u)) ∧
      (chunkWantsHdr (fld b 0 5) r.shadow = false →
        (el.elems.length = 2 * fld b 16 4 → r.cur = none → exec (.mulChunkLoad t) s = .next (setMul t { r with cur := some el, shadow := {} } u)) ∧
        (el.elems.length ≠ 2 * fld b 16 4 ∨ r.cur ≠ none → exec (.mulChunkLoad t) s = .next (setMul t { r with shadow := el } u))))) ∧
  (∀ (s : State) (t : TileId),
    let b := body (ctxOf s t)
    let f := fld b 0 5
    let r := mulOf s t
    let may : Prop := tileRuns s t 1 = true ∧ ¬ (r.pass = 0 ∧ ∃ d ∈ r.drains, d.m = r.row)
    let v := mulTakeA t f s
    (r.cur = none ∨ ¬ may → exec (.mulIssue t) s = .next s) ∧
    (∀ ch, r.cur = some ch → may →
      (mulHasA f (mulOf v t) = false ∨ mulInit t b v = none → exec (.mulIssue t) s = .next v) ∧
      (∀ u, mulHasA f (mulOf v t) = true → mulInit t b v = some u →
        let w := rampIssue t u
        let q := mulOf w t
        let dots := if predOk (fld b 42 2) q.aPred then mulDots f (fld b 16 4) ch q else []
        exec (.mulIssue t) s = .next (touch t.c (setMul t (mulAdvance f b { q with flying := q.flying ++ dots, issues := q.issues + 1 }) w))))) ∧
  (∀ (s : State) (t : TileId), tileRuns s t 1 = false ∨ (mulOf s t).flying = [] → exec (.mulAccumulate t) s = .next s) ∧
  (∀ (s : State) (t : TileId) (x : Flying) (rest : List Flying), tileRuns s t 1 = true → (mulOf s t).flying = x :: rest →
    let b := body (ctxOf s t)
    let f := accFmt (fld b 0 5)
    let k := x.n * 64 + x.m
    let r := mulOf s t
    let old := f.decode (r.acc.get 0 k).toNat
    let sum : Exact := if x.dot.cause ≠ 0 ∧ old.isNan = false then x.dot else addV old x.dot.v
    let res := sum.finish f (bit b 44)
    exec (.mulAccumulate t) s = .next (tileReport t 2 0 (fld b 0 5) (bit b 45) [res] (setMul t { r with
      acc := r.acc.set 0 k (BitVec.ofNat 32 res.code), flying := rest, satEvents := satAdd32 r.satEvents (b2n res.ovf) } s))) ∧
  (∀ (s : State) (t : TileId),
    (tileRuns s t 1 = false ∨ (mulOf s t).drains = [] → exec (.mulRowDrain t) s = .next s) ∧
    (∀ d rest, tileRuns s t 1 = true → (mulOf s t).drains = d :: rest →
      let may : Prop := stageFree s t 0 = true ∧ ∀ x ∈ (mulOf s t).flying, x.m ≠ d.m
      let lanes := (List.range 8).map fun n => ((mulOf s t).acc.get 0 (n * 64 + d.m)).toNat
      (¬ may → exec (.mulRowDrain t) s = .next s) ∧
      (may → exec (.mulRowDrain t) s = .next (emit t 0 [⟨BitVec.ofNat 256 (pack 32 lanes), true, d.last, d.pred, (tileOf s t).epoch⟩]
        (setMul t { mulOf s t with acc := accFrom (mulOf s t).acc d.m 0, drains := rest, drainRow := if d.last then 0 else d.m + 1 } s)))))

/-- Elementwise and row-apply tiles. A tile of another kind or mode, or with a result stage not free, changes
nothing, as one without the tokens that it needs. An elementwise token runs through the chain, or SELECT forwards
A's or B's values, by A's PRED; it is counted in the histogram and leaves in the output format. Row-apply takes the
row's statistics token first; then every element token has its operation and the chain, elements beyond ROW_ELEMS
being +0 that no operation touches, and the last ends the row (R64, R88, R108, R111, R114, R116; the model's
choices: log entries 155, 158). Reductions, conversions, random tiles and histograms. A row's statistics leave as
one token with LAST, reported, and the row begins afresh; without a row due, or with its stage not free, nothing
changes. A conversion, where it runs with its stages free and the token it needs, takes a scale token first where it
has two operands, then a header, or converts each element by the scale or as it stands, to elements or to blocks. A
random tile draws four words for each token and counts its stream, beginning one only where none is waiting.
HIST_CLEAR zeroes every bin where it is permitted, else answers its status (R98, R112, R115-R118, R137, R139). -/
def Obligations.SpecialFunctionTiles : Prop :=
  ((∀ (s : State) (t : TileId),
    let n := ctxOf s t
    let b := body n
    let may : Prop := tileRuns s t 2 = true ∧ fld b 0 3 = 0 ∧ sfStages s t = true
    let here : Prop := (chainNames n 1 = true → (operand s t 2).isSome = true) ∧ (chainNames n 2 = true → (operand s t 3).isSome = true)
    (¬ may ∨ operand s t 1 = none ∨ ¬ here → exec (.sfElementwise t) s = .next s) ∧
    (∀ ta, may → here → operand s t 1 = some ta →
      let zero : Token := ⟨0, true, false, false, 0⟩
      let u := takeOperand t 1 s
      let u := if chainNames n 1 then takeOperand t 2 u else u
      let u := if chainNames n 2 then takeOperand t 3 u else u
      let tb := (operand s t 2).getD zero
      let va := lanes (fld b 3 5) ta
      let vb := lanes (fld b 3 5) tb
      let vc := lanes (fld b 3 5) ((operand s t 3).getD zero)
      let select : Prop := fld (chainEntry b 0) 0 5 = 0x18
      let goes (st : ChainSt) : Prop := exec (.sfElementwise t) s =
        .next (sfOutput t n st.vals ta.last st.pred (histToken t n va st.vals ta.last ta.pred st.pred (sfElems t va.length st.s)))
      (select → goes ⟨if ta.pred then va else vb, if ta.pred then ta.pred else tb.pred, u⟩) ∧
      (¬ select → goes ((List.range (fld b 16 4)).foldl (chainStep t n va vb vc) ⟨va, ta.pred, u⟩)))) ∧
  (∀ (s : State) (t : TileId),
    let n := ctxOf s t
    let b := body n
    let r := sfOf s t
    let may : Prop := tileRuns s t 2 = true ∧ fld b 0 3 = 2 ∧ sfStages s t = true
    (¬ may → exec (.sfRowApply t) s = .next s) ∧
    (may → r.rowTok = none → (operand s t 1 = none → exec (.sfRowApply t) s = .next s) ∧
      (∀ k, operand s t 1 = some k →
        exec (.sfRowApply t) s = .next (setSf t { r with rowTok := some k, rowElems := 0, rowTokens := 0 } (takeOperand t 1 s)))) ∧
    (∀ st, may → r.rowTok = some st →
      (operand s t 2 = none ∨ (chainNames n 2 = true ∧ operand s t 3 = none) → exec (.sfRowApply t) s = .next s) ∧
      (∀ k, operand s t 2 = some k → (chainNames n 2 = true → (operand s t 3).isSome = true) →
        let u := takeOperand t 2 s
        let u := if chainNames n 2 then takeOperand t 3 u else u
        let inF := fld b 3 5
        let vs := lanes inF k
        let used := if fld b 48 16 = 0 then vs.length else min vs.length (fld b 48 16 - r.rowElems)
        let xs := vs.take used
        let rs := xs.map (rowApply (fld b 13 3) (bit b 20) st)
        let vals := rs.map fun l => match l.getLast? with | some x => val32 (BitVec.ofNat 32 x.code) | none => .zero false
        let v := sfReport t (predOk (fld b 22 2) st.pred) 0 inF rs.flatten (setSf t { sfOf u t with
          rowTokens := r.rowTokens + 1, rowElems := r.rowElems + vs.length, rowTok := if k.last then none else some st } u)
        let vc := (lanes inF ((operand s t 3).getD ⟨0, true, false, false, 0⟩)).take used
        let ch := (List.range (fld b 16 4)).foldl (chainStep t n [] [] vc) ⟨vals, st.pred, v⟩
        exec (.sfRowApply t) s = .next (sfOutput t n (ch.vals ++ List.replicate (vs.length - used) (.zero false)) k.last ch.pred
          (histToken t n xs ch.vals k.last st.pred ch.pred (sfElems t used ch.s)))))) ∧
  (∀ (t : TileId) (n : Nat) (a b c : List Val) (st : ChainSt) (i : Nat), fld (chainEntry (body n) i) 0 5 ≠ 0x17 → (chainStep t n a b c st i).pred = st.pred) ∧
  (∀ (kind : Nat) (sat : Bool) (st : Token) (x : Val),
    let f := EFmt.flt fp32
    rowApply 1 sat st x = [(mulV x (tokLane st 3)).finish f sat] ∧
    (kind = 0 ∨ kind = 2 ∨ kind = 3 → (rowApply kind sat st x)[0]? = some ((subV x (tokLane st 0)).finish f sat)))) ∧
  ((∀ (s : State) (t : TileId),
    let b := body (ctxOf s t)
    let r := sfOf s t
    (tileRuns s t 2 = false ∨ stageFree s t 0 = false ∨ r.due = none → exec (.sfReduceEmit t) s = .next s) ∧
    (∀ pred, tileRuns s t 2 = true → stageFree s t 0 = true → r.due = some pred →
      let x := statLanes (fld b 13 3) (bit b 20) (BitVec.ofNat 32 (fld b 64 32)) r
      exec (.sfReduceEmit t) s = .next (emit t 0 [⟨BitVec.ofNat 256 (pack 32 x.1), true, true, pred, (tileOf (sfReport t (predOk (fld b 22 2) pred) 0 0x08 x.2 (setSf t { r with due := none, rowTokens := 0, rowElems := 0, partials := [], stat0 := 0, stat1 := 0, stat2 := 0 } s)) t).epoch⟩]
        (sfReport t (predOk (fld b 22 2) pred) 0 0x08 x.2 (setSf t { r with due := none, rowTokens := 0, rowElems := 0, partials := [], stat0 := 0, stat1 := 0, stat2 := 0 } s))))) ∧
  (∀ (s : State) (t : TileId),
    let n := ctxOf s t
    let b := body n
    let inF := fld b 3 5
    let outF := fld b 8 5
    let r := sfOf s t
    let two := portOn n 2
    let may : Prop := tileRuns s t 2 = true ∧ fld b 0 3 = 3 ∧ sfStages s t = true
    let scaled : Prop := two = false ∨ r.rowTok.isSome = true
    (¬ may → exec (.sfConvert t) s = .next s) ∧
    (may → ¬ scaled → (operand s t 2 = none → exec (.sfConvert t) s = .next s) ∧
      (∀ k, operand s t 2 = some k → exec (.sfConvert t) s = .next (setSf t { r with rowTok := some k } (takeOperand t 2 s)))) ∧
    (may → scaled → operand s t 1 = none → exec (.sfConvert t) s = .next s) ∧
    (∀ k, may → scaled → operand s t 1 = some k →
      (wantsInHdr inF r = true → exec (.sfConvert t) s = .next (setSf t { r with inHdr := k.payload, inGroups := r.inGroups + 1 } (takeOperand t 1 s))) ∧
      (wantsInHdr inF r = false →
        let vs := convertIn inF r k
        let ok := predOk (fld b 22 2) k.pred
        let hs := vs.map fun v => val32 (code32 v)
        let row := if k.last then none else r.rowTok
        let blocks := if k.last then 0 else r.inBlocks + vs.length / 32
        let u := histToken t n hs hs k.last k.pred k.pred (sfElems t vs.length (setSf t { r with
          inBlocks := blocks, inGroups := if k.last then 0 else r.inGroups, rowTok := row } (takeOperand t 1 s)))
        let e := rowExp ((elemFmt outF).getD (.flt fp32)) (tokLane (r.rowTok.getD ⟨0, true, false, false, 0⟩) 0)
        let ys := vs.map fun v => v.scale (-e)
        let c := tileConvert t outF (bit b 20) (bit b 21) vs u
        let y := tileConvert t outF (bit b 20) (bit b 21) ys u
        let under (v : State) : State := if ok then reportUdf t.c (tileUnit t) (ys.countP fun y => belowPow y ((elemFmt outF).getD (.flt fp32)).minNormal) v else v
        (two = false → blockFmt outF = none → exec (.sfConvert t) s = .next (emitCodes t outF (c.1.map (·.code)) k.last k.pred (convReport t n ok c.1 c.2))) ∧
        (∀ bf, two = false → blockFmt outF = some bf → exec (.sfConvert t) s = .next (sfBlockOut t n bf vs k.last k.pred u)) ∧
        (two = true → k.last = false → exec (.sfConvert t) s =
          .next (emitCodes t outF (y.1.map (·.code)) k.last k.pred (under (convReport t n ok y.1 y.2)))) ∧
        (two = true → k.last = true → ∃ p w, w = emitCodes t outF (y.1.map (·.code)) k.last k.pred (under (convReport t n ok y.1 y.2)) ∧
          exec (.sfConvert t) s = .next (emit t 1 [⟨p, true, true, k.pred, (tileOf w t).epoch⟩] w))))) ∧
  (∀ (s : State) (t : TileId),
    let b := body (ctxOf s t)
    let r := sfOf s t
    let count := fld b 48 16
    let may : Prop := tileRuns s t 2 = true ∧ fld b 0 3 = 4 ∧ stageFree s t 0 = true ∧ (r.count ≠ count ∨ mayStart s t = true)
    let last := decide (r.count ≤ 1)
    (¬ may → exec (.sfRandomEmit t) s = .next s) ∧
    (may → ∃ p, exec (.sfRandomEmit t) s = .next (emit t 0 [⟨p, true, last, false, (tileOf s t).epoch⟩]
        (updTile t (fun x => { x with stream := !last }) (setSf t { r with gen := (r.gen.words 4).2, count := if last then count else r.count - 1 } s))) ∧
      (fld b 13 3 = 0 → p = BitVec.ofNat 256 (pack 64 ((r.gen.words 4).1.map (·.toNat)))))) ∧
  (∀ (s : State) (who : Requester) (c : Cl) (i : Fin 4) (v : Word),
    (regPerm s who c = 0x00 → exec (.histClear who c i v) s = .next (reply 0x00 (setSf (histTile c i) { sfOf s (histTile c i) with bins := [] } s))) ∧
    (regPerm s who c ≠ 0x00 → exec (.histClear who c i v) s = .next (reply (regPerm s who c) s))))

/-- I/O tiles. An inbound engine with a row due, its gate open, its stage free and a stream it may go on with or
begin reads the bytes of one token, and its PRED where the body takes it from memory, and gives the token, LAST at
the end of its row or repetition; a read that fails freezes the array. A gate opens one row more where its object
has reached the next count. An outbound engine takes a token, or goes on with the one that waits for a credit: a
header is kept, elements are converted, gathered and written, and a channel's go as messages. A write whose tile is
awake and that is answered is done, but of a context that was left. Otherwise nothing changes (R86, R127-R130). -/
def Obligations.IoTiles : Prop :=
  (∀ (s : State) (t : TileId),
    let b := body (ctxOf s t)
    let r := ioOf s t
    let f := fld b 2 5
    let first : Prop := (bit b 112 = true ∧ r.inTok = 0) ∨ (bit b 112 = false ∧ r.inRepTok = 0)
    let may : Prop := tileRuns s t 4 = true ∧ inDue b r = true ∧ stageFree s t 0 = true ∧ gateShut b r = false ∧ (first → mayStart s t = true)
    let g := tokRange f (fld b 32 16) r.inTok
    let d := ioRead t (fld b 8 22 + r.inRow * fld b 64 22 + g.1) g.2 s
    let p := inPred t b r.inRepTok d.2.2
    let rowEnd := r.inTok + 1 == rowTokens f (fld b 32 16)
    let repEnd := rowEnd && r.inRow + 1 == fld b 48 16
    let last := if bit b 112 then rowEnd else repEnd
    (¬ may → exec (.ioInboundRead t) s = .next (settle s)) ∧
    (may → d.1 ≠ 0x00 → exec (.ioInboundRead t) s = .next (settle (ioFail t d.1 d.2.2))) ∧
    (may → d.1 = 0x00 → p.1 ≠ 0x00 → exec (.ioInboundRead t) s = .next (settle (ioFail t p.1 p.2.2))) ∧
    (may → d.1 = 0x00 → p.1 = 0x00 → ∃ q e, exec (.ioInboundRead t) s = .next (settle (emit t 0
        [⟨BitVec.ofNat 256 (tokPayload f r.inTok d.2.1), true, last, p.2.1, e⟩] (updTile t (fun x => { x with stream := !last }) (setIo t q p.2.2)))) ∧
      q.inTok = (if rowEnd then 0 else r.inTok + 1) ∧ q.inRow = (if repEnd then 0 else if rowEnd then r.inRow + 1 else r.inRow) ∧
      q.inRows = (if rowEnd then r.inRows + 1 else r.inRows) ∧ q.inRep = (if repEnd then r.inRep + 1 else r.inRep) ∧ q.opened = r.opened)) ∧
  (∀ (s : State) (t : TileId) (off n : Nat), (2 ^ 22 < off + n → ioRead t off n s = (0x03, [], s)) ∧
    (off + n ≤ 2 ^ 22 → ioRead t off n s = sramRead (clAddr 1 t.c off) n false (tileUnit t) s)) ∧
  (∀ (s : State) (t : TileId),
    let b := body (ctxOf s t)
    let r := ioOf s t
    let may : Prop := tileRuns s t 4 = true ∧ inDue b r = true ∧ gateShut b r = true ∧
      objCond 2 (objVal s t.c (fld b 114 5) (fld b 119 5)) (gateNext b r) = true
    (may → exec (.ioGateOpen t) s = .next (setIo t { r with opened := r.opened + 1 } s)) ∧ (¬ may → exec (.ioGateOpen t) s = .next s)) ∧
  (∀ (s : State) (t : TileId),
    let b := body (ctxOf s t)
    let r := ioOf s t
    let may : Prop := tileRuns s t 4 = true ∧ bit b 256 = true
    let u := takeOperand t 1 s
    (¬ may → exec (.ioOutboundWrite t) s = .next s) ∧
    (may → r.creditWait.isSome = true → exec (.ioOutboundWrite t) s = .next (sendWaiting t.c (Fin.ofNat 256 (fld b 312 8)) 256 s)) ∧
    (may → r.creditWait = none → operand s t 1 = none → exec (.ioOutboundWrite t) s = .next s) ∧
    (∀ k, may → r.creditWait = none → operand s t 1 = some k →
      (fld b 257 2 = 2 → exec (.ioOutboundWrite t) s = .next (ioChannel t b k u)) ∧
      (fld b 257 2 ≠ 2 → outWantsHdr (fld b 260 5) r = true → exec (.ioOutboundWrite t) s =
        .next (setIo t { ioOf u t with outHdr := k.payload, outGroups := r.outGroups + 1 } u)) ∧
      (fld b 257 2 ≠ 2 → outWantsHdr (fld b 260 5) r = false → exec (.ioOutboundWrite t) s = .next (ioTakeElems t b k u)))) ∧
  (∀ (s : State) (id : Nat) (q : Xact) (st : Byte) (d : List Byte) (k : Nat) (c : Cl) (i : Fin 2), Answered s id q st d → q.use = .ioWrite k → q.who = .io c i → asleep s q.src = false →
    let u := dropXact id s
    let t : TileId := ⟨c, Fin.ofNat 32 (8 * (i.val + 1))⟩
    let v := setIo t { ioOf u t with outstanding := (ioOf u t).outstanding.erase k } u
    (q.orphaned = true → exec (.ioWriteComplete id) s = .next u) ∧
    (q.orphaned = false → st ≠ 0x00 → exec (.ioWriteComplete id) s = .next (ioFail t st v)) ∧
    (q.orphaned = false → st = 0x00 → exec (.ioWriteComplete id) s = .next (ioNotify t (body (ctxOf v t)) v))) ∧
  (∀ (s : State) (t : TileId) (st : Byte), ioFail t st s =
    stallArr t.c 3 1 (tileUnit t) (if (ioOf s t).lastStatus = 0x00 then setIo t { ioOf s t with lastStatus := st } s else s))

/-- NaN reports. A report taken off the queue that names no partition only leaves the queue. Otherwise its elements
count in NAN_COUNT. Where a record is held, it stays. Where none is, the report becomes the record, with its unit,
source, format, cause, location and tide, and a NAN_TRAP event is posted; TRAPPED is set where NAN_TRAP is set and
the unit takes the trap: a core context that is not idle and has not stopped with a trap takes it, and an array that
still runs the context, by slot and epoch tag, freezes. (R59-R61; that a context gone by then takes no trap is the
model's choice, log entry 26.) -/
def Obligations.NanReports : Prop :=
  (∀ (s : State) (i : Nat) (r : NanReport), s.num.nans[i]? = some r →
    let u := { s with num := { s.num with nans := s.num.nans.eraseIdx i } }
    let b := numBlock u r.part
    let v := counterWrap (numAddr 0x20) (some r.part) b.nanCount r.n (setNum r.part { b with nanCount := b.nanCount + BitVec.ofNat 64 r.n } u)
    let record (trapped : Bool) (t : State) : State :=
      let z : NanRecord := ⟨r.unit, r.source, r.format, r.cause, trapped, true, r.location, r.tide⟩
      postEvent .nanTrap r.unit (some r.part) r.tide (leBytes 4 (nanWord z / 2 ^ 32) ++ leBytes 8 r.location.toNat)
        (setNum r.part { numBlock t r.part with nan := z } t)
    (partOf u r.part = none → exec (.nanReportArrive i) s = .next u) ∧
    (∀ a, partOf u r.part = some a →
      (b.nan.valid = true → exec (.nanReportArrive i) s = .next v) ∧
      (b.nan.valid = false → b.nanTrap = false → exec (.nanReportArrive i) s = .next (record false v)) ∧
      (∀ x, b.nan.valid = false → b.nanTrap = true → r.who = .ctx x →
        let gone : Prop := (ctxRec v x).state = .idle ∨ ((ctxRec v x).state = .stopped ∧ (ctxRec v x).trapped = true)
        (gone → exec (.nanReportArrive i) s = .next (record false v)) ∧
        (¬ gone → exec (.nanReportArrive i) s =
          .next (record true (takeTrap x 0x06 0x00 r.format (r.location.setWidth 48) 0 (ctxRec v x).pc v)))) ∧
      (∀ t, b.nan.valid = false → b.nanTrap = true → r.who = .tile t →
        (arrLive v t.c = true → madeByActive r v t.c = true → exec (.nanReportArrive i) s = .next (record true (freezeArr t.c 2 v))) ∧
        (arrLive v t.c = false ∨ madeByActive r v t.c = false → exec (.nanReportArrive i) s = .next (record false v))) ∧
      (∀ c, b.nan.valid = false → b.nanTrap = true → r.who = .basin c → exec (.nanReportArrive i) s = .next (record false v)))) ∧
  (∀ (s : State) (i : Nat), s.num.nans[i]? = none → exec (.nanReportArrive i) s = .next s)

/-- Overflow and block-underflow reports. A report counts in its partition's counter and, up to the top of the
slot's counter, in the region slot it names while that slot is OPEN or CLOSING; the first overflow of a slot names
its unit, and notifies the object of an OPEN slot that asked for it; an overflow for a slot that is neither counts
as late; region 16 and above is no slot's. Underflows that cross a step of BLOCK_UNDERFLOW_STEP post an event, in 1
ms at most one, which names the unit of the last report that crossed one and counts the steps crossed since the last
event. A report that names no partition only leaves the queue (R143, R145, R146, R148). A command to a region slot
by a core. One of a cluster of no partition, and one that does not come from a core, is answered NOT_PERMITTED, and
one of a partition that is being reset UNAVAILABLE; otherwise it is answered OK, and reports made 2 us before count
first. A core field of 24 and above sets CMD_STATUS to BAD_PARAM and no more; a reserved bit, or an OPEN's reserved
format, sets it to BAD_PARAM, and a slot in a state the command does not take to NOT_PERMITTED, and both notify
(R148, R493). Region slots. OPEN takes a FREE slot, with its attempt, format and tag, and notifies; CLOSE makes an
OPEN slot CLOSING and keeps its notification; ABORT makes an OPEN or CLOSING slot ABORTED, with its ladder action,
posts OVERFLOW_REPEAT, ends a waiting CLOSE's notification and its own; RELEASE makes any other slot FREE and
notifies. The end of a CLOSE comes 2 us after it, once the reports made before it have counted: without overflows
the slot is COMMITTED, otherwise ABORTED, and the CLOSE notifies. REGION takes 0 to 15 or 1F, and answers BAD_PARAM
to another value (R144, R148-R150). -/
def Obligations.OverflowReportsAndRegions : Prop :=
  ((∀ (s : State) (i : Nat) (r : CountReport), s.num.overflows[i]? = some r →
    let u := { s with num := { s.num with overflows := s.num.overflows.eraseIdx i } }
    let b := numBlock u r.part
    let v := counterWrap (numAddr 0x38) (some r.part) b.overflowCount r.n (setNum r.part { b with overflowCount := b.overflowCount + BitVec.ofNat 64 r.n } u)
    (partOf u r.part = none → exec (.overflowReportArrive i) s = .next u) ∧
    (partOf u r.part ≠ none → 16 ≤ r.region.toNat → exec (.overflowReportArrive i) s = .next v) ∧
    (∀ k : Fin 16, partOf u r.part ≠ none → r.region.toNat = k.val →
      let b' := numBlock v r.part
      let g := b'.slots[k]
      let g' := { g with overflows := BitVec.ofNat 32 (min (g.overflows.toNat + r.n) (2 ^ 32 - 1)), firstUnit := if g.overflows = 0 then r.unit else g.firstUnit }
      let w := setNum r.part { b' with slots := vset b'.slots k g' } v
      (∀ c n, g.state = .opened → g.early = some (c, n) → g.overflows = 0 → exec (.overflowReportArrive i) s = .next (notify c n 1 w)) ∧
      (g.state = .opened ∨ g.state = .closing → g.early = none ∨ g.overflows ≠ 0 ∨ g.state = .closing → exec (.overflowReportArrive i) s = .next w) ∧
      (g.state ≠ .opened → g.state ≠ .closing → exec (.overflowReportArrive i) s = .next (counterWrap (numAddr 0x40) (some r.part) b'.lateReports r.n
        (setNum r.part { b' with lateReports := b'.lateReports + BitVec.ofNat 64 r.n } v))))) ∧
  (∀ (s : State) (i : Nat) (r : CountReport), s.num.underflows[i]? = some r →
    let u := { s with num := { s.num with underflows := s.num.underflows.eraseIdx i } }
    let b := numBlock u r.part
    let new := b.blockUnderflow + BitVec.ofNat 64 r.n
    let v := underflowHigh r.part r.unit b.blockUnderflow new
      (counterWrap (numAddr 0x30) (some r.part) b.blockUnderflow r.n (setNum r.part { b with blockUnderflow := new } u))
    (partOf u r.part = none → exec (.underflowReportArrive i) s = .next u) ∧
    (partOf u r.part ≠ none → 16 ≤ r.region.toNat → exec (.underflowReportArrive i) s = .next v) ∧
    (∀ k : Fin 16, partOf u r.part ≠ none → r.region.toNat = k.val →
      let b' := numBlock v r.part
      let g := b'.slots[k]
      (g.state = .opened ∨ g.state = .closing → exec (.underflowReportArrive i) s = .next (setNum r.part { b' with
        slots := vset b'.slots k { g with underflows := BitVec.ofNat 48 (min (g.underflows.toNat + r.n) (2 ^ 48 - 1)) } } v)) ∧
      (g.state ≠ .opened → g.state ≠ .closing → exec (.underflowReportArrive i) s = .next v))) ∧
  (∀ (s : State) (i : Nat), (s.num.overflows[i]? = none → exec (.overflowReportArrive i) s = .next s) ∧
    (s.num.underflows[i]? = none → exec (.underflowReportArrive i) s = .next s)) ∧
  (∀ (p : Fin 64) (unit : BitVec 32) (old new : Word) (s : State),
    let b := numBlock s p
    let k := b.underflowStep.toNat
    let crossed := new.toNat / k - old.toNat / k
    let n := b.crossings + crossed
    let from_ := if crossed = 0 then b.highUnit else unit
    let soon : Prop := ∃ a, b.highAt = some a ∧ s.t.now < a + usec 1000
    (k = 0 ∨ n = 0 → underflowHigh p unit old new s = s) ∧
    (k ≠ 0 → n ≠ 0 → soon → underflowHigh p unit old new s = setNum p { b with crossings := n, highUnit := from_ } s) ∧
    (k ≠ 0 → n ≠ 0 → ¬ soon → underflowHigh p unit old new s = postEvent .blockUnderflowHigh from_ (some p) (moduleTide s)
      (leBytes 8 new.toNat ++ leBytes 4 n) (setNum p { b with crossings := 0, highAt := some s.t.now } s)))) ∧
  (∀ (s : State) (who : Requester) (i : Fin 16) (v : Word), ∀ c ∈ [(Instr.regionOpen who i v, 1), (Instr.regionClose who i v, 2), (Instr.regionAbort who i v, 3), (Instr.regionRelease who i v, 4)],
    ((∀ x, who ≠ .core x) → exec c.1 s = .next (reply 0x04 s)) ∧
    (∀ x, who = .core x → owner s x.c = none → exec c.1 s = .next (reply 0x04 s)) ∧
    (∀ x p, who = .core x → owner s x.c = some p → partResetting s p = true → exec c.1 s = .next (reply 0x05 s)) ∧
    (∀ x p, who = .core x → owner s x.c = some p → partResetting s p = false →
      let u := reportsDue s
      let b := numBlock u p
      let g := b.slots[i]
      let note : Option NoteRef := if bit v.toNat 42 then some ⟨fld v.toNat 32 5, fld v.toNat 37 5⟩ else none
      let refused (st : Byte) : State := setNum p { b with slots := vset b.slots i { g with cmdStatus := st } } u
      let bad : Prop := fld v.toNat 4 4 ≠ 0 ∨ fld v.toNat 43 21 ≠ 0 ∨ (c.2 = 1 ∧ fmtOk (fld v.toNat 11 5) = false)
      let wrong : Prop := (c.2 = 1 ∧ (g.state ≠ .free ∨ b.repeatMax.val < fld v.toNat 8 3)) ∨ (c.2 = 2 ∧ g.state ≠ .opened) ∨
        (c.2 = 3 ∧ g.state ≠ .opened ∧ g.state ≠ .closing) ∨ (c.2 = 4 ∧ (g.state = .opened ∨ g.state = .closing))
      (24 ≤ fld v.toNat 32 5 → exec c.1 s = .next (reply 0x00 (refused 0x03))) ∧
      (fld v.toNat 32 5 < 24 → bad → exec c.1 s = .next (reply 0x00 (notifyOpt x.c note (refused 0x03)))) ∧
      (fld v.toNat 32 5 < 24 → ¬ bad → wrong → exec c.1 s = .next (reply 0x00 (notifyOpt x.c note (refused 0x04)))))) ∧
  ((∀ (s : State) (x : CtxId) (p : Fin 64) (i : Fin 16) (v : Word), owner s x.c = some p → partResetting s p = false →
    fld v.toNat 32 5 < 24 → fld v.toNat 4 4 = 0 → fld v.toNat 43 21 = 0 →
    let u := reportsDue s
    let b := numBlock u p
    let g := b.slots[i]
    let note : Option NoteRef := if bit v.toNat 42 then some ⟨fld v.toNat 32 5, fld v.toNat 37 5⟩ else none
    let put (g' : RegionSlot) : State := setNum p { b with slots := vset b.slots i g' } u
    (fmtOk (fld v.toNat 11 5) = true → g.state = .free → fld v.toNat 8 3 ≤ b.repeatMax.val →
      exec (.regionOpen (.core x) i v) s = .next (reply 0x00 (notifyOpt x.c note
        (put { state := .opened, attempt := Fin.ofNat 8 (fld v.toNat 8 3), format := BitVec.ofNat 5 (fld v.toNat 11 5), tag := BitVec.ofNat 16 (fld v.toNat 16 16), early := if bit v.toNat 3 then note.map (fun t => (x.c, t)) else none })))) ∧
    (g.state = .opened → exec (.regionClose (.core x) i v) s = .next (reply 0x00
        (put { g with state := .closing, closeNote := note.map (fun t => (x.c, t)), closeAt := u.t.now, byUnit := coreUnit x.c x.k.val, cmdStatus := 0x00 }))) ∧
    (∀ d n, g.state = .closing → g.closeNote = some (d, n) → exec (.regionAbort (.core x) i v) s = .next (reply 0x00
      (notifyOpt x.c note (notify d n 1 (abortSlot p i (put { g with byUnit := coreUnit x.c x.k.val })))))) ∧
    (g.state = .opened ∨ (g.state = .closing ∧ g.closeNote = none) → exec (.regionAbort (.core x) i v) s = .next (reply 0x00
      (notifyOpt x.c note (abortSlot p i (put { g with byUnit := coreUnit x.c x.k.val }))))) ∧
    (g.state ≠ .opened → g.state ≠ .closing → exec (.regionRelease (.core x) i v) s = .next (reply 0x00 (notifyOpt x.c note
        (put { g with state := .free, early := none, cmdStatus := 0x00 }))))) ∧
  (∀ (s : State) (p : Fin 64) (i : Fin 16),
    let b := numBlock s p
    let g := b.slots[i]
    let next := if g.overflows = 0 then 0 else ladder g.format.toNat
    let g' := { g with state := .aborted, nextFormat := BitVec.ofNat 5 next, cmdStatus := 0x00,
                       action := if g.overflows = 0 then 3 else if next ≠ 0 ∧ g.attempt.val < b.repeatMax.val then 1 else 2 }
    abortSlot p i s = postEvent .overflowRepeat (if g.overflows = 0 then g.byUnit else g.firstUnit) (some p) (moduleTide s)
      (repeatDetail i g') (setNum p { b with slots := vset b.slots i g' } s)) ∧
  (∀ (s : State) (p : Fin 64) (i : Fin 16), (numBlock s p).slots[i].state ≠ .closing → exec (.regionCloseEnd p i) s = .next s) ∧
  (∀ (s : State) (p : Fin 64) (i : Fin 16), (numBlock s p).slots[i].state = .closing →
    let u := reportsDue (waitUntil s ((numBlock s p).slots[i].closeAt + usec 2))
    let b := numBlock u p
    let g := b.slots[i]
    let w := if g.overflows = 0 then setNum p { b with slots := vset b.slots i { g with state := .committed, cmdStatus := 0x00 } } u else abortSlot p i u
    (g.closeNote = none → exec (.regionCloseEnd p i) s = .next w) ∧
    (∀ d n, g.closeNote = some (d, n) → exec (.regionCloseEnd p i) s = .next (notify d n 1 w))) ∧
  (∀ (s : State) (who : Requester) (c : Cl) (v : Word),
    (regPerm s who c = 0x00 → fld v.toNat 0 5 < 16 ∨ fld v.toNat 0 5 = 0x1F →
      exec (.regionWrite who c v) s = .next (reply 0x00 { s with num := { s.num with
        region := s.num.region.set 0x1F (ck c) (BitVec.ofNat 5 (fld v.toNat 0 5)) } })) ∧
    (regPerm s who c = 0x00 → 16 ≤ fld v.toNat 0 5 → fld v.toNat 0 5 ≠ 0x1F → exec (.regionWrite who c v) s = .next (reply 0x03 s)) ∧
    (regPerm s who c ≠ 0x00 → exec (.regionWrite who c v) s = .next (reply (regPerm s who c) s))))
end

