-- ==== Sys2Proof/Laws/Commands.lean ====
section
/-! SUPPORT. What running a host command comes to when its record is there and its checks pass. -/

namespace Sys2Proof.Machine

open Sys2Proof

/-- A command that runs and has the row's form is its own part. -/
theorem runCmd_runs {s : State} {k : CmdKey} {op : Nat} {c : Cmd} {form : BitVec 512 → Bool} (h : Runs s k op c)
    (hf : form c.raw = true) (body : Cmd → State → State) : runCmd k op form body s = body c s := by
  obtain ⟨h1, h2, r, h3, h4, h5⟩ := h
  simp [runCmd, h1, h3, h2, hf, h4, h5]

theorem runCmd_any {s : State} {k : CmdKey} {op : Nat} {c : Cmd} (h : Runs s k op c) (body : Cmd → State → State) :
    runCmd k op anyForm body s = body c s := runCmd_runs h rfl body

/-- The part of a command that needs its partition. -/
theorem withPart_some {s : State} {c : Cmd} {p : Fin 64} {r : PartRec} (h1 : cmdTarget s c = some p) (h2 : partOf s p = some r)
    (f : Fin 64 → PartRec → State) : withPart c s f = f p r := by
  simp [withPart, h1, h2]

/-- A command without its record, or one that may not run, changes nothing. -/
theorem runCmd_absent {s : State} {k : CmdKey} (h : s.host.cmds.find? (·.key == k) = none) (op : Nat) (form : BitVec 512 → Bool)
    (body : Cmd → State → State) : runCmd k op form body s = s := by
  simp [runCmd, h]

end Sys2Proof.Machine
end

