-- ==== Sys2Proof/Laws/SMap.lean ====
section
/-! SUPPORT. Laws of the sparse map: a read after a write, and that every operation keeps the canonical form. -/

namespace Sys2Proof.SMap

variable {α : Type}

theorem get_del_self (d : α) (m : SMap α) (k : Nat) : get d (del m k) k = d := by
  induction m with
  | nil => rfl
  | cons e m ih =>
    simp only [del]
    split
    · exact ih
    · next h => simp only [get, if_neg h]; exact ih

theorem get_del_ne (d : α) (m : SMap α) {j k : Nat} (h : j ≠ k) : get d (del m k) j = get d m j := by
  induction m with
  | nil => rfl
  | cons e m ih =>
    simp only [del, get]
    split
    · next hk => rw [if_neg (by omega)]; exact ih
    · simp only [get]
      split
      · rfl
      · exact ih

theorem get_ins_self (d : α) (m : SMap α) (k : Nat) (v : α) : get d (ins m k v) k = v := by
  induction m with
  | nil => simp [ins, get]
  | cons e m ih =>
    simp only [ins]
    split
    · simp [get]
    · split
      · simp [get]
      · next h => simp only [get]; rw [if_neg (by omega)]; exact ih

theorem get_ins_ne (d : α) (m : SMap α) {j k : Nat} (v : α) (h : j ≠ k) : get d (ins m k v) j = get d m j := by
  induction m with
  | nil => simp only [ins, get]; rw [if_neg (by omega)]
  | cons e m ih =>
    simp only [ins]
    split
    · simp only [get]; rw [if_neg (by omega)]
    · split
      · next h2 => simp only [get]; rw [if_neg (by omega), if_neg (by omega)]
      · simp only [get]
        split
        · rfl
        · exact ih

variable [DecidableEq α]

/-- A read at the written number gives the value written. -/
@[simp] theorem get_set_self (d : α) (m : SMap α) (k : Nat) (v : α) : get d (set d m k v) k = v := by
  unfold set
  split
  · next h => rw [get_del_self, h]
  · exact get_ins_self d m k v

/-- A read at any other number gives what it gave before. -/
theorem get_set_ne (d : α) (m : SMap α) {j k : Nat} (v : α) (h : j ≠ k) : get d (set d m k v) j = get d m j := by
  unfold set
  split
  · exact get_del_ne d m h
  · exact get_ins_ne d m v h

theorem get_set (d : α) (m : SMap α) (j k : Nat) (v : α) : get d (set d m k v) j = if j = k then v else get d m j := by
  split
  · next h => rw [h, get_set_self]
  · next h => exact get_set_ne d m v h

@[simp] theorem get_upd_self (d : α) (m : SMap α) (k : Nat) (f : α → α) : get d (upd d m k f) k = f (get d m k) := by
  unfold upd; exact get_set_self d m k _

theorem get_upd_ne (d : α) (m : SMap α) {j k : Nat} (f : α → α) (h : j ≠ k) : get d (upd d m k f) j = get d m j := by
  unfold upd; exact get_set_ne d m _ h

/-! ### The canonical form -/

/-- The canonical form over a bound: keys above it that rise, and no default entry. -/
def ok (d : α) (b : Nat) : SMap α → Prop
  | [] => True
  | (j, v) :: m => b < j ∧ v ≠ d ∧ ok d j m

theorem ok_iff (d : α) (b : Nat) (m : SMap α) : ok d b m ↔ above b m = true ∧ noDefault d m = true := by
  induction m generalizing b with
  | nil => simp [ok, above, noDefault]
  | cons e m ih =>
    obtain ⟨j, v⟩ := e
    simp only [ok, above, noDefault, ih, Bool.and_eq_true, decide_eq_true_eq]
    constructor <;> (intro h; simp_all)

theorem wf_cons (d : α) (j : Nat) (v : α) (m : SMap α) : wf d ((j, v) :: m) = true ↔ v ≠ d ∧ ok d j m := by
  simp only [wf, noDefault, ok_iff, Bool.and_eq_true, decide_eq_true_eq]
  constructor <;> (intro h; simp_all)

omit [DecidableEq α] in
theorem ok_weaken (d : α) {a b : Nat} (h : a ≤ b) (m : SMap α) : ok d b m → ok d a m := by
  cases m with
  | nil => exact fun _ => trivial
  | cons e m => obtain ⟨j, v⟩ := e; exact fun ⟨h1, h2⟩ => ⟨by omega, h2⟩

theorem ok_del (d : α) (b k : Nat) (m : SMap α) : ok d b m → ok d b (del m k) := by
  induction m generalizing b with
  | nil => exact fun _ => trivial
  | cons e m ih =>
    obtain ⟨j, v⟩ := e
    intro ⟨h1, h2, h3⟩
    simp only [del]
    split
    · exact ok_weaken d (by omega) _ (ih j h3)
    · exact ⟨h1, h2, ih j h3⟩

omit [DecidableEq α] in
theorem ok_ins (d : α) (b k : Nat) (v : α) (hv : v ≠ d) (hb : b < k) (m : SMap α) : ok d b m → ok d b (ins m k v) := by
  induction m generalizing b with
  | nil => exact fun _ => ⟨hb, hv, trivial⟩
  | cons e m ih =>
    obtain ⟨j, w⟩ := e
    intro ⟨h1, h2, h3⟩
    simp only [ins]
    split
    · next h => exact ⟨hb, hv, h, h2, h3⟩
    · split
      · next h => exact ⟨hb, hv, h ▸ h3⟩
      · next hn he => exact ⟨h1, h2, ih j (by omega) h3⟩

theorem ok_filter (d : α) (b : Nat) (p : Nat × α → Bool) (m : SMap α) : ok d b m → ok d b (m.filter p) := by
  induction m generalizing b with
  | nil => exact fun _ => trivial
  | cons e m ih =>
    obtain ⟨j, v⟩ := e
    intro ⟨h1, h2, h3⟩
    rw [List.filter_cons]
    split
    · exact ⟨h1, h2, ih j h3⟩
    · exact ok_weaken d (by omega) _ (ih j h3)

theorem wf_of_ok (d : α) (b : Nat) (m : SMap α) (h : ok d b m) : wf d m = true := by
  cases m with
  | nil => rfl
  | cons e m => obtain ⟨j, v⟩ := e; exact (wf_cons d j v m).2 ⟨h.2.1, h.2.2⟩

theorem wf_nil (d : α) : wf d ([] : SMap α) = true := rfl

/-- Dropping an entry keeps the canonical form. -/
theorem wf_del (d : α) (m : SMap α) (k : Nat) (h : wf d m = true) : wf d (del m k) = true := by
  cases m with
  | nil => rfl
  | cons e m =>
    obtain ⟨j, v⟩ := e
    obtain ⟨h1, h2⟩ := (wf_cons d j v m).1 h
    simp only [del]
    split
    · exact wf_of_ok d j _ (ok_del d j k m h2)
    · exact (wf_cons d j v _).2 ⟨h1, ok_del d j k m h2⟩

/-- A write keeps the canonical form. -/
theorem wf_set (d : α) (m : SMap α) (k : Nat) (v : α) (h : wf d m = true) : wf d (set d m k v) = true := by
  unfold set
  split
  · exact wf_del d m k h
  · next hv =>
    cases m with
    | nil => simp [ins, wf, above, noDefault, hv]
    | cons e m =>
      obtain ⟨j, w⟩ := e
      obtain ⟨h1, h2⟩ := (wf_cons d j w m).1 h
      simp only [ins]
      split
      · next hk => exact (wf_cons d k v _).2 ⟨hv, hk, h1, h2⟩
      · split
        · next hk => exact (wf_cons d k v _).2 ⟨hv, hk ▸ h2⟩
        · exact (wf_cons d j w _).2 ⟨h1, ok_ins d j k v hv (by omega) m h2⟩

theorem wf_upd (d : α) (m : SMap α) (k : Nat) (f : α → α) (h : wf d m = true) : wf d (upd d m k f) = true := wf_set d m k _ h

/-- Dropping entries keeps the canonical form. -/
theorem wf_filter (d : α) (m : SMap α) (p : Nat × α → Bool) (h : wf d m = true) : wf d (m.filter p) = true := by
  cases m with
  | nil => rfl
  | cons e m =>
    obtain ⟨j, v⟩ := e
    obtain ⟨h1, h2⟩ := (wf_cons d j v m).1 h
    rw [List.filter_cons]
    split
    · exact (wf_cons d j v _).2 ⟨h1, ok_filter d j p m h2⟩
    · exact wf_of_ok d j _ (ok_filter d j p m h2)

end Sys2Proof.SMap
end

