-- ==== Sys2Proof/Laws/State.lean ====
section
/-! SUPPORT. What each update of the state leaves as it was: one lemma a field, true by definition. -/

namespace Sys2Proof.Machine

open Sys2Proof

/-! waitUntil and takeFree -/

@[simp] theorem takeFree_t (s : State) : (takeFree s).2.t = s.t := rfl
@[simp] theorem waitUntil_pwr (s : State) (n : Nat) : (waitUntil s n).pwr = s.pwr := rfl
@[simp] theorem takeFree_pwr (s : State) : (takeFree s).2.pwr = s.pwr := rfl
@[simp] theorem waitUntil_arr (s : State) (n : Nat) : (waitUntil s n).arr = s.arr := rfl
@[simp] theorem takeFree_arr (s : State) : (takeFree s).2.arr = s.arr := rfl
@[simp] theorem waitUntil_num (s : State) (n : Nat) : (waitUntil s n).num = s.num := rfl
@[simp] theorem takeFree_num (s : State) : (takeFree s).2.num = s.num := rfl
@[simp] theorem waitUntil_core (s : State) (n : Nat) : (waitUntil s n).core = s.core := rfl
@[simp] theorem takeFree_core (s : State) : (takeFree s).2.core = s.core := rfl
@[simp] theorem waitUntil_mem (s : State) (n : Nat) : (waitUntil s n).mem = s.mem := rfl
@[simp] theorem takeFree_mem (s : State) : (takeFree s).2.mem = s.mem := rfl
@[simp] theorem waitUntil_net (s : State) (n : Nat) : (waitUntil s n).net = s.net := rfl
@[simp] theorem takeFree_net (s : State) : (takeFree s).2.net = s.net := rfl
@[simp] theorem waitUntil_pump (s : State) (n : Nat) : (waitUntil s n).pump = s.pump := rfl
@[simp] theorem takeFree_pump (s : State) : (takeFree s).2.pump = s.pump := rfl
@[simp] theorem waitUntil_sync (s : State) (n : Nat) : (waitUntil s n).sync = s.sync := rfl
@[simp] theorem takeFree_sync (s : State) : (takeFree s).2.sync = s.sync := rfl
@[simp] theorem waitUntil_host (s : State) (n : Nat) : (waitUntil s n).host = s.host := rfl
@[simp] theorem takeFree_host (s : State) : (takeFree s).2.host = s.host := rfl
@[simp] theorem waitUntil_part (s : State) (n : Nat) : (waitUntil s n).part = s.part := rfl
@[simp] theorem takeFree_part (s : State) : (takeFree s).2.part = s.part := rfl
@[simp] theorem waitUntil_boot (s : State) (n : Nat) : (waitUntil s n).boot = s.boot := rfl
@[simp] theorem takeFree_boot (s : State) : (takeFree s).2.boot = s.boot := rfl
@[simp] theorem waitUntil_sec (s : State) (n : Nat) : (waitUntil s n).sec = s.sec := rfl
@[simp] theorem takeFree_sec (s : State) : (takeFree s).2.sec = s.sec := rfl
@[simp] theorem waitUntil_fab (s : State) (n : Nat) : (waitUntil s n).fab = s.fab := rfl
@[simp] theorem takeFree_fab (s : State) : (takeFree s).2.fab = s.fab := rfl
@[simp] theorem waitUntil_ioReply (s : State) (n : Nat) : (waitUntil s n).ioReply = s.ioReply := rfl
@[simp] theorem takeFree_ioReply (s : State) : (takeFree s).2.ioReply = s.ioReply := rfl
@[simp] theorem waitUntil_ioData (s : State) (n : Nat) : (waitUntil s n).ioData = s.ioData := rfl
@[simp] theorem takeFree_ioData (s : State) : (takeFree s).2.ioData = s.ioData := rfl
@[simp] theorem waitUntil_out (s : State) (n : Nat) : (waitUntil s n).out = s.out := rfl
@[simp] theorem takeFree_out (s : State) : (takeFree s).2.out = s.out := rfl
@[simp] theorem waitUntil_freeCount (s : State) (n : Nat) : (waitUntil s n).freeCount = s.freeCount := rfl
@[simp] theorem waitUntil_pending (s : State) (n : Nat) : (waitUntil s n).pending = s.pending := rfl
@[simp] theorem takeFree_pending (s : State) : (takeFree s).2.pending = s.pending := rfl

/-! setSleep -/

@[simp] theorem setSleep_pwr (c : Cl) (v : Sleep) (s : State) : (setSleep c v s).pwr = s.pwr := rfl
@[simp] theorem setSleep_arr (c : Cl) (v : Sleep) (s : State) : (setSleep c v s).arr = s.arr := rfl
@[simp] theorem setSleep_num (c : Cl) (v : Sleep) (s : State) : (setSleep c v s).num = s.num := rfl
@[simp] theorem setSleep_core (c : Cl) (v : Sleep) (s : State) : (setSleep c v s).core = s.core := rfl
@[simp] theorem setSleep_mem (c : Cl) (v : Sleep) (s : State) : (setSleep c v s).mem = s.mem := rfl
@[simp] theorem setSleep_net (c : Cl) (v : Sleep) (s : State) : (setSleep c v s).net = s.net := rfl
@[simp] theorem setSleep_pump (c : Cl) (v : Sleep) (s : State) : (setSleep c v s).pump = s.pump := rfl
@[simp] theorem setSleep_sync (c : Cl) (v : Sleep) (s : State) : (setSleep c v s).sync = s.sync := rfl
@[simp] theorem setSleep_host (c : Cl) (v : Sleep) (s : State) : (setSleep c v s).host = s.host := rfl
@[simp] theorem setSleep_part (c : Cl) (v : Sleep) (s : State) : (setSleep c v s).part = s.part := rfl
@[simp] theorem setSleep_boot (c : Cl) (v : Sleep) (s : State) : (setSleep c v s).boot = s.boot := rfl
@[simp] theorem setSleep_sec (c : Cl) (v : Sleep) (s : State) : (setSleep c v s).sec = s.sec := rfl
@[simp] theorem setSleep_fab (c : Cl) (v : Sleep) (s : State) : (setSleep c v s).fab = s.fab := rfl
@[simp] theorem setSleep_ioReply (c : Cl) (v : Sleep) (s : State) : (setSleep c v s).ioReply = s.ioReply := rfl
@[simp] theorem setSleep_ioData (c : Cl) (v : Sleep) (s : State) : (setSleep c v s).ioData = s.ioData := rfl
@[simp] theorem setSleep_out (c : Cl) (v : Sleep) (s : State) : (setSleep c v s).out = s.out := rfl
@[simp] theorem setSleep_freeCount (c : Cl) (v : Sleep) (s : State) : (setSleep c v s).freeCount = s.freeCount := rfl
@[simp] theorem setSleep_pending (c : Cl) (v : Sleep) (s : State) : (setSleep c v s).pending = s.pending := rfl

/-! setPart -/

@[simp] theorem setPart_t (p : Fin 64) (r : Option PartRec) (s : State) : (setPart p r s).t = s.t := rfl
@[simp] theorem setPart_pwr (p : Fin 64) (r : Option PartRec) (s : State) : (setPart p r s).pwr = s.pwr := rfl
@[simp] theorem setPart_arr (p : Fin 64) (r : Option PartRec) (s : State) : (setPart p r s).arr = s.arr := rfl
@[simp] theorem setPart_num (p : Fin 64) (r : Option PartRec) (s : State) : (setPart p r s).num = s.num := rfl
@[simp] theorem setPart_core (p : Fin 64) (r : Option PartRec) (s : State) : (setPart p r s).core = s.core := rfl
@[simp] theorem setPart_mem (p : Fin 64) (r : Option PartRec) (s : State) : (setPart p r s).mem = s.mem := rfl
@[simp] theorem setPart_net (p : Fin 64) (r : Option PartRec) (s : State) : (setPart p r s).net = s.net := rfl
@[simp] theorem setPart_pump (p : Fin 64) (r : Option PartRec) (s : State) : (setPart p r s).pump = s.pump := rfl
@[simp] theorem setPart_sync (p : Fin 64) (r : Option PartRec) (s : State) : (setPart p r s).sync = s.sync := rfl
@[simp] theorem setPart_host (p : Fin 64) (r : Option PartRec) (s : State) : (setPart p r s).host = s.host := rfl
@[simp] theorem setPart_boot (p : Fin 64) (r : Option PartRec) (s : State) : (setPart p r s).boot = s.boot := rfl
@[simp] theorem setPart_sec (p : Fin 64) (r : Option PartRec) (s : State) : (setPart p r s).sec = s.sec := rfl
@[simp] theorem setPart_fab (p : Fin 64) (r : Option PartRec) (s : State) : (setPart p r s).fab = s.fab := rfl
@[simp] theorem setPart_ioReply (p : Fin 64) (r : Option PartRec) (s : State) : (setPart p r s).ioReply = s.ioReply := rfl
@[simp] theorem setPart_ioData (p : Fin 64) (r : Option PartRec) (s : State) : (setPart p r s).ioData = s.ioData := rfl
@[simp] theorem setPart_out (p : Fin 64) (r : Option PartRec) (s : State) : (setPart p r s).out = s.out := rfl
@[simp] theorem setPart_freeCount (p : Fin 64) (r : Option PartRec) (s : State) : (setPart p r s).freeCount = s.freeCount := rfl
@[simp] theorem setPart_pending (p : Fin 64) (r : Option PartRec) (s : State) : (setPart p r s).pending = s.pending := rfl

/-! setField -/

@[simp] theorem setField_t (f : Fin 192) (r : FieldRec) (s : State) : (setField f r s).t = s.t := rfl
@[simp] theorem setField_arr (f : Fin 192) (r : FieldRec) (s : State) : (setField f r s).arr = s.arr := rfl
@[simp] theorem setField_num (f : Fin 192) (r : FieldRec) (s : State) : (setField f r s).num = s.num := rfl
@[simp] theorem setField_core (f : Fin 192) (r : FieldRec) (s : State) : (setField f r s).core = s.core := rfl
@[simp] theorem setField_mem (f : Fin 192) (r : FieldRec) (s : State) : (setField f r s).mem = s.mem := rfl
@[simp] theorem setField_net (f : Fin 192) (r : FieldRec) (s : State) : (setField f r s).net = s.net := rfl
@[simp] theorem setField_pump (f : Fin 192) (r : FieldRec) (s : State) : (setField f r s).pump = s.pump := rfl
@[simp] theorem setField_sync (f : Fin 192) (r : FieldRec) (s : State) : (setField f r s).sync = s.sync := rfl
@[simp] theorem setField_host (f : Fin 192) (r : FieldRec) (s : State) : (setField f r s).host = s.host := rfl
@[simp] theorem setField_part (f : Fin 192) (r : FieldRec) (s : State) : (setField f r s).part = s.part := rfl
@[simp] theorem setField_boot (f : Fin 192) (r : FieldRec) (s : State) : (setField f r s).boot = s.boot := rfl
@[simp] theorem setField_sec (f : Fin 192) (r : FieldRec) (s : State) : (setField f r s).sec = s.sec := rfl
@[simp] theorem setField_fab (f : Fin 192) (r : FieldRec) (s : State) : (setField f r s).fab = s.fab := rfl
@[simp] theorem setField_ioReply (f : Fin 192) (r : FieldRec) (s : State) : (setField f r s).ioReply = s.ioReply := rfl
@[simp] theorem setField_ioData (f : Fin 192) (r : FieldRec) (s : State) : (setField f r s).ioData = s.ioData := rfl
@[simp] theorem setField_out (f : Fin 192) (r : FieldRec) (s : State) : (setField f r s).out = s.out := rfl
@[simp] theorem setField_freeCount (f : Fin 192) (r : FieldRec) (s : State) : (setField f r s).freeCount = s.freeCount := rfl
@[simp] theorem setField_pending (f : Fin 192) (r : FieldRec) (s : State) : (setField f r s).pending = s.pending := rfl

/-! setOp -/

@[simp] theorem setOp_t (c : Cl) (r : OpRec) (s : State) : (setOp c r s).t = s.t := rfl
@[simp] theorem setOp_arr (c : Cl) (r : OpRec) (s : State) : (setOp c r s).arr = s.arr := rfl
@[simp] theorem setOp_num (c : Cl) (r : OpRec) (s : State) : (setOp c r s).num = s.num := rfl
@[simp] theorem setOp_core (c : Cl) (r : OpRec) (s : State) : (setOp c r s).core = s.core := rfl
@[simp] theorem setOp_mem (c : Cl) (r : OpRec) (s : State) : (setOp c r s).mem = s.mem := rfl
@[simp] theorem setOp_net (c : Cl) (r : OpRec) (s : State) : (setOp c r s).net = s.net := rfl
@[simp] theorem setOp_pump (c : Cl) (r : OpRec) (s : State) : (setOp c r s).pump = s.pump := rfl
@[simp] theorem setOp_sync (c : Cl) (r : OpRec) (s : State) : (setOp c r s).sync = s.sync := rfl
@[simp] theorem setOp_host (c : Cl) (r : OpRec) (s : State) : (setOp c r s).host = s.host := rfl
@[simp] theorem setOp_part (c : Cl) (r : OpRec) (s : State) : (setOp c r s).part = s.part := rfl
@[simp] theorem setOp_boot (c : Cl) (r : OpRec) (s : State) : (setOp c r s).boot = s.boot := rfl
@[simp] theorem setOp_sec (c : Cl) (r : OpRec) (s : State) : (setOp c r s).sec = s.sec := rfl
@[simp] theorem setOp_fab (c : Cl) (r : OpRec) (s : State) : (setOp c r s).fab = s.fab := rfl
@[simp] theorem setOp_ioReply (c : Cl) (r : OpRec) (s : State) : (setOp c r s).ioReply = s.ioReply := rfl
@[simp] theorem setOp_ioData (c : Cl) (r : OpRec) (s : State) : (setOp c r s).ioData = s.ioData := rfl
@[simp] theorem setOp_out (c : Cl) (r : OpRec) (s : State) : (setOp c r s).out = s.out := rfl
@[simp] theorem setOp_freeCount (c : Cl) (r : OpRec) (s : State) : (setOp c r s).freeCount = s.freeCount := rfl
@[simp] theorem setOp_pending (c : Cl) (r : OpRec) (s : State) : (setOp c r s).pending = s.pending := rfl

/-! reply -/

@[simp] theorem reply_t (st : Byte) (s : State) : (reply st s).t = s.t := rfl
@[simp] theorem reply_pwr (st : Byte) (s : State) : (reply st s).pwr = s.pwr := rfl
@[simp] theorem reply_arr (st : Byte) (s : State) : (reply st s).arr = s.arr := rfl
@[simp] theorem reply_num (st : Byte) (s : State) : (reply st s).num = s.num := rfl
@[simp] theorem reply_core (st : Byte) (s : State) : (reply st s).core = s.core := rfl
@[simp] theorem reply_mem (st : Byte) (s : State) : (reply st s).mem = s.mem := rfl
@[simp] theorem reply_net (st : Byte) (s : State) : (reply st s).net = s.net := rfl
@[simp] theorem reply_pump (st : Byte) (s : State) : (reply st s).pump = s.pump := rfl
@[simp] theorem reply_sync (st : Byte) (s : State) : (reply st s).sync = s.sync := rfl
@[simp] theorem reply_host (st : Byte) (s : State) : (reply st s).host = s.host := rfl
@[simp] theorem reply_part (st : Byte) (s : State) : (reply st s).part = s.part := rfl
@[simp] theorem reply_boot (st : Byte) (s : State) : (reply st s).boot = s.boot := rfl
@[simp] theorem reply_sec (st : Byte) (s : State) : (reply st s).sec = s.sec := rfl
@[simp] theorem reply_fab (st : Byte) (s : State) : (reply st s).fab = s.fab := rfl
@[simp] theorem reply_ioData (st : Byte) (s : State) : (reply st s).ioData = s.ioData := rfl
@[simp] theorem reply_out (st : Byte) (s : State) : (reply st s).out = s.out := rfl
@[simp] theorem reply_freeCount (st : Byte) (s : State) : (reply st s).freeCount = s.freeCount := rfl
@[simp] theorem reply_pending (st : Byte) (s : State) : (reply st s).pending = s.pending := rfl

/-! setPort -/

@[simp] theorem setPort_t (p : Fin 16) (r : PortRec) (s : State) : (setPort p r s).t = s.t := rfl
@[simp] theorem setPort_pwr (p : Fin 16) (r : PortRec) (s : State) : (setPort p r s).pwr = s.pwr := rfl
@[simp] theorem setPort_arr (p : Fin 16) (r : PortRec) (s : State) : (setPort p r s).arr = s.arr := rfl
@[simp] theorem setPort_num (p : Fin 16) (r : PortRec) (s : State) : (setPort p r s).num = s.num := rfl
@[simp] theorem setPort_core (p : Fin 16) (r : PortRec) (s : State) : (setPort p r s).core = s.core := rfl
@[simp] theorem setPort_mem (p : Fin 16) (r : PortRec) (s : State) : (setPort p r s).mem = s.mem := rfl
@[simp] theorem setPort_net (p : Fin 16) (r : PortRec) (s : State) : (setPort p r s).net = s.net := rfl
@[simp] theorem setPort_pump (p : Fin 16) (r : PortRec) (s : State) : (setPort p r s).pump = s.pump := rfl
@[simp] theorem setPort_sync (p : Fin 16) (r : PortRec) (s : State) : (setPort p r s).sync = s.sync := rfl
@[simp] theorem setPort_host (p : Fin 16) (r : PortRec) (s : State) : (setPort p r s).host = s.host := rfl
@[simp] theorem setPort_part (p : Fin 16) (r : PortRec) (s : State) : (setPort p r s).part = s.part := rfl
@[simp] theorem setPort_boot (p : Fin 16) (r : PortRec) (s : State) : (setPort p r s).boot = s.boot := rfl
@[simp] theorem setPort_sec (p : Fin 16) (r : PortRec) (s : State) : (setPort p r s).sec = s.sec := rfl
@[simp] theorem setPort_ioReply (p : Fin 16) (r : PortRec) (s : State) : (setPort p r s).ioReply = s.ioReply := rfl
@[simp] theorem setPort_ioData (p : Fin 16) (r : PortRec) (s : State) : (setPort p r s).ioData = s.ioData := rfl
@[simp] theorem setPort_out (p : Fin 16) (r : PortRec) (s : State) : (setPort p r s).out = s.out := rfl
@[simp] theorem setPort_freeCount (p : Fin 16) (r : PortRec) (s : State) : (setPort p r s).freeCount = s.freeCount := rfl
@[simp] theorem setPort_pending (p : Fin 16) (r : PortRec) (s : State) : (setPort p r s).pending = s.pending := rfl

/-! tileMemWrite -/

@[simp] theorem tileMemWrite_t (t : TileId) (slot : Nat) (v : BitVec 256) (s : State) : (tileMemWrite t slot v s).t = s.t := rfl
@[simp] theorem tileMemWrite_pwr (t : TileId) (slot : Nat) (v : BitVec 256) (s : State) : (tileMemWrite t slot v s).pwr = s.pwr := rfl
@[simp] theorem tileMemWrite_arr (t : TileId) (slot : Nat) (v : BitVec 256) (s : State) : (tileMemWrite t slot v s).arr = s.arr := rfl
@[simp] theorem tileMemWrite_num (t : TileId) (slot : Nat) (v : BitVec 256) (s : State) : (tileMemWrite t slot v s).num = s.num := rfl
@[simp] theorem tileMemWrite_core (t : TileId) (slot : Nat) (v : BitVec 256) (s : State) : (tileMemWrite t slot v s).core = s.core := rfl
@[simp] theorem tileMemWrite_net (t : TileId) (slot : Nat) (v : BitVec 256) (s : State) : (tileMemWrite t slot v s).net = s.net := rfl
@[simp] theorem tileMemWrite_pump (t : TileId) (slot : Nat) (v : BitVec 256) (s : State) : (tileMemWrite t slot v s).pump = s.pump := rfl
@[simp] theorem tileMemWrite_sync (t : TileId) (slot : Nat) (v : BitVec 256) (s : State) : (tileMemWrite t slot v s).sync = s.sync := rfl
@[simp] theorem tileMemWrite_host (t : TileId) (slot : Nat) (v : BitVec 256) (s : State) : (tileMemWrite t slot v s).host = s.host := rfl
@[simp] theorem tileMemWrite_part (t : TileId) (slot : Nat) (v : BitVec 256) (s : State) : (tileMemWrite t slot v s).part = s.part := rfl
@[simp] theorem tileMemWrite_boot (t : TileId) (slot : Nat) (v : BitVec 256) (s : State) : (tileMemWrite t slot v s).boot = s.boot := rfl
@[simp] theorem tileMemWrite_sec (t : TileId) (slot : Nat) (v : BitVec 256) (s : State) : (tileMemWrite t slot v s).sec = s.sec := rfl
@[simp] theorem tileMemWrite_fab (t : TileId) (slot : Nat) (v : BitVec 256) (s : State) : (tileMemWrite t slot v s).fab = s.fab := rfl
@[simp] theorem tileMemWrite_ioReply (t : TileId) (slot : Nat) (v : BitVec 256) (s : State) : (tileMemWrite t slot v s).ioReply = s.ioReply := rfl
@[simp] theorem tileMemWrite_ioData (t : TileId) (slot : Nat) (v : BitVec 256) (s : State) : (tileMemWrite t slot v s).ioData = s.ioData := rfl
@[simp] theorem tileMemWrite_out (t : TileId) (slot : Nat) (v : BitVec 256) (s : State) : (tileMemWrite t slot v s).out = s.out := rfl
@[simp] theorem tileMemWrite_freeCount (t : TileId) (slot : Nat) (v : BitVec 256) (s : State) : (tileMemWrite t slot v s).freeCount = s.freeCount := rfl
@[simp] theorem tileMemWrite_pending (t : TileId) (slot : Nat) (v : BitVec 256) (s : State) : (tileMemWrite t slot v s).pending = s.pending := rfl

/-! notify -/

@[simp] theorem notify_t (c : Cl) (n : NoteRef) (k : Nat) (s : State) : (notify c n k s).t = s.t := rfl
@[simp] theorem notify_pwr (c : Cl) (n : NoteRef) (k : Nat) (s : State) : (notify c n k s).pwr = s.pwr := rfl
@[simp] theorem notify_arr (c : Cl) (n : NoteRef) (k : Nat) (s : State) : (notify c n k s).arr = s.arr := rfl
@[simp] theorem notify_num (c : Cl) (n : NoteRef) (k : Nat) (s : State) : (notify c n k s).num = s.num := rfl
@[simp] theorem notify_core (c : Cl) (n : NoteRef) (k : Nat) (s : State) : (notify c n k s).core = s.core := rfl
@[simp] theorem notify_mem (c : Cl) (n : NoteRef) (k : Nat) (s : State) : (notify c n k s).mem = s.mem := rfl
@[simp] theorem notify_net (c : Cl) (n : NoteRef) (k : Nat) (s : State) : (notify c n k s).net = s.net := rfl
@[simp] theorem notify_pump (c : Cl) (n : NoteRef) (k : Nat) (s : State) : (notify c n k s).pump = s.pump := rfl
@[simp] theorem notify_host (c : Cl) (n : NoteRef) (k : Nat) (s : State) : (notify c n k s).host = s.host := rfl
@[simp] theorem notify_part (c : Cl) (n : NoteRef) (k : Nat) (s : State) : (notify c n k s).part = s.part := rfl
@[simp] theorem notify_boot (c : Cl) (n : NoteRef) (k : Nat) (s : State) : (notify c n k s).boot = s.boot := rfl
@[simp] theorem notify_sec (c : Cl) (n : NoteRef) (k : Nat) (s : State) : (notify c n k s).sec = s.sec := rfl
@[simp] theorem notify_fab (c : Cl) (n : NoteRef) (k : Nat) (s : State) : (notify c n k s).fab = s.fab := rfl
@[simp] theorem notify_ioReply (c : Cl) (n : NoteRef) (k : Nat) (s : State) : (notify c n k s).ioReply = s.ioReply := rfl
@[simp] theorem notify_ioData (c : Cl) (n : NoteRef) (k : Nat) (s : State) : (notify c n k s).ioData = s.ioData := rfl
@[simp] theorem notify_out (c : Cl) (n : NoteRef) (k : Nat) (s : State) : (notify c n k s).out = s.out := rfl
@[simp] theorem notify_freeCount (c : Cl) (n : NoteRef) (k : Nat) (s : State) : (notify c n k s).freeCount = s.freeCount := rfl
@[simp] theorem notify_pending (c : Cl) (n : NoteRef) (k : Nat) (s : State) : (notify c n k s).pending = s.pending := rfl

/-! notifyBy -/

@[simp] theorem notifyBy_t (c : Cl) (n : NoteRef) (b : NoteBy) (s : State) : (notifyBy c n b s).t = s.t := rfl
@[simp] theorem notifyBy_pwr (c : Cl) (n : NoteRef) (b : NoteBy) (s : State) : (notifyBy c n b s).pwr = s.pwr := rfl
@[simp] theorem notifyBy_arr (c : Cl) (n : NoteRef) (b : NoteBy) (s : State) : (notifyBy c n b s).arr = s.arr := rfl
@[simp] theorem notifyBy_num (c : Cl) (n : NoteRef) (b : NoteBy) (s : State) : (notifyBy c n b s).num = s.num := rfl
@[simp] theorem notifyBy_core (c : Cl) (n : NoteRef) (b : NoteBy) (s : State) : (notifyBy c n b s).core = s.core := rfl
@[simp] theorem notifyBy_mem (c : Cl) (n : NoteRef) (b : NoteBy) (s : State) : (notifyBy c n b s).mem = s.mem := rfl
@[simp] theorem notifyBy_net (c : Cl) (n : NoteRef) (b : NoteBy) (s : State) : (notifyBy c n b s).net = s.net := rfl
@[simp] theorem notifyBy_pump (c : Cl) (n : NoteRef) (b : NoteBy) (s : State) : (notifyBy c n b s).pump = s.pump := rfl
@[simp] theorem notifyBy_host (c : Cl) (n : NoteRef) (b : NoteBy) (s : State) : (notifyBy c n b s).host = s.host := rfl
@[simp] theorem notifyBy_part (c : Cl) (n : NoteRef) (b : NoteBy) (s : State) : (notifyBy c n b s).part = s.part := rfl
@[simp] theorem notifyBy_boot (c : Cl) (n : NoteRef) (b : NoteBy) (s : State) : (notifyBy c n b s).boot = s.boot := rfl
@[simp] theorem notifyBy_sec (c : Cl) (n : NoteRef) (b : NoteBy) (s : State) : (notifyBy c n b s).sec = s.sec := rfl
@[simp] theorem notifyBy_fab (c : Cl) (n : NoteRef) (b : NoteBy) (s : State) : (notifyBy c n b s).fab = s.fab := rfl
@[simp] theorem notifyBy_ioReply (c : Cl) (n : NoteRef) (b : NoteBy) (s : State) : (notifyBy c n b s).ioReply = s.ioReply := rfl
@[simp] theorem notifyBy_ioData (c : Cl) (n : NoteRef) (b : NoteBy) (s : State) : (notifyBy c n b s).ioData = s.ioData := rfl
@[simp] theorem notifyBy_out (c : Cl) (n : NoteRef) (b : NoteBy) (s : State) : (notifyBy c n b s).out = s.out := rfl
@[simp] theorem notifyBy_freeCount (c : Cl) (n : NoteRef) (b : NoteBy) (s : State) : (notifyBy c n b s).freeCount = s.freeCount := rfl
@[simp] theorem notifyBy_pending (c : Cl) (n : NoteRef) (b : NoteBy) (s : State) : (notifyBy c n b s).pending = s.pending := rfl

/-! setFn -/

@[simp] theorem setFn_t (f : FnId) (r : FnRec) (s : State) : (setFn f r s).t = s.t := rfl
@[simp] theorem setFn_pwr (f : FnId) (r : FnRec) (s : State) : (setFn f r s).pwr = s.pwr := rfl
@[simp] theorem setFn_arr (f : FnId) (r : FnRec) (s : State) : (setFn f r s).arr = s.arr := rfl
@[simp] theorem setFn_num (f : FnId) (r : FnRec) (s : State) : (setFn f r s).num = s.num := rfl
@[simp] theorem setFn_core (f : FnId) (r : FnRec) (s : State) : (setFn f r s).core = s.core := rfl
@[simp] theorem setFn_mem (f : FnId) (r : FnRec) (s : State) : (setFn f r s).mem = s.mem := rfl
@[simp] theorem setFn_net (f : FnId) (r : FnRec) (s : State) : (setFn f r s).net = s.net := rfl
@[simp] theorem setFn_pump (f : FnId) (r : FnRec) (s : State) : (setFn f r s).pump = s.pump := rfl
@[simp] theorem setFn_sync (f : FnId) (r : FnRec) (s : State) : (setFn f r s).sync = s.sync := rfl
@[simp] theorem setFn_part (f : FnId) (r : FnRec) (s : State) : (setFn f r s).part = s.part := rfl
@[simp] theorem setFn_boot (f : FnId) (r : FnRec) (s : State) : (setFn f r s).boot = s.boot := rfl
@[simp] theorem setFn_sec (f : FnId) (r : FnRec) (s : State) : (setFn f r s).sec = s.sec := rfl
@[simp] theorem setFn_fab (f : FnId) (r : FnRec) (s : State) : (setFn f r s).fab = s.fab := rfl
@[simp] theorem setFn_ioReply (f : FnId) (r : FnRec) (s : State) : (setFn f r s).ioReply = s.ioReply := rfl
@[simp] theorem setFn_ioData (f : FnId) (r : FnRec) (s : State) : (setFn f r s).ioData = s.ioData := rfl
@[simp] theorem setFn_out (f : FnId) (r : FnRec) (s : State) : (setFn f r s).out = s.out := rfl
@[simp] theorem setFn_freeCount (f : FnId) (r : FnRec) (s : State) : (setFn f r s).freeCount = s.freeCount := rfl
@[simp] theorem setFn_pending (f : FnId) (r : FnRec) (s : State) : (setFn f r s).pending = s.pending := rfl

/-! hostWrite -/

@[simp] theorem hostWrite_t (a : Nat) (d : List Byte) (s : State) : (hostWrite a d s).t = s.t := rfl
@[simp] theorem hostWrite_pwr (a : Nat) (d : List Byte) (s : State) : (hostWrite a d s).pwr = s.pwr := rfl
@[simp] theorem hostWrite_arr (a : Nat) (d : List Byte) (s : State) : (hostWrite a d s).arr = s.arr := rfl
@[simp] theorem hostWrite_num (a : Nat) (d : List Byte) (s : State) : (hostWrite a d s).num = s.num := rfl
@[simp] theorem hostWrite_core (a : Nat) (d : List Byte) (s : State) : (hostWrite a d s).core = s.core := rfl
@[simp] theorem hostWrite_net (a : Nat) (d : List Byte) (s : State) : (hostWrite a d s).net = s.net := rfl
@[simp] theorem hostWrite_pump (a : Nat) (d : List Byte) (s : State) : (hostWrite a d s).pump = s.pump := rfl
@[simp] theorem hostWrite_sync (a : Nat) (d : List Byte) (s : State) : (hostWrite a d s).sync = s.sync := rfl
@[simp] theorem hostWrite_host (a : Nat) (d : List Byte) (s : State) : (hostWrite a d s).host = s.host := rfl
@[simp] theorem hostWrite_part (a : Nat) (d : List Byte) (s : State) : (hostWrite a d s).part = s.part := rfl
@[simp] theorem hostWrite_boot (a : Nat) (d : List Byte) (s : State) : (hostWrite a d s).boot = s.boot := rfl
@[simp] theorem hostWrite_sec (a : Nat) (d : List Byte) (s : State) : (hostWrite a d s).sec = s.sec := rfl
@[simp] theorem hostWrite_fab (a : Nat) (d : List Byte) (s : State) : (hostWrite a d s).fab = s.fab := rfl
@[simp] theorem hostWrite_ioReply (a : Nat) (d : List Byte) (s : State) : (hostWrite a d s).ioReply = s.ioReply := rfl
@[simp] theorem hostWrite_ioData (a : Nat) (d : List Byte) (s : State) : (hostWrite a d s).ioData = s.ioData := rfl
@[simp] theorem hostWrite_out (a : Nat) (d : List Byte) (s : State) : (hostWrite a d s).out = s.out := rfl
@[simp] theorem hostWrite_freeCount (a : Nat) (d : List Byte) (s : State) : (hostWrite a d s).freeCount = s.freeCount := rfl
@[simp] theorem hostWrite_pending (a : Nat) (d : List Byte) (s : State) : (hostWrite a d s).pending = s.pending := rfl

/-! setNum -/

@[simp] theorem setNum_t (p : Fin 64) (b : NumBlock) (s : State) : (setNum p b s).t = s.t := rfl
@[simp] theorem setNum_pwr (p : Fin 64) (b : NumBlock) (s : State) : (setNum p b s).pwr = s.pwr := rfl
@[simp] theorem setNum_arr (p : Fin 64) (b : NumBlock) (s : State) : (setNum p b s).arr = s.arr := rfl
@[simp] theorem setNum_core (p : Fin 64) (b : NumBlock) (s : State) : (setNum p b s).core = s.core := rfl
@[simp] theorem setNum_mem (p : Fin 64) (b : NumBlock) (s : State) : (setNum p b s).mem = s.mem := rfl
@[simp] theorem setNum_net (p : Fin 64) (b : NumBlock) (s : State) : (setNum p b s).net = s.net := rfl
@[simp] theorem setNum_pump (p : Fin 64) (b : NumBlock) (s : State) : (setNum p b s).pump = s.pump := rfl
@[simp] theorem setNum_sync (p : Fin 64) (b : NumBlock) (s : State) : (setNum p b s).sync = s.sync := rfl
@[simp] theorem setNum_host (p : Fin 64) (b : NumBlock) (s : State) : (setNum p b s).host = s.host := rfl
@[simp] theorem setNum_part (p : Fin 64) (b : NumBlock) (s : State) : (setNum p b s).part = s.part := rfl
@[simp] theorem setNum_boot (p : Fin 64) (b : NumBlock) (s : State) : (setNum p b s).boot = s.boot := rfl
@[simp] theorem setNum_sec (p : Fin 64) (b : NumBlock) (s : State) : (setNum p b s).sec = s.sec := rfl
@[simp] theorem setNum_fab (p : Fin 64) (b : NumBlock) (s : State) : (setNum p b s).fab = s.fab := rfl
@[simp] theorem setNum_ioReply (p : Fin 64) (b : NumBlock) (s : State) : (setNum p b s).ioReply = s.ioReply := rfl
@[simp] theorem setNum_ioData (p : Fin 64) (b : NumBlock) (s : State) : (setNum p b s).ioData = s.ioData := rfl
@[simp] theorem setNum_out (p : Fin 64) (b : NumBlock) (s : State) : (setNum p b s).out = s.out := rfl
@[simp] theorem setNum_freeCount (p : Fin 64) (b : NumBlock) (s : State) : (setNum p b s).freeCount = s.freeCount := rfl
@[simp] theorem setNum_pending (p : Fin 64) (b : NumBlock) (s : State) : (setNum p b s).pending = s.pending := rfl

/-! dropXact -/

@[simp] theorem dropXact_t (id : Nat) (s : State) : (dropXact id s).t = s.t := rfl
@[simp] theorem dropXact_pwr (id : Nat) (s : State) : (dropXact id s).pwr = s.pwr := rfl
@[simp] theorem dropXact_arr (id : Nat) (s : State) : (dropXact id s).arr = s.arr := rfl
@[simp] theorem dropXact_num (id : Nat) (s : State) : (dropXact id s).num = s.num := rfl
@[simp] theorem dropXact_core (id : Nat) (s : State) : (dropXact id s).core = s.core := rfl
@[simp] theorem dropXact_mem (id : Nat) (s : State) : (dropXact id s).mem = s.mem := rfl
@[simp] theorem dropXact_pump (id : Nat) (s : State) : (dropXact id s).pump = s.pump := rfl
@[simp] theorem dropXact_sync (id : Nat) (s : State) : (dropXact id s).sync = s.sync := rfl
@[simp] theorem dropXact_host (id : Nat) (s : State) : (dropXact id s).host = s.host := rfl
@[simp] theorem dropXact_part (id : Nat) (s : State) : (dropXact id s).part = s.part := rfl
@[simp] theorem dropXact_boot (id : Nat) (s : State) : (dropXact id s).boot = s.boot := rfl
@[simp] theorem dropXact_sec (id : Nat) (s : State) : (dropXact id s).sec = s.sec := rfl
@[simp] theorem dropXact_fab (id : Nat) (s : State) : (dropXact id s).fab = s.fab := rfl
@[simp] theorem dropXact_ioReply (id : Nat) (s : State) : (dropXact id s).ioReply = s.ioReply := rfl
@[simp] theorem dropXact_ioData (id : Nat) (s : State) : (dropXact id s).ioData = s.ioData := rfl
@[simp] theorem dropXact_out (id : Nat) (s : State) : (dropXact id s).out = s.out := rfl
@[simp] theorem dropXact_freeCount (id : Nat) (s : State) : (dropXact id s).freeCount = s.freeCount := rfl
@[simp] theorem dropXact_pending (id : Nat) (s : State) : (dropXact id s).pending = s.pending := rfl

/-! setXact -/

@[simp] theorem setXact_t (x : Xact) (s : State) : (setXact x s).t = s.t := rfl
@[simp] theorem setXact_pwr (x : Xact) (s : State) : (setXact x s).pwr = s.pwr := rfl
@[simp] theorem setXact_arr (x : Xact) (s : State) : (setXact x s).arr = s.arr := rfl
@[simp] theorem setXact_num (x : Xact) (s : State) : (setXact x s).num = s.num := rfl
@[simp] theorem setXact_core (x : Xact) (s : State) : (setXact x s).core = s.core := rfl
@[simp] theorem setXact_mem (x : Xact) (s : State) : (setXact x s).mem = s.mem := rfl
@[simp] theorem setXact_pump (x : Xact) (s : State) : (setXact x s).pump = s.pump := rfl
@[simp] theorem setXact_sync (x : Xact) (s : State) : (setXact x s).sync = s.sync := rfl
@[simp] theorem setXact_host (x : Xact) (s : State) : (setXact x s).host = s.host := rfl
@[simp] theorem setXact_part (x : Xact) (s : State) : (setXact x s).part = s.part := rfl
@[simp] theorem setXact_boot (x : Xact) (s : State) : (setXact x s).boot = s.boot := rfl
@[simp] theorem setXact_sec (x : Xact) (s : State) : (setXact x s).sec = s.sec := rfl
@[simp] theorem setXact_fab (x : Xact) (s : State) : (setXact x s).fab = s.fab := rfl
@[simp] theorem setXact_ioReply (x : Xact) (s : State) : (setXact x s).ioReply = s.ioReply := rfl
@[simp] theorem setXact_ioData (x : Xact) (s : State) : (setXact x s).ioData = s.ioData := rfl
@[simp] theorem setXact_out (x : Xact) (s : State) : (setXact x s).out = s.out := rfl
@[simp] theorem setXact_freeCount (x : Xact) (s : State) : (setXact x s).freeCount = s.freeCount := rfl
@[simp] theorem setXact_pending (x : Xact) (s : State) : (setXact x s).pending = s.pending := rfl

/-! setCtr -/

@[simp] theorem setCtr_t (c : Cl) (r : RouterCtr) (s : State) : (setCtr c r s).t = s.t := rfl
@[simp] theorem setCtr_pwr (c : Cl) (r : RouterCtr) (s : State) : (setCtr c r s).pwr = s.pwr := rfl
@[simp] theorem setCtr_arr (c : Cl) (r : RouterCtr) (s : State) : (setCtr c r s).arr = s.arr := rfl
@[simp] theorem setCtr_num (c : Cl) (r : RouterCtr) (s : State) : (setCtr c r s).num = s.num := rfl
@[simp] theorem setCtr_core (c : Cl) (r : RouterCtr) (s : State) : (setCtr c r s).core = s.core := rfl
@[simp] theorem setCtr_mem (c : Cl) (r : RouterCtr) (s : State) : (setCtr c r s).mem = s.mem := rfl
@[simp] theorem setCtr_pump (c : Cl) (r : RouterCtr) (s : State) : (setCtr c r s).pump = s.pump := rfl
@[simp] theorem setCtr_sync (c : Cl) (r : RouterCtr) (s : State) : (setCtr c r s).sync = s.sync := rfl
@[simp] theorem setCtr_host (c : Cl) (r : RouterCtr) (s : State) : (setCtr c r s).host = s.host := rfl
@[simp] theorem setCtr_part (c : Cl) (r : RouterCtr) (s : State) : (setCtr c r s).part = s.part := rfl
@[simp] theorem setCtr_boot (c : Cl) (r : RouterCtr) (s : State) : (setCtr c r s).boot = s.boot := rfl
@[simp] theorem setCtr_sec (c : Cl) (r : RouterCtr) (s : State) : (setCtr c r s).sec = s.sec := rfl
@[simp] theorem setCtr_fab (c : Cl) (r : RouterCtr) (s : State) : (setCtr c r s).fab = s.fab := rfl
@[simp] theorem setCtr_ioReply (c : Cl) (r : RouterCtr) (s : State) : (setCtr c r s).ioReply = s.ioReply := rfl
@[simp] theorem setCtr_ioData (c : Cl) (r : RouterCtr) (s : State) : (setCtr c r s).ioData = s.ioData := rfl
@[simp] theorem setCtr_out (c : Cl) (r : RouterCtr) (s : State) : (setCtr c r s).out = s.out := rfl
@[simp] theorem setCtr_freeCount (c : Cl) (r : RouterCtr) (s : State) : (setCtr c r s).freeCount = s.freeCount := rfl
@[simp] theorem setCtr_pending (c : Cl) (r : RouterCtr) (s : State) : (setCtr c r s).pending = s.pending := rfl

/-! setArr -/

@[simp] theorem setArr_t (c : Cl) (a : ArrRec) (s : State) : (setArr c a s).t = s.t := rfl
@[simp] theorem setArr_pwr (c : Cl) (a : ArrRec) (s : State) : (setArr c a s).pwr = s.pwr := rfl
@[simp] theorem setArr_num (c : Cl) (a : ArrRec) (s : State) : (setArr c a s).num = s.num := rfl
@[simp] theorem setArr_core (c : Cl) (a : ArrRec) (s : State) : (setArr c a s).core = s.core := rfl
@[simp] theorem setArr_mem (c : Cl) (a : ArrRec) (s : State) : (setArr c a s).mem = s.mem := rfl
@[simp] theorem setArr_net (c : Cl) (a : ArrRec) (s : State) : (setArr c a s).net = s.net := rfl
@[simp] theorem setArr_pump (c : Cl) (a : ArrRec) (s : State) : (setArr c a s).pump = s.pump := rfl
@[simp] theorem setArr_sync (c : Cl) (a : ArrRec) (s : State) : (setArr c a s).sync = s.sync := rfl
@[simp] theorem setArr_host (c : Cl) (a : ArrRec) (s : State) : (setArr c a s).host = s.host := rfl
@[simp] theorem setArr_part (c : Cl) (a : ArrRec) (s : State) : (setArr c a s).part = s.part := rfl
@[simp] theorem setArr_boot (c : Cl) (a : ArrRec) (s : State) : (setArr c a s).boot = s.boot := rfl
@[simp] theorem setArr_sec (c : Cl) (a : ArrRec) (s : State) : (setArr c a s).sec = s.sec := rfl
@[simp] theorem setArr_fab (c : Cl) (a : ArrRec) (s : State) : (setArr c a s).fab = s.fab := rfl
@[simp] theorem setArr_ioReply (c : Cl) (a : ArrRec) (s : State) : (setArr c a s).ioReply = s.ioReply := rfl
@[simp] theorem setArr_ioData (c : Cl) (a : ArrRec) (s : State) : (setArr c a s).ioData = s.ioData := rfl
@[simp] theorem setArr_out (c : Cl) (a : ArrRec) (s : State) : (setArr c a s).out = s.out := rfl
@[simp] theorem setArr_freeCount (c : Cl) (a : ArrRec) (s : State) : (setArr c a s).freeCount = s.freeCount := rfl
@[simp] theorem setArr_pending (c : Cl) (a : ArrRec) (s : State) : (setArr c a s).pending = s.pending := rfl

/-! setTile -/

@[simp] theorem setTile_t (t : TileId) (r : TileRec) (s : State) : (setTile t r s).t = s.t := rfl
@[simp] theorem setTile_pwr (t : TileId) (r : TileRec) (s : State) : (setTile t r s).pwr = s.pwr := rfl
@[simp] theorem setTile_num (t : TileId) (r : TileRec) (s : State) : (setTile t r s).num = s.num := rfl
@[simp] theorem setTile_core (t : TileId) (r : TileRec) (s : State) : (setTile t r s).core = s.core := rfl
@[simp] theorem setTile_mem (t : TileId) (r : TileRec) (s : State) : (setTile t r s).mem = s.mem := rfl
@[simp] theorem setTile_net (t : TileId) (r : TileRec) (s : State) : (setTile t r s).net = s.net := rfl
@[simp] theorem setTile_pump (t : TileId) (r : TileRec) (s : State) : (setTile t r s).pump = s.pump := rfl
@[simp] theorem setTile_sync (t : TileId) (r : TileRec) (s : State) : (setTile t r s).sync = s.sync := rfl
@[simp] theorem setTile_host (t : TileId) (r : TileRec) (s : State) : (setTile t r s).host = s.host := rfl
@[simp] theorem setTile_part (t : TileId) (r : TileRec) (s : State) : (setTile t r s).part = s.part := rfl
@[simp] theorem setTile_boot (t : TileId) (r : TileRec) (s : State) : (setTile t r s).boot = s.boot := rfl
@[simp] theorem setTile_sec (t : TileId) (r : TileRec) (s : State) : (setTile t r s).sec = s.sec := rfl
@[simp] theorem setTile_fab (t : TileId) (r : TileRec) (s : State) : (setTile t r s).fab = s.fab := rfl
@[simp] theorem setTile_ioReply (t : TileId) (r : TileRec) (s : State) : (setTile t r s).ioReply = s.ioReply := rfl
@[simp] theorem setTile_ioData (t : TileId) (r : TileRec) (s : State) : (setTile t r s).ioData = s.ioData := rfl
@[simp] theorem setTile_out (t : TileId) (r : TileRec) (s : State) : (setTile t r s).out = s.out := rfl
@[simp] theorem setTile_freeCount (t : TileId) (r : TileRec) (s : State) : (setTile t r s).freeCount = s.freeCount := rfl
@[simp] theorem setTile_pending (t : TileId) (r : TileRec) (s : State) : (setTile t r s).pending = s.pending := rfl

/-! setMul -/

@[simp] theorem setMul_t (t : TileId) (r : MulRec) (s : State) : (setMul t r s).t = s.t := rfl
@[simp] theorem setMul_pwr (t : TileId) (r : MulRec) (s : State) : (setMul t r s).pwr = s.pwr := rfl
@[simp] theorem setMul_num (t : TileId) (r : MulRec) (s : State) : (setMul t r s).num = s.num := rfl
@[simp] theorem setMul_core (t : TileId) (r : MulRec) (s : State) : (setMul t r s).core = s.core := rfl
@[simp] theorem setMul_mem (t : TileId) (r : MulRec) (s : State) : (setMul t r s).mem = s.mem := rfl
@[simp] theorem setMul_net (t : TileId) (r : MulRec) (s : State) : (setMul t r s).net = s.net := rfl
@[simp] theorem setMul_pump (t : TileId) (r : MulRec) (s : State) : (setMul t r s).pump = s.pump := rfl
@[simp] theorem setMul_sync (t : TileId) (r : MulRec) (s : State) : (setMul t r s).sync = s.sync := rfl
@[simp] theorem setMul_host (t : TileId) (r : MulRec) (s : State) : (setMul t r s).host = s.host := rfl
@[simp] theorem setMul_part (t : TileId) (r : MulRec) (s : State) : (setMul t r s).part = s.part := rfl
@[simp] theorem setMul_boot (t : TileId) (r : MulRec) (s : State) : (setMul t r s).boot = s.boot := rfl
@[simp] theorem setMul_sec (t : TileId) (r : MulRec) (s : State) : (setMul t r s).sec = s.sec := rfl
@[simp] theorem setMul_fab (t : TileId) (r : MulRec) (s : State) : (setMul t r s).fab = s.fab := rfl
@[simp] theorem setMul_ioReply (t : TileId) (r : MulRec) (s : State) : (setMul t r s).ioReply = s.ioReply := rfl
@[simp] theorem setMul_ioData (t : TileId) (r : MulRec) (s : State) : (setMul t r s).ioData = s.ioData := rfl
@[simp] theorem setMul_out (t : TileId) (r : MulRec) (s : State) : (setMul t r s).out = s.out := rfl
@[simp] theorem setMul_freeCount (t : TileId) (r : MulRec) (s : State) : (setMul t r s).freeCount = s.freeCount := rfl
@[simp] theorem setMul_pending (t : TileId) (r : MulRec) (s : State) : (setMul t r s).pending = s.pending := rfl

/-! setSf -/

@[simp] theorem setSf_t (t : TileId) (r : SfRec) (s : State) : (setSf t r s).t = s.t := rfl
@[simp] theorem setSf_pwr (t : TileId) (r : SfRec) (s : State) : (setSf t r s).pwr = s.pwr := rfl
@[simp] theorem setSf_num (t : TileId) (r : SfRec) (s : State) : (setSf t r s).num = s.num := rfl
@[simp] theorem setSf_core (t : TileId) (r : SfRec) (s : State) : (setSf t r s).core = s.core := rfl
@[simp] theorem setSf_mem (t : TileId) (r : SfRec) (s : State) : (setSf t r s).mem = s.mem := rfl
@[simp] theorem setSf_net (t : TileId) (r : SfRec) (s : State) : (setSf t r s).net = s.net := rfl
@[simp] theorem setSf_pump (t : TileId) (r : SfRec) (s : State) : (setSf t r s).pump = s.pump := rfl
@[simp] theorem setSf_sync (t : TileId) (r : SfRec) (s : State) : (setSf t r s).sync = s.sync := rfl
@[simp] theorem setSf_host (t : TileId) (r : SfRec) (s : State) : (setSf t r s).host = s.host := rfl
@[simp] theorem setSf_part (t : TileId) (r : SfRec) (s : State) : (setSf t r s).part = s.part := rfl
@[simp] theorem setSf_boot (t : TileId) (r : SfRec) (s : State) : (setSf t r s).boot = s.boot := rfl
@[simp] theorem setSf_sec (t : TileId) (r : SfRec) (s : State) : (setSf t r s).sec = s.sec := rfl
@[simp] theorem setSf_fab (t : TileId) (r : SfRec) (s : State) : (setSf t r s).fab = s.fab := rfl
@[simp] theorem setSf_ioReply (t : TileId) (r : SfRec) (s : State) : (setSf t r s).ioReply = s.ioReply := rfl
@[simp] theorem setSf_ioData (t : TileId) (r : SfRec) (s : State) : (setSf t r s).ioData = s.ioData := rfl
@[simp] theorem setSf_out (t : TileId) (r : SfRec) (s : State) : (setSf t r s).out = s.out := rfl
@[simp] theorem setSf_freeCount (t : TileId) (r : SfRec) (s : State) : (setSf t r s).freeCount = s.freeCount := rfl
@[simp] theorem setSf_pending (t : TileId) (r : SfRec) (s : State) : (setSf t r s).pending = s.pending := rfl

/-! setMemTile -/

@[simp] theorem setMemTile_t (t : TileId) (r : MemTileRec) (s : State) : (setMemTile t r s).t = s.t := rfl
@[simp] theorem setMemTile_pwr (t : TileId) (r : MemTileRec) (s : State) : (setMemTile t r s).pwr = s.pwr := rfl
@[simp] theorem setMemTile_num (t : TileId) (r : MemTileRec) (s : State) : (setMemTile t r s).num = s.num := rfl
@[simp] theorem setMemTile_core (t : TileId) (r : MemTileRec) (s : State) : (setMemTile t r s).core = s.core := rfl
@[simp] theorem setMemTile_mem (t : TileId) (r : MemTileRec) (s : State) : (setMemTile t r s).mem = s.mem := rfl
@[simp] theorem setMemTile_net (t : TileId) (r : MemTileRec) (s : State) : (setMemTile t r s).net = s.net := rfl
@[simp] theorem setMemTile_pump (t : TileId) (r : MemTileRec) (s : State) : (setMemTile t r s).pump = s.pump := rfl
@[simp] theorem setMemTile_sync (t : TileId) (r : MemTileRec) (s : State) : (setMemTile t r s).sync = s.sync := rfl
@[simp] theorem setMemTile_host (t : TileId) (r : MemTileRec) (s : State) : (setMemTile t r s).host = s.host := rfl
@[simp] theorem setMemTile_part (t : TileId) (r : MemTileRec) (s : State) : (setMemTile t r s).part = s.part := rfl
@[simp] theorem setMemTile_boot (t : TileId) (r : MemTileRec) (s : State) : (setMemTile t r s).boot = s.boot := rfl
@[simp] theorem setMemTile_sec (t : TileId) (r : MemTileRec) (s : State) : (setMemTile t r s).sec = s.sec := rfl
@[simp] theorem setMemTile_fab (t : TileId) (r : MemTileRec) (s : State) : (setMemTile t r s).fab = s.fab := rfl
@[simp] theorem setMemTile_ioReply (t : TileId) (r : MemTileRec) (s : State) : (setMemTile t r s).ioReply = s.ioReply := rfl
@[simp] theorem setMemTile_ioData (t : TileId) (r : MemTileRec) (s : State) : (setMemTile t r s).ioData = s.ioData := rfl
@[simp] theorem setMemTile_out (t : TileId) (r : MemTileRec) (s : State) : (setMemTile t r s).out = s.out := rfl
@[simp] theorem setMemTile_freeCount (t : TileId) (r : MemTileRec) (s : State) : (setMemTile t r s).freeCount = s.freeCount := rfl
@[simp] theorem setMemTile_pending (t : TileId) (r : MemTileRec) (s : State) : (setMemTile t r s).pending = s.pending := rfl

/-! setIo -/

@[simp] theorem setIo_t (t : TileId) (r : IoRec) (s : State) : (setIo t r s).t = s.t := rfl
@[simp] theorem setIo_pwr (t : TileId) (r : IoRec) (s : State) : (setIo t r s).pwr = s.pwr := rfl
@[simp] theorem setIo_num (t : TileId) (r : IoRec) (s : State) : (setIo t r s).num = s.num := rfl
@[simp] theorem setIo_core (t : TileId) (r : IoRec) (s : State) : (setIo t r s).core = s.core := rfl
@[simp] theorem setIo_mem (t : TileId) (r : IoRec) (s : State) : (setIo t r s).mem = s.mem := rfl
@[simp] theorem setIo_net (t : TileId) (r : IoRec) (s : State) : (setIo t r s).net = s.net := rfl
@[simp] theorem setIo_pump (t : TileId) (r : IoRec) (s : State) : (setIo t r s).pump = s.pump := rfl
@[simp] theorem setIo_sync (t : TileId) (r : IoRec) (s : State) : (setIo t r s).sync = s.sync := rfl
@[simp] theorem setIo_host (t : TileId) (r : IoRec) (s : State) : (setIo t r s).host = s.host := rfl
@[simp] theorem setIo_part (t : TileId) (r : IoRec) (s : State) : (setIo t r s).part = s.part := rfl
@[simp] theorem setIo_boot (t : TileId) (r : IoRec) (s : State) : (setIo t r s).boot = s.boot := rfl
@[simp] theorem setIo_sec (t : TileId) (r : IoRec) (s : State) : (setIo t r s).sec = s.sec := rfl
@[simp] theorem setIo_fab (t : TileId) (r : IoRec) (s : State) : (setIo t r s).fab = s.fab := rfl
@[simp] theorem setIo_ioReply (t : TileId) (r : IoRec) (s : State) : (setIo t r s).ioReply = s.ioReply := rfl
@[simp] theorem setIo_ioData (t : TileId) (r : IoRec) (s : State) : (setIo t r s).ioData = s.ioData := rfl
@[simp] theorem setIo_out (t : TileId) (r : IoRec) (s : State) : (setIo t r s).out = s.out := rfl
@[simp] theorem setIo_freeCount (t : TileId) (r : IoRec) (s : State) : (setIo t r s).freeCount = s.freeCount := rfl
@[simp] theorem setIo_pending (t : TileId) (r : IoRec) (s : State) : (setIo t r s).pending = s.pending := rfl

/-! setSlotRec -/

@[simp] theorem setSlotRec_t (t : TileId) (slot : Fin 4) (n : Nat) (s : State) : (setSlotRec t slot n s).t = s.t := rfl
@[simp] theorem setSlotRec_pwr (t : TileId) (slot : Fin 4) (n : Nat) (s : State) : (setSlotRec t slot n s).pwr = s.pwr := rfl
@[simp] theorem setSlotRec_num (t : TileId) (slot : Fin 4) (n : Nat) (s : State) : (setSlotRec t slot n s).num = s.num := rfl
@[simp] theorem setSlotRec_core (t : TileId) (slot : Fin 4) (n : Nat) (s : State) : (setSlotRec t slot n s).core = s.core := rfl
@[simp] theorem setSlotRec_mem (t : TileId) (slot : Fin 4) (n : Nat) (s : State) : (setSlotRec t slot n s).mem = s.mem := rfl
@[simp] theorem setSlotRec_net (t : TileId) (slot : Fin 4) (n : Nat) (s : State) : (setSlotRec t slot n s).net = s.net := rfl
@[simp] theorem setSlotRec_pump (t : TileId) (slot : Fin 4) (n : Nat) (s : State) : (setSlotRec t slot n s).pump = s.pump := rfl
@[simp] theorem setSlotRec_sync (t : TileId) (slot : Fin 4) (n : Nat) (s : State) : (setSlotRec t slot n s).sync = s.sync := rfl
@[simp] theorem setSlotRec_host (t : TileId) (slot : Fin 4) (n : Nat) (s : State) : (setSlotRec t slot n s).host = s.host := rfl
@[simp] theorem setSlotRec_part (t : TileId) (slot : Fin 4) (n : Nat) (s : State) : (setSlotRec t slot n s).part = s.part := rfl
@[simp] theorem setSlotRec_boot (t : TileId) (slot : Fin 4) (n : Nat) (s : State) : (setSlotRec t slot n s).boot = s.boot := rfl
@[simp] theorem setSlotRec_sec (t : TileId) (slot : Fin 4) (n : Nat) (s : State) : (setSlotRec t slot n s).sec = s.sec := rfl
@[simp] theorem setSlotRec_fab (t : TileId) (slot : Fin 4) (n : Nat) (s : State) : (setSlotRec t slot n s).fab = s.fab := rfl
@[simp] theorem setSlotRec_ioReply (t : TileId) (slot : Fin 4) (n : Nat) (s : State) : (setSlotRec t slot n s).ioReply = s.ioReply := rfl
@[simp] theorem setSlotRec_ioData (t : TileId) (slot : Fin 4) (n : Nat) (s : State) : (setSlotRec t slot n s).ioData = s.ioData := rfl
@[simp] theorem setSlotRec_out (t : TileId) (slot : Fin 4) (n : Nat) (s : State) : (setSlotRec t slot n s).out = s.out := rfl
@[simp] theorem setSlotRec_freeCount (t : TileId) (slot : Fin 4) (n : Nat) (s : State) : (setSlotRec t slot n s).freeCount = s.freeCount := rfl
@[simp] theorem setSlotRec_pending (t : TileId) (slot : Fin 4) (n : Nat) (s : State) : (setSlotRec t slot n s).pending = s.pending := rfl

/-! setCtx -/

@[simp] theorem setCtx_t (x : CtxId) (r : CtxRec) (s : State) : (setCtx x r s).t = s.t := rfl
@[simp] theorem setCtx_pwr (x : CtxId) (r : CtxRec) (s : State) : (setCtx x r s).pwr = s.pwr := rfl
@[simp] theorem setCtx_arr (x : CtxId) (r : CtxRec) (s : State) : (setCtx x r s).arr = s.arr := rfl
@[simp] theorem setCtx_num (x : CtxId) (r : CtxRec) (s : State) : (setCtx x r s).num = s.num := rfl
@[simp] theorem setCtx_mem (x : CtxId) (r : CtxRec) (s : State) : (setCtx x r s).mem = s.mem := rfl
@[simp] theorem setCtx_net (x : CtxId) (r : CtxRec) (s : State) : (setCtx x r s).net = s.net := rfl
@[simp] theorem setCtx_pump (x : CtxId) (r : CtxRec) (s : State) : (setCtx x r s).pump = s.pump := rfl
@[simp] theorem setCtx_sync (x : CtxId) (r : CtxRec) (s : State) : (setCtx x r s).sync = s.sync := rfl
@[simp] theorem setCtx_host (x : CtxId) (r : CtxRec) (s : State) : (setCtx x r s).host = s.host := rfl
@[simp] theorem setCtx_part (x : CtxId) (r : CtxRec) (s : State) : (setCtx x r s).part = s.part := rfl
@[simp] theorem setCtx_boot (x : CtxId) (r : CtxRec) (s : State) : (setCtx x r s).boot = s.boot := rfl
@[simp] theorem setCtx_sec (x : CtxId) (r : CtxRec) (s : State) : (setCtx x r s).sec = s.sec := rfl
@[simp] theorem setCtx_fab (x : CtxId) (r : CtxRec) (s : State) : (setCtx x r s).fab = s.fab := rfl
@[simp] theorem setCtx_ioReply (x : CtxId) (r : CtxRec) (s : State) : (setCtx x r s).ioReply = s.ioReply := rfl
@[simp] theorem setCtx_ioData (x : CtxId) (r : CtxRec) (s : State) : (setCtx x r s).ioData = s.ioData := rfl
@[simp] theorem setCtx_out (x : CtxId) (r : CtxRec) (s : State) : (setCtx x r s).out = s.out := rfl
@[simp] theorem setCtx_freeCount (x : CtxId) (r : CtxRec) (s : State) : (setCtx x r s).freeCount = s.freeCount := rfl
@[simp] theorem setCtx_pending (x : CtxId) (r : CtxRec) (s : State) : (setCtx x r s).pending = s.pending := rfl

/-! setCore -/

@[simp] theorem setCore_t (c : Cl) (k : Nat) (r : CoreRec) (s : State) : (setCore c k r s).t = s.t := rfl
@[simp] theorem setCore_pwr (c : Cl) (k : Nat) (r : CoreRec) (s : State) : (setCore c k r s).pwr = s.pwr := rfl
@[simp] theorem setCore_arr (c : Cl) (k : Nat) (r : CoreRec) (s : State) : (setCore c k r s).arr = s.arr := rfl
@[simp] theorem setCore_num (c : Cl) (k : Nat) (r : CoreRec) (s : State) : (setCore c k r s).num = s.num := rfl
@[simp] theorem setCore_mem (c : Cl) (k : Nat) (r : CoreRec) (s : State) : (setCore c k r s).mem = s.mem := rfl
@[simp] theorem setCore_net (c : Cl) (k : Nat) (r : CoreRec) (s : State) : (setCore c k r s).net = s.net := rfl
@[simp] theorem setCore_pump (c : Cl) (k : Nat) (r : CoreRec) (s : State) : (setCore c k r s).pump = s.pump := rfl
@[simp] theorem setCore_sync (c : Cl) (k : Nat) (r : CoreRec) (s : State) : (setCore c k r s).sync = s.sync := rfl
@[simp] theorem setCore_host (c : Cl) (k : Nat) (r : CoreRec) (s : State) : (setCore c k r s).host = s.host := rfl
@[simp] theorem setCore_part (c : Cl) (k : Nat) (r : CoreRec) (s : State) : (setCore c k r s).part = s.part := rfl
@[simp] theorem setCore_boot (c : Cl) (k : Nat) (r : CoreRec) (s : State) : (setCore c k r s).boot = s.boot := rfl
@[simp] theorem setCore_sec (c : Cl) (k : Nat) (r : CoreRec) (s : State) : (setCore c k r s).sec = s.sec := rfl
@[simp] theorem setCore_fab (c : Cl) (k : Nat) (r : CoreRec) (s : State) : (setCore c k r s).fab = s.fab := rfl
@[simp] theorem setCore_ioReply (c : Cl) (k : Nat) (r : CoreRec) (s : State) : (setCore c k r s).ioReply = s.ioReply := rfl
@[simp] theorem setCore_ioData (c : Cl) (k : Nat) (r : CoreRec) (s : State) : (setCore c k r s).ioData = s.ioData := rfl
@[simp] theorem setCore_out (c : Cl) (k : Nat) (r : CoreRec) (s : State) : (setCore c k r s).out = s.out := rfl
@[simp] theorem setCore_freeCount (c : Cl) (k : Nat) (r : CoreRec) (s : State) : (setCore c k r s).freeCount = s.freeCount := rfl
@[simp] theorem setCore_pending (c : Cl) (k : Nat) (r : CoreRec) (s : State) : (setCore c k r s).pending = s.pending := rfl

/-! setEp -/

@[simp] theorem setEp_t (c : Cl) (e : Nat) (r : EpRec) (s : State) : (setEp c e r s).t = s.t := rfl
@[simp] theorem setEp_pwr (c : Cl) (e : Nat) (r : EpRec) (s : State) : (setEp c e r s).pwr = s.pwr := rfl
@[simp] theorem setEp_arr (c : Cl) (e : Nat) (r : EpRec) (s : State) : (setEp c e r s).arr = s.arr := rfl
@[simp] theorem setEp_num (c : Cl) (e : Nat) (r : EpRec) (s : State) : (setEp c e r s).num = s.num := rfl
@[simp] theorem setEp_core (c : Cl) (e : Nat) (r : EpRec) (s : State) : (setEp c e r s).core = s.core := rfl
@[simp] theorem setEp_mem (c : Cl) (e : Nat) (r : EpRec) (s : State) : (setEp c e r s).mem = s.mem := rfl
@[simp] theorem setEp_net (c : Cl) (e : Nat) (r : EpRec) (s : State) : (setEp c e r s).net = s.net := rfl
@[simp] theorem setEp_pump (c : Cl) (e : Nat) (r : EpRec) (s : State) : (setEp c e r s).pump = s.pump := rfl
@[simp] theorem setEp_host (c : Cl) (e : Nat) (r : EpRec) (s : State) : (setEp c e r s).host = s.host := rfl
@[simp] theorem setEp_part (c : Cl) (e : Nat) (r : EpRec) (s : State) : (setEp c e r s).part = s.part := rfl
@[simp] theorem setEp_boot (c : Cl) (e : Nat) (r : EpRec) (s : State) : (setEp c e r s).boot = s.boot := rfl
@[simp] theorem setEp_sec (c : Cl) (e : Nat) (r : EpRec) (s : State) : (setEp c e r s).sec = s.sec := rfl
@[simp] theorem setEp_fab (c : Cl) (e : Nat) (r : EpRec) (s : State) : (setEp c e r s).fab = s.fab := rfl
@[simp] theorem setEp_ioReply (c : Cl) (e : Nat) (r : EpRec) (s : State) : (setEp c e r s).ioReply = s.ioReply := rfl
@[simp] theorem setEp_ioData (c : Cl) (e : Nat) (r : EpRec) (s : State) : (setEp c e r s).ioData = s.ioData := rfl
@[simp] theorem setEp_out (c : Cl) (e : Nat) (r : EpRec) (s : State) : (setEp c e r s).out = s.out := rfl
@[simp] theorem setEp_freeCount (c : Cl) (e : Nat) (r : EpRec) (s : State) : (setEp c e r s).freeCount = s.freeCount := rfl
@[simp] theorem setEp_pending (c : Cl) (e : Nat) (r : EpRec) (s : State) : (setEp c e r s).pending = s.pending := rfl

/-! setSyncRegs -/

@[simp] theorem setSyncRegs_t (c : Cl) (r : SyncRegs) (s : State) : (setSyncRegs c r s).t = s.t := rfl
@[simp] theorem setSyncRegs_pwr (c : Cl) (r : SyncRegs) (s : State) : (setSyncRegs c r s).pwr = s.pwr := rfl
@[simp] theorem setSyncRegs_arr (c : Cl) (r : SyncRegs) (s : State) : (setSyncRegs c r s).arr = s.arr := rfl
@[simp] theorem setSyncRegs_num (c : Cl) (r : SyncRegs) (s : State) : (setSyncRegs c r s).num = s.num := rfl
@[simp] theorem setSyncRegs_core (c : Cl) (r : SyncRegs) (s : State) : (setSyncRegs c r s).core = s.core := rfl
@[simp] theorem setSyncRegs_mem (c : Cl) (r : SyncRegs) (s : State) : (setSyncRegs c r s).mem = s.mem := rfl
@[simp] theorem setSyncRegs_net (c : Cl) (r : SyncRegs) (s : State) : (setSyncRegs c r s).net = s.net := rfl
@[simp] theorem setSyncRegs_pump (c : Cl) (r : SyncRegs) (s : State) : (setSyncRegs c r s).pump = s.pump := rfl
@[simp] theorem setSyncRegs_host (c : Cl) (r : SyncRegs) (s : State) : (setSyncRegs c r s).host = s.host := rfl
@[simp] theorem setSyncRegs_part (c : Cl) (r : SyncRegs) (s : State) : (setSyncRegs c r s).part = s.part := rfl
@[simp] theorem setSyncRegs_boot (c : Cl) (r : SyncRegs) (s : State) : (setSyncRegs c r s).boot = s.boot := rfl
@[simp] theorem setSyncRegs_sec (c : Cl) (r : SyncRegs) (s : State) : (setSyncRegs c r s).sec = s.sec := rfl
@[simp] theorem setSyncRegs_fab (c : Cl) (r : SyncRegs) (s : State) : (setSyncRegs c r s).fab = s.fab := rfl
@[simp] theorem setSyncRegs_ioReply (c : Cl) (r : SyncRegs) (s : State) : (setSyncRegs c r s).ioReply = s.ioReply := rfl
@[simp] theorem setSyncRegs_ioData (c : Cl) (r : SyncRegs) (s : State) : (setSyncRegs c r s).ioData = s.ioData := rfl
@[simp] theorem setSyncRegs_out (c : Cl) (r : SyncRegs) (s : State) : (setSyncRegs c r s).out = s.out := rfl
@[simp] theorem setSyncRegs_freeCount (c : Cl) (r : SyncRegs) (s : State) : (setSyncRegs c r s).freeCount = s.freeCount := rfl
@[simp] theorem setSyncRegs_pending (c : Cl) (r : SyncRegs) (s : State) : (setSyncRegs c r s).pending = s.pending := rfl

/-! setCombiner -/

@[simp] theorem setCombiner_t (c : Cl) (l : List Contribution) (s : State) : (setCombiner c l s).t = s.t := rfl
@[simp] theorem setCombiner_pwr (c : Cl) (l : List Contribution) (s : State) : (setCombiner c l s).pwr = s.pwr := rfl
@[simp] theorem setCombiner_arr (c : Cl) (l : List Contribution) (s : State) : (setCombiner c l s).arr = s.arr := rfl
@[simp] theorem setCombiner_num (c : Cl) (l : List Contribution) (s : State) : (setCombiner c l s).num = s.num := rfl
@[simp] theorem setCombiner_core (c : Cl) (l : List Contribution) (s : State) : (setCombiner c l s).core = s.core := rfl
@[simp] theorem setCombiner_mem (c : Cl) (l : List Contribution) (s : State) : (setCombiner c l s).mem = s.mem := rfl
@[simp] theorem setCombiner_net (c : Cl) (l : List Contribution) (s : State) : (setCombiner c l s).net = s.net := rfl
@[simp] theorem setCombiner_pump (c : Cl) (l : List Contribution) (s : State) : (setCombiner c l s).pump = s.pump := rfl
@[simp] theorem setCombiner_host (c : Cl) (l : List Contribution) (s : State) : (setCombiner c l s).host = s.host := rfl
@[simp] theorem setCombiner_part (c : Cl) (l : List Contribution) (s : State) : (setCombiner c l s).part = s.part := rfl
@[simp] theorem setCombiner_boot (c : Cl) (l : List Contribution) (s : State) : (setCombiner c l s).boot = s.boot := rfl
@[simp] theorem setCombiner_sec (c : Cl) (l : List Contribution) (s : State) : (setCombiner c l s).sec = s.sec := rfl
@[simp] theorem setCombiner_fab (c : Cl) (l : List Contribution) (s : State) : (setCombiner c l s).fab = s.fab := rfl
@[simp] theorem setCombiner_ioReply (c : Cl) (l : List Contribution) (s : State) : (setCombiner c l s).ioReply = s.ioReply := rfl
@[simp] theorem setCombiner_ioData (c : Cl) (l : List Contribution) (s : State) : (setCombiner c l s).ioData = s.ioData := rfl
@[simp] theorem setCombiner_out (c : Cl) (l : List Contribution) (s : State) : (setCombiner c l s).out = s.out := rfl
@[simp] theorem setCombiner_freeCount (c : Cl) (l : List Contribution) (s : State) : (setCombiner c l s).freeCount = s.freeCount := rfl
@[simp] theorem setCombiner_pending (c : Cl) (l : List Contribution) (s : State) : (setCombiner c l s).pending = s.pending := rfl

/-! setCoast -/

@[simp] theorem setCoast_pwr (b : Bool) (s : State) : (setCoast b s).pwr = s.pwr := rfl
@[simp] theorem setCoast_arr (b : Bool) (s : State) : (setCoast b s).arr = s.arr := rfl
@[simp] theorem setCoast_num (b : Bool) (s : State) : (setCoast b s).num = s.num := rfl
@[simp] theorem setCoast_core (b : Bool) (s : State) : (setCoast b s).core = s.core := rfl
@[simp] theorem setCoast_mem (b : Bool) (s : State) : (setCoast b s).mem = s.mem := rfl
@[simp] theorem setCoast_net (b : Bool) (s : State) : (setCoast b s).net = s.net := rfl
@[simp] theorem setCoast_pump (b : Bool) (s : State) : (setCoast b s).pump = s.pump := rfl
@[simp] theorem setCoast_sync (b : Bool) (s : State) : (setCoast b s).sync = s.sync := rfl
@[simp] theorem setCoast_host (b : Bool) (s : State) : (setCoast b s).host = s.host := rfl
@[simp] theorem setCoast_part (b : Bool) (s : State) : (setCoast b s).part = s.part := rfl
@[simp] theorem setCoast_boot (b : Bool) (s : State) : (setCoast b s).boot = s.boot := rfl
@[simp] theorem setCoast_sec (b : Bool) (s : State) : (setCoast b s).sec = s.sec := rfl
@[simp] theorem setCoast_fab (b : Bool) (s : State) : (setCoast b s).fab = s.fab := rfl
@[simp] theorem setCoast_ioReply (b : Bool) (s : State) : (setCoast b s).ioReply = s.ioReply := rfl
@[simp] theorem setCoast_ioData (b : Bool) (s : State) : (setCoast b s).ioData = s.ioData := rfl
@[simp] theorem setCoast_out (b : Bool) (s : State) : (setCoast b s).out = s.out := rfl
@[simp] theorem setCoast_freeCount (b : Bool) (s : State) : (setCoast b s).freeCount = s.freeCount := rfl
@[simp] theorem setCoast_pending (b : Bool) (s : State) : (setCoast b s).pending = s.pending := rfl

/-! setQ -/

@[simp] theorem setQ_t (f : FnId) (q : Fin 4) (r : QRec) (s : State) : (setQ f q r s).t = s.t := rfl
@[simp] theorem setQ_pwr (f : FnId) (q : Fin 4) (r : QRec) (s : State) : (setQ f q r s).pwr = s.pwr := rfl
@[simp] theorem setQ_arr (f : FnId) (q : Fin 4) (r : QRec) (s : State) : (setQ f q r s).arr = s.arr := rfl
@[simp] theorem setQ_num (f : FnId) (q : Fin 4) (r : QRec) (s : State) : (setQ f q r s).num = s.num := rfl
@[simp] theorem setQ_core (f : FnId) (q : Fin 4) (r : QRec) (s : State) : (setQ f q r s).core = s.core := rfl
@[simp] theorem setQ_mem (f : FnId) (q : Fin 4) (r : QRec) (s : State) : (setQ f q r s).mem = s.mem := rfl
@[simp] theorem setQ_net (f : FnId) (q : Fin 4) (r : QRec) (s : State) : (setQ f q r s).net = s.net := rfl
@[simp] theorem setQ_pump (f : FnId) (q : Fin 4) (r : QRec) (s : State) : (setQ f q r s).pump = s.pump := rfl
@[simp] theorem setQ_sync (f : FnId) (q : Fin 4) (r : QRec) (s : State) : (setQ f q r s).sync = s.sync := rfl
@[simp] theorem setQ_part (f : FnId) (q : Fin 4) (r : QRec) (s : State) : (setQ f q r s).part = s.part := rfl
@[simp] theorem setQ_boot (f : FnId) (q : Fin 4) (r : QRec) (s : State) : (setQ f q r s).boot = s.boot := rfl
@[simp] theorem setQ_sec (f : FnId) (q : Fin 4) (r : QRec) (s : State) : (setQ f q r s).sec = s.sec := rfl
@[simp] theorem setQ_fab (f : FnId) (q : Fin 4) (r : QRec) (s : State) : (setQ f q r s).fab = s.fab := rfl
@[simp] theorem setQ_ioReply (f : FnId) (q : Fin 4) (r : QRec) (s : State) : (setQ f q r s).ioReply = s.ioReply := rfl
@[simp] theorem setQ_ioData (f : FnId) (q : Fin 4) (r : QRec) (s : State) : (setQ f q r s).ioData = s.ioData := rfl
@[simp] theorem setQ_out (f : FnId) (q : Fin 4) (r : QRec) (s : State) : (setQ f q r s).out = s.out := rfl
@[simp] theorem setQ_freeCount (f : FnId) (q : Fin 4) (r : QRec) (s : State) : (setQ f q r s).freeCount = s.freeCount := rfl
@[simp] theorem setQ_pending (f : FnId) (q : Fin 4) (r : QRec) (s : State) : (setQ f q r s).pending = s.pending := rfl

/-! updCxl -/

@[simp] theorem updCxl_t (p : Fin 2) (f : CxlPort → CxlPort) (s : State) : (updCxl p f s).t = s.t := rfl
@[simp] theorem updCxl_pwr (p : Fin 2) (f : CxlPort → CxlPort) (s : State) : (updCxl p f s).pwr = s.pwr := rfl
@[simp] theorem updCxl_arr (p : Fin 2) (f : CxlPort → CxlPort) (s : State) : (updCxl p f s).arr = s.arr := rfl
@[simp] theorem updCxl_num (p : Fin 2) (f : CxlPort → CxlPort) (s : State) : (updCxl p f s).num = s.num := rfl
@[simp] theorem updCxl_core (p : Fin 2) (f : CxlPort → CxlPort) (s : State) : (updCxl p f s).core = s.core := rfl
@[simp] theorem updCxl_mem (p : Fin 2) (f : CxlPort → CxlPort) (s : State) : (updCxl p f s).mem = s.mem := rfl
@[simp] theorem updCxl_net (p : Fin 2) (f : CxlPort → CxlPort) (s : State) : (updCxl p f s).net = s.net := rfl
@[simp] theorem updCxl_pump (p : Fin 2) (f : CxlPort → CxlPort) (s : State) : (updCxl p f s).pump = s.pump := rfl
@[simp] theorem updCxl_sync (p : Fin 2) (f : CxlPort → CxlPort) (s : State) : (updCxl p f s).sync = s.sync := rfl
@[simp] theorem updCxl_part (p : Fin 2) (f : CxlPort → CxlPort) (s : State) : (updCxl p f s).part = s.part := rfl
@[simp] theorem updCxl_boot (p : Fin 2) (f : CxlPort → CxlPort) (s : State) : (updCxl p f s).boot = s.boot := rfl
@[simp] theorem updCxl_sec (p : Fin 2) (f : CxlPort → CxlPort) (s : State) : (updCxl p f s).sec = s.sec := rfl
@[simp] theorem updCxl_fab (p : Fin 2) (f : CxlPort → CxlPort) (s : State) : (updCxl p f s).fab = s.fab := rfl
@[simp] theorem updCxl_ioReply (p : Fin 2) (f : CxlPort → CxlPort) (s : State) : (updCxl p f s).ioReply = s.ioReply := rfl
@[simp] theorem updCxl_ioData (p : Fin 2) (f : CxlPort → CxlPort) (s : State) : (updCxl p f s).ioData = s.ioData := rfl
@[simp] theorem updCxl_out (p : Fin 2) (f : CxlPort → CxlPort) (s : State) : (updCxl p f s).out = s.out := rfl
@[simp] theorem updCxl_freeCount (p : Fin 2) (f : CxlPort → CxlPort) (s : State) : (updCxl p f s).freeCount = s.freeCount := rfl
@[simp] theorem updCxl_pending (p : Fin 2) (f : CxlPort → CxlPort) (s : State) : (updCxl p f s).pending = s.pending := rfl

/-! setDry -/

@[simp] theorem setDry_t (f : DryMap → DryMap) (s : State) : (setDry f s).t = s.t := rfl
@[simp] theorem setDry_pwr (f : DryMap → DryMap) (s : State) : (setDry f s).pwr = s.pwr := rfl
@[simp] theorem setDry_arr (f : DryMap → DryMap) (s : State) : (setDry f s).arr = s.arr := rfl
@[simp] theorem setDry_num (f : DryMap → DryMap) (s : State) : (setDry f s).num = s.num := rfl
@[simp] theorem setDry_core (f : DryMap → DryMap) (s : State) : (setDry f s).core = s.core := rfl
@[simp] theorem setDry_mem (f : DryMap → DryMap) (s : State) : (setDry f s).mem = s.mem := rfl
@[simp] theorem setDry_pump (f : DryMap → DryMap) (s : State) : (setDry f s).pump = s.pump := rfl
@[simp] theorem setDry_sync (f : DryMap → DryMap) (s : State) : (setDry f s).sync = s.sync := rfl
@[simp] theorem setDry_host (f : DryMap → DryMap) (s : State) : (setDry f s).host = s.host := rfl
@[simp] theorem setDry_part (f : DryMap → DryMap) (s : State) : (setDry f s).part = s.part := rfl
@[simp] theorem setDry_boot (f : DryMap → DryMap) (s : State) : (setDry f s).boot = s.boot := rfl
@[simp] theorem setDry_sec (f : DryMap → DryMap) (s : State) : (setDry f s).sec = s.sec := rfl
@[simp] theorem setDry_fab (f : DryMap → DryMap) (s : State) : (setDry f s).fab = s.fab := rfl
@[simp] theorem setDry_ioReply (f : DryMap → DryMap) (s : State) : (setDry f s).ioReply = s.ioReply := rfl
@[simp] theorem setDry_ioData (f : DryMap → DryMap) (s : State) : (setDry f s).ioData = s.ioData := rfl
@[simp] theorem setDry_out (f : DryMap → DryMap) (s : State) : (setDry f s).out = s.out := rfl
@[simp] theorem setDry_freeCount (f : DryMap → DryMap) (s : State) : (setDry f s).freeCount = s.freeCount := rfl
@[simp] theorem setDry_pending (f : DryMap → DryMap) (s : State) : (setDry f s).pending = s.pending := rfl

/-! setSlot -/

@[simp] theorem setSlot_t (i : Fin 2) (v : SlotFw) (s : State) : (setSlot i v s).t = s.t := rfl
@[simp] theorem setSlot_pwr (i : Fin 2) (v : SlotFw) (s : State) : (setSlot i v s).pwr = s.pwr := rfl
@[simp] theorem setSlot_arr (i : Fin 2) (v : SlotFw) (s : State) : (setSlot i v s).arr = s.arr := rfl
@[simp] theorem setSlot_num (i : Fin 2) (v : SlotFw) (s : State) : (setSlot i v s).num = s.num := rfl
@[simp] theorem setSlot_core (i : Fin 2) (v : SlotFw) (s : State) : (setSlot i v s).core = s.core := rfl
@[simp] theorem setSlot_mem (i : Fin 2) (v : SlotFw) (s : State) : (setSlot i v s).mem = s.mem := rfl
@[simp] theorem setSlot_net (i : Fin 2) (v : SlotFw) (s : State) : (setSlot i v s).net = s.net := rfl
@[simp] theorem setSlot_pump (i : Fin 2) (v : SlotFw) (s : State) : (setSlot i v s).pump = s.pump := rfl
@[simp] theorem setSlot_sync (i : Fin 2) (v : SlotFw) (s : State) : (setSlot i v s).sync = s.sync := rfl
@[simp] theorem setSlot_host (i : Fin 2) (v : SlotFw) (s : State) : (setSlot i v s).host = s.host := rfl
@[simp] theorem setSlot_part (i : Fin 2) (v : SlotFw) (s : State) : (setSlot i v s).part = s.part := rfl
@[simp] theorem setSlot_sec (i : Fin 2) (v : SlotFw) (s : State) : (setSlot i v s).sec = s.sec := rfl
@[simp] theorem setSlot_fab (i : Fin 2) (v : SlotFw) (s : State) : (setSlot i v s).fab = s.fab := rfl
@[simp] theorem setSlot_ioReply (i : Fin 2) (v : SlotFw) (s : State) : (setSlot i v s).ioReply = s.ioReply := rfl
@[simp] theorem setSlot_ioData (i : Fin 2) (v : SlotFw) (s : State) : (setSlot i v s).ioData = s.ioData := rfl
@[simp] theorem setSlot_out (i : Fin 2) (v : SlotFw) (s : State) : (setSlot i v s).out = s.out := rfl
@[simp] theorem setSlot_freeCount (i : Fin 2) (v : SlotFw) (s : State) : (setSlot i v s).freeCount = s.freeCount := rfl
@[simp] theorem setSlot_pending (i : Fin 2) (v : SlotFw) (s : State) : (setSlot i v s).pending = s.pending := rfl

end Sys2Proof.Machine
end

