-- ==== Sys2Proof/Laws/Read.lean ====
section
/-! SUPPORT. Keys name one unit each, and a record reads back as it was written while every other record
stays. -/

namespace Sys2Proof.Machine

open Sys2Proof

/-! ### Keys -/

theorem ck_inj {a b : Cl} (h : ck a = ck b) : a = b := by
  obtain ⟨w, x, y⟩ := a
  obtain ⟨w', x', y'⟩ := b
  simp only [ck] at h
  have h1 : w = w' := Fin.ext (by omega)
  have h2 : x = x' := Fin.ext (by omega)
  have h3 : y = y' := Fin.ext (by omega)
  rw [h1, h2, h3]

theorem xk_inj {a b : CtxId} (h : xk a = xk b) : a = b := by
  obtain ⟨c, k, n⟩ := a
  obtain ⟨c', k', n'⟩ := b
  simp only [xk] at h
  have h1 : c = c' := ck_inj (by omega)
  have h2 : k = k' := Fin.ext (by rw [h1] at h; omega)
  have h3 : n = n' := Fin.ext (by omega)
  rw [h1, h2, h3]

theorem tk_inj {a b : TileId} (h : tk a = tk b) : a = b := by
  obtain ⟨c, t⟩ := a
  obtain ⟨c', t'⟩ := b
  simp only [tk] at h
  have h1 : c = c' := ck_inj (by omega)
  have h2 : t = t' := Fin.ext (by omega)
  rw [h1, h2]

theorem ck_eq {a b : Cl} : ck a = ck b ↔ a = b := ⟨ck_inj, fun h => h ▸ rfl⟩
theorem xk_eq {a b : CtxId} : xk a = xk b ↔ a = b := ⟨xk_inj, fun h => h ▸ rfl⟩
theorem tk_eq {a b : TileId} : tk a = tk b ↔ a = b := ⟨tk_inj, fun h => h ▸ rfl⟩

theorem fnKey_eq {a b : FnId} : fnKey a = fnKey b ↔ a = b := by
  constructor
  · intro h
    obtain ⟨p, v⟩ := a
    obtain ⟨p', v'⟩ := b
    simp only [fnKey] at h
    have h1 : p = p' := Fin.ext (by omega)
    have h2 : v = v' := Fin.ext (by omega)
    rw [h1, h2]
  · exact fun h => h ▸ rfl

/-! ### Records -/

theorem ctxRec_setCtx (x y : CtxId) (r : CtxRec) (s : State) : ctxRec (setCtx x r s) y = if y = x then r else ctxRec s y := by
  simp only [ctxRec, setCtx, SMap.get_set, xk_eq]

@[simp] theorem ctxRec_setCtx_self (x : CtxId) (r : CtxRec) (s : State) : ctxRec (setCtx x r s) x = r := by
  simp [ctxRec_setCtx]

@[simp] theorem ctxRec_updCtx_self (x : CtxId) (f : CtxRec → CtxRec) (s : State) : ctxRec (updCtx x f s) x = f (ctxRec s x) := by
  simp [updCtx]

theorem ctxRec_updCtx_ne (x y : CtxId) (f : CtxRec → CtxRec) (s : State) (h : y ≠ x) : ctxRec (updCtx x f s) y = ctxRec s y := by
  simp [updCtx, ctxRec_setCtx, h]

@[simp] theorem ctxRec_setCore (x : CtxId) (c : Cl) (k : Nat) (r : CoreRec) (s : State) : ctxRec (setCore c k r s) x = ctxRec s x := rfl
@[simp] theorem coreRec_setCtx (x : CtxId) (c : Cl) (k : Nat) (r : CtxRec) (s : State) : coreRec (setCtx x r s) c k = coreRec s c k := rfl
@[simp] theorem coreRec_setCore_self (c : Cl) (k : Nat) (r : CoreRec) (s : State) : coreRec (setCore c k r s) c k = r := by
  simp [coreRec, setCore]

theorem tileOf_setTile (t u : TileId) (r : TileRec) (s : State) : tileOf (setTile t r s) u = if u = t then r else tileOf s u := by
  simp only [tileOf, setTile, SMap.get_set, tk_eq]

theorem arrOf_setArr (c d : Cl) (r : ArrRec) (s : State) : arrOf (setArr c r s) d = if d = c then r else arrOf s d := by
  simp only [arrOf, setArr, SMap.get_set, ck_eq]

theorem opRec_setOp (c d : Cl) (r : OpRec) (s : State) : opRec (setOp c r s) d = if d = c then r else opRec s d := by
  simp only [opRec, setOp, SMap.get_set, ck_eq]

theorem sleepOf_setSleep (c d : Cl) (v : Sleep) (s : State) : sleepOf (setSleep c v s) d = if d = c then v else sleepOf s d := by
  simp only [sleepOf, setSleep, SMap.get_set, ck_eq]

theorem fieldRec_setField (f g : Fin 192) (r : FieldRec) (s : State) : fieldRec (setField f r s) g = if g = f then r else fieldRec s g := by
  simp only [fieldRec, setField, SMap.get_set, Fin.val_inj]

theorem portRec_setPort (p q : Fin 16) (r : PortRec) (s : State) : portRec (setPort p r s) q = if q = p then r else portRec s q := by
  simp only [portRec, setPort, SMap.get_set, Fin.val_inj]

theorem partOf_setPart (p q : Fin 64) (r : Option PartRec) (s : State) : partOf (setPart p r s) q = if q = p then r else partOf s q := by
  simp only [partOf, setPart, SMap.get_set, Fin.val_inj]

theorem numBlock_setNum (p q : Fin 64) (b : NumBlock) (s : State) : numBlock (setNum p b s) q = if q = p then b else numBlock s q := by
  simp only [numBlock, setNum, SMap.get_set, Fin.val_inj]

theorem fnRec_setFn (f g : FnId) (r : FnRec) (s : State) : fnRec (setFn f r s) g = if g = f then r else fnRec s g := by
  simp only [fnRec, setFn, SMap.get_set, fnKey_eq]

/-! ### Memory -/

theorem readBytes_length (m : Memory) (k n : Nat) : (readBytes m k n).length = n := by simp [readBytes]

theorem get_writeBytes_lt (m : Memory) (k j : Nat) (d : List Byte) (h : j < k) : SMap.get 0 (writeBytes m k d) j = SMap.get 0 m j := by
  induction d generalizing m k with
  | nil => rfl
  | cons b d ih => rw [writeBytes, ih _ _ (by omega), SMap.get_set_ne _ _ _ (by omega)]

theorem get_writeBytes (m : Memory) (k j : Nat) (d : List Byte) :
    SMap.get 0 (writeBytes m k d) j = if k ≤ j ∧ j < k + d.length then d.getD (j - k) 0 else SMap.get 0 m j := by
  induction d generalizing m k with
  | nil => rw [if_neg (by simp only [List.length_nil]; omega)]; rfl
  | cons b d ih =>
    rw [writeBytes, ih]
    by_cases h : j = k
    · subst h
      rw [if_neg (by omega), if_pos (by simp only [List.length_cons]; omega), SMap.get_set_self, Nat.sub_self]; rfl
    · by_cases h1 : k + 1 ≤ j ∧ j < k + 1 + d.length
      · rw [if_pos h1, if_pos (by simp; omega)]
        have : j - k = (j - (k + 1)) + 1 := by omega
        simp [this]
      · rw [if_neg h1, if_neg (by simp; omega), SMap.get_set_ne _ _ _ h]

/-- Writing bytes keeps memory's canonical form. -/
theorem writeBytes_wf (m : Memory) (k : Nat) (d : List Byte) (h : SMap.wf 0 m = true) : SMap.wf 0 (writeBytes m k d) = true := by
  induction d generalizing m k with
  | nil => exact h
  | cons b d ih => exact ih _ _ (SMap.wf_set 0 m k b h)

end Sys2Proof.Machine
end

