-- ==== Sys2Proof/Laws/Events.lean ====
section
/-! SUPPORT. Posting events writes queues, the flash log and host memory alone. -/

namespace Sys2Proof.Machine

open Sys2Proof

theorem OnlyEvents.refl (s : State) : OnlyEvents s s := rfl

theorem OnlyEvents.trans {s t u : State} (h : OnlyEvents s t) (g : OnlyEvents t u) : OnlyEvents s u := by
  unfold OnlyEvents at *
  rw [g, h]

theorem sendMsix_only (f : FnId) (v : Fin 8) (s : State) : OnlyEvents s (sendMsix f v s) := by
  unfold sendMsix
  dsimp only
  split <;> rfl

theorem deliver_only (f : FnId) (e : EvCode) (u : BitVec 32) (n : Word) (d : List Byte) (s : State) :
    OnlyEvents s (deliver f e u n d s) := by
  unfold deliver
  dsimp only
  split
  · rfl
  · split
    · rfl
    · split
      · exact OnlyEvents.trans (by rfl) (sendMsix_only _ _ _)
      · rfl

theorem foldl_only {α : Type} (g : State → α → State) (h : ∀ s a, OnlyEvents s (g s a)) (l : List α) (s : State) :
    OnlyEvents s (l.foldl g s) := by
  induction l generalizing s with
  | nil => rfl
  | cons a l ih => exact (h s a).trans (ih _)

theorem log_only (s : State) (l : List (List Byte)) : OnlyEvents s { s with boot := { s.boot with log := l } } := rfl

theorem postTo_only (e : EvCode) (u : BitVec 32) (ps : List (Fin 64)) (all : Bool) (n : Word) (d : List Byte) (s : State) :
    OnlyEvents s (postTo e u ps all n d s) := by
  unfold postTo
  dsimp only
  split <;> split
  · exact log_only s _
  · exact (log_only s _).trans (foldl_only _ (fun s f => deliver_only f e u n d s) _ _)
  · rfl
  · exact foldl_only _ (fun s f => deliver_only f e u n d s) _ _

theorem postEvent_only (e : EvCode) (u : BitVec 32) (p : Option (Fin 64)) (n : Word) (d : List Byte) (s : State) :
    OnlyEvents s (postEvent e u p n d s) := postTo_only _ _ _ _ _ _ _

theorem wrapEvent_only (u : BitVec 32) (a : Word) (op : Nat) (p : Option (Fin 64)) (old : Word) (n : Nat) (s : State) :
    OnlyEvents s (wrapEvent u a op p old n s) := by
  unfold wrapEvent
  split
  · rfl
  · exact postEvent_only _ _ _ _ _ _

theorem counterWrap_only (a : Word) (p : Option (Fin 64)) (old : Word) (n : Nat) (s : State) :
    OnlyEvents s (counterWrap a p old n s) := wrapEvent_only _ _ _ _ _ _ _

/-- A counter below its wrap posts nothing. -/
theorem wrapEvent_room (u : BitVec 32) (a : Word) (op : Nat) (p : Option (Fin 64)) (old : Word) (n : Nat) (s : State)
    (h : old.toNat % 2 ^ 48 + n < 2 ^ 48) : wrapEvent u a op p old n s = s := if_pos h

theorem counterWrap_room (a : Word) (p : Option (Fin 64)) (old : Word) (n : Nat) (s : State)
    (h : old.toNat % 2 ^ 48 + n < 2 ^ 48) : counterWrap a p old n s = s := if_pos h

end Sys2Proof.Machine
end

