-- ==== Sys2Proof/Tests/Slice0.lean ====
section
/-! SUPPORT. Tests of the model: ill-formed commands are refused, worked examples of spec/ come out as printed, and for
every statement with hypotheses a concrete state and operands meet them. -/

namespace Sys2Proof.Tests

set_option Elab.async false

open Sys2Proof Sys2Proof.Machine

/-! ### Small states -/

/-- Cluster w0.c(0,0) and its first core's first context. -/
def c0 : Cl := ⟨0, 0, 0⟩
def x0 : CtxId := ⟨c0, 0, 0⟩
def t0 (k : Fin 32) : TileId := ⟨c0, k⟩

/-- A running module whose partition 1 holds bed w0.b(0,0). -/
def on : State :=
  { State.reset with
    pwr := { rails := true, standby := true }
    boot := { ready := true }
    part := { parts := [(1, some { port := 0, vf := 1, beds := [0], state := .active })]
              bind := (bedClusters 0).foldl (fun m c => m.set none (ck c) (some 1)) [] } }

/-- As `on`, with context `x0` in the given state. -/
def cx (r : CtxRec) : State := { on with core := { ctxs := [(0, r)], cores := [(0, { lines := [0, 64] })] } }

/-- Context `x0` ready at 0x1000 with the integer registers x5 to x8 given. -/
def rdy (a b c d : Word) : State :=
  cx { state := .ready, pc := 0x1000, x := ((((Vector.replicate 32 0).set 5 a).set 6 b).set 7 c).set 8 d }

/-- A request in a given phase. -/
def xq (who : Requester) (k : ReqKind) (a : Word) (n : Nat) (d : List Byte) (use : Use) (ph : Phase) : Xact :=
  { id := 7, who := who, part := some 1, kind := k, addr := a, phys := none, len := n, data := d, operand := 0, sat := false, ra := false
    epoch := 0, src := c0, dst := c0, out := false, pos := c0, vc1 := false, since := 0, phase := ph, resent := false
    timer := some 0, dead := false, again := false, use := use }

/-- With a request and an endpoint. -/
def withReq (q : Xact) (s : State) : State := { s with net := { s.net with xacts := [q] } }
def withEp (e : Nat) (r : EpRec) (s : State) : State := { s with sync := { s.sync with eps := [(e, r)] } }

/-! ### Witnesses: cores -/

theorem witness_RetireAndRegisterWriteFrame : IssuedRoom (rdy 1 2 3 4) x0 := by decide +kernel

theorem witness_IntegerAndBranchResults :
    (Issues (rdy 1 2 3 4) x0 ([.x 4, .x 5] ++ src2Regs (.reg 6)) ∧ divZero .div false (src2 (rdy 1 2 3 4) x0 (.reg 6)) = false ∧
      int64 .div (xr (rdy 1 2 3 4) x0 5) (src2 (rdy 1 2 3 4) x0 (.reg 6)) = ⟨0, false⟩) ∧
    (divZero .add true (src2 (rdy 0x7FFFFFFF 1 0 0) x0 (.reg 6)) = false ∧
      int32 .add (xr (rdy 0x7FFFFFFF 1 0 0) x0 5) (src2 (rdy 0x7FFFFFFF 1 0 0) x0 (.reg 6)) = ⟨0x7FFFFFFF, true⟩) ∧
    (32 ≤ ((src2 (rdy 1 32 0 0) x0 (.reg 6)).setWidth 32).toNat ∧ 64 ≤ (src2 (rdy 1 64 0 0) x0 (.reg 6)).toNat) ∧
    (divZero .div false (src2 (rdy 1 0 0 0) x0 (.reg 6)) = true ∧ divZero .rem true (src2 (rdy 1 0 0 0) x0 (.reg 6)) = true) := by
  decide +kernel

theorem witness_FloatingAndVectorResults :
    Issues (rdy 0 0 0 0) x0 [.f 1, .f 2, .f 3, .f 4, .x 1, .x 2] ∧
    (scalarFmtOk .add 9 = true ∧ scalarFmtOk .add 8 = true ∧ scalarFmtOk .add 1 = false ∧ fpCmp .cmpLt = some 0 ∧ fpCmp .add = none) ∧
    (scalarFmtOk (.cvt 0xD) 9 = true ∧ fpArity (.cvt 0xD) = 1) ∧
    (Issues (rdy 0 0 0 0) x0 [.v 1, .v 2, .v 3, .v 4, .f 1] ∧ vecFmtOk 8 = true) ∧
    ((amaxOf (rdy 0 0 0 0) x0 1).isNan = false ∧ scaleFmtOk 1 = true ∧ cvtFmtOk 8 = true ∧ cvtFmtOk 4 = true ∧
      (cvtMap (elemsPerToken 8) (elemsPerToken 4) 0).isSome = true ∧ (cvtMap (elemsPerToken 8) (elemsPerToken 1) 3).isSome = true) := by
  decide +kernel

theorem witness_NanAndZeroRules : (∃ v ∈ [Val.nan, .zero true], v = .nan) ∧ (5 : Nat) < 6 := by
  exact ⟨⟨.nan, by simp, rfl⟩, by decide⟩

theorem witness_SystemInstructionsAndTraps :
    (Issues (rdy 1 2 3 4) x0 [.x 1] ∧ Issues (rdy 1 2 3 4) x0 [] ∧ owner (rdy 1 2 3 4) c0 = some 1 ∧ Issues (rdy 1 2 3 4) x0 [.v 1]) ∧
    (Issues (cx { state := .ready, inTrap := true }) x0 [.x 1] ∧ (ctxRec (cx { state := .ready, inTrap := true }) x0).inTrap = true) ∧
    myXacts (rdy 1 2 3 4) x0 = [] ∧
    ((ctxRec (rdy 1 2 3 4) x0).state = .ready ∧ (ctxRec (rdy 1 2 3 4) x0).vector = 0 ∧ (ctxRec (cx { state := .ready, vector := 64 }) x0).vector ≠ 0 ∧
      (ctxRec on x0).state = .idle) := by
  decide +kernel

theorem witness_ContextCommandEffects :
    (regPerm on (.core x0) c0 = 0x00 ∧ fld 0x10000001 3 13 = 0 ∧ pcOk (BitVec.ofNat 48 (fld 0x10000001 16 48)) = true ∧
      dryCore on c0 0 = false ∧ (ctxRec on x0).state = .idle) ∧
    (regPerm (rdy 0 0 0 0) (.core x0) c0 = 0x00 ∧ fld 2 3 13 = 0 ∧ fld 2 16 48 = 0 ∧ (ctxRec (rdy 0 0 0 0) x0).state = .ready) ∧
    (regPerm (cx { state := .stopped }) (.core x0) c0 = 0x00 ∧ (ctxRec (cx { state := .stopped }) x0).state = .stopped) ∧
    regPerm on (.cxl 0) c0 ≠ 0x00 := by
  decide +kernel

theorem witness_CoreMemoryInstructions :
    (Issues (rdy 0x40 0x41 0 0) x0 [.x 1, .x 5] ∧ sizeFits (.x 1) 8 = true ∧ (xr (rdy 0x40 0x41 0 0) x0 5 + 8).toNat % 8 = 0 ∧
      overlaps (rdy 0x40 0x41 0 0) x0 0x48 8 false = false ∧ overlaps (rdy 0x40 0x41 0 0) x0 0x48 8 true = false ∧
      (ctxRec (rdy 0x40 0x41 0 0) x0).entries = [] ∧ loadsOut (rdy 0x40 0x41 0 0) x0 < 16 ∧ posted (rdy 0x40 0x41 0 0) c0 0 < 32) ∧
    (atomBytes .addI64 true = 8 ∧ (xr (rdy 0x40 0x41 0 0) x0 5).toNat % 8 = 0 ∧ (xr (rdy 0x40 0x41 0 0) x0 6).toNat % 8 ≠ 0) ∧
    fenceOk (rdy 0x40 0x41 0 0) x0 .release .g = true ∧
    ((xr (rdy 0x40 0x41 0 0) x0 6 + 0).toNat % 2 ≠ 0) ∧
    (Issues (rdy 0x40 0x41 0 0) x0 (.x 5 :: groupList 8 8) ∧ (blockFmt 0x10).isSome = true ∧ groupOk 8 8 = true) ∧
    (∀ b, blockFmt 0x10 = some b → overlaps (rdy 0x40 0x41 0 0) x0 0x40 b.bytes true = false ∧
      loadsOut (rdy 0x40 0x41 0 0) x0 + (blockParts 0x40 b.bytes).length ≤ 16) := by
  refine ⟨by decide +kernel, by decide +kernel, by decide +kernel, by decide +kernel, by decide +kernel, fun b h => ?_⟩
  cases h
  decide +kernel

/-- Context `x0` waits at 0x1000 for a load to x5. -/
def waitsFor5 : State :=
  withReq (xq (.core x0) .read 0x40 8 [] (.load (.x 5) false 0x0FFC none) .going) (rdy 0 0 0 0)

theorem witness_AnswersFetchAndPrediction_1 :
    let q := xq (.core x0) .read 0x40 8 [] (.load (.x 5) false 0x1000 none) (.home 0x00 [1, 0, 0, 0, 0, 0, 0, 0])
    let s := withReq q (rdy 0 0 0 0)
    Answered s 7 q 0x00 [1, 0, 0, 0, 0, 0, 0, 0] ∧ asleep s q.src = false ∧ q.orphaned = false ∧ canIssue s x0 = true := by
  decide +kernel

theorem witness_AnswersFetchAndPrediction_2 :
    let q := xq (.core x0) .write 0x40 8 [] (.store 0x1000) .going
    let s := withReq q (rdy 0 0 0 0)
    xactOf s 7 = some q ∧ q.timer = some 0 ∧ q.dead = false ∧ relocking s = false ∧ q.orphaned = false := by
  decide +kernel

theorem witness_AnswersFetchAndPrediction_3 :
    let i : RaInstr := ⟨0x1000, [.x 5], .stop⟩
    canIssue waitsFor5 x0 = true ∧ [i].find? (fun i => i.pc == (ctxRec waitsFor5 x0).pc) = some i ∧
      (awaitedLoad waitsFor5 x0 i.regs).isSome = true := by
  decide +kernel

theorem witness_AnswersFetchAndPrediction_4 :
    (ctxRec (cx { entries := [⟨0, 1, some [0], 0⟩] }) x0).entries[(0 : Fin 8).val]? = some ⟨0, 1, some [0], 0⟩ := by
  decide +kernel

theorem witness_AnswersFetchAndPrediction_5 :
    let s := rdy 0 0 0 0
    let m := cx { state := .ready, pc := 0x2000 }
    let bad : State := { s with core := { s.core with cores := [(0, { lines := [64], badLines := [64] })] } }
    (ctxRec s x0).runahead = false ∧ arithOn s c0 = true ∧ dryCore s c0 0 = false ∧ pcOk 0x1000 = true ∧ lineCached s x0 0x1000 = true ∧
      lineCached m x0 0x2000 = false ∧ lineCached bad x0 0x1000 = false ∧ pcOk 0x1001 = false := by
  decide +kernel

/-! ### Witnesses: objects, barriers and channels -/

/-- The address of object 3 of core 2 of `c0`. -/
def objA : Word := clAddr 5 c0 (2 * 256 + 3 * 8)

/-- An object request at its target. -/
def objReq (op : Nat) : Xact := { xq (.core x0) (.object op) objA 4 [5, 0, 0, 0] (.object 9) .there with operand := 4 }

theorem witness_ObjectAccesses_1 :
    Issues (rdy objA 1 2 3) x0 [.x 9, .x 5, .x 6, .x 7] ∧ impliedRelease (rdy objA 1 2 3) x0 (xr (rdy objA 1 2 3) x0 5) = true := by
  decide +kernel

theorem witness_ObjectAccesses_2 :
    ∀ op < 4, AtTarget (withReq (objReq op) on) 7 (objReq op) c0 := by
  decide +kernel

theorem witness_ObjectAccesses_3 :
    let s : State := { on with sync := { on.sync with notes := [⟨c0, ⟨23, 31⟩, 1, .none⟩] } }
    s.sync.notes[0]? = some ⟨c0, ⟨23, 31⟩, 1, .none⟩ ∧ computeOff s c0 = false ∧ asleep s c0 = false ∧ owner s c0 = some 1 ∧ partResetting s 1 = false := by
  decide +kernel

theorem witness_WaitComparisonWrapSafe : (0x7FFFFFFF : BitVec 32).toNat < 2 ^ 31 := by decide

/-- WAIT word of object 3 of core 2 with condition GE. -/
def waitW : Word := 2 + 3 * 32 + 2 * 1024

theorem witness_WaitCompletes_1 :
    Issues (rdy waitW 0 0 0) x0 [.x 9, .x 5, .x 6, .x 7] ∧ fld waitW.toNat 0 5 < 24 ∧ fenceOk (rdy waitW 0 0 0) x0 .acquire .g = true ∧
     objCond (fld waitW.toNat 10 2) (objVal (rdy waitW 0 0 0) c0 2 3) 0 = true := by
  decide +kernel

theorem witness_WaitCompletes_2 :
    objCond (fld waitW.toNat 10 2) (objVal (rdy waitW 1 0xFFFFFFFF 0) c0 2 3) 1 = false := by
  decide +kernel

theorem witness_WaitCompletes_3 :
    deadlinePast (rdy waitW 1 0xFFFFFFFF 0) c0 0xFFFFFFFF = true ∧ deadlinePast (rdy waitW 1 9 0) c0 9 = false := by
  decide +kernel

theorem witness_WaitCompletes_4 :
    let s := cx { state := .waiting, wait := some ⟨2, 3, 2, 1, some 9, 9⟩ }
    (ctxRec s x0).state = .waiting ∧ objCond 2 (objVal s c0 2 3) 1 = false ∧ objCond 2 (objVal s c0 2 3) 0 = true ∧
      deadlinePast (waitTide s c0 (localTide s c0 + (9 - (localTide s c0).setWidth 32).signExtend 64)) c0 9 = true := by
  decide +kernel

/-- A barrier of one member, in `c0`. -/
def barS (n : Nat) : State :=
  { rdy 4 0 0 0 with sync := { on.sync with
      bars := [(4, { valid := true, expected := n, generation := 3, release := some (0, 0) })]
      roots := [(36, some { root := c0, members := [c0], lead := 2000, generation := 3, got := [], hall := false })]
      pkts := [.arrive 1 4 c0 3, .release 1 4 c0 3 0x00 0xF000, .release 1 4 c0 3 0x00 0xFFFFFFFFFFFF0000] } }

theorem witness_BarrierGeneration_1 :
    Issues (barS 2) x0 [.x 9, .x 5] ∧ fenceOk (barS 2) x0 .release .m = true ∧ owner (barS 2) c0 = some 1 ∧
     (barOf (barS 2) c0 4).valid = true ∧ (barOf (barS 2) c0 4).held = false ∧ (barOf (barS 2) c0 4).sent = false ∧
     (barOf (barS 2) c0 4).arrived + 1 < (barOf (barS 2) c0 4).expected ∧ (barOf (barS 1) c0 4).arrived + 1 = (barOf (barS 1) c0 4).expected := by
  decide +kernel

theorem witness_BarrierGeneration_2 :
    (rootOf (barS 1) 1 4).map (fun r => (r.generation, r.members.contains c0, r.got.contains c0, r.hall)) = some (3, true, false, false) := by
  decide +kernel

theorem witness_BarrierGeneration_3 :
    (barS 1).sync.pkts[1]? = some (.release 1 4 c0 3 0x00 0xF000) ∧
     ¬ (localTide (barS 1) c0 - relLaunch (barS 1) c0 (barOf (barS 1) c0 4) 0xF000).toInt > 0 ∧
     (localTide (barS 1) c0 - relLaunch (barS 1) c0 (barOf (barS 1) c0 4) 0xFFFFFFFFFFFF0000).toInt > 0 := by
  decide +kernel

theorem witness_BarrierGeneration_4 :
    (barOf (barS 1) c0 4).release = some (0, 0) ∧ arithOn (barS 1) c0 = true := by
  decide +kernel

/-- The address of endpoint 4's window of `c0`, and requests to it. -/
def epA : Word := clAddr 6 c0 (4 * 4096)
def epReq (op : Nat) : Xact := xq (.core x0) (.object op) epA 12 [0, 0, 0, 0, 0, 0, 0, 0] .drop .there
def epMsg (slot : Nat) (seq : Byte) (d : Basin → Byte) : Xact :=
  xq (.core x0) .message (epA + BitVec.ofNat 64 (32 * slot)) 40
    (List.replicate 32 0 ++ [seq, 0, 4, d ⟨8, false, false, 0, 0, 0, false⟩, 9, 0, 0, 0]) .drop .there
def openEp : EpRec := { state := .opened, creditsReq := 2, peer := epA, gen := 9, slots := [(0, some 0)], freedReq := 1 }

theorem witness_ChannelsOpenAndBasins_1 :
    Issues (rdy 0x1004 0 0 0) x0 [.x 9, .x 5, .x 6] ∧ epWordCheck (rdy 0x1004 0 0 0) c0 0x1004 false = 0x00 ∧ xr (rdy 0x1004 0 0 0) x0 6 = 0 := by
  decide +kernel

theorem witness_ChannelsOpenAndBasins_2 :
    Issues (rdy 4 epA 0 0) x0 [.x 9, .x 5, .x 6] ∧ addrSpace epA = 6 ∧ layoutOk epA = true ∧ addrLand epA = 0 ∧
     epWordCheck (rdy 4 epA 0 0) c0 4 false = 0x00 := by
  decide +kernel

theorem witness_ChannelsOpenAndBasins_3 :
    let s := withReq (epReq 9) (withEp 4 { state := .listening } on)
    AtTarget s 7 (epReq 9) c0 ∧ (epOf s c0 (addrEp epA)).state = .listening ∧ checkedRefused s (epReq 9) c0 = false := by
  decide +kernel

theorem witness_ChannelsOpenAndBasins_4 :
    let q : Xact := { epReq 9 with phase := .home 0x00 [9, 0, 0, 0], use := .chOpen 4 9 }
    Answered (withReq q (withEp 4 { state := .opening } (rdy 0 0 0 0))) 7 q 0x00 [9, 0, 0, 0] ∧
      (epOf (withReq q (withEp 4 { state := .opening } (rdy 0 0 0 0))) c0 4).state = .opening := by
  decide +kernel

theorem witness_ChannelsOpenAndBasins_5 :
    fld (4 : Word).toNat 8 56 = 0 := by
  decide +kernel

theorem witness_ChannelsOpenAndBasins_6 :
    AtTarget (withReq (epReq 10) (withEp 4 openEp on)) 7 (epReq 10) c0 ∧ (epOf (withReq (epReq 10) (withEp 4 openEp on)) c0 (addrEp epA)).state = .opened := by
  decide +kernel

theorem witness_ChannelsOpenAndBasins_7 :
    let s : State := { withEp 4 openEp on with t := { on.t with foreOn := true }, sync := { (withEp 4 openEp on).sync with fallen := [0] } }
    s.sync.fallen ≠ [] ∧ crossesFallen s c0 (epOf s c0 4) = true := by
  decide +kernel

theorem witness_ChannelsOpenAndBasins_8 :
    let r : EpRec := { openEp with contributor := true, chunks := 2 }
    regPerm (withEp 4 r on) (.core x0) c0 = 0x00 ∧ connected r = true ∧ fld 0x100 3 5 = 0 ∧ fld 0x100 16 48 = 0 ∧ fld 0x100 8 8 < r.chunks := by
  decide +kernel

theorem witness_ChannelsOpenAndBasins_9 :
    let b : Basin := ⟨8, false, false, 2, 0, 0, false⟩
    let q := epMsg 1 0 (fun b => b.format.setWidth 8)
    let s := withReq q (withEp 4 { state := .basin, basin := some b, gen := 9 } on)
    AtTarget s 7 q c0 ∧ (epOf s c0 (addrEp q.addr)).basin = some b ∧
      (let tr := leNat ((q.data.drop 32).take 8)
       BitVec.ofNat 32 (fld tr 32 32) = (9 : BitVec 32) ∧ fld tr 24 5 = b.format.toNat ∧ addrLand q.addr / 32 < b.chunks) ∧
      (combinerOf s c0).length < 64 ∧ fld 1 3 61 = 0 ∧ (elemFmt b.format.toNat).isSome = true ∧ arithOn s c0 = true ∧
      combinerOf (setCombiner c0 [⟨4, 1, [], 9⟩] s) c0 = [⟨4, 1, [], 9⟩] := by
  decide +kernel

theorem witness_ChannelsOpenAndBasins_10 :
    let s := withEp 4 openEp (cx { state := .waiting, held := some (.send 4 0 9) })
    waitOf s (.ctx x0) = some (4, false, 0, coreUnit c0 0) ∧ (syncRegs s c0).watchdog.toNat ≠ 0 ∧ s.sync.reported.contains (.ctx x0) = false ∧
      arithOn s c0 = true := by
  decide +kernel

theorem witness_ChannelMessages_1 :
    let s := withEp 4 openEp (rdy 4 0 0 0)
    Issues s x0 [.x 9, .v 1, .x 5] ∧ fld 4 14 50 = 0 ∧ sendCheck (epOf s c0 4) false (fld 4 9 5) true = 0x00 ∧
      impliedRelease s x0 (epOf s c0 4).peer = true ∧ hasCredit openEp false = true ∧ hasCredit { openEp with creditsReq := 0 } false = false := by
  decide +kernel

theorem witness_ChannelMessages_2 :
    ∀ p ∈ ([(1, 1), (0, 0), (44, 0x2C)] : List (Nat × Byte)),
     let q := epMsg p.1 p.2 (fun _ => 0)
     let s := withReq q (withEp 4 (if p.1 = 44 then { openEp with rcvReq := 0x8000 } else openEp) on)
     let r := epOf s c0 (addrEp q.addr)
     let tr := leNat ((q.data.drop 32).take 8)
     AtTarget s 7 q c0 ∧ connected r = true ∧ r.state ≠ .basin ∧ r.contributor = false ∧ isPeer r q (fld tr 16 8) = true ∧
       BitVec.ofNat 32 (fld tr 32 32) = r.gen ∧ addrLand q.addr = fld tr 0 16 % 128 * 32 := by
  decide +kernel

theorem witness_ChannelMessages_3 :
    (1 - 0 : BitVec 16).toNat < 128 ∧ (openEp.slots.get none 1 = none) ∧ (openEp.slots.get none 0 = some 0) ∧
     ¬ (0x2C - 0x8000 : BitVec 16).toNat < 128 ∧ ¬ (0x8000 - 0x2C : BitVec 16).toNat ≤ 4096 := by
  decide +kernel

theorem witness_ChannelMessages_4 :
    let q : Xact := { epMsg 0 0 (fun _ => 0) with phase := .home 0x00 [], use := .send 4 false 0 (some 9) 0 }
    Answered (withReq q (withEp 4 openEp on)) 7 q 0x00 [] := by
  decide +kernel

theorem witness_ChannelMessages_5 :
    let s := withEp 4 openEp (rdy 4 0 0 0)
    fenceOk s x0 .acquire .g = true ∧ (ctxRec s x0).entries = [] ∧ fld 4 9 55 = 0 ∧ slotHeld (epOf s c0 4) false 0 = true ∧
      (sramRead (clAddr 1 c0 ((epOf s c0 4).queue + 32 * 0)) 32 false (coreUnit c0 0) s).1 = 0x00 := by
  decide +kernel

theorem witness_ChannelMessages_6 :
    regPerm (withEp 4 openEp on) (.core x0) c0 = 0x00 ∧ fld 0x100 4 4 = 0 ∧ fld 0x100 8 8 = 1 ∧ bit 0x100 3 = false := by
  decide +kernel

theorem witness_ChannelMessages_7 :
    openEp.freedReq + openEp.freedRsp ≠ 0 ∧ openEp.state = .opened := by
  decide +kernel

theorem witness_ChannelMessages_8 :
    AtTarget (withReq (epReq 8) (withEp 4 openEp on)) 7 (epReq 8) c0 := by
  decide +kernel

/-! ### Witnesses: pumps and memory -/

/-- A descriptor that copies 64 bytes from 0x1000 to 0x2000 of `c0`'s cistern. -/
def descRaw : Nat := (clAddr 1 c0 0x1000).toNat * 2 ^ 64 + (clAddr 1 c0 0x2000).toNat * 2 ^ 128 + 64 * 2 ^ 192 + 2 ^ 224
def desc0 : Desc := { serial := 1, raw := BitVec.ofNat 512 descRaw, part := 1 }
def ch0 : ChanId := .cluster c0 0

/-- Channel 0 of `c0` with a record, and a context with the descriptor in v2 and v3. -/
def withChan (r : ChanRec) (s : State) : State := { s with pump := { s.pump with chans := [(0, r)] } }
def psubS : State :=
  cx { state := .ready, pc := 0x1000, v := ((Vector.replicate 32 0).set 2 (BitVec.ofNat 256 descRaw)).set 3 (BitVec.ofNat 256 (descRaw / 2 ^ 256)) }

theorem witness_PumpChannels_1 :
    Issues psubS x0 [.x 5, .v 2, .v 3] ∧ fenceOk psubS x0 .release .g = true ∧ fenceOk psubS x0 .release .m = true ∧ fld 0 3 61 = 0 ∧
     descOk psubS ((vr psubS x0 2).toNat + (vr psubS x0 (2 + 1)).toNat * 2 ^ 256) = true ∧ owner psubS c0 = some 1 ∧
     (chanOf psubS ch0).queue.length < 8 := by
  decide +kernel

theorem witness_PumpChannels_2 :
    let s := withChan { queue := [desc0] } on
    pumpOn s (chanPump ch0) = true ∧ (chanOf s ch0).state ≠ .halted ∧ (chanOf s ch0).queue = [desc0] ∧ desc0.started = false := by
  decide +kernel

theorem witness_PumpChannels_3 :
    let q := xq (.pump ch0) .read (clAddr 1 c0 0x1000) 64 [] (.pumpRead ch0 1 0 0) (.home 0x00 [])
    Answered (withReq q on) 7 q 0x00 [] := by
  decide +kernel

theorem witness_PumpChannels_4 :
    let q := xq (.pump ch0) .write (clAddr 1 c0 0x2000) 64 [] (.pumpWrite ch0 1 0 0) (.home 0x00 [])
    let s := withReq q on
    Answered s 7 q 0x00 [] ∧ (pumpCtr s (chanPump ch0)).bytesMoved.toNat % 2 ^ 48 + q.len < 2 ^ 48 ∧
      (chanOf s ch0).queue.find? (fun e => e.serial == 1) = none := by
  decide +kernel

theorem witness_PumpChannels_5 :
    let s := withChan { state := .running, queue := [{ desc0 with started := true, rdU := 1, buf := [(0, 0, List.replicate 64 0)] }] } on
    pumpOn s (.cluster c0) = true ∧ s.net.paused = false ∧ beatChan s (.cluster c0) = some ch0 ∧ (writeDesc s ch0).isSome = true := by
  decide +kernel

theorem witness_PumpChannels_6 :
    let d : Desc := { desc0 with started := true, wrU := 1 }
    let s := withChan { state := .running, queue := [d] } on
    (chanOf s ch0).queue = [d] ∧ d.halted = false ∧ d.count ≤ d.wrU ∧ d.writes = 0 ∧ d.noteSent = false ∧ writeDesc s ch0 = none ∧
      dNotify d.raw.toNat = false := by
  decide +kernel

theorem witness_PumpChannels_7 :
    let d : Desc := { desc0 with started := true, wrU := 1, raw := BitVec.ofNat 512 (descRaw + 16) }
    let s := withChan { state := .running, queue := [d] } on
    (chanOf s ch0).queue = [d] ∧ d.count ≤ d.wrU ∧ writeDesc s ch0 = none ∧ dNotify d.raw.toNat = true := by
  decide +kernel

theorem witness_PumpChannels_8 :
    let s := withChan { state := .halted, queue := [desc0] } on
    chanPerm s (.core x0) ch0 = 0x00 ∧ fld 1 2 62 = 0 ∧ (chanOf s ch0).state = .halted ∧ (chanOf s ch0).queue ≠ [] := by
  decide +kernel

theorem witness_MemoryReadAfterWrite : SMap.wf 0 ([(3, 1), (9, 2)] : SMap Byte) = true := by decide

/-- A request at its target in `c0`'s cistern or memory tile 0, and one to the stack page that partition 1 holds. -/
def sramReq (sp : Nat) (k : ReqKind) : Xact := xq (.core x0) k (clAddr sp c0 0x100) 4 [1, 2, 3, 4] .drop .there
def stkReq (k : ReqKind) : Xact := { xq (.core x0) k 0xFF00000000000000 4 [1, 2, 3, 4] .drop .there with phys := some (3, 0x100) }
def stkS : State := { on with mem := { on.mem with pages := [(192, { holder := some 1 })] } }
def hostS (up : Bool) : State := { on with host := { on.host with ports := (Vector.replicate 2 { up := up, width := 8, numVfs := 1 }) } }

theorem witness_MemoryAccessesServed_1 :
    ∀ k ∈ [ReqKind.read, .write, .atomic 0], ∀ sp ∈ [1, 3],
     let s := withReq (sramReq sp k) on
     AtTarget s 7 (sramReq sp k) c0 ∧ dryUnit s c0 (sramReq sp k).addr = false ∧ olderOverlap s (sramReq sp k) = false ∧
       addrSpace (sramReq sp k).addr = sp := by
  decide +kernel

theorem witness_MemoryAccessesServed_2 :
    let q : Xact := { stkReq .read with phys := none }
    xactOf (withReq q on) 7 = some q ∧ q.phase = .there ∧ addrSpace q.addr = 0 := by
  decide +kernel

theorem witness_MemoryAccessesServed_3 :
    stackCheck on (stkReq .read) 3 0x100 ≠ 0x00 := by
  decide +kernel

theorem witness_MemoryAccessesServed_4 :
    ∀ k ∈ [ReqKind.read, .write, .atomic 0],
     let s := withReq (stkReq k) stkS
     stackCheck s (stkReq k) 3 0x100 = 0x00 ∧ olderOverlap s (stkReq k) = false ∧
       (stackWrite 3 0x100 [1, 2, 3, 4] 0 (some 1) 0 (countStack 3 1 4 s)).isSome = true ∧
       (stackRead 3 0x100 4 0 (some 1) false 0 (countStack 3 1 4 s)).1 = 0x00 := by
  decide +kernel

theorem witness_MemoryAccessesServed_5 :
    (stackRead 3 0x100 4 0 (some 1) false 0 { stkS with mem := { stkS.mem with stackErr := [((3 * 2 ^ 36 + 0x100) / 32, 2)] } }).1 ≠ 0x00 := by
  decide +kernel

theorem witness_MemoryAccessesServed_6 :
    let q := xq (.core x0) .write 0xFF40004000000000 8 [0, 0, 0, 0, 0, 0, 0, 0] .drop .there
    xactOf (withReq q on) 7 = some q ∧ addrSpace q.addr = 4 ∧ bit q.addr.toNat 38 = true ∧ asleep on c0 = false := by
  decide +kernel

theorem witness_MemoryAccessesServed_7 :
    let q := xq (.core x0) .write 0xFF80000000001000 8 [0, 0, 0, 0, 0, 0, 0, 0] .drop .there
    let s := withReq q (hostS true)
    xactOf s 7 = some q ∧ addrSpace q.addr = 8 ∧ hostPort s 1 = some 0 ∧ (s.host.ports[(0 : Fin 2)]).up = true ∧
      hostStatus s (fld q.addr.toNat 0 52) 8 = 0x00 ∧
      hostStatus { s with mem := { s.mem with hostErr := [(1, .abort)] } } (fld q.addr.toNat 0 52) 8 ≠ 0x00 := by
  decide +kernel

theorem witness_MemoryAccessesServed_8 :
    on.mem.sramErr = [] ∧ addrCl (clAddr 1 c0 0x100) = some c0 := by
  decide +kernel

theorem witness_ScrubZeroingAndCxlWindow_1 :
    ({ on with mem := { on.mem with zeroing := [(3, [0, 5])] } } : State).mem.zeroing.get [] 3 = [0, 5] := by
  decide +kernel

theorem witness_ScrubZeroingAndCxlWindow_2 :
    (2 ^ 35 + 9 < 2 ^ 40) ∧ addrCl (sramUnitAddr (2 ^ 35 + 9)) = some c0 ∧ computeOff on c0 = false := by
  decide +kernel

theorem witness_ScrubZeroingAndCxlWindow_3 :
    stackOn on 0 = true ∧ granuleZero on 0 0 = false := by
  decide +kernel

theorem witness_ScrubZeroingAndCxlWindow_4 :
    (hostS true).host.ports[(0 : Fin 2)].up = true ∧ hdmTarget (hostS true) (0 % 2 ^ 42 / 64 * 64) = none := by
  decide +kernel

theorem witness_ScrubZeroingAndCxlWindow_5 :
    let s : State := { hostS true with
       mem := { stkS.mem with slices := [(0, some (1, 0))] }
       part := { on.part with parts := [(1, some { port := 0, vf := 1, regions := (Vector.replicate 16 none).set 0 (some ⟨0, true, [3], 1, [[0]]⟩) })] } }
    hdmTarget s (0x40 % 2 ^ 42 / 64 * 64) = some (1, some (3, 0x40)) ∧ partResetting (countPort 16 1 64 s) 1 = false ∧
      stackOn (countPort 16 1 64 s) 3 = true ∧ (stackRead 3 0x40 64 0 (some 1) false 0 s).1 = 0x00 ∧
      (stackWrite 3 0x40 (List.replicate 64 1) 0 (some 1) 0 s).isSome = true ∧
      (stackRead 3 0x40 64 0 (some 1) false 0 { s with mem := { s.mem with stackErr := [((3 * 2 ^ 36 + 0x40) / 32, 2)] } }).1 ≠ 0x00 := by
  decide +kernel

/-! ### Witnesses: the mesh -/

/-- A request under way at `c0` for the cluster east of it. -/
def goQ (dst : Cl) (ph : Phase) : Xact := { xq (.core x0) .read (clAddr 1 dst 0x100) 4 [] .drop ph with dst := dst }
def c1 : Cl := ⟨0, 1, 0⟩

theorem witness_RouterForwarding_1 :
    let s := withReq (goQ c1 .going) on
    s.t.unlocked.contains (fieldOf c0) = false ∧ granted s c0 1 = some (goQ c1 .going) ∧ s.net.deadRouters.get false (ck c0) = false ∧
      stale s (goQ c1 .going) = false ∧ nextHop s.net.cur s.net.routeEpoch c0 (xactGoal (goQ c1 .going)) false = .port 1 false ∧
      nbr c0 1 = some c1 ∧ crossDown s c0 1 = false := by
  decide +kernel

theorem witness_RouterForwarding_2 :
    let s : State := { withReq (goQ c1 .going) on with net := { (withReq (goQ c1 .going) on).net with deadRouters := [(0, true), (1, true)] } }
    granted s c0 1 = some (goQ c1 .going) ∧ s.net.deadRouters.get false (ck c0) = true := by
  decide +kernel

theorem witness_RouterForwarding_3 :
    let s : State := { withReq (goQ c1 .going) on with net := { (withReq (goQ c1 .going) on).net with routeEpoch := 1 } }
    stale s (goQ c1 .going) = true := by
  decide +kernel

theorem witness_RouterForwarding_4 :
    let s := withReq (goQ c0 .going) on
    granted s c0 4 = some (goQ c0 .going) ∧ nextHop s.net.cur s.net.routeEpoch c0 c0 false = .deliver := by
  decide +kernel

theorem witness_RouterForwarding_5 :
    let s := withReq (goQ c0 (.back 0x00 [])) on
    granted s c0 4 = some (goQ c0 (.back 0x00 [])) ∧ isReply (goQ c0 (.back 0x00 [])) = true := by
  decide +kernel

theorem witness_RouterForwarding_6 :
    let s : State := { withReq (goQ c1 .going) on with net := { (withReq (goQ c1 .going) on).net with cur := { dead := [1] } } }
    nextHop s.net.cur s.net.routeEpoch c0 c1 false = .unreachable := by
  decide +kernel

theorem witness_RouterForwarding_7 :
    let q := sramReq 1 .read
    let s : State := { withReq q on with t := { on.t with sleep := [(0, .retention)] } }
    xactOf s 7 = some q ∧ heldAtTarget s q = true ∧ (ctrOf s q.dst).pendingSent.toNat % 2 ^ 48 + 1 < 2 ^ 48 := by
  decide +kernel

theorem witness_RouteEpochChange_1 :
    on.net.stage = .none := by
  decide +kernel

theorem witness_RouteEpochChange_2 :
    let s : State := { on with net := { on.net with stage := .computing } }
    s.net.stage = .computing ∧ s.net.stage ≠ .none := by
  decide +kernel

theorem witness_RouteEpochChange_3 :
    ({ on with net := { on.net with stage := .loaded 5 } } : State).net.stage = .loaded 5 := by
  decide +kernel

theorem witness_RouteEpochChange_4 :
    let s : State := { on with net := { on.net with stage := .draining 5, standby := some {} } }
    s.net.stage = .draining 5 ∧ s.net.standby = some {} ∧ s.net.again = false ∧ s.net.xacts = [] ∧ s.sync.roots = [] := by
  decide +kernel

theorem witness_RouteEpochChange_5 :
    (clState on c0).val < 2 := by
  decide +kernel

theorem witness_RouteEpochChange_6 :
    crossingOf ⟨0, 95, 0⟩ 1 = some 0 ∧ on.net.busLost.get false 0 = false := by
  decide +kernel

theorem witness_RouteEpochChange_7 :
    isWellhead on c0 = false ∧ tileKind 3 ≠ 0 := by
  decide +kernel

theorem witness_AqueductsAndFountains_1 :
    on.net.dry.lanes.get false (0 * 256 + 191) = false ∧ on.net.spares.get none (0 * 16 + 191 / 16) = none ∧
     on.net.dry.lanes.get false (0 * 256 + 192 + 191 / 16) = false := by
  decide +kernel

theorem witness_AqueductsAndFountains_2 :
    ({ on with net := { on.net with spares := [(3, some (50, false))] } } : State).net.spares.get none 3 = some (50, false) := by
  decide +kernel

theorem witness_AqueductsAndFountains_3 :
    let s : State := { on with net := { on.net with fountains := [(16, some ⟨c0, [c0, c1]⟩)] } }
    regPerm s (.core x0) c0 = 0x00 ∧ fenceOk s x0 .release .m = true ∧ fld 0 32 5 < 24 ∧ owner s c0 = some 1 ∧
      s.net.fountains.get none (16 + 0) = some ⟨c0, [c0, c1]⟩ ∧ fld 0 4 4 = 0 ∧ (fregOf s c0 0).inFlight = false := by
  decide +kernel

theorem witness_AqueductsAndFountains_4 :
    let s : State := { on with net := { on.net with fvals := [⟨1, 1, 0, 0x4100, 5, c0⟩] } }
    s.net.fvals[0]? = some ⟨1, 1, 0, 0x4100, 5, c0⟩ ∧ asleep s c0 = false ∧ partResetting s 1 = false ∧ owner s c0 = some 1 ∧
      computeOff s c0 = false ∧ owner { s with part := {} } c0 ≠ some 1 ∧ computeOff { s with pwr := {} } c0 = true := by
  decide +kernel

theorem witness_AqueductsAndFountains_5 :
    let s : State := { on with part := { on.part with parts := [(1, some { port := 0, vf := 1, reset := some ⟨0, 1, false, false, []⟩ })] } }
    partResetting s 1 = true := by
  decide +kernel

theorem witness_AqueductsAndFountains_6 :
    let s : State := { on with net := { on.net with fsends := [⟨1, 1, 0, c0, 0, none, 0, 0, 0⟩] } }
    (s.net.fsends.find? fun h => h.part == 1 && h.f == 0 && h.left == 0) = some ⟨1, 1, 0, c0, 0, none, 0, 0, 0⟩ ∧ owner s c0 = some 1 := by
  decide +kernel

theorem witness_ScrubZeroingAndCxlWindow_6 :
    let s := hostS true
    (s.host.ports[(0 : Fin 2)]).up = true ∧ hdmDecode s 0 0x47 = some 0x40 ∧ hdmDecode (hostS true) 0 (2 ^ 50) = none := by
  decide +kernel

theorem witness_MemoryAccessesServed_9 :
    clusterCheck (withReq (sramReq 1 .read) on) (sramReq 1 .read) c0 = 0x00 ∧ clusterCheck { on with pwr := {} } (sramReq 1 .read) c0 ≠ 0x00 ∧
      asleep on c0 = false ∧ arithOn on c0 = true := by
  decide +kernel

theorem witness_PumpChannels_9 :
    let s := withChan { state := .running, queue := [desc0] } on
    chanPerm s (.core x0) ch0 = 0x00 ∧ (chanOf s ch0).state ≠ .idle ∧ (chanOf s ch0).state ≠ .halted ∧ chanPerm s (.cxl 0) ch0 ≠ 0x00 := by
  decide +kernel

/-! ### Witnesses: time and clocks -/

/-- As `on`, with other clocks, power or fabric. -/
def clk (t : Clocks) : State := { on with t := t }
def fabS (f : Fabric) : State := { on with fab := f }

theorem witness_LocalTideNeverDecreases_1 :
    2 ^ 27 ≤ ({ corr := .slow 70 } : TideRec).rate.toNat := by
  decide +kernel

theorem witness_LocalTideNeverDecreases_2 :
    128 ≤ ({} : TideRec).win := by
  decide +kernel

theorem witness_LocalTideNeverDecreases_3 :
    (64 : Int).natAbs ≤ 64 := by decide +kernel

theorem witness_TideDiscipline_1 :
    (on.pwr.rails = true ∧ (clState on c0).val < 2 ∧ fld (1 : BitVec 128).toNat 0 4 = 1) := by
  decide +kernel

theorem witness_TideDiscipline_2 :
    meshRoot { on with boot := { on.boot with wellheads := [(0, some c1)] } } = some c1 := by
  decide +kernel

theorem witness_TideDiscipline_3 :
    isManager on = true ∧ on.t.discipline = 1 ∧ on.t.discipline ≠ 0 := by
  decide +kernel

theorem witness_TideDiscipline_4 :
    let s := clk { discipline := 2, seconds := some 7 }
    isManager s = true ∧ s.t.discipline = 2 ∧ s.t.originSet = false ∧ s.t.seconds = some 7 := by
  decide +kernel

theorem witness_TideDiscipline_5 :
    let s := clk { discipline := 2, originSet := true }
    isManager s = true ∧ s.t.originSet = true ∧ s.t.seconds = none ∧
      ((((1600000 : Nat) / 16 : Nat) : Int) + s.t.origin.toInt - (((((1600000 : Nat) / 16 : Nat) : Int) + s.t.origin.toInt + 500000000) / 1000000000) * 1000000000).natAbs ≤ 100000 ∧
      100000 < ((((1600016 : Nat) / 16 : Nat) : Int) + s.t.origin.toInt - (((((1600016 : Nat) / 16 : Nat) : Int) + s.t.origin.toInt + 500000000) / 1000000000) * 1000000000).natAbs := by
  decide +kernel

theorem witness_TideDiscipline_6 :
    let s := fabS { role := .worker, num := some 3, ports := [(0, { state := .up }), (1, { state := .up })] }
    isWorker s = true ∧ s.fab.num.isSome = true ∧ (portRec s 0).state = .up ∧ chooseUpstream 0 s = 0 ∧ s.t.holdover = false := by
  decide +kernel

theorem witness_TideDiscipline_7 :
    let s := fabS { role := .worker, num := some 3, upstream := some 1, ports := [(0, { state := .up }), (1, { state := .up })] }
    chooseUpstream 0 s ≠ 0 := by
  decide +kernel

theorem witness_TideDiscipline_8 :
    (fabS { role := .manager, num := some 3 }).fab.role = .manager := by
  decide +kernel

/-- A TIDE packet under way to `c0`. -/
def tidePk : TidePkt := ⟨c0, 1 + 5 * 2 ^ 64, 16, 0⟩

theorem witness_TideDiscipline_9 :
    let s := clk { tides := [tidePk] }
    s.t.tides.find? (fun e => e.dst == c0 && e.pkt == tidePk.pkt) = some tidePk ∧ (clState s c0).val < 2 ∧ fld tidePk.pkt.toNat 0 4 = 1 ∧
      (clk { discipline := 2, ptp := some (7, 5) }).t.discipline = 2 := by
  decide +kernel

theorem witness_TideDiscipline_10 :
    (clk { discipline := 2 }).t.seconds = none ∧ ptpSecond (clk { discipline := 2 }) 0 = none ∧
      (fabS { role := .worker, num := some 3, upstream := some 1 }).fab.upstream.isSome = true ∧ isWorker (fabS { role := .worker, num := some 3 }) = true := by
  decide +kernel

/-- The cluster asleep in a state. -/
def slp (x : Sleep) (s : State) : State := { s with t := { s.t with sleep := [(0, x)] } }

/-- A waiting context, its deadline `d` units ahead. -/
def waitD (d : BitVec 32) : State := cx { state := .waiting, wait := some ⟨2, 3, 2, 1, some d, 9⟩ }

theorem witness_SleepAndClockIslands_1 :
    sleepOf on c0 = .awake ∧ arithOn on c0 = true ∧ isWellhead on c0 = false ∧ clIdle on c0 = true ∧ barrierSoon on c0 = false ∧
     nextEvent on c0 = none := by
  decide +kernel

theorem witness_SleepAndClockIslands_2 :
    clIdle (waitD 160000) c0 = true ∧ nextEvent (waitD 160000) c0 = some 160000 ∧ (((owner on c0).bind (partOf on)).elim 10 (·.retMin)) * 16000 ≤ 160000 := by
  decide +kernel

theorem witness_SleepAndClockIslands_3 :
    clIdle (waitD 159999) c0 = true ∧ nextEvent (waitD 159999) c0 = some 159999 := by
  decide +kernel

theorem witness_SleepAndClockIslands_4 :
    sleepOf (slp .retention (waitD 27201)) c0 = .retention ∧ nextEvent (slp .retention (waitD 27201)) c0 = some 27201 := by
  decide +kernel

theorem witness_SleepAndClockIslands_5 :
    sleepOf (slp .retention (withReq (sramReq 1 .read) on)) c0 = .retention ∧ arrival (slp .retention (withReq (sramReq 1 .read) on)) c0 = true := by
  decide +kernel

theorem witness_SleepAndClockIslands_6 :
    sleepOf (slp (.waking 9) on) c0 = .waking 9 := by
  decide +kernel

theorem witness_SleepAndClockIslands_7 :
    let s : State := { on with part := {} }
    s.pwr.park = true ∧ s.boot.ready = true ∧ owner s c0 = none ∧ isWellhead s c0 = false ∧ computeOff s c0 = false := by
  decide +kernel

theorem witness_SleepAndClockIslands_8 :
    on.pwr.rails = true ∧ on.t.foreOn = false := by
  decide +kernel

theorem witness_SleepAndClockIslands_9 :
    (clk { unlocked := [5] }).t.unlocked = [5] ∧ (fieldRec (clk { unlocked := [5] }) 5).state ≠ .dark := by
  decide +kernel

theorem witness_SpringInputs_1 :
    let s := clk { valid := Vector.replicate 2 true }
    (s.t.valid[(1 : Fin 2)]) = true ∧ (1 : Fin 2) ≠ s.t.source ∧ (s.t.valid[(0 : Fin 2)]) = true ∧ s.t.spring = .settled := by
  decide +kernel

theorem witness_SpringInputs_2 :
    on.t.coast = false := by
  decide +kernel

theorem witness_SpringInputs_3 :
    let s := clk { coast := true }
    s.t.coast = true ∧ s.t.spring = .settled ∧ s.t.valid[other s.t.source] = false := by
  decide +kernel

theorem witness_SpringInputs_4 :
    (clk { spring := .switching 1 4 5 }).t.spring = .switching 1 4 5 := by
  decide +kernel

theorem witness_SpringInputs_5 :
    let s := clk { coast := true, spring := .relocking 0 1 false 4 }
    s.t.spring = .relocking 0 1 false 4 ∧ s.t.coast = true := by
  decide +kernel

/-! ### Witnesses: power and heat -/

def pw (p : Power) : State := { on with pwr := p }

theorem witness_EffectiveLimitIsTheLowest : (pw { capInEn := true, share := 500 }).pwr.capInEn = true ∧ (pw { share := 500 }).pwr.share ≠ 0 := by
  decide +kernel

theorem witness_WeirAndCaps_1 :
    on.pwr.rails = true := by
  decide +kernel

theorem witness_WeirAndCaps_2 :
    0 * 100 ≤ (effectiveLimit on).1 * 98 ∧ (effectiveLimit on).1 * 98 < 870 * 100 := by
  decide +kernel

theorem witness_WeirAndCaps_3 :
    (fieldRec on 0).bound = 0 := by
  decide +kernel

theorem witness_WeirAndCaps_4 :
    let s := pw { rails := true, ops := [(0, { raise := some 9 })] }
    c0 ∈ fieldClusters 0 ∧ (opRec s c0).raise = some 9 ∧ (opRec s c0).droop = .none ∧ computeOff s c0 = false := by
  decide +kernel

theorem witness_WeirAndCaps_5 :
    ((fieldClusters 0).all fun c => (opRec on c).raise.isNone) = true := by
  decide +kernel

theorem witness_WeirAndCaps_6 :
    (fabS { role := .worker }).fab.role = .worker := by
  decide +kernel

theorem witness_WeirAndCaps_7 :
    let s : State := { fabS { role := .manager, num := some 3, mask := 8 } with pwr := { on.pwr with chassisCap := 1000 } }
    s.fab.role = .manager ∧ s.pwr.chassisCap ≠ 0 ∧ ringModules s = [3] ∧ s.fab.num = some 3 ∧ 200 ≤ s.pwr.chassisCap ∧ s.pwr.excess = 0 ∧
      s.pwr.shares.get 0 3 = 0 := by
  decide +kernel

theorem witness_WeirAndCaps_8 :
    (0x5A : Byte) = 0x5A ∧ (0xEF : Byte) = 0x10 ^^^ 0xFF ∧ (pw { capFrame := some 0x10 }).pwr.capFrame = some (0x10 : Byte).toNat ∧
     (pw {}).pwr.capFrame ≠ some (0x10 : Byte).toNat ∧ (pw {}).pwr.capIn ≠ .failsafe ∧ (0x00 : Byte) ≠ 0x5A := by
  decide +kernel

theorem witness_WeirAndCaps_9 :
    (pw { capIn := .valid }).pwr.capIn = .valid ∧ (pw { capIn := .held 4 }).pwr.capIn = .held 4 := by
  decide +kernel

def fld0 (r : FieldRec) : State := pw { on.pwr with fields := [(0, r)] }

theorem witness_Temperatures_1 :
    (fld0 { hot := 1 }).pwr.rails = true ∧ (fieldRec (fld0 { hot := 1 }) 0).state = .on ∧ 1 ≤ (fieldRec (fld0 { hot := 1 }) 0).hot ∧
     (fieldRec on 0).hot = 0 ∧ (1600 : Int) < 1760 := by
  decide +kernel

theorem witness_Temperatures_2 :
    1 ≤ (fieldRec (fld0 { crit := 1 }) 0).crit ∧ (fieldRec (fld0 { crit := 1 }) 0).state = .on := by
  decide +kernel

theorem witness_Temperatures_3 :
    let s := fld0 { state := .computeOff, cause := 1, coolSince := some 4 }
    (fieldRec s 0).coolSince = some 4 ∧ (fieldRec s 0).state = .computeOff ∧ (fieldRec s 0).cause = 1 := by
  decide +kernel

theorem witness_Temperatures_4 :
    (on.pwr.stk.get {} 3).half = false ∧ ((pw { stk := [(3, { half := true, coolSince := some 0 })] }).pwr.stk.get {} 3).half = true := by
  decide +kernel

theorem witness_Temperatures_5 :
    let s : State := { pw { rails := true, stk := [(3, { half := true, coolSince := some 0 })] } with t := { now := 2000000 } }
    (s.pwr.stk.get {} 3).coolSince = some 0 ∧ 0 + usec 1000 ≤ s.t.now ∧ s.pwr.rails = true := by
  decide +kernel

theorem witness_Temperatures_6 :
    on.net.dry.stk.getLsbD 3 = false := by
  decide +kernel

theorem witness_DroopAndAgeing_1 :
    computeOff on c0 = false ∧ (opRec on c0).droop = .none := by
  decide +kernel

theorem witness_DroopAndAgeing_2 :
    (opRec (pw { ops := [(0, { droop := .paused 3 })] }) c0).droop = .paused 3 := by
  decide +kernel

theorem witness_DroopAndAgeing_3 :
    (opRec (pw { ops := [(0, { droop := .soft })] }) c0).droop = .soft := by
  decide +kernel

theorem witness_DroopAndAgeing_4 :
    (fieldRec on 0).state = .on ∧ (fieldRec on 0).aged = false ∧ (fieldRec (fld0 { offset := 19 }) 0).offset < 20 ∧
     20 ≤ (fieldRec (fld0 { offset := 20 }) 0).offset ∧ (fieldRec (fld0 { offset := 20 }) 0).state = .on := by
  decide +kernel

/-! ### Witnesses: the facility and wellheads -/

/-- Coolant readings that are good, and the power state after them. -/
def good : Coolant := ⟨some 400, some 600, some 1500, false⟩
def facS (p : Power) : State := { pw p with t := { now := 300000000 } }
def facP (p : Power) (r : Coolant) : Power := readCoolant r (facS p).t.now (facS p).pwr

theorem witness_FacilityAndWellheads_1 :
    (facS { standby := true }).pwr.standby = true ∧ (facP { standby := true } good).rails = false := by
  decide +kernel

theorem witness_FacilityAndWellheads_2 :
    let p := facP { standby := true, rails := true, wetSince := some 0 } { good with wet := true }
    p.rails = true ∧ heldFor 300000000 (usec 100000) p.wetSince = true := by
  decide +kernel

theorem witness_FacilityAndWellheads_3 :
    let p := readCoolant { good with inlet := some 900 } 2000000000 { rails := true, standby := true, hotInSince := some 0 }
    p.rails = true ∧ heldFor 2000000000 (usec 100000) p.wetSince = false ∧ heldFor 2000000000 (usec 1000000) p.hotInSince = true := by
  decide +kernel

theorem witness_FacilityAndWellheads_4 :
    let p := readCoolant { good with flow := some 200 } 2000000000 { rails := true, standby := true, lowFlowSince := some 0 }
    p.rails = true ∧ heldFor 2000000000 (usec 100000) p.wetSince = false ∧ heldFor 2000000000 (usec 1000000) p.hotInSince = false ∧
      heldFor 2000000000 (usec 1000000) p.lowFlowSince = true := by
  decide +kernel

theorem witness_FacilityAndWellheads_5 :
    let p := readCoolant { good with outlet := some 1200 } 2000000000 { rails := true, standby := true, hotOutSince := some 0 }
    p.rails = true ∧ heldFor 2000000000 (usec 100000) p.wetSince = false ∧ heldFor 2000000000 (usec 1000000) p.hotInSince = false ∧
      heldFor 2000000000 (usec 1000000) p.lowFlowSince = false ∧ heldFor 2000000000 (usec 1000000) p.hotOutSince = true := by
  decide +kernel

theorem witness_FacilityAndWellheads_6 :
    let p := facP { standby := true, rails := true } good
    p.rails = true ∧ heldFor 300000000 (usec 100000) p.wetSince = false ∧ heldFor 300000000 (usec 1000000) p.hotInSince = false ∧
      heldFor 300000000 (usec 1000000) p.lowFlowSince = false ∧ heldFor 300000000 (usec 1000000) p.hotOutSince = false := by
  decide +kernel

theorem witness_FacilityAndWellheads_7 :
    let s := pw { standby := true, shut := .coolant, coolOkSince := some 4 }
    s.pwr.coolOkSince = some 4 ∧ s.pwr.shut = .coolant ∧ s.pwr.standby = true := by
  decide +kernel

theorem witness_FacilityAndWellheads_8 :
    (0 : Fin 2) ≠ 1 ∧ (on.pwr.feeds[(1 : Fin 2)]) = true ∧ ((pw { feeds := Vector.replicate 2 false }).pwr.feeds[(1 : Fin 2)]) = false := by
  decide +kernel

theorem witness_FacilityAndWellheads_9 :
    let s := pw { standby := true, feedsLost := some 4 }
    s.pwr.feedsLost = some 4 ∧ s.pwr.standby = true := by
  decide +kernel

theorem witness_FacilityAndWellheads_10 :
    (pw { epo := true }).pwr.epo = true ∧ (pw { epo := true }).pwr.feeds[(0 : Fin 2)] = true := by
  decide +kernel

theorem witness_FacilityAndWellheads_11 :
    let s : State := { on with boot := { ready := true, wellheads := [(0, some c1)], silent := [(0, some 5)] } }
    s.boot.ready = true ∧ s.pwr.rails = true ∧ wellheadOf s 0 = some c1 ∧ s.boot.silent.get none 0 = some 5 ∧
      (waitUntil s (s.t.now + usec 100)).t.now < 5 + usec 1000 := by
  decide +kernel

theorem witness_FacilityAndWellheads_12 :
    let s : State := { on with t := { now := 2000000 }, boot := { ready := true, wellheads := [(0, some c1)], silent := [(0, some 5)] } }
    wellheadOf s 0 = some c1 ∧ s.boot.silent.get none 0 = some 5 ∧ 5 + usec 1000 ≤ (waitUntil s (s.t.now + usec 100)).t.now := by
  decide +kernel

theorem witness_FacilityAndWellheads_13 :
    ({ on with boot := { ready := true, loading := [(0, some c1)] } } : State).boot.loading.get none 0 = some c1 := by
  decide +kernel

/-! ### Witnesses: host attachment -/

def f0 : FnId := ⟨0, 0⟩

/-- The physical function of port 0 with the queue pair 0 and event settings given. -/
def qS (q : QRec) (e : FnRec) : State :=
  { hostS true with host := { (hostS true).host with fns := [(0, { e with qs := (Vector.replicate 4 {}).set 0 q })] } }
def runQ : QRec := { enable := true, state := .running, sqSize := 3, cpqSize := 3, sqTail := 1, unsig := 1, irqEn := true }
def runE : FnRec := { enable := true, state := .running, size := 4, unsig := 1, irqEn := true }

theorem witness_QueueRegisters_1 :
    fnOn (qS runQ runE) f0 = true ∧ ((fnRec (qS runQ runE) f0).qs[(0 : Fin 4)]).state = .running ∧ fld 7 0 12 < 2 ^ 3 ∧ 2 ^ 3 ≤ fld 8 0 12 ∧
     (fnRec (qS runQ runE) f0).state = .running ∧ fld 15 0 12 < 2 ^ 4 ∧ 2 ^ 4 ≤ fld 16 0 12 := by
  decide +kernel

theorem witness_QueueRegisters_2 :
    fnOn (qS {} {}) f0 = true ∧ ((fnRec (qS {} {}) f0).qs[(0 : Fin 4)]).state ≠ .running ∧ (fnRec (qS {} {}) f0).state ≠ .running ∧
     ((fnRec (qS {} {}) f0).qs[(0 : Fin 4)]).enable = false ∧ (fnRec (qS {} {}) f0).enable = false := by
  decide +kernel

theorem witness_CommandsAndCompletions_1 :
    let s := qS runQ runE
    let r := (fnRec s f0).qs[(0 : Fin 4)]
    fnOn s f0 = true ∧ r.state = .running ∧ r.sqHead ≠ r.sqTail ∧
      (r.cpqTail + 2 ^ r.cpqSize - r.cpqHead) % 2 ^ r.cpqSize + (fetched s f0 0).length + 1 ≤ 2 ^ r.cpqSize - 1 ∧
      hostStatus s (r.sqBase.toNat + 64 * r.sqHead) 64 = 0x00 ∧ r.unsig ≠ 0 ∧ r.irqEn = true ∧ hostStatus s (r.cpqBase.toNat + 32 * r.cpqTail) 32 = 0x00 := by
  decide +kernel

theorem witness_CommandsAndCompletions_2 :
    (fnRec (qS runQ runE) f0).unsig ≠ 0 ∧ (fnRec (qS runQ runE) f0).irqEn = true ∧ (fnRec (qS runQ runE) f0).state = .running := by
  decide +kernel

theorem witness_HostLinksAndRegisterWrites_1 :
    fnOn (hostS true) f0 = true ∧ ((hostS true).host.ports[(0 : Fin 2)]).up = true := by
  decide +kernel

theorem witness_HostLinksAndRegisterWrites_2 :
    cxlMayTrain on 0 = true ∧ (on.host.ports[(0 : Fin 2)]).up = false := by
  decide +kernel

theorem witness_HostLinksAndRegisterWrites_3 :
    f0 ∈ portFns (qS runQ runE) 0 ∧ (⟨0, 5⟩ : FnId) ∈ portFns { on with host := { on.host with fns := [(5, runE)] } } 0 := by
  decide +kernel

theorem witness_HostLinksAndRegisterWrites_4 :
    layoutOk 0xFF40000000004000 = true ∧ addrSpace 0xFF40000000004000 = 4 ∧ (0xFF40000000004000 : Word).toNat % 8 = 0 ∧
     addrModule 0xFF40000000004000 = 0xFF ∧ layoutOk 0xFF70000000000000 = false := by
  decide +kernel

theorem witness_HostLinksAndRegisterWrites_5 :
    ((fnRec (qS {} {}) f0).qs[(0 : Fin 4)]).enable = false ∧ ((fnRec (qS runQ runE) f0).qs[(0 : Fin 4)]).enable = true ∧
     (fnRec (qS {} {}) f0).enable = false ∧ fnOn on f0 = false := by
  decide +kernel

/-! ### Witnesses: host commands -/

/-- A fetched command of the PF of port 0: opcode, partition, and parameter dwords from D2. -/
def k0 : CmdKey := ⟨f0, 0, 5⟩
def cmd (op part : Nat) (ds : List Nat) : Cmd :=
  { key := k0, raw := BitVec.ofNat 512 (op + part * 2 ^ 24 + 5 * 2 ^ 32 + (ds.zipIdx.map fun e => e.1 * 2 ^ (64 + 32 * e.2)).sum)
    serial := 0, live := true, started := false, done := none }
def cmdS (c : Cmd) (s : State) : State := { s with host := { s.host with cmds := [c], ports := Vector.replicate 2 { up := true, width := 8, numVfs := 1 } } }

/-- `Runs` as a computation. -/
def runsB (s : State) (op : Nat) (c : Cmd) : Bool :=
  s.host.cmds.find? (·.key == k0) == some c && cmdOp c.raw == op && (cmdRow op).any fun r => mayRun s r c && cmdCheck s r c == 0x00

theorem runs_of (s : State) (op : Nat) (c : Cmd) (h : runsB s op c = true) : Runs s k0 op c := by
  unfold runsB at h
  simp only [Bool.and_eq_true, beq_iff_eq, Option.any_eq_true] at h
  obtain ⟨⟨h1, h2⟩, r, h3, h4, h5⟩ := h
  exact ⟨h1, h2, r, h3, h4, h5⟩

theorem runsIn_of (s : State) (op : Nat) (c : Cmd) (p : Fin 64) (r : PartRec) (h : runsB s op c = true) (h1 : cmdTarget s c = some p)
    (h2 : partOf s p = some r) : RunsIn s k0 op c p r := ⟨runs_of s op c h, h1, h2⟩

/-- The commands of the module, and those of partition 1, that the statements name, with parameters that they take. -/
def moduleCmds : List Cmd :=
  [cmd 0x0101 0xFF [], cmd 0x0101 0xFF [0x1000, 0, 512], cmd 0x0102 0xFF [], cmd 0x0601 0xFF [], cmd 0x0605 0xFF [], cmd 0x0701 0xFF [],
   cmd 0x0801 0xFF [], cmd 0x0903 0xFF [], cmd 0x0905 0xFF [], cmd 0x0B01 0xFF [], cmd 0x0B03 0xFF [], cmd 0x0B04 0xFF [], cmd 0x0B05 0xFF [],
   cmd 0x0405 0xFF [], cmd 0x0501 0xFF [], cmd 0x0502 0xFF [], cmd 0x0503 0xFF [], cmd 0x0303 0xFF [0, 0x4000], cmd 0x0303 0xFF [0, 0x4001]] ++
  [cmd 0x0207 1 [0x304], cmd 0x0208 0xFF [2], cmd 0x0208 1 [2], cmd 0x0103 0xFF [3], cmd 0x0103 0xFF [12], cmd 0x0103 0xFF [5], cmd 0x0103 0xFF [6],
   cmd 0x0103 0xFF [7], cmd 0x0404 0xFF [0], cmd 0x0302 0xFF [0, 0x4100], cmd 0x0602 0xFF [200 + 200 * 2 ^ 16, 0], cmd 0x0702 0xFF [5, 0], cmd 0x0702 0xFF [12, 0],
   cmd 0x0703 0xFF [1], cmd 0x0704 0xFF [7, 0], cmd 0x0802 0xFF [0x102], cmd 0x0802 0xFF [0x002], cmd 0x0802 0xFF [0x202], cmd 0x0802 0xFF [0x302],
   cmd 0x0803 0xFF [1], cmd 0x0803 0xFF [0], cmd 0x0901 0xFF [0x1000, 0, 4, 0x1000], cmd 0x0901 0xFF [0x1000, 0, 4, 1], cmd 0x0902 0xFF [],
   cmd 0x0904 0xFF [0x1000, 0, 512, 1], cmd 0x0904 0xFF [0x1000, 0, 511, 1], cmd 0x0B02 0xFF [0], cmd 0x0B02 0xFF [0x10000003], cmd 0x0B02 0xFF [0x20000000],
   cmd 0x0B02 0xFF [0x50000003], cmd 0x0B02 0xFF [0xF0000000]]
def partCmds : List Cmd :=
  [cmd 0x020F 1 [], cmd 0x0603 1 [], cmd 0x0504 1 [0x1000, 0, 64], cmd 0x0A01 1 [], cmd 0x0202 1 [], cmd 0x0203 1 [0x201], cmd 0x0203 1 [0x001],
   cmd 0x0204 1 [0x1000, 0, 2], cmd 0x0204 1 [0x1000, 0, 2, 1], cmd 0x0206 1 [0x21, 0x10000, 8], cmd 0x0206 1 [0x01],
   cmd 0x0209 1 [2, 0, 100000], cmd 0x0209 1 [1001], cmd 0x020B 1 [3, 0x1000, 0, 8], cmd 0x020C 1 [4], cmd 0x020D 1 [2, 0x1000, 0, 2],
   cmd 0x020E 1 [2], cmd 0x020A 1 [0x1701, 0], cmd 0x020A 1 [2, 0], cmd 0x020A 1 [3, 0], cmd 0x0301 1 [0x1000, 0, 96],
   cmd 0x0401 1 [0x1000, 0, 64, 0, 0xFF100000, 0], cmd 0x0401 1 [0x1000, 0, 64, 0, 0xFF100000, 1], cmd 0x0402 1 [0, 1], cmd 0x0402 1 [0, 0], cmd 0x0403 1 [0, 0],
   cmd 0x0403 1 [3071, 1], cmd 0x0604 1 [0x1004, 1], cmd 0x0604 1 [0x1003, 1], cmd 0x0804 1 [0x105], cmd 0x0804 1 [0x1FF], cmd 0x0804 1 [0x105, 1]] ++
  [cmd 0x0A02 1 [7, 0, 0x3F, 0, 9, 0, 5, 0], cmd 0x0A02 1 [1, 0, 0x40, 0], cmd 0x0A03 1 []]

/-- The record of partition 1 in `on`. -/
def rec1 : PartRec := { port := 0, vf := 1, beds := [0], state := .active }

theorem witness_commands_run : ∀ c ∈ moduleCmds, Runs (cmdS c on) k0 (cmdOp c.raw) c := by
  intro c h
  exact runs_of _ _ _ (List.all_eq_true.mp (by decide +kernel : (moduleCmds.all fun c => runsB (cmdS c on) (cmdOp c.raw) c) = true) c h)

theorem witness_partition_commands_run : ∀ c ∈ partCmds, RunsIn (cmdS c on) k0 (cmdOp c.raw) c 1 rec1 := by
  intro c h
  have := List.all_eq_true.mp (by decide +kernel :
    (partCmds.all fun c => runsB (cmdS c on) (cmdOp c.raw) c && (cmdTarget (cmdS c on) c == some 1) && (partOf (cmdS c on) 1 == some rec1)) = true) c h
  simp only [Bool.and_eq_true, beq_iff_eq] at this
  exact runsIn_of _ _ _ _ _ this.1.1 this.1.2 this.2

def row (op : Nat) : CmdRow := (cmdRow op).getD { op := 0, pfOnly := false, cls := .reads, part := .none, bits := [] }

theorem witness_CommandChecksAndBuffers_1 :
    reservedZero (row 0x0102) (cmd 0x0102 0xFF [1]).raw = false ∧ reservedZero (row 0x0202) (cmd 0x0202 1 []).raw = true := by
  decide +kernel

theorem witness_CommandChecksAndBuffers_2 :
    ({ on with boot := {} } : State).boot.ready = false ∧ (row 0x0202).early = false := by
  decide +kernel

theorem witness_CommandChecksAndBuffers_3 :
    ({ on with boot := { ready := true, lc := .returned } } : State).boot.lc = .returned ∧ (row 0x0202).returned = false ∧ on.boot.lc ≠ .returned := by
  decide +kernel

theorem witness_CommandChecksAndBuffers_4 :
    let c : Cmd := { cmd 0x0202 1 [] with key := ⟨⟨0, 1⟩, 0, 5⟩ }
    vfNames (cmdS c on) c = true ∧ (row 0x0202).pfOnly = true ∧ c.key.fn.vf.val ≠ 0 := by
  decide +kernel

theorem witness_CommandChecksAndBuffers_5 :
    vfNames on (cmd 0x020F 9 []) = true ∧ (row 0x020F).pfOnly = false ∧ partNamed on (row 0x020F) (cmd 0x020F 9 []) = false := by
  decide +kernel

theorem witness_CommandChecksAndBuffers_6 :
    let c : Cmd := { cmd 0x0102 0xFF [] with started := true }
    (cmdS c on).host.cmds.find? (·.key == k0) = some c ∧ mayRun (cmdS c on) (row 0x0102) c = false := by
  decide +kernel

theorem witness_CommandChecksAndBuffers_7 :
    mayRun (cmdS (cmd 0x0102 0xFF [1]) on) (row 0x0102) (cmd 0x0102 0xFF [1]) = true ∧
     cmdCheck (cmdS (cmd 0x0102 0xFF [1]) on) (row 0x0102) (cmd 0x0102 0xFF [1]) ≠ 0x00 := by
  decide +kernel

theorem witness_CommandChecksAndBuffers_8 :
    mayRun (cmdS (cmd 0x0102 0xFF []) on) (row 0x0102) (cmd 0x0102 0xFF []) = true ∧
     cmdCheck (cmdS (cmd 0x0102 0xFF []) on) (row 0x0102) (cmd 0x0102 0xFF []) = 0x00 ∧ on.host.cmds.find? (·.key == k0) = none := by
  decide +kernel

theorem witness_CommandChecksAndBuffers_9 :
    let c := cmd 0x0601 0xFF [0x1000, 0, 40]
    bufAddr c 2 % 64 = 0 ∧ [1, 2].length ≤ bufLen c 2 ∧ bufStatus (cmdS c on) c (bufAddr c 2) 2 = 0x00 ∧ bufStatus (cmdS c on) c (bufAddr c 2) (bufLen c 2) = 0x00 ∧
      bufLen c 2 < (List.replicate 41 (0 : Byte)).length ∧ bufAddr (cmd 0x0601 0xFF [0x1001, 0, 40]) 2 % 64 ≠ 0 := by
  decide +kernel

/-- A fetched command in `on`, in front of its witness. -/
def cs (op part : Nat) (ds : List Nat) : State := cmdS (cmd op part ds) on

theorem witness_ReadCommands_1 :
    bufLen (cmd 0x0101 0xFF []) 2 = 0 ∧ 512 ≤ bufLen (cmd 0x0101 0xFF [0x1000, 0, 512]) 2 ∧ bufAddr (cmd 0x0101 0xFF [0x1000, 0, 512]) 2 % 64 = 0 ∧
     bufStatus (cs 0x0101 0xFF [0x1000, 0, 512]) (cmd 0x0101 0xFF [0x1000, 0, 512]) 0x1000 512 = 0x00 := by
  decide +kernel

theorem witness_ReadCommands_2 :
    (csetOf (cmdD (cmd 0x0B03 0xFF []).raw 2)).isSome = true ∧ (csetOf (cmdD (cmd 0x0501 0xFF []).raw 2)) = some [c0] := by
  decide +kernel

theorem witness_ReadCommands_3 :
    (cs 0x0504 1 [0x1000, 0, 64]).sync.snapshots.get [] 1 = [] := by
  decide +kernel

theorem witness_ReadCommands_4 :
    let c := cmd 0x0504 1 [0x1000, 0, 64]
    let s : State := { cmdS c on with sync := { on.sync with snapshots := [(1, [5])] } }
    runsB s 0x0504 c = true ∧ s.sync.snapshots.get [] 1 = [5] ∧ bufAddr c 2 % 64 = 0 ∧ [5].length ≤ bufLen c 2 ∧ bufStatus s c (bufAddr c 2) 1 = 0x00 := by
  decide +kernel

theorem witness_ReadCommands_5 :
    inReach (cs 0x0501 0xFF []) (cmd 0x0501 0xFF []) c0 = true ∧ cidOf (cmdD (cmd 0x0502 0xFF []).raw 2) = some c0 ∧
     (arrOf (cs 0x0502 0xFF []) c0).state ≠ .frozen ∧ inReach (cs 0x0501 1 [32767]) (cmd 0x0501 1 [32767]) ⟨1, 0, 0⟩ = false := by
  decide +kernel

theorem witness_ReadCommands_6 :
    let c := cmd 0x0502 0xFF []
    let s : State := { cmdS c on with arr := { on.arr with recs := [(0, { state := .frozen })] } }
    runsB s 0x0502 c = true ∧ inReach s c c0 = true ∧ (arrOf s c0).state = .frozen := by
  decide +kernel

theorem witness_ReadCommands_7 :
    let s := cs 0x0503 0xFF []
    inReach s (cmd 0x0503 0xFF []) c0 = true ∧ regPerm (rouse c0 s) (cmdWho (rouse c0 s) (cmd 0x0503 0xFF [])) c0 = 0x00 := by
  decide +kernel

theorem witness_ReadCommands_8 :
    let c := cmd 0x0503 1 [16384]
    let s := cs 0x0503 1 [16384]
    runsB s 0x0503 c = true ∧ (∃ x ∈ [(⟨1, 0, 0⟩ : Cl)], cidOf (cmdD c.raw 2) = some x ∧ inReach s c x = false) := by
  decide +kernel

theorem witness_ReadCommands_9 :
    cmdD (cmd 0x0303 0xFF [0, 0x4000]).raw 3 % 8 = 0 ∧ cmdD (cmd 0x0303 0xFF [0, 0x4001]).raw 3 % 8 ≠ 0 := by
  decide +kernel

theorem witness_ReadCommands_10 :
    let c := cmd 0x0303 1 [16384, 0x4000]
    runsB (cmdS c on) 0x0303 c = true ∧ cidOf (cmdD c.raw 2) = some ⟨1, 0, 0⟩ ∧ inReach (cmdS c on) c ⟨1, 0, 0⟩ = false := by
  decide +kernel

/-- Host memory with bytes at 0x1000. -/
def hostMem (d : List Byte) (s : State) : State :=
  { s with mem := { s.mem with host := ((d.zipIdx.map fun e => (0x1000 + e.2, e.1)).filter fun e => e.2 != 0) } }
def hasPart (r : PartRec) (s : State) : State := { s with part := { s.part with parts := [(1, some r)] } }

/-- An image of one section, without content, for the cistern. -/
def img : List Byte :=
  leBytes 64 (0x49585253 + 2 ^ 32 + 2 ^ 48 + 2 ^ 64 + 2 ^ 80 + 2 ^ 96 + 96 * 2 ^ 128 + 1932167118 * 2 ^ 192) ++ leBytes 32 (4 + 96 * 2 ^ 128)

theorem witness_PartitionCommands_1 :
    let c := cmd 0x0201 9 [0x500]
    runsB (cmdS c on) 0x0201 c = true ∧ cmdPart c.raw = 9 ∧ (vfParam c).2 ≠ 0 ∧ partOf (cmdS c on) 9 = none ∧ vfTaken (cmdS c on) (vfParam c) none = false := by
  decide +kernel

theorem witness_PartitionCommands_2 :
    let c := cmd 0x0201 1 [0x500]
    runsB (cmdS c on) 0x0201 c = true ∧ cmdPart c.raw = 1 ∧ (partOf (cmdS c on) 1).isSome = true := by
  decide +kernel

theorem witness_PartitionCommands_3 :
    (vfParam (cmd 0x0203 1 [0x201])).2 ≠ 0 ∧ vfTaken (cs 0x0203 1 [0x201]) (vfParam (cmd 0x0203 1 [0x201])) (some 1) = false ∧
     (vfParam (cmd 0x0203 1 [0x001])).2 = 0 := by
  decide +kernel

theorem witness_PartitionCommands_4 :
    let s : State := { cs 0x0203 1 [0x201] with part := { on.part with parts := [(1, some rec1), (2, some { port := 1, vf := 2 })] } }
    runsB s 0x0203 (cmd 0x0203 1 [0x201]) = true ∧ vfTaken s (vfParam (cmd 0x0203 1 [0x201])) (some 1) = true := by
  decide +kernel

theorem witness_PartitionCommands_5 :
    let c := cmd 0x0204 1 [0x1000, 0, 2]
    let s := hostMem [1, 0] (cmdS c on)
    runsB s 0x0204 c = true ∧ takeData s c 2 = .inr [1, 0] ∧ bedsKind c.raw = false ∧ bedsKind (cmd 0x0204 1 [0x1000, 0, 2, 1]).raw = true := by
  decide +kernel

theorem witness_PartitionCommands_6 :
    bedEntries [1, 0] = some [1] ∧ bedEntries [0, 0] = some [0] := by
  decide +kernel

theorem witness_PartitionCommands_7 :
    let new := ([1].filter fun b => !rec1.beds.contains b).eraseDups
    bedsConnected (sortBeds (rec1.beds ++ new)) = true ∧ (new.any fun b => (bedOwner on b).isSome) = false ∧
      (new.any fun b => (bedClusters b).all fun x => !clLive on x) = false := by
  decide +kernel

theorem witness_PartitionCommands_8 :
    bedsConnected (rec1.beds.filter fun b => !([0]).contains b) = true ∧ ([0].all fun b => rec1.beds.contains b) = true := by
  decide +kernel

theorem witness_PartitionCommands_9 :
    let c := cmd 0x0206 1 [0x21, 0x10000, 8]
    regValid c.raw = true ∧ regPages c.raw = 1 ∧ regStacks c.raw = [3] ∧ regStart c.raw + 1 ≤ 4096 ∧ on.net.dry.stk.getLsbD 3 = false ∧
      rec1.regions[(regIndex c.raw)] = none ∧ rec1.regions.toList.filterMap id = [] ∧ ((freeStackPages on 3).take 1).length = 1 := by
  decide +kernel

theorem witness_PartitionCommands_10 :
    let c := cmd 0x0206 1 [0x01]
    let g : StackRegion := ⟨0, true, [3], 1, [[0]]⟩
    let r : PartRec := { rec1 with regions := rec1.regions.set 1 (some g) }
    runsB (hasPart r (cmdS c on)) 0x0206 c = true ∧ regValid c.raw = false ∧ r.regions[(regIndex c.raw)] = some g := by
  decide +kernel

theorem witness_PartitionCommands_11 :
    fld (cmdD (cmd 0x0207 1 [0x304]).raw 2) 0 6 < 48 := by
  decide +kernel

theorem witness_PartitionCommands_12 :
    cmdTarget on (cmd 0x0208 0xFF [2]) = none ∧ cmdTarget on (cmd 0x0208 1 [2]) = some 1 ∧ portDry on 2 = false ∧ (portRec on 2).bound = none := by
  decide +kernel

theorem witness_PartitionCommands_13 :
    let s : State := { cs 0x0208 1 [2] with fab := { on.fab with ports := [(2, { bound := some 5 })] } }
    runsB s 0x0208 (cmd 0x0208 1 [2]) = true ∧ (portRec s 2).bound = some 5 ∧ (5 : Fin 64) ≠ 1 := by
  decide +kernel

theorem witness_PartitionCommands_14 :
    (timeoutIn 2 1000 2 && timeoutIn 100 100000 0 && timeoutIn 100 100000 100000) = true ∧ timeoutIn 2 1000 1001 = false := by
  decide +kernel

theorem witness_PartitionCommands_15 :
    let c := cmd 0x020B 1 [3, 0x1000, 0, 8]
    let s := hostMem [0, 0, 1, 0, 0, 0, 0, 0] (cmdS c on)
    runsB s 0x020B c = true ∧ takeData s c 3 = .inr [0, 0, 1, 0, 0, 0, 0, 0] ∧ entriesOf 8 9 [0, 0, 1, 0, 0, 0, 0, 0] = some [65536] ∧
      ([65536] : List Nat).mapM (barEntry (fld (cmdD c.raw 2) 16 16)) = some [(c0, { expected := 1, valid := true })] ∧
      rootOf s 1 3 = none ∧ owner s c0 = some 1 ∧ s.sync.roots.length + s.net.fountains.length < 128 := by
  decide +kernel

theorem witness_PartitionCommands_16 :
    let c := cmd 0x020C 1 [4]
    let s : State := { cmdS c on with sync := (barS 1).sync }
    runsB s 0x020C c = true ∧ (rootOf s 1 4).isSome = true := by
  decide +kernel

theorem witness_PartitionCommands_17 :
    let c := cmd 0x020D 1 [2, 0x1000, 0, 2]
    let s := hostMem [0, 0] (cmdS c on)
    runsB s 0x020D c = true ∧ takeData s c 3 = .inr [0, 0] ∧ entriesOf 2 3 [0, 0] = some [0] ∧ ([0] : List Nat).mapM cidOf = some [c0] ∧
      s.net.fountains.get none (16 + 2) = none := by
  decide +kernel

theorem witness_PartitionCommands_18 :
    let c := cmd 0x020E 1 [2]
    let s : State := { cmdS c on with net := { on.net with fountains := [(18, some ⟨c0, [c0]⟩)] } }
    runsB s 0x020E c = true ∧ (s.net.fountains.get none (16 + cmdD c.raw 2 % 16)).isSome = true ∧ on.net.fountains.get none 18 = none := by
  decide +kernel

theorem witness_ResetCommands_1 :
    devKind (cmd 0x0103 0xFF [12]).raw = 4 ∧ devKind (cmd 0x0103 0xFF [3]).raw < 4 ∧ devKind (cmd 0x0103 0xFF [5]).raw = 5 ∧
     devKind (cmd 0x0103 0xFF [6]).raw = 6 ∧ devKind (cmd 0x0103 0xFF [7]).raw = 7 := by
  decide +kernel

theorem witness_ResetCommands_2 :
    let c := cmd 0x020A 1 [0x1701, 0]
    cidOf (cmdD c.raw 3) = some c0 ∧ resetKind c.raw = 1 ∧ fld (cmdD c.raw 2) 8 5 < 24 ∧ owner (cmdS c on) c0 = some 1 := by
  decide +kernel

theorem witness_ResetCommands_3 :
    resetKind (cmd 0x020A 1 [2, 0]).raw = 2 ∧ resetKind (cmd 0x020A 1 [3, 0]).raw = 3 := by
  decide +kernel

theorem witness_ResetCommands_4 :
    let c := cmd 0x020A 1 [2, 16384]
    runsB (cmdS c on) 0x020A c = true ∧ cidOf (cmdD c.raw 3) = some ⟨1, 0, 0⟩ ∧ owner (cmdS c on) ⟨1, 0, 0⟩ ≠ some 1 := by
  decide +kernel

theorem witness_ResetCommands_5 :
    partOf on 1 = some rec1 ∧ rec1.reset = none := by
  decide +kernel

theorem witness_ResetCommands_6 :
    let r : PartRec := { rec1 with reset := some ⟨4, 3, false, false, []⟩ }
    partOf (hasPart r on) 1 = some r := by
  decide +kernel

theorem witness_ResetCommands_7 :
    let r : PartRec := { rec1 with reset := some ⟨4, 3, true, false, []⟩ }
    partOf (hasPart r on) 1 = some r := by
  decide +kernel


/-- LOAD_IMAGE of that image, fetched. -/
def imgC : Cmd := cmd 0x0301 1 [0x1000, 0, 96]
def imgS : State := hostMem img (cmdS imgC on)

theorem witness_MemoryCommands_1 : runsB imgS 0x0301 imgC = true ∧ takeData imgS imgC 2 = .inr img := by
  refine ⟨by decide +kernel, ?_⟩
  have h1 : bufAddr imgC 2 = 0x1000 := by decide +kernel
  have h2 : bufLen imgC 2 = 96 := by decide +kernel
  have h3 : bufStatus imgS imgC 0x1000 96 = 0x00 := by decide +kernel
  have h4 : readBytes imgS.mem.host 0x1000 96 = img := by decide +kernel
  simp [takeData, h1, h2, h3, h4]

/-- The bytes that the image's CRC is over, in pieces. -/
theorem img_crc_bytes : img.take 24 ++ ([0, 0, 0, 0] : List Byte) ++ img.drop 28 =
    [83, 82, 88, 73, 1, 0, 1, 0, 1, 0, 1, 0, 1, 0, 0, 0] ++ ([96, 0, 0, 0, 0, 0, 0, 0, 0, 0, 0, 0, 0, 0, 0, 0] ++ ((List.replicate 16 0) ++ ((List.replicate 16 0) ++ ([4, 0, 0, 0, 0, 0, 0, 0, 0, 0, 0, 0, 0, 0, 0, 0] ++ ([96, 0, 0, 0, 0, 0, 0, 0, 0, 0, 0, 0, 0, 0, 0, 0]))))) := by
  decide +kernel

theorem img_crc : crc32c (img.take 24 ++ ([0, 0, 0, 0] : List Byte) ++ img.drop 28) = 1932167118 := by
  have s0 : ([83, 82, 88, 73, 1, 0, 1, 0, 1, 0, 1, 0, 1, 0, 0, 0] : List Byte).foldl crcByte (4294967295 : BitVec 32) = 1455274809 := by decide +kernel
  have s1 : ([96, 0, 0, 0, 0, 0, 0, 0, 0, 0, 0, 0, 0, 0, 0, 0] : List Byte).foldl crcByte (1455274809 : BitVec 32) = 1130018978 := by decide +kernel
  have s2 : ((List.replicate 16 0) : List Byte).foldl crcByte (1130018978 : BitVec 32) = 2296590436 := by decide +kernel
  have s3 : ((List.replicate 16 0) : List Byte).foldl crcByte (2296590436 : BitVec 32) = 186028925 := by decide +kernel
  have s4 : ([4, 0, 0, 0, 0, 0, 0, 0, 0, 0, 0, 0, 0, 0, 0, 0] : List Byte).foldl crcByte (186028925 : BitVec 32) = 2194751284 := by decide +kernel
  have s5 : ([96, 0, 0, 0, 0, 0, 0, 0, 0, 0, 0, 0, 0, 0, 0, 0] : List Byte).foldl crcByte (2194751284 : BitVec 32) = 2362800177 := by decide +kernel
  simp only [crc32c, img_crc_bytes, List.foldl_append, s0, s1, s2, s3, s4, s5]
  decide

theorem witness_MemoryCommands_2 : (imageSections img).isSome = true := by
  unfold imageSections
  simp only [img_crc]
  decide +kernel

theorem witness_MemoryCommands_3 :
    imageSections (List.replicate 96 0) = none := by
  decide +kernel

theorem witness_MemoryCommands_4 :
    let c := cmd 0x0401 1 [0x1000, 0, 64, 0, 0xFF100000, 0]
    let a := cmdD c.raw 5 + cmdD c.raw 6 * 2 ^ 32
    bufLen c 2 ≠ 0 ∧ bufLen c 2 ≤ 2 ^ 24 ∧ fld a 56 8 = 0xFF ∧ fld a 52 4 ≤ 3 ∧ bufAddr c 2 % 64 = 0 ∧ bufStatus (cmdS c on) c (bufAddr c 2) (bufLen c 2) = 0x00 ∧
      bit (cmdD c.raw 7) 0 = false ∧ bit (cmdD (cmd 0x0401 1 [0x1000, 0, 64, 0, 0xFF100000, 1]).raw 7) 0 = true := by
  decide +kernel

theorem witness_MemoryCommands_5 :
    let c := cmd 0x0402 1 [0, 1]
    let s := hasPart { rec1 with regions := rec1.regions.set 0 (some ⟨0, true, [3], 1, [[0]]⟩) } (cmdS c on)
    runsB s 0x0402 c = true ∧ cmdD c.raw 3 ≠ 0 ∧ (∀ i < 1, pageMapped s 1 (cmdD c.raw 2 + i) = true) := by
  decide +kernel

theorem witness_MemoryCommands_6 :
    cmdD (cmd 0x0402 1 [0, 0]).raw 3 = 0 ∧ pageMapped on 1 0 = false := by
  decide +kernel

theorem witness_MemoryCommands_7 :
    let c := cmd 0x0403 1 [0, 0]
    let s := hasPart { rec1 with regions := rec1.regions.set 0 (some ⟨0, true, [3], 1, [[0]]⟩) } (cmdS c on)
    runsB s 0x0403 c = true ∧ cmdD c.raw 2 < hdmGib s ∧ pageMapped s 1 (cmdD c.raw 3) = true := by
  decide +kernel

theorem witness_MemoryCommands_8 :
    pageMapped (cs 0x0403 1 [3071, 1]) 1 1 = false := by
  decide +kernel

theorem witness_MemoryCommands_9 :
    cmdD (cmd 0x0302 0xFF [0, 0x4100]).raw 3 % 8 = 0 ∧ csetOf (cmdD (cmd 0x0302 0xFF [0, 0x4100]).raw 2) = some [c0] := by
  decide +kernel

theorem witness_PowerAndClockSettings_1 :
    fld 12 2 2 = 3 ∧ fld 5 5 27 = 0 ∧ cmdD (cmd 0x0702 0xFF [5, 0]).raw 3 = 0 ∧ fld 5 2 2 ≠ 3 := by
  decide +kernel

theorem witness_PowerAndClockSettings_2 :
    on.t.valid[(1 : Fin 2)] = false := by
  decide +kernel

theorem witness_PowerAndClockSettings_3 :
    let s : State := { cs 0x0703 0xFF [1] with t := { valid := Vector.replicate 2 true } }
    runsB s 0x0703 (cmd 0x0703 0xFF [1]) = true ∧ s.t.valid[(1 : Fin 2)] = true ∧ s.t.spring = .settled ∧ (1 : Fin 2) ≠ s.t.source := by
  decide +kernel

theorem witness_PowerAndClockSettings_4 :
    let s : State := { cs 0x0703 0xFF [1] with t := { valid := Vector.replicate 2 true, source := 1 } }
    runsB s 0x0703 (cmd 0x0703 0xFF [1]) = true ∧ (1 : Fin 2) = s.t.source ∧ s.t.coast = false ∧ s.t.spring = .settled := by
  decide +kernel

theorem witness_PowerAndClockSettings_5 :
    let s : State := { cs 0x0703 0xFF [1] with t := { valid := Vector.replicate 2 true, spring := .switching 1 0 0 } }
    runsB s 0x0703 (cmd 0x0703 0xFF [1]) = true ∧ s.t.spring ≠ .settled := by
  decide +kernel

theorem witness_PowerAndClockSettings_6 :
    on.t.discipline ≠ 2 ∧ isManager ({ on with t := { discipline := 2 } } : State) = true ∧
     runsB { cs 0x0704 0xFF [7, 0] with t := { discipline := 2 } } 0x0704 (cmd 0x0704 0xFF [7, 0]) = true := by
  decide +kernel

theorem witness_PowerAndClockSettings_7 :
    let v := 200 + 880 * 2 ^ 16 + 3520 * 2 ^ 32
    fld v 11 5 = 0 ∧ fld v 27 5 = 0 ∧ fld v 44 20 = 0 ∧ 200 ≤ fld v 0 10 ∧ fld v 16 10 ≤ 880 ∧ fld v 32 12 ≤ 3520 ∧ on.fab.role ≠ .manager ∧ fld 199 0 10 < 200 := by
  decide +kernel

theorem witness_PowerAndClockSettings_8 :
    let v := 0x1004 + 2 ^ 32 + 2 * 2 ^ 16
    fld v 5 3 = 0 ∧ fld v 13 3 = 0 ∧ fld v 48 16 = 0 ∧ 4 ≤ fld v 0 5 ∧ fld v 0 5 ≤ fld v 8 5 ∧ fld v 8 5 ≤ 16 ∧ 2 ≤ fld v 16 16 ∧ 1 ≤ fld v 32 16 ∧
      ¬ 4 ≤ fld 0x1003 0 5 := by
  decide +kernel

theorem witness_OcsalSettings_1 :
    let s : State := { cs 0x0802 0xFF [0x102] with net := { on.net with dry := { ocsal := 4 } } }
    runsB s 0x0802 (cmd 0x0802 0xFF [0x102]) = true ∧ portDry s 2 = true ∧ portParam (cmd 0x0802 0xFF [0x102]) = 2 := by
  decide +kernel

theorem witness_OcsalSettings_2 :
    portOp (cmd 0x0802 0xFF [0x102]).raw = 1 ∧ portOp (cmd 0x0802 0xFF [0x002]).raw = 0 ∧ portOp (cmd 0x0802 0xFF [0x202]).raw = 2 ∧
     portOp (cmd 0x0802 0xFF [0x302]).raw = 3 ∧ on.pwr.slotId.val < 4 ∧ (portRec on 2).state.on = false ∧ portDry on 2 = false := by
  decide +kernel

theorem witness_OcsalSettings_3 :
    anyHall on = false ∧ on.fab.poll = none ∧ roleOf (fld (cmdD (cmd 0x0803 0xFF [0]).raw 2) 0 2) = on.fab.role ∧
     roleOf (fld (cmdD (cmd 0x0803 0xFF [1]).raw 2) 0 2) ≠ on.fab.role := by
  decide +kernel

theorem witness_OcsalSettings_4 :
    let s := hasPart { rec1 with hall := [(5, 1)] } (cs 0x0803 0xFF [1])
    runsB s 0x0803 (cmd 0x0803 0xFF [1]) = true ∧ anyHall s = true := by
  decide +kernel

theorem witness_OcsalSettings_5 :
    let c := cmd 0x0804 1 [0x105]
    let s : State := { cmdS c on with fab := { num := some 3, mask := 0x28 } }
    runsB s 0x0804 c = true ∧ hallUndo c.raw = false ∧ (hallParam c).1 ≠ 0xFF ∧ s.fab.num.isSome = true ∧ some (hallParam c).1 ≠ s.fab.num ∧
      moduleAssigned s (hallParam c).1 = true ∧ rec1.hall = [] := by
  decide +kernel

theorem witness_OcsalSettings_6 :
    (hallParam (cmd 0x0804 1 [0x1FF])).1 = 0xFF ∧ hallUndo (cmd 0x0804 1 [0x1FF]).raw = false ∧ hallUndo (cmd 0x0804 1 [0x105, 1]).raw = true := by
  decide +kernel

theorem witness_FirmwareAndLifeCycle_1 :
    let c := cmd 0x0901 0xFF [0x1000, 0, 4, 0x1000]
    cmdD c.raw 5 % 4096 = 0 ∧ bufLen c 2 ≤ 2 ^ 20 ∧ cmdD c.raw 5 + bufLen c 2 ≤ 2 ^ 28 ∧ takeData (cmdS c on) c 2 = .inr [0, 0, 0, 0] ∧
      cmdD (cmd 0x0901 0xFF [0x1000, 0, 4, 1]).raw 5 % 4096 ≠ 0 := by
  decide +kernel

theorem witness_FirmwareAndLifeCycle_2 :
    on.boot.slots[(otherSlot on.boot.slot)] ≠ .written ∧ on.boot.slots[(otherSlot on.boot.slot)] ≠ .committed := by
  decide +kernel

theorem witness_FirmwareAndLifeCycle_3 :
    let s : State := { cs 0x0902 0xFF [] with boot := { ready := true, slots := ⟨#[.active, .written], rfl⟩, factory := ⟨#[true, true], rfl⟩ } }
    runsB s 0x0902 (cmd 0x0902 0xFF []) = true ∧ s.boot.slots[(otherSlot s.boot.slot)] = .written ∧ slotPasses s (otherSlot s.boot.slot) = true := by
  decide +kernel

theorem witness_FirmwareAndLifeCycle_4 :
    let s : State := { cs 0x0902 0xFF [] with boot := { ready := true, svn := 1, slots := ⟨#[.active, .written], rfl⟩ } }
    runsB s 0x0902 (cmd 0x0902 0xFF []) = true ∧ s.boot.slots[(otherSlot s.boot.slot)] = .written ∧ slotPasses s (otherSlot s.boot.slot) = false := by
  decide +kernel

theorem witness_FirmwareAndLifeCycle_5 :
    let c := cmd 0x0904 0xFF [0x1000, 0, 512, 1]
    bufLen c 2 = 512 ∧ takeData (cmdS c on) c 2 = .inr (List.replicate 512 0) ∧ (lcCheck (cmdS c on) (fld (cmdD c.raw 5) 0 3) (List.replicate 512 0)).1 ≠ 0x00 ∧
      bufLen (cmd 0x0904 0xFF [0x1000, 0, 511, 1]) 2 ≠ 512 := by
  decide +kernel

/-- A token that takes a BLANK module to PROVISIONED, where its signer is the ROM's provisioning key and the signature passes. -/
def token : List Byte := leBytes 512 (0x4B54434C + 2 ^ 32 + 2 ^ 48)

theorem witness_life_cycle_token_passes (b : Boot) (h0 : b.lc = .blank) (h1 : b.serial = 0) (h2 : b.count = 0)
    (h3 : b.provHash = Config.sha384 ((token.drop 0x100).take 97))
    (h4 : Config.verify (pointOf ((token.drop 0x100).take 97)) (token.take 0x180) (signatureOf ((token.drop 0x180).take 96)) = true) :
    lcCheck { on with boot := b } 1 token = (0x00, .provisioned) := by
  have e1 : leNat ((token.drop 6).take 1) = 1 := by decide +kernel
  have e2 : leNat ((token.drop 7).take 1) = 0 := by decide +kernel
  have e3 : leNat ((token.drop 0).take 4) = 0x4B54434C := by decide +kernel
  have e4 : leNat ((token.drop 4).take 2) = 1 := by decide +kernel
  have e5 : leNat ((token.drop 8).take 16) = 0 := by decide +kernel
  have e6 : leNat ((token.drop 0x18).take 4) = 0 := by decide +kernel
  have e7 : leNat ((token.drop 0x1C).take 4) = 0 := by decide +kernel
  have e8 : leNat ((token.drop 0x50).take 176) = 0 := by decide +kernel
  have e9 : leNat ((token.drop 0x161).take 31) = 0 := by decide +kernel
  have e10 : leNat ((token.drop 0x1E0).take 32) = 0 := by decide +kernel
  simp only [lcCheck, lcOf, h0, h1, h2, e1, e2, e3, e4, e5, e6, e7, e8, e9, e10, lcSigner, h3, h4]
  simp [lcAllowed, LcState.code]

theorem witness_NumericsAndFencing_1 :
    bit 1 0 = true ∧ fld 0x40 6 58 ≠ 0 ∧ fld 0x3F 6 58 = 0 := by
  decide +kernel

theorem witness_NumericsAndFencing_2 :
    fenceTarget 0xF0000000 = none ∧ fenceTarget 0 = some (.core c0 0) ∧ fenceTarget 0x10000003 = some (.tile ⟨c0, 3⟩) ∧
     fenceTarget 0x20000000 = some (.cluster c0) ∧ fenceTarget 0x50000003 = some (.stack 3) ∧ isWellhead on c0 = false := by
  decide +kernel

theorem witness_NumericsAndFencing_3 :
    isWellhead { on with boot := { ready := true, wellheads := [(0, some c0)] } } c0 = true ∧
     runsB { cs 0x0B02 0xFF [0x20000000] with boot := { ready := true, wellheads := [(0, some c0)] } } 0x0B02 (cmd 0x0B02 0xFF [0x20000000]) = true := by
  decide +kernel

theorem witness_NumericsAndFencing_4 :
    let c := cmd 0x0B02 0xFF [(portUnit 5).toNat]
    runsB (cmdS c on) 0x0B02 c = true ∧ fenceTarget (cmdD c.raw 2) = some (.port 5) := by
  decide +kernel

theorem witness_NumericsAndFencing_5 :
    let c := cmd 0x0B02 0xFF [(laneUnit 1 1 203).toNat]
    runsB (cmdS c on) 0x0B02 c = true ∧ fenceTarget (cmdD c.raw 2) = some (.lane 1 1 203) := by
  decide +kernel

theorem witness_BringUp_1 :
    State.reset.pwr.standby = false ∧ State.reset.pwr.epo = false ∧ State.reset.pwr.feeds[(0 : Fin 2)] = true ∧ on.pwr.standby = true := by
  decide +kernel

theorem witness_BringUp_2 :
    let s : State := { on with boot := { step := 15 } }
    1 ≤ s.boot.step ∧ s.boot.step ≤ 15 ∧ s.boot.coolWait = none ∧ State.reset.boot.step = 0 := by
  decide +kernel

theorem witness_BringUp_3 :
    let s : State := { on with boot := { step := 3 } }
    s.boot.step = 3 ∧ s.boot.coolWait = none ∧ s.boot.cold = true := by
  decide +kernel

theorem witness_BringUp_4 :
    let s : State := { on with boot := { step := 3, coolWait := some 4 }, pwr := { coolIn := 400, flow := 500 } }
    s.boot.coolWait = some 4 ∧ coolantReady s = true := by
  decide +kernel

theorem witness_BringUp_5 :
    let s : State := { on with boot := { step := 7, trial := true } }
    s.boot.trial = true ∧ 1 ≤ s.boot.step ∧ s.boot.step ≤ 7 ∧ s.boot.coolWait = none := by
  decide +kernel

theorem witness_BringUp_6 :
    let s : State := { on with boot := { step := 0x20, wipe := some (.provisioned, 0, 0) } }
    s.boot.wipe = some (.provisioned, 0, 0) ∧ s.boot.step = 0x20 := by
  decide +kernel

theorem witness_BringUp_7 :
    ({ on with boot := { step := 0x70 } } : State).boot.step = 0x70 := by
  decide +kernel

/-! ### Ocsal, SPDM and management -/

def prt (r : PortRec) : State := fabS { role := .manager, num := some 3, mask := 0x18, ports := [(0, r)] }
def flit0 : Flit := { seq := 0, ack := 0, nak := false, creditVc := 0, creditCount := 4, keyPhase := false, fecOk := true, tagOk := true
                      corrected := 0, payload := [] }

theorem witness_OcsalPortLife_1 :
    let s := prt { state := .up }
    (portRec s 0).state = .up ∧ flit0.fecOk = true ∧ flit0.tagOk = true ∧ flit0.seq = BitVec.ofNat 24 (portRec s 0).rxSeq ∧
      flit0.nak = false ∧ s.fab.transit = [] ∧ { flit0 with fecOk := false }.fecOk = false := by
  decide +kernel

theorem witness_OcsalPortLife_2 :
    let s := prt { state := .up }
    (portRec s 0).state.lanesOn = true ∧ (portRec s 0).bad.contains (7 : Fin 9) = false ∧ (7 : Fin 9).val < 8 ∧
      (portRec s 0).bad.contains (8 : Fin 9) = false ∧ (portRec s 0).spareFor = none ∧
      (portRec (prt { state := .up, bad := [7], spareFor := some 7, spareAt := some 40000 }) 0).spareAt = some 40000 := by
  decide +kernel

theorem witness_OcsalPortLife_3 :
    let s := prt { state := .training }
    let o := { s with fab := { s.fab with closed := Vector.replicate 4 false } }
    (portRec o 0).state = .training ∧ pairOpen o 0 = true ∧ pairOpen s 0 = false ∧ pairOpen s 15 = true ∧ (portRec s 0).noPeerPosted = false := by
  decide +kernel

theorem witness_OcsalPortLife_4 :
    let s := prt { state := .securing }
    (portRec s 0).state = .securing ∧ peerAccepted s ⟨true, 0, 0⟩ = true ∧ peerAccepted s ⟨false, 0, 0⟩ = false := by
  decide +kernel

theorem witness_OcsalPortLife_5 :
    let tags n := (((portRec (prt { state := .up, tagTimes := List.replicate n 0 }) 0).tagTimes.filter fun n => decide ((0 : Nat) < n + usec 1000)).length)
    (portRec (prt { state := .up }) 0).state = .up ∧ tags 16 = 16 ∧ 16 < tags 17 ∧ 4 ≤ portLanes (portRec (prt { bad := [0, 1, 2, 3] }) 0) ∧
      portLanes (portRec (prt { bad := [0, 1, 2, 3, 4] }) 0) < 4 := by
  decide +kernel

theorem witness_OcsalPortLife_6 :
    (portRec (prt { state := .retraining }) 0).state = .retraining ∧ 2 ^ 40 ≤ (portRec (prt { sinceKey := 2 ^ 40 }) 0).sinceKey ∧
     (portRec (prt { sinceKey := 2 ^ 40 - 1 }) 0).sinceKey < 2 ^ 40 ∧ pairOf 0 = some 0 ∧ PortState.securing.lanesOn = true ∧
     ({ on.fab with changing := vset on.fab.changing 0 (some true) } : Fabric).changing[(0 : Fin 4)] = some true := by
  decide +kernel

def pkt0 : OcsalPkt := { kind := 0, type := 0, transit := false, dest := 3, src := 4, hops := 7, portTag := 1, srcPort := 0, part := 1
                         status := 0, len := 4, op := 0, sat := false, addr := 0x0300000000000000, payload := [] }

theorem witness_OcsalPacketsAndChassis_1 :
    let s := prt { state := .up, peer := 4 }
    (portRec s 0).state = .up ∧ pkt0.kind ≠ 3 ∧ { pkt0 with kind := 3 }.kind = 3 ∧ pkt0.hops.toNat < 8 ∧ 8 ≤ ({ pkt0 with hops := 8 }).hops.toNat ∧
      some pkt0.dest = s.fab.num ∧ pkt0.transit = false ∧ some ({ pkt0 with dest := 4 }).dest ≠ s.fab.num ∧ (directPort s 4).isSome = true ∧
      directPort s 5 = none ∧ moduleAssigned s 4 = true ∧ moduleAssigned s 5 = false ∧ pktKind pkt0 = some .read := by
  decide +kernel

theorem witness_OcsalPacketsAndChassis_2 :
    let s := prt { state := .up }
    s.fab.role = .manager ∧ numberFor s 77 = some 0 ∧ (portRec s 0).state = .up ∧
     isWorker (fabS { role := .worker, num := some 3, joining := true }) = true ∧ (5 : BitVec 8) ≠ 0xFF ∧
     numberFor (fabS { record := [(77, 9)] }) 77 = some 9 := by
  decide +kernel

theorem witness_OcsalPacketsAndChassis_3 :
    let s := fabS { role := .standby, num := some 3, manager := 4, mask := 0x58, poll := some [] }
    let voters := (others s).filter fun m => m ≠ s.fab.manager
    s.fab.role = .standby ∧ s.fab.num = some 3 ∧ s.fab.manager ≠ 0xFF ∧ s.fab.poll = some [] ∧ ([] : List (BitVec 8)).contains 6 = false ∧
      voters = [6] ∧ 2 * (1 + (([] : List (BitVec 8)).filter voters.contains).length) ≤ voters.length + 1 ∧
      voters.length + 1 < 2 * (1 + (([6] : List (BitVec 8)).filter voters.contains).length) := by
  decide +kernel

theorem witness_OcsalPacketsAndChassis_4 :
    let s := { on with sync := { on.sync with roots := [(36, some { root := c0, members := [c0], lead := 2000, generation := 3, got := [], hall := true })] } }
    (rootOf s 1 4).map (fun r => (r.hall, r.generation)) = some (true, 3) ∧ (rootOf (barS 1) 1 4).map (fun r => r.hall) = some false := by
  decide +kernel

/-- A manager of number 3 with hall barrier 4 of its partition 1, paired with partition 1 of module 4. -/
def hallS : State :=
  { on with
    fab := { role := .manager, num := some 3, mask := 0x18 }
    part := { parts := [(1, some { port := 0, vf := 1, beds := [0], state := .active, hall := [(4, 1)] })] }
    sync := { on.sync with roots := [(36, some { root := c0, members := [c0], lead := 2000, generation := 3, got := [], hall := true })] } }

theorem witness_OcsalPacketsAndChassis_5 :
    hallS.fab.role = .manager ∧ some (4 : BitVec 8) ≠ hallS.fab.num ∧ hallS.fab.hall.get [] 4 = [] ∧
     (∃ e ∈ hallMembers hallS 4 1 4, memberThere hallS e.1 = true ∧ e ≠ (4, 1)) := by
  refine ⟨by decide +kernel, by decide +kernel, by decide +kernel, (3, 1), ?_, by decide +kernel, by decide⟩
  have h : hallS.fab.num = some 3 := rfl
  have h1 : ((rootOf hallS 1 4).isSome && hallPaired hallS 1 4 1) = true := by decide +kernel
  have h2 : (4 : Fin 32).val = 4 := rfl
  simp only [hallMembers, h]
  apply List.mem_eraseDups.mpr
  apply List.mem_cons_of_mem
  apply List.mem_append_left
  rw [List.mem_map]
  exact ⟨1, List.mem_filter.mpr ⟨List.mem_finRange _, h1⟩, rfl⟩

def spd (r : SpdmRec) : State := { hostS true with sec := { conns := [(0, r)] } }

theorem witness_SpdmConversation_1 :
    spdmHears (hostS false) (.doe 0) = false ∧ spdmHears (spd {}) (.doe 0) = true ∧ (connOf (spd {}) (.doe 0)).version = false ∧
     (connOf (spd { version := true }) (.doe 0)).version = true ∧ (connOf (spd {}) (.doe 0)).caps = false ∧
     (connOf (spd { caps := true }) (.doe 0)).caps = true ∧ (connOf (spd { algs := true }) (.doe 0)).algs = true := by
  decide +kernel

theorem witness_SpdmConversation_2 :
    65535 + 1 ≤ 65536 ∧ 65536 < 65536 + 1 ∧ (measurement (spd { algs := true }) 3).isSome = true ∧ measurement (spd { algs := true }) 5 = none := by
  refine ⟨by decide, by decide, rfl, rfl⟩

theorem witness_SpdmConversation_3 :
    let r : SpdmRec := { algs := true, hand := [1], open_ := [(2, 0)] }
    let q : SpdmRec := { r with open_ := [(2, 0), (3, 0), (4, 0)] }
    sessionLimit (.doe 0) ≤ q.hand.length + q.open_.length ∧ r.hand.length + r.open_.length < sessionLimit (.doe 0) ∧
      r.hand.contains 7 = false ∧ (r.open_.any fun e => e.1 == 7) = false ∧ r.hand.contains 1 = true ∧ (r.open_.any fun e => e.1 == 2) = true ∧
      connOf (spd r) (.doe 0) = r ∧ connOf (spd q) (.doe 0) = q := by
  decide +kernel

theorem witness_ManagementAccess_1 :
    on.pwr.standby = true ∧ on.fab.role ≠ .manager ∧ on.boot.log[0]? = none ∧ ({ on.boot with log := [[1]] } : Boot).log[0]? = some [1] ∧
     (let s := fabS { role := .manager, num := some 3, record := [(77, 4)] }
      s.pwr.standby = true ∧ s.fab.role = .manager ∧ some (4 : BitVec 8) ≠ s.fab.num ∧ (s.fab.record.any fun e => e.2 == 4) = true) := by
  decide +kernel

/-! ### Ill-formed commands -/

/-- One ill-formed command for each check of `Instr.wf`. -/
theorem test_ill_formed_refused :
    Instr.wf (.registerWrite (.bar0 ⟨0, 0⟩ 0 3 0)) = false ∧ Instr.wf (.registerWrite (.bar0 ⟨0, 0⟩ 0xFFFC 8 0)) = false ∧
     Instr.wf (.cxlMemRead 0 32) = false ∧ Instr.wf (.cxlLinkTrained 0 ⟨3, {}⟩) = false ∧
     Instr.wf (.nodeUnlocked [4, 4]) = false ∧ Instr.wf (.ocsalPacketArrive 0
       { kind := 0, type := 0, transit := false, dest := 0, src := 0, hops := 0, portTag := 0, srcPort := 0, part := 0, status := 0, len := 257
         op := 0, sat := false, addr := 0, payload := [] }) = false ∧
     regSize (.v 1) 4 = false ∧ regSize (.f 1) 2 = false ∧ fmtKnown 0x0E = false ∧ fmtKnown 0x16 = false ∧ fmtKnown 0 = false := by
  decide +kernel

theorem test_well_formed_accepted :
    Instr.wf (.registerWrite (.bar0 ⟨0, 0⟩ 0xFFF8 8 0)) = true ∧ Instr.wf (.cxlMemRead 0 64) = true ∧ Instr.wf (.cxlLinkTrained 0 ⟨8, {}⟩) = true ∧
     fmtKnown 0x0D = true ∧ fmtKnown 0x19 = true := by
  decide +kernel

/-! ### Worked examples of spec/ -/

/-- Cluster w1.c(37,80) of the examples. -/
def c37 : Cl := ⟨1, 37, 80⟩

/-- 00_scope.md, "Worked example: identifier of a core" and "a cistern address". -/
theorem test_identifier_and_address :
    coreUnit c37 12 = 0x0682500C ∧ clAddr 1 c37 0x10040 = 0xFF10001A09410040 ∧ layoutOk (clAddr 1 c37 0x10040) = true ∧
     addrCl 0xFF10001A09410040 = some c37 := by
  decide +kernel

/-- 01_anatomy.md, "Worked example: locating a cluster": field w1.f(3,5), local (1,0), bed w1.b(9,20). -/
theorem test_locating_a_cluster :
    (fieldOf c37).val = 48 + 8 * 5 + 3 ∧ (fieldClusters (fieldOf c37))[1]? = some c37 ∧ c37 ∈ bedClusters (576 + 24 * 20 + 9) ∧
     (⟨1, 36, 80⟩ : Cl) ∈ bedClusters (576 + 24 * 20 + 9) ∧ (⟨1, 40, 80⟩ : Cl) ∉ bedClusters (576 + 24 * 20 + 9) := by
  decide +kernel

/-- 01_anatomy.md, "Worked example: choosing an entry router". -/
theorem test_entry_router :
    frontRouter {} 2 ⟨0, 37, 80⟩ = some ⟨0, 37, 0⟩ ∧ frontRouter { dead := [ck ⟨0, 40, 0⟩] } 2 ⟨0, 37, 80⟩ = some ⟨0, 45, 0⟩ := by
  decide +kernel

/-- 02_number_formats.md, "Worked example: element encodings": 1.0, -3.0 and 0.1875. -/
theorem test_element_encodings :
    ([0x01, 0x02, 0x03, 0x04, 0x05, 0x06, 0x07, 0x08].filterMap elemFmt).length = 8 ∧
     (let enc := fun f => ([.fin false 1 0, .fin true 3 0, .fin false 3 (-4)] : List Val).map fun v => (convertVal (.flt f) false none v).code
      enc fp4 = [0x2, 0xD, 0x0] ∧ enc fp6e2m3 = [0x08, 0x34, 0x02] ∧ enc fp6e3m2 = [0x0C, 0x32, 0x03] ∧ enc fp8e4m3 = [0x38, 0xC4, 0x24] ∧
      enc fp8e5m2 = [0x3C, 0xC2, 0x32] ∧ enc fp16 = [0x3C00, 0xC200, 0x3200] ∧ enc bf16 = [0x3F80, 0xC040, 0x3E40] ∧
      enc fp32 = [0x3F800000, 0xC0400000, 0x3E400000]) := by
  decide +kernel

/-- A value in hundredths of 2^k: numerator `m`, exponent `e`. -/
def vp (m : Nat) (e : Int) : Val := .fin false m e
def vn (m : Nat) (e : Int) : Val := .fin true m e

/-- The outlier block of 02_number_formats.md. -/
def outlier : List Val :=
  [vp 96 0, vp 1 0, vn 1 (-1), vp 1 (-2), vp 0 0, vp 0 0, vp 0 0, vp 0 0, vp 2 0, vn 3 (-1), vp 1 0, vp 1 (-1), vp 0 0, vp 3 0, vn 2 0, vp 3 (-2)] ++
  List.replicate 8 (vp 0 0) ++ [vp 12 0, vp 6 0, vn 4 0, vp 8 0, vp 1 0, vn 10 0, vp 2 0, vp 0 0]

/-- 02_number_formats.md, "Worked example: an outlier block in CS4": the 18 bytes and 8 underflows. -/
theorem test_outlier_block :
    let r := encodeBlock ⟨.flt fp4, 4, true⟩ true none outlier
    leBytes 18 ((⟨.flt fp4, 4, true⟩ : BFmt).blockNat r) =
        [0x83, 0xFC, 0x07, 0x08, 0x00, 0x00, 0xA2, 0x01, 0x30, 0x1A, 0x00, 0x00, 0x00, 0x00, 0x57, 0x6C, 0xE1, 0x02] ∧ r.under = 8 := by
  decide +kernel

/-- 02_number_formats.md, "Worked example: the zero block", in CS4 and in MXFP4. -/
theorem test_zero_block :
    let xs : List Val := (List.range 32).map fun i => .zero (i == 5 || i == 17)
    let cs := encodeBlock ⟨.flt fp4, 4, true⟩ true none xs
    let mx := encodeBlock ⟨.flt fp4, 4, false⟩ true none xs
    leBytes 18 ((⟨.flt fp4, 4, true⟩ : BFmt).blockNat cs) = [0, 0, 0, 0, 0x80, 0, 0, 0, 0, 0, 0x80, 0, 0, 0, 0, 0, 0, 0] ∧ cs.under = 0 ∧
      leBytes 17 ((⟨.flt fp4, 4, false⟩ : BFmt).blockNat mx) = [0, 0, 0, 0x80, 0, 0, 0, 0, 0, 0x80, 0, 0, 0, 0, 0, 0, 0] := by
  decide +kernel

/-- 02_number_formats.md, "Worked example: stochastic rounding to BF16". -/
theorem test_stochastic_rounding :
    let c (r : Option Nat) (e : Int) : Nat := (convertVal (.flt bf16) false r (.fin false (2 ^ e.natAbs + 1) e)).code
    c (some 0x7FFF) (-8) = 0x3F80 ∧ c (some 0x8000) (-8) = 0x3F81 ∧ c none (-8) = 0x3F80 ∧ c (some 0xBFFF) (-9) = 0x3F80 ∧
      c (some 0xC000) (-9) = 0x3F81 := by
  decide +kernel

/-- 02_number_formats.md, "Worked example: one rounding per partial dot": 2^30, 1 and -2^30 sum to 1. -/
theorem test_one_rounding_per_partial_dot :
    ((dotV [(vp 1 15, vp 1 15), (vp 1 0, vp 1 0), (vn 1 15, vp 1 15)]).finish (.flt fp32) false).code = 0x3F800000 := by
  decide +kernel

/-- 07_memory.md, "Worked example: translating a stack offset". -/
theorem test_translate_stack_offset :
    let m : StackRegion := { start := 0, linear := false, members := (List.range 12).map fun i => Fin.ofNat 48 (24 + i), depth := 4
                             phys := List.replicate 9 [0, 0, 0, 0] ++ [[5, 0, 0, 0]] ++ List.replicate 2 [0, 0, 0, 0] }
    translate [m] 0x246801ABC = some (33, 0x1708AAABC) := by
  decide +kernel

/-- 11_time_and_clocks.md R293: with a low tide of 0xFFFFF000, 0x00000F00 lies ahead and 0x7FFFF000 is past. -/
theorem test_short_tide :
    let s : State := clk { now := 0xFFFFF000 * 32 }
    let past := fun d : BitVec 32 => decide ((d - (0xFFFFF000 : BitVec 32)).toInt ≤ 0)
    past 0x00000F00 = false ∧ past 0x7FFFF000 = true ∧ ((0x00000F00 : BitVec 32) - 0xFFFFF000).toInt = 0x1F00 ∧ deadlinePast s c0 ((localTide s c0).setWidth 32) = true ∧
      deadlinePast s c0 ((localTide s c0).setWidth 32 + 0x1F00) = false := by
  decide +kernel

/-! ### The block -/

theorem witness_StepKeepsMemoryCanonical :
    MemoryCanonical on ∧ ∃ t, step { on with pending := [.spdmGetVersion (.doe 0)] } = .next t :=
  ⟨by decide +kernel, _, rfl⟩

/-- A list's only command runs, and the queue is then empty; with none the block ticks. -/
theorem witness_StepRunsFrontCommand :
    step { on with pending := [.heartbeatLoss, .heartbeatLoss] } = exec .heartbeatLoss { on with pending := [.heartbeatLoss] } ∧
     step on = .next (tick on) :=
  ⟨rfl, rfl⟩

theorem witness_AccessesOutsideTheLayout :
    addrSpace 0xFF70000000000000 = 7 ∧ 9 ≤ addrSpace 0xFF90000000000000 ∧ layoutOk 0xFF70000000000000 = false ∧
     (let a : Word := 0xFF10004000000000
      addrSpace a = 1 ∧ fld a.toNat 38 14 ≠ 0 ∧ layoutOk a = false) ∧
     addrSpace 0xFF00040000000000 = 0 ∧ layoutOk 0xFF00040000000000 = false ∧ layoutOk 0xFF00000000000000 = true := by
  decide +kernel

theorem witness_BedsLieInFields :
    576 + 24 * 20 + 9 < 2304 ∧ c37 ∈ bedClusters (576 * (1 : Fin 4).val + 24 * (20 : Fin 24).val + (9 : Fin 24).val) ∧
     c37 ∈ fieldClusters 91 ∧ (91 : Fin 192).val = 48 * (1 : Fin 4).val + 8 * (5 : Fin 6).val + (3 : Fin 8).val := by
  decide +kernel

/-! ### The arrays and the numerics blocks -/

/-- The array of `c0` in a control state. -/
def arr (r : ArrRec) : State := { on with arr := { recs := [(0, r)] } }

theorem witness_ArrayContextSwitches_1 :
    let a := arrOf (arr {}) c0
    regPerm on (.core x0) c0 = 0x00 ∧ regPerm on (.core ⟨⟨0, 90, 90⟩, 0, 0⟩) c0 ≠ 0x00 ∧ fld 0x400000 24 5 < 24 ∧ fld 0x400000 35 29 = 0 ∧
      a.slots.get (Fin.ofNat 4 (fld 0x400000 22 2)) = .free ∧ a.load = none ∧ fld 0x400000 0 10 = 0 ∧ fld 0x400000 0 22 ≤ 0x3F8000 ∧
      (arrOf (arr { slots := vset a.slots 1 .loaded }) c0).slots.get 1 ≠ .free := by
  decide +kernel

theorem witness_ArrayContextSwitches_2 :
    arrCmdBad (withCmd3 0 1) false = false ∧ (arrOf (arr { state := .running }) c0).state = .running ∧ (arrOf (arr {}) c0).state = .idle ∧
     arrCmdBad (withCmd3 0 2) false = false ∧ (arrOf (arr { state := .frozen, cause := 2 }) c0).cause ≠ 3 ∧
     (arrOf (arr { state := .frozen, cause := 3 }) c0).cause = 3 ∧ arrCmdBad (withCmd3 0x10 3) true = false := by
  decide +kernel

theorem witness_ArrayContextSwitches_3 :
    let st (k : SlotState) := (arrOf (arr { slots := vset (Vector.replicate 4 .free) 1 k }) c0).slots.get (Fin.ofNat 4 (fld 0x10 4 2))
    st .active = .active ∧ st .loading = .loading ∧ st .loaded = .loaded ∧ (arrOf (arr {}) c0).pend = none ∧ (arrOf (arr {}) c0).wave = none ∧
      (arrOf (arr { load := some ⟨1, 0, none⟩ }) c0).load = some ⟨1, 0, none⟩ := by
  decide +kernel

theorem witness_ArrayContextSwitches_4 :
    let a : ArrRec := { slots := vset (Vector.replicate 4 .free) 1 .loaded, pend := some ⟨1, none, none⟩, held := some ⟨1, none⟩ }
    let b : ArrRec := { a with pend := some ⟨1, some 5, none⟩ }
    (arrOf (arr a) c0).pend = some ⟨1, none, none⟩ ∧ (arrOf (arr a) c0).state = .idle ∧ (arrOf (arr a) c0).slots.get 1 = .loaded ∧
      (arrOf (arr a) c0).held = some ⟨1, none⟩ ∧ (arrOf (arr b) c0).pend = some ⟨1, some 5, none⟩ ∧
      launchPast (arr b) c0 5 = false ∧ launchPast (arr b) c0 0xFFFFFFFFFFFFF000 = true ∧ arithOn (arr b) c0 = true ∧
      (arrOf (arr { a with slots := Vector.replicate 4 .free }) c0).slots.get 1 = .free ∧
      (arrOf (arr { a with slots := Vector.replicate 4 .loading }) c0).slots.get 1 = .loading := by
  decide +kernel

/-- Tile `k` of `c0` with a context record and routing state, its array in the given control state. -/
def tileIn (a : ArrRec) (k : Fin 32) (n : Nat) (r : TileRec) : State :=
  { on with arr := { recs := [(0, a)], tiles := [(k.val, { r with on := true })], store := [(k.val * 4, BitVec.ofNat 8192 n)] } }

def tileS (k : Fin 32) (n : Nat) (r : TileRec) : State := tileIn { state := .running } k n r

/-- A record: kind, port of the north and the east input, result routed south, and a body of 64 bytes. -/
def recN (kind pn pe b : Nat) : Nat :=
  kind * 2 ^ 16 + 64 * 2 ^ 32 + pn * 2 ^ 68 + pe * 2 ^ 76 + 4 * 2 ^ 96 + b * 2 ^ 256

def tokA : Token := ⟨5, true, false, true, 0⟩

/-- One token waits at the north input, one at the east. -/
def inN : TileRec := { inq := vset (vset (Vector.replicate 4 []) 0 [tokA]) 1 [tokA] }

theorem witness_ArrayContextSwitches_5 :
    let a : ArrRec := { state := .switching, wave := some ⟨1, none⟩ }
    let s := tileIn a 1 (recN 1 0 0 0) {}
    let m := tileIn a 1 (recN 1 1 0 0) { inq := vset (Vector.replicate 4 []) 0 [⟨0, false, true, false, 0⟩] }
    (arrOf s c0).wave = some ⟨1, none⟩ ∧ (arrOf s c0).state = .switching ∧ (tileOf s (t0 1)).switched = false ∧ tileDrained s (t0 1) = true ∧
      markerReady s (t0 1) = true ∧ isSource (ctxOf s (t0 1)) = true ∧ (tileOf s (t0 1)).stream = false ∧ tileDrained m (t0 1) = true ∧
      markerReady m (t0 1) = true ∧ isSource (ctxOf m (t0 1)) = false ∧ markersIn m (t0 1) = true := by
  decide +kernel

theorem witness_ArrayContextSwitches_6 :
    let s := tileS 1 (recN 1 1 2 0) inN
    arrLive s c0 = true ∧ tokensHeld s c0 ≠ 0 ∧ (arrOf s c0).stallLimit ≠ 0 ∧ arithOn s c0 = true := by
  decide +kernel

theorem witness_RillsAndMemoryTiles_1 :
    let s := tileS 1 (recN 1 1 2 0) { pass := vset (Vector.replicate 4 none) 2 (some tokA), owed := vset (Vector.replicate 4 0) 2 1, res := vset (Vector.replicate 2 []) 0 [tokA] }
    arrLive s c0 = true ∧ tileNbr (t0 1) 2 = some (t0 9) ∧ t0 1 ≠ t0 9 ∧ (tileOf s (t0 1)).pass.get 2 = some tokA ∧ (tileOf s (t0 1)).credits.get 2 ≠ 0 ∧
      (tileOf s (t0 1)).res.get 0 = [tokA] ∧ creditsFor (tileOf s (t0 1)) (hRes (ctxOf s (t0 1)) 0) = true ∧ (tileOf s (t0 1)).owed.get 2 ≠ 0 ∧
      (tileOf (tileS 1 0 { credits := Vector.replicate 4 0 }) (t0 1)).credits.get 2 = 0 := by
  decide +kernel

theorem witness_RillsAndMemoryTiles_2 :
    let s := tileS 1 (recN 1 0 0 0 + 4 * 2 ^ 64) inN
    headReady s (t0 1) 0 = some tokA ∧ hPort (ctxOf s (t0 1)) 0 = 0 ∧ hMask (ctxOf s (t0 1)) 0 ≠ 0 := by
  decide +kernel

def memT (b : Nat) (r : MemTileRec) : State := { tileS 7 (recN 3 1 0 b) inN with arr := { (tileS 7 (recN 3 1 0 b) inN).arr with mems := [(7, r)] } }

theorem witness_RillsAndMemoryTiles_3 :
    let s := memT (8 * 2 ^ 20) { fill := 1, tags := [(false, true, 0)] }
    let b := body (ctxOf s (t0 7))
    tileRuns s (t0 7) 3 = true ∧ fld b 0 2 = 0 ∧ operand s (t0 7) 1 = some tokA ∧ (memTileOf s (t0 7)).fill < fld b 20 13 ∧
      (memTileOf s (t0 7)).tags = [(false, true, 0)] ∧ stageFree s (t0 7) 0 = true := by
  decide +kernel

theorem witness_RillsAndMemoryTiles_4 :
    let s (mode : Nat) := memT (mode + 8 * 2 ^ 20) { addr := some (⟨0x8001, true, false, true, 0⟩, 0) }
    let b (mode : Nat) := body (ctxOf (s mode) (t0 7))
    tileRuns (s 2) (t0 7) 3 = true ∧ fld (b 2) 0 2 = 2 ∧ operand (s 2) (t0 7) 1 = some tokA ∧ predOk (fld (b 2) 4 2) tokA.pred = true ∧ tokA.last = false ∧
      predOk (fld (b (2 + 32)) 4 2) tokA.pred = false ∧ fld (b (2 + 32)) 0 2 = 2 ∧
      fld (b 1) 0 2 = 1 ∧ stageFree (s 1) (t0 7) 0 = true ∧ fld (b 1) 48 16 = 0 ∧ mayStart (s 1) (t0 7) = true ∧ hRes (ctxOf (s 1) (t0 7)) 0 ≠ 0 ∧
      fld (b 3) 0 2 = 3 ∧ (memTileOf (s 3) (t0 7)).addr = some (⟨0x8001, true, false, true, 0⟩, 0) ∧ nextEntry (0x8001 : BitVec 256).toNat 0 = some 0 ∧
      bit (b 3) 2 = false ∧ SMap.wf 0 (s 3).mem.sram = true := by
  decide +kernel

def mulT (b : Nat) (r : MulRec) : State := { tileS 1 (recN 1 1 2 b) inN with arr := { (tileS 1 (recN 1 1 2 b) inN).arr with muls := [(1, r)] } }

theorem witness_MultiplierTiles_1 :
    let s := mulT (7 + 4 * 2 ^ 16) {}
    let b := body (ctxOf s (t0 1))
    tileRuns s (t0 1) 1 = true ∧ operand s (t0 1) 2 = some tokA ∧ (mulOf s (t0 1)).shadow.elems.length + 1 < 2 * fld b 16 4 ∧ (mulOf s (t0 1)).cur = none ∧
      chunkWantsHdr (fld b 0 5) (mulOf s (t0 1)).shadow = false := by
  decide +kernel

theorem witness_MultiplierTiles_2 :
    let s := mulT (7 + 4 * 2 ^ 16) { cur := some ⟨[], [1, 2]⟩, aRow := [3] }
    let b := body (ctxOf s (t0 1))
    tileRuns s (t0 1) 1 = true ∧ (mulOf s (t0 1)).cur = some ⟨[], [1, 2]⟩ ∧
      ((mulOf s (t0 1)).drains.any fun d => d.m == (mulOf s (t0 1)).row && (mulOf s (t0 1)).pass == 0) = false ∧
      mulHasA (fld b 0 5) (mulOf (mulTakeA (t0 1) (fld b 0 5) s) (t0 1)) = true ∧ (mulInit (t0 1) b (mulTakeA (t0 1) (fld b 0 5) s)).isSome = true := by
  decide +kernel

theorem witness_MultiplierTiles_3 :
    let s := mulT 7 { flying := [⟨1, 2, ⟨.zero false, 0⟩⟩] }
    let d := mulT 7 { drains := [⟨3, true, false⟩] }
    tileRuns s (t0 1) 1 = true ∧ (mulOf s (t0 1)).flying = [⟨1, 2, ⟨.zero false, 0⟩⟩] ∧ tileRuns d (t0 1) 1 = true ∧
      (mulOf d (t0 1)).drains = [⟨3, true, false⟩] ∧ stageFree d (t0 1) 0 = true ∧ ((mulOf d (t0 1)).flying.any fun x => x.m == 3) = false := by
  decide +kernel

def sfT (b : Nat) (r : SfRec) : State := { tileS 4 (recN 2 1 2 b) inN with arr := { (tileS 4 (recN 2 1 2 b) inN).arr with sfs := [(4, r)] } }

theorem witness_SpecialFunctionTiles_1 :
    let s := sfT (8 * 8 + 2 ^ 16 + 2 ^ 133) {}
    let n := ctxOf s (t0 4)
    tileRuns s (t0 4) 2 = true ∧ fld (body n) 0 3 = 0 ∧ sfStages s (t0 4) = true ∧ chainNames n 2 = false ∧ operand s (t0 4) 1 = some tokA ∧
      fld (chainEntry (body n) 0) 0 5 ≠ 0x18 ∧ chainNames (ctxOf (sfT (8 * 8) {}) (t0 4)) 1 = false ∧ chainNames (ctxOf (sfT (8 * 8) {}) (t0 4)) 2 = false ∧
      operand (tileS 4 (recN 2 1 2 (8 * 8)) {}) (t0 4) 1 = none := by
  decide +kernel

theorem witness_SpecialFunctionTiles_2 :
    let s := sfT 2 { rowTok := some tokA }
    let d := sfT 1 { due := some true }
    tileRuns d (t0 4) 2 = true ∧ stageFree d (t0 4) 0 = true ∧ (sfOf d (t0 4)).due = some true ∧ hRes (ctxOf d (t0 4)) 0 ≠ 0 ∧ tileRuns s (t0 4) 2 = true ∧
      fld (body (ctxOf s (t0 4))) 0 3 = 2 ∧ sfStages s (t0 4) = true ∧ (sfOf s (t0 4)).rowTok = some tokA ∧ operand s (t0 4) 2 = some tokA ∧
      chainNames (ctxOf s (t0 4)) 2 = false ∧ (sfOf (sfT 2 {}) (t0 4)).rowTok = none ∧ operand (sfT 2 {}) (t0 4) 1 = some tokA := by
  decide +kernel

theorem witness_SpecialFunctionTiles_3 :
    let s := { tileS 4 (recN 2 1 0 (3 + 8 * 8 + 7 * 256)) inN with t := on.t }
    let n := ctxOf s (t0 4)
    let r := sfT 4 {}
    tileRuns s (t0 4) 2 = true ∧ fld (body n) 0 3 = 3 ∧ sfStages s (t0 4) = true ∧ portOn n 2 = false ∧ operand s (t0 4) 1 = some tokA ∧
      wantsInHdr (fld (body n) 3 5) (sfOf s (t0 4)) = false ∧ blockFmt (fld (body n) 8 5) = none ∧ tileRuns r (t0 4) 2 = true ∧
      fld (body (ctxOf r (t0 4))) 0 3 = 4 ∧ stageFree r (t0 4) 0 = true ∧ mayStart r (t0 4) = true ∧ hRes (ctxOf r (t0 4)) 0 ≠ 0 := by
  decide +kernel

def ioT (b : Nat) : State := tileS 8 (recN 4 1 0 b) inN

theorem witness_IoTiles_1 :
    let s (k : Nat) := ioT (1 + 2 ^ 113 + k * 2 ^ 160)
    let b (k : Nat) := body (ctxOf (s k) (t0 8))
    tileRuns (s 0) (t0 8) 4 = true ∧ inDue (b 0) (ioOf (s 0) (t0 8)) = true ∧ gateShut (b 0) (ioOf (s 0) (t0 8)) = true ∧
      objCond 2 (objVal (s 0) c0 (fld (b 0) 114 5) (fld (b 0) 119 5)) (gateNext (b 0) (ioOf (s 0) (t0 8))) = false ∧
      gateShut (b 0xFFFFFFFF) (ioOf (s 0xFFFFFFFF) (t0 8)) = true ∧
      objCond 2 (objVal (s 0xFFFFFFFF) c0 (fld (b 0xFFFFFFFF) 114 5) (fld (b 0xFFFFFFFF) 119 5)) (gateNext (b 0xFFFFFFFF) (ioOf (s 0xFFFFFFFF) (t0 8))) = true := by
  decide +kernel

theorem witness_IoTiles_2 :
    let s (m f : Nat) := ioT (2 ^ 256 + m * 2 ^ 257 + f * 2 ^ 260)
    let b (m f : Nat) := body (ctxOf (s m f) (t0 8))
    tileRuns (s 2 7) (t0 8) 4 = true ∧ bit (b 2 7) 256 = true ∧ (ioOf (s 2 7) (t0 8)).creditWait = none ∧ operand (s 2 7) (t0 8) 1 = some tokA ∧
      fld (b 2 7) 257 2 = 2 ∧ fld (b 0 7) 257 2 ≠ 2 ∧ outWantsHdr (fld (b 0 7) 260 5) (ioOf (s 0 7) (t0 8)) = false ∧
      outWantsHdr (fld (b 0 0x10) 260 5) (ioOf (s 0 0x10) (t0 8)) = true := by
  decide +kernel

theorem witness_IoTiles_3 :
    let s := ioT (1 + 7 * 4 + 32 * 2 ^ 32)
    let b := body (ctxOf s (t0 8))
    let r := ioOf s (t0 8)
    let g := tokRange (fld b 2 5) (fld b 32 16) r.inTok
    inDue b r = true ∧ stageFree s (t0 8) 0 = true ∧ gateShut b r = false ∧ mayStart s (t0 8) = true ∧ fld b 30 2 = 0 ∧ s.mem.sramErr = [] ∧ s.boot.struck = [] ∧
      fld b 8 22 + r.inRow * fld b 64 22 + g.1 + g.2 ≤ 2 ^ 22 ∧ hRes (ctxOf s (t0 8)) 0 ≠ 0 ∧ 0 < g.2 := by
  decide +kernel

theorem witness_IoTiles_4 :
    let q := xq (.core x0) .write 0 4 [] (.ioWrite 3) (.home 0x00 [])
    Answered (withReq q on) 7 q 0x00 [] ∧ q.use = .ioWrite 3 := by
  decide +kernel

def numS (b : NumBlock) : State :=
  { tileS 1 (recN 1 1 2 0) inN with num := { on.num with
      blocks := [(1, b)]
      nans := [⟨1, .tile (t0 1), 9, 2, 5, 1, 0, 4, 3⟩]
      overflows := [⟨1, 9, 3, 3, 0⟩]
      underflows := [⟨1, 9, 16, 3, 0⟩] } }

theorem witness_NanReports :
    let r : NanReport := ⟨1, .tile (t0 1), 9, 2, 5, 1, 0, 4, 3⟩
    (numS {}).num.nans[0]? = some r ∧ (partOf (numS {}) r.part).isSome = true ∧ (numBlock (numS {}) 1).nan.valid = false ∧
     (numBlock (numS {}) 1).nanTrap = false ∧ (numBlock (numS { nanTrap := true }) 1).nanTrap = true ∧ arrLive (numS { nanTrap := true }) c0 = true ∧
     (numBlock (numS { nan := { valid := true } }) 1).nan.valid = true := by
  decide +kernel

theorem witness_OverflowReportsAndRegions_1 :
    let g (st : RegionState) : NumBlock := { slots := vset (Vector.replicate 16 {}) 3 { state := st, overflows := 0xFFFFFFFE } }
    (numS {}).num.overflows[0]? = some ⟨1, 9, 3, 3, 0⟩ ∧ (numS {}).num.underflows[0]? = some ⟨1, 9, 16, 3, 0⟩ ∧ (partOf (numS {}) 1).isSome = true ∧
      ((numBlock (numS (g .opened)) 1).slots[(3 : Fin 16)]).state = .opened ∧ ((numBlock (numS (g .closing)) 1).slots[(3 : Fin 16)]).state = .closing ∧
      ((numBlock (numS {}) 1).slots[(3 : Fin 16)]).state ≠ .opened ∧ 16 ≤ (16 : BitVec 5).toNat := by
  decide +kernel

theorem witness_OverflowReportsAndRegions_2 :
    let v : Nat := 1 + 7 * 2 ^ 11
    owner on c0 = some 1 ∧ partResetting on 1 = false ∧ fld v 32 5 < 24 ∧ fld v 4 4 = 0 ∧ fld v 43 21 = 0 ∧ fmtOk (fld v 11 5) = true ∧
      ((numBlock (numS {}) 1).slots[(3 : Fin 16)]).state = .free ∧ fld v 8 3 ≤ (numBlock (numS {}) 1).repeatMax.val ∧
      (numBlock (numS {}) 1).repeatMax.val < fld (v + 7 * 2 ^ 8) 8 3 ∧ regPerm on (.core x0) c0 = 0x00 ∧
      (fld 15 0 5 < 16 ∧ fld 0x1F 0 5 = 0x1F ∧ 16 ≤ fld 0x10 0 5 ∧ fld 0x10 0 5 ≠ 0x1F) := by
  decide +kernel


theorem witness_IoTiles_5 :
    let q := xq (.io c0 0) .write 0 4 [] (.ioWrite 3) (.home 0x07 [])
    Answered (withReq q on) 7 q 0x07 [] ∧ asleep (withReq q on) q.src = false ∧ q.orphaned = false := by
  decide +kernel

theorem witness_NanReports_2 :
    let s := numS { nanTrap := true }
    madeByActive ⟨1, .tile (t0 1), 9, 2, 5, 1, 0, 4, 3⟩ s c0 = true ∧ (numBlock s 1).nan.valid = false ∧ (ctxRec (rdy 0 0 0 0) x0).state ≠ .idle ∧
      (numS {}).num.nans[1]? = none := by
  decide +kernel

theorem witness_RetireAndRegisterWriteFrame_2 :
    issuer (.tide x0 5) = some x0 ∧ canIssue on x0 = false := by
  decide +kernel

theorem witness_RillsAndMemoryTiles_5 :
    let s := memT (3 + 8 * 2 ^ 20) {}
    tileRuns s (t0 7) 3 = true ∧ fld (body (ctxOf s (t0 7))) 0 2 = 3 ∧ (memTileOf s (t0 7)).addr = none ∧ operand s (t0 7) 1 = some tokA ∧
      nextEntry tokA.payload.toNat 0 = none ∧ tileRuns on (t0 7) 3 = false := by
  decide +kernel
end Sys2Proof.Tests
end

section
/-! PROOFS. Accesses outside the layout of their space (spec/00_scope.md R9). -/

namespace Sys2Proof.Machine
open Sys2Proof

/-! ### Addresses outside the layout -/

theorem layoutOk_unmapped {a : Word} (h : addrSpace a = 7 ∨ 9 ≤ addrSpace a) : layoutOk a = false := by
  unfold layoutOk
  split
  case h_9 => rfl
  all_goals omega

/-- Spaces 1 to 3, 5 and 6 name a cluster in bits [37:22] and have no bit above 37 (R186). -/
theorem layoutOk_highBits {a : Word} (hs : addrSpace a = 1 ∨ addrSpace a = 2 ∨ addrSpace a = 3 ∨ addrSpace a = 5 ∨ addrSpace a = 6)
    (h : fld a.toNat 38 14 ≠ 0) : layoutOk a = false := by
  rcases hs with e | e | e | e | e <;> simp [layoutOk, e, h]

theorem layoutOk_reservedBits {a : Word}
    (h : (addrSpace a = 0 ∧ fld a.toNat 42 10 ≠ 0) ∨
      ((addrSpace a = 1 ∨ addrSpace a = 2 ∨ addrSpace a = 3 ∨ addrSpace a = 5 ∨ addrSpace a = 6) ∧ fld a.toNat 38 14 ≠ 0) ∨
      ((addrSpace a = 2 ∨ addrSpace a = 3) ∧ bit a.toNat 21 = true) ∨
      (addrSpace a = 4 ∧ (fld a.toNat 39 13 ≠ 0 ∨ (bit a.toNat 38 = true ∧ fld a.toNat 22 16 ≠ 0))) ∨
      (addrSpace a = 5 ∧ fld a.toNat 13 9 ≠ 0) ∨ (addrSpace a = 6 ∧ fld a.toNat 20 2 ≠ 0)) : layoutOk a = false := by
  rcases h with ⟨e, h⟩ | ⟨hs, h⟩ | ⟨e | e, h⟩ | ⟨e, h | ⟨hb, h⟩⟩ | ⟨e, h⟩ | ⟨e, h⟩
  case inr.inl => exact layoutOk_highBits hs h
  all_goals simp [layoutOk, *]

theorem route_layout {a : Word} (h : layoutOk a = false) (s : State) (who : Requester) (p : Option (Fin 64)) (k : ReqKind) (len : Nat)
    (src : Cl) : route s who p k a len src = .inl 0x03 := by
  simp [route, h]

theorem spaceWrite_layout {a : Word} (h : layoutOk a = false) (who : Requester) (size : Nat) (v : Word) (s : State) :
    spaceWrite who a size v s = reply 0x03 s := by
  simp [spaceWrite, h]

theorem memCheck_layout {a : Word} (h : layoutOk a = false) (s : State) (p : Fin 64) : memCheck s p a = 0x03 := by
  simp [memCheck, h]

/-- A refused request is on the list with its status, and nothing else changed. -/
theorem issueReq_layout {a : Word} (h : layoutOk a = false) (who : Requester) (p : Option (Fin 64)) (k : ReqKind) (len : Nat)
    (d : List Byte) (op : Word) (sat ra : Bool) (src : Cl) (use : Use) (s : State) :
    ∃ q : Xact, q.id = s.net.nextId ∧ q.addr = a ∧ q.use = use ∧ q.phase = .home 0x03 [] ∧
      issueReq who p k a len d op sat ra src use s =
        { s with net := { s.net with xacts := s.net.xacts ++ [q], nextId := s.net.nextId + 1 } } := by
  simp only [issueReq, route_layout h]
  exact ⟨_, rfl, rfl, rfl, rfl, rfl⟩

/-! ### Memory under events and replies -/

/-- Memory but for host memory, which events write (R357). -/
abbrev KeepsMemory (s t : State) : Prop := { t.mem with host := s.mem.host } = s.mem

theorem OnlyEvents.keepsMemory {s u t : State} (h : OnlyEvents u t) (hu : u.mem = s.mem) : KeepsMemory s t := by
  unfold KeepsMemory
  rw [h, hu]

theorem sendPkt_keepsMemory (port : Fin 16) (pkt : OcsalPkt) (s : State) : KeepsMemory s (sendPkt port pkt s) := by
  unfold sendPkt
  exact (wrapEvent_only _ _ _ _ _ _ _).keepsMemory (setPort_mem port _ _)

theorem replyOut_keepsMemory (x : Xact) (mod : BitVec 8) (p : Fin 64) (port : Fin 16) (tag : Nat) (st : Byte) (data : List Byte)
    (s : State) : KeepsMemory s (replyOut x mod p port tag st data s) := by
  unfold replyOut
  dsimp only
  split
  · rfl
  · exact sendPkt_keepsMemory _ _ s

/-- The answer that a remote request with a bad address gets (R9, R208). -/
theorem remoteIn_layout {pkt : OcsalPkt} (h : layoutOk pkt.addr = false) (port : Fin 16) (k : ReqKind) (s : State) :
    ∃ q : Xact, q.kind = k ∧ q.addr = pkt.addr ∧
      remoteIn port pkt k s = replyOut q pkt.src pkt.part port (pkt.portTag.toNat + 4096 * pkt.srcPort.val) 0x03
        (match k with | .object _ => [0, 0, 0, 0] | _ => []) s := by
  simp only [remoteIn, h, Bool.not_false, Bool.true_or, if_true]
  exact ⟨_, rfl, rfl, rfl⟩

/-- Settles O6: every door to memory asks `layoutOk` first. -/
theorem accessesOutsideTheLayout : Obligations.AccessesOutsideTheLayout := by
  unfold Obligations.AccessesOutsideTheLayout
  refine ⟨fun a => layoutOk_unmapped, fun a => layoutOk_reservedBits,
    fun who p k a len d op sat ra src use s h => issueReq_layout h who p k len d op sat ra src use s,
    fun port pkt k s h => ?_, fun who a size v p s h => ⟨spaceWrite_layout h who size v s, memCheck_layout h s p⟩⟩
  obtain ⟨q, hk, ha, e⟩ := remoteIn_layout h port k s
  refine ⟨q, hk, ha, e, ?_⟩
  rw [e]
  exact replyOut_keepsMemory _ _ _ _ _ _ _ s

end Sys2Proof.Machine
end

section
/-! PROOFS. The context commands (spec/06_cores.md R176, R177, R183). -/

namespace Sys2Proof.Machine
open Sys2Proof

/-! ### Contexts: what leaves their records as they were -/

theorem OnlyEvents.core {s t : State} (h : OnlyEvents s t) : t.core = s.core := by rw [h]

theorem ctxRec_congr {s t : State} (h : t.core = s.core) (y : CtxId) : ctxRec t y = ctxRec s y := by
  unfold ctxRec; rw [h]

@[simp] theorem ctxRec_reply (st : Byte) (s : State) (y : CtxId) : ctxRec (reply st s) y = ctxRec s y := rfl
@[simp] theorem ctxRec_unwait (w : Waiter) (s : State) (y : CtxId) : ctxRec (unwait w s) y = ctxRec s y := rfl
@[simp] theorem ctxRec_orphan (x : CtxId) (s : State) (y : CtxId) : ctxRec (orphan x s) y = ctxRec s y := rfl

theorem coreWrap_only (c : Cl) (k off : Nat) (old : Word) (n : Nat) (s : State) : OnlyEvents s (coreWrap c k off old n s) :=
  counterWrap_only _ _ _ _ _

@[simp] theorem ctxRec_coreWrap (c : Cl) (k off : Nat) (old : Word) (n : Nat) (s : State) (y : CtxId) :
    ctxRec (coreWrap c k off old n s) y = ctxRec s y :=
  ctxRec_congr (coreWrap_only c k off old n s).core y

@[simp] theorem ctxRec_addRaDiscarded (x : CtxId) (n : Nat) (s : State) (y : CtxId) : ctxRec (addRaDiscarded x n s) y = ctxRec s y := by
  simp [addRaDiscarded]

theorem ctxRec_updCtx (x y : CtxId) (f : CtxRec → CtxRec) (s : State) :
    ctxRec (updCtx x f s) y = if y = x then f (ctxRec s x) else ctxRec s y := by
  simp [updCtx, ctxRec_setCtx]

theorem ctxRec_endWait (x y : CtxId) (s : State) : ctxRec (endWait x s) y =
    if y = x then { ctxRec s x with waitKind := 0, waitTarget := 0, wait := none, held := none } else ctxRec s y := by
  unfold endWait
  dsimp only
  split <;> simp [ctxRec_setCtx]

theorem ctxRec_dropEntries (x y : CtxId) (s : State) :
    ctxRec (dropEntries x s) y = if y = x then { ctxRec s x with entries := [] } else ctxRec s y := by
  simp [dropEntries, ctxRec_setCtx]

theorem ctxRec_endRunahead (x y : CtxId) (s : State) : ctxRec (endRunahead x s) y =
    if y = x then { ctxRec s x with runahead := false, shadow := none, raLoad := none } else ctxRec s y :=
  ctxRec_updCtx x y _ s

theorem ctxRec_ctxReset (x y : CtxId) (s : State) :
    ctxRec (ctxReset x s) y = if y = x then { cmdStatus := (ctxRec s x).cmdStatus } else ctxRec s y := by
  simp only [ctxReset, ctxRec_setCtx, ctxRec_dropEntries, ctxRec_endWait, ctxRec_unwait, ctxRec_orphan]
  split <;> rfl

/-- A reset of a context writes no SRAM: the counters it moves post events at most (R183, R487). -/
theorem addRaDiscarded_sram (x : CtxId) (n : Nat) (s : State) : (addRaDiscarded x n s).mem.sram = s.mem.sram := by
  unfold addRaDiscarded
  rw [coreWrap_only _ _ _ _ _ _]
  rfl

theorem endWait_sram (x : CtxId) (s : State) : (endWait x s).mem.sram = s.mem.sram := by
  unfold endWait
  dsimp only
  split
  · rw [coreWrap_only _ _ _ _ _ _]
    rfl
  · rfl

theorem ctxReset_sram (x : CtxId) (s : State) : (ctxReset x s).mem.sram = s.mem.sram :=
  calc (ctxReset x s).mem.sram
    _ = (endWait x (unwait (.ctx x) (orphan x s))).mem.sram := addRaDiscarded_sram x _ _
    _ = s.mem.sram := endWait_sram x _

/-! ### The register write of a context command -/

section
variable {s : State} {who : Requester} {x : CtxId} {v : Word} {cmd : Nat} {f : State → Byte × State}

/-- The answer of a context command that took its write: CMD_STATUS holds the outcome (R177). -/
def ctxAnswer (x : CtxId) (st : Byte) (s : State) : State := reply 0x00 (updCtx x (fun r => { r with cmdStatus := st }) s)

theorem ctxCmd_denied (h : regPerm s who x.c ≠ 0x00) : ctxCmd who x v cmd f s = { s with ioReply := regPerm s who x.c } := if_pos h

theorem ctxCmd_badParam (h : regPerm s who x.c = 0x00)
    (hb : fld v.toNat 3 13 ≠ 0 ∨ if cmd = 1 then pcOk (BitVec.ofNat 48 (fld v.toNat 16 48)) = false else fld v.toNat 16 48 ≠ 0) :
    ctxCmd who x v cmd f s = ctxAnswer x 0x03 s := by
  have hbad : (fld v.toNat 3 13 != 0 || (if cmd = 1 then !pcOk (BitVec.ofNat 48 (fld v.toNat 16 48)) else fld v.toNat 16 48 != 0)) = true := by
    split at hb <;> simp_all
  simp only [ctxCmd, h, ne_eq, not_true_eq_false, if_false, hbad, if_true]
  rfl

theorem ctxCmd_runs (h : regPerm s who x.c = 0x00) (hr : fld v.toNat 3 13 = 0)
    (hb : if cmd = 1 then pcOk (BitVec.ofNat 48 (fld v.toNat 16 48)) = true else fld v.toNat 16 48 = 0) :
    ctxCmd who x v cmd f s = ctxAnswer x (f s).1 (f s).2 := by
  have hgood : (fld v.toNat 3 13 != 0 || (if cmd = 1 then !pcOk (BitVec.ofNat 48 (fld v.toNat 16 48)) else fld v.toNat 16 48 != 0)) = false := by
    split at hb <;> simp_all
  simp only [ctxCmd, h, ne_eq, not_true_eq_false, if_false, hgood, Bool.false_eq_true]
  rfl

theorem ctxRec_ctxAnswer (st : Byte) (y : CtxId) (s : State) :
    ctxRec (ctxAnswer x st s) y = if y = x then { ctxRec s x with cmdStatus := st } else ctxRec s y := by
  simp [ctxAnswer, ctxRec_updCtx]

/-- What START makes of a context's record (R158, R177). -/
def startedRec (x : CtxId) (pc : BitVec 48) (r : CtxRec) : CtxRec :=
  ({ r with state := .ready, pc := pc, x := Vector.replicate 32 0, f := Vector.replicate 32 0, v := Vector.replicate 32 0,
            m := Vector.replicate 8 0, rets := [] } : CtxRec).writeX 1 ((coreUnit x.c x.k.val).setWidth 64) |>.writeX 2 (BitVec.ofNat 64 x.n.val)

/-- The state in which STOP leaves a running context (R177). -/
def ctxStopped (x : CtxId) (s : State) : State :=
  updCtx x (fun r => { r with state := .stopped, trapped := false }) (endRunahead x (dropEntries x (endWait x (unwait (.ctx x) s))))

theorem exec_ctxStart : exec (.ctxStart who x v) s = .next (ctxCmd who x v 1 (fun s =>
    if dryCore s x.c x.k.val then (0x09, s)
    else if isWellhead s x.c ∨ (ctxRec s x).state ≠ .idle then (0x04, s)
    else (0x00, updCtx x (startedRec x (BitVec.ofNat 48 (fld v.toNat 16 48))) (orphan x s))) s) := rfl

theorem exec_ctxStop : exec (.ctxStop who x v) s = .next (ctxCmd who x v 2 (fun s =>
    if (ctxRec s x).state = .ready ∨ (ctxRec s x).state = .waiting then (0x00, ctxStopped x s) else (0x00, s)) s) := rfl

theorem exec_ctxResume : exec (.ctxResume who x v) s = .next (ctxCmd who x v 3 (fun s =>
    if dryCore s x.c x.k.val then (0x09, s)
    else if (ctxRec s x).state = .stopped then (0x00, updCtx x (fun r => { r with state := .ready }) s)
    else (0x04, s)) s) := rfl

theorem exec_ctxReset : exec (.ctxReset who x v) s = .next (ctxCmd who x v 4 (fun s => (0x00, ctxReset x s)) s) := rfl

end

/-! ### What the commands leave -/

theorem readX_writeX (r : CtxRec) (i j : Reg) (v : Word) :
    (r.writeX i v).readX j = if j = i ∧ j ≠ 0 then v else r.readX j := by
  unfold CtxRec.writeX CtxRec.readX vset
  by_cases hj : j = 0
  · simp [hj]
  · by_cases hi : i = 0
    · have : j ≠ i := by rintro rfl; exact hj hi
      simp [hi, hj]
    · by_cases h : j = i
      · subst h; simp [hj]
      · have : i.val ≠ j.val := fun e => h (Fin.ext e.symm)
        simp [hi, hj, h, this]

/-- The other fields of a record under a write of an integer register. -/
theorem writeX_fields (r : CtxRec) (i : Reg) (v : Word) :
    (r.writeX i v).state = r.state ∧ (r.writeX i v).pc = r.pc ∧ (r.writeX i v).f = r.f ∧ (r.writeX i v).v = r.v ∧
      (r.writeX i v).m = r.m := by
  unfold CtxRec.writeX
  split <;> exact ⟨rfl, rfl, rfl, rfl, rfl⟩

theorem startedRec_readX (x : CtxId) (pc : BitVec 48) (r : CtxRec) (i : Reg) : (startedRec x pc r).readX i =
    if i = 1 then (coreUnit x.c x.k.val).setWidth 64 else if i = 2 then BitVec.ofNat 64 x.n.val else 0 := by
  by_cases h2 : i = 2
  · subst h2; simp [startedRec, readX_writeX]
  · by_cases h1 : i = 1
    · subst h1; simp [startedRec, readX_writeX]
    · simp only [startedRec, readX_writeX, h1, h2, false_and, if_false]
      simp [CtxRec.readX]

theorem startedRec_fields (x : CtxId) (pc : BitVec 48) (r : CtxRec) :
    (startedRec x pc r).state = .ready ∧ (startedRec x pc r).pc = pc ∧ (startedRec x pc r).f = Vector.replicate 32 0 ∧
      (startedRec x pc r).v = Vector.replicate 32 0 ∧ (startedRec x pc r).m = Vector.replicate 8 0 := by
  simp [startedRec, writeX_fields]

theorem ctxRec_ctxStopped (x y : CtxId) (s : State) : ctxRec (ctxStopped x s) y =
    if y = x then { ctxRec s x with state := .stopped, trapped := false, waitKind := 0, waitTarget := 0, wait := none, held := none,
                                    entries := [], runahead := false, shadow := none, raLoad := none }
    else ctxRec s y := by
  simp only [ctxStopped, ctxRec_updCtx, ctxRec_endRunahead, ctxRec_dropEntries, ctxRec_endWait, ctxRec_unwait]
  split <;> simp_all

section
variable {s : State} {who : Requester} {x : CtxId} {v : Word}

/-- Bad fields of the word written: each command answers BAD_PARAM in CMD_STATUS (R6, R177). -/
theorem exec_ctxCommands_reserved (h : regPerm s who x.c = 0x00) (hr : fld v.toNat 3 13 ≠ 0) :
    exec (.ctxStart who x v) s = .next (ctxAnswer x 0x03 s) ∧ exec (.ctxStop who x v) s = .next (ctxAnswer x 0x03 s) ∧
      exec (.ctxResume who x v) s = .next (ctxAnswer x 0x03 s) ∧ exec (.ctxReset who x v) s = .next (ctxAnswer x 0x03 s) := by
  simp only [exec_ctxStart, exec_ctxStop, exec_ctxResume, exec_ctxReset, ctxCmd_badParam h (.inl hr), and_self]

theorem exec_ctxStart_badPc (h : regPerm s who x.c = 0x00) (hp : pcOk (BitVec.ofNat 48 (fld v.toNat 16 48)) = false) :
    exec (.ctxStart who x v) s = .next (ctxAnswer x 0x03 s) := by
  simp only [exec_ctxStart, ctxCmd_badParam (cmd := 1) h (.inr hp)]

theorem exec_ctxCommands_address (h : regPerm s who x.c = 0x00) (ha : fld v.toNat 16 48 ≠ 0) :
    exec (.ctxStop who x v) s = .next (ctxAnswer x 0x03 s) ∧ exec (.ctxResume who x v) s = .next (ctxAnswer x 0x03 s) ∧
      exec (.ctxReset who x v) s = .next (ctxAnswer x 0x03 s) := by
  simp only [exec_ctxStop, exec_ctxResume, exec_ctxReset, ctxCmd_badParam (cmd := 2) h (.inr ha),
    ctxCmd_badParam (cmd := 3) h (.inr ha), ctxCmd_badParam (cmd := 4) h (.inr ha), and_self]

/-- START of a context with a good word (R158, R177). -/
theorem exec_ctxStart_runs (h : regPerm s who x.c = 0x00) (hr : fld v.toNat 3 13 = 0)
    (hp : pcOk (BitVec.ofNat 48 (fld v.toNat 16 48)) = true) :
    (dryCore s x.c x.k.val = true → exec (.ctxStart who x v) s = .next (ctxAnswer x 0x09 s)) ∧
    (dryCore s x.c x.k.val = false → isWellhead s x.c = true ∨ (ctxRec s x).state ≠ .idle →
      exec (.ctxStart who x v) s = .next (ctxAnswer x 0x04 s)) ∧
    (dryCore s x.c x.k.val = false → isWellhead s x.c = false → (ctxRec s x).state = .idle →
      exec (.ctxStart who x v) s =
        .next (ctxAnswer x 0x00 (updCtx x (startedRec x (BitVec.ofNat 48 (fld v.toNat 16 48))) (orphan x s)))) := by
  rw [exec_ctxStart, ctxCmd_runs (cmd := 1) h hr hp]
  refine ⟨fun hd => ?_, fun hd hw => ?_, fun hd hw hi => ?_⟩
  · simp only [hd, if_true]
  · simp only [hd, Bool.false_eq_true, if_false, if_pos hw]
  · simp [hd, hw, hi]

/-- The state after such a START. -/
theorem exec_ctxStart_effect (h : regPerm s who x.c = 0x00) (hr : fld v.toNat 3 13 = 0)
    (hp : pcOk (BitVec.ofNat 48 (fld v.toNat 16 48)) = true) (hd : dryCore s x.c x.k.val = false)
    (hw : isWellhead s x.c = false) (hi : (ctxRec s x).state = .idle) :
    ∃ t, exec (.ctxStart who x v) s = .next t ∧ t.ioReply = 0x00 ∧ (ctxRec t x).cmdStatus = 0x00 ∧
      (ctxRec t x).state = .ready ∧ (ctxRec t x).pc = BitVec.ofNat 48 (fld v.toNat 16 48) ∧
      xr t x 1 = (coreUnit x.c x.k.val).setWidth 64 ∧ xr t x 2 = BitVec.ofNat 64 x.n.val ∧
      (∀ i : Reg, i ≠ 1 → i ≠ 2 → xr t x i = 0) ∧ (ctxRec t x).f = Vector.replicate 32 0 ∧
      (ctxRec t x).v = Vector.replicate 32 0 ∧ (ctxRec t x).m = Vector.replicate 8 0 ∧ t.mem = s.mem ∧
      ∀ y, y ≠ x → ctxRec t y = ctxRec s y := by
  obtain ⟨hst, hpc, hf, hv, hm⟩ := startedRec_fields x (BitVec.ofNat 48 (fld v.toNat 16 48)) (ctxRec s x)
  refine ⟨_, (exec_ctxStart_runs h hr hp).2.2 hd hw hi, rfl, ?_⟩
  have hx (i : Reg) : xr (ctxAnswer x 0x00 (updCtx x (startedRec x (BitVec.ofNat 48 (fld v.toNat 16 48))) (orphan x s))) x i =
      (startedRec x (BitVec.ofNat 48 (fld v.toNat 16 48)) (ctxRec s x)).readX i := by
    simp [xr, ctxRec_ctxAnswer, CtxRec.readX]
  simp only [hx, startedRec_readX, ctxRec_ctxAnswer, ctxRec_updCtx, ctxRec_orphan, if_true, true_and]
  refine ⟨hst, hpc, rfl, fun i h1 h2 => by rw [if_neg h1, if_neg h2], hf, hv, hm, rfl, fun y hy => ?_⟩
  rw [if_neg hy, if_neg hy]

/-- STOP of a running context, and of another (R177). -/
theorem exec_ctxStop_runs (h : regPerm s who x.c = 0x00) (hr : fld v.toNat 3 13 = 0) (ha : fld v.toNat 16 48 = 0) :
    ((ctxRec s x).state = .ready ∨ (ctxRec s x).state = .waiting →
      exec (.ctxStop who x v) s = .next (ctxAnswer x 0x00 (ctxStopped x s))) ∧
    ((ctxRec s x).state = .idle ∨ (ctxRec s x).state = .stopped → exec (.ctxStop who x v) s = .next (ctxAnswer x 0x00 s)) := by
  rw [exec_ctxStop, ctxCmd_runs (cmd := 2) h hr ha]
  refine ⟨fun hs => by simp only [if_pos hs], fun hs => ?_⟩
  have hn : ¬ ((ctxRec s x).state = .ready ∨ (ctxRec s x).state = .waiting) := by
    rcases hs with e | e <;> simp [e]
  simp only [if_neg hn]

/-- RESUME (R177). -/
theorem exec_ctxResume_runs (h : regPerm s who x.c = 0x00) (hr : fld v.toNat 3 13 = 0) (ha : fld v.toNat 16 48 = 0) :
    (dryCore s x.c x.k.val = true → exec (.ctxResume who x v) s = .next (ctxAnswer x 0x09 s)) ∧
    (dryCore s x.c x.k.val = false → (ctxRec s x).state ≠ .stopped → exec (.ctxResume who x v) s = .next (ctxAnswer x 0x04 s)) ∧
    (dryCore s x.c x.k.val = false → (ctxRec s x).state = .stopped → exec (.ctxResume who x v) s =
      .next (ctxAnswer x 0x00 (updCtx x (fun r => { r with state := .ready }) s))) := by
  rw [exec_ctxResume, ctxCmd_runs (cmd := 3) h hr ha]
  refine ⟨fun hd => ?_, fun hd hs => ?_, fun hd hs => ?_⟩
  · simp only [hd, if_true]
  · simp only [hd, Bool.false_eq_true, if_false, if_neg hs]
  · simp only [hd, Bool.false_eq_true, if_false, if_pos hs]

theorem exec_ctxReset_runs (h : regPerm s who x.c = 0x00) (hr : fld v.toNat 3 13 = 0) (ha : fld v.toNat 16 48 = 0) :
    exec (.ctxReset who x v) s = .next (ctxAnswer x 0x00 (ctxReset x s)) := by
  rw [exec_ctxReset, ctxCmd_runs (cmd := 4) h hr ha]

theorem exec_ctxCommands_denied (h : regPerm s who x.c ≠ 0x00) :
    exec (.ctxStart who x v) s = .next { s with ioReply := regPerm s who x.c } ∧
    exec (.ctxStop who x v) s = .next { s with ioReply := regPerm s who x.c } ∧
    exec (.ctxResume who x v) s = .next { s with ioReply := regPerm s who x.c } ∧
    exec (.ctxReset who x v) s = .next { s with ioReply := regPerm s who x.c } := by
  simp only [exec_ctxStart, exec_ctxStop, exec_ctxResume, exec_ctxReset, ctxCmd_denied h, and_self]

end

/-- Settles O12: each command is `ctxCmd` with the effect of its row. -/
theorem contextCommandEffects : Obligations.ContextCommandEffects := by
  unfold Obligations.ContextCommandEffects
  refine ⟨fun s who x v h => ⟨exec_ctxCommands_reserved h, exec_ctxStart_badPc h, exec_ctxCommands_address h,
    fun hr hp => ?_, fun hr ha => ?_⟩, fun s who x v h => exec_ctxCommands_denied h⟩
  · obtain ⟨hdry, hno, _⟩ := exec_ctxStart_runs h hr hp
    exact ⟨hdry, hno, exec_ctxStart_effect h hr hp⟩
  · obtain ⟨hrun, hidle⟩ := exec_ctxStop_runs h hr ha
    obtain ⟨hdry, hno, hgo⟩ := exec_ctxResume_runs h hr ha
    refine ⟨fun hs => ⟨_, hrun hs, rfl, ?_⟩, hidle, hdry, hno, hgo, _, exec_ctxReset_runs h hr ha, rfl, ?_⟩
    · simp only [ctxRec_ctxAnswer, ctxRec_ctxStopped, if_true, true_and]
      exact fun y hy => by rw [if_neg hy, if_neg hy]
    · simp only [ctxRec_ctxAnswer, ctxRec_ctxReset, if_true, true_and]
      exact ⟨ctxReset_sram x s, fun y hy => by rw [if_neg hy, if_neg hy]⟩

end Sys2Proof.Machine
end

section
/-! PROOFS. The reset commands and a partition's reset (spec/13_host_and_commands.md R363, 14_partitions_and_reset.md R383-R388). -/

namespace Sys2Proof.Machine
open Sys2Proof

/-! ### RESET and DEV_RESET by command -/

section
variable {s : State} {k : CmdKey} {c : Cmd}

/-- DEV_RESET of a wafer, and of the kinds that are RESET's (R363, R384). -/
theorem exec_devResetWafer (h : Runs s k 0x0103 c) (hk : devKind c.raw ≤ 4) : exec (.devResetWafer k) s = .next (
    if devKind c.raw < 4 then complete k 0x03 [] s
    else finishResets (markStarted c (startWide [Fin.ofNat 4 (fld (cmdD c.raw 2) 3 2)] 4 s))) :=
  congrArg Host.Outcome.next (runCmd_runs h (decide_eq_true hk) _)

theorem exec_devResetModuleCompute (h : Runs s k 0x0103 c) (hk : devKind c.raw = 5) :
    exec (.devResetModuleCompute k) s = .next (finishResets (markStarted c (startWide [0, 1, 2, 3] 5 s))) :=
  congrArg Host.Outcome.next (runCmd_runs h (by simp [hk]) _)

theorem exec_devResetModuleFull (h : Runs s k 0x0103 c) (hk : devKind c.raw = 6) :
    exec (.devResetModuleFull k) s = .next (startWarm s) :=
  congrArg Host.Outcome.next (runCmd_runs h (by simp [hk]) _)

theorem exec_devResetCold (h : Runs s k 0x0103 c) (hk : devKind c.raw = 7) : exec (.devResetCold k) s = .next (startCold s) :=
  congrArg Host.Outcome.next (runCmd_runs h (by simp [hk]) _)

variable {p : Fin 64} {r : PartRec}

/-- A command of a form that needs its partition: its own part runs (R361). -/
theorem runCmd_runsIn {op : Nat} {form : BitVec 512 → Bool} (h : RunsIn s k op c p r) (hf : form c.raw = true)
    (f : Cmd → State → Fin 64 → PartRec → State) : runCmd k op form (fun c s => withPart c s (f c s)) s = f c s p r := by
  obtain ⟨hr, ht, hp⟩ := h
  rw [runCmd_runs hr hf, withPart_some ht hp]

/-- RESET of a context, of a cluster's compute and of a partition's, once the partition is known (R363). -/
theorem exec_resetContext (h : RunsIn s k 0x020A c p r) (hk : resetKind c.raw ≤ 1) : exec (.resetContext k) s = .next (
    match cidOf (cmdD c.raw 3) with
    | none => complete k 0x03 [] s
    | some x =>
      if resetKind c.raw = 0 ∨ 24 ≤ fld (cmdD c.raw 2) 8 5 then complete k 0x03 [] s
      else if owner s x ≠ some p then complete k 0x04 [] s
      else complete k 0x00 [] (ctxReset ⟨x, Fin.ofNat 24 (fld (cmdD c.raw 2) 8 5), Fin.ofNat 4 (fld (cmdD c.raw 2) 13 2)⟩ s)) :=
  congrArg Host.Outcome.next (runCmd_runsIn h (decide_eq_true hk) _)

theorem exec_resetClusterCompute (h : RunsIn s k 0x020A c p r) (hk : resetKind c.raw = 2) : exec (.resetClusterCompute k) s = .next (
    match cidOf (cmdD c.raw 3) with
    | none => complete k 0x03 [] s
    | some x =>
      if 23 < fld (cmdD c.raw 2) 8 5 then complete k 0x03 [] s
      else if owner s x ≠ some p then complete k 0x04 [] s
      else complete k 0x00 [] (clusterReset x s)) :=
  congrArg Host.Outcome.next (runCmd_runsIn h (by simp [hk]) _)

theorem exec_resetPartitionCompute (h : RunsIn s k 0x020A c p r) (hk : resetKind c.raw = 3) : exec (.resetPartitionCompute k) s =
    .next (if 23 < fld (cmdD c.raw 2) 8 5 then complete k 0x03 [] s else startReset 3 false (markStarted c s) p) :=
  congrArg Host.Outcome.next (runCmd_runsIn h (by simp [hk]) _)

end

/-! ### A partition's reset, step by step (R386) -/

section
variable {s : State} {p : Fin 64} {r : PartRec} {z : PReset}

/-- A reset that begins: the partition takes no more work, and its units and stack pump channels stop (R386 steps 1 and 3). -/
theorem startReset_begins (hp : partOf s p = some r) (hr : r.reset = none) (kind : Nat) (del : Bool) :
    let owed := heldBy s (fun c => owner s c == some p) (fun n g => (s.mem.pages.get {} (n.val * 64 + g)).holder == some p)
    let st : PartState := if del then .deleting else .resetting
    let z : PReset := { since := s.t.now, kind := kind, zeroing := false, deleting := del, owed := owed }
    let u := setPart p (some { r with state := st, reset := some z }) s
    let v := ((partClusters u p).filter (clLive u)).foldl stopCluster u
    startReset kind del s p = (boundChans v p).foldl (fun s ch => resetChan ch s) v := by
  simp only [startReset, hp, hr]

/-- A reset that runs takes the larger kind (R388). -/
theorem startReset_absorbed (hp : partOf s p = some r) (hr : r.reset = some z) (kind : Nat) (del : Bool) :
    startReset kind del s p =
      setPart p (some { r with reset := some { z with kind := max z.kind kind, deleting := z.deleting || del } }) s := by
  simp only [startReset, hp, hr]

theorem startReset_absent (hp : partOf s p = none) (kind : Nat) (del : Bool) : startReset kind del s p = s := by
  simp only [startReset, hp]

/-- Neither step of a reset does anything where no reset waits for it. -/
theorem exec_drainEnd_idle (h : ∀ r z, partOf s p = some r → r.reset = some z → z.zeroing = true) :
    exec (.partitionResetDrainEnd p) s = .next s := by
  show execPartitionResetDrainEnd p s = .next s
  unfold execPartitionResetDrainEnd
  congr 1
  split
  · rfl
  · next r hp =>
    split
    · rfl
    · next z hz => exact if_pos (h r z hp hz)

theorem exec_zeroDone_idle (h : ∀ r z, partOf s p = some r → r.reset = some z → z.zeroing = false) :
    exec (.partitionResetZeroDone p) s = .next s := by
  show execPartitionResetZeroDone p s = .next s
  unfold execPartitionResetZeroDone
  congr 1
  split
  · rfl
  · next r hp =>
    split
    · rfl
    · next z hz => exact if_pos (by rw [h r z hp hz]; rfl)

/-- The end of the drain (R386 steps 2, 5 and 6). -/
theorem exec_drainEnd (hp : partOf s p = some r) (hr : r.reset = some z) (hz : z.zeroing = false) :
    let left := z.owed.filter fun i => (xactOf s i).any fun x => x.phase == .there
    let u := drawKey p (left.foldl refuseHeld (waitUntil s (z.since + usec (if left = [] then 2 else 100))))
    exec (.partitionResetDrainEnd p) s = .next (setPart p (some { r with reset := some { z with zeroing := true, owed := [] } })
      (rekeySet (some p) 2 ((heldPages u p).map fun e => (e.1, some p, e.2.index)) u)) := by
  show execPartitionResetDrainEnd p s = _
  simp only [execPartitionResetDrainEnd, hp, hr, hz, Bool.false_eq_true, if_false, List.isEmpty_iff]

/-- A partition after its zeroing: numerics, barriers and clusters at their reset values, the reset over and its event
posted (R386 steps 6 to 8). -/
def resetZeroed (p : Fin 64) (r : PartRec) (z : PReset) (s : State) : State :=
  let a := resetTrees p (resetNum p (waitUntil s (s.t.now + usec 32)))
  let b := ((partClusters a p).filter (clLive a)).foldl resetBound a
  resetDoneEvent p z.kind z.since
    (setPart p (some { r with reset := none, lastReset := moduleTide b, state := if r.beds = [] then .empty else .active }) b)

theorem exec_zeroDone (hp : partOf s p = some r) (hr : r.reset = some z) (hz : z.zeroing = true) :
    exec (.partitionResetZeroDone p) s = .next (finishResets (if z.deleting then
      (((resetZeroed p r z s).host.cmds.filter fun c =>
          c.started && cmdOp c.raw == 0x0202 && cmdTarget (resetZeroed p r z s) c == some p).foldl
        (fun s c => complete c.key 0x00 [] s) (deletePartition p (resetZeroed p r z s)))
      else resetZeroed p r z s)) := by
  show execPartitionResetZeroDone p s = _
  simp only [execPartitionResetZeroDone, hp, hr, hz, Bool.not_true, Bool.false_eq_true, if_false, List.isEmpty_iff]
  rfl

end

theorem refuseHeld_eq {s : State} {i : Nat} {x : Xact} (h : xactOf s i = some x) :
    refuseHeld s i = if x.phase = .there then answer x 0x05 [] s else s := by
  simp only [refuseHeld, h]

/-- Settles O43: the commands by their kinds, then the partition's reset by its state. -/
theorem resetCommands : Obligations.ResetCommands := by
  unfold Obligations.ResetCommands
  refine ⟨⟨fun s k c _ h => ⟨fun hk => ?_, fun hk => ?_, exec_devResetModuleCompute h, exec_devResetModuleFull h, exec_devResetCold h⟩,
    fun s k c p r _ h => ⟨fun hk hbad => ?_, fun hk hbad => ?_, fun hk hc => ?_, fun hk hc => ?_, fun x hx hc =>
      ⟨fun hk ho => ?_, fun hk ho => ?_, fun hk ho => ?_, fun hk ho => ?_⟩⟩⟩,
    fun s kind del p => ⟨fun hp => startReset_absent hp kind del, fun r hp => ⟨fun z hr => startReset_absorbed hp hr kind del,
      fun hr => startReset_begins hp hr kind del⟩⟩,
    fun s p => ⟨exec_drainEnd_idle, exec_zeroDone_idle⟩, fun s p r z => exec_drainEnd,
    fun s i x h => ⟨fun hx => ?_, fun hx => ?_⟩, fun s p r z hp hr hz => ⟨fun hd => ?_, fun hd => ?_⟩⟩
  · rw [exec_devResetWafer h (by omega), if_neg (by omega)]
  · rw [exec_devResetWafer h (by omega), if_pos hk]
  · rw [exec_resetContext h hk]
    split
    · rfl
    · next x hx => rw [if_pos (hbad.resolve_left (by simp [hx]))]
  · rw [exec_resetClusterCompute h hk]
    split
    · rfl
    · next x hx =>
      have hcore := hbad.resolve_left (by simp [hx])
      rw [if_pos (by omega)]
  · rw [exec_resetPartitionCompute h hk, if_pos (by omega)]
  · rw [exec_resetPartitionCompute h hk, if_neg (by omega)]
  · simp only [exec_resetContext h (by omega), hx]
    rw [if_neg (by omega), if_pos ho]
  · simp only [exec_resetContext h (by omega), hx]
    rw [if_neg (by omega), if_neg (not_not_intro ho)]
  · simp only [exec_resetClusterCompute h hk, hx]
    rw [if_neg (by omega), if_pos ho]
  · simp only [exec_resetClusterCompute h hk, hx]
    rw [if_neg (by omega), if_neg (not_not_intro ho)]
  · rw [refuseHeld_eq h, if_pos hx]
  · rw [refuseHeld_eq h, if_neg hx]
  · rw [exec_zeroDone hp hr hz, hd]; rfl
  · rw [exec_zeroDone hp hr hz, hd]; rfl

end Sys2Proof.Machine
end

section
/-! PROOFS. Overflow and underflow reports, and region slots (spec/05_training_numerics.md R143-R150). -/

namespace Sys2Proof.Machine
open Sys2Proof

/-! ### Region slots of a numerics block -/

/-- Region slot `k` of a partition, and the state with that slot replaced. -/
def slotOf (s : State) (p : Fin 64) (k : Fin 16) : RegionSlot := (numBlock s p).slots[k]
def putSlot (p : Fin 64) (k : Fin 16) (g : RegionSlot) (s : State) : State :=
  setNum p { numBlock s p with slots := vset (numBlock s p).slots k g } s

theorem finOfNat_eq {k : Fin 16} {n : Nat} (h : n = k.val) : Fin.ofNat 16 n = k := by
  subst h
  exact Fin.ofNat_val_eq_self k

/-! ### Overflow reports (R143, R145) -/

section
variable {s : State} {i : Nat} {r : CountReport} {k : Fin 16}

/-- The state after an overflow report has left the queue and counted in its partition. -/
def overflowCounted (i : Nat) (r : CountReport) (s : State) : State :=
  let u := { s with num := { s.num with overflows := s.num.overflows.eraseIdx i } }
  let b := numBlock u r.part
  counterWrap (numAddr 0x38) (some r.part) b.overflowCount r.n (setNum r.part { b with overflowCount := b.overflowCount + BitVec.ofNat 64 r.n } u)

theorem exec_overflow_gone (h : s.num.overflows[i]? = none) : exec (.overflowReportArrive i) s = .next s := by
  show Host.Outcome.next (overflowArrive i s) = _
  simp only [overflowArrive, h]

theorem exec_overflow_noPartition (h : s.num.overflows[i]? = some r) (hp : partOf s r.part = none) :
    exec (.overflowReportArrive i) s = .next { s with num := { s.num with overflows := s.num.overflows.eraseIdx i } } := by
  show Host.Outcome.next (overflowArrive i s) = _
  simp only [overflowArrive, h]
  exact congrArg _ (if_pos (Option.isNone_iff_eq_none.2 hp))

theorem exec_overflow (h : s.num.overflows[i]? = some r) (hp : partOf s r.part ≠ none) :
    exec (.overflowReportArrive i) s = .next (countSlot r.part r (overflowCounted i r s)) := by
  show Host.Outcome.next (overflowArrive i s) = _
  simp only [overflowArrive, h]
  exact congrArg _ (if_neg (mt Option.isNone_iff_eq_none.1 hp))

/-- The slot after it has counted an overflow report. -/
def slotOverflowed (r : CountReport) (g : RegionSlot) : RegionSlot :=
  { g with overflows := BitVec.ofNat 32 (min (g.overflows.toNat + r.n) (2 ^ 32 - 1)), firstUnit := if g.overflows = 0 then r.unit else g.firstUnit }

/-- A report that names a region slot is counted in it while the slot is OPEN or CLOSING, and its first overflow tells the
object of an OPEN slot that asked for it. -/
theorem countSlot_live (p : Fin 64) (hk : r.region.toNat = k.val) {v : State}
    (hg : (slotOf v p k).state = .opened ∨ (slotOf v p k).state = .closing) :
    countSlot p r v = match (slotOf v p k).early with
      | some (c, n) =>
        if (slotOf v p k).overflows = 0 ∧ (slotOf v p k).state = .opened then notify c n 1 (putSlot p k (slotOverflowed r (slotOf v p k)) v)
        else putSlot p k (slotOverflowed r (slotOf v p k)) v
      | none => putSlot p k (slotOverflowed r (slotOf v p k)) v := by
  unfold slotOf at hg
  have h16 : ¬ 16 ≤ r.region.toNat := by omega
  simp only [countSlot, if_neg h16, finOfNat_eq hk, if_pos hg, slotOverflowed, addStop, beq_iff_eq]
  rfl

/-- Otherwise it counts as late. -/
theorem countSlot_late (p : Fin 64) (hk : r.region.toNat = k.val) {v : State} (ho : (slotOf v p k).state ≠ .opened)
    (hc : (slotOf v p k).state ≠ .closing) : countSlot p r v =
      counterWrap (numAddr 0x40) (some p) (numBlock v p).lateReports r.n
        (setNum p { numBlock v p with lateReports := (numBlock v p).lateReports + BitVec.ofNat 64 r.n } v) := by
  unfold slotOf at ho hc
  have h16 : ¬ 16 ≤ r.region.toNat := by omega
  simp only [countSlot, if_neg h16, finOfNat_eq hk, if_neg (not_or.2 ⟨ho, hc⟩)]

theorem countSlot_none (p : Fin 64) (h : 16 ≤ r.region.toNat) (v : State) : countSlot p r v = v := if_pos h

/-! ### Underflow reports (R145, R146) -/

/-- The state after an underflow report has left the queue, counted in its partition, and told of the steps crossed. -/
def underflowCounted (i : Nat) (r : CountReport) (s : State) : State :=
  let u := { s with num := { s.num with underflows := s.num.underflows.eraseIdx i } }
  let b := numBlock u r.part
  let new := b.blockUnderflow + BitVec.ofNat 64 r.n
  underflowHigh r.part r.unit b.blockUnderflow new
    (counterWrap (numAddr 0x30) (some r.part) b.blockUnderflow r.n (setNum r.part { b with blockUnderflow := new } u))

theorem exec_underflow_gone (h : s.num.underflows[i]? = none) : exec (.underflowReportArrive i) s = .next s := by
  show Host.Outcome.next (underflowArrive i s) = _
  simp only [underflowArrive, h]

theorem exec_underflow_noPartition (h : s.num.underflows[i]? = some r) (hp : partOf s r.part = none) :
    exec (.underflowReportArrive i) s = .next { s with num := { s.num with underflows := s.num.underflows.eraseIdx i } } := by
  show Host.Outcome.next (underflowArrive i s) = _
  simp only [underflowArrive, h]
  exact congrArg _ (if_pos (Option.isNone_iff_eq_none.2 hp))

/-- The slot after it has counted an underflow report. -/
def slotUnderflowed (r : CountReport) (g : RegionSlot) : RegionSlot :=
  { g with underflows := BitVec.ofNat 48 (min (g.underflows.toNat + r.n) (2 ^ 48 - 1)) }

theorem exec_underflow (h : s.num.underflows[i]? = some r) (hp : partOf s r.part ≠ none) :
    exec (.underflowReportArrive i) s = .next (
      let v := underflowCounted i r s
      let g := slotOf v r.part (Fin.ofNat 16 r.region.toNat)
      if 16 ≤ r.region.toNat then v
      else if g.state = .opened ∨ g.state = .closing then putSlot r.part (Fin.ofNat 16 r.region.toNat) (slotUnderflowed r g) v
      else v) := by
  show Host.Outcome.next (underflowArrive i s) = _
  simp only [underflowArrive, h]
  exact congrArg _ (if_neg (mt Option.isNone_iff_eq_none.1 hp))

end

/-- A BLOCK_UNDERFLOW_HIGH of the partition went out less than 1 ms ago (R146). -/
def highSoon (b : NumBlock) (s : State) : Prop := ∃ a, b.highAt = some a ∧ s.t.now < a + usec 1000

theorem underflowHigh_eq (p : Fin 64) (unit : BitVec 32) (old new : Word) (s : State) :
    let b := numBlock s p
    let k := b.underflowStep.toNat
    let crossed := new.toNat / k - old.toNat / k
    let n := b.crossings + crossed
    let from_ := if crossed = 0 then b.highUnit else unit
    (k = 0 ∨ n = 0 → underflowHigh p unit old new s = s) ∧
    (k ≠ 0 → n ≠ 0 → highSoon b s → underflowHigh p unit old new s = setNum p { b with crossings := n, highUnit := from_ } s) ∧
    (k ≠ 0 → n ≠ 0 → ¬ highSoon b s → underflowHigh p unit old new s = postEvent .blockUnderflowHigh from_ (some p) (moduleTide s)
      (leBytes 8 new.toNat ++ leBytes 4 n) (setNum p { b with crossings := 0, highAt := some s.t.now } s)) := by
  intro b k crossed n from_
  have hsoon : (match b.highAt with | some a => decide (s.t.now < a + usec 1000) | none => false) = true ↔ highSoon b s := by
    cases hb : b.highAt <;> simp [highSoon, hb]
  have e : underflowHigh p unit old new s = if k = 0 then s else if n = 0 then s
      else if (match b.highAt with | some a => decide (s.t.now < a + usec 1000) | none => false) = true then
        setNum p { b with crossings := n, highUnit := from_ } s
      else postEvent .blockUnderflowHigh from_ (some p) (moduleTide s) (leBytes 8 new.toNat ++ leBytes 4 n)
        (setNum p { b with crossings := 0, highAt := some s.t.now } s) := rfl
  refine ⟨fun h => ?_, fun hk hn hs => ?_, fun hk hn hs => ?_⟩
  · rw [e]
    split
    · rfl
    · next hk => rw [if_pos (h.resolve_left hk)]
  · rw [e, if_neg hk, if_neg hn, if_pos (hsoon.2 hs)]
  · rw [e, if_neg hk, if_neg hn, if_neg (mt hsoon.1 hs)]

/-! ### The command word of a region slot (R148) -/

/-- A row fixes the CMD field, bits [2:0], of the word written; every field above it is the word's own. -/
theorem fld_forced (v cmd lo w : Nat) (hc : cmd < 8) (hl : 3 ≤ lo) : fld (v - fld v 0 3 + cmd) lo w = fld v lo w := by
  have h8 : (v - fld v 0 3 + cmd) / 2 ^ 3 = v / 2 ^ 3 := by simp only [fld]; omega
  obtain ⟨m, rfl⟩ := Nat.exists_eq_add_of_le hl
  simp only [fld, Nat.pow_add, ← Nat.div_div_eq_div_mul] at h8 ⊢
  rw [h8]

theorem bit_forced (v cmd i : Nat) (hc : cmd < 8) (hi : 3 ≤ i) : bit (v - fld v 0 3 + cmd) i = bit v i := by
  have h := fld_forced v cmd i 1 hc hi
  simp only [fld, Nat.pow_one] at h
  simp only [bit, Nat.testBit_eq_decide_div_mod_eq, fld]
  rw [h]

/-- The note that a command word asks for. -/
def wordNote (v : Word) : Option NoteRef := if bit v.toNat 42 then some ⟨fld v.toNat 32 5, fld v.toNat 37 5⟩ else none

/-- The word with its CMD field as the row has it. -/
abbrev forced (v : Word) (cmd : Nat) : Nat := v.toNat - fld v.toNat 0 3 + cmd

section
variable {s : State} {who : Requester} {x : CtxId} {p : Fin 64} {i : Fin 16} {v : Word} {cmd : Nat}
  {f : Fin 64 → Cl → Option NoteRef → Nat → NumBlock → RegionSlot → State → Option State}

theorem regionCmd_notCore (h : ∀ x, who ≠ .core x) : regionCmd who i v cmd f s = reply 0x04 s := by
  cases who with
  | core x => exact absurd rfl (h x)
  | _ => rfl

theorem regionCmd_unbound (h : owner s x.c = none) : regionCmd (.core x) i v cmd f s = reply 0x04 s := by
  simp only [regionCmd, h]

theorem regionCmd_resetting (h : owner s x.c = some p) (hr : partResetting s p = true) :
    regionCmd (.core x) i v cmd f s = reply 0x05 s := by
  simp only [regionCmd, h, hr, if_true]

/-- The checks of a region command, in their order, on the fields of the word written. -/
theorem regionCmd_checks (h : owner s x.c = some p) (hr : partResetting s p = false) (hc : cmd < 8) :
    regionCmd (.core x) i v cmd f s =
      let u := reportsDue s
      let refused (st : Byte) : State := putSlot p i { slotOf u p i with cmdStatus := st } u
      reply 0x00 (
        if 24 ≤ fld v.toNat 32 5 then refused 0x03
        else if fld v.toNat 4 4 ≠ 0 ∨ fld v.toNat 43 21 ≠ 0 ∨ (cmd = 1 ∧ fmtOk (fld v.toNat 11 5) = false) then
          notifyOpt x.c (wordNote v) (refused 0x03)
        else match f p x.c (wordNote v) (forced v cmd) (numBlock u p) (slotOf u p i) u with
          | some t => t
          | none => notifyOpt x.c (wordNote v) (refused 0x04)) := by
  simp only [regionCmd, h, hr, Bool.false_eq_true, if_false, if_true, fld_forced v.toNat cmd _ _ hc (show 3 ≤ 32 by omega),
    fld_forced v.toNat cmd _ _ hc (show 3 ≤ 37 by omega), fld_forced v.toNat cmd _ _ hc (show 3 ≤ 4 by omega),
    fld_forced v.toNat cmd _ _ hc (show 3 ≤ 43 by omega), fld_forced v.toNat cmd _ _ hc (show 3 ≤ 11 by omega),
    bit_forced v.toNat cmd 42 hc (by omega), Bool.not_eq_true']
  rfl

/-- A command whose fields are good reaches its effect. -/
theorem regionCmd_runs (h : owner s x.c = some p) (hr : partResetting s p = false) (hc : cmd < 8) (hcore : fld v.toNat 32 5 < 24)
    (h4 : fld v.toNat 4 4 = 0) (h43 : fld v.toNat 43 21 = 0) (hf : cmd = 1 → fmtOk (fld v.toNat 11 5) = true) {t : State}
    (he : f p x.c (wordNote v) (forced v cmd) (numBlock (reportsDue s) p) (slotOf (reportsDue s) p i) (reportsDue s) = some t) :
    regionCmd (.core x) i v cmd f s = reply 0x00 t := by
  have hgood : ¬ (fld v.toNat 4 4 ≠ 0 ∨ fld v.toNat 43 21 ≠ 0 ∨ (cmd = 1 ∧ fmtOk (fld v.toNat 11 5) = false)) := by
    simp only [h4, h43, ne_eq, not_true_eq_false, false_or, not_and]
    intro e
    simp [hf e]
  rw [regionCmd_checks h hr hc]
  simp only [he, if_neg (Nat.not_le.2 hcore), if_neg hgood]

end

/-- The slot is in a state that the command does not take (R148). -/
def regionWrong (cmd n : Nat) (b : NumBlock) (g : RegionSlot) : Prop :=
  (cmd = 1 ∧ (g.state ≠ .free ∨ b.repeatMax.val < fld n 8 3)) ∨ (cmd = 2 ∧ g.state ≠ .opened) ∨
    (cmd = 3 ∧ g.state ≠ .opened ∧ g.state ≠ .closing) ∨ (cmd = 4 ∧ (g.state = .opened ∨ g.state = .closing))

/-- The four rows of region commands with their CMD codes. -/
def regionCommands (who : Requester) (i : Fin 16) (v : Word) : List (Instr × Nat) :=
  [(.regionOpen who i v, 1), (.regionClose who i v, 2), (.regionAbort who i v, 3), (.regionRelease who i v, 4)]

/-- Each row is `regionCmd` with an effect that a wrong state refuses. -/
theorem exec_regionCommand {who : Requester} {i : Fin 16} {v : Word} {c : Instr × Nat} (hc : c ∈ regionCommands who i v) :
    c.2 < 8 ∧ ∃ f, (∀ s, exec c.1 s = .next (regionCmd who i v c.2 f s)) ∧
      ∀ p d note n b g u, regionWrong c.2 n b g → f p d note n b g u = none := by
  simp only [regionCommands, List.mem_cons, List.not_mem_nil, or_false] at hc
  rcases hc with rfl | rfl | rfl | rfl
  all_goals
    refine ⟨by simp, _, fun s => rfl, fun p d note n b g u h => if_pos ?_⟩
    simpa [regionWrong] using h

section
variable {s : State} {x : CtxId} {p : Fin 64} {i : Fin 16} {v : Word} {c : Instr × Nat}

theorem exec_regionCommand_badCore (hc : c ∈ regionCommands (.core x) i v) (h : owner s x.c = some p) (hr : partResetting s p = false)
    (h24 : 24 ≤ fld v.toNat 32 5) :
    exec c.1 s = .next (reply 0x00 (putSlot p i { slotOf (reportsDue s) p i with cmdStatus := 0x03 } (reportsDue s))) := by
  obtain ⟨h8, f, he, _⟩ := exec_regionCommand hc
  rw [he, regionCmd_checks h hr h8]
  simp only [if_pos h24]

theorem exec_regionCommand_bad (hc : c ∈ regionCommands (.core x) i v) (h : owner s x.c = some p) (hr : partResetting s p = false)
    (h24 : fld v.toNat 32 5 < 24)
    (hbad : fld v.toNat 4 4 ≠ 0 ∨ fld v.toNat 43 21 ≠ 0 ∨ (c.2 = 1 ∧ fmtOk (fld v.toNat 11 5) = false)) :
    exec c.1 s = .next (reply 0x00 (notifyOpt x.c (wordNote v)
      (putSlot p i { slotOf (reportsDue s) p i with cmdStatus := 0x03 } (reportsDue s)))) := by
  obtain ⟨h8, f, he, _⟩ := exec_regionCommand hc
  rw [he, regionCmd_checks h hr h8]
  simp only [if_neg (Nat.not_le.2 h24), if_pos hbad]

theorem exec_regionCommand_wrong (hc : c ∈ regionCommands (.core x) i v) (h : owner s x.c = some p) (hr : partResetting s p = false)
    (h24 : fld v.toNat 32 5 < 24)
    (hgood : ¬ (fld v.toNat 4 4 ≠ 0 ∨ fld v.toNat 43 21 ≠ 0 ∨ (c.2 = 1 ∧ fmtOk (fld v.toNat 11 5) = false)))
    (hw : regionWrong c.2 v.toNat (numBlock (reportsDue s) p) (slotOf (reportsDue s) p i)) :
    exec c.1 s = .next (reply 0x00 (notifyOpt x.c (wordNote v)
      (putSlot p i { slotOf (reportsDue s) p i with cmdStatus := 0x04 } (reportsDue s)))) := by
  obtain ⟨h8, f, he, hf⟩ := exec_regionCommand hc
  have hw' : regionWrong c.2 (forced v c.2) (numBlock (reportsDue s) p) (slotOf (reportsDue s) p i) := by
    unfold regionWrong at hw ⊢
    rwa [fld_forced _ _ _ _ h8 (by omega)]
  rw [he, regionCmd_checks h hr h8]
  simp only [if_neg (Nat.not_le.2 h24), if_neg hgood, hf _ _ _ _ _ _ _ hw']

end

/-! ### What the commands do to a slot in a state they take (R148, R149) -/

section
variable {s : State} {x : CtxId} {p : Fin 64} {i : Fin 16} {v : Word}

/-- The slot that OPEN makes. -/
def openedSlot (c : Cl) (v : Word) : RegionSlot :=
  { state := .opened, attempt := Fin.ofNat 8 (fld v.toNat 8 3), format := BitVec.ofNat 5 (fld v.toNat 11 5)
    tag := BitVec.ofNat 16 (fld v.toNat 16 16), early := if bit v.toNat 3 then (wordNote v).map (fun t => (c, t)) else none }

variable (h : owner s x.c = some p) (hr : partResetting s p = false) (h24 : fld v.toNat 32 5 < 24) (h4 : fld v.toNat 4 4 = 0)
  (h43 : fld v.toNat 43 21 = 0)
include h hr h24 h4 h43

theorem exec_regionOpen (hf : fmtOk (fld v.toNat 11 5) = true) (hg : (slotOf (reportsDue s) p i).state = .free)
    (ha : fld v.toNat 8 3 ≤ (numBlock (reportsDue s) p).repeatMax.val) : exec (.regionOpen (.core x) i v) s =
      .next (reply 0x00 (notifyOpt x.c (wordNote v) (putSlot p i (openedSlot x.c v) (reportsDue s)))) := by
  refine congrArg Host.Outcome.next (regionCmd_runs h hr (by omega) h24 h4 h43 (fun _ => hf) ?_)
  have hok : ¬ ((slotOf (reportsDue s) p i).state ≠ .free ∨ (numBlock (reportsDue s) p).repeatMax.val < fld v.toNat 8 3) := by
    simp only [hg, ne_eq, not_true_eq_false, false_or]
    omega
  simp only [fld_forced v.toNat 1 _ _ (by omega) (show 3 ≤ 8 by omega), fld_forced v.toNat 1 _ _ (by omega) (show 3 ≤ 11 by omega),
    fld_forced v.toNat 1 _ _ (by omega) (show 3 ≤ 16 by omega), bit_forced v.toNat 1 3 (by omega) (by omega), if_neg hok]
  rfl

theorem exec_regionClose (hg : (slotOf (reportsDue s) p i).state = .opened) : exec (.regionClose (.core x) i v) s =
    .next (reply 0x00 (putSlot p i { slotOf (reportsDue s) p i with
      state := .closing, closeNote := (wordNote v).map (fun t => (x.c, t)), closeAt := (reportsDue s).t.now,
      byUnit := coreUnit x.c x.k.val, cmdStatus := 0x00 } (reportsDue s))) := by
  refine congrArg Host.Outcome.next (regionCmd_runs h hr (by omega) h24 h4 h43 (by simp) ?_)
  exact if_neg (not_not_intro hg)

/-- ABORT; a CLOSE that waits ends and notifies too. -/
theorem exec_regionAbort (hg : (slotOf (reportsDue s) p i).state = .opened ∨ (slotOf (reportsDue s) p i).state = .closing) :
    exec (.regionAbort (.core x) i v) s = .next (reply 0x00 (notifyOpt x.c (wordNote v)
      (match (slotOf (reportsDue s) p i).state, (slotOf (reportsDue s) p i).closeNote with
        | .closing, some (d, n) =>
          notify d n 1 (abortSlot p i (putSlot p i { slotOf (reportsDue s) p i with byUnit := coreUnit x.c x.k.val } (reportsDue s)))
        | _, _ => abortSlot p i (putSlot p i { slotOf (reportsDue s) p i with byUnit := coreUnit x.c x.k.val } (reportsDue s))))) := by
  refine congrArg Host.Outcome.next (regionCmd_runs h hr (by omega) h24 h4 h43 (by simp) ?_)
  exact if_neg (fun hn => hg.elim hn.1 hn.2)

theorem exec_regionRelease (ho : (slotOf (reportsDue s) p i).state ≠ .opened) (hc : (slotOf (reportsDue s) p i).state ≠ .closing) :
    exec (.regionRelease (.core x) i v) s = .next (reply 0x00 (notifyOpt x.c (wordNote v)
      (putSlot p i { slotOf (reportsDue s) p i with state := .free, early := none, cmdStatus := 0x00 } (reportsDue s)))) := by
  refine congrArg Host.Outcome.next (regionCmd_runs h hr (by omega) h24 h4 h43 (by simp) ?_)
  exact if_neg (not_or.2 ⟨ho, hc⟩)

end

/-- The end of a CLOSE (R148, R149): nothing for a slot that is not CLOSING. -/
theorem exec_regionCloseEnd_idle {s : State} {p : Fin 64} {i : Fin 16} (h : (slotOf s p i).state ≠ .closing) :
    exec (.regionCloseEnd p i) s = .next s := congrArg Host.Outcome.next (if_pos h)

theorem exec_regionCloseEnd {s : State} {p : Fin 64} {i : Fin 16} (h : (slotOf s p i).state = .closing) :
    let u := reportsDue (waitUntil s ((slotOf s p i).closeAt + usec 2))
    let g := slotOf u p i
    let w := if g.overflows = 0 then putSlot p i { g with state := .committed, cmdStatus := 0x00 } u else abortSlot p i u
    (g.closeNote = none → exec (.regionCloseEnd p i) s = .next w) ∧
    (∀ d n, g.closeNote = some (d, n) → exec (.regionCloseEnd p i) s = .next (notify d n 1 w)) := by
  intro u g w
  have e : exec (.regionCloseEnd p i) s = .next (match g.closeNote with | some (d, n) => notify d n 1 w | none => w) :=
    congrArg Host.Outcome.next (if_neg (not_not_intro h))
  rw [e]
  exact ⟨fun hn => by simp only [hn], fun d n hn => by simp only [hn]⟩

theorem exec_regionWrite (who : Requester) (c : Cl) (v : Word) (s : State) :
    exec (.regionWrite who c v) s = .next (
      if regPerm s who c ≠ 0x00 then reply (regPerm s who c) s
      else if 16 ≤ fld v.toNat 0 5 ∧ fld v.toNat 0 5 ≠ 0x1F then reply 0x03 s
      else reply 0x00 { s with num := { s.num with region := s.num.region.set 0x1F (ck c) (BitVec.ofNat 5 (fld v.toNat 0 5)) } }) := rfl

/-- The clauses of O60 on overflow reports. -/
theorem overflowReport_cases {s : State} {i : Nat} {r : CountReport} (h : s.num.overflows[i]? = some r) (k : Fin 16)
    (hp : partOf s r.part ≠ none) (hk : r.region.toNat = k.val) :
    let v := overflowCounted i r s
    let g := slotOf v r.part k
    let w := putSlot r.part k (slotOverflowed r g) v
    (∀ c n, g.state = .opened → g.early = some (c, n) → g.overflows = 0 → exec (.overflowReportArrive i) s = .next (notify c n 1 w)) ∧
    (g.state = .opened ∨ g.state = .closing → g.early = none ∨ g.overflows ≠ 0 ∨ g.state = .closing →
      exec (.overflowReportArrive i) s = .next w) ∧
    (g.state ≠ .opened → g.state ≠ .closing → exec (.overflowReportArrive i) s = .next (counterWrap (numAddr 0x40) (some r.part)
      (numBlock v r.part).lateReports r.n
      (setNum r.part { numBlock v r.part with lateReports := (numBlock v r.part).lateReports + BitVec.ofNat 64 r.n } v))) := by
  intro v g w
  rw [exec_overflow h hp]
  refine ⟨fun c n hg he h0 => ?_, fun hg hq => ?_, fun ho hc => ?_⟩
  · rw [countSlot_live r.part hk (.inl hg)]
    split
    · next c' n' he' =>
      obtain ⟨rfl, rfl⟩ := Prod.mk.inj (Option.some.inj (he.symm.trans he'))
      rw [if_pos ⟨h0, hg⟩]
    · next hn => exact absurd (he.symm.trans hn) (Option.some_ne_none _)
  · rw [countSlot_live r.part hk hg]
    split
    · next c n he =>
      have hq' := hq.resolve_left (by simp [g, v, he])
      rw [if_neg (fun hn => hq'.elim (fun h0 => h0 hn.1) (fun hc => by simp [g, v, hn.2] at hc))]
    · rfl
  · rw [countSlot_late r.part hk ho hc]

theorem underflowReport_cases {s : State} {i : Nat} {r : CountReport} (h : s.num.underflows[i]? = some r) (k : Fin 16)
    (hp : partOf s r.part ≠ none) (hk : r.region.toNat = k.val) :
    let v := underflowCounted i r s
    let g := slotOf v r.part k
    (g.state = .opened ∨ g.state = .closing →
      exec (.underflowReportArrive i) s = .next (putSlot r.part k (slotUnderflowed r g) v)) ∧
    (g.state ≠ .opened → g.state ≠ .closing → exec (.underflowReportArrive i) s = .next v) := by
  intro v g
  have h16 : ¬ 16 ≤ r.region.toNat := by omega
  rw [exec_underflow h hp]
  simp only [if_neg h16, finOfNat_eq hk]
  exact ⟨fun hg => by rw [if_pos hg], fun ho hc => by rw [if_neg (not_or.2 ⟨ho, hc⟩)]⟩

/-- Settles O60: reports by the slot they name, commands by the checks of `regionCmd`, then each slot step. -/
theorem overflowReportsAndRegions : Obligations.OverflowReportsAndRegions := by
  unfold Obligations.OverflowReportsAndRegions
  refine ⟨⟨fun s i r h => ⟨exec_overflow_noPartition h, fun hp h16 => ?_, fun k hp hk => overflowReport_cases h k hp hk⟩,
    fun s i r h => ⟨exec_underflow_noPartition h, fun hp h16 => ?_, fun k hp hk => underflowReport_cases h k hp hk⟩,
    fun s i => ⟨exec_overflow_gone, exec_underflow_gone⟩, underflowHigh_eq⟩, ?_, ?_, fun s p i => rfl,
    fun s p i => exec_regionCloseEnd_idle, fun s p i => exec_regionCloseEnd, fun s who c v => ⟨fun h hn => ?_, fun h h16 hn => ?_, fun h => ?_⟩⟩
  · rw [exec_overflow h hp, countSlot_none _ h16]
    rfl
  · rw [exec_underflow h hp]
    simp only [if_pos h16]
    rfl
  · intro s who i v c hc
    obtain ⟨_, f, he, _⟩ := exec_regionCommand hc
    refine ⟨fun h => by rw [he, regionCmd_notCore h], ?_, ?_, ?_⟩
    · rintro x rfl h
      rw [he, regionCmd_unbound h]
    · rintro x p rfl h hr
      rw [he, regionCmd_resetting h hr]
    · rintro x p rfl h hr
      exact ⟨exec_regionCommand_badCore hc h hr, exec_regionCommand_bad hc h hr, exec_regionCommand_wrong hc h hr⟩
  · intro s x p i v h hr h24 h4 h43
    refine ⟨exec_regionOpen h hr h24 h4 h43, exec_regionClose h hr h24 h4 h43, fun d n hg hn => ?_, fun hg => ?_,
      exec_regionRelease h hr h24 h4 h43⟩
    · rw [exec_regionAbort h hr h24 h4 h43 (.inr hg)]
      simp only [slotOf, hg, hn]
      rfl
    · rw [exec_regionAbort h hr h24 h4 h43 (hg.imp id And.left)]
      rcases hg with hg | ⟨hg, hn⟩
      · simp only [slotOf, hg]
        rfl
      · simp only [slotOf, hg, hn]
        rfl
  · rw [exec_regionWrite, if_neg (not_not_intro h), if_neg (by omega)]
  · rw [exec_regionWrite, if_neg (not_not_intro h), if_pos ⟨h16, hn⟩]
  · rw [exec_regionWrite, if_pos h]

end Sys2Proof.Machine
end

section
/-! PROOFS. Host links, and register writes (spec/07_memory.md R187-R189, 13_host_and_commands.md R348-R359). -/

namespace Sys2Proof.Machine
open Sys2Proof

/-! ### Functions and links (R348, R349, R353, R359, R468) -/

@[simp] theorem fnRec_unhear (hit : CmdKey → Bool) (s : State) (g : FnId) : fnRec (unhear hit s) g = fnRec s g := rfl

theorem exec_functionLevelReset (s : State) (f : FnId) : exec (.functionLevelReset f) s = .next (if fnOn s f then fnDown f s else s) := rfl

/-- The record of a function whose queues are disabled (R359). -/
theorem fnRec_fnDown (f : FnId) (s : State) : fnRec (fnDown f s) f =
    { fnRec s f with enable := false, state := .disabled, unsig := 0,
                     qs := (fnRec s f).qs.map fun q => { q with enable := false, state := .disabled, unsig := 0 } } := by
  simp [fnDown, fnRec_setFn]

/-- Commands fetched from a hit queue no longer answer (R353). -/
theorem unhear_live {hit : CmdKey → Bool} {s : State} {c : Cmd} (hc : c ∈ (unhear hit s).host.cmds) (hh : hit c.key = true) :
    c.live = false := by
  obtain ⟨d, _, rfl⟩ := List.mem_map.1 hc
  cases hd : hit d.key with
  | true => rfl
  | false => simp [hd] at hh

theorem fnDown_effect (s : State) (f : FnId) :
    let t := fnDown f s
    (fnRec t f).state = .disabled ∧ (fnRec t f).enable = false ∧
      (∀ q : Fin 4, ((fnRec t f).qs[q]).state = .disabled ∧ ((fnRec t f).qs[q]).enable = false) ∧
      (∀ c ∈ t.host.cmds, c.key.fn = f → c.live = false) ∧ t.mem = s.mem ∧ t.core = s.core := by
  intro t
  simp only [t, fnRec_fnDown]
  exact ⟨trivial, trivial, fun q => by simp, fun c hc hf => unhear_live hc (by simp [hf]), rfl, rfl⟩

/-- A link that is up goes down with every function of its port, and is posted once (R359). -/
theorem linkDown_eq (p : Fin 2) (reason : Nat) (s : State) : linkDown p reason s =
    if (s.host.ports[p]).up then cxlLinkEvent .linkDown p reason 0
      ((portFns s p).foldl (fun s f => fnDown f s) (updCxl p (fun r => { r with up := false, width := 0 }) s))
    else s := by
  unfold linkDown
  cases h : (s.host.ports[p]).up
  · simp only [Bool.not_false, if_true, Bool.false_eq_true, if_false]
  · simp only [Bool.not_true, Bool.false_eq_true, if_false, if_true]

/-- Training by the width it reached (R209, R348). -/
theorem exec_cxlLinkTrained (s : State) (p : Fin 2) (w : Fin 9) (h : HdmSet) : exec (.cxlLinkTrained p ⟨w, h⟩) s = .next (
    if cxlMayTrain s p = true ∧ (s.host.ports[p]).up = false then
      if w = 8 ∨ w = 4 then cxlLinkEvent .linkUp p 0 w.val (updCxl p (fun r => { r with up := true, width := w.val, hdm := h }) s)
      else if w = 2 ∨ w = 1 then cxlLinkEvent .linkDown p 4 w.val s
      else s
    else s) := by
  show execCxlLinkTrained p ⟨w, h⟩ s = _
  unfold execCxlLinkTrained
  cases hm : cxlMayTrain s p <;> cases hu : (s.host.ports[p]).up <;> simp

theorem exec_cxlLinkTrained_cases (s : State) (p : Fin 2) (w : Fin 9) (h : HdmSet) :
    let may : Prop := cxlMayTrain s p = true ∧ (s.host.ports[p]).up = false
    (¬ may → exec (.cxlLinkTrained p ⟨w, h⟩) s = .next s) ∧
    (may → w = 8 ∨ w = 4 → exec (.cxlLinkTrained p ⟨w, h⟩) s =
      .next (cxlLinkEvent .linkUp p 0 w.val (updCxl p (fun r => { r with up := true, width := w.val, hdm := h }) s))) ∧
    (may → w = 2 ∨ w = 1 → exec (.cxlLinkTrained p ⟨w, h⟩) s = .next (cxlLinkEvent .linkDown p 4 w.val s)) ∧
    (w ≠ 8 → w ≠ 4 → w ≠ 2 → w ≠ 1 → exec (.cxlLinkTrained p ⟨w, h⟩) s = .next s) := by
  intro may
  rw [exec_cxlLinkTrained]
  refine ⟨fun hn => by rw [if_neg hn], fun hm hw => by rw [if_pos hm, if_pos hw], fun hm hw => ?_, fun h8 h4 h2 h1 => ?_⟩
  · have hwide : ¬ (w = 8 ∨ w = 4) := by rcases hw with rfl | rfl <;> decide
    rw [if_pos hm, if_neg hwide, if_pos hw]
  · rw [if_neg (not_or.2 ⟨h8, h4⟩), if_neg (not_or.2 ⟨h2, h1⟩), ite_self]

/-! ### Writes in space 0x4 (R9, R187, R189) -/

section
variable {s : State} {who : Requester} {c : Cl} {v : Word}

/-- The cluster of a requester, whose own registers a module block's address names. -/
def homeOf : Requester → Cl
  | .core x => x.c
  | .io c _ => c
  | .config c => c
  | _ => ⟨0, 0, 0⟩

theorem exec_registerWrite_space4 (s : State) (who : Requester) (a : Word) (size : Nat) (v : Word) :
    let r := regAddr (homeOf who) a
    let good : Prop := layoutOk a = true ∧ addrSpace a = 4 ∧ size = 8 ∧ a.toNat % 8 = 0
    let here : Prop := addrModule a = 0xFF ∨ some (addrModule a) = ownModule s
    (¬ good → exec (.registerWrite (.space4 who a size v)) s = .next (reply 0x03 s)) ∧
    (good → ¬ here → exec (.registerWrite (.space4 who a size v)) s = .next (reply 0x04 s)) ∧
    (good → here → fountainHeld who r.2 none s = true → exec (.registerWrite (.space4 who a size v)) s = .next s) ∧
    (good → here → fountainHeld who r.2 none s = false →
      exec (.registerWrite (.space4 who a size v)) s = .next (writeReg who r.1 r.2 v s)) := by
  intro r good here
  have e : exec (.registerWrite (.space4 who a size v)) s = .next (
      if (!layoutOk a || addrSpace a != 4 || size != 8 || a.toNat % 8 != 0) = true then reply 0x03 s
      else if (addrModule a != 0xFF && some (addrModule a) != ownModule s) = true then reply 0x04 s
      else if fountainHeld who r.2 none s = true then s else writeReg who r.1 r.2 v s) := rfl
  have hgood : (!layoutOk a || addrSpace a != 4 || size != 8 || a.toNat % 8 != 0) = true ↔ ¬ good := by
    simp only [good, Bool.or_eq_true, Bool.not_eq_true', bne_iff_ne, ne_eq, ← Bool.not_eq_true, Decidable.not_and_iff_not_or_not,
      or_assoc]
  have hhere : (addrModule a != 0xFF && some (addrModule a) != ownModule s) = true ↔ ¬ here := by
    simp only [here, Bool.and_eq_true, bne_iff_ne, not_or, ne_eq]
  rw [e]
  simp only [hgood, hhere]
  refine ⟨fun hg => by rw [if_pos hg], fun hg hh => by rw [if_neg (not_not_intro hg), if_pos hh], fun hg hh hf => ?_, fun hg hh hf => ?_⟩
  · rw [if_neg (not_not_intro hg), if_neg (not_not_intro hh), if_pos hf]
  · rw [if_neg (not_not_intro hg), if_neg (not_not_intro hh), hf]
    rfl

theorem storeReg_ok (h : regPerm s who c = 0x00) (f : State → State) : storeReg who c f s = reply 0x00 (f s) := if_pos h
theorem storeReg_denied (h : regPerm s who c ≠ 0x00) (f : State → State) : storeReg who c f s = reply (regPerm s who c) s := if_neg h
theorem readOnly_ok (h : regPerm s who c = 0x00) : readOnly who c s = reply 0x04 s := if_pos (.inl h)
theorem readOnly_denied (h : regPerm s who c ≠ 0x00) (h9 : regPerm s who c ≠ 0x09) : readOnly who c s = reply (regPerm s who c) s :=
  if_neg (not_or.2 ⟨h, h9⟩)

/-- The registers that only store, and some that nobody writes (R176, R189). -/
theorem writeReg_plain (h : regPerm s who c = 0x00) :
    (∀ k i, writeReg who c (.ctx k i 0x18) v s = reply 0x00 (updCtx ⟨c, k, i⟩ (fun r => { r with vector := BitVec.ofNat 48 v.toNat }) s)) ∧
    (∀ k : Fin 24, writeReg who c (.core k 0x108) v s =
      reply 0x00 (setCore c k.val { coreRec s c k.val with noteObj := BitVec.ofNat 5 v.toNat, note := bit v.toNat 5 } s)) ∧
    writeReg who c (.array 0) v s = reply 0x00 (updArr c (fun a => { a with late := a.late && !bit v.toNat 9 }) s) ∧
    writeReg who c (.array 0x20) v s = reply 0x00 (updArr c (fun a => { a with stallLimit := BitVec.ofNat 32 v.toNat }) s) ∧
    writeReg who c (.sync 8) v s = reply 0x00 (setSyncRegs c { syncRegs s c with watchdog := BitVec.ofNat 32 v.toNat } s) ∧
    (∀ k : Fin 24, writeReg who c (.fountain k 0) v s = reply 0x00 (setFreg c k.val { fregOf s c k.val with value := v } s)) ∧
    (∀ r, r = .reserved ∨ (∃ o, r = .bar 0 o) ∨ (∃ o, r = .clErr o) ∨ (∃ k : Fin 24, r = .core k 0) →
      writeReg who c r v s = reply 0x04 s) := by
  refine ⟨fun k i => storeReg_ok h _, fun k => storeReg_ok h _, storeReg_ok h _, storeReg_ok h _, storeReg_ok h _,
    fun k => storeReg_ok h _, ?_⟩
  rintro r (rfl | ⟨o, rfl⟩ | ⟨o, rfl⟩ | ⟨k, rfl⟩) <;> exact readOnly_ok h

theorem writeReg_denied (h : regPerm s who c ≠ 0x00) (h9 : regPerm s who c ≠ 0x09) (r : RegName)
    (hr : r = .reserved ∨ r = .array 0x20 ∨ r = .sync 8) : writeReg who c r v s = reply (regPerm s who c) s := by
  rcases hr with rfl | rfl | rfl
  · exact readOnly_denied h h9
  · exact storeReg_denied h _
  · exact storeReg_denied h _

end

/-! ### Writes to BAR0 (R351-R354) -/

section
variable {s : State} {f : FnId} {v : Word} {off size : Nat}

theorem exec_registerWrite_bar0 : exec (.registerWrite (.bar0 f off size v)) s = .next (bar0Write f off size v s) := rfl

theorem bar0Write_off (h : fnOn s f = false) : bar0Write f off size v s = s := if_pos (by rw [h]; rfl)

/-- Only aligned accesses of 8 bytes reach a register outside the MSI-X table. -/
theorem bar0Write_badSize (hoff : off < 0x2000 ∨ 0x2080 ≤ off) (hs : size ≠ 8 ∨ off % 8 ≠ 0) : bar0Write f off size v s = s := by
  unfold bar0Write
  rw [if_neg (show ¬ (0x2000 ≤ off ∧ off < 0x2080) by omega), if_pos hs, ite_self]

theorem bar0Write_msix (hon : fnOn s f = true) (h1 : 0x2000 ≤ off) (h2 : off < 0x2080) :
    bar0Write f off size v s = if (size = 4 ∨ size = 8) ∧ off % size = 0 then msixWrite f (off - 0x2000) size v s else s := by
  unfold bar0Write
  rw [if_neg (by simp [hon]), if_pos ⟨h1, h2⟩]

/-- A write to register `j`, of 8 bytes each, of a queue pair (R352-R354). -/
def pairRegWrite (f : FnId) (q : Fin 4) (v : Word) (s : State) : Nat → State
  | 0 => if (fnRec s f).qs[q].enable then s else setQ f q { (fnRec s f).qs[q] with sqBase := v } s
  | 1 => if (fnRec s f).qs[q].enable then s else setQ f q { (fnRec s f).qs[q] with cpqBase := v } s
  | 2 => nextOf s (if bit v.toNat 0 then execQueueEnable f (.pair q) v s else execQueueDisable f (.pair q) v s)
  | 3 => nextOf s (execSqTail f q v s)
  | 4 => nextOf s (execCpqHead f q v s)
  | _ => s

/-- The registers of a pair stand 0x40 bytes a pair from 0x200 (R351). -/
theorem bar0Write_pair (hon : fnOn s f = true) (q : Fin 4) {j : Nat} (hj : j < 8) :
    bar0Write f (0x200 + 0x40 * q.val + 8 * j) 8 v s = pairRegWrite f q v s j := by
  have hq : Fin.ofNat 4 ((0x200 + 0x40 * q.val + 8 * j - 0x200) / 0x40) = q := by
    apply Fin.ext
    simp only [Fin.val_ofNat]
    omega
  have hmod : (0x200 + 0x40 * q.val + 8 * j) % 0x40 / 8 = j := by omega
  unfold bar0Write
  rw [if_neg (by simp [hon]), if_neg (by omega), if_neg (by omega)]
  simp only [hq, hmod]
  rw [if_neg (by omega), if_neg (by omega), if_neg (by omega), if_neg (by omega), if_pos (by omega)]
  rfl

/-- An enable register's write is the row of that name. -/
theorem next_enable (b : Bool) (sel : QSel) :
    Host.Outcome.next (nextOf s (if b then execQueueEnable f sel v s else execQueueDisable f sel v s)) =
      if b then exec (.queueEnable f sel v) s else exec (.queueDisable f sel v) s := by
  cases b <;> rfl

/-- The registers of the event queue and of a queue pair (R351-R354). -/
theorem exec_registerWrite_queues (s : State) (f : FnId) (v : Word) (q : Fin 4) (hon : fnOn s f = true) :
    let e := fnRec s f
    let r := e.qs[q]
    let w (off : Nat) : Host.Outcome State Fault Refusal := exec (.registerWrite (.bar0 f off 8 v)) s
    let b := 0x200 + 0x40 * q.val
    w 0x100 = .next (if e.enable then s else setFn f { e with eqBase := v } s) ∧
    w 0x108 = (if bit v.toNat 0 then exec (.queueEnable f .events v) s else exec (.queueDisable f .events v) s) ∧
    w 0x110 = exec (.eqHead f v) s ∧
    w 0x118 = .next (if bit v.toNat 29 then setFn f { e with overflow := false } s else s) ∧
    w b = .next (if r.enable then s else setQ f q { r with sqBase := v } s) ∧
    w (b + 8) = .next (if r.enable then s else setQ f q { r with cpqBase := v } s) ∧
    w (b + 16) = (if bit v.toNat 0 then exec (.queueEnable f (.pair q) v) s else exec (.queueDisable f (.pair q) v) s) ∧
    w (b + 24) = exec (.sqTail f q v) s ∧ w (b + 32) = exec (.cpqHead f q v) s ∧ w (b + 40) = .next s := by
  intro e r w b
  have hoff : ¬ (!fnOn s f) = true := by simp [hon]
  have hw (off : Nat) (t : State) (h : bar0Write f off 8 v s = t) : w off = .next t := congrArg _ h
  refine ⟨hw _ _ (if_neg hoff), (hw _ _ (if_neg hoff)).trans (next_enable _ _), hw _ _ (if_neg hoff), hw _ _ (if_neg hoff),
    hw _ _ (bar0Write_pair hon q (j := 0) (by omega)), hw _ _ (bar0Write_pair hon q (j := 1) (by omega)),
    (hw _ _ (bar0Write_pair hon q (j := 2) (by omega))).trans (next_enable _ _), hw _ _ (bar0Write_pair hon q (j := 3) (by omega)),
    hw _ _ (bar0Write_pair hon q (j := 4) (by omega)), hw _ _ (bar0Write_pair hon q (j := 5) (by omega))⟩

end

/-- Settles O39: links by `linkDown` and `fnDown`, then each register by the block it stands in. -/
theorem hostLinksAndRegisterWrites : Obligations.HostLinksAndRegisterWrites := by
  unfold Obligations.HostLinksAndRegisterWrites
  refine ⟨⟨fun s f => ⟨fun h => ?_, fun h => ?_⟩, fnDown_effect, fun s p => ⟨?_, ?_, rfl⟩, exec_cxlLinkTrained_cases, fun s p n => rfl⟩,
    exec_registerWrite_space4, fun s who c v => writeReg_plain, fun s who c v => writeReg_denied,
    fun s f off size v => ⟨fun h => ?_, fun hoff hs => ?_⟩, exec_registerWrite_queues,
    fun s f off size v hon h1 h2 => ⟨fun hs ha => ?_, fun hs => ?_⟩⟩
  · rw [exec_functionLevelReset, if_pos h]
  · rw [exec_functionLevelReset, h]
    rfl
  · exact congrArg _ (linkDown_eq p 0 s)
  · exact congrArg (fun d => Host.Outcome.next (updCxl p (fun r => { r with perst := true }) d)) (linkDown_eq p 0 s)
  · rw [exec_registerWrite_bar0, bar0Write_off h]
  · rw [exec_registerWrite_bar0, bar0Write_badSize hoff hs]
  · rw [exec_registerWrite_bar0, bar0Write_msix hon h1 h2, if_pos ⟨hs, ha⟩]
  · rw [exec_registerWrite_bar0, bar0Write_msix hon h1 h2, if_neg]
    exact fun ⟨hsize, ha⟩ => hs.elim (fun hn => hsize.elim hn.1 hn.2) (fun hn => hn ha)

end Sys2Proof.Machine
end

section
/-! PROOFS. Fields and beds (spec/01_anatomy.md R12, R13). -/

namespace Sys2Proof.Machine
open Sys2Proof

/-- A cluster is its three coordinates. -/
theorem cl_eq_iff {a b : Cl} : a = b ↔ a.w.val = b.w.val ∧ a.x.val = b.x.val ∧ a.y.val = b.y.val := by
  obtain ⟨w, x, y⟩ := a
  obtain ⟨w', x', y'⟩ := b
  simp only [Cl.mk.injEq, Fin.ext_iff]

/-! ### Fields (R12) -/

theorem fieldOf_val (c : Cl) : (fieldOf c).val = 48 * c.w.val + 8 * (c.y.val / 16) + c.x.val / 12 := by
  simp only [fieldOf, Fin.val_ofNat]
  omega

/-- A field lists its clusters by their field-local positions, row by row. -/
theorem fieldClusters_local (c : Cl) : (fieldClusters (fieldOf c))[12 * (c.y.val % 16) + c.x.val % 12]? = some c := by
  have hlt : 12 * (c.y.val % 16) + c.x.val % 12 < 192 := by omega
  simp only [fieldClusters, List.getElem?_map, List.getElem?_range hlt, Option.map_some, fieldOf_val, Option.some.injEq,
    cl_eq_iff, Fin.val_ofNat]
  omega

theorem mem_fieldClusters (c : Cl) (f : Fin 192) : c ∈ fieldClusters f ↔ fieldOf c = f := by
  constructor
  · intro h
    obtain ⟨i, hi, rfl⟩ := List.mem_map.1 h
    have hi' := List.mem_range.1 hi
    apply Fin.ext
    simp only [fieldOf_val, Fin.val_ofNat]
    omega
  · rintro rfl
    exact List.mem_of_getElem? (fieldClusters_local c)

/-- Settles O4: the numbering of fields, and a field's list read at the local position. -/
theorem clusterLiesInItsField : Obligations.ClusterLiesInItsField := by
  unfold Obligations.ClusterLiesInItsField
  exact ⟨fieldOf_val, fieldClusters_local, mem_fieldClusters⟩

/-! ### Beds (R13) -/

/-- A bed lists its clusters row by row. -/
theorem bedClusters_local (c : Cl) : (bedClusters (bedOf c))[4 * (c.y.val % 4) + c.x.val % 4]? = some c := by
  have hlt : 4 * (c.y.val % 4) + c.x.val % 4 < 16 := by omega
  simp only [bedClusters, bedOf, List.getElem?_map, List.getElem?_range hlt, Option.map_some, Option.some.injEq, cl_eq_iff,
    Fin.val_ofNat]
  omega

theorem mem_bedClusters {b : Nat} (hb : b < 2304) (c : Cl) : c ∈ bedClusters b ↔ bedOf c = b := by
  constructor
  · intro h
    obtain ⟨i, hi, rfl⟩ := List.mem_map.1 h
    have hi' := List.mem_range.1 hi
    have hx : (b % 24 * 4 + i % 4) % 96 / 4 = b % 24 := by omega
    have hy : (b % 576 / 24 * 4 + i / 4) % 96 / 4 = b % 576 / 24 := by omega
    have hw : b / 576 % 4 = b / 576 := by omega
    simp only [bedOf, Fin.val_ofNat, hx, hy, hw]
    omega
  · rintro rfl
    exact List.mem_of_getElem? (bedClusters_local c)

/-- A field's number is that of its beds, 3 columns of 4 beds to a field: the bed alone says the field. -/
theorem fieldOf_val_of_bed (c : Cl) :
    (fieldOf c).val = 48 * (bedOf c / 576) + 8 * (bedOf c % 576 / 24 / 4) + bedOf c % 24 / 3 := by
  simp only [fieldOf_val, bedOf]
  omega

theorem fieldOf_eq_of_bed {c d : Cl} (h : bedOf c = bedOf d) : fieldOf c = fieldOf d := by
  apply Fin.ext
  rw [fieldOf_val_of_bed, fieldOf_val_of_bed, h]

/-- The first cluster of a bed: no bed is empty. -/
theorem exists_mem_bedClusters (b : Nat) : ∃ c, c ∈ bedClusters b :=
  ⟨_, List.mem_map.2 ⟨0, List.mem_range.2 (by omega), rfl⟩⟩

/-- What holds of the field of some cluster of a bed holds of that of each (R13). -/
theorem exists_bedField_iff {b : Nat} (hb : b < 2304) (P : Fin 192 → Prop) :
    (∃ c ∈ bedClusters b, P (fieldOf c)) ↔ ∀ c ∈ bedClusters b, P (fieldOf c) := by
  constructor
  · rintro ⟨c, hc, hP⟩ d hd
    rwa [fieldOf_eq_of_bed (((mem_bedClusters hb d).1 hd).trans ((mem_bedClusters hb c).1 hc).symm)]
  · intro h
    obtain ⟨c, hc⟩ := exists_mem_bedClusters b
    exact ⟨c, hc, h c hc⟩

/-- Settles O5: a bed's list is the clusters of its number, and that number says the field. -/
theorem bedsLieInFields : Obligations.BedsLieInFields := by
  unfold Obligations.BedsLieInFields
  refine ⟨fun w bx by_ c => ?_, fun b hb => ⟨?_, fun c hc d hd => ?_⟩, fun w v bx by_ fx fy f hf => ?_, fun b f hb => ?_⟩
  · rw [mem_bedClusters (by omega), bedOf, Fin.ext_iff]
    omega
  · rw [bedClusters, List.length_map, List.length_range]
  · exact fieldOf_eq_of_bed (((mem_bedClusters hb c).1 hc).trans ((mem_bedClusters hb d).1 hd).symm)
  · have hb : 576 * w.val + 24 * by_.val + bx.val < 2304 := by omega
    have hfield : ∀ c ∈ bedClusters (576 * w.val + 24 * by_.val + bx.val),
        (fieldOf c = f ↔ w = v ∧ 3 * fx.val ≤ bx.val ∧ bx.val ≤ 3 * fx.val + 2 ∧ 4 * fy.val ≤ by_.val ∧ by_.val ≤ 4 * fy.val + 3) := by
      intro c hc
      rw [Fin.ext_iff, fieldOf_val_of_bed, (mem_bedClusters hb c).1 hc, hf, Fin.ext_iff]
      omega
    obtain ⟨c, hc⟩ := exists_mem_bedClusters (576 * w.val + 24 * by_.val + bx.val)
    rw [exists_bedField_iff hb (· = f), ← hfield c hc]
    exact ⟨fun h => h c hc, fun h => (exists_bedField_iff hb (· = f)).1 ⟨c, hc, h⟩⟩
  · simp only [mem_fieldClusters]
    exact exists_bedField_iff hb (· = f)

end Sys2Proof.Machine
end

section
/-! PROOFS. Packets at an Ocsal port, the chassis and hall barriers (spec/16_ocsal_fabric.md R419-R435). -/

namespace Sys2Proof.Machine
open Sys2Proof

/-! ### Packets (R419, R422, R423) -/

/-- A drop moves the port's count and posts at most its wrap. -/
theorem portRec_dropOcsal (s : State) (p q : Fin 16) : portRec (dropOcsal p s) q =
    if q = p then { portRec s p with dropped := (portRec s p).dropped + 1 } else portRec s q := by
  unfold dropOcsal
  dsimp only
  rw [portRec, wrapEvent_only _ _ _ _ _ _ _]
  exact portRec_setPort p q _ s

section
variable {s : State} {p : Fin 16} {k : OcsalPkt}

/-- The packet goes on to another module: once, and from a ring port to a ring port (R423). -/
abbrev GoesOn (s : State) (p : Fin 16) (k : OcsalPkt) : Prop := k.transit = false ∧ p.val < 8 ∧ (directPort s k.dest).isSome = true

/-- What a packet that is taken at its own module does, by its KIND. -/
def packetHere (p : Fin 16) (k : OcsalPkt) (s : State) : State :=
  match k.kind.toNat with
  | 0 => (match pktKind k with
    | some q => remoteIn p k q s
    | none => dropOcsal p s)
  | 1 => remoteReply k s
  | _ => s

theorem exec_ocsalPacketArrive_down (h : (portRec s p).state ≠ .up) : exec (.ocsalPacketArrive p k) s = .next s :=
  congrArg Host.Outcome.next (if_pos h)

theorem exec_ocsalPacketArrive_reserved (hup : (portRec s p).state = .up) (h : k.kind = 3 ∨ 8 ≤ k.hops.toNat) :
    exec (.ocsalPacketArrive p k) s = .next (dropOcsal p s) :=
  congrArg Host.Outcome.next ((if_neg (not_not_intro hup)).trans (if_pos h))

/-- A well-formed packet by its destination and its source. -/
theorem exec_ocsalPacketArrive (hup : (portRec s p).state = .up) (h3 : k.kind ≠ 3) (h8 : k.hops.toNat < 8) :
    exec (.ocsalPacketArrive p k) s = .next (
      if some k.dest ≠ s.fab.num then
        if GoesOn s p k then drainTransit { s with fab := { s.fab with transit := s.fab.transit ++ [{ k with transit := true }] } }
        else dropOcsal p s
      else if moduleAssigned s k.src = false then dropOcsal p s
      else packetHere p k s) := by
  have hform : ¬ (k.kind = 3 ∨ 8 ≤ k.hops.toNat) := by
    rintro (h | h)
    · exact h3 h
    · omega
  have e : exec (.ocsalPacketArrive p k) s = .next (
      if some k.dest ≠ s.fab.num then
        if (!k.transit && decide (p.val < 8) && (directPort s k.dest).isSome) = true then
          drainTransit { s with fab := { s.fab with transit := s.fab.transit ++ [{ k with transit := true }] } }
        else dropOcsal p s
      else if (!moduleAssigned s k.src) = true then dropOcsal p s
      else packetHere p k s) :=
    congrArg Host.Outcome.next ((if_neg (not_not_intro hup)).trans (if_neg hform))
  simpa only [GoesOn, Bool.and_eq_true, Bool.not_eq_true', decide_eq_true_eq, and_assoc] using e

theorem packetHere_request (h : k.kind = 0) :
    (∀ q, pktKind k = some q → packetHere p k s = remoteIn p k q s) ∧ (pktKind k = none → packetHere p k s = dropOcsal p s) := by
  have hk : k.kind.toNat = 0 := by rw [h]; rfl
  unfold packetHere
  exact ⟨fun q hq => by simp only [hk, hq], fun hn => by simp only [hk, hn]⟩

theorem packetHere_reply (h : k.kind = 1) : packetHere p k s = remoteReply k s := by
  have hk : k.kind.toNat = 1 := by rw [h]; rfl
  unfold packetHere
  simp only [hk]

theorem packetHere_control (h : k.kind = 2) : packetHere p k s = s := by
  have hk : k.kind.toNat = 2 := by rw [h]; rfl
  unfold packetHere
  simp only [hk]

end

/-- A packet at a port: by its form, its destination, its source and its KIND (R419, R423). -/
theorem exec_ocsalPacketArrive_cases (s : State) (p : Fin 16) (k : OcsalPkt) :
    let ok : Prop := (portRec s p).state = .up ∧ k.kind ≠ 3 ∧ k.hops.toNat < 8
    let here : Prop := ok ∧ some k.dest = s.fab.num ∧ moduleAssigned s k.src = true
    let t (u : State) : Prop := exec (.ocsalPacketArrive p k) s = .next u
    ((portRec s p).state ≠ .up → t s) ∧ ((portRec s p).state = .up → k.kind = 3 ∨ 8 ≤ k.hops.toNat → t (dropOcsal p s)) ∧
    (ok → some k.dest ≠ s.fab.num → GoesOn s p k →
      t (drainTransit { s with fab := { s.fab with transit := s.fab.transit ++ [{ k with transit := true }] } })) ∧
    (ok → some k.dest ≠ s.fab.num → ¬ GoesOn s p k → t (dropOcsal p s)) ∧
    (ok → some k.dest = s.fab.num → moduleAssigned s k.src = false → t (dropOcsal p s)) ∧
    (here → k.kind = 0 → (∀ q, pktKind k = some q → t (remoteIn p k q s)) ∧ (pktKind k = none → t (dropOcsal p s))) ∧
    (here → k.kind = 1 → t (remoteReply k s)) ∧ (here → k.kind = 2 → t s) := by
  intro ok here t
  have taken (hok : ok) := exec_ocsalPacketArrive hok.1 hok.2.1 hok.2.2
  have taken_here (hh : here) : t (packetHere p k s) := by
    obtain ⟨hok, hdest, hsrc⟩ := hh
    exact (taken hok).trans (by rw [if_neg (not_not_intro hdest), if_neg (by simp [hsrc])])
  refine ⟨exec_ocsalPacketArrive_down, exec_ocsalPacketArrive_reserved, fun hok hdest hon => ?_, fun hok hdest hon => ?_,
    fun hok hdest hsrc => ?_, fun hh h0 => ?_, fun hh h1 => ?_, fun hh h2 => ?_⟩
  · exact (taken hok).trans (by rw [if_pos hdest, if_pos hon])
  · exact (taken hok).trans (by rw [if_pos hdest, if_neg hon])
  · exact (taken hok).trans (by rw [if_neg (not_not_intro hdest), if_pos hsrc])
  · obtain ⟨hrequest, hreserved⟩ := packetHere_request h0
    exact ⟨fun q hq => (taken_here hh).trans (congrArg _ (hrequest q hq)), fun hn => (taken_here hh).trans (congrArg _ (hreserved hn))⟩
  · exact (taken_here hh).trans (congrArg _ (packetHere_reply h1))
  · exact (taken_here hh).trans (congrArg _ (packetHere_control h2))

/-! ### Requests of other modules (R23, R260, R425) -/

section
variable {s : State} {p : Fin 16} {k : OcsalPkt} {q : ReqKind}

/-- The data of an answer that refuses a request: an object operation's is its value. -/
def refusalData : ReqKind → List Byte
  | .object _ => [0, 0, 0, 0]
  | _ => []

/-- The request is answered at once, with a status. -/
abbrev RemoteRefused (s : State) (p : Fin 16) (k : OcsalPkt) (q : ReqKind) (st : Byte) : Prop :=
  ∃ x, remoteIn p k q s = replyOut x k.src k.part p (k.portTag.toNat + 4096 * k.srcPort.val) st (refusalData q) s

theorem remoteIn_badForm (h : ¬ (layoutOk k.addr = true ∧ reservedObject q = false)) : RemoteRefused s p k q 0x03 := by
  have hbad : (!layoutOk k.addr || reservedObject q) = true := by
    cases hl : layoutOk k.addr <;> cases hr : reservedObject q <;> simp_all
  exact ⟨_, if_pos hbad⟩

variable (hl : layoutOk k.addr = true) (hr : reservedObject q = false)
include hl hr

theorem remoteIn_goodForm : (!layoutOk k.addr || reservedObject q) ≠ true := by simp [hl, hr]

theorem remoteIn_denied (h : remoteOk q k.addr = false ∨ hallPart s k.src k.part = none) : RemoteRefused s p k q 0x04 := by
  unfold RemoteRefused remoteIn
  simp only [if_neg (remoteIn_goodForm hl hr)]
  cases ho : remoteOk q k.addr with
  | false => exact ⟨_, rfl⟩
  | true =>
    have hn := h.resolve_left (by simp [ho])
    simp only [hn]
    exact ⟨_, rfl⟩

theorem remoteIn_noRouter (ho : remoteOk q k.addr = true) (hp : (hallPart s k.src k.part).isSome = true)
    (he : entryRouter s p k.addr = none) : RemoteRefused s p k q 0x09 := by
  obtain ⟨w, hw⟩ := Option.isSome_iff_exists.1 hp
  unfold RemoteRefused remoteIn
  simp only [if_neg (remoteIn_goodForm hl hr), ho, hw, he]
  exact ⟨_, rfl⟩

theorem remoteIn_enters {w : Fin 64} {src : Cl} (ho : remoteOk q k.addr = true) (hp : hallPart s k.src k.part = some w)
    (he : entryRouter s p k.addr = some src) : ∃ x u, remoteIn p k q s = inject x u ∧
      x.who = .remote k.src k.part p (k.portTag.toNat + 4096 * k.srcPort.val) ∧ x.part = some w ∧ x.kind = q ∧ x.addr = k.addr ∧
      x.data = k.payload ∧ x.src = src ∧ x.out = false ∧ u.net.xacts = s.net.xacts ++ [x] := by
  unfold remoteIn
  simp only [if_neg (remoteIn_goodForm hl hr), ho, hp, he]
  exact ⟨_, _, rfl, rfl, rfl, rfl, rfl, rfl, rfl, rfl, rfl⟩

end

/-! ### Replies of other modules (R239, R427) -/

section
variable {s : State} {k : OcsalPkt} {id : Nat}

@[simp] theorem xactOf_setPort (p : Fin 16) (r : PortRec) (s : State) (id : Nat) : xactOf (setPort p r s) id = xactOf s id := rfl

theorem remoteReply_unknown (h : (portRec s k.srcPort).table.get none k.portTag.toNat = none) : remoteReply k s = s := by
  simp only [remoteReply, h]

variable (h : (portRec s k.srcPort).table.get none k.portTag.toNat = some id)
include h

/-- PENDING leaves the port's table as it is. -/
theorem remoteReply_pending (ht : k.type = 0xD) :
    (xactOf s id = none → remoteReply k s = s) ∧
    (∀ x, xactOf s id = some x → remoteReply k s = setXact { x with timer := x.timer.map fun _ => s.t.now } s) := by
  unfold remoteReply
  exact ⟨fun hx => by simp [h, ht, hx], fun x hx => by simp [h, ht, hx]⟩

theorem remoteReply_ends (ht : k.type ≠ 0xD) :
    let r := portRec s k.srcPort
    let u := setPort k.srcPort { r with table := r.table.set none k.portTag.toNat none } s
    (xactOf s id = none → remoteReply k s = u) ∧ (∀ x, xactOf s id = some x → remoteReply k s = answer x k.status k.payload u) := by
  intro r u
  have hpend : (k.type == 0xD) = false := beq_eq_false_iff_ne.2 ht
  constructor
  · intro hn
    simp only [remoteReply, h, hpend, Bool.false_eq_true, if_false, xactOf_setPort, hn, u, r]
  · intro x hs
    simp only [remoteReply, h, hpend, Bool.false_eq_true, if_false, xactOf_setPort, hs, u, r]

end

/-! ### What the chassis leaves: the fabric's state under events and packets sent -/

theorem OnlyEvents.fab {s t : State} (h : OnlyEvents s t) : t.fab = s.fab := by rw [h]

theorem foldl_fab {α : Type} {g : State → α → State} (h : ∀ s a, (g s a).fab = s.fab) (l : List α) (s : State) :
    (l.foldl g s).fab = s.fab := by
  induction l generalizing s with
  | nil => rfl
  | cons a l ih => exact (ih _).trans (h s a)

theorem controlOut_fab (m : BitVec 8) (code : BitVec 4) (d : List Byte) (s : State) : (controlOut m code d s).fab = s.fab := by
  unfold controlOut
  split <;> rfl

theorem sendHeartbeat_fab (s : State) : (sendHeartbeat s).fab = s.fab := foldl_fab (fun _ _ => controlOut_fab _ _ _ _) _ _

theorem managerEvent_fab (old new : BitVec 8) (s : State) : (managerEvent old new s).fab = s.fab := (postTo_only _ _ _ _ _ _ s).fab

theorem sendReleases_fab (p : Fin 64) (b : Fin 32) (ms : List Cl) (gen : BitVec 16) (st : Byte) (l : Word) (s : State) :
    (sendReleases p b ms gen st l s).fab = s.fab := by
  unfold sendReleases
  refine foldl_fab ?_ ms s
  exact fun _ _ => rfl

theorem forceRelease_fab (p : Fin 64) (b : Fin 32) (st : Byte) (s : State) : (forceRelease p b st s).fab = s.fab := by
  unfold forceRelease
  split
  · rfl
  · exact sendReleases_fab _ _ _ _ _ _ _

theorem releaseHall_fab (s : State) : (releaseHall s).fab = s.fab := by
  refine foldl_fab (fun s p => foldl_fab (fun s b => ?_) _ s) _ s
  split
  · split
    · exact forceRelease_fab _ _ _ _
    · rfl
  · rfl

/-! ### Heartbeats (R420, R430, R434) -/

theorem exec_heartbeat_send (s : State) : exec (.heartbeat none) s =
    .next (if s.fab.role ≠ .manager then s else sendHeartbeat (waitUntil s (s.t.now + usec 100))) := by
  have e : exec (.heartbeat none) s =
      .next (if (s.fab.role != .manager) = true then s else sendHeartbeat (waitUntil s (s.t.now + usec 100))) := rfl
  simpa only [bne_iff_ne] using e

theorem exec_heartbeat_worker {s : State} (hw : isWorker s = true) (h : Heartbeat) :
    exec (.heartbeat (some h)) s = .next (hearManager h s) := congrArg Host.Outcome.next (if_pos hw)

/-- What a manager, or a module without one, does with a heartbeat: it gives way or does nothing. -/
theorem exec_heartbeat_other {s : State} (hw : isWorker s = false) (h : Heartbeat) :
    let way : Prop := s.fab.role = .manager ∧ givesWay s h = true
    (¬ way → exec (.heartbeat (some h)) s = .next s) ∧
    (way → exec (.heartbeat (some h)) s = .next (sendJoin (managerEvent s.fab.manager h.manager { s with
      fab := { s.fab with role := if h.standby = 0xFF then .standby else .worker, num := none, manager := h.manager,
                          standby := h.standby, mask := h.mask, epoch := h.tableEpoch, heardAt := s.t.now, hall := [] } }))) := by
  intro way
  have hway : (s.fab.role != .manager || !givesWay s h) = true ↔ ¬ way := by
    simp only [way, Bool.or_eq_true, bne_iff_ne, Bool.not_eq_true', ← Bool.not_eq_true, Decidable.not_and_iff_not_or_not, ne_eq]
  have hno : ¬ isWorker s = true := by simp [hw]
  exact ⟨fun hn => congrArg Host.Outcome.next ((if_neg hno).trans (if_pos (hway.2 hn))),
    fun hy => congrArg Host.Outcome.next ((if_neg hno).trans (if_neg fun hb => hway.1 hb hy))⟩

/-! ### Loss of the manager (R434, R435) -/

/-- A command whose Boolean guard says that its condition fails. -/
theorem ite_idle {α : Type} {c : Bool} {P : Prop} [Decidable P] (h : c = true ↔ ¬ P) (idle acts : α) :
    (if c = true then idle else acts) = if P then acts else idle := by
  by_cases hp : P
  · rw [if_neg fun hc => h.1 hc hp, if_pos hp]
  · rw [if_pos (h.2 hp), if_neg hp]

/-- The module is a numbered worker of a manager that it knows. -/
abbrev HasManager (s : State) : Prop := isWorker s = true ∧ s.fab.num.isSome = true ∧ s.fab.manager ≠ 0xFF

theorem exec_heartbeatLoss (s : State) :
    let u := waitUntil s (if s.fab.poll.isSome then s.t.now + usec 10000 else s.fab.heardAt + usec 10000)
    let seen := (moduleTide u).toNat - 8 * (u.t.now - s.fab.heardAt)
    exec .heartbeatLoss s = .next (
      if HasManager s then
        if s.fab.role = .standby then
          tryTakeover ((others u).foldl (fun s m => controlOut m 0x5 (leBytes 8 seen) s) { u with fab := { u.fab with poll := some [] } })
        else if s.fab.standby = 0xFF then releaseHall u
        else u
      else s) := by
  intro u seen
  have hidle : (!isWorker s || s.fab.num.isNone || s.fab.manager == 0xFF) = true ↔ ¬ HasManager s := by
    cases hw : isWorker s <;> cases hn : s.fab.num <;> simp [HasManager, hw, hn]
  exact congrArg Host.Outcome.next (ite_idle hidle _ _)

/-- A numbered worker answers a poll; another module does not. -/
theorem exec_poll (s : State) (m : BitVec 8) (v : Word) : exec (.poll m v) s = .next (
    if isWorker s = true ∧ s.fab.num.isSome = true then
      controlOut m 0x5 (leBytes 8 ((moduleTide s).toNat - 8 * (s.t.now - s.fab.heardAt)) ++
        leBytes 1 (b2n (decide (s.fab.heardAt + usec 5000 ≤ s.t.now)))) s
    else s) := by
  have hidle : (!isWorker s || s.fab.num.isNone) = true ↔ ¬ (isWorker s = true ∧ s.fab.num.isSome = true) := by
    cases hw : isWorker s <;> cases hn : s.fab.num <;> simp
  exact congrArg Host.Outcome.next (ite_idle hidle _ _)

theorem exec_pollRsp_noPoll {s : State} (h : s.fab.poll = none) (m : BitVec 8) (yes : Bool) : exec (.pollRsp m yes) s = .next s := by
  change execPollRsp m yes s = _
  simp only [execPollRsp, h]

/-- A confirmation counts while the standby polls, once for each module. -/
theorem exec_pollRsp {s : State} {l : List (BitVec 8)} (h : s.fab.poll = some l) (m : BitVec 8) (yes : Bool) :
    exec (.pollRsp m yes) s = .next (if s.fab.role = .standby ∧ yes = true ∧ m ∉ l then
      tryTakeover { s with fab := { s.fab with poll := some (l ++ [m]) } } else s) := by
  have hidle : (s.fab.role != .standby || !yes || l.contains m) = true ↔ ¬ (s.fab.role = .standby ∧ yes = true ∧ m ∉ l) := by
    simp only [Bool.or_eq_true, bne_iff_ne, ne_eq, Bool.not_eq_true', ← Bool.not_eq_true, List.contains_iff_mem,
      Decidable.not_and_iff_not_or_not, Decidable.not_not, or_assoc]
  change execPollRsp m yes s = _
  simp only [execPollRsp, h, ite_idle hidle]

/-- The modules whose confirmation counts, but for the standby itself. -/
def voters (s : State) : List (BitVec 8) := (others s).filter fun m => m ≠ s.fab.manager

/-- The standby in its new role: the record and ORIGIN as replicated. -/
def serving (n : BitVec 8) (s : State) : State :=
  let u := takeRecord (takeOrigin s)
  { u with fab := { u.fab with role := .manager, manager := n, standby := 0xFF, poll := none, upstream := none, hall := [] } }

/-- The standby serves as manager, once hall barriers under way have ended. -/
def serveAfterLoss (n : BitVec 8) (s : State) : State :=
  sendHeartbeat (managerEvent s.fab.manager n (releaseHall (serving n s)))

theorem tryTakeover_idle {s : State} (h : s.fab.poll = none ∨ s.fab.num = none) : tryTakeover s = s := by
  unfold tryTakeover
  split
  · next hl hn => simp [hl, hn] at h
  · rfl

section
variable {s : State} {n : BitVec 8} {l : List (BitVec 8)} (hn : s.fab.num = some n) (hl : s.fab.poll = some l)
include hn hl

theorem tryTakeover_few (h : 2 * (1 + (l.filter (voters s).contains).length) ≤ (voters s).length + 1) : tryTakeover s = s := by
  simp only [tryTakeover, hl, hn]
  exact if_pos h

theorem tryTakeover_majority (h : (voters s).length + 1 < 2 * (1 + (l.filter (voters s).contains).length)) :
    tryTakeover s = serveAfterLoss n s := by
  simp only [tryTakeover, hl, hn]
  exact if_neg (Nat.not_le.2 h)

end

theorem serveAfterLoss_fab (n : BitVec 8) (s : State) : (serveAfterLoss n s).fab = (serving n s).fab :=
  (sendHeartbeat_fab _).trans ((managerEvent_fab _ _ _).trans (releaseHall_fab _))

/-- A new manager's record: itself, and modules of the assignment mask it last heard (R421, R434). -/
theorem mem_takeRecord {s : State} {n : BitVec 8} (hn : s.fab.num = some n) {e : BitVec 128 × BitVec 8}
    (he : e ∈ (takeRecord s).fab.record) :
    e = (s.boot.serial, n) ∨ (e.1 ≠ s.boot.serial ∧ s.fab.mask.getLsbD e.2.toNat = true) := by
  simp only [takeRecord, ownModule, hn, Option.getD_some, List.mem_cons, List.mem_filter, Bool.and_eq_true, bne_iff_ne] at he
  rcases he with he | ⟨_, ⟨hserial, _⟩, hmask⟩
  · exact .inl he
  · exact .inr ⟨hserial, hmask⟩

/-! ### Module numbers (R421, R431) -/

/-- The number of a serial number that the manager has recorded. -/
theorem numberFor_recorded {s : State} {serial : BitVec 128} {n : BitVec 8} (hn : numberFor s serial = some n)
    (hk : (s.fab.record.any fun e => e.1 == serial) = true) : (serial, n) ∈ s.fab.record := by
  unfold numberFor at hn
  split at hn
  · next e he =>
    have hserial : e.1 = serial := by simpa using List.find?_some he
    have hmem := List.mem_of_find?_eq_some he
    rwa [← hserial, ← Option.some.inj hn]
  · next he =>
    obtain ⟨e, hm, hs⟩ := List.any_eq_true.1 hk
    exact absurd hs (List.find?_eq_none.1 he e hm)

section
variable {s : State} {p : Fin 16} {serial : BitVec 128} (role : BitVec 2)

theorem exec_join_ignored (h : ¬ (s.fab.role = .manager ∧ (portRec s p).state = .up) ∨ numberFor s serial = none) :
    exec (.join p serial role) s = .next s := by
  change execJoin p serial role s = _
  unfold execJoin
  by_cases hm : s.fab.role = .manager ∧ (portRec s p).state = .up
  · have hn := h.resolve_left (not_not_intro hm)
    simp only [hn, ite_self]
  · rw [if_pos]
    simpa only [Bool.or_eq_true, bne_iff_ne, ne_eq, Decidable.not_and_iff_not_or_not] using hm

theorem exec_join_numbered {n : BitVec 8} (hm : s.fab.role = .manager) (hup : (portRec s p).state = .up)
    (hn : numberFor s serial = some n) : ∃ t, exec (.join p serial role) s = .next t ∧
      (serial, n) ∈ t.fab.record ∧ ((s.fab.record.any fun e => e.1 == serial) = true → t.fab.record = s.fab.record) ∧
      t.fab.epoch = s.fab.epoch + 1 ∧ t.fab.mask = s.fab.mask ||| ((1 : BitVec 256) <<< n.toNat) ∧
      t.fab.standby = (if role = 3 ∧ s.fab.standby = 0xFF then n else s.fab.standby) ∧
      t.out = s.out ++ [.control p n 0x4 (leBytes 1 n.toNat ++ leBytes 1 s.fab.manager.toNat)] ∧
      t = { s with fab := t.fab, out := t.out } := by
  have hmay : ¬ (s.fab.role != .manager || (portRec s p).state != .up) = true := by simp [hm, hup]
  change ∃ t, execJoin p serial role s = .next t ∧ _
  unfold execJoin
  simp only [if_neg hmay, hn]
  refine ⟨_, rfl, ?_, fun hk => if_pos hk, rfl, rfl, rfl, rfl, rfl⟩
  dsimp only
  split
  · next hk => exact numberFor_recorded hn hk
  · exact List.mem_append_right _ (List.mem_singleton.2 rfl)

end

theorem exec_assign (s : State) (n m : BitVec 8) :
    let may : Prop := isWorker s = true ∧ s.fab.joining = true ∧ n ≠ 0xFF
    (¬ may → exec (.assign n m) s = .next s) ∧
    (may → exec (.assign n m) s = .next (managerEvent 0xFF m { s with fab := { s.fab with
      num := some n, manager := m, joining := false, heardAt := s.t.now, tideAt := s.t.now, record := [(s.boot.serial, n)] } })) := by
  intro may
  have hidle : (!isWorker s || !s.fab.joining || n == 0xFF) = true ↔ ¬ may := by
    cases hw : isWorker s <;> cases hj : s.fab.joining <;> simp [may, hw, hj]
  exact ⟨fun hn => congrArg Host.Outcome.next (if_pos (hidle.2 hn)), fun hy => congrArg Host.Outcome.next (if_neg fun hb => hidle.1 hb hy)⟩

/-! ### Hall barriers (R433) -/

theorem hallDeliver_noTree {p : Fin 64} {b : Fin 32} {s : State} (h : rootOf s p b.val = none) (gen : BitVec 16) (st : Byte) (l : Word) :
    hallDeliver p b gen st l s = s := by
  simp only [hallDeliver, h]

theorem hallDeliver_tree {p : Fin 64} {b : Fin 32} {s : State} {r : BarRoot} (h : rootOf s p b.val = some r) (gen : BitVec 16)
    (st : Byte) (l : Word) : hallDeliver p b gen st l s = if r.hall = true ∧ gen = r.generation then
      sendReleases p b r.members gen st l (setRoot p b.val (some { r with generation := r.generation + 1, got := [] }) s) else s := by
  simp only [hallDeliver, h]
  cases r.hall <;> simp

section
variable {s : State} {m : BitVec 8} {p : Fin 64} {b : Fin 32} {gen : BitVec 16}

/-- The module's own tree of a hall barrier is complete at a generation. -/
abbrev TreeComplete (s : State) (p : Fin 64) (b : Fin 32) (gen : BitVec 16) : Prop :=
  ∃ r, rootOf s p b.val = some r ∧ r.hall = true ∧ r.generation = gen ∧ ∀ x ∈ r.members, x ∈ r.got

/-- The arrivals recorded once this one is. -/
def hallGot (s : State) (m : BitVec 8) (p : Fin 64) (b : Fin 32) (gen : BitVec 16) : List (BitVec 8 × Fin 64 × BitVec 16) :=
  ((s.fab.hall.get [] b.val).filter fun e => !(e.1 == m && e.2.1 == p)) ++ [(m, p, gen)]

/-- The members that can be reached. -/
def hallReached (s : State) (m : BitVec 8) (p : Fin 64) (b : Fin 32) : List (BitVec 8 × Fin 64) :=
  (hallMembers s m p b).filter fun e => memberThere s e.1

/-- An arrival is of one of some members. -/
def arrivalOf (ms : List (BitVec 8 × Fin 64)) (g : BitVec 8 × Fin 64 × BitVec 16) : Bool := ms.any fun e => e.1 == g.1 && e.2 == g.2.1

/-- The delay of the link by which a module is reached. -/
def delayTo (s : State) (m : BitVec 8) : Nat :=
  match controlPort s m with
  | some q => linkDelay (portRec s q)
  | none => 0

theorem delayTo_eq (s : State) (m : BitVec 8) : delayTo s m = (controlPort s m).elim 0 fun q => linkDelay (portRec s q) := by
  unfold delayTo
  cases controlPort s m <;> rfl

/-- The launch of a release: the tide, the lead, the largest delay and 1 µs. -/
def hallLaunch (s : State) (m : BitVec 8) (p : Fin 64) (b : Fin 32) : Word :=
  let ms := hallReached s m p b
  let delay := (ms.map fun e => delayTo s e.1).foldl max 0
  moduleTide s + BitVec.ofNat 64 (16 * (hallLead s ms m p b + delay + 1000))

theorem hallLaunch_eq (s : State) (m : BitVec 8) (p : Fin 64) (b : Fin 32) : hallLaunch s m p b =
    moduleTide s + BitVec.ofNat 64 (16 * (hallLead s (hallReached s m p b) m p b +
      ((hallReached s m p b).map fun e => (controlPort s e.1).elim 0 fun q => linkDelay (portRec s q)).foldl max 0 + 1000)) := by
  simp only [hallLaunch, delayTo_eq]

/-- An arrival of the module itself counts once its tree is complete. -/
def hallReady (s : State) (m : BitVec 8) (p : Fin 64) (b : Fin 32) (gen : BitVec 16) : Bool :=
  !(some m == s.fab.num) ||
    (match rootOf s p b.val with | some r => r.hall && r.generation == gen && r.members.all r.got.contains | none => false)

theorem hallReady_iff : hallReady s m p b gen = true ↔ (some m = s.fab.num → TreeComplete s p b gen) := by
  unfold hallReady TreeComplete
  cases rootOf s p b.val with
  | none =>
    simp only [Bool.or_false, Bool.not_eq_true', beq_eq_false_iff_ne, ne_eq, reduceCtorEq, false_and, exists_false,
      imp_false]
  | some r =>
    simp only [Bool.or_eq_true, Bool.not_eq_true', beq_eq_false_iff_ne, ne_eq, Bool.and_eq_true, beq_iff_eq, List.all_eq_true,
      List.contains_iff_mem, and_assoc, Option.some.injEq, exists_eq_left', Decidable.imp_iff_not_or]

/-- Every member that can be reached has arrived. -/
abbrev AllArrived (s : State) (m : BitVec 8) (p : Fin 64) (b : Fin 32) (gen : BitVec 16) : Prop :=
  ∀ e ∈ hallReached s m p b, ∃ g ∈ hallGot s m p b gen, g.1 = e.1 ∧ g.2.1 = e.2

theorem exec_hallBarrierArrive (s : State) (m : BitVec 8) (p : Fin 64) (b : Fin 32) (gen : BitVec 16) :
    exec (.hallBarrierArrive m p b gen) s = .next (
      if (s.fab.role != .manager || !hallReady s m p b gen) = true then s
      else if (!(hallReached s m p b).all fun e => (hallGot s m p b gen).any fun g => g.1 == e.1 && g.2.1 == e.2) = true then
        { s with fab := { s.fab with hall := s.fab.hall.set [] b.val (hallGot s m p b gen) } }
      else ((hallGot s m p b gen).filter (arrivalOf (hallReached s m p b))).foldl (hallRelease b 0x00 (hallLaunch s m p b))
        { s with fab := { s.fab with
          hall := s.fab.hall.set [] b.val ((hallGot s m p b gen).filter fun g => !arrivalOf (hallReached s m p b) g) } }) := rfl

/-- An arrival at the manager: recorded, and the last one releases. -/
theorem exec_hallBarrierArrive_cases (s : State) (m : BitVec 8) (p : Fin 64) (b : Fin 32) (gen : BitVec 16) :
    let may : Prop := s.fab.role = .manager ∧ (some m = s.fab.num → TreeComplete s p b gen)
    (¬ may → exec (.hallBarrierArrive m p b gen) s = .next s) ∧
    (may → ¬ AllArrived s m p b gen → exec (.hallBarrierArrive m p b gen) s =
      .next { s with fab := { s.fab with hall := s.fab.hall.set [] b.val (hallGot s m p b gen) } }) ∧
    (may → AllArrived s m p b gen → exec (.hallBarrierArrive m p b gen) s =
      .next (((hallGot s m p b gen).filter (arrivalOf (hallReached s m p b))).foldl (hallRelease b 0x00 (hallLaunch s m p b))
        { s with fab := { s.fab with
          hall := s.fab.hall.set [] b.val ((hallGot s m p b gen).filter fun g => !arrivalOf (hallReached s m p b) g) } })) := by
  intro may
  have hmay : (s.fab.role != .manager || !hallReady s m p b gen) = true ↔ ¬ may := by
    simp only [may, ← hallReady_iff, Bool.or_eq_true, bne_iff_ne, Bool.not_eq_true', ← Bool.not_eq_true,
      Decidable.not_and_iff_not_or_not, ne_eq]
  have hall : (!(hallReached s m p b).all fun e => (hallGot s m p b gen).any fun g => g.1 == e.1 && g.2.1 == e.2) = true ↔
      ¬ AllArrived s m p b gen := by
    rw [Bool.not_eq_true', ← Bool.not_eq_true]
    simp only [AllArrived, List.all_eq_true, List.any_eq_true, Bool.and_eq_true, beq_iff_eq]
  rw [exec_hallBarrierArrive]
  refine ⟨fun hn => ?_, fun hy hn => ?_, fun hy ha => ?_⟩
  · rw [if_pos (hmay.2 hn)]
  · rw [if_neg (fun h => hmay.1 h hy), if_pos (hall.2 hn)]
  · rw [if_neg (fun h => hmay.1 h hy), if_neg (fun h => hall.1 h ha)]

theorem hallRelease_own (h : some m = s.fab.num) (st : Byte) (l : Word) :
    hallRelease b st l s (m, p, gen) = hallDeliver p b gen st l s := if_pos h

theorem hallRelease_far (h : some m ≠ s.fab.num) (st : Byte) (l : Word) :
    hallRelease b st l s (m, p, gen) = controlOut m 0x6 (leBytes 1 p.val ++ leBytes 1 b.val ++ leBytes 2 gen.toNat ++
      leBytes 1 m.toNat ++ leBytes 1 st.toNat ++ leBytes 4 (l.setWidth 32).toNat) s := if_neg h

end

/-- Settles O51: packets by form, destination and KIND; the chassis by role; hall barriers by who arrives. -/
theorem ocsalPacketsAndChassis : Obligations.OcsalPacketsAndChassis := by
  unfold Obligations.OcsalPacketsAndChassis
  refine ⟨⟨exec_ocsalPacketArrive_cases, fun s p => ?_, fun s p k q => ?_, fun s k => ?_⟩,
    ⟨fun s => ?_, fun s h hw => ?_, fun s h hw => exec_heartbeat_other hw h, fun s => ?_, fun s => tryTakeover_idle, fun s n l hn hl => ?_,
      fun s m v => ?_, fun s m yes => ?_, fun s p serial role => ?_, exec_assign⟩,
    fun s p b gen st l => rfl, fun s p b gen st l => ?_, fun s m p b gen => ?_, fun s b st l m p gen => ?_⟩
  · exact ⟨by rw [portRec_dropOcsal, if_pos rfl], fun q hq => by rw [portRec_dropOcsal, if_neg hq]⟩
  · exact ⟨remoteIn_badForm, fun hf => remoteIn_denied hf.1 hf.2, fun hf => remoteIn_noRouter hf.1 hf.2,
      fun w src hf => remoteIn_enters hf.1 hf.2⟩
  · exact ⟨remoteReply_unknown, fun id hid => ⟨fun ht => (remoteReply_pending hid ht).1, fun ht => (remoteReply_pending hid ht).2,
      fun ht => (remoteReply_ends hid ht).1, fun ht => (remoteReply_ends hid ht).2⟩⟩
  · rw [exec_heartbeat_send]
    exact ⟨fun hm => by rw [if_neg (not_not_intro hm)], fun hm => by rw [if_pos hm]⟩
  · rw [exec_heartbeat_worker hw]
    exact ⟨fun hk => congrArg _ (if_pos hk), fun hf hm => congrArg _ (if_neg (not_or.2 ⟨hf, hm⟩))⟩
  · rw [exec_heartbeatLoss]
    exact ⟨fun hn => by rw [if_neg hn], fun hy hr => by rw [if_pos hy, if_pos hr],
      fun hy hr hs => by rw [if_pos hy, if_neg hr, if_pos hs], fun hy hr hs => by rw [if_pos hy, if_neg hr, if_neg hs]⟩
  · intro vs yes
    refine ⟨tryTakeover_few hn hl, fun hlt => ?_⟩
    intro t
    have ht : t.fab = _ := (congrArg State.fab (tryTakeover_majority hn hl hlt)).trans (serveAfterLoss_fab n s)
    rw [ht]
    exact ⟨rfl, rfl, rfl, rfl, rfl, fun e he => mem_takeRecord (s := takeOrigin s) hn he⟩
  · rw [exec_poll]
    exact ⟨fun hy => by rw [if_pos hy], fun hn => by rw [if_neg]; rcases hn with h | h <;> simp [h]⟩
  · refine ⟨fun l hl hr hy hm => by rw [exec_pollRsp hl, if_pos ⟨hr, hy, hm⟩], fun h => ?_⟩
    cases hl : s.fab.poll with
    | none => exact exec_pollRsp_noPoll hl m yes
    | some l =>
      rw [exec_pollRsp hl, if_neg]
      rintro ⟨hr, hy, hm⟩
      simp [hl, hr, hy, hm] at h
  · exact ⟨exec_join_ignored role, fun n hm => exec_join_numbered role hm.1 hm.2⟩
  · refine ⟨fun hr => hallDeliver_noTree hr gen st l, fun r hr => ?_⟩
    rw [hallDeliver_tree hr]
    refine ⟨fun hn => if_neg ?_, fun hh hg => if_pos ⟨hh, hg⟩⟩
    rintro ⟨hh, hg⟩
    simp [hh, hg] at hn
  · have h := exec_hallBarrierArrive_cases s m p b gen
    rw [hallLaunch_eq] at h
    exact h
  · exact ⟨fun h => hallRelease_own h st l, fun h => hallRelease_far h st l⟩

end Sys2Proof.Machine
end

section
/-! PROOFS. NaN and zero: comparisons, minimum and maximum, and block encoding (spec/02_number_formats.md R38, R40, R49, R50). -/

namespace Sys2Proof.Machine
open Sys2Proof

/-! ### Comparisons (R49, R50) -/

@[simp] theorem cmpV_nan_left (v : Val) : cmpV .nan v = none := by cases v <;> rfl
@[simp] theorem cmpV_nan_right (v : Val) : cmpV v .nan = none := by cases v <;> rfl

/-- The two zeros compare equal. -/
@[simp] theorem cmpV_zero_zero (a b : Bool) : cmpV (.zero a) (.zero b) = some .eq := by simp [cmpV, Val.zero]

@[simp] theorem minmaxV_nan_left (mx : Bool) (v : Val) : minmaxV mx .nan v = .nan := by simp [minmaxV]
@[simp] theorem minmaxV_nan_right (mx : Bool) (v : Val) : minmaxV mx v .nan = .nan := by simp [minmaxV]

theorem minmaxV_zero_zero (mx a b : Bool) :
    minmaxV mx (.zero a) (.zero b) = .zero (if mx then a && b else a || b) := by
  simp only [minmaxV, cmpV_zero_zero]
  cases mx <;> cases a <;> cases b <;> rfl

theorem condV_unordered {a b : Val} (h : cmpV a b = none) (c : Nat) : condV c a b = true ↔ c = 3 := by simp [condV, h]

theorem condV_eq_zero_zero (a b : Bool) : condV 2 (.zero a) (.zero b) = true := by simp [condV]

theorem addV_zero_opposite (a : Bool) : (addV (.zero a) (.zero !a)).v = .zero false := by cases a <;> rfl

/-! ### NaN blocks and blocks of zeros (R35, R38, R40) -/

theorem encodeBlock_nan (b : BFmt) (sat : Bool) (draws : Option (List Nat)) {xs : List Val} (h : ∃ v ∈ xs, v = .nan) :
    encodeBlock b sat draws xs = ⟨0xFF, 0, xs.map fun _ => 0, 0, 0⟩ := by
  obtain ⟨v, hv, rfl⟩ := h
  exact if_pos (List.any_eq_true.2 ⟨.nan, hv, rfl⟩)

/-- The low byte of a block's number is its scale code (R34). -/
theorem fld_blockNat_scale (b : BFmt) (r : BlockRes) (h : r.scale < 256) : fld (b.blockNat r) 0 8 = r.scale := by
  simp only [fld, BFmt.blockNat, BFmt.hdr]
  cases b.cascade <;> simp <;> omega

/-- The scale code 0xFF makes every element NaN (R35). -/
theorem decodeBlock_nan (b : BFmt) {n : Nat} (h : fld n 0 8 = 0xFF) : b.decodeBlock n = List.replicate 32 .nan := by
  simp only [BFmt.decodeBlock, BFmt.elemVal, h, if_true, List.map_const', List.length_range]

theorem maxMagV_zeros (signs : List Bool) : maxMagV (signs.map Val.zero) = .zero false := by
  have hstep (b : Bool) : minmaxV true (.zero false) (Val.zero b).abs = .zero false := minmaxV_zero_zero true false false
  unfold maxMagV
  induction signs with
  | nil => rfl
  | cons b l ih => rw [List.map_cons, List.foldl_cons, hstep, ih]

theorem encodeBlock_zeros (b : BFmt) (sat : Bool) (draws : Option (List Nat)) (signs : List Bool) :
    encodeBlock b sat draws (signs.map Val.zero) = ⟨0, 0, signs.map b.elem.zeroCode, 0, 0⟩ := by
  have hnan : (signs.map Val.zero).any (·.isNan) = false := by simp [Val.zero, Val.isNan]
  have hinf : (signs.map Val.zero).any (·.isInf) = false := by simp [Val.zero, Val.isInf]
  have hcodes : (signs.map Val.zero).map (fun x => b.elem.zeroCode x.neg) = signs.map b.elem.zeroCode := by
    simp [Val.zero, Val.neg]
  simp only [encodeBlock, hnan, hinf, maxMagV_zeros, hcodes]
  rfl

/-- Settles O10: operations by the operands' comparison, blocks by the branch of `encodeBlock` that their values take. -/
theorem nanAndZeroRules : Obligations.NanAndZeroRules := by
  unfold Obligations.NanAndZeroRules
  refine ⟨⟨fun mx v => ⟨minmaxV_nan_left mx v, minmaxV_nan_right mx v⟩,
    fun a b => ⟨minmaxV_zero_zero false a b, minmaxV_zero_zero true a b⟩,
    fun c v _ => ⟨condV_unordered (cmpV_nan_left v) c, condV_unordered (cmpV_nan_right v) c⟩,
    condV_eq_zero_zero, addV_zero_opposite⟩, fun b sat draws xs h => ?_, encodeBlock_zeros⟩
  have henc := encodeBlock_nan b sat draws h
  exact ⟨henc, decodeBlock_nan b (by rw [henc]; exact fld_blockNat_scale b _ (show 0xFF < 256 by decide))⟩

end Sys2Proof.Machine
end

section
/-! PROOFS. NaN reports and the NaN record (spec/02_number_formats.md R58-R61). -/

namespace Sys2Proof.Machine
open Sys2Proof

section
variable {s : State} {i : Nat} {r : NanReport}

/-- The state after a NaN report has left the queue, and the state in which it also counts in its partition (R60). -/
def nanUnqueued (i : Nat) (s : State) : State := { s with num := { s.num with nans := s.num.nans.eraseIdx i } }
def nanCounted (r : NanReport) (u : State) : State :=
  counterWrap (numAddr 0x20) (some r.part) (numBlock u r.part).nanCount r.n
    (setNum r.part { numBlock u r.part with nanCount := (numBlock u r.part).nanCount + BitVec.ofNat 64 r.n } u)

/-- The report becomes its partition's NaN record, and NAN_TRAP is posted (R59, R61). -/
def nanRecorded (r : NanReport) (trapped : Bool) (t : State) : State :=
  let z : NanRecord := ⟨r.unit, r.source, r.format, r.cause, trapped, true, r.location, r.tide⟩
  postEvent .nanTrap r.unit (some r.part) r.tide (leBytes 4 (nanWord z / 2 ^ 32) ++ leBytes 8 r.location.toNat)
    (setNum r.part { numBlock t r.part with nan := z } t)

theorem exec_nanReport_absent (h : s.num.nans[i]? = none) : exec (.nanReportArrive i) s = .next s := by
  show execNanReportArrive i s = _
  simp only [execNanReportArrive, h]

theorem exec_nanReport_noPartition (h : s.num.nans[i]? = some r) (hp : partOf (nanUnqueued i s) r.part = none) :
    exec (.nanReportArrive i) s = .next (nanUnqueued i s) := by
  show execNanReportArrive i s = _
  simp only [execNanReportArrive, h]
  exact congrArg _ (if_pos (Option.isNone_iff_eq_none.2 hp))

/-- A report of a partition counts in it; beyond that it does what the record held and NAN_TRAP say. -/
theorem exec_nanReport_counts (h : s.num.nans[i]? = some r) (hp : partOf (nanUnqueued i s) r.part ≠ none) :
    exec (.nanReportArrive i) s = .next (
      if (numBlock (nanUnqueued i s) r.part).nan.valid then nanCounted r (nanUnqueued i s)
      else
        let t := if (numBlock (nanUnqueued i s) r.part).nanTrap then nanTraps r (nanCounted r (nanUnqueued i s))
          else (false, nanCounted r (nanUnqueued i s))
        nanRecorded r t.1 t.2) := by
  show execNanReportArrive i s = _
  simp only [execNanReportArrive, h]
  exact congrArg _ (if_neg (mt Option.isNone_iff_eq_none.1 hp))

theorem exec_nanReport_held (h : s.num.nans[i]? = some r) (hp : partOf (nanUnqueued i s) r.part ≠ none)
    (hv : (numBlock (nanUnqueued i s) r.part).nan.valid = true) :
    exec (.nanReportArrive i) s = .next (nanCounted r (nanUnqueued i s)) := by
  rw [exec_nanReport_counts h hp, if_pos hv]

theorem exec_nanReport_untrapped (h : s.num.nans[i]? = some r) (hp : partOf (nanUnqueued i s) r.part ≠ none)
    (hv : (numBlock (nanUnqueued i s) r.part).nan.valid = false) (ht : (numBlock (nanUnqueued i s) r.part).nanTrap = false) :
    exec (.nanReportArrive i) s = .next (nanRecorded r false (nanCounted r (nanUnqueued i s))) := by
  rw [exec_nanReport_counts h hp, if_neg (Bool.eq_false_iff.1 hv), if_neg (Bool.eq_false_iff.1 ht)]

theorem exec_nanReport_trapping (h : s.num.nans[i]? = some r) (hp : partOf (nanUnqueued i s) r.part ≠ none)
    (hv : (numBlock (nanUnqueued i s) r.part).nan.valid = false) (ht : (numBlock (nanUnqueued i s) r.part).nanTrap = true)
    {trapped : Bool} {t : State} (hz : nanTraps r (nanCounted r (nanUnqueued i s)) = (trapped, t)) :
    exec (.nanReportArrive i) s = .next (nanRecorded r trapped t) := by
  rw [exec_nanReport_counts h hp, if_neg (Bool.eq_false_iff.1 hv), if_pos ht, hz]

/-- A context that is IDLE or has stopped with a trap takes no NaN trap (R61, R171). -/
abbrev pastTraps (s : State) (x : CtxId) : Prop :=
  (ctxRec s x).state = .idle ∨ ((ctxRec s x).state = .stopped ∧ (ctxRec s x).trapped = true)

theorem nanTraps_pastCtx {x : CtxId} (hw : r.who = .ctx x) (hg : pastTraps s x) : nanTraps r s = (false, s) := by
  simp only [nanTraps, hw]
  exact if_pos hg

theorem nanTraps_ctx {x : CtxId} (hw : r.who = .ctx x) (hg : ¬ pastTraps s x) :
    nanTraps r s = (true, takeTrap x 0x06 0x00 r.format (r.location.setWidth 48) 0 (ctxRec s x).pc s) := by
  simp only [nanTraps, hw]
  exact if_neg hg

theorem nanTraps_tile {t : TileId} (hw : r.who = .tile t) (hl : arrLive s t.c = true) (hm : madeByActive r s t.c = true) :
    nanTraps r s = (true, freezeArr t.c 2 s) := by
  simp [nanTraps, hw, hl, hm]

theorem nanTraps_pastTile {t : TileId} (hw : r.who = .tile t) (h : arrLive s t.c = false ∨ madeByActive r s t.c = false) :
    nanTraps r s = (false, s) := by
  rcases h with h | h <;> simp [nanTraps, hw, h]

theorem nanTraps_basin {c : Cl} (hw : r.who = .basin c) : nanTraps r s = (false, s) := by simp [nanTraps, hw]

end

/-- Settles O59: by the record held and NAN_TRAP, then by what `nanTraps` makes of the reporting unit. -/
theorem nanReports : Obligations.NanReports := by
  unfold Obligations.NanReports
  refine ⟨fun s i r h => ?_, fun s i => exec_nanReport_absent⟩
  refine ⟨exec_nanReport_noPartition h, fun a ha => ?_⟩
  have hp : partOf (nanUnqueued i s) r.part ≠ none := fun hn => Option.some_ne_none a (ha.symm.trans hn)
  refine ⟨exec_nanReport_held h hp, exec_nanReport_untrapped h hp, fun x hv ht hw => ?_, fun t hv ht hw => ?_, fun c hv ht hw => ?_⟩
  · exact ⟨fun hg => exec_nanReport_trapping h hp hv ht (nanTraps_pastCtx hw hg),
      fun hg => exec_nanReport_trapping h hp hv ht (nanTraps_ctx hw hg)⟩
  · exact ⟨fun hl hm => exec_nanReport_trapping h hp hv ht (nanTraps_tile hw hl hm),
      fun hno => exec_nanReport_trapping h hp hv ht (nanTraps_pastTile hw hno)⟩
  · exact exec_nanReport_trapping h hp hv ht (nanTraps_basin hw)

end Sys2Proof.Machine
end

section
/-! PROOFS. NUM_SET, NAN_CLEAR and FENCE_UNIT (spec/02_number_formats.md R59, 05_training_numerics.md R135, R136, R156,
19_faults.md R482). -/

namespace Sys2Proof.Machine
open Sys2Proof

section
variable {s : State} {k : CmdKey} {c : Cmd} {p : Fin 64} {r : PartRec}

/-! ### The partition's numerics settings -/

/-- Bits [63:0] of the fields that NUM_SET gives. -/
def numFlags (c : Cmd) : Nat := cmdD c.raw 4 + cmdD c.raw 5 * 2 ^ 32

/-- The block with the settings that bit 0 selects, the seed base that bit 1 does, and the underflow step that bit 2 does. -/
def numSettings (c : Cmd) (b : NumBlock) : NumBlock :=
  let d := bit (cmdD c.raw 2) 0
  let v := numFlags c
  { b with nanTrap := if d then bit v 0 else b.nanTrap, repeatMax := if d then Fin.ofNat 8 (fld v 1 3) else b.repeatMax
           seedMode := if d then bit v 4 else b.seedMode, coreSentinel := if d then bit v 5 else b.coreSentinel }
def numSeedSet (c : Cmd) (b : NumBlock) : NumBlock :=
  { b with seedSet := if bit (cmdD c.raw 2) 1 then some (BitVec.ofNat 64 (cmdD c.raw 6 + cmdD c.raw 7 * 2 ^ 32)) else b.seedSet }
def numStepSet (c : Cmd) (b : NumBlock) : NumBlock :=
  { b with underflowStep :=
      if bit (cmdD c.raw 2) 2 then BitVec.ofNat 64 (cmdD c.raw 8 + cmdD c.raw 9 * 2 ^ 32) else b.underflowStep }

/-- While SEED_MODE is 1 the seed base is the one set (R156). -/
def numSeeded (b : NumBlock) : NumBlock := { b with seedBase := if b.seedMode then b.seedSet.getD b.seedBase else b.seedBase }

theorem numSettings_eq (b : NumBlock) : numSettings c b =
    if bit (cmdD c.raw 2) 0 then { b with nanTrap := bit (numFlags c) 0, repeatMax := Fin.ofNat 8 (fld (numFlags c) 1 3)
                                          seedMode := bit (numFlags c) 4, coreSentinel := bit (numFlags c) 5 } else b := by
  unfold numSettings
  cases bit (cmdD c.raw 2) 0 <;> rfl

theorem numSeedSet_eq (b : NumBlock) : numSeedSet c b =
    if bit (cmdD c.raw 2) 1 then { b with seedSet := some (BitVec.ofNat 64 (cmdD c.raw 6 + cmdD c.raw 7 * 2 ^ 32)) } else b := by
  unfold numSeedSet
  cases bit (cmdD c.raw 2) 1 <;> rfl

theorem numStepSet_eq (b : NumBlock) : numStepSet c b =
    if bit (cmdD c.raw 2) 2 then { b with underflowStep := BitVec.ofNat 64 (cmdD c.raw 8 + cmdD c.raw 9 * 2 ^ 32) } else b := by
  unfold numStepSet
  cases bit (cmdD c.raw 2) 2 <;> rfl

theorem numSeeded_eq (b : NumBlock) :
    numSeeded b = if b.seedMode then { b with seedBase := b.seedSet.getD b.seedBase } else b := by
  unfold numSeeded
  split <;> rfl

theorem exec_numSet_reserved (h : RunsIn s k 0x0A02 c p r) (hv : fld (numFlags c) 6 58 ≠ 0) :
    exec (.numSet k) s = .next (complete k 0x03 [] s) := by
  obtain ⟨hrun, htarget, hpart⟩ := h
  show execNumSet k s = _
  rw [execNumSet, runCmd_any hrun, withPart_some htarget hpart]
  exact congrArg _ (if_pos hv)

theorem exec_numSet (h : RunsIn s k 0x0A02 c p r) (hv : fld (numFlags c) 6 58 = 0) : exec (.numSet k) s =
    .next (complete k 0x00 [] (setNum p (numSeeded (numStepSet c (numSeedSet c (numSettings c (numBlock s p))))) s)) := by
  obtain ⟨hrun, htarget, hpart⟩ := h
  show execNumSet k s = _
  rw [execNumSet, runCmd_any hrun, withPart_some htarget hpart, numSeeded_eq, numStepSet_eq, numSeedSet_eq, numSettings_eq]
  exact congrArg _ (if_neg (not_not_intro hv))

theorem exec_nanClear (h : RunsIn s k 0x0A03 c p r) : exec (.nanClear k) s =
    .next (complete k 0x00 [] (setNum p { numBlock s p with nan := { (numBlock s p).nan with valid := false } } s)) := by
  obtain ⟨hrun, htarget, hpart⟩ := h
  show execNanClear k s = _
  rw [execNanClear, runCmd_any hrun, withPart_some htarget hpart]

/-! ### Fencing by command -/

/-- What FENCE_UNIT answers for a unit of cluster `x`: a wellhead's are not fenced by command, others give `t` (R482). -/
def fenceAt (k : CmdKey) (x : Cl) (t s : State) : State := if isWellhead s x then complete k 0x04 [] s else complete k 0x00 [] t

/-- FENCE_UNIT by the unit that the identifier names. -/
def fenceNamed (k : CmdKey) (s : State) : Option FenceTarget → State
  | none => complete k 0x03 [] s
  | some (.core x i) => fenceAt k x (fenceCore x i 2 s) s
  | some (.tile t) => fenceAt k t.c (fenceTile t 2 s) s
  | some (.cluster x) => fenceAt k x (fenceCluster x 2 s) s
  | some (.stack n) => complete k 0x00 [] (fenceStack n 2 s)
  | some (.lane w x l) => complete k 0x00 [] (laneFail w x l.val 2 2 s)
  | some (.port p) => complete k 0x00 [] (fencePort p 2 s)

theorem exec_fenceUnit (h : Runs s k 0x0B02 c) : exec (.fenceUnit k) s = .next (fenceNamed k s (fenceTarget (cmdD c.raw 2))) := by
  show execFenceUnit k s = _
  rw [execFenceUnit, runCmd_any h]
  refine congrArg _ ?_
  cases fenceTarget (cmdD c.raw 2) with
  | none => rfl
  | some u => cases u <;> rfl

theorem fenceAt_cases {x : Cl} {t : State} {o : Host.Outcome State Fault Refusal} (h : o = .next (fenceAt k x t s)) :
    (isWellhead s x = false → o = .next (complete k 0x00 [] t)) ∧ (isWellhead s x = true → o = .next (complete k 0x04 [] s)) :=
  ⟨fun hw => by rw [h, fenceAt, if_neg (Bool.eq_false_iff.1 hw)], fun hw => by rw [h, fenceAt, if_pos hw]⟩

end

/-- Settles O48: settings by the bits that select them, fencing by the unit named. -/
theorem numericsAndFencing : Obligations.NumericsAndFencing := by
  unfold Obligations.NumericsAndFencing
  refine ⟨fun s k c p r _ h => ⟨exec_numSet_reserved h, exec_numSet h⟩, fun s k c p r _ h => exec_nanClear h, fun s k c _ h => ?_⟩
  have hu {u : Option FenceTarget} (e : fenceTarget (cmdD c.raw 2) = u) : exec (.fenceUnit k) s = .next (fenceNamed k s u) := by
    rw [← e]; exact exec_fenceUnit h
  exact ⟨hu, fun x i e => fenceAt_cases (hu e), fun t e => fenceAt_cases (hu e), fun x e => fenceAt_cases (hu e),
    fun n e => hu e, fun w x l e => hu e, fun p e => hu e⟩

end Sys2Proof.Machine
end

section
/-! PROOFS. Multiplier tiles (spec/02_number_formats.md R51-R54, 04_array_tiles.md R101-R105). -/

namespace Sys2Proof.Machine
open Sys2Proof

section
variable {s : State} {t : TileId}

/-! ### Chunk tokens (R98, R102) -/

/-- The tile may take a chunk token: it runs, its shadow chunk is not full, and a chunk that stays is not loaded again. -/
abbrev chunkDue (s : State) (t : TileId) : Prop :=
  tileRuns s t 1 = true ∧ (mulOf s t).shadow.elems.length < 2 * fld (body (ctxOf s t)) 16 4 ∧
    (bit (body (ctxOf s t)) 46 = false ∨ (mulOf s t).cur = none)

/-- The record that has the shadow chunk `sh`: the chunk in use where there is none and it is full. -/
def withShadow (rows : Nat) (sh : Chunk) (r : MulRec) : MulRec :=
  if sh.elems.length = 2 * rows ∧ r.cur.isNone then { r with cur := some sh, shadow := {} } else { r with shadow := sh }

/-- The chunk with one more token. -/
def Chunk.withHdr (ch : Chunk) (k : Token) : Chunk := { ch with hdrs := ch.hdrs ++ [k.payload] }
def Chunk.withElems (ch : Chunk) (k : Token) : Chunk := { ch with elems := ch.elems ++ [k.payload] }

theorem exec_mulChunkLoad_idle (h : ¬ chunkDue s t ∨ operand s t 2 = none) : exec (.mulChunkLoad t) s = .next s := by
  show execMulChunkLoad t s = _
  unfold execMulChunkLoad
  refine congrArg _ ?_
  dsimp only
  split
  · next hdue =>
    have hdue : chunkDue s t := by simpa using hdue
    rw [h.resolve_left (not_not_intro hdue)]
  · rfl

theorem exec_mulChunkLoad {k : Token} (h : chunkDue s t) (hk : operand s t 2 = some k) :
    exec (.mulChunkLoad t) s = .next (setMul t (withShadow (fld (body (ctxOf s t)) 16 4)
      (if chunkWantsHdr (fld (body (ctxOf s t)) 0 5) (mulOf s t).shadow then (mulOf s t).shadow.withHdr k
        else (mulOf s t).shadow.withElems k) (mulOf s t)) (takeOperand t 2 s)) := by
  show execMulChunkLoad t s = _
  unfold execMulChunkLoad
  refine congrArg _ ((if_pos (by simpa using h)).trans ?_)
  simp only [hk]
  exact (apply_ite (fun r => setMul t r (takeOperand t 2 s)) _ _ _).symm

theorem withShadow_notFull {rows : Nat} {sh : Chunk} {r : MulRec} (h : sh.elems.length ≠ 2 * rows ∨ r.cur ≠ none) :
    withShadow rows sh r = { r with shadow := sh } := by
  refine if_neg ?_
  rintro ⟨hlen, hcur⟩
  exact h.elim (· hlen) (· (Option.isNone_iff_eq_none.1 hcur))

theorem withShadow_full {rows : Nat} {sh : Chunk} {r : MulRec} (h : sh.elems.length = 2 * rows) (hc : r.cur = none) :
    withShadow rows sh r = { r with cur := some sh, shadow := {} } := if_pos ⟨h, by rw [hc]; rfl⟩

/-! ### Issues (R101, R104, R105) -/

/-- The tile may issue: it runs, and the row is not still draining at the start of a job. -/
abbrev issueDue (s : State) (t : TileId) : Prop :=
  tileRuns s t 1 = true ∧ ¬ ((mulOf s t).pass = 0 ∧ ∃ d ∈ (mulOf s t).drains, d.m = (mulOf s t).row)

theorem drains_any_row (r : MulRec) :
    (r.drains.any fun d => d.m == r.row && r.pass == 0) = true ↔ r.pass = 0 ∧ ∃ d ∈ r.drains, d.m = r.row := by
  simp only [List.any_eq_true, Bool.and_eq_true, beq_iff_eq]
  exact ⟨fun ⟨d, hd, hm, hp⟩ => ⟨hp, d, hd, hm⟩, fun ⟨hp, d, hd, hm⟩ => ⟨d, hd, hm, hp⟩⟩

theorem issueDue_iff :
    (tileRuns s t 1 = true ∧ (!(mulOf s t).drains.any fun d => d.m == (mulOf s t).row && (mulOf s t).pass == 0) = true) ↔
      issueDue s t := by
  rw [Bool.not_eq_true', Bool.eq_false_iff, ne_eq, drains_any_row]

theorem exec_mulIssue_idle (h : (mulOf s t).cur = none ∨ ¬ issueDue s t) : exec (.mulIssue t) s = .next s := by
  show execMulIssue t s = _
  unfold execMulIssue
  refine congrArg _ ?_
  dsimp only
  split
  · rfl
  · next ch hc =>
    exact if_neg (mt issueDue_iff.1 (h.resolve_left (by rw [hc]; simp)))

/-- What an issue cycle does once its tokens are taken: `v` is the state with them. -/
def mulIssued (t : TileId) (b : Nat) (ch : Chunk) (v : State) : State :=
  if mulHasA (fld b 0 5) (mulOf v t) then
    match mulInit t b v with
    | none => v
    | some u =>
      let w := rampIssue t u
      let q := mulOf w t
      let dots := if predOk (fld b 42 2) q.aPred then mulDots (fld b 0 5) (fld b 16 4) ch q else []
      touch t.c (setMul t (mulAdvance (fld b 0 5) b { q with flying := q.flying ++ dots, issues := q.issues + 1 }) w)
  else v

theorem exec_mulIssue {ch : Chunk} (hc : (mulOf s t).cur = some ch) (h : issueDue s t) : exec (.mulIssue t) s =
    .next (mulIssued t (body (ctxOf s t)) ch (mulTakeA t (fld (body (ctxOf s t)) 0 5) s)) := by
  show execMulIssue t s = _
  unfold execMulIssue
  simp only [hc]
  exact congrArg _ (if_pos (issueDue_iff.2 h))

theorem mulIssued_waits {b : Nat} {ch : Chunk} {v : State} (h : mulHasA (fld b 0 5) (mulOf v t) = false ∨ mulInit t b v = none) :
    mulIssued t b ch v = v := by
  unfold mulIssued
  split
  · next ha => rw [h.resolve_left (by rw [ha]; simp)]
  · rfl

theorem mulIssued_issues {b : Nat} {ch : Chunk} {v u : State} (ha : mulHasA (fld b 0 5) (mulOf v t) = true) (hi : mulInit t b v = some u) :
    mulIssued t b ch v =
      let w := rampIssue t u
      let q := mulOf w t
      let dots := if predOk (fld b 42 2) q.aPred then mulDots (fld b 0 5) (fld b 16 4) ch q else []
      touch t.c (setMul t (mulAdvance (fld b 0 5) b { q with flying := q.flying ++ dots, issues := q.issues + 1 }) w) := by
  unfold mulIssued
  rw [if_pos ha, hi]

/-! ### Accumulations and drains (R51-R54, R101, R103) -/

theorem exec_mulAccumulate_idle (h : tileRuns s t 1 = false ∨ (mulOf s t).flying = []) : exec (.mulAccumulate t) s = .next s := by
  show execMulAccumulate t s = _
  unfold execMulAccumulate
  refine congrArg _ ?_
  dsimp only
  split
  · next x rest hf => exact if_neg (Bool.eq_false_iff.1 (h.resolve_right (by rw [hf]; simp)))
  · rfl

/-- An accumulator's value with a dot product added exactly: a NaN that the dot product produced wins over a number (R54, R58). -/
def accSum (old : Val) (dot : Exact) : Exact := if dot.cause ≠ 0 ∧ old.isNan = false then dot else addV old dot.v

theorem exec_mulAccumulate {x : Flying} {rest : List Flying} (h : tileRuns s t 1 = true) (hf : (mulOf s t).flying = x :: rest) :
    exec (.mulAccumulate t) s = .next (
      let b := body (ctxOf s t)
      let f := accFmt (fld b 0 5)
      let k := x.n * 64 + x.m
      let res := (accSum (f.decode ((mulOf s t).acc.get 0 k).toNat) x.dot).finish f (bit b 44)
      tileReport t 2 0 (fld b 0 5) (bit b 45) [res] (setMul t { mulOf s t with
        acc := (mulOf s t).acc.set 0 k (BitVec.ofNat 32 res.code), flying := rest
        satEvents := satAdd32 (mulOf s t).satEvents (b2n res.ovf) } s)) := by
  show execMulAccumulate t s = _
  unfold execMulAccumulate
  simp only [hf, if_pos h, accSum, Bool.not_eq_true']

/-- The oldest row to drain may leave: the tile runs, its result stage is free and none of its dots is on its way. -/
abbrev drainDue (s : State) (t : TileId) (d : Drain) : Prop :=
  tileRuns s t 1 = true ∧ stageFree s t 0 = true ∧ ∀ x ∈ (mulOf s t).flying, x.m ≠ d.m

theorem exec_mulRowDrain_idle (h : ∀ d rest, (mulOf s t).drains = d :: rest → ¬ drainDue s t d) :
    exec (.mulRowDrain t) s = .next s := by
  show execMulRowDrain t s = _
  unfold execMulRowDrain
  refine congrArg _ ?_
  dsimp only
  split
  · next d rest hd => exact if_neg fun hdue => h d rest hd (by simpa using hdue)
  · rfl

theorem exec_mulRowDrain {d : Drain} {rest : List Drain} (hd : (mulOf s t).drains = d :: rest) (h : drainDue s t d) :
    exec (.mulRowDrain t) s = .next (
      let lanes := (List.range 8).map fun n => ((mulOf s t).acc.get 0 (n * 64 + d.m)).toNat
      emit t 0 [⟨BitVec.ofNat 256 (pack 32 lanes), true, d.last, d.pred, (tileOf s t).epoch⟩]
        (setMul t { mulOf s t with acc := accFrom (mulOf s t).acc d.m 0, drains := rest, drainRow := if d.last then 0 else d.m + 1 } s)) := by
  show execMulRowDrain t s = _
  unfold execMulRowDrain
  simp only [hd]
  exact congrArg _ (if_pos (by simpa using h))

end

/-- Settles O56: each instruction by whether it is due, then by the branch of its effect. -/
theorem multiplierTiles : Obligations.MultiplierTiles := by
  unfold Obligations.MultiplierTiles
  refine ⟨fun s t => ⟨exec_mulChunkLoad_idle, fun k h hk => ?_⟩, fun s t => ⟨exec_mulIssue_idle, fun ch hc h => ?_⟩,
    fun s t => exec_mulAccumulate_idle, fun s t x rest => exec_mulAccumulate, fun s t => ⟨fun h => ?_, fun d rest ht hd => ?_⟩⟩
  · have hload := exec_mulChunkLoad h hk
    obtain ⟨_, hroom, _⟩ := h
    refine ⟨fun hw => ?_, fun hw => ⟨fun hl hc => ?_, fun hn => ?_⟩⟩
    · rw [hload, if_pos hw, withShadow_notFull (sh := (mulOf s t).shadow.withHdr k) (.inl (Nat.ne_of_lt hroom))]; rfl
    · rw [hload, if_neg (Bool.eq_false_iff.1 hw), withShadow_full (sh := (mulOf s t).shadow.withElems k) hl hc]; rfl
    · rw [hload, if_neg (Bool.eq_false_iff.1 hw), withShadow_notFull (sh := (mulOf s t).shadow.withElems k) hn]; rfl
  · have hissue := exec_mulIssue hc h
    exact ⟨fun hno => by rw [hissue, mulIssued_waits hno], fun u ha hi => by rw [hissue, mulIssued_issues ha hi]⟩
  · refine exec_mulRowDrain_idle fun d rest hd hdue => ?_
    simp [hd, hdue.1] at h
  · refine ⟨fun hno => exec_mulRowDrain_idle fun d' rest' hd' hdue => ?_, fun hm => exec_mulRowDrain hd ⟨ht, hm⟩⟩
    obtain ⟨rfl, rfl⟩ := List.cons.inj (hd.symm.trans hd')
    exact hno hdue.2

end Sys2Proof.Machine
end

section
/-! PROOFS. Special-function tiles (spec/02_number_formats.md R64, 03_spatial_array.md R88, 04_array_tiles.md R98, R108-R118,
05_training_numerics.md R137, R139). -/

namespace Sys2Proof.Machine
open Sys2Proof

section
variable {s : State} {t : TileId} {k st : Token}

/-- The tile runs in the mode with both result stages free. -/
abbrev sfDue (s : State) (t : TileId) (mode : Nat) : Prop :=
  tileRuns s t 2 = true ∧ fld (body (ctxOf s t)) 0 3 = mode ∧ sfStages s t = true

/-- What stands for a token that no operand port gives. -/
def zeroToken : Token := ⟨0, true, false, false, 0⟩

/-! ### Elementwise tiles (R88, R108, R111) -/

/-- The operand ports that the chain names have a token: port 2 for B, port 3 for C. -/
abbrev chainFed (s : State) (t : TileId) : Prop :=
  (chainNames (ctxOf s t) 1 = true → (operand s t 2).isSome = true) ∧ (chainNames (ctxOf s t) 2 = true → (operand s t 3).isSome = true)

theorem chainFed_iff : chainFed s t ↔ ¬ ((chainNames (ctxOf s t) 1 = true ∧ (operand s t 2).isNone = true) ∨
    (chainNames (ctxOf s t) 2 = true ∧ (operand s t 3).isNone = true)) := by
  simp only [chainFed, not_or, not_and, Bool.not_eq_true, Option.isNone_eq_false_iff]

/-- Operand A's token and those of the ports that the chain names are taken. -/
def chainTake (t : TileId) (n : Nat) (s : State) : State :=
  let u := takeOperand t 1 s
  let u := if chainNames n 1 then takeOperand t 2 u else u
  if chainNames n 2 then takeOperand t 3 u else u

/-- What an elementwise tile has of a token before its output stage: SELECT's choice by A's PRED, or the chain's end. -/
def elementwiseSt (t : TileId) (n : Nat) (a b c : Token) (u : State) : ChainSt :=
  let f := fld (body n) 3 5
  if fld (chainEntry (body n) 0) 0 5 = 0x18 then ⟨if a.pred then lanes f a else lanes f b, if a.pred then a.pred else b.pred, u⟩
  else (List.range (fld (body n) 16 4)).foldl (chainStep t n (lanes f a) (lanes f b) (lanes f c)) ⟨lanes f a, a.pred, u⟩

/-- The rest of a data token's way: its elements are counted, in the histogram too, and it leaves (R108, R116). -/
def elementwiseOut (t : TileId) (n : Nat) (a : Token) (st : ChainSt) : State :=
  let va := lanes (fld (body n) 3 5) a
  sfOutput t n st.vals a.last st.pred (histToken t n va st.vals a.last a.pred st.pred (sfElems t va.length st.s))

theorem exec_sfElementwise_idle (h : ¬ sfDue s t 0 ∨ operand s t 1 = none ∨ ¬ chainFed s t) :
    exec (.sfElementwise t) s = .next s := by
  show execSfElementwise t s = _
  unfold execSfElementwise
  refine congrArg _ ?_
  dsimp only
  split
  · next hdue =>
    split
    · rfl
    · next ta hta =>
      have hfed : ¬ chainFed s t := (h.resolve_left (not_not_intro hdue)).resolve_left (by rw [hta]; simp)
      exact if_pos (Classical.not_not.1 (mt chainFed_iff.2 hfed))
  · rfl

theorem exec_sfElementwise {a : Token} (h : sfDue s t 0) (hfed : chainFed s t) (ha : operand s t 1 = some a) :
    exec (.sfElementwise t) s = .next (elementwiseOut t (ctxOf s t) a (elementwiseSt t (ctxOf s t) a
      ((operand s t 2).getD zeroToken) ((operand s t 3).getD zeroToken) (chainTake t (ctxOf s t) s))) := by
  show execSfElementwise t s = _
  unfold execSfElementwise
  refine congrArg _ ((if_pos h).trans ?_)
  simp only [ha]
  exact if_neg (chainFed_iff.1 hfed)

theorem chainStep_pred {n i : Nat} (h : fld (chainEntry (body n) i) 0 5 ≠ 0x17) (a b c : List Val) (st : ChainSt) :
    (chainStep t n a b c st i).pred = st.pred := by
  unfold chainStep
  exact if_neg h

/-! ### Row-apply tiles (R64, R114) -/

theorem exec_sfRowApply_off (h : ¬ sfDue s t 2) : exec (.sfRowApply t) s = .next s := by
  show execSfRowApply t s = _
  exact congrArg _ (if_neg h)

theorem exec_sfRowApply_noStats (h : sfDue s t 2) (hr : (sfOf s t).rowTok = none) (ho : operand s t 1 = none) :
    exec (.sfRowApply t) s = .next s := by
  show execSfRowApply t s = _
  unfold execSfRowApply
  simp only [if_pos h, hr, ho]

theorem exec_sfRowApply_stats (h : sfDue s t 2) (hr : (sfOf s t).rowTok = none) (ho : operand s t 1 = some k) :
    exec (.sfRowApply t) s =
      .next (setSf t { sfOf s t with rowTok := some k, rowElems := 0, rowTokens := 0 } (takeOperand t 1 s)) := by
  show execSfRowApply t s = _
  unfold execSfRowApply
  simp only [if_pos h, hr, ho]

theorem exec_sfRowApply_waits (h : sfDue s t 2) (hr : (sfOf s t).rowTok = some st)
    (ho : operand s t 2 = none ∨ (chainNames (ctxOf s t) 2 = true ∧ operand s t 3 = none)) :
    exec (.sfRowApply t) s = .next s := by
  show execSfRowApply t s = _
  unfold execSfRowApply
  simp only [if_pos h, hr]
  refine congrArg _ ?_
  split
  · rfl
  · next k hk =>
    obtain ⟨hc, h3⟩ := ho.resolve_left (by rw [hk]; simp)
    exact if_pos ⟨hc, by rw [h3]; rfl⟩

/-- The operand tokens of an element token of the row are taken. -/
def rowTake (t : TileId) (n : Nat) (s : State) : State :=
  if chainNames n 2 then takeOperand t 3 (takeOperand t 2 s) else takeOperand t 2 s

/-- How many of a token's `m` elements belong to the row: those below ROW_ELEMS, where that is not 0 (R64). -/
def rowUsed (n m done : Nat) : Nat := if fld (body n) 48 16 = 0 then m else min m (fld (body n) 48 16 - done)

/-- The value that the operation's last step leaves in a lane. -/
def stepsVal (l : List Num) : Val := match l.getLast? with | some x => val32 (BitVec.ofNat 32 x.code) | none => .zero false

/-- An element token `k` of a row with statistics `st`: its operation, the chain, and its way out (R114). -/
def rowApplied (t : TileId) (n : Nat) (r : SfRec) (st k c : Token) (u : State) : State :=
  let b := body n
  let inF := fld b 3 5
  let vs := lanes inF k
  let used := rowUsed n vs.length r.rowElems
  let xs := vs.take used
  let rs := xs.map (rowApply (fld b 13 3) (bit b 20) st)
  let v := sfReport t (predOk (fld b 22 2) st.pred) 0 inF rs.flatten (setSf t { sfOf u t with
    rowTokens := r.rowTokens + 1, rowElems := r.rowElems + vs.length, rowTok := if k.last then none else some st } u)
  let ch := (List.range (fld b 16 4)).foldl (chainStep t n [] [] ((lanes inF c).take used)) ⟨rs.map stepsVal, st.pred, v⟩
  sfOutput t n (ch.vals ++ List.replicate (vs.length - used) (.zero false)) k.last ch.pred
    (histToken t n xs ch.vals k.last st.pred ch.pred (sfElems t used ch.s))

theorem exec_sfRowApply (h : sfDue s t 2) (hr : (sfOf s t).rowTok = some st) (hk : operand s t 2 = some k)
    (hc : chainNames (ctxOf s t) 2 = true → (operand s t 3).isSome = true) : exec (.sfRowApply t) s =
      .next (rowApplied t (ctxOf s t) (sfOf s t) st k ((operand s t 3).getD zeroToken) (rowTake t (ctxOf s t) s)) := by
  show execSfRowApply t s = _
  unfold execSfRowApply
  simp only [if_pos h, hr, hk]
  refine congrArg _ (if_neg ?_)
  rintro ⟨hn, h3⟩
  rw [Option.isNone_iff_eq_none.1 h3] at hc
  simp [hn] at hc

/-- The operations whose first step subtracts the row's first statistic: all but kind 1 (R114). -/
theorem rowApply_centres {kind : Nat} (h : kind = 0 ∨ kind = 2 ∨ kind = 3) (sat : Bool) (st : Token) (x : Val) :
    (rowApply kind sat st x)[0]? = some ((subV x (tokLane st 0)).finish (.flt fp32) sat) := by
  rcases h with rfl | rfl | rfl <;> rfl

/-! ### Reductions (R112, R113) -/

theorem exec_sfReduceEmit_idle (h : tileRuns s t 2 = false ∨ stageFree s t 0 = false ∨ (sfOf s t).due = none) :
    exec (.sfReduceEmit t) s = .next s := by
  show execSfReduceEmit t s = _
  unfold execSfReduceEmit
  refine congrArg _ ?_
  dsimp only
  split
  · next pred hd =>
    refine if_neg ?_
    rintro ⟨hrun, hfree⟩
    simp [hrun, hfree, hd] at h
  · rfl

/-- The row's statistics leave and its record begins afresh. -/
theorem exec_sfReduceEmit {pred : Bool} (hrun : tileRuns s t 2 = true) (hfree : stageFree s t 0 = true)
    (hd : (sfOf s t).due = some pred) : exec (.sfReduceEmit t) s = .next (
      let b := body (ctxOf s t)
      let x := statLanes (fld b 13 3) (bit b 20) (BitVec.ofNat 32 (fld b 64 32)) (sfOf s t)
      let u := sfReport t (predOk (fld b 22 2) pred) 0 0x08 x.2 (setSf t { sfOf s t with
        due := none, rowTokens := 0, rowElems := 0, partials := [], stat0 := 0, stat1 := 0, stat2 := 0 } s)
      emit t 0 [⟨BitVec.ofNat 256 (pack 32 x.1), true, true, pred, (tileOf u t).epoch⟩] u) := by
  show execSfReduceEmit t s = _
  unfold execSfReduceEmit
  simp only [hd]
  exact congrArg _ (if_pos ⟨hrun, hfree⟩)

/-! ### Conversions (R98, R115, R139) -/

/-- A conversion with two operands has its row's scale token. -/
abbrev scaleHere (s : State) (t : TileId) : Prop := portOn (ctxOf s t) 2 = false ∨ (sfOf s t).rowTok.isSome = true

theorem scaleHere_iff : scaleHere s t ↔ ¬ (portOn (ctxOf s t) 2 = true ∧ (sfOf s t).rowTok.isNone = true) := by
  rw [Classical.not_and_iff_not_or_not, Bool.not_eq_true, Bool.not_eq_true, Option.isNone_eq_false_iff]

theorem exec_sfConvert_off (h : ¬ sfDue s t 3) : exec (.sfConvert t) s = .next s := by
  show execSfConvert t s = _
  exact congrArg _ (if_neg h)

theorem exec_sfConvert_noScale (h : sfDue s t 3) (hs : ¬ scaleHere s t) (ho : operand s t 2 = none) :
    exec (.sfConvert t) s = .next s := by
  show execSfConvert t s = _
  unfold execSfConvert
  refine congrArg _ ((if_pos h).trans ((if_pos (Classical.not_not.1 (mt scaleHere_iff.2 hs))).trans ?_))
  rw [ho]

theorem exec_sfConvert_scale (h : sfDue s t 3) (hs : ¬ scaleHere s t) (ho : operand s t 2 = some k) :
    exec (.sfConvert t) s = .next (setSf t { sfOf s t with rowTok := some k } (takeOperand t 2 s)) := by
  show execSfConvert t s = _
  unfold execSfConvert
  refine congrArg _ ((if_pos h).trans ((if_pos (Classical.not_not.1 (mt scaleHere_iff.2 hs))).trans ?_))
  rw [ho]

theorem exec_sfConvert_waits (h : sfDue s t 3) (hs : scaleHere s t) (ho : operand s t 1 = none) :
    exec (.sfConvert t) s = .next s := by
  show execSfConvert t s = _
  unfold execSfConvert
  refine congrArg _ ((if_pos h).trans ((if_neg (scaleHere_iff.1 hs)).trans ?_))
  rw [ho]

theorem exec_sfConvert_header (h : sfDue s t 3) (hs : scaleHere s t) (ho : operand s t 1 = some k)
    (hw : wantsInHdr (fld (body (ctxOf s t)) 3 5) (sfOf s t) = true) : exec (.sfConvert t) s =
      .next (setSf t { sfOf s t with inHdr := k.payload, inGroups := (sfOf s t).inGroups + 1 } (takeOperand t 1 s)) := by
  show execSfConvert t s = _
  unfold execSfConvert
  refine congrArg _ ((if_pos h).trans ((if_neg (scaleHere_iff.1 hs)).trans ?_))
  rw [ho]
  exact if_pos hw

/-- An element token is taken: its values are counted, in the histogram too, and LAST ends the row. -/
def convertTake (t : TileId) (n : Nat) (k : Token) (vs : List Val) (s : State) : State :=
  let r := sfOf s t
  let hs := vs.map fun v => val32 (code32 v)
  histToken t n hs hs k.last k.pred k.pred (sfElems t vs.length (setSf t { r with
    inBlocks := if k.last then 0 else r.inBlocks + vs.length / 32, inGroups := if k.last then 0 else r.inGroups
    rowTok := if k.last then none else r.rowTok } (takeOperand t 1 s)))

/-- A conversion without a scale: to blocks, or element by element. -/
def convertPlain (t : TileId) (n : Nat) (k : Token) (vs : List Val) (u : State) : State :=
  let b := body n
  match blockFmt (fld b 8 5) with
  | some bf => sfBlockOut t n bf vs k.last k.pred u
  | none =>
    let c := tileConvert t (fld b 8 5) (bit b 20) (bit b 21) vs u
    emitCodes t (fld b 8 5) (c.1.map (·.code)) k.last k.pred (convReport t n (predOk (fld b 22 2) k.pred) c.1 c.2)

/-- The exponent that a conversion divides by, of the scale token `st` (R140). -/
def convertExp (n : Nat) (st : Token) : Int := rowExp ((elemFmt (fld (body n) 8 5)).getD (.flt fp32)) (tokLane st 0)

/-- A conversion by a scale: the elements divided by its power of two, their underflows counted (R140, R142). -/
def convertScaled (t : TileId) (n : Nat) (st k : Token) (vs : List Val) (u : State) : State :=
  let b := body n
  let ok := predOk (fld b 22 2) k.pred
  let ys := vs.map fun v => v.scale (-convertExp n st)
  let c := tileConvert t (fld b 8 5) (bit b 20) (bit b 21) ys u
  let v := convReport t n ok c.1 c.2
  let w := if ok then reportUdf t.c (tileUnit t)
    (ys.countP fun y => belowPow y ((elemFmt (fld b 8 5)).getD (.flt fp32)).minNormal) v else v
  emitCodes t (fld b 8 5) (c.1.map (·.code)) k.last k.pred w

/-- The state in which a scaled conversion of the token leaves the tile, but for the scale token. -/
def convertedByScale (t : TileId) (k : Token) (s : State) : State :=
  let n := ctxOf s t
  let vs := convertIn (fld (body n) 3 5) (sfOf s t) k
  convertScaled t n ((sfOf s t).rowTok.getD zeroToken) k vs (convertTake t n k vs s)

/-- The payload of the scale token that a row's last element sends on: the power of two, and the row's maximum as it came
(R141). -/
def scalePayload (n : Nat) (st : Token) : BitVec 256 :=
  let l0 := if (tokLane st 0).isNan then 0x7FC00000 else pow32 (convertExp n st)
  BitVec.ofNat 256 (pack 32 [l0, fld st.payload.toNat 0 32])

section
variable (h : sfDue s t 3) (hs : scaleHere s t) (ho : operand s t 1 = some k)
  (hw : wantsInHdr (fld (body (ctxOf s t)) 3 5) (sfOf s t) = false)
include h hs ho hw

theorem exec_sfConvert_elements : exec (.sfConvert t) s = .next (
    let n := ctxOf s t
    let vs := convertIn (fld (body n) 3 5) (sfOf s t) k
    let st := (sfOf s t).rowTok.getD zeroToken
    let u := convertTake t n k vs s
    if portOn n 2 then
      let w := convertScaled t n st k vs u
      if k.last then emit t 1 [⟨scalePayload n st, true, true, k.pred, (tileOf w t).epoch⟩] w else w
    else convertPlain t n k vs u) := by
  show execSfConvert t s = _
  unfold execSfConvert
  refine congrArg _ ((if_pos h).trans ((if_neg (scaleHere_iff.1 hs)).trans ?_))
  rw [ho]
  exact if_neg (Bool.eq_false_iff.1 hw)

theorem exec_sfConvert_plain (htwo : portOn (ctxOf s t) 2 = false) : exec (.sfConvert t) s =
    .next (convertPlain t (ctxOf s t) k (convertIn (fld (body (ctxOf s t)) 3 5) (sfOf s t) k)
      (convertTake t (ctxOf s t) k (convertIn (fld (body (ctxOf s t)) 3 5) (sfOf s t) k) s)) :=
  (exec_sfConvert_elements h hs ho hw).trans (congrArg _ (if_neg (Bool.eq_false_iff.1 htwo)))

theorem exec_sfConvert_scaled (htwo : portOn (ctxOf s t) 2 = true) (hl : k.last = false) :
    exec (.sfConvert t) s = .next (convertedByScale t k s) :=
  (exec_sfConvert_elements h hs ho hw).trans (congrArg _ ((if_pos htwo).trans (if_neg (Bool.eq_false_iff.1 hl))))

theorem exec_sfConvert_scaledLast (htwo : portOn (ctxOf s t) 2 = true) (hl : k.last = true) :
    exec (.sfConvert t) s = .next (emit t 1 [⟨scalePayload (ctxOf s t) ((sfOf s t).rowTok.getD zeroToken), true, true, k.pred,
      (tileOf (convertedByScale t k s) t).epoch⟩] (convertedByScale t k s)) :=
  (exec_sfConvert_elements h hs ho hw).trans (congrArg _ ((if_pos htwo).trans (if_pos hl)))

end

theorem convertPlain_elements {n : Nat} (h : blockFmt (fld (body n) 8 5) = none) (vs : List Val) (u : State) :
    convertPlain t n k vs u =
      let b := body n
      let c := tileConvert t (fld b 8 5) (bit b 20) (bit b 21) vs u
      emitCodes t (fld b 8 5) (c.1.map (·.code)) k.last k.pred (convReport t n (predOk (fld b 22 2) k.pred) c.1 c.2) := by
  simp only [convertPlain, h]

theorem convertPlain_blocks {n : Nat} {bf : BFmt} (h : blockFmt (fld (body n) 8 5) = some bf) (vs : List Val) (u : State) :
    convertPlain t n k vs u = sfBlockOut t n bf vs k.last k.pred u := by
  simp only [convertPlain, h]

/-! ### Random tiles and histograms (R117, R118) -/

/-- A random tile may send a token: a stream goes on, or may begin. -/
abbrev randomDue (s : State) (t : TileId) : Prop :=
  tileRuns s t 2 = true ∧ fld (body (ctxOf s t)) 0 3 = 4 ∧ stageFree s t 0 = true ∧
    ((sfOf s t).count ≠ fld (body (ctxOf s t)) 48 16 ∨ mayStart s t = true)

theorem exec_sfRandomEmit_idle (h : ¬ randomDue s t) : exec (.sfRandomEmit t) s = .next s := by
  show execSfRandomEmit t s = _
  exact congrArg _ (if_neg h)

/-- The payload of a random token from the words drawn: the words themselves, or eight uniform FP32 values (R118). -/
def randomPayload (kind : Nat) (ws : List Word) : BitVec 256 :=
  let bits := pack 64 (ws.map (·.toNat))
  BitVec.ofNat 256 (if kind = 0 then bits
    else pack 32 ((unpack bits 32 8).map fun x => (code32 (.fin false (Config.uniform24 (BitVec.ofNat 32 x)).toNat (-24))).toNat))

/-- The tile once it has drawn for a token of a stream of `count`: the stream goes on until its last token. -/
def randomDrawn (t : TileId) (count : Nat) (s : State) : State :=
  let r := sfOf s t
  let last := decide (r.count ≤ 1)
  updTile t (fun x => { x with stream := !last })
    (setSf t { r with gen := (r.gen.words 4).2, count := if last then count else r.count - 1 } s)

theorem randomDrawn_epoch (t : TileId) (count : Nat) (s : State) : (tileOf (randomDrawn t count s) t).epoch = (tileOf s t).epoch := by
  rw [randomDrawn, updTile, tileOf_setTile, if_pos rfl]
  rfl

theorem exec_sfRandomEmit (h : randomDue s t) : exec (.sfRandomEmit t) s = .next (emit t 0
    [⟨randomPayload (fld (body (ctxOf s t)) 13 3) ((sfOf s t).gen.words 4).1, true, decide ((sfOf s t).count ≤ 1), false,
      (tileOf s t).epoch⟩] (randomDrawn t (fld (body (ctxOf s t)) 48 16) s)) := by
  rw [← randomDrawn_epoch t (fld (body (ctxOf s t)) 48 16) s]
  simp only [randomDrawn, decide_eq_true_eq]
  show execSfRandomEmit t s = _
  exact congrArg _ (if_pos h)

theorem exec_histClear_permitted {who : Requester} {c : Cl} {i : Fin 4} (h : regPerm s who c = 0x00) (v : Word) :
    exec (.histClear who c i v) s = .next (reply 0x00 (setSf (histTile c i) { sfOf s (histTile c i) with bins := [] } s)) := by
  show execHistClear who c i v s = _
  exact congrArg _ (if_pos h)

theorem exec_histClear_denied {who : Requester} {c : Cl} {i : Fin 4} (h : regPerm s who c ≠ 0x00) (v : Word) :
    exec (.histClear who c i v) s = .next (reply (regPerm s who c) s) := by
  show execHistClear who c i v s = _
  exact congrArg _ (if_neg h)

end

/-- Settles O57: each instruction by whether the tile is due and has the tokens it needs, then by its effect. -/
theorem specialFunctionTiles : Obligations.SpecialFunctionTiles := by
  unfold Obligations.SpecialFunctionTiles
  refine ⟨⟨fun s t => ⟨exec_sfElementwise_idle, fun a h hfed ha => ?_⟩,
      fun s t => ⟨exec_sfRowApply_off, fun h hr => ?_, fun st h hr => ?_⟩,
      fun t n a b c st i h => chainStep_pred h a b c st, fun kind sat st x => ⟨rfl, fun h => rowApply_centres h sat st x⟩⟩,
    fun s t => ⟨exec_sfReduceEmit_idle, fun pred => exec_sfReduceEmit⟩, fun s t => ?_, fun s t => ⟨exec_sfRandomEmit_idle, fun h => ?_⟩,
    fun s who c i v => ⟨fun h => exec_histClear_permitted h v, fun h => exec_histClear_denied h v⟩⟩
  · have he := exec_sfElementwise h hfed ha
    refine ⟨fun hsel => he.trans ?_, fun hsel => he.trans ?_⟩
    · rw [elementwiseSt, if_pos hsel]; rfl
    · rw [elementwiseSt, if_neg hsel]; rfl
  · exact ⟨exec_sfRowApply_noStats h hr, fun k => exec_sfRowApply_stats h hr⟩
  · exact ⟨exec_sfRowApply_waits h hr, fun k hk hc => exec_sfRowApply h hr hk hc⟩
  · refine ⟨exec_sfConvert_off, fun h hs => ⟨exec_sfConvert_noScale h hs, fun k => exec_sfConvert_scale h hs⟩,
      exec_sfConvert_waits, fun k h hs ho => ⟨exec_sfConvert_header h hs ho, fun hw => ?_⟩⟩
    refine ⟨fun htwo hb => ?_, fun bf htwo hb => ?_, exec_sfConvert_scaled h hs ho hw,
      fun htwo hl => ⟨_, convertedByScale t k s, rfl, exec_sfConvert_scaledLast h hs ho hw htwo hl⟩⟩
    · exact (exec_sfConvert_plain h hs ho hw htwo).trans (congrArg _ (convertPlain_elements hb _ _))
    · exact (exec_sfConvert_plain h hs ho hw htwo).trans (congrArg _ (convertPlain_blocks hb _ _))
  · exact ⟨_, exec_sfRandomEmit h, fun hb => by rw [randomPayload, if_pos hb]⟩

end Sys2Proof.Machine
end

section
/-! PROOFS. Scalar floating point and the vector instructions (spec/02_number_formats.md R44-R50, 06_cores.md R162-R168, R495). -/

namespace Sys2Proof.Machine
open Sys2Proof

theorem issueInstr_issues {s : State} {x : CtxId} {rs : List MemReg} (h : Issues s x rs) (f : State → State) :
    issueInstr x rs f s = f s := if_pos (by simp [h.1, h.2])

/-! ### Floating-point registers (R158) -/

/-- A narrow write leaves the upper half of the register free. -/
theorem wf_narrow (x : CtxId) (i : Reg) (v : Nat) (s : State) : ∃ half : Word, wf x i false v s =
    updCtx x (fun r => r.writeF i (BitVec.ofNat 64 (half.toNat / 2 ^ 32 * 2 ^ 32 + v % 2 ^ 32))) { s with freeCount := s.freeCount + 1 } :=
  ⟨(takeFree s).1, rfl⟩

/-! ### Scalar operations (R44, R45, R168) -/

/-- Some source's format is one that the scalar unit lacks; two sources differ in format. -/
abbrev scalarUnfit (op : FpOp) (fa fb fc : Fmt) : Bool :=
  !scalarFmtOk op fa || (1 < fpArity op && !scalarFmtOk op fb) || (2 < fpArity op && !scalarFmtOk op fc)
abbrev scalarMixed (op : FpOp) (fa fb fc : Fmt) : Bool := (1 < fpArity op && fb != fa) || (2 < fpArity op && fc != fa)

/-- A scalar result is written in its format and the instruction completes. -/
def scalarWrite (x : CtxId) (rd : Reg) (d : Fmt) (code : Nat) (s : State) : State :=
  if d = 0xD then retire x (wx x rd ((BitVec.ofNat 32 code).signExtend 64) s) else retire x (wf x rd (d == 9) code s)

theorem scalarWrite_int32 {d : Fmt} (h : d = 0xD) (x : CtxId) (rd : Reg) (code : Nat) (s : State) :
    scalarWrite x rd d code s = retire x (wx x rd ((BitVec.ofNat 32 code).signExtend 64) s) := if_pos h

theorem scalarWrite_fp64 {d : Fmt} (h : d = 9) (x : CtxId) (rd : Reg) (code : Nat) (s : State) :
    scalarWrite x rd d code s = retire x (updCtx x (fun r => r.writeF rd (BitVec.ofNat 64 code)) s) := by
  subst h; rfl

theorem scalarWrite_fp32 {d : Fmt} (h : d = 8) (x : CtxId) (rd : Reg) (code : Nat) (s : State) :
    ∃ half : Word, scalarWrite x rd d code s = retire x (updCtx x
      (fun r => r.writeF rd (BitVec.ofNat 64 (half.toNat / 2 ^ 32 * 2 ^ 32 + code % 2 ^ 32))) { s with freeCount := s.freeCount + 1 }) := by
  subst h
  obtain ⟨half, hw⟩ := wf_narrow x rd code s
  exact ⟨half, congrArg (retire x) hw⟩

section
variable {s : State} {x : CtxId} {op : FpOp} {fa fb fc : Fmt} {rd ra rb rc : Reg} {sat : Bool}

theorem exec_scalarFpOp_unfit (h : Issues s x (scalarRegs op fa fb fc rd ra rb rc)) (hu : scalarUnfit op fa fb fc = true) :
    exec (.scalarFpOp x op fa fb fc rd ra rb rc sat) s = .next (illegal x s) := by
  show execScalarFpOp x op fa fb fc rd ra rb rc sat s = _
  rw [execScalarFpOp, issueInstr_issues h]
  exact congrArg _ (if_pos hu)

theorem exec_scalarFpOp_mixed (h : Issues s x (scalarRegs op fa fb fc rd ra rb rc)) (hu : scalarUnfit op fa fb fc = false)
    (hm : scalarMixed op fa fb fc = true) : exec (.scalarFpOp x op fa fb fc rd ra rb rc sat) s = .next (mismatch x fa s) := by
  show execScalarFpOp x op fa fb fc rd ra rb rc sat s = _
  rw [execScalarFpOp, issueInstr_issues h]
  exact congrArg _ ((if_neg (Bool.eq_false_iff.1 hu)).trans (if_pos hm))

theorem exec_scalarFpOp_compare {k : Nat} (h : Issues s x (scalarRegs op fa fb fc rd ra rb rc)) (hu : scalarUnfit op fa fb fc = false)
    (hm : scalarMixed op fa fb fc = false) (hk : fpCmp op = some k) : exec (.scalarFpOp x op fa fb fc rd ra rb rc sat) s =
      .next (retire x (wx x rd (if condV k (scalarSrc s x fa ra) (scalarSrc s x fb rb) then 1 else 0) s)) := by
  show execScalarFpOp x op fa fb fc rd ra rb rc sat s = _
  rw [execScalarFpOp, issueInstr_issues h]
  refine congrArg _ ((if_neg (Bool.eq_false_iff.1 hu)).trans ((if_neg (Bool.eq_false_iff.1 hm)).trans ?_))
  simp only [hk]

/-- The result of an operation that is neither a compare nor a conversion, rounded once. -/
def scalarNum (s : State) (x : CtxId) (op : FpOp) (fa fb fc : Fmt) (ra rb rc : Reg) (sat : Bool) : Num :=
  (fpExact op (scalarSrc s x fa ra) (scalarSrc s x fb rb) (scalarSrc s x fc rc)).finish (eFmt fa) sat

theorem exec_scalarFpOp_arith (h : Issues s x (scalarRegs op fa fb fc rd ra rb rc)) (hu : scalarUnfit op fa fb fc = false)
    (hm : scalarMixed op fa fb fc = false) (hk : fpCmp op = none) (hc : ∀ d, op ≠ .cvt d) :
    exec (.scalarFpOp x op fa fb fc rd ra rb rc sat) s = .next (scalarWrite x rd fa (scalarNum s x op fa fb fc ra rb rc sat).code
      (coreReport x false fa.toNat [scalarNum s x op fa fb fc ra rb rc sat] s)) := by
  show execScalarFpOp x op fa fb fc rd ra rb rc sat s = _
  rw [execScalarFpOp, issueInstr_issues h]
  refine congrArg _ ((if_neg (Bool.eq_false_iff.1 hu)).trans ((if_neg (Bool.eq_false_iff.1 hm)).trans ?_))
  cases op with
  | cvt d => exact absurd rfl (hc d)
  | cmpEq | cmpNe | cmpLt | cmpLe | cmpGt | cmpGe => cases hk
  | add | sub | mul | fma | min | max | div | sqrt => rfl

theorem exec_scalarFpOp_convert {d : Fmt} (h : Issues s x (scalarRegs (.cvt d) fa fb fc rd ra rb rc))
    (hu : scalarUnfit (.cvt d) fa fb fc = false) :
    let k := convertVal (eFmt d) sat none (scalarSrc s x fa ra)
    exec (.scalarFpOp x (.cvt d) fa fb fc rd ra rb rc sat) s = .next (scalarWrite x rd d k.code
      (lostNan x.c (if d == 0xD && (scalarSrc s x fa ra).isNan then 1 else 0) (coreReport x false fa.toNat [⟨k.code, k.ovf, 0⟩] s))) := by
  show execScalarFpOp x (.cvt d) fa fb fc rd ra rb rc sat s = _
  rw [execScalarFpOp, issueInstr_issues h]
  exact congrArg _ ((if_neg (Bool.eq_false_iff.1 hu)).trans (if_neg (show ¬ scalarMixed (.cvt d) fa fb fc = true by simp [fpArity])))

/-- An FP64 result fills its register, an FP32 one its lower half. -/
theorem scalarWrite_floats {o : Host.Outcome State Fault Refusal} {d : Fmt} {code : Nat} {u : State}
    (h : o = .next (scalarWrite x rd d code u)) :
    (d = 9 → o = .next (retire x (updCtx x (fun r => r.writeF rd (BitVec.ofNat 64 code)) u))) ∧
    (d = 8 → ∃ half : Word, o = .next (retire x (updCtx x
      (fun r => r.writeF rd (BitVec.ofNat 64 (half.toNat / 2 ^ 32 * 2 ^ 32 + code % 2 ^ 32))) { u with freeCount := u.freeCount + 1 }))) := by
  refine ⟨fun hd => by rw [h, scalarWrite_fp64 hd], fun hd => ?_⟩
  obtain ⟨half, hw⟩ := scalarWrite_fp32 hd x rd code u
  exact ⟨half, by rw [h, hw]⟩

end

/-! ### Vector arithmetic (R163, R164) -/

/-- A number with the bits that `f` says among the first `n`. -/
def bitsOf (f : Nat → Bool) (n : Nat) : Nat := (List.range n).foldl (fun acc i => if f i then acc + 2 ^ i else acc) 0

theorem bitsOf_succ (f : Nat → Bool) (n : Nat) : bitsOf f (n + 1) = if f n then bitsOf f n + 2 ^ n else bitsOf f n := by
  simp [bitsOf, List.range_succ]

theorem bitsOf_lt (f : Nat → Bool) (n : Nat) : bitsOf f n < 2 ^ n := by
  induction n with
  | zero => simp [bitsOf]
  | succ n ih =>
    rw [bitsOf_succ, Nat.pow_succ]
    split <;> omega

theorem testBit_bitsOf (f : Nat → Bool) {n i : Nat} (h : i < n) : (bitsOf f n).testBit i = f i := by
  induction n with
  | zero => omega
  | succ n ih =>
    rw [bitsOf_succ]
    rcases Nat.lt_succ_iff_lt_or_eq.1 h with hi | rfl
    · split
      · rw [Nat.add_comm, Nat.testBit_two_pow_add_gt hi, ih hi]
      · exact ih hi
    · have htop := Nat.testBit_lt_two_pow (bitsOf_lt f i)
      split
      · next hf => rw [Nat.add_comm, Nat.testBit_two_pow_add_eq, htop, hf]; rfl
      · next hf => rw [htop, Bool.eq_false_iff.2 hf]

/-- Some source's format is one that vector arithmetic lacks; two sources differ in format. -/
abbrev vecUnfit (op : VOp) (fa fb fc : Fmt) : Bool :=
  !vecFmtOk fa || (1 < vArity op && !vecFmtOk fb) || (2 < vArity op && !vecFmtOk fc)
abbrev vecMixed (op : VOp) (fa fb fc : Fmt) : Bool := (1 < vArity op && fb != fa) || (2 < vArity op && fc != fa)

/-- A move names a lane that a register of `n` lanes does not have. -/
def moveOut (n : Nat) : VOp → Bool
  | .move i j => n ≤ i || n ≤ j
  | _ => false

theorem moveOut_mixed {op : VOp} {fa fb fc : Fmt} (h : vecMixed op fa fb fc = true) (n : Nat) : moveOut n op = false := by
  cases op with
  | move i j => simp [vArity] at h
  | _ => rfl

section
variable {s : State} {x : CtxId} {op : VOp} {fa fb fc : Fmt} {vd va vb vc : Reg} {m : Fin 8} {sat : Bool}
  (h : Issues s x (vecRegs op vd va vb vc))
include h

theorem exec_vectorArith_illegal (hu : vecUnfit op fa fb fc = true ∨ moveOut (elemsPerToken fa.toNat) op = true) :
    exec (.vectorArith x op fa fb fc vd va vb vc m sat) s = .next (illegal x s) := by
  show execVectorArith x op fa fb fc vd va vb vc m sat s = _
  rw [execVectorArith, issueInstr_issues h]
  exact congrArg _ (if_pos (Bool.or_eq_true_iff.2 hu))

theorem exec_vectorArith_mixed (hu : vecUnfit op fa fb fc = false) (hm : vecMixed op fa fb fc = true) :
    exec (.vectorArith x op fa fb fc vd va vb vc m sat) s = .next (mismatch x fa s) := by
  show execVectorArith x op fa fb fc vd va vb vc m sat s = _
  rw [execVectorArith, issueInstr_issues h]
  have hill : ¬ (vecUnfit op fa fb fc || moveOut (elemsPerToken fa.toNat) op) = true := by simp [hu, moveOut_mixed hm]
  exact congrArg _ ((if_neg hill).trans (if_pos hm))

end

/-- An operation whose formats the vector unit takes, and that names no lane too many, passes both checks. -/
theorem vecChecks_pass {α : Type} {op : VOp} {fa fb fc : Fmt} (hu : vecUnfit op fa fb fc = false)
    (ho : moveOut (elemsPerToken fa.toNat) op = false) (hm : vecMixed op fa fb fc = false) (a b c : α) :
    (if (vecUnfit op fa fb fc || moveOut (elemsPerToken fa.toNat) op) = true then a
      else if vecMixed op fa fb fc = true then b else c) = c := by
  rw [if_neg (by simp [hu, ho]), if_neg (Bool.eq_false_iff.1 hm)]

/-- The operations that write lanes of `vd` by arithmetic. -/
abbrev laneArith (op : VOp) : Prop := op = .add ∨ op = .sub ∨ op = .mul ∨ op = .fma ∨ op = .min ∨ op = .max ∨ op = .abs

/-- The results of an arithmetic operation's lanes. -/
def laneNums (s : State) (x : CtxId) (op : VOp) (fa : Fmt) (va vb vc : Reg) (sat : Bool) : List Num :=
  let r := ctxRec s x
  (List.range (elemsPerToken fa.toNat)).map fun i => (vExact op ((vVals fa.toNat r.v[va]).getD i .nan)
    ((vVals fa.toNat r.v[vb]).getD i .nan) ((vVals fa.toNat r.v[vc]).getD i .nan)).finish (eFmt fa) sat

/-- The mask bits that a compare leaves in its destination. -/
def compareBit (s : State) (x : CtxId) (k : Nat) (fa : Fmt) (vd va vb : Reg) (m : Fin 8) (i : Nat) : Bool :=
  let r := ctxRec s x
  if i < elemsPerToken fa.toNat ∧ (r.readM m).getLsbD i = true then
    condV k ((vVals fa.toNat r.v[va]).getD i .nan) ((vVals fa.toNat r.v[vb]).getD i .nan)
  else (r.readM (Fin.ofNat 8 vd.val)).getLsbD i

section
variable {s : State} {x : CtxId} {op : VOp} {fa fb fc : Fmt} {vd va vb vc : Reg} {m : Fin 8} {sat : Bool}
  (h : Issues s x (vecRegs op vd va vb vc)) (hu : vecUnfit op fa fb fc = false) (hm : vecMixed op fa fb fc = false)
include h hu hm

theorem exec_vectorArith_lanes (hop : laneArith op) : exec (.vectorArith x op fa fb fc vd va vb vc m sat) s = .next (retire x (wv x vd
    (mergeLanes fa.toNat ((ctxRec s x).readM m) (ctxRec s x).v[vd] ((laneNums s x op fa va vb vc sat).map (·.code)))
    (coreReport x true fa.toNat (unmasked ((ctxRec s x).readM m) (laneNums s x op fa va vb vc sat)) s))) := by
  show execVectorArith x op fa fb fc vd va vb vc m sat s = _
  rw [execVectorArith, issueInstr_issues h]
  rcases hop with rfl | rfl | rfl | rfl | rfl | rfl | rfl <;> exact congrArg _ (vecChecks_pass hu rfl hm _ _ _)

theorem exec_vectorArith_compare {k : Nat} (hk : vCmp op = some k) : exec (.vectorArith x op fa fb fc vd va vb vc m sat) s =
    .next (retire x (updCtx x (fun r => r.writeM (Fin.ofNat 8 vd.val)
      (BitVec.ofNat 32 (bitsOf (compareBit s x k fa vd va vb m) 32))) s)) := by
  show execVectorArith x op fa fb fc vd va vb vc m sat s = _
  rw [execVectorArith, issueInstr_issues h]
  cases op with
  | cmpEq | cmpNe | cmpLt | cmpLe | cmpGt | cmpGe => cases hk; exact congrArg _ (vecChecks_pass hu rfl hm _ _ _)
  | _ => cases hk

theorem exec_vectorArith_move {i j : Nat} (hop : op = .move i j) (hi : i < elemsPerToken fa.toNat) (hj : j < elemsPerToken fa.toNat) :
    exec (.vectorArith x op fa fb fc vd va vb vc m sat) s = .next (retire x (if ((ctxRec s x).readM m).getLsbD j then
      wv x vd (mergeLanes fa.toNat (1 <<< j) (ctxRec s x).v[vd]
        (List.replicate (elemsPerToken fa.toNat) ((vCodes fa.toNat (ctxRec s x).v[va]).getD i 0))) s else s)) := by
  subst hop
  show execVectorArith x (.move i j) fa fb fc vd va vb vc m sat s = _
  rw [execVectorArith, issueInstr_issues h]
  exact congrArg _ (vecChecks_pass hu (by simp [moveOut, hi, hj]) hm _ _ _)

theorem exec_vectorArith_select (hop : op = .sel) : exec (.vectorArith x op fa fb fc vd va vb vc m sat) s = .next (retire x (wv x vd
    (mergeLanes fa.toNat ((ctxRec s x).readM m) (ctxRec s x).v[vd] ((List.range (elemsPerToken fa.toNat)).map fun i =>
      if ((ctxRec s x).readM (Fin.ofNat 8 vc.val)).getLsbD i then (vCodes fa.toNat (ctxRec s x).v[va]).getD i 0
      else (vCodes fa.toNat (ctxRec s x).v[vb]).getD i 0)) s)) := by
  subst hop
  show execVectorArith x .sel fa fb fc vd va vb vc m sat s = _
  rw [execVectorArith, issueInstr_issues h]
  exact congrArg _ (vecChecks_pass hu rfl hm _ _ _)

theorem exec_vectorArith_sum (hop : op = .sum) :
    let q := (sumV (unmasked ((ctxRec s x).readM m) (vVals fa.toNat (ctxRec s x).v[va]))).finish
      (eFmt (BitVec.ofNat 5 (sumFmt fa.toNat))) sat
    exec (.vectorArith x op fa fb fc vd va vb vc m sat) s =
      .next (retire x (wf x vd false q.code (coreReport x true fa.toNat [q] s))) := by
  subst hop
  show execVectorArith x .sum fa fb fc vd va vb vc m sat s = _
  rw [execVectorArith, issueInstr_issues h]
  exact congrArg _ (vecChecks_pass hu rfl hm _ _ _)

end

/-! ### Dot products and row scales (R54, R140, R164, R166) -/

theorem dotAdd_nan {acc : Val} (h : acc.isNan = true) (ps : List (Val × Val)) : dotAdd ps acc = ⟨.nan, 0⟩ := if_pos h

theorem dotAdd_sum {acc : Val} {ps : List (Val × Val)} (h : acc.isNan = false) (hc : (dotV ps).cause = 0) :
    dotAdd ps acc = addV (dotV ps).v acc := (if_neg (Bool.eq_false_iff.1 h)).trans (if_neg (not_not_intro hc))

theorem dotAdd_produced {acc : Val} {ps : List (Val × Val)} (h : acc.isNan = false) (hc : (dotV ps).cause ≠ 0) :
    dotAdd ps acc = dotV ps := (if_neg (Bool.eq_false_iff.1 h)).trans (if_pos hc)

/-- The formats that VDOT multiplies (R164). -/
def dotFmtOk (f : Fmt) : Bool := [4, 5, 6, 7, 0xB].contains f.toNat

/-- The results of VDOT's accumulator lanes, of format `acc`. -/
def dotNums (r : CtxRec) (f acc : Nat) (vd va vb : Reg) (sat : Bool) : List Num :=
  (List.range 8).map fun j => (dotAdd ((((vVals f r.v[va]).zip (vVals f r.v[vb])).drop (dotGroup f * j)).take (dotGroup f))
    ((vVals acc r.v[vd]).getD j .nan)).finish (eFmt (BitVec.ofNat 5 acc)) sat

/-- FP32 lanes, INT32 for INT8. -/
def dotAccFmt (f : Nat) : Nat := if f = 0xB then 0xD else 8

section
variable {s : State} {x : CtxId} {fa fb : Fmt} {vd va vb : Reg} {m : Fin 8} {sat : Bool} (h : Issues s x [.v vd, .v va, .v vb])
include h

theorem exec_vdot_illegal (hf : dotFmtOk fa = false ∨ dotFmtOk fb = false) : exec (.vdot x fa fb vd va vb m sat) s = .next (illegal x s) := by
  show execVdot x fa fb vd va vb m sat s = _
  rw [execVdot, issueInstr_issues h]
  exact congrArg _ (if_pos (show (!dotFmtOk fa || !dotFmtOk fb) = true by rcases hf with hf | hf <;> simp [hf]))

theorem exec_vdot_mixed (ha : dotFmtOk fa = true) (hb : dotFmtOk fb = true) (hne : fa ≠ fb) :
    exec (.vdot x fa fb vd va vb m sat) s = .next (mismatch x fa s) := by
  show execVdot x fa fb vd va vb m sat s = _
  rw [execVdot, issueInstr_issues h]
  exact congrArg _ ((if_neg (show ¬ (!dotFmtOk fa || !dotFmtOk fb) = true by simp [ha, hb])).trans (if_pos hne))

theorem exec_vdot (ha : dotFmtOk fa = true) (he : fa = fb) :
    let ns := dotNums (ctxRec s x) fa.toNat (dotAccFmt fa.toNat) vd va vb sat
    exec (.vdot x fa fb vd va vb m sat) s = .next (retire x (wv x vd
      (mergeLanes (dotAccFmt fa.toNat) ((ctxRec s x).readM m) (ctxRec s x).v[vd] (ns.map (·.code)))
      (coreReport x true fa.toNat (unmasked ((ctxRec s x).readM m) ns) s))) := by
  show execVdot x fa fb vd va vb m sat s = _
  rw [execVdot, issueInstr_issues h]
  have hb : dotFmtOk fb = true := he ▸ ha
  exact congrArg _ ((if_neg (show ¬ (!dotFmtOk fa || !dotFmtOk fb) = true by simp [ha, hb])).trans (if_neg (not_not_intro he)))

end

section
variable {s : State} {x : CtxId}

theorem exec_vamax_illegal {fd vs : Reg} {f : Fmt} {m : Fin 8} (h : Issues s x [.f fd, .v vs]) (hf : vecFmtOk f = false) :
    exec (.vamax x fd vs f m) s = .next (illegal x s) := by
  show execVamax x fd vs f m s = _
  rw [execVamax, issueInstr_issues h]
  simp [hf]

theorem exec_vamax {fd vs : Reg} {f : Fmt} {m : Fin 8} (h : Issues s x [.f fd, .v vs]) (hf : vecFmtOk f = true) :
    let a := (unmasked ((ctxRec s x).readM m) (vVals f.toNat (ctxRec s x).v[vs])).foldl (fun a v => minmaxV true a v.abs) (.zero false)
    exec (.vamax x fd vs f m) s = .next (retire x (wf x fd false (a.finish (.flt fp32)).code s)) := by
  show execVamax x fd vs f m s = _
  rw [execVamax, issueInstr_issues h]
  simp [hf]

theorem exec_fscale_illegal {fd fa : Reg} {out : Fmt} (h : Issues s x [.f fd, .f fa]) (hf : scaleFmtOk out = false) :
    exec (.fscale x fd fa out) s = .next (illegal x s) := by
  show execFscale x fd fa out s = _
  rw [execFscale, issueInstr_issues h]
  simp [hf]

theorem exec_fscale {fd fa : Reg} {out : Fmt} (h : Issues s x [.f fd, .f fa]) (hf : scaleFmtOk out = true) :
    exec (.fscale x fd fa out) s = .next (retire x (wf x fd false
      ((if (amaxOf s x fa).isNan then Val.nan else .fin false 1 (rowExp (eFmt out) (amaxOf s x fa))).finish (.flt fp32)).code s)) := by
  show execFscale x fd fa out s = _
  rw [execFscale, issueInstr_issues h]
  simp [hf]

/-! ### Vector conversions (R55-R57, R166, R495) -/

theorem exec_vcvt_illegal {vd vs : Reg} {src dst : Fmt} {sat grad : Bool} {m : Fin 8} {part : BitVec 3} (h : Issues s x [.v vd, .v vs])
    (hf : cvtFmtOk src = false ∨ cvtFmtOk dst = false) : exec (.vcvt x vd vs src dst sat grad m part) s = .next (illegal x s) := by
  show execVcvt x vd vs src dst sat grad m part s = _
  rw [execVcvt, issueInstr_issues h]
  exact congrArg _ (if_pos (by rcases hf with hf | hf <;> simp [hf]))

theorem exec_vcvt {vd vs : Reg} {src dst : Fmt} {sat grad : Bool} {m : Fin 8} {part : BitVec 3} (h : Issues s x [.v vd, .v vs])
    (hs : cvtFmtOk src = true) (hd : cvtFmtOk dst = true) : exec (.vcvt x vd vs src dst sat grad m part) s =
      .next (vConvert x vd vs src.toNat dst.toNat 0 false sat grad m part.toNat s) := by
  show execVcvt x vd vs src dst sat grad m part s = _
  rw [execVcvt, issueInstr_issues h]
  simp [hs, hd]

theorem exec_vcvts_illegal {vd vs fa : Reg} {src dst : Fmt} {sat grad : Bool} {m : Fin 8} {part : BitVec 3}
    (h : Issues s x [.v vd, .v vs, .f fa]) (hf : cvtFmtOk src = false ∨ scaleFmtOk dst = false) :
    exec (.vcvts x vd vs fa src dst sat grad m part) s = .next (illegal x s) := by
  show execVcvts x vd vs fa src dst sat grad m part s = _
  rw [execVcvts, issueInstr_issues h]
  exact congrArg _ (if_pos (by rcases hf with hf | hf <;> simp [hf]))

theorem exec_vcvts {vd vs fa : Reg} {src dst : Fmt} {sat grad : Bool} {m : Fin 8} {part : BitVec 3}
    (h : Issues s x [.v vd, .v vs, .f fa]) (hs : cvtFmtOk src = true) (hd : scaleFmtOk dst = true) :
    exec (.vcvts x vd vs fa src dst sat grad m part) s =
      .next (vConvert x vd vs src.toNat dst.toNat (rowExp (eFmt dst) (amaxOf s x fa)) true sat grad m part.toNat s) := by
  show execVcvts x vd vs fa src dst sat grad m part s = _
  rw [execVcvts, issueInstr_issues h]
  simp [hs, hd]

end

/-! ### What reports leave -/

theorem OnlyReports.trans {s t u : State} (h : OnlyReports s t) (g : OnlyReports t u) : OnlyReports s u := by
  unfold OnlyReports at *
  rw [g, h]

theorem OnlyEvents.onlyReports {s t : State} (h : OnlyEvents s t) : OnlyReports s t := by
  unfold OnlyReports
  rw [h]

theorem OnlyReports.core {s t : State} (h : OnlyReports s t) : t.core = s.core := by rw [h]

theorem setNum_onlyReports (p : Fin 64) (b : NumBlock) (s : State) : OnlyReports s (setNum p b s) := rfl

theorem lostNan_onlyReports (c : Cl) (n : Nat) (s : State) : OnlyReports s (lostNan c n s) := by
  unfold lostNan
  split
  · split
    · rfl
    · exact (setNum_onlyReports _ _ s).trans (counterWrap_only _ _ _ _ _).onlyReports
  · rfl

theorem reportNan_onlyReports (c : Cl) (who : NanUnit) (unit : BitVec 32) (source format cause : Nat) (loc : Word) (n : Nat)
    (s : State) : OnlyReports s (reportNan c who unit source format cause loc n s) := by
  unfold reportNan
  split
  · split <;> rfl
  · rfl

theorem reportOvf_onlyReports (c : Cl) (unit : BitVec 32) (n : Nat) (s : State) : OnlyReports s (reportOvf c unit n s) := by
  unfold reportOvf
  split
  · split <;> rfl
  · rfl

theorem reportUdf_onlyReports (c : Cl) (unit : BitVec 32) (n : Nat) (s : State) : OnlyReports s (reportUdf c unit n s) := by
  unfold reportUdf
  split
  · split <;> rfl
  · rfl

/-- A core's report in its two parts: the NaNs it produced, and the overflows it tells of with CORE_SENTINEL. -/
def coreNans (x : CtxId) (vector : Bool) (fmt : Nat) (ns : List Num) (s : State) : State :=
  match ns.filter fun n => n.cause != 0 with
  | n :: l => reportNan x.c (.ctx x) (coreUnit x.c x.k.val) (b2n vector) fmt n.cause (coreLoc s x) (n :: l).length s
  | [] => s
def coreOverflows (x : CtxId) (ns : List Num) (s : State) : State :=
  match owner s x.c with
  | some p => if (numBlock s p).coreSentinel then reportOvf x.c (coreUnit x.c x.k.val) (ns.countP (·.ovf)) s else s
  | none => s

theorem coreNans_onlyReports (x : CtxId) (vector : Bool) (fmt : Nat) (ns : List Num) (s : State) :
    OnlyReports s (coreNans x vector fmt ns s) := by
  unfold coreNans
  split
  · exact reportNan_onlyReports _ _ _ _ _ _ _ _ s
  · rfl

theorem coreOverflows_onlyReports (x : CtxId) (ns : List Num) (s : State) : OnlyReports s (coreOverflows x ns s) := by
  unfold coreOverflows
  split
  · split
    · exact reportOvf_onlyReports _ _ _ s
    · rfl
  · rfl

theorem coreReport_eq (x : CtxId) (vector : Bool) (fmt : Nat) (ns : List Num) (s : State) :
    coreReport x vector fmt ns s = coreOverflows x ns (coreNans x vector fmt ns s) := by
  unfold coreReport coreNans
  cases ns.filter fun n => n.cause != 0 <;> rfl

theorem coreReport_onlyReports (x : CtxId) (vector : Bool) (fmt : Nat) (ns : List Num) (s : State) :
    OnlyReports s (coreReport x vector fmt ns s) := by
  rw [coreReport_eq]
  exact (coreNans_onlyReports x vector fmt ns s).trans (coreOverflows_onlyReports x ns _)

/-! ### The elements converted -/

theorem getD_of_lt {l : List Nat} {j : Nat} (h : j < l.length) : l.getD j 0 = l[j] := (List.getElem_eq_getD 0).symm

/-- Of the pairs of an index list's entries and what becomes of them, the first one for place `i`, `d0` places on. -/
theorem find?_entries {α : Type} (on : List Nat) (g : Nat → Nat → α) (d0 i : Nat) :
    ((List.range on.length).map fun j => (on.getD j 0, g j (on.getD j 0))).find? (fun c => decide (d0 + c.1 = i)) =
      if d0 ≤ i ∧ i - d0 ∈ on then some (i - d0, g (on.idxOf (i - d0)) (i - d0)) else none := by
  rw [List.find?_map]
  by_cases h : d0 ≤ i ∧ i - d0 ∈ on
  · obtain ⟨hle, hmem⟩ := h
    have hlt := List.idxOf_lt_length_of_mem hmem
    have hat : on.getD (on.idxOf (i - d0)) 0 = i - d0 := by rw [getD_of_lt hlt, List.getElem_idxOf]
    have hfirst : (List.range on.length).find? ((fun c : Nat × α => decide (d0 + c.1 = i)) ∘ fun j => (on.getD j 0, g j (on.getD j 0))) =
        some (on.idxOf (i - d0)) := by
      refine List.find?_range_eq_some.2 ⟨?_, List.mem_range.2 hlt, fun j hj => ?_⟩
      · simp only [Function.comp, hat, decide_eq_true_eq]
        omega
      · have hne : on[j]'(Nat.lt_trans hj hlt) ≠ i - d0 := by simpa using List.not_of_lt_findIdx hj
        simp only [Function.comp, getD_of_lt (Nat.lt_trans hj hlt), Bool.not_eq_true', decide_eq_false_iff_not]
        omega
    rw [hfirst, if_pos ⟨hle, hmem⟩, Option.map_some, hat]
  · rw [if_neg h, List.find?_range_eq_none.2, Option.map_none]
    intro j hj
    simp only [Function.comp, getD_of_lt hj, Bool.not_eq_true', decide_eq_false_iff_not]
    exact fun he => h ⟨by omega, by rw [← he, Nat.add_sub_cancel_left]; exact List.getElem_mem hj⟩

section
variable {src dst p : Nat}

theorem vConvert_illegal (h : cvtMap (elemsPerToken src) (elemsPerToken dst) p = none) (s : State) (x : CtxId) (vd vs : Reg) (e : Int)
    (scaled sat grad : Bool) (m : Fin 8) : vConvert x vd vs src dst e scaled sat grad m p s = illegal x s := by
  simp only [vConvert, h]

/-- The destination elements of a conversion that its mask leaves on, from the `d0`th on; the value of source element `i`,
scaled; the conversion of element `i` with draw `j`. -/
def cvtOn (r : CtxRec) (dst d0 n : Nat) (m : Fin 8) : List Nat := (List.range n).filter fun i => dstMask dst (r.readM m) (d0 + i)
def cvtSource (r : CtxRec) (vs : Reg) (src s0 : Nat) (e : Int) (i : Nat) : Val := ((vVals src r.v[vs]).getD (s0 + i) .nan).scale (-e)
def cvtElem (dst : Nat) (sat : Bool) (draws : Option (List Nat)) (y : Nat → Val) (j i : Nat) : Conv :=
  convertVal (eFmt (BitVec.ofNat 5 dst)) sat (drawAt draws j) (y i)

/-- The elements that a conversion makes, in the order of their draws, with the underflows of a scaled one. -/
def cvtList (dst : Nat) (scaled sat : Bool) (draws : Option (List Nat)) (on : List Nat) (y : Nat → Val) : List (Nat × Conv × Bool) :=
  (List.range on.length).map fun j => (on.getD j 0, cvtElem dst sat draws y j (on.getD j 0),
    scaled && belowPow (y (on.getD j 0)) (eFmt (BitVec.ofNat 5 dst)).minNormal)

/-- What a conversion reports of its elements: overflows, lost NaNs, underflows. -/
def cvtReported (x : CtxId) (src : Nat) (cs : List (Nat × Conv × Bool)) (t : State) : State :=
  reportUdf x.c (coreUnit x.c x.k.val) (cs.countP fun c => c.2.2)
    (lostNan x.c (cs.countP fun c => c.2.1.lost) (coreReport x true src (cs.map fun c => ⟨c.2.1.code, c.2.1.ovf, 0⟩) t))

theorem cvtReported_onlyReports (x : CtxId) (src : Nat) (cs : List (Nat × Conv × Bool)) (t : State) :
    OnlyReports t (cvtReported x src cs t) :=
  ((coreReport_onlyReports x true src _ t).trans (lostNan_onlyReports _ _ _)).trans (reportUdf_onlyReports _ _ _ _)

/-- The code of an element converted, or the one that stood there. -/
def codeOr (old : Nat) : Option (Nat × Conv × Bool) → Nat
  | some c => c.2.1.code
  | none => old

/-- The code in place `i` of the destination. -/
theorem codeOr_find?_cvtList (dst d0 i old : Nat) (scaled sat : Bool) (draws : Option (List Nat)) (on : List Nat) (y : Nat → Val) :
    codeOr old ((cvtList dst scaled sat draws on y).find? fun c => decide (d0 + c.1 = i)) =
      if d0 ≤ i ∧ i - d0 ∈ on then (cvtElem dst sat draws y (on.idxOf (i - d0)) (i - d0)).code else old := by
  rw [cvtList, find?_entries on (fun j k => (cvtElem dst sat draws y j k, scaled && belowPow (y k) (eFmt (BitVec.ofNat 5 dst)).minNormal))]
  split <;> rfl

/-- A conversion writes the elements on and keeps the others; beyond that it draws, reports and retires. -/
theorem vConvert_eq {s0 d0 n : Nat} (h : cvtMap (elemsPerToken src) (elemsPerToken dst) p = some (s0, d0, n)) (s : State) (x : CtxId)
    (vd vs : Reg) (e : Int) (scaled sat grad : Bool) (m : Fin 8) :
    let r := ctxRec s x
    let on := cvtOn r dst d0 n m
    let g := coreDraws x grad on.length s
    let y := cvtSource r vs src s0 e
    vConvert x vd vs src dst e scaled sat grad m p s = retire x (wv x vd (BitVec.ofNat 256 (pack (fmtBits dst)
      ((List.range (elemsPerToken dst)).map fun i => if d0 ≤ i ∧ i - d0 ∈ on then
        (cvtElem dst sat g.1 y (on.idxOf (i - d0)) (i - d0)).code else (vCodes dst r.v[vd]).getD i 0)))
      (cvtReported x src (cvtList dst scaled sat g.1 on y) g.2)) := by
  intro r on g y
  simp only [vConvert, h]
  refine congrArg (fun new => retire x (wv x vd (BitVec.ofNat 256 (pack (fmtBits dst) new))
    (cvtReported x src (cvtList dst scaled sat g.1 on y) g.2))) (List.map_congr_left fun i _ => ?_)
  exact codeOr_find?_cvtList dst d0 i ((vCodes dst r.v[vd]).getD i 0) scaled sat g.1 on y

theorem vConvert_converts {s0 d0 n : Nat} (h : cvtMap (elemsPerToken src) (elemsPerToken dst) p = some (s0, d0, n)) (s : State) (x : CtxId)
    (vd vs : Reg) (e : Int) (scaled sat grad : Bool) (m : Fin 8) :
    let r := ctxRec s x
    let on := cvtOn r dst d0 n m
    let draws := (coreDraws x grad on.length s).1
    ∃ u : State, OnlyReports { s with core := u.core } u ∧ ctxRec u x = r ∧
      vConvert x vd vs src dst e scaled sat grad m p s = retire x (wv x vd (BitVec.ofNat 256 (pack (fmtBits dst)
        ((List.range (elemsPerToken dst)).map fun i => if d0 ≤ i ∧ i - d0 ∈ on then
          (cvtElem dst sat draws (cvtSource r vs src s0 e) (on.idxOf (i - d0)) (i - d0)).code else (vCodes dst r.v[vd]).getD i 0))) u) := by
  refine ⟨_, ?_, ?_, vConvert_eq h s x vd vs e scaled sat grad m⟩
  · have hrep := cvtReported_onlyReports x src (cvtList dst scaled sat (coreDraws x grad (cvtOn (ctxRec s x) dst d0 n m).length s).1
      (cvtOn (ctxRec s x) dst d0 n m) (cvtSource (ctxRec s x) vs src s0 e)) (coreDraws x grad (cvtOn (ctxRec s x) dst d0 n m).length s).2
    rw [hrep.core]
    exact hrep
  · exact ctxRec_congr (cvtReported_onlyReports x src _ _).core x

end

/-- Settles O9: scalar and vector instructions by their checks, then by the kind of operation; a conversion by the place of
each element among those converted. -/
theorem floatingAndVectorResults : Obligations.FloatingAndVectorResults := by
  unfold Obligations.FloatingAndVectorResults
  refine ⟨⟨fun s x op fa fb fc rd ra rb rc sat h => ⟨exec_scalarFpOp_unfit h, exec_scalarFpOp_mixed h,
      fun hu hm k => exec_scalarFpOp_compare h hu hm, fun hu hm hk hc => scalarWrite_floats (exec_scalarFpOp_arith h hu hm hk hc),
      fun d hd hu => ?_⟩, fun a b c => ⟨rfl, rfl, rfl, rfl, rfl, rfl, rfl, rfl⟩⟩,
    fun s x op fa fb fc vd va vb vc m sat h => ⟨fun hu => exec_vectorArith_illegal h (.inl hu), exec_vectorArith_mixed h, fun hu hm => ?_⟩,
    fun s x fa fb vd va vb m sat h => ⟨exec_vdot_illegal h, exec_vdot_mixed h, exec_vdot h⟩,
    fun ps acc => ⟨fun ha => dotAdd_nan ha ps, dotAdd_sum, dotAdd_produced⟩,
    fun s x fd vs f m h => ⟨exec_vamax_illegal h, exec_vamax h⟩,
    fun s x fd fa out h => ⟨exec_fscale_illegal h, exec_fscale h⟩,
    fun s x vd vs src dst sat grad m part h => ⟨exec_vcvt_illegal h, exec_vcvt h⟩,
    fun s x vd vs fa src dst sat grad m part h => ⟨exec_vcvts_illegal h, exec_vcvts h⟩,
    fun s x vd vs src dst p e scaled sat grad m => ⟨fun h => vConvert_illegal h s x vd vs e scaled sat grad m,
      fun s0 d0 n h => vConvert_converts h s x vd vs e scaled sat grad m⟩⟩
  · subst hd
    have hconv := exec_scalarFpOp_convert (sat := sat) h hu
    exact ⟨fun hd => by rw [hconv, scalarWrite_int32 hd], scalarWrite_floats hconv⟩
  · refine ⟨exec_vectorArith_lanes h hu hm, fun k hk => ?_, fun i j hop => ⟨fun hout => ?_, exec_vectorArith_move h hu hm hop⟩,
      exec_vectorArith_select h hu hm, exec_vectorArith_sum h hu hm⟩
    · refine ⟨_, exec_vectorArith_compare h hu hm hk, fun i hi => ?_⟩
      rw [BitVec.getLsbD_ofNat, testBit_bitsOf _ hi, decide_eq_true hi, Bool.true_and]
      rfl
    · subst hop
      exact exec_vectorArith_illegal h (.inr (by simpa [moveOut] using hout))

end Sys2Proof.Machine
end

section
/-! PROOFS. The system instructions, and what taking a trap writes (spec/05_training_numerics.md R154, R155, 06_cores.md
R168-R175, R182). -/

namespace Sys2Proof.Machine
open Sys2Proof

/-! ### The system instructions (R154, R155, R168-R172, R182) -/

/-- Words packed low first are appended, the first of them lowest. -/
theorem ofNat_pack_cons (w : Nat) (a : Word) (l : List Nat) :
    BitVec.ofNat (w + 64) (pack 64 (a.toNat :: l)) = BitVec.ofNat w (pack 64 l) ++ a := by
  apply BitVec.eq_of_toNat_eq
  have ha := a.isLt
  rw [BitVec.toNat_append, ← Nat.shiftLeft_add_eq_or_of_lt ha, Nat.shiftLeft_eq, BitVec.toNat_ofNat, BitVec.toNat_ofNat, pack,
    Nat.mod_eq_of_lt ha, Nat.pow_add, Nat.mul_comm (2 ^ w), Nat.mod_mul, Nat.add_mul_mod_self_left, Nat.mod_eq_of_lt ha,
    Nat.add_mul_div_left _ _ (Nat.two_pow_pos 64), Nat.div_eq_of_lt ha, Nat.zero_add, Nat.mul_comm, Nat.add_comm]

theorem ofNat_pack_one (a : Word) : BitVec.ofNat 64 (pack 64 [a.toNat]) = a := by
  rw [pack, pack, Nat.mod_eq_of_lt a.isLt]
  simp

/-- Four successive words of a generator, the first lowest (R154, R170). -/
theorem words_four (g : Gen) : BitVec.ofNat 256 (pack 64 ((g.words 4).1.map (·.toNat))) =
    mix (g.ctr + 3) g.key ++ mix (g.ctr + 2) g.key ++ mix (g.ctr + 1) g.key ++ mix g.ctr g.key := by
  have h2 : g.ctr + 1 + 1 = g.ctr + 2 := BitVec.add_assoc ..
  have h3 : g.ctr + 2 + 1 = g.ctr + 3 := BitVec.add_assoc ..
  simp only [Gen.words, Gen.word, List.map_cons, List.map_nil, h2, h3]
  rw [ofNat_pack_cons 192, ofNat_pack_cons 128, ofNat_pack_cons 64, ofNat_pack_one]

theorem words_four_gen (g : Gen) : (g.words 4).2 = { g with ctr := g.ctr + 4 } := by
  have h : g.ctr + 1 + 1 + 1 + 1 = g.ctr + 4 := by simp only [BitVec.add_assoc]; rfl
  simp only [Gen.words, Gen.word, h]

section
variable {s : State} {x : CtxId}

theorem exec_tide {rd : Reg} (h : Issues s x [.x rd]) : exec (.tide x rd) s = .next (retire x (wx x rd (localTide s x.c) s)) :=
  congrArg Host.Outcome.next (issueInstr_issues h _)

theorem exec_phase {k : BitVec 5} (h : Issues s x []) : exec (.phase x k) s = .next (
    if k = 0 ∨ (4 ≤ k.toNat ∧ k.toNat ≤ 16) then retire x (setCore x.c x.k.val { coreRec s x.c x.k.val with hint := k } s)
    else illegal x s) :=
  congrArg Host.Outcome.next (issueInstr_issues h _)

theorem seedCore_bound {c : Cl} {p : Fin 64} (h : owner s c = some p) (k : Nat) : seedCore c k s =
    setCore c k { coreRec s c k with gen := Gen.seed (numBlock s p).seedBase (coreUnit c k) ((coreRec s c k).act + 1),
                                     act := (coreRec s c k).act + 1 } s := by
  simp only [seedCore, h]

theorem exec_rseed (h : Issues s x []) : exec (.rseed x) s = .next (retire x (seedCore x.c x.k.val s)) :=
  congrArg Host.Outcome.next (issueInstr_issues h _)

theorem exec_vrand {vd : Reg} (h : Issues s x [.v vd]) :
    let r := coreRec s x.c x.k.val
    exec (.vrand x vd) s = .next (retire x (wv x vd
      (mix (r.gen.ctr + 3) r.gen.key ++ mix (r.gen.ctr + 2) r.gen.key ++ mix (r.gen.ctr + 1) r.gen.key ++ mix r.gen.ctr r.gen.key)
      (setCore x.c x.k.val { r with gen := { r.gen with ctr := r.gen.ctr + 4 } } s))) := by
  intro r
  rw [← words_four, ← words_four_gen]
  exact congrArg Host.Outcome.next (issueInstr_issues h _)

theorem exec_iflush (h : Issues s x []) : exec (.iflush x) s =
    .next (retire x (setCore x.c x.k.val { coreRec s x.c x.k.val with lines := [], badLines := [] } s)) :=
  congrArg Host.Outcome.next (issueInstr_issues h _)

theorem exec_brk (h : Issues s x []) : exec (.brk x) s =
    .next (takeTrap x 0x08 0x00 0 (ctxRec s x).pc 0 ((ctxRec s x).pc + 4) (retire x s)) :=
  congrArg Host.Outcome.next (issueInstr_issues h _)

theorem exec_tret {rn : Reg} (h : Issues s x [.x rn]) : exec (.tret x rn) s = .next (
    if (ctxRec s x).inTrap then jumpTo x ((xr s x rn).setWidth 48) (updCtx x (fun r => { r with inTrap := false }) s)
    else illegal x s) :=
  congrArg Host.Outcome.next (issueInstr_issues h _)

theorem exec_halt (h : Issues s x []) : exec (.halt x) s = .next (
    if ((myXacts s x).any fun t => t.use.isStore || t.use.isAtomic) = true then s
    else updCtx x (fun r => { r with state := .idle }) (retire x s)) :=
  congrArg Host.Outcome.next (issueInstr_issues h _)

end

/-! ### Taking a trap (R171, R172, R175) -/

/-- Only the cores differ, and what posting events writes: the trap's counters may wrap (R487). -/
def OnlyCores (s t : State) : Prop := OnlyEvents { s with core := t.core } t

theorem OnlyCores.trans {s t u : State} (h : OnlyCores s t) (g : OnlyCores t u) : OnlyCores s u := by
  unfold OnlyCores OnlyEvents at *
  rw [g, h]

theorem OnlyCores.clusterMem {s t : State} (h : OnlyCores s t) : t.mem.sram = s.mem.sram ∧ t.mem.stack = s.mem.stack := by
  rw [h]
  exact ⟨rfl, rfl⟩

theorem OnlyCores.net {s t : State} (h : OnlyCores s t) : t.net = s.net := by rw [h]

theorem OnlyCores.sync {s t : State} (h : OnlyCores s t) : t.sync = s.sync := by rw [h]

theorem updCtx_onlyCores (x : CtxId) (f : CtxRec → CtxRec) (s : State) : OnlyCores s (updCtx x f s) := rfl

/-- A counter of the core moves, and posts its wrap. -/
theorem coreWrap_onlyCores (c : Cl) (k off : Nat) (old : Word) (n : Nat) (s : State) : OnlyCores s (coreWrap c k off old n s) := by
  unfold OnlyCores
  rw [(coreWrap_only c k off old n s).core]
  exact coreWrap_only c k off old n s

theorem addRaDiscarded_onlyCores (x : CtxId) (n : Nat) (s : State) : OnlyCores s (addRaDiscarded x n s) :=
  OnlyCores.trans (t := setCore _ _ _ s) rfl (coreWrap_onlyCores _ _ _ _ _ _)

theorem endWait_onlyCores (x : CtxId) (s : State) : OnlyCores s (endWait x s) := by
  unfold endWait
  dsimp only
  split
  · exact OnlyCores.trans (t := setCore _ _ _ (setCtx _ _ s)) rfl (coreWrap_onlyCores _ _ _ _ _ _)
  · rfl

theorem dropEntries_onlyCores (x : CtxId) (s : State) : OnlyCores s (dropEntries x s) :=
  OnlyCores.trans (t := setCtx _ _ s) rfl (addRaDiscarded_onlyCores _ _ _)

/-- The object that a core's traps notify, where NOTIFY is set (R172). -/
def trapNote (s : State) (x : CtxId) : Option (BitVec 5) :=
  if (coreRec s x.c x.k.val).note then some (coreRec s x.c x.k.val).noteObj else none

theorem trapNote_updCtx (x y : CtxId) (f : CtxRec → CtxRec) (s : State) : trapNote (updCtx y f s) x = trapNote s x := rfl

theorem trapNote_coreWrap (x : CtxId) (c : Cl) (k off : Nat) (old : Word) (n : Nat) (s : State) :
    trapNote (coreWrap c k off old n s) x = trapNote s x := by
  have hcore : (coreWrap c k off old n s).core = s.core := (coreWrap_only c k off old n s).core
  unfold trapNote coreRec
  rw [hcore]

theorem trapNote_endWait (x : CtxId) (s : State) : trapNote (endWait x s) x = trapNote s x := by
  unfold endWait
  dsimp only
  split
  · rw [trapNote_coreWrap]
    simp [trapNote]
  · rfl

theorem trapNote_dropEntries (x : CtxId) (s : State) : trapNote (dropEntries x s) x = trapNote s x := by
  simp only [dropEntries, addRaDiscarded, trapNote_coreWrap]
  simp [trapNote]

section
variable (x : CtxId) (cause st : Byte) (fmt : BitVec 5) (tpc : BitVec 48) (addr : Word) (s : State)

/-- The waits and the run-ahead of the context are over and its trap is recorded. -/
def trapRecorded : State :=
  updCtx x (fun r => { r with cause := cause, causeStatus := st, causeFormat := fmt, trapPc := tpc, trapAddr := addr, trapped := true })
    (endRunahead x (dropEntries x (endWait x (unwait (.ctx x) s))))

/-- What recording a trap makes of the context's record. -/
def trappedRec (r : CtxRec) : CtxRec :=
  { r with waitKind := 0, waitTarget := 0, wait := none, held := none, entries := [], runahead := false, shadow := none, raLoad := none,
           cause := cause, causeStatus := st, causeFormat := fmt, trapPc := tpc, trapAddr := addr, trapped := true }

theorem trapRecorded_onlyCores : OnlyCores (unwait (.ctx x) s) (trapRecorded x cause st fmt tpc addr s) :=
  (endWait_onlyCores x _).trans <| (dropEntries_onlyCores x _).trans <| (updCtx_onlyCores x _ _).trans (updCtx_onlyCores x _ _)

theorem ctxRec_trapRecorded (y : CtxId) : ctxRec (trapRecorded x cause st fmt tpc addr s) y =
    if y = x then trappedRec cause st fmt tpc addr (ctxRec s x) else ctxRec s y := by
  simp only [trapRecorded, ctxRec_updCtx, ctxRec_endRunahead, ctxRec_dropEntries, ctxRec_endWait, ctxRec_unwait]
  split <;> simp [trappedRec]

theorem trapNote_trapRecorded : trapNote (trapRecorded x cause st fmt tpc addr s) x = trapNote s x :=
  calc trapNote (trapRecorded x cause st fmt tpc addr s) x
    _ = trapNote (dropEntries x (endWait x (unwait (.ctx x) s))) x := by
      rw [trapRecorded, endRunahead, trapNote_updCtx, trapNote_updCtx]
    _ = trapNote (endWait x (unwait (.ctx x) s)) x := trapNote_dropEntries x _
    _ = trapNote s x := trapNote_endWait x _

variable {x cause st fmt tpc addr s} {resume : BitVec 48}

/-- An IDLE context takes no trap, and one that a trap stopped no further one (R171). -/
theorem takeTrap_none (h : (ctxRec s x).state = .idle ∨ ((ctxRec s x).state = .stopped ∧ (ctxRec s x).trapped = true)) :
    takeTrap x cause st fmt tpc addr resume s = s := if_pos h

/-- A running context outside a handler goes on at TRAP_VECTOR (R172). -/
theorem takeTrap_handler (hs : (ctxRec s x).state = .ready ∨ (ctxRec s x).state = .waiting) (hin : (ctxRec s x).inTrap = false)
    (hv : (ctxRec s x).vector ≠ 0) : takeTrap x cause st fmt tpc addr resume s =
      updCtx x (fun r => { r with inTrap := true, state := .ready, pc := r.vector }) (trapRecorded x cause st fmt tpc addr s) := by
  unfold takeTrap
  dsimp only
  rw [if_neg (by rcases hs with e | e <;> simp [e]), if_neg (by rcases hs with e | e <;> simp [e]), if_pos (by simpa [hin] using hv)]
  rfl

/-- Any other running context stops at the address to resume at, and notifies (R172). -/
theorem takeTrap_stops (hs : (ctxRec s x).state = .ready ∨ (ctxRec s x).state = .waiting)
    (h : (ctxRec s x).inTrap = true ∨ (ctxRec s x).vector = 0) : takeTrap x cause st fmt tpc addr resume s =
      notifyOpt x.c ((trapNote s x).map fun o => ⟨x.k.val, o.toNat⟩)
        (updCtx x (fun r => { r with state := .stopped, pc := resume }) (trapRecorded x cause st fmt tpc addr s)) := by
  unfold takeTrap
  dsimp only
  rw [if_neg (by rcases hs with e | e <;> simp [e]), if_neg (by rcases hs with e | e <;> simp [e]),
    if_neg (by rcases h with e | e <;> simp [e]), ← trapNote_trapRecorded x cause st fmt tpc addr s, trapNote]
  change (if (coreRec (trapRecorded x cause st fmt tpc addr s) x.c x.k.val).note = true then _ else _) = _
  split <;> rfl

end

theorem notifyOpt_none (c : Cl) (s : State) : notifyOpt c none s = s := rfl

/-- What notifying makes of the synchronisation state depends on that state alone. -/
theorem notifyOpt_sync {s t : State} (h : t.sync = s.sync) (c : Cl) (n : Option NoteRef) :
    (notifyOpt c n t).sync = (notifyOpt c n s).sync := by
  cases n with
  | none => exact h
  | some n => simp only [notifyOpt, notify, h]

theorem notifyOpt_others (c : Cl) (n : Option NoteRef) (s : State) :
    (notifyOpt c n s).core = s.core ∧ (notifyOpt c n s).mem = s.mem ∧ (notifyOpt c n s).net = s.net := by
  cases n <;> exact ⟨rfl, rfl, rfl⟩

section
variable {x : CtxId} {cause st : Byte} {fmt : BitVec 5} {tpc resume : BitVec 48} {addr : Word} {s : State}

/-- What a trap leaves where its last step changes `f` of the context's record and at most notifies. -/
theorem trap_frame {t : State} {f : CtxRec → CtxRec} (n : Option NoteRef)
    (ht : t = notifyOpt x.c n (updCtx x f (trapRecorded x cause st fmt tpc addr s))) :
    ctxRec t x = f (trappedRec cause st fmt tpc addr (ctxRec s x)) ∧ t.mem.sram = s.mem.sram ∧ t.mem.stack = s.mem.stack ∧
      t.net = s.net ∧ (∀ y, y ≠ x → ctxRec t y = ctxRec s y) ∧
      t.sync = (notifyOpt x.c n (unwait (.ctx x) s)).sync := by
  have hr := (trapRecorded_onlyCores x cause st fmt tpc addr s).trans (updCtx_onlyCores x f _)
  obtain ⟨hsram, hstack⟩ := hr.clusterMem
  obtain ⟨hcore, hmem, hnet⟩ := notifyOpt_others x.c n (updCtx x f (trapRecorded x cause st fmt tpc addr s))
  rw [← ht] at hcore hmem hnet
  have hctx (y : CtxId) : ctxRec t y = if y = x then f (trappedRec cause st fmt tpc addr (ctxRec s x)) else ctxRec s y := by
    rw [ctxRec_congr hcore, ctxRec_updCtx, ctxRec_trapRecorded, ctxRec_trapRecorded, if_pos rfl]
    split <;> rfl
  refine ⟨by rw [hctx, if_pos rfl], by rw [hmem, hsram]; rfl, by rw [hmem, hstack]; rfl, by rw [hnet, hr.net]; rfl,
    fun y hy => by rw [hctx, if_neg hy], by rw [ht]; exact notifyOpt_sync hr.sync _ _⟩

end

/-- Settles O11: each instruction once it issues, then `takeTrap` by whether the context goes on in its handler or stops. -/
theorem systemInstructionsAndTraps : Obligations.SystemInstructionsAndTraps := by
  unfold Obligations.SystemInstructionsAndTraps
  refine ⟨⟨fun s x rd => exec_tide, fun s x k h => ⟨fun hk => ?_, fun hk => ?_⟩, fun s x p h ho => ?_, fun s x vd => exec_vrand,
    fun s x => exec_iflush, fun s x => exec_brk, fun s x rn h => ⟨fun hi => ?_, fun hi => ?_⟩, fun s x h => ⟨fun hx => ?_, fun hx => ?_⟩⟩,
    fun s x cause st fmt tpc resume addr => ⟨fun hs => ?_, takeTrap_none⟩⟩
  · rw [exec_phase h, if_pos hk]
  · rw [exec_phase h, if_neg hk]
  · rw [exec_rseed h, seedCore_bound ho]
  · rw [exec_tret h, if_pos hi]
  · rw [exec_tret h, if_neg (by simp [hi])]
  · have hnone : ¬ ((myXacts s x).any fun t => t.use.isStore || t.use.isAtomic) = true := by
      simpa [List.any_eq_true] using hx
    rw [exec_halt h, if_neg hnone]
  · have hsome : ((myXacts s x).any fun t => t.use.isStore || t.use.isAtomic) = true := by
      simpa [List.any_eq_true] using hx
    rw [exec_halt h, if_pos hsome]
  · by_cases hh : (ctxRec s x).inTrap = false ∧ (ctxRec s x).vector ≠ 0
    · obtain ⟨hin, hv⟩ := hh
      obtain ⟨hu, hsram, hstack, hnet, hothers, hsync⟩ :=
        trap_frame none ((takeTrap_handler (resume := resume) hs hin hv).trans (notifyOpt_none _ _).symm)
      rw [hu]
      exact ⟨rfl, rfl, rfl, rfl, rfl, rfl, rfl, rfl, rfl, rfl, rfl, rfl, rfl, rfl, hsram, hstack, hnet, hothers,
        fun _ _ => ⟨rfl, rfl, rfl, hsync⟩, fun h => absurd h (not_or.2 ⟨Bool.eq_false_iff.1 hin, hv⟩)⟩
    · have hstop : (ctxRec s x).inTrap = true ∨ (ctxRec s x).vector = 0 := by
        cases hin : (ctxRec s x).inTrap with
        | true => exact .inl rfl
        | false => exact .inr (Decidable.byContradiction fun hv => hh ⟨hin, hv⟩)
      obtain ⟨hu, hsram, hstack, hnet, hothers, hsync⟩ := trap_frame _ (takeTrap_stops (resume := resume) hs hstop)
      rw [hu]
      refine ⟨rfl, rfl, rfl, rfl, rfl, rfl, rfl, rfl, rfl, rfl, rfl, rfl, rfl, rfl, hsram, hstack, hnet, hothers,
        fun hin hv => absurd ⟨hin, hv⟩ hh, fun _ => ⟨rfl, rfl, rfl, fun hn => ?_, fun hn => ?_⟩⟩
      · rw [hsync, trapNote, if_neg (Bool.eq_false_iff.1 hn)]; rfl
      · rw [hsync, trapNote, if_pos hn]; rfl

end Sys2Proof.Machine
end

section
/-! PROOFS. The commands that make partitions and bind their beds, stack regions, pumps and ports, and set their timeouts, barriers
and fountains (spec/07_memory.md R192, R194, 08_mesh.md R225, R238, 09_pumps.md R244, 10_sync_and_channels.md R264,
13_host_and_commands.md R363, 14_partitions_and_reset.md R374-R380, 16_ocsal_fabric.md R426). -/

namespace Sys2Proof.Machine
open Sys2Proof

/-! ### Partitions and their VF (R136, R194, R363, R380) -/

theorem vfTaken_iff (s : State) (v : Fin 2 × Fin 64) (but : Option (Fin 64)) :
    vfTaken s v but = true ↔ ∃ p, partOfVf s ⟨v.1, v.2⟩ = some p ∧ some p ≠ but := by
  unfold vfTaken
  split
  · next p hp => simp [hp]
  · next hp => simp [hp]

/-- The state once a partition is made. -/
def partMade (p : Fin 64) (v : Fin 2 × Fin 64) (s : State) : State :=
  setEnergy p {} (setPart p (some { port := v.1, vf := v.2 })
    (setNum p { seedBase := (takeFree s).1 } (drawKey p (takeFree s).2)))

theorem partOf_partMade (p q : Fin 64) (v : Fin 2 × Fin 64) (s : State) :
    partOf (partMade p v s) q = if q = p then some { port := v.1, vf := v.2 } else partOf s q :=
  partOf_setPart p q _ _

theorem numBlock_partMade (p q : Fin 64) (v : Fin 2 × Fin 64) (s : State) :
    numBlock (partMade p v s) q = if q = p then { seedBase := Config.free s.freeCount } else numBlock s q :=
  numBlock_setNum p q _ _

theorem partMade_others (p : Fin 64) (v : Fin 2 × Fin 64) (s : State) :
    (partMade p v s).mem = { s.mem with keys := s.mem.keys.set 0 p.val (Config.free (s.freeCount + 1)) } ∧
      (partMade p v s).core = s.core ∧ (partMade p v s).net = s.net ∧ (partMade p v s).host = s.host := by
  have hdraw : (drawKey p (takeFree s).2).mem = { s.mem with keys := s.mem.keys.set 0 p.val (Config.free (s.freeCount + 1)) } := rfl
  simp only [partMade, setEnergy, setPart_mem, setPart_core, setPart_net, setPart_host, setNum_mem, setNum_core, setNum_net, setNum_host,
    hdraw, true_and]
  exact ⟨rfl, rfl, rfl⟩

theorem energyOf_setEnergy_self (p : Fin 64) (e : Energy) (s : State) : energyOf (setEnergy p e s) p = e :=
  SMap.get_set_self _ _ _ _

section
variable {s : State} {k : CmdKey} {c : Cmd}

theorem exec_partCreate_noVf (h : Runs s k 0x0201 c) (hv : (vfParam c).2 = 0) :
    exec (.partCreate k) s = .next (complete k 0x03 [] s) :=
  congrArg Host.Outcome.next ((runCmd_any h _).trans (if_pos hv))

/-- What PART_CREATE does for a VF, by whether its number or the VF is in use. -/
theorem exec_partCreate {p : Fin 64} (h : Runs s k 0x0201 c) (hp : cmdPart c.raw = p.val) (hv : (vfParam c).2 ≠ 0) :
    exec (.partCreate k) s = .next (if ((partOf s p).isSome || vfTaken s (vfParam c) none) = true then complete k 0x04 [] s
      else complete k 0x00 [] (partMade p (vfParam c) s)) := by
  have hn : Fin.ofNat 64 (cmdPart c.raw) = p := by rw [hp]; exact Fin.ofNat_val_eq_self p
  subst hn
  exact congrArg Host.Outcome.next ((runCmd_any h _).trans (if_neg hv))

variable {p : Fin 64} {r : PartRec}

theorem exec_partSetVf (h : RunsIn s k 0x0203 c p r) : exec (.partSetVf k) s = .next (
    if (vfParam c).2 = 0 then complete k 0x03 [] s
    else if vfTaken s (vfParam c) (some p) = true then complete k 0x04 [] s
    else complete k 0x00 [] (setPart p (some { r with port := (vfParam c).1, vf := (vfParam c).2 }) s)) :=
  congrArg Host.Outcome.next (runCmd_runsIn h rfl _)

theorem exec_partDelete (h : RunsIn s k 0x0202 c p r) :
    exec (.partDelete k) s = .next (startReset 3 true (markStarted c s) p) :=
  congrArg Host.Outcome.next (runCmd_runsIn h rfl _)

end

/-! ### Clusters that are bound and that leave (R155, R377, R378) -/

/-- A fold of steps that each keep a part of the state keeps it. -/
theorem foldl_keeps {α β : Type} (f : State → β) {g : State → α → State} (h : ∀ s a, f (g s a) = f s) (l : List α) (s : State) :
    f (l.foldl g s) = f s := by
  induction l generalizing s with
  | nil => rfl
  | cons a l ih => exact (ih _).trans (h s a)

/-- A fold of steps that each give one cluster the owner `v` gives it to those of the list. -/
theorem foldl_owner {v : Option (Fin 64)} {g : State → Cl → State} (h : ∀ s c x, owner (g s c) x = if x = c then v else owner s x)
    (l : List Cl) (s : State) (x : Cl) : owner (l.foldl g s) x = if x ∈ l then v else owner s x := by
  induction l generalizing s with
  | nil => simp
  | cons c l ih =>
    rw [List.foldl_cons, ih, h]
    by_cases hl : x ∈ l <;> by_cases hc : x = c <;> simp [hl, hc]

theorem owner_congr {s t : State} (h : t.part = s.part) (x : Cl) : owner t x = owner s x := by
  unfold owner; rw [h]

theorem owner_rebind (s : State) (c x : Cl) (v : Option (Fin 64)) :
    owner { s with part := { s.part with bind := s.part.bind.set none (ck c) v } } x = if x = c then v else owner s x := by
  simp only [owner, SMap.get_set, ck_eq]

theorem seedCore_part_t (c : Cl) (k : Nat) (s : State) : ((seedCore c k s).part, (seedCore c k s).t) = (s.part, s.t) := by
  unfold seedCore
  dsimp only
  split <;> rfl

theorem clearGens_part_t (c : Cl) (s : State) : ((clearGens c s).part, (clearGens c s).t) = (s.part, s.t) := by
  unfold clearGens
  dsimp only
  rw [foldl_keeps (fun s => s.part) (fun s t => by rw [setIo_part, setSf_part]),
    foldl_keeps (fun s => s.t) (fun s t => by rw [setIo_t, setSf_t]),
    foldl_keeps (fun s => s.part) (fun s k => setCore_part _ _ _ _), foldl_keeps (fun s => s.t) (fun s k => setCore_t _ _ _ _)]

/-- Binding a cluster binds it, and of partitions and time changes nothing else. -/
theorem bindCluster_part_now (p : Fin 64) (s : State) (c : Cl) : ((bindCluster p s c).part, (bindCluster p s c).t.now) =
    ({ s.part with bind := s.part.bind.set none (ck c) (some p) }, s.t.now) := by
  have hwake (u : State) (b : Bool) : (if b = true then setSleep c .awake (zeroCluster c u) else u).part = u.part ∧
      (if b = true then setSleep c .awake (zeroCluster c u) else u).t.now = u.t.now := by
    cases b <;> exact ⟨rfl, rfl⟩
  have hseed (u : State) (b : Bool) : (if b = true then (List.range 24).foldl (fun s k => seedCore c k s) u else u).part = u.part ∧
      (if b = true then (List.range 24).foldl (fun s k => seedCore c k s) u else u).t = u.t := by
    cases b
    · exact ⟨rfl, rfl⟩
    · exact Prod.mk.inj (foldl_keeps (fun s => (s.part, s.t)) (fun s k => seedCore_part_t c k s) (List.range 24) u)
  have hgens (u : State) := Prod.mk.inj (clearGens_part_t c u)
  simp only [bindCluster, (hseed _ _).1, (hseed _ _).2, (hgens _).1, (hgens _).2, (hwake _ _).1, (hwake _ _).2]

theorem owner_bindCluster (p : Fin 64) (s : State) (c x : Cl) :
    owner (bindCluster p s c) x = if x = c then some p else owner s x :=
  (owner_congr (s := { s with part := _ }) (Prod.mk.inj (bindCluster_part_now p s c)).1 x).trans (owner_rebind s c x (some p))

theorem bindClusters_parts_now (p : Fin 64) (l : List Cl) (s : State) :
    ((l.foldl (bindCluster p) s).part.parts, (l.foldl (bindCluster p) s).t.now) = (s.part.parts, s.t.now) := by
  refine foldl_keeps (fun s => (s.part.parts, s.t.now)) (fun s c => ?_) l s
  obtain ⟨hpart, hnow⟩ := Prod.mk.inj (bindCluster_part_now p s c)
  simp only [hpart, hnow]

theorem owner_unbindCluster (s : State) (c x : Cl) : owner (unbindCluster s c) x = if x = c then none else owner s x :=
  calc owner (unbindCluster s c) x
    _ = if x = c then none else owner (clearSends c (clearGens c s)) x := owner_rebind (clearSends c (clearGens c s)) c x none
    _ = if x = c then none else owner s x := by
      rw [owner_congr (s := s) (t := clearSends c (clearGens c s)) (Prod.mk.inj (clearGens_part_t c s)).1]

theorem owner_leaveClusters (p : Fin 64) {cs : List Cl} (s : State) {x : Cl} (h : x ∈ cs) : owner (leaveClusters p cs s) x = none :=
  (foldl_owner owner_unbindCluster cs _ x).trans (if_pos h)

/-! ### Beds (R374, R377, R378) -/

/-- The beds of a buffer that the partition does not hold yet. -/
def bedsNew (r : PartRec) (named : List Nat) : List Nat := (named.filter fun b => !r.beds.contains b).eraseDups

/-- A live cluster of the beds is parked, so that binding powers it up (R377). -/
def bedsParked (new : List Nat) (s : State) : Bool := (new.flatMap bedClusters).any fun x => clLive s x && sleepOf s x == .off

/-- The partition holds its new beds, and time has passed for those that were parked. -/
def bedsHeld (p : Fin 64) (r : PartRec) (new : List Nat) (s : State) : State :=
  setPart p (some { r with beds := sortBeds (r.beds ++ new), state := .active })
    (if bedsParked new s = true then waitUntil s (s.t.now + usec 92) else s)

/-- The state once the clusters of the new beds are bound. -/
def bedsBound (p : Fin 64) (r : PartRec) (new : List Nat) (s : State) : State :=
  ((new.flatMap bedClusters).filter fun x => !isWellhead (bedsHeld p r new s) x).foldl (bindCluster p) (bedsHeld p r new s)

section
variable (p : Fin 64) (r : PartRec) (new : List Nat) (s : State)

theorem isWellhead_bedsHeld (x : Cl) : isWellhead (bedsHeld p r new s) x = isWellhead s x := by
  unfold bedsHeld
  split <;> rfl

theorem owner_bedsHeld (x : Cl) : owner (bedsHeld p r new s) x = owner s x := by
  unfold bedsHeld
  split <;> rfl

theorem now_bedsHeld : (bedsHeld p r new s).t.now = if bedsParked new s = true then s.t.now + usec 92 else s.t.now := by
  unfold bedsHeld
  split
  · exact Nat.max_eq_right (Nat.le_add_right _ _)
  · rfl

theorem partOf_bedsHeld (q : Fin 64) : partOf (bedsHeld p r new s) q =
    if q = p then some { r with beds := sortBeds (r.beds ++ new), state := .active } else partOf s q := by
  rw [bedsHeld, partOf_setPart]
  split
  · rfl
  · split <;> rfl

theorem partOf_bedsBound (q : Fin 64) : partOf (bedsBound p r new s) q =
    if q = p then some { r with beds := sortBeds (r.beds ++ new), state := .active } else partOf s q := by
  have hparts := (Prod.mk.inj (bindClusters_parts_now p
    ((new.flatMap bedClusters).filter fun x => !isWellhead (bedsHeld p r new s) x) (bedsHeld p r new s))).1
  rw [← partOf_bedsHeld, partOf, bedsBound, hparts]
  rfl

theorem now_bedsBound : (bedsBound p r new s).t.now = if bedsParked new s = true then s.t.now + usec 92 else s.t.now :=
  (Prod.mk.inj (bindClusters_parts_now p _ (bedsHeld p r new s))).2.trans (now_bedsHeld p r new s)

theorem owner_bedsBound (x : Cl) : owner (bedsBound p r new s) x =
    if (∃ b ∈ new, x ∈ bedClusters b) ∧ isWellhead s x = false then some p else owner s x := by
  rw [bedsBound, foldl_owner (owner_bindCluster p), owner_bedsHeld]
  simp only [List.mem_filter, List.mem_flatMap, isWellhead_bedsHeld, Bool.not_eq_true']

end

section
variable {s : State} {k : CmdKey} {c : Cmd} {p : Fin 64} {r : PartRec}

/-- A buffer that cannot be read, and one that names no beds (R362, R363). -/
theorem exec_beds_unread (h : RunsIn s k 0x0204 c p r) {st : Byte} (hd : takeData s c 2 = .inl st) :
    (bedsKind c.raw = false → exec (.bedsBind k) s = .next (complete k st [] s)) ∧
    (bedsKind c.raw = true → exec (.bedsUnbind k) s = .next (complete k st [] s)) := by
  refine ⟨fun hk => congrArg Host.Outcome.next ((runCmd_runsIn h (by simp [hk]) _).trans ?_),
    fun hk => congrArg Host.Outcome.next ((runCmd_runsIn h hk _).trans ?_)⟩ <;> simp only [hd]

theorem exec_beds_badBuffer (h : RunsIn s k 0x0204 c p r) {d : List Byte} (hd : takeData s c 2 = .inr d) (hb : bedEntries d = none) :
    (bedsKind c.raw = false → exec (.bedsBind k) s = .next (complete k 0x03 [] s)) ∧
    (bedsKind c.raw = true → exec (.bedsUnbind k) s = .next (complete k 0x03 [] s)) := by
  refine ⟨fun hk => congrArg Host.Outcome.next ((runCmd_runsIn h (by simp [hk]) _).trans ?_),
    fun hk => congrArg Host.Outcome.next ((runCmd_runsIn h hk _).trans ?_)⟩ <;> simp only [hd, hb]

variable {d : List Byte} {named : List Nat}

theorem exec_bedsBind (h : RunsIn s k 0x0204 c p r) (hd : takeData s c 2 = .inr d) (hb : bedEntries d = some named)
    (hk : bedsKind c.raw = false) : exec (.bedsBind k) s = .next (
      if (!bedsConnected (sortBeds (r.beds ++ bedsNew r named))) = true then complete k 0x03 [] s
      else if ((bedsNew r named).any fun b => (bedOwner s b).isSome) = true then complete k 0x07 [] s
      else if ((bedsNew r named).any fun b => (bedClusters b).all fun x => !clLive s x) = true then complete k 0x09 [] s
      else complete k 0x00 (leBytes 4 (boundLive (bedsBound p r (bedsNew r named) s) p)) (bedsBound p r (bedsNew r named) s)) := by
  refine congrArg Host.Outcome.next ((runCmd_runsIn h (by simp [hk]) _).trans ?_)
  simp only [hd, hb]
  rfl

/-- The partition's record after clusters have left it with their beds. -/
def bedsLeft (p : Fin 64) (beds : List Nat) (s : State) : State :=
  match partOf s p with
  | some r => setPart p (some { r with beds := beds, state := if beds.isEmpty then .empty else .active }) s
  | none => s

theorem bedsLeft_some {q : PartRec} (hq : partOf s p = some q) (beds : List Nat) :
    bedsLeft p beds s = setPart p (some { q with beds := beds, state := if beds = [] then .empty else .active }) s := by
  simp only [bedsLeft, hq, List.isEmpty_iff]

/-- The clusters of the named beds that are the partition's. -/
def bedsGone (s : State) (p : Fin 64) (named : List Nat) : List Cl :=
  (named.eraseDups.flatMap bedClusters).filter fun x => owner s x == some p

theorem exec_bedsUnbind (h : RunsIn s k 0x0204 c p r) (hd : takeData s c 2 = .inr d) (hb : bedEntries d = some named)
    (hk : bedsKind c.raw = true) :
    let beds := r.beds.filter fun b => !named.contains b
    let u := bedsLeft p beds (leaveClusters p (bedsGone s p named) s)
    exec (.bedsUnbind k) s = .next (
      if (!bedsConnected beds) = true then complete k 0x03 [] s
      else if (named.any fun b => !r.beds.contains b) = true then complete k 0x04 [] s
      else complete k 0x00 (leBytes 4 (boundLive u p)) u) := by
  refine congrArg Host.Outcome.next ((runCmd_runsIn h hk _).trans ?_)
  simp only [hd, hb]
  rfl

end

/-- The clauses of BEDS with D5[0] 0 (R363, R374, R377). -/
theorem bedsBind_cases {s : State} {k : CmdKey} {c : Cmd} {p : Fin 64} {r : PartRec} {d : List Byte} {named : List Nat}
    (h : RunsIn s k 0x0204 c p r) (hd : takeData s c 2 = .inr d) (hb : bedEntries d = some named) (hk : bedsKind c.raw = false) :
    let new := bedsNew r named
    let taken : Prop := ∃ b ∈ new, (bedOwner s b).isSome = true
    let dry : Prop := ∃ b ∈ new, ∀ x ∈ bedClusters b, clLive s x = false
    let u := bedsBound p r new s
    (bedsConnected (sortBeds (r.beds ++ new)) = false → exec (.bedsBind k) s = .next (complete k 0x03 [] s)) ∧
    (bedsConnected (sortBeds (r.beds ++ new)) = true → taken → exec (.bedsBind k) s = .next (complete k 0x07 [] s)) ∧
    (bedsConnected (sortBeds (r.beds ++ new)) = true → ¬ taken → dry → exec (.bedsBind k) s = .next (complete k 0x09 [] s)) ∧
    (bedsConnected (sortBeds (r.beds ++ new)) = true → ¬ taken → ¬ dry →
      exec (.bedsBind k) s = .next (complete k 0x00 (leBytes 4 (boundLive u p)) u)) := by
  intro new taken dry u
  have htaken : (new.any fun b => (bedOwner s b).isSome) = true ↔ taken := List.any_eq_true
  have hdry : (new.any fun b => (bedClusters b).all fun x => !clLive s x) = true ↔ dry := by
    simp only [dry, List.any_eq_true, List.all_eq_true, Bool.not_eq_true']
  rw [exec_bedsBind h hd hb hk]
  refine ⟨fun hc => ?_, fun hc ht => ?_, fun hc ht hy => ?_, fun hc ht hy => ?_⟩
  · rw [if_pos (by rw [hc]; rfl)]
  · rw [if_neg (by rw [hc]; decide), if_pos (htaken.2 ht)]
  · rw [if_neg (by rw [hc]; decide), if_neg (mt htaken.1 ht), if_pos (hdry.2 hy)]
  · rw [if_neg (by rw [hc]; decide), if_neg (mt htaken.1 ht), if_neg (mt hdry.1 hy)]

/-- The clauses of BEDS with D5[0] 1 (R363, R374, R378). -/
theorem bedsUnbind_cases {s : State} {k : CmdKey} {c : Cmd} {p : Fin 64} {r : PartRec} {d : List Byte} {named : List Nat}
    (h : RunsIn s k 0x0204 c p r) (hd : takeData s c 2 = .inr d) (hb : bedEntries d = some named) (hk : bedsKind c.raw = true) :
    let beds := r.beds.filter fun b => !named.contains b
    let left := leaveClusters p (bedsGone s p named) s
    (bedsConnected beds = false → exec (.bedsUnbind k) s = .next (complete k 0x03 [] s)) ∧
    (bedsConnected beds = true → (∃ b ∈ named, b ∉ r.beds) → exec (.bedsUnbind k) s = .next (complete k 0x04 [] s)) ∧
    (bedsConnected beds = true → (∀ b ∈ named, b ∈ r.beds) → ∀ q, partOf left p = some q →
      let u := setPart p (some { q with beds := beds, state := if beds = [] then .empty else .active }) left
      exec (.bedsUnbind k) s = .next (complete k 0x00 (leBytes 4 (boundLive u p)) u)) := by
  intro beds left
  have hforeign : (named.any fun b => !r.beds.contains b) = true ↔ ∃ b ∈ named, b ∉ r.beds := by
    simp [List.any_eq_true]
  rw [exec_bedsUnbind h hd hb hk]
  refine ⟨fun hc => ?_, fun hc hf => ?_, fun hc hf q hq => ?_⟩
  · rw [if_pos (by rw [hc]; rfl)]
  · rw [if_neg (by rw [hc]; decide), if_pos (hforeign.2 hf)]
  · have hown : ¬ ∃ b ∈ named, b ∉ r.beds := fun ⟨b, hb, hn⟩ => hn (hf b hb)
    intro u
    rw [if_neg (by rw [hc]; decide), if_neg (mt hforeign.1 hown), bedsLeft_some hq]

/-! ### Stack regions (R192, R195, R363, R379) -/

theorem mem_freeStackPages (s : State) (n : Fin 48) (i : Nat) : i ∈ freeStackPages s n ↔ i < stackPages s.boot.variant ∧
    (s.mem.pages.get {} (n.val * 64 + i)).holder = none ∧ (s.mem.pages.get {} (n.val * 64 + i)).dry = false ∧
    n.val * 64 + i ∉ s.boot.retired := by
  simp [freeStackPages, and_assoc]

/-- A region that SET_REGION asks for has a size and place that its stacks and the map have (R192, R379). -/
abbrev regionShape (raw : BitVec 512) : Prop :=
  1 ≤ regPages raw ∧ regPages raw ≤ 3072 ∧ regStacks raw ≠ [] ∧ regPages raw % (regStacks raw).length = 0 ∧
    regStart raw + regPages raw ≤ 4096

/-- It lies over a region that the partition has. -/
abbrev regionMeets (r : PartRec) (raw : BitVec 512) : Prop :=
  ∃ j o, r.regions[(j : Fin 16)] = some o ∧ rangesMeet (regStart raw) (regPages raw) o.start (regionSize o) = true

/-- The pages it takes of each stack: the lowest free ones. -/
def regionPhys (s : State) (raw : BitVec 512) : List (List Nat) :=
  (regStacks raw).map fun x => (freeStackPages s x).take (regPages raw / (regStacks raw).length)

/-- The entry that SET_REGION makes. -/
def regionMade (s : State) (raw : BitVec 512) : StackRegion :=
  { start := regStart raw, linear := bit (cmdD raw 2) 4, members := regStacks raw,
    depth := regPages raw / (regStacks raw).length, phys := regionPhys s raw }

theorem regionShape_iff (raw : BitVec 512) : (regPages raw = 0 ∨ 3072 < regPages raw ∨ (regStacks raw).isEmpty = true ∨
    regPages raw % (regStacks raw).length ≠ 0 ∨ 4096 < regStart raw + regPages raw) ↔ ¬ regionShape raw := by
  rw [List.isEmpty_iff]
  constructor
  · rintro hbad ⟨h1, h2, h3, h4, h5⟩
    rcases hbad with h | h | h | h | h
    · omega
    · omega
    · exact h3 h
    · exact h h4
    · omega
  · intro hn
    refine Decidable.byContradiction fun hall => ?_
    simp only [not_or, Nat.not_lt, Decidable.not_not] at hall
    obtain ⟨h1, h2, h3, h4, h5⟩ := hall
    exact hn ⟨Nat.one_le_iff_ne_zero.2 h1, h2, h3, h4, h5⟩

theorem regionMeets_iff (r : PartRec) (raw : BitVec 512) :
    ((r.regions.toList.filterMap id).any fun o => rangesMeet (regStart raw) (regPages raw) o.start (regionSize o)) = true ↔
      regionMeets r raw := by
  have hmem (o : StackRegion) : some o ∈ r.regions.toList ↔ ∃ j : Fin 16, r.regions[j] = some o := by
    rw [Vector.mem_toList_iff, Vector.mem_iff_getElem]
    exact ⟨fun ⟨i, hi, e⟩ => ⟨⟨i, hi⟩, e⟩, fun ⟨j, e⟩ => ⟨j.val, j.isLt, e⟩⟩
  simp only [List.any_eq_true, List.mem_filterMap, id, exists_eq_right, hmem]
  exact ⟨fun ⟨o, ⟨j, hj⟩, hm⟩ => ⟨j, o, hj, hm⟩, fun ⟨j, o, hj, hm⟩ => ⟨o, ⟨j, hj⟩, hm⟩⟩

section
variable {s : State} {k : CmdKey} {c : Cmd} {p : Fin 64} {r : PartRec}

theorem exec_setRegionBind (h : RunsIn s k 0x0206 c p r) (hv : regValid c.raw = true) : exec (.setRegionBind k) s = .next (
    if regPages c.raw = 0 ∨ 3072 < regPages c.raw ∨ (regStacks c.raw).isEmpty = true ∨
      regPages c.raw % (regStacks c.raw).length ≠ 0 ∨ 4096 < regStart c.raw + regPages c.raw then complete k 0x03 [] s
    else if ((regStacks c.raw).any fun x => s.net.dry.stk.getLsbD x.val) = true then complete k 0x03 [] s
    else if (r.regions[regIndex c.raw]).isSome = true then complete k 0x04 [] s
    else if ((r.regions.toList.filterMap id).any fun o =>
      rangesMeet (regStart c.raw) (regPages c.raw) o.start (regionSize o)) = true then complete k 0x03 [] s
    else if ((regionPhys s c.raw).any fun l => l.length < regPages c.raw / (regStacks c.raw).length) = true then complete k 0x07 [] s
    else complete k 0x00 [] (rekeySet (some p) 0 ((regionPages (regionMade s c.raw)).map fun e => (e.1, some p, e.2))
      (setPart p (some { r with regions := vset r.regions (regIndex c.raw) (some (regionMade s c.raw)) }) s))) :=
  congrArg Host.Outcome.next (runCmd_runsIn h hv _)

/-- The clauses of SET_REGION with VALID 1 (R363, R379). -/
theorem setRegionBind_cases (h : RunsIn s k 0x0206 c p r) (hv : regValid c.raw = true) :
    let i := regIndex c.raw
    let shape := regionShape c.raw
    let dry : Prop := ∃ x ∈ regStacks c.raw, s.net.dry.stk.getLsbD x.val = true
    let short : Prop := ∃ l ∈ regionPhys s c.raw, l.length < regPages c.raw / (regStacks c.raw).length
    let bad (st : Byte) : Prop := exec (.setRegionBind k) s = .next (complete k st [] s)
    (¬ shape → bad 0x03) ∧ (shape → dry → bad 0x03) ∧ (shape → ¬ dry → (r.regions[i]).isSome = true → bad 0x04) ∧
    (shape → ¬ dry → r.regions[i] = none → regionMeets r c.raw → bad 0x03) ∧
    (shape → ¬ dry → r.regions[i] = none → ¬ regionMeets r c.raw → short → bad 0x07) ∧
    (shape → ¬ dry → r.regions[i] = none → ¬ regionMeets r c.raw → ¬ short →
      exec (.setRegionBind k) s = .next (complete k 0x00 [] (rekeySet (some p) 0
        ((regionPages (regionMade s c.raw)).map fun e => (e.1, some p, e.2))
        (setPart p (some { r with regions := vset r.regions i (some (regionMade s c.raw)) }) s)))) := by
  intro i shape dry short bad
  have hdry : ((regStacks c.raw).any fun x => s.net.dry.stk.getLsbD x.val) = true ↔ dry := List.any_eq_true
  have hshort : ((regionPhys s c.raw).any fun l => l.length < regPages c.raw / (regStacks c.raw).length) = true ↔ short := by
    simp only [short, List.any_eq_true, decide_eq_true_eq]
  have hfits (hs : shape) := mt (regionShape_iff c.raw).1 (not_not_intro hs)
  have hfree (hi : r.regions[i] = none) : ¬ (r.regions[i]).isSome = true := by simp [hi]
  simp only [bad]
  rw [exec_setRegionBind h hv]
  refine ⟨fun hs => ?_, fun hs hd => ?_, fun hs hd hi => ?_, fun hs hd hi hm => ?_, fun hs hd hi hm ht => ?_, fun hs hd hi hm ht => ?_⟩
  · rw [if_pos ((regionShape_iff _).2 hs)]
  · rw [if_neg (hfits hs), if_pos (hdry.2 hd)]
  · rw [if_neg (hfits hs), if_neg (mt hdry.1 hd), if_pos hi]
  · rw [if_neg (hfits hs), if_neg (mt hdry.1 hd), if_neg (hfree hi), if_pos ((regionMeets_iff _ _).2 hm)]
  · rw [if_neg (hfits hs), if_neg (mt hdry.1 hd), if_neg (hfree hi), if_neg (mt (regionMeets_iff _ _).1 hm), if_pos (hshort.2 ht)]
  · rw [if_neg (hfits hs), if_neg (mt hdry.1 hd), if_neg (hfree hi), if_neg (mt (regionMeets_iff _ _).1 hm), if_neg (mt hshort.1 ht)]

theorem exec_setRegionFree_invalid (h : RunsIn s k 0x0206 c p r) (hv : regValid c.raw = false) (hi : r.regions[regIndex c.raw] = none) :
    exec (.setRegionFree k) s = .next (complete k 0x00 [] s) := by
  refine congrArg Host.Outcome.next ((runCmd_runsIn h (by simp [hv]) _).trans ?_)
  simp only [hi]

theorem exec_setRegionFree (h : RunsIn s k 0x0206 c p r) (hv : regValid c.raw = false) {g : StackRegion}
    (hi : r.regions[regIndex c.raw] = some g) : exec (.setRegionFree k) s = .next (complete k 0x00 []
      (freePages p ((regionPages g).map (·.1)) (fun n => decide (g.start ≤ n) && decide (n < g.start + regionSize g))
        (setPart p (some { r with regions := vset r.regions (regIndex c.raw) none }) s))) := by
  refine congrArg Host.Outcome.next ((runCmd_runsIn h (by simp [hv]) _).trans ?_)
  simp only [hi]

end

/-! ### Pump channels, ports and timeouts (R238, R244, R380, R426) -/

theorem chanOf_setChan_self (ch : ChanId) (r : ChanRec) (s : State) : chanOf (setChan ch r s) ch = r := SMap.get_set_self _ _ _ _

/-- An aborted channel is IDLE with no descriptor queued (R256). -/
theorem chanOf_abortChan (ch : ChanId) (loud : Bool) (s : State) :
    (chanOf (abortChan ch loud s) ch).queue = [] ∧ (chanOf (abortChan ch loud s) ch).state = .idle := by
  unfold abortChan
  dsimp only
  split
  · rw [chanOf_setChan_self]; exact ⟨rfl, rfl⟩
  · next hq =>
    rw [List.getLast?_eq_none_iff] at hq
    rw [chanOf_setChan_self]
    cases loud <;> simp [hq]

theorem timeoutIn_iff (lo hi v : Nat) : timeoutIn lo hi v = true ↔ v = 0 ∨ lo ≤ v ∧ v ≤ hi := by
  simp [timeoutIn]

section
variable {s : State} {k : CmdKey} {c : Cmd}

theorem exec_bindPump (h : Runs s k 0x0207 c) :
    let n := fld (cmdD c.raw 2) 0 6
    let ch : ChanId := .stack (Fin.ofNat 48 n) (Fin.ofNat 16 (fld (cmdD c.raw 2) 8 4))
    let u := abortChan ch true s
    exec (.bindPump k) s = .next (if 48 ≤ n then complete k 0x03 [] s
      else complete k 0x00 [] (setChan ch { chanOf u ch with owner := cmdTarget u c } u)) :=
  congrArg Host.Outcome.next (runCmd_any h _)

theorem exec_bindPort_unbind (h : Runs s k 0x0208 c) (ht : cmdTarget s c = none) :
    let port : Fin 16 := Fin.ofNat 16 (cmdD c.raw 2)
    exec (.bindPort k) s = .next (complete k 0x00 [] (setPort port { portRec s port with bound := none } s)) := by
  refine congrArg Host.Outcome.next ((runCmd_any h _).trans ?_)
  simp only [ht]

theorem exec_bindPort (h : Runs s k 0x0208 c) {p : Fin 64} (ht : cmdTarget s c = some p) :
    let port : Fin 16 := Fin.ofNat 16 (cmdD c.raw 2)
    exec (.bindPort k) s = .next (if portDry s port = true then complete k 0x09 [] s
      else if ((portRec s port).bound.isSome && (portRec s port).bound != some p) = true then complete k 0x04 [] s
      else complete k 0x00 [] (setPort port { portRec s port with bound := some p } s)) := by
  refine congrArg Host.Outcome.next ((runCmd_any h _).trans ?_)
  simp only [ht]

/-- A port is another partition's. -/
theorem boundElsewhere_iff (b : Option (Fin 64)) (p : Fin 64) : (b.isSome && b != some p) = true ↔ ∃ q, b = some q ∧ q ≠ p := by
  cases b <;> simp

theorem exec_setTimeouts {p : Fin 64} {r : PartRec} (h : RunsIn s k 0x0209 c p r) :
    let m := cmdD c.raw 2
    let o := cmdD c.raw 3
    let h := cmdD c.raw 4
    exec (.setTimeouts k) s = .next (
      if (!timeoutIn 2 1000 m || !timeoutIn 100 100000 o || !timeoutIn 100 100000 h) = true then complete k 0x03 [] s
      else complete k 0x00 [] (setPart p (some { r with
        mesh := if m = 0 then r.mesh else m, remote := if o = 0 then r.remote else o, host := if h = 0 then r.host else h }) s)) :=
  congrArg Host.Outcome.next (runCmd_runsIn h rfl _)

theorem timeouts_iff (m o h : Nat) : (!timeoutIn 2 1000 m || !timeoutIn 100 100000 o || !timeoutIn 100 100000 h) = true ↔
    ¬ ((m = 0 ∨ 2 ≤ m ∧ m ≤ 1000) ∧ (o = 0 ∨ 100 ≤ o ∧ o ≤ 100000) ∧ (h = 0 ∨ 100 ≤ h ∧ h ≤ 100000)) := by
  simp only [← timeoutIn_iff, Bool.or_eq_true, Bool.not_eq_true', ← Bool.not_eq_true, Decidable.not_and_iff_not_or_not, or_assoc]

end

/-! ### Barriers and fountains (R225, R264, R363) -/

theorem length_eraseDups_le {α : Type} [BEq α] : ∀ l : List α, l.eraseDups.length ≤ l.length
  | [] => by simp
  | a :: l => by
    rw [List.eraseDups_cons, List.length_cons, List.length_cons]
    exact Nat.succ_le_succ (Nat.le_trans (length_eraseDups_le _) (List.length_filter_le _ l))
termination_by l => l.length
decreasing_by exact Nat.lt_succ_of_le (List.length_filter_le _ l)

/-- A list that loses nothing with its repetitions has none. -/
theorem nodup_of_length_eraseDups {α : Type} [BEq α] [LawfulBEq α] {l : List α} (h : l.eraseDups.length = l.length) : l.Nodup := by
  induction l with
  | nil => exact List.nodup_nil
  | cons a l ih =>
    rw [List.eraseDups_cons, List.length_cons, List.length_cons, Nat.succ_inj] at h
    have hkept : l.filter (fun b => !b == a) = l :=
      List.filter_eq_self.2 (List.length_filter_eq_length_iff.1
        (Nat.le_antisymm (List.length_filter_le _ l) (h ▸ length_eraseDups_le _)))
    rw [hkept] at h
    refine List.nodup_cons.2 ⟨fun ha => ?_, ih h⟩
    simpa using List.filter_eq_self.1 hkept a ha

/-- Pairs of a list whose keys are all different agree once their keys do. -/
theorem snd_eq_of_nodup_keys {α β : Type} {l : List (α × β)} (h : (l.map (·.1)).Nodup) {e f : α × β} (he : e ∈ l) (hf : f ∈ l)
    (hfe : f.1 = e.1) : f.2 = e.2 := by
  induction l with
  | nil => cases he
  | cons g l ih =>
    obtain ⟨hg, hl⟩ := List.nodup_cons.1 h
    have hother {a : α × β} (ha : a ∈ l) : a.1 ≠ g.1 := fun hag => hg (List.mem_map.2 ⟨a, ha, hag⟩)
    rcases List.mem_cons.1 he with rfl | hel <;> rcases List.mem_cons.1 hf with rfl | hfl
    · rfl
    · exact absurd hfe (hother hfl)
    · exact absurd hfe.symm (hother hel)
    · exact ih hl hel hfl

theorem chooseRoot_mem (s : State) (key : Nat) (x : Cl) (ms : List Cl) : chooseRoot s key (x :: ms) ∈ x :: ms := by
  have hi : Config.treePort s.net.routeEpoch (2 ^ 21 + key) 0 % (x :: ms).length < (x :: ms).length :=
    Nat.mod_lt _ (Nat.succ_pos _)
  rw [chooseRoot, List.getElem?_eq_getElem hi]
  exact List.getElem_mem hi

theorem barOf_setBar (c x : Cl) (b d : Fin 32) (r : BarRec) (s : State) :
    barOf (setBar c b.val r s) x d.val = if x = c ∧ d = b then r else barOf s x d.val := by
  have hkey : ck x * 32 + d.val = ck c * 32 + b.val ↔ x = c ∧ d = b := by
    constructor
    · intro h
      have hd : d = b := Fin.ext (by omega)
      exact ⟨ck_inj (by rw [hd] at h; omega), hd⟩
    · rintro ⟨rfl, rfl⟩; rfl
  simp only [barOf, setBar, SMap.get_set, hkey]

/-- The members' settings of a barrier are written. -/
def setBars (b : Fin 32) (es : List (Cl × BarRec)) (s : State) : State := es.foldl (fun s e => setBar e.1 b.val e.2 s) s

theorem setBars_cons (b : Fin 32) (e : Cl × BarRec) (es : List (Cl × BarRec)) (s : State) :
    setBars b (e :: es) s = setBars b es (setBar e.1 b.val e.2 s) := rfl

section
variable {b : Fin 32} {es : List (Cl × BarRec)}

theorem setBars_only (s : State) : setBars b es s = { s with sync := { s.sync with bars := (setBars b es s).sync.bars } } := by
  induction es generalizing s with
  | nil => rfl
  | cons e es ih => rw [setBars_cons, ih]; rfl

theorem barOf_setBars_other {x : Cl} (hx : x ∉ es.map (·.1)) (d : Fin 32) (s : State) :
    barOf (setBars b es s) x d.val = barOf s x d.val := by
  induction es generalizing s with
  | nil => rfl
  | cons e es ih =>
    rw [List.map_cons, List.mem_cons, not_or] at hx
    obtain ⟨hne, hes⟩ := hx
    rw [setBars_cons, ih hes, barOf_setBar, if_neg (fun h => hne h.1)]

/-- A member whose entries agree has their settings. -/
theorem barOf_setBars {e : Cl × BarRec} (he : e ∈ es) (hsame : ∀ f ∈ es, f.1 = e.1 → f.2 = e.2) (s : State) :
    barOf (setBars b es s) e.1 b.val = e.2 := by
  induction es generalizing s with
  | nil => cases he
  | cons f es ih =>
    have htail : ∀ g ∈ es, g.1 = e.1 → g.2 = e.2 := fun g hg => hsame g (List.mem_cons_of_mem f hg)
    rw [setBars_cons]
    by_cases hin : e.1 ∈ es.map (·.1)
    · obtain ⟨g, hg, hge⟩ := List.mem_map.1 hin
      exact ih (Prod.ext hge (htail g hg hge) ▸ hg) htail _
    · have hef : e = f := (List.mem_cons.1 he).resolve_right fun h => hin (List.mem_map_of_mem h)
      rw [barOf_setBars_other hin, barOf_setBar, hef, if_pos ⟨rfl, rfl⟩]

end

/-- The state once a barrier is made. -/
def barrierMade (p : Fin 64) (b : Fin 32) (lead : Nat) (es : List (Cl × BarRec)) (s : State) : State :=
  setRoot p b.val (some { root := chooseRoot s (p.val * 32 + b.val) (es.map (·.1)), members := es.map (·.1), lead := lead,
                          generation := 0, got := [], hall := hallHeld (setBars b es s) p }) (setBars b es s)

/-- A packet of another barrier than the one named. -/
def pktKept (p : Fin 64) (b : Fin 32) (q : BarPkt) : Bool :=
  match q with
  | .arrive a d _ _ => !(a == p && d == b)
  | .release a d _ _ _ _ => !(a == p && d == b)

/-- The state once a barrier is gone. -/
def barrierGone (p : Fin 64) (b : Fin 32) (ms : List Cl) (s : State) : State :=
  let u := ms.foldl (fun s x => setBar x b.val {} s) s
  setRoot p b.val none { u with sync := { u.sync with pkts := u.sync.pkts.filter (pktKept p b) } }

section
variable (p : Fin 64) (b : Fin 32) (s : State)

theorem hallHeld_setBars (es : List (Cl × BarRec)) : hallHeld (setBars b es s) p = hallHeld s p := by
  rw [setBars_only]; rfl

theorem rootOf_setRoot_self (r : Option BarRoot) : rootOf (setRoot p b.val r s) p b.val = r := SMap.get_set_self _ _ _ _

theorem foldl_setBar_reset (ms : List Cl) : ms.foldl (fun s x => setBar x b.val {} s) s = setBars b (ms.map fun x => (x, {})) s := by
  rw [setBars, List.foldl_map]

theorem barOf_barrierGone {ms : List Cl} {x : Cl} (hx : x ∈ ms) : barOf (barrierGone p b ms s) x b.val = {} := by
  have hreset : barOf (setBars b (ms.map fun x => (x, {})) s) x b.val = {} :=
    barOf_setBars (e := (x, {})) (List.mem_map.2 ⟨x, hx, rfl⟩) (fun f hf _ => by
      obtain ⟨y, -, rfl⟩ := List.mem_map.1 hf; rfl) s
  rw [← foldl_setBar_reset] at hreset
  exact hreset

theorem barOf_barrierGone_other {ms : List Cl} {x : Cl} (hx : x ∉ ms) (d : Fin 32) :
    barOf (barrierGone p b ms s) x d.val = barOf s x d.val := by
  have hother : barOf (setBars b (ms.map fun x => (x, {})) s) x d.val = barOf s x d.val :=
    barOf_setBars_other (by simpa using hx) d s
  rw [← foldl_setBar_reset] at hother
  exact hother

theorem barrierGone_only (ms : List Cl) : barrierGone p b ms s = { s with sync := (barrierGone p b ms s).sync } := by
  unfold barrierGone
  dsimp only
  rw [foldl_setBar_reset, setBars_only]
  rfl

theorem barrierGone_pkts (ms : List Cl) (q : BarPkt) (hq : pktKept p b q = false) : q ∉ (barrierGone p b ms s).sync.pkts := by
  intro hin
  have hkept : pktKept p b q = true := (List.mem_filter.1 hin).2
  rw [hq] at hkept
  cases hkept

end

section
variable {s : State} {k : CmdKey} {c : Cmd} {p : Fin 64} {r : PartRec}

theorem exec_barrierCreate_unread (h : RunsIn s k 0x020B c p r) {st : Byte} (hd : takeData s c 3 = .inl st) :
    exec (.barrierCreate k) s = .next (complete k st [] s) := by
  refine congrArg Host.Outcome.next ((runCmd_runsIn h rfl _).trans ?_)
  simp only [hd]

/-- The entries of a BARRIER_CREATE's buffer. -/
abbrev barEntries (c : Cmd) (d : List Byte) : Option (List (Cl × BarRec)) :=
  (entriesOf 8 (d.length + 1) d).bind fun l => l.mapM (barEntry (fld (cmdD c.raw 2) 16 16))

theorem exec_barrierCreate_badBuffer (h : RunsIn s k 0x020B c p r) {d : List Byte} (hd : takeData s c 3 = .inr d)
    (he : barEntries c d = none) : exec (.barrierCreate k) s = .next (complete k 0x03 [] s) := by
  refine congrArg Host.Outcome.next ((runCmd_runsIn h rfl _).trans ?_)
  simp only [hd, he]

/-- The checks of BARRIER_CREATE, and the barrier it makes (R264, R363). -/
theorem exec_barrierCreate (h : RunsIn s k 0x020B c p r) {d : List Byte} (hd : takeData s c 3 = .inr d) {es : List (Cl × BarRec)}
    (he : barEntries c d = some es) :
    let b : Fin 32 := Fin.ofNat 32 (cmdD c.raw 2)
    let ms := es.map (·.1)
    exec (.barrierCreate k) s = .next (
      if ms.eraseDups.length ≠ ms.length then complete k 0x03 [] s
      else if ((rootOf s p b.val).isSome || ms.any fun x => owner s x != some p) = true then complete k 0x04 [] s
      else if treesFull s (chooseRoot s (p.val * 32 + b.val) ms) ms = true then complete k 0x07 [] s
      else complete k 0x00 [] (barrierMade p b (fld (cmdD c.raw 2) 16 16) es s)) := by
  refine congrArg Host.Outcome.next ((runCmd_runsIn h rfl _).trans ?_)
  simp only [hd, he]
  rfl

theorem exec_barrierDelete_absent (h : RunsIn s k 0x020C c p r) (hr : rootOf s p (Fin.ofNat 32 (cmdD c.raw 2)).val = none) :
    exec (.barrierDelete k) s = .next (complete k 0x03 [] s) := by
  refine congrArg Host.Outcome.next ((runCmd_runsIn h rfl _).trans ?_)
  simp only [hr]

theorem exec_barrierDelete (h : RunsIn s k 0x020C c p r) {g : BarRoot} (hr : rootOf s p (Fin.ofNat 32 (cmdD c.raw 2)).val = some g) :
    exec (.barrierDelete k) s = .next (complete k 0x00 [] (barrierGone p (Fin.ofNat 32 (cmdD c.raw 2)) g.members s)) := by
  refine congrArg Host.Outcome.next ((runCmd_runsIn h rfl _).trans ?_)
  simp only [hr]
  rfl

theorem exec_fountainCreate_unread (h : RunsIn s k 0x020D c p r) {st : Byte} (hd : takeData s c 3 = .inl st) :
    exec (.fountainCreate k) s = .next (complete k st [] s) := by
  refine congrArg Host.Outcome.next ((runCmd_runsIn h rfl _).trans ?_)
  simp only [hd]

/-- The entries of a FOUNTAIN_CREATE's buffer. -/
abbrev fountainEntries (d : List Byte) : Option (List Cl) := (entriesOf 2 (d.length + 1) d).bind fun l => l.mapM cidOf

theorem exec_fountainCreate_badBuffer (h : RunsIn s k 0x020D c p r) {d : List Byte} (hd : takeData s c 3 = .inr d)
    (he : fountainEntries d = none) : exec (.fountainCreate k) s = .next (complete k 0x03 [] s) := by
  refine congrArg Host.Outcome.next ((runCmd_runsIn h rfl _).trans ?_)
  simp only [hd, he]

/-- The checks of FOUNTAIN_CREATE, and the fountain it makes (R225, R363). -/
theorem exec_fountainCreate (h : RunsIn s k 0x020D c p r) {d : List Byte} (hd : takeData s c 3 = .inr d) {ms : List Cl}
    (he : fountainEntries d = some ms) :
    let key := p.val * 16 + cmdD c.raw 2 % 16
    let root := chooseRoot s (2 ^ 12 + key) ms
    exec (.fountainCreate k) s = .next (
      if ms.eraseDups.length ≠ ms.length then complete k 0x03 [] s
      else if ((s.net.fountains.get none key).isSome || ms.any fun x => owner s x != some p) = true then complete k 0x04 [] s
      else if treesFull s root ms = true then complete k 0x07 [] s
      else complete k 0x00 []
        { s with net := { s.net with fountains := s.net.fountains.set none key (some { root := root, members := ms }) } }) := by
  refine congrArg Host.Outcome.next ((runCmd_runsIn h rfl _).trans ?_)
  simp only [hd, he]

theorem exec_fountainDelete (h : RunsIn s k 0x020E c p r) :
    let key := p.val * 16 + cmdD c.raw 2 % 16
    exec (.fountainDelete k) s = .next (if (s.net.fountains.get none key).isNone = true then complete k 0x03 [] s
      else complete k 0x00 [] { s with net := { s.net with fountains := s.net.fountains.set none key none } }) :=
  congrArg Host.Outcome.next (runCmd_runsIn h rfl _)

/-- A tree of that name exists already, or a cluster named is not the partition's. -/
theorem treeRefused_iff {α : Type} (o : Option α) (s : State) (p : Fin 64) (ms : List Cl) :
    (o.isSome || ms.any fun x => owner s x != some p) = true ↔ ¬ (o = none ∧ ∀ x ∈ ms, owner s x = some p) := by
  cases o <;> simp

end

/-! ### The clauses of the commands -/

section
variable {s : State} {k : CmdKey} {c : Cmd} {p : Fin 64} {r : PartRec}

/-- PART_CREATE (R136, R194, R363). -/
theorem partCreate_cases (h : Runs s k 0x0201 c) (hp : cmdPart c.raw = p.val) :
    let v := vfParam c
    (v.2 = 0 → exec (.partCreate k) s = .next (complete k 0x03 [] s)) ∧
    (v.2 ≠ 0 → (partOf s p).isSome = true ∨ vfTaken s v none = true → exec (.partCreate k) s = .next (complete k 0x04 [] s)) ∧
    (v.2 ≠ 0 → partOf s p = none → vfTaken s v none = false →
      exec (.partCreate k) s = .next (complete k 0x00 [] (partMade p v s))) := by
  refine ⟨exec_partCreate_noVf h, fun hv ht => ?_, fun hv hn ht => ?_⟩
  · rw [exec_partCreate h hp hv, if_pos (Bool.or_eq_true_iff.2 ht)]
  · rw [exec_partCreate h hp hv, if_neg (by simp [hn, ht])]

/-- SET_TIMEOUTS (R238, R363). -/
theorem setTimeouts_cases (hr : RunsIn s k 0x0209 c p r) :
    let m := cmdD c.raw 2
    let o := cmdD c.raw 3
    let h := cmdD c.raw 4
    let good : Prop := (m = 0 ∨ 2 ≤ m ∧ m ≤ 1000) ∧ (o = 0 ∨ 100 ≤ o ∧ o ≤ 100000) ∧ (h = 0 ∨ 100 ≤ h ∧ h ≤ 100000)
    (¬ good → exec (.setTimeouts k) s = .next (complete k 0x03 [] s)) ∧
    (good → exec (.setTimeouts k) s = .next (complete k 0x00 [] (setPart p (some { r with
      mesh := if m = 0 then r.mesh else m, remote := if o = 0 then r.remote else o, host := if h = 0 then r.host else h }) s))) := by
  intro m o h good
  have hgood := timeouts_iff m o h
  rw [exec_setTimeouts hr]
  exact ⟨fun hg => congrArg _ (if_pos (hgood.2 hg)), fun hg => congrArg _ (if_neg (mt hgood.1 (not_not_intro hg)))⟩

/-- BIND_PORT for a partition (R426). -/
theorem bindPort_cases (h : Runs s k 0x0208 c) (ht : cmdTarget s c = some p) :
    let port : Fin 16 := Fin.ofNat 16 (cmdD c.raw 2)
    let r := portRec s port
    (portDry s port = true → exec (.bindPort k) s = .next (complete k 0x09 [] s)) ∧
    (portDry s port = false → (∃ q, r.bound = some q ∧ q ≠ p) → exec (.bindPort k) s = .next (complete k 0x04 [] s)) ∧
    (portDry s port = false → r.bound = none ∨ r.bound = some p →
      exec (.bindPort k) s = .next (complete k 0x00 [] (setPort port { r with bound := some p } s))) := by
  intro port r
  rw [exec_bindPort h ht]
  refine ⟨fun hd => by rw [if_pos hd], fun hd hq => ?_, fun hd hb => ?_⟩
  · rw [if_neg (Bool.eq_false_iff.1 hd), if_pos ((boundElsewhere_iff _ _).2 hq)]
  · have hmine : ¬ ∃ q, r.bound = some q ∧ q ≠ p := by
      rintro ⟨q, hq, hne⟩
      rcases hb with hb | hb <;> rw [hq] at hb
      · cases hb
      · exact hne (Option.some.inj hb)
    rw [if_neg (Bool.eq_false_iff.1 hd), if_neg (mt (boundElsewhere_iff _ _).1 hmine)]

/-- The checks that a new tree passes or fails: a cluster named twice, a tree of that name or a foreign cluster, full
tables. -/
theorem treeChecks_cases {α β : Type} {ms : List Cl} {o : Option α} {full : Bool} {w x y z : β} :
    let e := if ms.eraseDups.length ≠ ms.length then w
      else if (o.isSome || ms.any fun x => owner s x != some p) = true then x else if full = true then y else z
    let once : Prop := ms.eraseDups.length = ms.length
    let may : Prop := o = none ∧ ∀ x ∈ ms, owner s x = some p
    (¬ once → e = w) ∧ (once → ¬ may → e = x) ∧ (once → may → full = true → e = y) ∧ (once → may → full = false → e = z) := by
  intro e once may
  have hmay := treeRefused_iff o s p ms
  refine ⟨fun ho => if_pos ho, fun ho hm => ?_, fun ho hm hf => ?_, fun ho hm hf => ?_⟩
  · exact (if_neg (not_not_intro ho)).trans (if_pos (hmay.2 hm))
  · exact (if_neg (not_not_intro ho)).trans ((if_neg (mt hmay.1 (not_not_intro hm))).trans (if_pos hf))
  · exact (if_neg (not_not_intro ho)).trans ((if_neg (mt hmay.1 (not_not_intro hm))).trans (if_neg (Bool.eq_false_iff.1 hf)))

/-- The barrier that BARRIER_CREATE makes of entries that name each cluster once (R264). -/
theorem barrierMade_effect (b : Fin 32) (lead : Nat) {es : List (Cl × BarRec)}
    (hone : (es.map (·.1)).eraseDups.length = (es.map (·.1)).length) :
    let ms := es.map (·.1)
    let u := barrierMade p b lead es s
    rootOf u p b.val = some { root := chooseRoot s (p.val * 32 + b.val) ms, members := ms, lead := lead, generation := 0, got := [],
                              hall := hallHeld s p } ∧
      (∀ e ∈ es, barOf u e.1 b.val = e.2) ∧ (∀ x, x ∉ ms → ∀ d : Fin 32, barOf u x d.val = barOf s x d.val) ∧
      u = { s with sync := u.sync } := by
  intro ms u
  have hsame : ∀ e ∈ es, ∀ f ∈ es, f.1 = e.1 → f.2 = e.2 := fun e he f hf hfe =>
    snd_eq_of_nodup_keys (nodup_of_length_eraseDups hone) he hf hfe
  refine ⟨?_, fun e he => barOf_setBars he (hsame e he) s, fun x hx d => barOf_setBars_other hx d s, ?_⟩
  · exact (rootOf_setRoot_self _ _ _ _).trans (by rw [hallHeld_setBars])
  · simp only [u, barrierMade, setRoot]
    rw [setBars_only]

end

/-- Settles O42: each command by the checks of its row, then by what it leaves. -/
theorem partitionCommands : Obligations.PartitionCommands := by
  unfold Obligations.PartitionCommands
  refine ⟨⟨fun s k c p hk hp h => ?_, fun s k c p r hk h => ?_, fun s k c p r hk => exec_partDelete, vfTaken_iff⟩,
    ⟨fun s k c p r hk h => ⟨fun st => exec_beds_unread h, fun d => exec_beds_badBuffer h⟩,
      fun s k c p r d named hk h hd hb hkind => ?_, fun s k c p r d named hk => bedsUnbind_cases,
      fun s p cs x => owner_leaveClusters p s⟩,
    ⟨fun s k c p r hk => setRegionBind_cases, fun s k c p r hk h hv => ⟨exec_setRegionFree_invalid h hv, fun g => exec_setRegionFree h hv⟩,
      mem_freeStackPages⟩,
    ⟨fun s k c hk h => ?_, fun s k c hk h => ⟨exec_bindPort_unbind h, fun p => bindPort_cases h⟩, fun s k c p r hk => setTimeouts_cases⟩,
    fun s k c p r hk h => ⟨fun st => exec_barrierCreate_unread h, fun d hd => ⟨exec_barrierCreate_badBuffer h hd, fun es he => ?_⟩⟩,
    chooseRoot_mem, fun s k c p r hk h => ⟨exec_barrierDelete_absent h, fun g hg => ⟨_, exec_barrierDelete h hg, ?_⟩⟩,
    fun s k c p r hk h => ⟨fun st => exec_fountainCreate_unread h, fun d hd => ⟨exec_fountainCreate_badBuffer h hd, fun ms he => ?_⟩⟩,
    fun s k c p r hk h => ⟨fun hf => ?_, fun hf => ?_⟩⟩
  · obtain ⟨hno, htaken, hmade⟩ := partCreate_cases h hp
    refine ⟨hno, htaken, fun hv hn ht => ⟨_, hmade hv hn ht, ?_⟩⟩
    exact ⟨by rw [partOf_partMade, if_pos rfl], fun q hq => by rw [partOf_partMade, if_neg hq],
      by rw [numBlock_partMade, if_pos rfl], fun q hq => by rw [numBlock_partMade, if_neg hq],
      energyOf_setEnergy_self _ _ _, partMade_others p _ s⟩
  · rw [exec_partSetVf h]
    exact ⟨fun hv => congrArg _ (if_pos hv), fun hv ht => congrArg _ ((if_neg hv).trans (if_pos ht)),
      fun hv ht => congrArg _ ((if_neg hv).trans (if_neg (Bool.eq_false_iff.1 ht)))⟩
  · obtain ⟨hconn, htaken, hdry, hbound⟩ := bedsBind_cases h hd hb hkind
    refine ⟨hconn, htaken, hdry, fun hc ht hy => ⟨_, hbound hc ht hy, ?_⟩⟩
    exact ⟨(partOf_bedsBound p r _ s p).trans (if_pos rfl), fun q hq => (partOf_bedsBound p r _ s q).trans (if_neg hq),
      now_bedsBound p r _ s, owner_bedsBound p r _ s⟩
  · obtain ⟨hqueue, hidle⟩ := chanOf_abortChan
      (.stack (Fin.ofNat 48 (fld (cmdD c.raw 2) 0 6)) (Fin.ofNat 16 (fld (cmdD c.raw 2) 8 4))) true s
    rw [exec_bindPump h]
    exact ⟨fun hn => congrArg _ (if_pos hn), fun hn => congrArg _ (if_neg (Nat.not_le.2 hn)), hqueue, hidle⟩
  · obtain ⟨htwice, hmay, hfull, hmade⟩ := treeChecks_cases
    have hrun := exec_barrierCreate h hd he
    exact ⟨fun ho => hrun.trans (congrArg _ (htwice ho)), fun ho hm => hrun.trans (congrArg _ (hmay ho hm)),
      fun ho hm hf => hrun.trans (congrArg _ (hfull ho hm hf)),
      fun ho hm hf => ⟨_, hrun.trans (congrArg _ (hmade ho hm hf)), barrierMade_effect _ _ ho⟩⟩
  · exact ⟨rootOf_setRoot_self _ _ _ _, fun x => barOf_barrierGone p _ s, fun x => barOf_barrierGone_other p _ s,
      fun c n => barrierGone_pkts p _ s _ _ (by simp [pktKept]), fun c n v m => barrierGone_pkts p _ s _ _ (by simp [pktKept]),
      barrierGone_only p _ s _⟩
  · rw [exec_fountainCreate h hd he]
    obtain ⟨htwice, hmay, hfull, hmade⟩ := treeChecks_cases
    exact ⟨fun ho => congrArg _ (htwice ho), fun ho hm => congrArg _ (hmay ho hm), fun ho hm hf => congrArg _ (hfull ho hm hf),
      fun ho hm hf => congrArg _ (hmade ho hm hf)⟩
  · rw [exec_fountainDelete h, if_neg (by simp [Option.ne_none_iff_isSome.2 hf])]
  · rw [exec_fountainDelete h, if_pos (Option.isNone_iff_eq_none.2 hf)]

end Sys2Proof.Machine
end

section
/-! PROOFS. Retiring an instruction and register writes (spec/06_cores.md R158, R159, R176). -/

namespace Sys2Proof.Machine
open Sys2Proof

/-! ### Retiring -/

theorem issueInstr_stalled {s : State} {x : CtxId} (h : canIssue s x = false) (rs : List MemReg) (f : State → State) :
    issueInstr x rs f s = s := if_neg (by simp [h])

/-- `exec` of an instruction that issues answers what the instruction does. -/
theorem next_issued {s : State} {x : CtxId} {rs : List MemReg} (h : Issues s x rs) {f : State → State} :
    (Host.Outcome.next (issueInstr x rs f s) : Host.Outcome State Fault Refusal) = .next (f s) :=
  congrArg _ (issueInstr_issues h f)

/-- An instruction whose context cannot issue changes nothing. -/
theorem exec_stalled {s : State} {x : CtxId} {i : Instr} (hi : issuer i = some x) (h : canIssue s x = false) :
    exec i s = .next s := by
  cases i with
  | runaheadEnter y code =>
    cases hi
    exact congrArg _ (if_pos (by simp [h]))
  | integerOp | branch | scalarFpOp | vectorArith | vdot | vcvt | vamax | fscale | vcvts | vbst | vbld | load | store | ldl | stl
  | atomic | fence | tide | phase | rseed | vrand | iflush | brk | tret | halt | objrd | objset | objadd | objcas | wait | barrive
  | chaccept | chopen | chsend | chrecv | chclose | psub =>
    cases hi
    exact congrArg Host.Outcome.next (issueInstr_stalled h _ _)
  | _ => cases hi

theorem retire_room {s : State} {x : CtxId} (h : IssuedRoom s x) : retire x s =
    setCore x.c x.k.val { coreRec s x.c x.k.val with issued := (coreRec s x.c x.k.val).issued + 1 }
      (updCtx x (fun r => { r with pc := r.pc + 4 }) s) :=
  counterWrap_room _ _ _ _ _ h

theorem coreRec_setCore (c d : Cl) (k j : Nat) (r : CoreRec) (s : State) :
    coreRec (setCore c k r s) d j = if ok d j = ok c k then r else coreRec s d j := by
  simp only [coreRec, setCore, SMap.get_set]

theorem setCore_onlyContext (x : CtxId) (r : CoreRec) (s : State) : OnlyContext x s (setCore x.c x.k.val r s) :=
  ⟨rfl, fun _ _ => rfl, fun c k h => by rw [coreRec_setCore, if_neg h]⟩

theorem updCtx_onlyContext (x : CtxId) (f : CtxRec → CtxRec) (s : State) : OnlyContext x s (updCtx x f s) :=
  ⟨rfl, fun _ h => ctxRec_updCtx_ne x _ f s h, fun _ _ _ => rfl⟩

theorem OnlyContext.trans {x : CtxId} {s t u : State} (h : OnlyContext x s t) (g : OnlyContext x t u) : OnlyContext x s u := by
  obtain ⟨hrest, hctx, hcore⟩ := h
  obtain ⟨grest, gctx, gcore⟩ := g
  exact ⟨by rw [grest, hrest], fun y hy => (gctx y hy).trans (hctx y hy), fun c k hk => (gcore c k hk).trans (hcore c k hk)⟩

theorem retire_onlyContext {s : State} {x : CtxId} (h : IssuedRoom s x) : OnlyContext x s (retire x s) := by
  rw [retire_room h]
  exact (updCtx_onlyContext x _ s).trans (setCore_onlyContext x _ _)

@[simp] theorem ctxRec_addIssued (x y : CtxId) (s : State) : ctxRec (addIssued x s) y = ctxRec s y := by
  simp [addIssued]

/-- CTX_PC moves on also where the counter wraps. -/
theorem ctxRec_retire (x y : CtxId) (s : State) :
    ctxRec (retire x s) y = if y = x then { ctxRec s x with pc := (ctxRec s x).pc + 4 } else ctxRec s y := by
  rw [retire, ctxRec_addIssued, ctxRec_updCtx]

/-! ### Register writes -/

@[simp] theorem ctxRec_wx_self (x : CtxId) (i : Reg) (v : Word) (s : State) : ctxRec (wx x i v s) x = (ctxRec s x).writeX i v :=
  ctxRec_updCtx_self x _ s

@[simp] theorem ctxRec_wv_self (x : CtxId) (i : Reg) (v : BitVec 256) (s : State) : ctxRec (wv x i v s) x = (ctxRec s x).writeV i v :=
  ctxRec_updCtx_self x _ s

theorem xr_wx (x : CtxId) (rd i : Reg) (v : Word) (s : State) :
    xr (wx x rd v s) x i = if i = rd ∧ i ≠ 0 then v else xr s x i := by
  rw [xr, ctxRec_wx_self, readX_writeX, xr]

theorem vr_wv (x : CtxId) (vd i : Reg) (v : BitVec 256) (s : State) :
    vr (wv x vd v s) x i = if i = vd then v else vr s x i := by
  have hval : vd.val = i.val ↔ i = vd := by rw [Fin.ext_iff, eq_comm]
  simp only [vr, ctxRec_wv_self, CtxRec.writeV, vset, Fin.getElem_fin, Vector.getElem_set, hval]

/-- Settles O7: `retire` and the register writes by the one record that they update. -/
theorem retireAndRegisterWriteFrame : Obligations.RetireAndRegisterWriteFrame := by
  unfold Obligations.RetireAndRegisterWriteFrame
  refine ⟨fun s x i => exec_stalled, fun s x h => ⟨retire_onlyContext h, ?_, ?_⟩, fun s x rd i v => ?_, fun s x vd i v => ?_⟩
  · rw [ctxRec_retire, if_pos rfl]
  · rw [retire_room h, coreRec_setCore_self]
  · obtain ⟨-, hpc, hf, hv, hm⟩ := writeX_fields (ctxRec s x) rd v
    rw [ctxRec_wx_self]
    exact ⟨updCtx_onlyContext x _ s, rfl, xr_wx x rd i v s, hf, hv, hm, hpc⟩
  · rw [ctxRec_wv_self]
    exact ⟨updCtx_onlyContext x _ s, vr_wv x vd i v s, rfl, rfl, rfl, rfl⟩

end Sys2Proof.Machine
end

section
/-! PROOFS. WAIT and its deadline (spec/06_cores.md R160, 10_sync_and_channels.md R262, 11_time_and_clocks.md R293, R294). -/

namespace Sys2Proof.Machine
open Sys2Proof

/-! ### WAIT as it issues -/

/-- The context is WAITING on an object (R160, R176). -/
def waitBegun (x : CtxId) (w : WaitRec) (s : State) : State :=
  updCtx x (fun r => { r with state := .waiting, waitKind := 1, waitTarget := BitVec.ofNat 10 (w.obj * 32 + w.core),
                              waitFrom := s.t.now, wait := some w }) (endRunahead x s)

theorem ctxRec_waitBegun (x : CtxId) (w : WaitRec) (s : State) : ctxRec (waitBegun x w s) x =
    { ctxRec s x with runahead := false, shadow := none, raLoad := none, state := .waiting, waitKind := 1,
                      waitTarget := BitVec.ofNat 10 (w.obj * 32 + w.core), waitFrom := s.t.now, wait := some w } := by
  rw [waitBegun, ctxRec_updCtx_self, ctxRec_endRunahead, if_pos rfl]

theorem waitBegun_onlyContext (x : CtxId) (w : WaitRec) (s : State) : OnlyContext x s (waitBegun x w s) :=
  (updCtx_onlyContext x _ s).trans (updCtx_onlyContext x _ _)

section
variable {s : State} {x : CtxId} {rd ra rb rc : Reg} (h : Issues s x [.x rd, .x ra, .x rb, .x rc])
include h

theorem exec_wait_badCore (hcore : 24 ≤ fld (xr s x ra).toNat 0 5) : exec (.wait x rd ra rb rc) s =
    .next (accessTrap x 0x03 (ctxRec s x).pc
      (clAddr 5 x.c (fld (xr s x ra).toNat 0 5 * 256 + fld (xr s x ra).toNat 5 5 * 8)) (retire x s)) :=
  congrArg Host.Outcome.next ((issueInstr_issues h _).trans (if_pos hcore))

/-- WAIT is an ACQUIRE (R205). -/
theorem exec_wait_unfenced (hcore : fld (xr s x ra).toNat 0 5 < 24) (hf : fenceOk s x .acquire .g = false) :
    exec (.wait x rd ra rb rc) s = .next s :=
  congrArg Host.Outcome.next ((issueInstr_issues h _).trans ((if_neg (Nat.not_le.2 hcore)).trans (if_pos (by simp [hf]))))

/-- A WAIT whose accesses are complete is decided by its condition, then by its deadline. -/
theorem exec_wait_fenced (hcore : fld (xr s x ra).toNat 0 5 < 24) (hf : fenceOk s x .acquire .g = true) :
    let w := (xr s x ra).toNat
    let core := fld w 0 5
    let obj := fld w 5 5
    let t := (xr s x rb).setWidth 32
    let d := (xr s x rc).setWidth 32
    exec (.wait x rd ra rb rc) s = .next (
      if objCond (fld w 10 2) (objVal s x.c core obj) t then finishWait x rd 0 s
      else if d ≠ 0 ∧ deadlinePast s x.c d then finishWait x rd 1 s
      else waitBegun x ⟨core, obj, fld w 10 2, t, if d = 0 then none else some d, rd⟩ s) :=
  congrArg Host.Outcome.next ((issueInstr_issues h _).trans ((if_neg (Nat.not_le.2 hcore)).trans (if_neg (by simp [hf]))))

end

theorem deadlinePast_iff (s : State) (c : Cl) (d : BitVec 32) :
    deadlinePast s c d = true ↔ (d - (localTide s c).setWidth 32).toInt ≤ 0 := decide_eq_true_iff

/-! ### WAIT_DEADLINE -/

section
variable {s : State} {x : CtxId} {w : WaitRec} (hs : (ctxRec s x).state = .waiting) (hw : (ctxRec s x).wait = some w)
include hs hw

theorem exec_waitDeadline_none (hd : w.deadline = none) : exec (.waitDeadline x) s = .next s := by
  show execWaitDeadline x s = _
  simp only [execWaitDeadline, hs, hw, hd]

theorem exec_waitDeadline_stopped {d : BitVec 32} (hd : w.deadline = some d) (hoff : arithOn s x.c = false) :
    exec (.waitDeadline x) s = .next s := by
  show execWaitDeadline x s = _
  simp only [execWaitDeadline, hs, hw, hd, hoff, Bool.not_false, if_true]

/-- The releases of the moment come first, then the condition, then the deadline (R294). -/
theorem exec_waitDeadline_runs {d : BitVec 32} (hd : w.deadline = some d) (hon : arithOn s x.c = true) :
    let t := localTide s x.c
    let u := releasesDue x.c (waitTide s x.c (t + (d - t.setWidth 32).signExtend 64))
    exec (.waitDeadline x) s = .next (
      if (ctxRec u x).state != .waiting then u
      else if objCond w.cond (objVal u x.c w.core w.obj) w.value then finishWait x w.rd 0 u
      else if deadlinePast u x.c d then finishWait x w.rd 1 u
      else u) := by
  show execWaitDeadline x s = _
  simp only [execWaitDeadline, hs, hw, hd, hon, Bool.not_true, Bool.false_eq_true, if_false]

end

/-! ### A completed WAIT -/

theorem ctxRec_finishWait (x : CtxId) (rd : Reg) (v : Word) (s : State) : ctxRec (finishWait x rd v s) x =
    let r := CtxRec.writeX { ctxRec s x with waitKind := 0, waitTarget := 0, wait := none, held := none, entries := [], state := .ready } rd v
    { r with pc := r.pc + 4 } := by
  simp only [finishWait, ctxRec_retire, ctxRec_wx_self, ctxRec_updCtx_self, ctxRec_dropEntries, ctxRec_endWait, if_true]

theorem finishWait_effect (x : CtxId) {rd : Reg} (hrd : rd ≠ 0) (v : Word) (s : State) :
    (ctxRec (finishWait x rd v s) x).state = .ready ∧ xr (finishWait x rd v s) x rd = v ∧
      (ctxRec (finishWait x rd v s) x).pc = (ctxRec s x).pc + 4 ∧ (ctxRec (finishWait x rd v s) x).wait = none := by
  have hread := readX_writeX { ctxRec s x with waitKind := 0, waitTarget := 0, wait := none, held := none, entries := [], state := .ready } rd rd v
  rw [if_pos ⟨rfl, hrd⟩] at hread
  rw [xr, ctxRec_finishWait]
  refine ⟨?_, hread, ?_, ?_⟩ <;> simp only [CtxRec.writeX, if_neg hrd]

/-- Settles O17: WAIT by its checks in their order, WAIT_DEADLINE by the deadline, the clock and what the releases leave. -/
theorem waitCompletes : Obligations.WaitCompletes := by
  unfold Obligations.WaitCompletes
  refine ⟨fun s x rd ra rb rc h => ⟨exec_wait_badCore h, exec_wait_unfenced h, fun hcore hf => ?_, deadlinePast_iff s x.c⟩,
    fun s x w hs hw => ⟨exec_waitDeadline_none hs hw, fun d hd => ?_⟩, fun s x rd v hrd => finishWait_effect x hrd v s⟩
  · refine ⟨fun hc => ?_, fun hc hd hp => ?_, fun hc hd => ?_⟩ <;> rw [exec_wait_fenced h hcore hf]
    · rw [if_pos hc]
    · rw [if_neg (Bool.eq_false_iff.1 hc), if_pos ⟨hd, hp⟩]
    · have hahead : ¬ ((xr s x rc).setWidth 32 ≠ 0 ∧ deadlinePast s x.c ((xr s x rc).setWidth 32) = true) := by
        rcases hd with hd | hd <;> simp [hd]
      rw [if_neg (Bool.eq_false_iff.1 hc), if_neg hahead]
      refine ⟨_, rfl, ?_⟩
      rw [ctxRec_waitBegun]
      exact ⟨rfl, rfl, rfl, rfl, rfl, rfl, waitBegun_onlyContext x _ s⟩
  · refine ⟨exec_waitDeadline_stopped hs hw hd, fun hon => ?_⟩
    rw [exec_waitDeadline_runs hs hw hd hon]
    refine ⟨fun hst => ?_, fun hst => ⟨fun hc => ?_, fun hc hp => ?_⟩⟩
    · rw [if_pos (bne_iff_ne.2 hst)]
    · rw [if_neg (by simp [hst]), if_pos hc]
    · rw [if_neg (by simp [hst]), if_neg (Bool.eq_false_iff.1 hc), if_pos hp]

end Sys2Proof.Machine
end

section
/-! PROOFS. Synchronisation objects: their instructions, their operations at the target and engine-made notifications
(spec/06_cores.md R175, 07_memory.md R205, 09_pumps.md R256, 10_sync_and_channels.md R260, R261, R494). -/

namespace Sys2Proof.Machine
open Sys2Proof

/-! ### Object instructions (R261) -/

section
variable {s : State} {x : CtxId} {rd ra : Reg} {rs : List MemReg} {op : Nat} {v cmp : Word}

/-- An object request leaves the context with its entries discarded (R175). -/
theorem objInstr_sends (h : Issues s x ([.x rd, .x ra] ++ rs)) (hr : op = 0 ∨ impliedRelease s x (xr s x ra) = true) :
    objInstr x rd ra rs op v cmp s = retire x (issueReq (.core x) (owner (dropEntries x s) x.c) (.object op) (xr s x ra) 4
      (leBytes 4 v.toNat) cmp false false x.c (.object rd) (dropEntries x s)) :=
  (issueInstr_issues h _).trans (if_neg (by rcases hr with hr | hr <;> simp [hr]))

/-- An update waits for the RELEASE that it implies (R205). -/
theorem objInstr_unreleased (hop : op ≠ 0) (hr : impliedRelease s x (xr s x ra) = false) : objInstr x rd ra rs op v cmp s = s := by
  unfold objInstr issueInstr
  split
  · exact if_pos (by simp [hop, hr])
  · rfl

end

/-! ### Requests at their target (R185, R236) -/

theorem atTarget_serves {s : State} {id : Nat} {q : Xact} {c : Cl} {wanted : Xact → Bool} (h : AtTarget s id q c) (hw : wanted q = true)
    (f : Xact → Cl → State → State) : atTarget id wanted f s = f q c s := by
  obtain ⟨hq, hphase, hcl, hcheck, hawake, hon⟩ := h
  simp [atTarget, hq, hphase, hw, hcl, hcheck, hawake, hon]

theorem objServe_answers {s : State} {id op : Nat} {q : Xact} {c : Cl} (h : AtTarget s id q c) (hk : q.kind = .object op)
    (f : BitVec 32 → Xact → BitVec 32) :
    let o := addrObj q.addr
    let old := objVal s c o.1 o.2
    objServe id op f s = answer q 0x00 (leBytes 4 old.toNat) (setObj c o.1 o.2 (f old q) s) :=
  atTarget_serves h (by simp [isObj, hk]) _

/-! ### Changing an object (R263) -/

theorem retire_onlyCores (x : CtxId) (s : State) : OnlyCores s (retire x s) :=
  (updCtx_onlyCores x _ s).trans (OnlyCores.trans (t := setCore _ _ _ _) rfl (coreWrap_onlyCores _ _ _ _ _ _))

theorem finishWait_onlyCores (x : CtxId) (rd : Reg) (v : Word) (s : State) : OnlyCores s (finishWait x rd v s) :=
  (endWait_onlyCores x s).trans <| (dropEntries_onlyCores x _).trans <| (updCtx_onlyCores x _ _).trans <|
    (updCtx_onlyCores x _ _).trans (retire_onlyCores x _)

theorem foldl_onlyCores {α : Type} {g : State → α → State} (h : ∀ s a, OnlyCores s (g s a)) (l : List α) (s : State) :
    OnlyCores s (l.foldl g s) := by
  induction l generalizing s with
  | nil => rfl
  | cons a l ih => exact (h s a).trans (ih _)

theorem wakeWaiters_onlyCores (c : Cl) (core obj : Nat) (s : State) : OnlyCores s (wakeWaiters c core obj s) := by
  refine foldl_onlyCores (fun t x => ?_) _ s
  split
  · split
    · exact finishWait_onlyCores x _ 0 t
    · rfl
  · rfl

theorem objs_setObj (s : State) (c : Cl) (k o : Nat) (v : BitVec 32) (key : Nat) :
    SMap.get 0 (setObj c k o v s).sync.objs key = if key = objKey c k o then v else SMap.get 0 s.sync.objs key := by
  unfold setObj
  split
  · next hv =>
    split
    · next hk => rw [hk, hv]; rfl
    · rfl
  · rw [(wakeWaiters_onlyCores c k o _).sync, SMap.get_set]

/-! ### Engine-made notifications (R494) -/

/-- A pump's notification names a cluster that its partition may not reach. -/
def noteDenied (s : State) (n : Note) : Bool :=
  match n.by_ with
  | .pump _ _ p => isWellhead s n.c || owner s n.c != some p
  | _ => false

/-- The cluster's partition is in reset. -/
def clResets (s : State) (c : Cl) : Bool :=
  match owner s c with
  | some p => partResetting s p
  | none => false

/-- The status that checks 5 to 7 of R185 give a notification. -/
def noteStatus (s : State) (n : Note) : Byte :=
  if noteDenied s n then 0x04 else if clResets s n.c then 0x05 else if computeOff s n.c then 0x09 else 0x00

/-- What the sender of a notification does with its status. -/
def noteAnswered (n : Note) (st : Byte) (s : State) : State :=
  match n.by_ with
  | .none => s
  | .pump ch serial _ => noteDone ch serial st s
  | .io t => if st = 0x00 then s else ioFail t st s

/-- The notification at place `i` is taken off the list. -/
def noteTaken (i : Nat) (s : State) : State := { s with sync := { s.sync with notes := s.sync.notes.eraseIdx i } }

section
variable {s : State} {i : Nat} {n : Note} (h : s.sync.notes[i]? = some n)
include h

theorem exec_note : exec (.objectAdd (.note i)) s = .next (
    if noteStatus s n = 0x00 && asleep s n.c then s
    else noteAnswered n (noteStatus s n) (
      if noteStatus s n = 0x00 ∧ n.ref.core < 24 ∧ n.ref.obj < 32 then
        setObj n.c n.ref.core n.ref.obj (objVal s n.c n.ref.core n.ref.obj + n.add) (noteTaken i s)
      else noteTaken i s)) := by
  show Host.Outcome.next (noteApply i ioFail s) = _
  rw [noteApply, h]
  rfl

theorem exec_note_held (hst : noteStatus s n = 0x00) (ha : asleep s n.c = true) : exec (.objectAdd (.note i)) s = .next s := by
  rw [exec_note h, if_pos (by simp [hst, ha])]

theorem exec_note_adds (hst : noteStatus s n = 0x00) (ha : asleep s n.c = false) (hc : n.ref.core < 24) (ho : n.ref.obj < 32) :
    exec (.objectAdd (.note i)) s = .next (noteAnswered n 0x00
      (setObj n.c n.ref.core n.ref.obj (objVal s n.c n.ref.core n.ref.obj + n.add) (noteTaken i s))) := by
  rw [exec_note h, if_neg (by simp [ha]), if_pos ⟨hst, hc, ho⟩, hst]

theorem exec_note_nowhere (hst : noteStatus s n = 0x00) (ha : asleep s n.c = false) (ho : 24 ≤ n.ref.core ∨ 32 ≤ n.ref.obj) :
    exec (.objectAdd (.note i)) s = .next (noteAnswered n 0x00 (noteTaken i s)) := by
  rw [exec_note h, if_neg (by simp [ha]), if_neg (by omega), hst]

theorem exec_note_refused {st : Byte} (hst : noteStatus s n = st) (hne : st ≠ 0x00) :
    exec (.objectAdd (.note i)) s = .next (noteAnswered n st (noteTaken i s)) := by
  rw [exec_note h, hst, decide_eq_false hne, if_neg (by simp), if_neg fun e => hne e.1]

end

theorem noteDenied_own {s : State} {n : Note} (h : n.by_ = .none ∨ ∃ t, n.by_ = .io t) : noteDenied s n = false := by
  rcases h with h | ⟨t, h⟩ <;> simp only [noteDenied, h]

theorem noteDenied_pump {s : State} {n : Note} {ch : ChanId} {serial : Nat} {p : Fin 64} (h : n.by_ = .pump ch serial p) :
    noteDenied s n = (isWellhead s n.c || owner s n.c != some p) := by
  simp only [noteDenied, h]

theorem noteDenied_pump_own {s : State} {n : Note} {ch : ChanId} {serial : Nat} {p : Fin 64} (h : n.by_ = .pump ch serial p)
    (hw : isWellhead s n.c = false) (ho : owner s n.c = some p) : noteDenied s n = false := by
  simp [noteDenied_pump h, hw, ho]

section
variable {n : Note} (st : Byte) (s : State)

theorem noteAnswered_none (h : n.by_ = .none) : noteAnswered n st s = s := by
  simp only [noteAnswered, h]

theorem noteAnswered_io {t : TileId} (h : n.by_ = .io t) : noteAnswered n st s = if st = 0x00 then s else ioFail t st s := by
  simp only [noteAnswered, h]

theorem noteAnswered_pump {ch : ChanId} {serial : Nat} {p : Fin 64} (h : n.by_ = .pump ch serial p) :
    noteAnswered n st s = noteDone ch serial st s := by
  simp only [noteAnswered, h]

end

theorem noteStatus_ok {s : State} {n : Note} (hd : noteDenied s n = false) (hr : clResets s n.c = false) (ho : computeOff s n.c = false) :
    noteStatus s n = 0x00 := by
  simp [noteStatus, hd, hr, ho]

theorem noteStatus_down {s : State} {n : Note} (hd : noteDenied s n = false) (h : clResets s n.c = true ∨ computeOff s n.c = true) :
    noteStatus s n = if clResets s n.c then 0x05 else 0x09 := by
  rw [noteStatus, hd]
  cases hr : clResets s n.c <;> simp_all

theorem exec_note_pumpRefused {s : State} {i : Nat} {n : Note} (h : s.sync.notes[i]? = some n) {ch : ChanId} {serial : Nat} {p : Fin 64}
    (hb : n.by_ = .pump ch serial p) {st : Byte} (hst : noteStatus s n = st) (hne : st ≠ 0x00) :
    exec (.objectAdd (.note i)) s = .next (noteDone ch serial st (noteTaken i s)) := by
  rw [exec_note_refused h hst hne, noteAnswered_pump _ _ hb]

/-- Whoever sent a notification that passes its checks, what answering it comes to. -/
theorem exec_note_answered {s : State} {i : Nat} {n : Note} (v : State) (hr : clResets s n.c = false) (ho : computeOff s n.c = false)
    (h : noteStatus s n = 0x00 → exec (.objectAdd (.note i)) s = .next (noteAnswered n 0x00 v)) :
    (n.by_ = .none → exec (.objectAdd (.note i)) s = .next v) ∧
    (∀ t, n.by_ = .io t → exec (.objectAdd (.note i)) s = .next v) ∧
    (∀ ch serial p, n.by_ = .pump ch serial p → isWellhead s n.c = false → owner s n.c = some p →
      exec (.objectAdd (.note i)) s = .next (noteDone ch serial 0x00 v)) := by
  refine ⟨fun hb => ?_, fun t hb => ?_, fun ch serial p hb hw hp => ?_⟩
  · rw [h (noteStatus_ok (noteDenied_own (.inl hb)) hr ho), noteAnswered_none _ _ hb]
  · rw [h (noteStatus_ok (noteDenied_own (.inr ⟨t, hb⟩)) hr ho), noteAnswered_io _ _ hb, if_pos rfl]
  · rw [h (noteStatus_ok (noteDenied_pump_own hb hw hp) hr ho), noteAnswered_pump _ _ hb]

/-- Settles O15: object instructions by the RELEASE they imply, operations by `objServe`, notifications by their status. -/
theorem objectAccesses : Obligations.ObjectAccesses := by
  unfold Obligations.ObjectAccesses
  refine ⟨⟨fun s x rd ra h => congrArg _ (objInstr_sends h (.inl rfl)), fun s x rd ra rv rc =>
      ⟨fun h hr => ⟨congrArg _ (objInstr_sends h (.inr hr)), congrArg _ (objInstr_sends h (.inr hr))⟩,
       fun h hr => congrArg _ (objInstr_sends h (.inr hr)),
       fun hr => ⟨congrArg _ (objInstr_unreleased (by decide) hr), congrArg _ (objInstr_unreleased (by decide) hr),
        congrArg _ (objInstr_unreleased (by decide) hr)⟩⟩⟩,
    fun s id q c h => ⟨fun hk => congrArg _ (objServe_answers h hk _), fun hk => congrArg _ (objServe_answers h hk _),
      fun hk => congrArg _ (objServe_answers h hk _), fun hk => congrArg _ (objServe_answers h hk _)⟩,
    fun s i n h => ⟨fun hr ho ha hc hb => ?_, fun hr ho ha hd => ?_, fun hr ho ha hb => ?_, fun hb hd => ?_, fun t hb hd => ?_,
      fun ch serial p hb => ⟨fun hd => ?_, fun hw hp hr => ?_, fun hw hp hr ho => ?_⟩⟩, objs_setObj⟩
  · exact exec_note_answered _ hr ho fun hst => exec_note_adds h hst ha hc hb
  · have hown : noteDenied s n = false := by
      unfold noteDenied
      split
      · next ch serial p hb => simp [hd ch serial p hb]
      · rfl
    exact exec_note_held h (noteStatus_ok hown hr ho) ha
  · exact exec_note_answered _ hr ho fun hst => exec_note_nowhere h hst ha hb
  · rw [exec_note_refused h (noteStatus_down (noteDenied_own (.inl hb)) hd) (by split <;> decide), noteAnswered_none _ _ hb]
    rfl
  · have hne : (if clResets s n.c then (0x05 : Byte) else 0x09) ≠ 0x00 := by split <;> decide
    rw [exec_note_refused h (noteStatus_down (noteDenied_own (.inr ⟨t, hb⟩)) hd) hne, noteAnswered_io _ _ hb, if_neg hne]
    rfl
  · exact exec_note_pumpRefused h hb (if_pos (by rw [noteDenied_pump hb]; simpa using hd)) (by decide)
  · have hreset : clResets s n.c = true := by rw [clResets, hp]; exact hr
    have hst := noteStatus_down (noteDenied_pump_own hb hw hp) (.inl hreset)
    exact exec_note_pumpRefused h hb (hst.trans (if_pos hreset)) (by decide)
  · have hgo : ¬ clResets s n.c = true := by rw [clResets, hp]; simp [hr]
    have hst := noteStatus_down (noteDenied_pump_own hb hw hp) (.inr ho)
    exact exec_note_pumpRefused h hb (hst.trans (if_neg hgo)) (by decide)

end Sys2Proof.Machine
end

section
/-! PROOFS. Integer operations and branches (spec/02_number_formats.md R46, 06_cores.md R167, R168, R171, R496). -/

namespace Sys2Proof.Machine
open Sys2Proof

/-! ### Results (R46, R167) -/

theorem int64_exact (op : IntOp) (a b : Word) : (int64 op a b).ovf = false := by
  cases op <;> rfl

theorem divZero_int64 (op : IntOp) (b : Word) : divZero op false b = true ↔ (op = .div ∨ op = .rem) ∧ b = 0 := by
  simp [divZero]

theorem divZero_int32 (op : IntOp) (b : Word) : divZero op true b = true ↔ (op = .div ∨ op = .rem) ∧ b.setWidth 32 = 0#32 := by
  simp [divZero]

/-- A comparison of the 64-bit operations gives 1 or 0. -/
theorem int64_comparisons (a b : Word) :
    (int64 .eq a b).v = (if a = b then 1 else 0) ∧ (int64 .ne a b).v = (if a = b then 0 else 1) ∧
    (int64 .lt a b).v = (if a.toInt < b.toInt then 1 else 0) ∧ (int64 .ge a b).v = (if b.toInt ≤ a.toInt then 1 else 0) ∧
    (int64 .ltu a b).v = (if a.toNat < b.toNat then 1 else 0) ∧ (int64 .geu a b).v = (if b.toNat ≤ a.toNat then 1 else 0) := by
  simp [int64, BitVec.slt, BitVec.ult]

/-- The numeric comparisons read the low halves. -/
theorem int32_comparisons (a b : Word) : let x := a.setWidth 32
    let y := b.setWidth 32
    (int32 .eq a b).v = (if x = y then 1 else 0) ∧ (int32 .ne a b).v = (if x = y then 0 else 1) ∧
    (int32 .lt a b).v = (if x.toInt < y.toInt then 1 else 0) ∧ (int32 .ge a b).v = (if y.toInt ≤ x.toInt then 1 else 0) ∧
    (int32 .ltu a b).v = (if x.toNat < y.toNat then 1 else 0) ∧ (int32 .geu a b).v = (if y.toNat ≤ x.toNat then 1 else 0) := by
  simp [int32, BitVec.slt, BitVec.ult]

/-- Saturation bounds the exact result on both sides, and is reported where it changed it. -/
theorem sat32_clamps (i : Int) : sat32 i =
    ⟨BitVec.ofInt 64 (max (-2 ^ 31) (min (2 ^ 31 - 1) i)), decide (i < -2 ^ 31 ∨ 2 ^ 31 - 1 < i)⟩ := by
  unfold sat32
  split
  · next h => rw [Int.min_eq_left (by omega), Int.max_eq_right (by omega), decide_eq_true (.inr h)]
  · next hhi =>
    rw [Int.min_eq_right (by omega)]
    split
    · next h => rw [Int.max_eq_left (by omega), decide_eq_true (.inl h)]
    · next hlo => rw [Int.max_eq_right (by omega), decide_eq_false (by omega)]

theorem int32_exact (op : IntOp) (a b : Word) (hadd : op ≠ .add) (hsub : op ≠ .sub) (hmul : op ≠ .mul) (hdiv : op ≠ .div)
    (hrem : op ≠ .rem) (hshl : op ≠ .shl) : (int32 op a b).ovf = false := by
  cases op with
  | add | sub | mul | div | rem | shl => contradiction
  | shr | sar => simp only [int32]; split <;> rfl
  | and | or | xor | eq | ne | lt | ltu | ge | geu => rfl

/-! ### INTEGER_OP -/

section
variable {s : State} {x : CtxId} {op : IntOp} {rd ra : Reg} {b : Src2} (h : Issues s x ([.x rd, .x ra] ++ src2Regs b))
include h

theorem exec_integerOp_divZero {num32 : Bool} (hz : divZero op num32 (src2 s x b) = true) :
    exec (.integerOp x op num32 rd ra b) s = .next (trapHere x 0x07 0 0 s) :=
  congrArg Host.Outcome.next ((issueInstr_issues h _).trans (if_pos hz))

theorem exec_integerOp_int32 (hz : divZero op true (src2 s x b) = false) :
    let r := int32 op (xr s x ra) (src2 s x b)
    exec (.integerOp x op true rd ra b) s =
      .next (retire x (wx x rd r.v (if r.ovf then coreReport x false 0x0D [⟨0, true, 0⟩] s else s))) :=
  congrArg Host.Outcome.next ((issueInstr_issues h _).trans (if_neg (Bool.eq_false_iff.1 hz)))

theorem exec_integerOp_int64 (hz : divZero op false (src2 s x b) = false) :
    exec (.integerOp x op false rd ra b) s = .next (retire x (wx x rd (int64 op (xr s x ra) (src2 s x b)).v s)) := by
  refine congrArg Host.Outcome.next ((issueInstr_issues h _).trans ((if_neg (Bool.eq_false_iff.1 hz)).trans ?_))
  simp [int64_exact]

end

/-! ### BRANCH -/

theorem rets_pushRet (x : CtxId) (s : State) : (ctxRec (pushRet x s) x).rets = (((ctxRec s x).pc + 4) :: (ctxRec s x).rets).take 8 := by
  rw [pushRet, ctxRec_updCtx_self]

/-- Settles O8: INTEGER_OP by its divisor and its width, the results by their kind, BRANCH by the kind of branch. -/
theorem integerAndBranchResults : Obligations.IntegerAndBranchResults := by
  unfold Obligations.IntegerAndBranchResults
  refine ⟨⟨fun s x op rd ra b h => ⟨exec_integerOp_int64 h, exec_integerOp_int32 h, fun num32 => exec_integerOp_divZero h⟩,
    fun a b => ⟨fun op => divZero_int64 op b, fun op => divZero_int32 op b⟩, fun a b => ?_, fun a b => ?_⟩,
    fun s x => ⟨fun c ra rb target h => next_issued h, fun target h => next_issued h, fun rd target h => next_issued h,
      fun rd ra h => next_issued h, fun ra h => next_issued h, fun ra h => next_issued h, rets_pushRet x s⟩⟩
  · obtain ⟨heq, hne, hlt, hge, hltu, hgeu⟩ := int64_comparisons a b
    exact ⟨rfl, rfl, rfl, rfl, rfl, rfl, fun hb => ⟨if_pos hb, if_pos hb, if_pos hb⟩, heq, hne, hlt, hge, hltu, hgeu, rfl, rfl⟩
  · obtain ⟨heq, hne, hlt, hge, hltu, hgeu⟩ := int32_comparisons a b
    refine ⟨sat32_clamps _, sat32_clamps _, sat32_clamps _, sat32_clamps _, sat32_clamps _, rfl, rfl, rfl, fun hy => ⟨?_, ?_, ?_⟩,
      heq, hne, hlt, hge, hltu, hgeu, fun op => int32_exact op a b⟩
    · exact (if_pos hy).trans (sat32_clamps _)
    · exact congrArg IntRes.v (if_pos hy)
    · exact congrArg IntRes.v (if_pos hy)

end Sys2Proof.Machine
end

section
/-! PROOFS. Loads, stores, atomics, fences and block accesses of a core (spec/06_cores.md R165-R175, 07_memory.md R185, R202-R207). -/

namespace Sys2Proof.Machine
open Sys2Proof

/-! ### A request sent (R185, R216) -/

/-- Entering the mesh settles where a request stands, and nothing of what it asks. -/
theorem enter_asks (s : State) (q : Xact) : ∃ pos port vc1 since epoch phase timer,
    enter s q = { q with pos := pos, port := port, vc1 := vc1, since := since, epoch := epoch, phase := phase, timer := timer } := by
  unfold enter
  dsimp only
  split
  · exact ⟨_, _, _, _, _, _, _, rfl⟩
  · split <;> exact ⟨_, _, _, _, _, _, _, rfl⟩

/-- A request sent, refused or not, is the newest of the mesh. -/
theorem issueReq_appends (who : Requester) (p : Option (Fin 64)) (k : ReqKind) (a : Word) (len : Nat) (d : List Byte) (op : Word)
    (sat ra : Bool) (src : Cl) (use : Use) (s : State) :
    ∃ q : Xact, q.id = s.net.nextId ∧ q.who = who ∧ q.part = p ∧ q.kind = k ∧ q.addr = a ∧ q.len = len ∧ q.data = d ∧
      q.operand = op ∧ q.sat = sat ∧ q.ra = ra ∧ q.use = use ∧
      issueReq who p k a len d op sat ra src use s =
        { s with net := { s.net with xacts := s.net.xacts ++ [q], nextId := s.net.nextId + 1 } } := by
  unfold issueReq
  dsimp only
  split
  · exact ⟨_, rfl, rfl, rfl, rfl, rfl, rfl, rfl, rfl, rfl, rfl, rfl, rfl⟩
  · obtain ⟨pos, port, vc1, since, epoch, phase, timer, he⟩ := enter_asks s _
    rw [he]
    exact ⟨_, rfl, rfl, rfl, rfl, rfl, rfl, rfl, rfl, rfl, rfl, rfl, rfl⟩

/-! ### Loads and stores (R167, R173, R175, R203) -/

/-- The run-ahead entry in which an access lies. -/
def entryOf (s : State) (x : CtxId) (a : Word) (n : Nat) : Option RaEntry :=
  (ctxRec s x).entries.find? fun e => (selfAddr s e.addr).toNat ≤ (selfAddr s a).toNat ∧
    (selfAddr s a).toNat + n ≤ (selfAddr s e.addr).toNat + 64

/-- The entry is used up. -/
def entryTaken (x : CtxId) (e : RaEntry) (s : State) : State :=
  setCtx x { ctxRec s x with entries := (ctxRec s x).entries.erase e } s

section
variable {s : State} {x : CtxId} {dst : MemReg} {a : Word} {n : Nat} {signed : Bool}

theorem loadAt_unfit (hf : sizeFits dst n = false) : loadAt x dst a n signed s = illegal x s := if_pos (by simp [hf])

theorem loadAt_misaligned (hf : sizeFits dst n = true) (ha : a.toNat % n ≠ 0) : loadAt x dst a n signed s = trapHere x 0x03 0 a s :=
  (if_neg (by simp [hf])).trans (if_pos ha)

theorem loadAt_overlaps (hf : sizeFits dst n = true) (ha : a.toNat % n = 0) (ho : overlaps s x a n false = true) :
    loadAt x dst a n signed s = s :=
  (if_neg (by simp [hf])).trans ((if_neg (not_not_intro ha)).trans (if_pos ho))

section
variable (hf : sizeFits dst n = true) (ha : a.toNat % n = 0) (ho : overlaps s x a n false = false)
include hf ha ho

/-- The data of a load are in its entry. -/
theorem loadAt_filled {e : RaEntry} {d : List Byte} (he : entryOf s x a n = some e) (hd : e.data = some d) :
    loadAt x dst a n signed s = retire x (addRaUsed x (writeLoaded x dst signed
      ((d.drop ((selfAddr s a).toNat - (selfAddr s e.addr).toNat)).take n) (entryTaken x e s))) := by
  unfold entryOf at he
  simp only [loadAt, hf, ha, ho, he, hd, Bool.not_true, Bool.false_eq_true, if_false, ne_eq, not_true_eq_false, entryTaken]

/-- The read of a load is on its way for its entry. -/
theorem loadAt_onItsWay {e : RaEntry} (he : entryOf s x a n = some e) (hd : e.data = none) :
    loadAt x dst a n signed s = if 16 ≤ loadsOut s x then s else retire x (addRaUsed x (takeEntry e.req
      (.load dst signed (ctxRec s x).pc (some ((selfAddr s a).toNat - (selfAddr s e.addr).toNat, n))) (entryTaken x e s))) := by
  unfold entryOf at he
  simp only [loadAt, hf, ha, ho, he, hd, Bool.not_true, Bool.false_eq_true, if_false, ne_eq, not_true_eq_false, entryTaken]

theorem loadAt_sends (he : entryOf s x a n = none) :
    loadAt x dst a n signed s = if 16 ≤ loadsOut s x then s
      else retire x (issueReq (.core x) (owner s x.c) .read a n [] 0 false false x.c (.load dst signed (ctxRec s x).pc none) s) := by
  unfold entryOf at he
  simp only [loadAt, hf, ha, ho, he, Bool.not_true, Bool.false_eq_true, if_false, ne_eq, not_true_eq_false]

end

/-- What a store takes from its register, as a number. -/
def storedNat (s : State) (x : CtxId) : MemReg → Nat
  | .x r => (xr s x r).toNat
  | .f r => (fr s x r).toNat
  | .v r => (vr s x r).toNat

theorem storeAt_unfit (hf : sizeFits dst n = false) : storeAt x dst a n s = illegal x s := if_pos (by simp [hf])

theorem storeAt_misaligned (hf : sizeFits dst n = true) (ha : a.toNat % n ≠ 0) : storeAt x dst a n s = trapHere x 0x03 0 a s :=
  (if_neg (by simp [hf])).trans (if_pos ha)

theorem storeAt_waits (hf : sizeFits dst n = true) (ha : a.toNat % n = 0) (ho : overlaps s x a n true = true ∨ 32 ≤ posted s x.c x.k) :
    storeAt x dst a n s = s :=
  (if_neg (by simp [hf])).trans ((if_neg (not_not_intro ha)).trans (if_pos (by simpa using ho)))

theorem storeAt_sends (hf : sizeFits dst n = true) (ha : a.toNat % n = 0) (ho : overlaps s x a n true = false)
    (hp : posted s x.c x.k < 32) : storeAt x dst a n s = retire x (issueReq (.core x) (owner s x.c) .write a n
      (leBytes n (storedNat s x dst)) 0 false false x.c (.store (ctxRec s x).pc) (dropOverlapped x a n s)) :=
  (if_neg (by simp [hf])).trans ((if_neg (not_not_intro ha)).trans (if_neg (by simp [ho, hp])))

end

/-! ### Atomics and fences (R204, R207) -/

section
variable {s : State} {x : CtxId} {kind : AtomKind} {wide : Bool} {rd ra rs rc : Reg} {sat : Bool}
  (h : Issues s x ([.x rd, .x ra, .x rs] ++ if kind = .cas then [.x rc] else []))
include h

theorem exec_atomic_misaligned (ha : (xr s x ra).toNat % atomBytes kind wide ≠ 0) :
    exec (.atomic x kind wide rd ra rs rc sat) s = .next (trapHere x 0x03 0 (xr s x ra) s) :=
  (next_issued h).trans (congrArg _ (if_pos ha))

theorem exec_atomic_waits (ha : (xr s x ra).toNat % atomBytes kind wide = 0)
    (ho : overlaps s x (xr s x ra) (atomBytes kind wide) true = true ∨ 32 ≤ posted s x.c x.k) :
    exec (.atomic x kind wide rd ra rs rc sat) s = .next s :=
  (next_issued h).trans (congrArg _ ((if_neg (not_not_intro ha)).trans (if_pos (by simpa using ho))))

theorem exec_atomic_sends (ha : (xr s x ra).toNat % atomBytes kind wide = 0)
    (ho : overlaps s x (xr s x ra) (atomBytes kind wide) true = false) (hp : posted s x.c x.k < 32) :
    exec (.atomic x kind wide rd ra rs rc sat) s = .next (retire x (issueReq (.core x) (owner s x.c) (.atomic (AtomKind.code kind))
      (xr s x ra) (atomBytes kind wide) (leBytes (atomBytes kind wide) (xr s x rs).toNat) (if kind = .cas then xr s x rc else 0) sat false
      x.c (.atomic rd (atomBytes kind wide == 8) (ctxRec s x).pc) (dropEntries x s))) :=
  (next_issued h).trans (congrArg _ ((if_neg (not_not_intro ha)).trans (if_neg (by simp [ho, hp]))))

end

theorem exec_fence {s : State} {x : CtxId} (h : Issues s x []) (kind : FenceKind) (scope : FenceScope) :
    exec (.fence x kind scope) s = .next (if fenceOk s x kind scope then retire x (dropEntries x s) else s) := next_issued h

/-! ### Block accesses (R165, R202) -/

theorem blockParts_sum (a n : Nat) : ((blockParts a n).map (·.2)).sum = n := by
  unfold blockParts
  dsimp only
  split
  · simp
  · simp; omega

/-- Each part of a block stays within 32 aligned bytes, but a second part too long for that. -/
theorem blockParts_aligned (a : Nat) {n : Nat} (hn : 0 < n) : ∀ e ∈ blockParts a n, e.1 / 32 = (e.1 + e.2 - 1) / 32 ∨ 32 < e.2 := by
  unfold blockParts
  dsimp only
  split
  · rintro _ (_ | ⟨_, ⟨⟩⟩)
    left; dsimp only; omega
  · rintro _ (_ | ⟨_, _ | ⟨_, ⟨⟩⟩⟩)
    · left; dsimp only; omega
    · dsimp only; omega

theorem BFmt.bytes_pos (b : BFmt) : 0 < b.bytes := by
  unfold BFmt.bytes BFmt.hdr
  split <;> omega

/-- R165 allows the element format and the register group of a block load, of a block store. -/
abbrev loadGroupOk (vd : Reg) (dst : Nat) : Bool := [0x08, 0x06, 0x07].contains dst && groupOk vd dst
abbrev storeGroupOk (vs : Reg) (src : Nat) : Bool := [0x08, 0x06, 0x07, 0x04, 0x05, 0x0B].contains src && groupOk vs src

theorem not_or_not_of_and_false {p q : Bool} (h : (p && q) = false) : (!p || !q) = true := by rw [← Bool.not_and, h]; rfl

theorem not_not_or_not_of_and {p q : Bool} (h : (p && q) = true) : ¬ (!p || !q) = true := by rw [← Bool.not_and, h]; exact Bool.false_ne_true

/-- The reads of a block load's parts, made by the instruction at `pc`. -/
def blockReads (x : CtxId) (vd : Reg) (blk dst : Fmt) (sat : Bool) (a : Word) (pc : BitVec 48) (ps : List (Nat × Nat)) (s : State) : State :=
  ps.foldl (fun s p => issueReq (.core x) (owner s x.c) .read (BitVec.ofNat 64 p.1) p.2 [] 0 false false x.c
    (.blockLoad vd blk dst sat pc a none) s) s

/-- Sending a read leaves CTX_PC, so that each part of a block names the same instruction. -/
theorem blockReads_samePc (x : CtxId) (vd : Reg) (blk dst : Fmt) (sat : Bool) (a : Word) (ps : List (Nat × Nat)) (s : State) :
    blockReads x vd blk dst sat a (ctxRec s x).pc ps s = ps.foldl (fun s p => issueReq (.core x) (owner s x.c) .read (BitVec.ofNat 64 p.1)
      p.2 [] 0 false false x.c (.blockLoad vd blk dst sat (ctxRec s x).pc a none) s) s := by
  induction ps generalizing s with
  | nil => rfl
  | cons p ps ih => exact ih (issueReq (.core x) (owner s x.c) .read (BitVec.ofNat 64 p.1) p.2 [] 0 false false x.c
      (.blockLoad vd blk dst sat (ctxRec s x).pc a none) s)

section
variable {s : State} {x : CtxId} {vd ra : Reg} {off : Word} {blk dst : Fmt} {sat : Bool} (h : Issues s x (.x ra :: groupList vd dst.toNat))
include h

theorem exec_vbld_unfit (hu : blockFmt blk.toNat = none ∨ loadGroupOk vd dst.toNat = false) :
    exec (.vbld x vd ra off blk dst sat) s = .next (illegal x s) := by
  refine (next_issued h).trans (congrArg _ ?_)
  cases hb : blockFmt blk.toNat with
  | none => rfl
  | some b => exact if_pos (not_or_not_of_and_false (hu.resolve_left (by simp [hb])))

theorem exec_vbld_fits {b : BFmt} (hb : blockFmt blk.toNat = some b) (hok : loadGroupOk vd dst.toNat = true) :
    let a := xr s x ra + off
    let ps := blockParts a.toNat b.bytes
    exec (.vbld x vd ra off blk dst sat) s = .next (
      if overlaps s x a b.bytes false || decide (16 < loadsOut s x + ps.length) then s
      else retire x (blockReads x vd blk dst sat a (ctxRec s x).pc ps s)) := by
  refine (next_issued h).trans (congrArg _ ?_)
  rw [hb]
  dsimp only
  exact if_neg (not_not_or_not_of_and hok)

end

/-! ### Block stores -/

/-- The codes of a register group's 32 elements, and the block that they encode as. -/
def groupCodes (s : State) (x : CtxId) (vs : Reg) (src : Nat) : List Nat :=
  (List.range (groupRegs src)).flatMap fun i => vCodes src (vr s x (Fin.ofNat 32 (vs.val + i)))
def groupBlock (s : State) (x : CtxId) (vs : Reg) (src : Nat) (b : BFmt) (sat grad : Bool) : BlockRes :=
  encodeBlock b sat (coreDraws x grad 32 s).1 (((groupCodes s x vs src).take 32).map (decodeElem src))

/-- The formats of a block store have a register's elements by the width. -/
theorem elemsPerToken_store {src : Nat} (h : [0x08, 0x06, 0x07, 0x04, 0x05, 0x0B].contains src = true) :
    256 / fmtBits src = elemsPerToken src := by
  simp only [List.contains_eq_mem, List.mem_cons, List.not_mem_nil, or_false, decide_eq_true_eq] at h
  rcases h with rfl | rfl | rfl | rfl | rfl | rfl <;> rfl

/-- Only the cores differ, and reports on their way with their events. -/
def OnlyCoresReports (s t : State) : Prop := OnlyReports { s with core := t.core } t

theorem OnlyCoresReports.trans {s t u : State} (h : OnlyCoresReports s t) (g : OnlyCoresReports t u) : OnlyCoresReports s u := by
  unfold OnlyCoresReports OnlyReports at *
  rw [g, h]

theorem OnlyCores.onlyCoresReports {s t : State} (h : OnlyCores s t) : OnlyCoresReports s t := OnlyEvents.onlyReports h

theorem OnlyReports.onlyCoresReports {s t : State} (h : OnlyReports s t) : OnlyCoresReports s t := by
  unfold OnlyCoresReports
  rw [h.core]
  exact h

theorem OnlyCoresReports.net {s t : State} (h : OnlyCoresReports s t) : t.net = s.net := by rw [h]

theorem OnlyCoresReports.clusterMem {s t : State} (h : OnlyCoresReports s t) : t.mem.sram = s.mem.sram ∧ t.mem.stack = s.mem.stack := by
  rw [h]
  exact ⟨rfl, rfl⟩

/-- The state once the core has drawn for a block and told of its underflows and overflows. -/
def blockTold (x : CtxId) (blk : Nat) (r : BlockRes) (grad : Bool) (s : State) : State :=
  coreReport x true blk (List.replicate r.ovf ⟨0, true, 0⟩)
    (reportUdf x.c (coreUnit x.c x.k.val) r.under (coreDraws x grad 32 s).2)

section
variable (x : CtxId) (blk : Nat) (r : BlockRes) (grad : Bool) (s : State)

theorem blockTold_reports : OnlyReports (coreDraws x grad 32 s).2 (blockTold x blk r grad s) :=
  (reportUdf_onlyReports _ _ _ _).trans (coreReport_onlyReports _ _ _ _ _)

theorem blockTold_onlyCoresReports : OnlyCoresReports s (blockTold x blk r grad s) :=
  OnlyCoresReports.trans (t := (coreDraws x grad 32 s).2) rfl (blockTold_reports x blk r grad s).onlyCoresReports

theorem ctxRec_blockTold (y : CtxId) : ctxRec (blockTold x blk r grad s) y = ctxRec s y :=
  ctxRec_congr (s := (coreDraws x grad 32 s).2) (blockTold_reports x blk r grad s).core y

end

theorem dropOverlapped_onlyCores (x : CtxId) (a : Word) (n : Nat) (s : State) : OnlyCores s (dropOverlapped x a n s) :=
  OnlyCores.trans (t := setCtx _ _ s) rfl (addRaDiscarded_onlyCores _ _ _)

theorem pc_dropOverlapped (x : CtxId) (a : Word) (n : Nat) (s : State) : (ctxRec (dropOverlapped x a n s) x).pc = (ctxRec s x).pc := by
  simp [dropOverlapped]

/-- The writes of a block store's parts. -/
def blockWrites (x : CtxId) (a : Nat) (d : List Byte) (pc : BitVec 48) (ps : List (Nat × Nat)) (s : State) : State :=
  ps.foldl (fun s p => issueReq (.core x) (owner s x.c) .write (BitVec.ofNat 64 p.1) p.2 ((d.drop (p.1 - a)).take p.2) 0 false false x.c
    (.store pc) s) s

section
variable {s : State} {x : CtxId} {vs ra : Reg} {off : Word} {blk src : Fmt} {sat grad : Bool}
  (h : Issues s x (.x ra :: groupList vs src.toNat))
include h

theorem exec_vbst_unfit (hu : blockFmt blk.toNat = none ∨ storeGroupOk vs src.toNat = false) :
    exec (.vbst x vs ra off blk src sat grad) s = .next (illegal x s) := by
  refine (next_issued h).trans (congrArg _ ?_)
  cases hb : blockFmt blk.toNat with
  | none => rfl
  | some b => exact if_pos (not_or_not_of_and_false (hu.resolve_left (by simp [hb])))

theorem exec_vbst_fits {b : BFmt} (hb : blockFmt blk.toNat = some b) (hok : storeGroupOk vs src.toNat = true) :
    let a := xr s x ra + off
    let ps := blockParts a.toNat b.bytes
    let r := groupBlock s x vs src.toNat b sat grad
    exec (.vbst x vs ra off blk src sat grad) s = .next (
      if overlaps s x a b.bytes true || decide (32 < posted s x.c x.k + ps.length) then s
      else retire x (blockWrites x a.toNat (leBytes b.bytes (b.blockNat r)) (ctxRec s x).pc ps
        (dropOverlapped x a b.bytes (blockTold x blk.toNat r grad s)))) := by
  intro a ps r
  have hsame : BitVec.ofNat 64 a.toNat = a := by simp
  obtain ⟨hfmt, -⟩ := Bool.and_eq_true_iff.1 hok
  have hcodes : (fun i => unpack (vr s x (Fin.ofNat 32 (vs.val + i))).toNat (fmtBits src.toNat) (256 / fmtBits src.toNat)) =
      fun i => vCodes src.toNat (vr s x (Fin.ofNat 32 (vs.val + i))) := by
    rw [elemsPerToken_store hfmt]; rfl
  refine (next_issued h).trans (congrArg _ ?_)
  rw [hb]
  dsimp only
  rw [if_neg (not_not_or_not_of_and hok), hsame, hcodes, ← ctxRec_blockTold x blk.toNat r grad s x]
  rfl

end

/-- The parts of a block store are the newest requests, each a write of its bytes. -/
theorem blockWrites_appends (x : CtxId) (a : Nat) (d : List Byte) (pc : BitVec 48) (ps : List (Nat × Nat)) (s : State) :
    ∃ (qs : List Xact) (n : Nat), blockWrites x a d pc ps s = { s with net := { s.net with xacts := s.net.xacts ++ qs, nextId := n } } ∧
      qs.map (fun q => (q.kind, q.addr, q.data)) =
        ps.map fun p => (ReqKind.write, BitVec.ofNat 64 p.1, (d.drop (p.1 - a)).take p.2) := by
  induction ps generalizing s with
  | nil => exact ⟨[], s.net.nextId, by simp [blockWrites], rfl⟩
  | cons p ps ih =>
    obtain ⟨q, -, -, -, hk, ha, -, hd, -, -, -, -, hq⟩ := issueReq_appends (.core x) (owner s x.c) .write (BitVec.ofNat 64 p.1) p.2
      ((d.drop (p.1 - a)).take p.2) 0 false false x.c (.store pc) s
    obtain ⟨qs, n, hqs, hmap⟩ := ih { s with net := { s.net with xacts := s.net.xacts ++ [q], nextId := s.net.nextId + 1 } }
    refine ⟨q :: qs, n, ?_, by simp [hk, ha, hd, hmap]⟩
    rw [blockWrites, List.foldl_cons, hq]
    simpa [blockWrites] using hqs

/-- What a block store that sends its parts leaves (R165, R202). -/
theorem blockStore_effect (x : CtxId) (a : Word) (n blk : Nat) (r : BlockRes) (grad : Bool) (d : List Byte) (ps : List (Nat × Nat))
    (s : State) :
    let t := retire x (blockWrites x a.toNat d (ctxRec s x).pc ps (dropOverlapped x a n (blockTold x blk r grad s)))
    (ctxRec t x).pc = (ctxRec s x).pc + 4 ∧
      (t.net.xacts.drop s.net.xacts.length).map (fun q => (q.kind, q.addr, q.data)) =
        ps.map (fun p => (ReqKind.write, BitVec.ofNat 64 p.1, (d.drop (p.1 - a.toNat)).take p.2)) ∧
      t.net.xacts.take s.net.xacts.length = s.net.xacts ∧ t.mem.sram = s.mem.sram ∧ t.mem.stack = s.mem.stack := by
  have hu := (blockTold_onlyCoresReports x blk r grad s).trans (dropOverlapped_onlyCores x a n _).onlyCoresReports
  have hpc := pc_dropOverlapped x a n (blockTold x blk r grad s)
  rw [ctxRec_blockTold] at hpc
  generalize dropOverlapped x a n (blockTold x blk r grad s) = u at hu hpc
  obtain ⟨hsram, hstack⟩ := hu.clusterMem
  obtain ⟨qs, m, hw, hmap⟩ := blockWrites_appends x a.toNat d (ctxRec s x).pc ps u
  rw [hw]
  have ht := retire_onlyCores x { u with net := { u.net with xacts := u.net.xacts ++ qs, nextId := m } }
  obtain ⟨tsram, tstack⟩ := ht.clusterMem
  intro t
  have hx : t.net.xacts = s.net.xacts ++ qs := by rw [ht.net, ← hu.net]
  refine ⟨?_, ?_, ?_, tsram.trans hsram, tstack.trans hstack⟩
  · rw [ctxRec_retire, if_pos rfl, ← hpc]; rfl
  · rw [hx, List.drop_left, hmap]
  · rw [hx, List.take_left]

/-! ### Traps of misaligned accesses (R171, R185) -/

theorem trapHere_records {s : State} {x : CtxId} (h : (ctxRec s x).state = .ready) (cause : Byte) (fmt : BitVec 5) (a : Word) :
    let t := trapHere x cause fmt a s
    (ctxRec t x).cause = cause ∧ (ctxRec t x).trapPc = (ctxRec s x).pc ∧ (ctxRec t x).trapAddr = a ∧ t.net = s.net ∧
      t.mem.sram = s.mem.sram ∧ t.mem.stack = s.mem.stack := by
  obtain ⟨hcause, -, -, hpc, haddr, -, -, -, -, -, -, -, -, -, hsram, hstack, hnet, -⟩ :=
    (systemInstructionsAndTraps.2 s x cause 0x00 fmt (ctxRec s x).pc (ctxRec s x).pc a).1 (.inl h)
  exact ⟨hcause, hpc, haddr, hnet, hsram, hstack⟩

/-- Settles O13: loads and stores by `loadAt` and `storeAt` and their checks, block accesses by their format and their parts. -/
theorem coreMemoryInstructions : Obligations.CoreMemoryInstructions := by
  unfold Obligations.CoreMemoryInstructions
  refine ⟨⟨fun s x r ra off o size signed => ⟨fun h => ⟨next_issued h, next_issued h⟩, fun h => ⟨next_issued h, next_issued h⟩, rfl⟩,
      fun s x dst a n signed => ⟨loadAt_unfit, loadAt_misaligned, fun hf ha => ⟨loadAt_overlaps hf ha, fun ho =>
        ⟨fun e d he hd => loadAt_filled hf ha ho he hd, fun hfull hit => ?_, fun hroom => ⟨fun e he hd => ?_, fun he => ?_⟩⟩⟩⟩,
      fun s x src a n => ⟨storeAt_unfit, storeAt_misaligned, fun hf ha => ⟨storeAt_waits hf ha, storeAt_sends hf ha⟩⟩,
      fun s x kind wide rd ra rs rc sat h => ⟨exec_atomic_misaligned h, exec_atomic_waits h, exec_atomic_sends h⟩,
      fun s x kind scope h => ⟨fun hf => ?_, fun hf => ?_⟩, issueReq_appends⟩,
    ⟨fun s x r ra off size signed h hf ha => ⟨(next_issued h).trans (congrArg _ (loadAt_misaligned hf ha)),
        (next_issued h).trans (congrArg _ (storeAt_misaligned hf ha))⟩,
      fun s x a h => trapHere_records h 0x03 0 a⟩,
    fun s x vd ra off blk dst sat h => ⟨exec_vbld_unfit h, fun b hb hok => ⟨fun hw => ?_, fun ho hp => ?_⟩⟩,
    fun s x vs ra off blk src sat grad h => ⟨exec_vbst_unfit h, fun b hb hok => ⟨fun hw => ?_, fun ho hp => ?_⟩⟩,
    fun a b => ⟨blockParts_sum a b.bytes, blockParts_aligned a b.bytes_pos⟩⟩
  · rcases hit with he | ⟨e, he, hd⟩
    · rw [loadAt_sends hf ha ho he, if_pos hfull]
    · rw [loadAt_onItsWay hf ha ho he hd, if_pos hfull]
  · rw [loadAt_onItsWay hf ha ho he hd, if_neg (Nat.not_le.2 hroom)]; rfl
  · rw [loadAt_sends hf ha ho he, if_neg (Nat.not_le.2 hroom)]
  · rw [exec_fence h, if_pos hf]
  · rw [exec_fence h, if_neg (Bool.eq_false_iff.1 hf)]
  · rw [exec_vbld_fits h hb hok, if_pos (by simpa using hw)]
  · rw [exec_vbld_fits h hb hok, if_neg (by simpa [ho] using hp), blockReads_samePc]
  · rw [exec_vbst_fits h hb hok, if_pos (by simpa using hw)]
  · rw [exec_vbst_fits h hb hok, if_neg (by simpa [ho] using hp)]
    exact ⟨_, rfl, blockStore_effect x _ b.bytes blk.toNat _ grad _ _ s⟩

end Sys2Proof.Machine
end

section
/-! PROOFS. Answers at a context, run-ahead, instruction fetch and branch prediction (spec/06_cores.md R165, R171-R175, R182, R183,
R496, 07_memory.md R202, 08_mesh.md R238, R240). -/

namespace Sys2Proof.Machine
open Sys2Proof

/-! ### Taking a reply (R236, R240) -/

section
variable {s : State} {id : Nat} {q : Xact} {st : Byte} {d : List Byte} {wanted : Use → Bool} (h : Answered s id q st d)
include h

/-- A reply to a unit of a cluster in an idle state is held. -/
theorem takeReply_held (hcl : whoEdge q.who = none) (ha : asleep s q.src = true) (f : Xact → Byte → List Byte → State → State) :
    takeReply id wanted f s = s := by
  obtain ⟨hq, hphase⟩ := h
  simp [takeReply, hq, hphase, hcl, ha]

theorem takeReply_takes (hw : wanted q.use = true) (ha : asleep s q.src = false) (f : Xact → Byte → List Byte → State → State) :
    takeReply id wanted f s = f q st d (dropXact id s) := by
  obtain ⟨hq, hphase⟩ := h
  simp [takeReply, hq, hphase, hw, ha]

theorem exec_loadComplete (hr : q.use.isRead = true) (ha : asleep s q.src = false) :
    exec (.loadComplete id) s = .next (readReply q st d (dropXact id s)) := congrArg Host.Outcome.next (takeReply_takes h hr ha _)

theorem exec_storeComplete (hw : q.use.isWrite = true) (ha : asleep s q.src = false) :
    exec (.storeComplete id) s = .next (writeReply q st d (dropXact id s)) := congrArg Host.Outcome.next (takeReply_takes h hw ha _)

end

/-! ### What an answer does (R165, R171, R174, R175, R202, R261) -/

section
variable {q : Xact} (st : Byte) (d : List Byte) (u : State)

theorem readReply_orphaned (ho : q.orphaned = true) : readReply q st d u = u := if_pos ho

theorem writeReply_orphaned (ho : q.orphaned = true) : writeReply q st d u = u := if_pos ho

variable {x : CtxId} (ho : q.orphaned = false) (hx : q.who = .core x)
include ho hx

theorem readReply_load {dst : MemReg} {signed : Bool} {pc : BitVec 48} (hu : q.use = .load dst signed pc none) : readReply q st d u =
    if st = 0x00 then writeLoaded x dst signed d (loadReturns x q u) else accessTrap x st pc q.addr (loadReturns x q u) := by
  simp only [readReply, ho, hx, hu, Bool.false_eq_true, if_false, ne_eq, ite_not]

theorem readReply_entry {dst : MemReg} {signed : Bool} {pc : BitVec 48} {off n : Nat} (hu : q.use = .load dst signed pc (some (off, n))) :
    readReply q st d u = if st = 0x00 then writeLoaded x dst signed ((d.drop off).take n) (loadReturns x q u)
      else loadAgain x q dst signed pc off n u := by
  simp only [readReply, ho, hx, hu, Bool.false_eq_true, if_false, ne_eq, ite_not]

theorem readReply_block {vd : Reg} {blk dst : BitVec 5} {sat : Bool} {pc : BitVec 48} {a : Word} {half : Option (List Byte)}
    (hu : q.use = .blockLoad vd blk dst sat pc a half) : readReply q st d u =
      if st = 0x00 then blockReturns x q vd blk dst sat pc a half d (loadReturns x q u)
      else accessTrap x st pc q.addr (dropMate x pc a (loadReturns x q u)) := by
  simp only [readReply, ho, hx, hu, Bool.false_eq_true, if_false, ne_eq, ite_not]

theorem readReply_object {rd : Reg} (hu : q.use = .object rd) : readReply q st d u =
    wx x rd (BitVec.ofNat 64 ((if st = 0x00 then leNat (d.take 4) else 0) + st.toNat * 2 ^ 32)) u := by
  simp only [readReply, ho, hx, hu, Bool.false_eq_true, if_false]

/-- A run-ahead read fills its entry, or a failed one leaves none. -/
theorem readReply_runahead (hu : q.use = .runahead) : readReply q st d u = setCtx x { ctxRec u x with
    entries := if st = 0x00 then (ctxRec u x).entries.map fun e => if e.req = q.id then { e with data := some d, filled := u.t.now } else e
      else (ctxRec u x).entries.filter (·.req != q.id) } u := by
  simp only [readReply, ho, hx, hu, Bool.false_eq_true, if_false, ne_eq, ite_not]
  split <;> rfl

theorem writeReply_store {pc : BitVec 48} (hu : q.use = .store pc) :
    writeReply q st d u = if st = 0x00 then u else accessTrap x st pc q.addr u := by
  simp only [writeReply, ho, hx, hu, Bool.false_eq_true, if_false, ne_eq, ite_not]

theorem writeReply_atomicFails {rd : Reg} {wide : Bool} {pc : BitVec 48} (hu : q.use = .atomic rd wide pc) (hst : st ≠ 0x00) :
    writeReply q st d u = accessTrap x st pc q.addr u := by
  simp only [writeReply, ho, hx, hu, Bool.false_eq_true, if_false, if_pos hst]

theorem writeReply_atomicWide {rd : Reg} {pc : BitVec 48} (hu : q.use = .atomic rd true pc) :
    writeReply q 0x00 d u = wx x rd (BitVec.ofNat 64 (leNat d)) u := by
  simp only [writeReply, ho, hx, hu, Bool.false_eq_true, if_false, ne_eq, not_true_eq_false, if_true]

/-- The upper half of a 4-byte atomic's register is a free value. -/
theorem writeReply_atomicNarrow {rd : Reg} {pc : BitVec 48} (hu : q.use = .atomic rd false pc) : ∃ half : Word, writeReply q 0x00 d u =
    wx x rd (BitVec.ofNat 64 (half.toNat / 2 ^ 32 * 2 ^ 32 + leNat (d.take 4))) { u with freeCount := u.freeCount + 1 } := by
  refine ⟨(takeFree u).1, ?_⟩
  simp only [writeReply, ho, hx, hu, Bool.false_eq_true, if_false, ne_eq, not_true_eq_false]
  rfl

end

/-! ### Time-outs (R238, R240) -/

theorem exec_requestTimeout {s : State} {id began : Nat} {q : Xact} (hq : xactOf s id = some q) (hp : ∀ st d, q.phase ≠ .home st d)
    (ht : q.timer = some began) (hd : q.dead = false) (hr : relocking s = false) :
    let w := waitUntil s (began + timeoutOf s q)
    exec (.requestTimeout id) s =
      .next (completeWith q 0x06 (if q.phase = .lost then dropXact q.id w else setXact { q with dead := true, use := .drop } w)) := by
  show execRequestTimeout id s = _
  cases hph : q.phase with
  | home st d => exact absurd hph (hp st d)
  | inject | going | there | back | lost => simp [execRequestTimeout, hq, ht, hph, hd, hr]

/-- A core's request that timed out completes as one answered with TIMEOUT. -/
theorem completeWith_core {q : Xact} {x : CtxId} (hx : q.who = .core x) (ho : q.orphaned = false) (u : State) :
    (∀ pc, q.use = .store pc → completeWith q 0x06 u = accessTrap x 0x06 pc q.addr u) ∧
    (∀ dst signed pc, q.use = .load dst signed pc none → completeWith q 0x06 u = accessTrap x 0x06 pc q.addr (loadReturns x q u)) ∧
    (∀ rd wide pc, q.use = .atomic rd wide pc → completeWith q 0x06 u = accessTrap x 0x06 pc q.addr u) ∧
    (∀ rd, q.use = .object rd → completeWith q 0x06 u = wx x rd (BitVec.ofNat 64 (6 * 2 ^ 32)) u) := by
  refine ⟨fun pc hu => ?_, fun dst signed pc hu => ?_, fun rd wide pc hu => ?_, fun rd hu => ?_⟩ <;> simp only [completeWith, hu]
  · exact writeReply_store _ _ u ho hx hu
  · exact readReply_load _ _ u ho hx hu
  · exact writeReply_atomicFails _ _ u ho hx hu (by decide)
  · exact readReply_object _ _ u ho hx hu

/-! ### Run-ahead (R173, R175) -/

@[simp] theorem ctxRec_waitUntil (s : State) (n : Nat) (x : CtxId) : ctxRec (waitUntil s n) x = ctxRec s x := rfl
@[simp] theorem coreRec_waitUntil (s : State) (n : Nat) (c : Cl) (k : Nat) : coreRec (waitUntil s n) c k = coreRec s c k := rfl

/-- The load has been awaited for more than 32 cycles, and the walk of run-ahead begins. -/
def raAwaited (s : State) (x : CtxId) (q : Xact) : State := waitUntil s (q.timer.getD s.t.now + 33 * 8 / max (arithK s x.c) 1 + 1)
def raStart (s : State) (x : CtxId) (i : RaInstr) (q : Xact) : Option RaWalk :=
  raFrom (coreRec s x.c x.k.val) i.op ⟨(ctxRec s x).pc, shadowInit (raAwaited s x q) x, (ctxRec s x).rets⟩

section
variable {s : State} {x : CtxId} {code : List RaInstr} {i : RaInstr} {q : Xact} (hc : canIssue s x = true)
  (hi : code.find? (fun i => i.pc == (ctxRec s x).pc) = some i) (hq : awaitedLoad s x i.regs = some q)
include hc hi hq

theorem exec_runaheadEnter_nowhere (hw : raStart s x i q = none) : exec (.runaheadEnter x code) s = .next (raAwaited s x q) := by
  unfold raStart raAwaited at hw
  show execRunaheadEnter x code s = _
  simp only [execRunaheadEnter, hc, hi, hq, Bool.not_true, Bool.false_eq_true, if_false, ctxRec_waitUntil, coreRec_waitUntil, hw]
  rfl

theorem exec_runaheadEnter_walks {w : RaWalk} (hw : raStart s x i q = some w) :
    let z := raRun x code 64 w (raAwaited s x q)
    exec (.runaheadEnter x code) s = .next (if z.1 then z.2.2
      else updCtx x (fun k => { k with runahead := true, shadow := some z.2.1.regs, raLoad := some q.id }) z.2.2) := by
  unfold raStart raAwaited at hw
  show execRunaheadEnter x code s = _
  simp only [execRunaheadEnter, hc, hi, hq, Bool.not_true, Bool.false_eq_true, if_false, ctxRec_waitUntil, coreRec_waitUntil, hw]
  rfl

end

section
variable {x : CtxId} {w : RaWalk} {s : State} {rd ra : Reg}

theorem raStep_int_known {op : IntOp} {v p : Word} (hp : shadowGet w.regs ra = some p) (hv : divZero op false v = false) :
    raStep x (.int op rd ra (.imm v)) w s =
      some ({ w with pc := w.pc + 4, regs := shadowSet w.regs (.x rd) (some (int64 op p v).v) }, s) := by
  simp only [raStep, hp, hv, Bool.false_eq_true, if_false]

theorem raStep_int_unknown {op : IntOp} {b : Src2} (hp : shadowGet w.regs ra = none) :
    raStep x (.int op rd ra b) w s = some (({ w with pc := w.pc + 4 } : RaWalk).forget [.x rd], s) := by
  simp only [raStep, hp]

theorem raStep_load {dst : MemReg} {off p : Word} {size : Nat} (hp : shadowGet w.regs ra = some p) (hf : sizeFits dst size = true)
    (ha : (p + off).toNat % max size 1 = 0) : raStep x (.load dst ra off size) w s =
      some (({ w with pc := w.pc + 4 } : RaWalk).forget [dst], raRead x (p + off) s) := by
  simp only [raStep, hp, hf, ha, Bool.not_true, Bool.false_or, ne_eq, not_true_eq_false, decide_false, Bool.false_eq_true, if_false]

end

theorem addRaDiscarded_t (x : CtxId) (n : Nat) (s : State) : (addRaDiscarded x n s).t = s.t := by
  rw [addRaDiscarded_onlyCores x n s]

theorem exec_runaheadEntryExpire {s : State} {x : CtxId} {e : Fin 8} {n : RaEntry} {d : List Byte}
    (hn : (ctxRec s x).entries[e.val]? = some n) (hd : n.data = some d) :
    let u := waitUntil s (n.filled + 4096 * 8 / max (arithK s x.c) 1)
    exec (.runaheadEntryExpire x e) s =
      .next (addRaDiscarded x 1 (setCtx x { ctxRec u x with entries := (ctxRec s x).entries.eraseIdx e.val } u)) := by
  show execRunaheadEntryExpire x e s = _
  simp only [execRunaheadEntryExpire, hn, hd, Option.isNone_some, Bool.false_eq_true, if_false]

/-! ### Instruction fetch (R182) -/

section
variable {s : State} {x : CtxId} {a : BitVec 48} (hs : (ctxRec s x).state = .ready) (hra : (ctxRec s x).runahead = false)
  (hpc : (ctxRec s x).pc = a) (hon : arithOn s x.c = true) (hdry : dryCore s x.c x.k.val = false)
include hs hra hpc hon hdry

theorem exec_icacheFill_badAddress (ha : pcOk a = false) :
    exec (.icacheFill x a) s = .next (settle (takeTrap x 0x05 0x03 0 a (fetchAddr a.toNat) a s)) := by
  show execIcacheFill x a s = _
  simp [execIcacheFill, hs, hra, hpc, hon, hdry, ha]

theorem exec_icacheFill_cached (ha : pcOk a = true) (hl : lineCached s x a = true) :
    exec (.icacheFill x a) s = .next (settle s) := by
  show execIcacheFill x a s = _
  simp [execIcacheFill, hs, hra, hpc, hon, hdry, ha, hl]

/-- A line that is not there is counted as a miss, or as a parity error that is met, and read. -/
theorem exec_icacheFill_reads (ha : pcOk a = true) (hl : lineCached s x a = false) :
    let line := a.toNat / 64
    let m := if (coreRec s x.c x.k.val).badLines.contains line then cacheParity x line s else addMisses x s
    let f := fetchLine x line m
    let u := addLine x.c x.k.val line f.2
    let g := fetchLine x (line + 1) u
    exec (.icacheFill x a) s = .next (settle (
      if f.1 ≠ 0x00 then takeTrap x 0x05 f.1 0 a (fetchAddr a.toNat) a f.2
      else if g.1 = 0x00 then addLine x.c x.k.val (line + 1) g.2 else g.2)) := by
  show execIcacheFill x a s = _
  simp only [execIcacheFill, hs, hra, hpc, hon, hdry, ha, hl, ne_eq, not_true_eq_false, decide_false, Bool.not_true, Bool.or_false,
    Bool.false_eq_true, if_false]

end

theorem addLine_contains (c : Cl) (k line : Nat) (s : State) : (coreRec (addLine c k line s) c k).lines.contains line = true := by
  unfold addLine
  dsimp only
  split
  · assumption
  · split <;> simp

/-! ### Branch prediction (R496) -/

theorem predictor_train_self (s : State) (x : CtxId) (pc : BitVec 48) (taken : Bool) :
    SMap.get 1 (coreRec (trainPredictor x pc taken s) x.c x.k.val).predictor (predIndex pc) =
      stepCounter (SMap.get 1 (coreRec s x.c x.k.val).predictor (predIndex pc)) taken := by
  rw [trainPredictor, coreRec_setCore_self, SMap.get_upd_self]

theorem predictor_train_other (s : State) (x : CtxId) (pc : BitVec 48) (taken : Bool) {i : Nat} (h : i ≠ predIndex pc) :
    SMap.get 1 (coreRec (trainPredictor x pc taken s) x.c x.k.val).predictor i = SMap.get 1 (coreRec s x.c x.k.val).predictor i := by
  rw [trainPredictor, coreRec_setCore_self, SMap.get_upd_ne _ _ _ h]

/-- Settles O14: answers by the use of their request, run-ahead and fetch by what they meet, prediction by its counter. -/
theorem answersFetchAndPrediction : Obligations.AnswersFetchAndPrediction := by
  unfold Obligations.AnswersFetchAndPrediction
  refine ⟨⟨fun s id q x st d h hx => ⟨fun ha => ?_, fun ha ho => ⟨fun hr => ?_, fun hw => ?_⟩, fun ha ho => ?_⟩, fun s x r signed d =>
      ⟨rfl, rfl, rfl⟩, fun s id q began hq hp ht hd hr => ⟨exec_requestTimeout hq hp ht hd hr, fun x hx ho => completeWith_core hx ho _⟩⟩,
    ⟨fun s x code i q hc hi hq => ⟨exec_runaheadEnter_nowhere hc hi hq, fun w => exec_runaheadEnter_walks hc hi hq⟩,
      fun s x w => ⟨rfl, fun ds => rfl, fun b => rfl, fun op rd ra v p => raStep_int_known, fun op rd ra b => raStep_int_unknown,
        fun dst ra off size p => raStep_load⟩,
      fun s x e n d hn hd => ⟨_, exec_runaheadEntryExpire hn hd, ?_, ?_⟩,
      fun s x a hs hra hpc hon hdry => ⟨exec_icacheFill_badAddress hs hra hpc hon hdry, exec_icacheFill_cached hs hra hpc hon hdry,
        fun ha hl => ⟨fun hf => ?_, fun hf => ?_⟩⟩,
      fun s c k line => addLine_contains c k line s⟩,
    fun k => ⟨rfl, rfl⟩, fun s x pc taken => ⟨predictor_train_self s x pc taken, fun i => predictor_train_other s x pc taken⟩,
    fun r pc => decide_eq_true_iff, fun pc => rfl⟩
  · have hcl : whoEdge q.who = none := by rw [hx]; rfl
    exact ⟨congrArg _ (takeReply_held h hcl ha _), congrArg _ (takeReply_held h hcl ha _)⟩
  · rw [exec_loadComplete h hr ha, readReply_orphaned st d _ ho]
  · rw [exec_storeComplete h hw ha, writeReply_orphaned st d _ ho]
  · refine ⟨fun dst signed pc hu => ?_, fun dst signed pc off n hu => ?_, fun vd blk dst sat pc a half hu => ?_, fun rd hu => ?_,
      fun hu => ?_, fun pc hu => ?_, fun rd wide pc hu => ?_⟩
    · rw [exec_loadComplete h (by rw [hu]; rfl) ha, readReply_load st d _ ho hx hu]
    · rw [exec_loadComplete h (by rw [hu]; rfl) ha, readReply_entry st d _ ho hx hu]
    · rw [exec_loadComplete h (by rw [hu]; rfl) ha, readReply_block st d _ ho hx hu]
    · rw [exec_loadComplete h (by rw [hu]; rfl) ha, readReply_object st d _ ho hx hu]
    · rw [exec_loadComplete h (by rw [hu]; rfl) ha, readReply_runahead st d _ ho hx hu]
      rfl
    · rw [exec_storeComplete h (by rw [hu]; rfl) ha, writeReply_store st d _ ho hx hu]
    · rw [exec_storeComplete h (by rw [hu]; rfl) ha]
      refine ⟨fun hst => ?_, fun hst hwide => ?_, fun hst hwide => ?_⟩
      · rw [writeReply_atomicFails st d _ ho hx hu hst]
      · subst hst hwide
        rw [writeReply_atomicWide d _ ho hx hu]
      · subst hst hwide
        obtain ⟨half, hw⟩ := writeReply_atomicNarrow d (dropXact id s) ho hx hu
        exact ⟨half, by rw [hw]⟩
  · rw [ctxRec_addRaDiscarded, ctxRec_setCtx_self]
  · rw [addRaDiscarded_t]
    exact Nat.le_max_right _ _
  · rw [exec_icacheFill_reads hs hra hpc hon hdry ha hl, if_pos hf]
  · rw [exec_icacheFill_reads hs hra hpc hon hdry ha hl, if_neg (not_not_intro hf)]

end Sys2Proof.Machine
end

section
/-! PROOFS. Channel messages: a message that is sent again (spec/10_sync_and_channels.md R277). -/

namespace Sys2Proof.Machine
open Sys2Proof

/-! ### A state in which the next request number is taken -/

/-- A message whose first answer is TIMEOUT, of the first context of the first cluster, on its endpoint 0. -/
def timedOutSend : Xact :=
  { id := 1, who := .core ⟨⟨0, 0, 0⟩, 0, 0⟩, part := none, kind := .message, addr := 0, phys := none, len := 40, data := [], operand := 0,
    sat := false, ra := false, epoch := 0, src := ⟨0, 0, 0⟩, dst := ⟨0, 0, 0⟩, out := false, pos := ⟨0, 0, 0⟩, vc1 := false, since := 0,
    phase := .home 0x06 [], resent := false, timer := none, dead := false, again := false, use := .send 0 false 0 none 0 }

/-- A read under way whose number is the one that the mesh gives next. -/
def readOfNextId : Xact := { timedOutSend with id := 2, kind := .read, phase := .going, use := .drop }

/-- Both, and the endpoint OPEN on the connection of the message. -/
def takenIdState : State :=
  { net := { xacts := [timedOutSend, readOfNextId], nextId := 2 }, sync := { eps := [(epKey ⟨0, 0, 0⟩ 0, { state := .opened })] } }

/-- The kind of request `id` in the state that an outcome answers. -/
def outcomeKind (id : Nat) : Host.Outcome State Fault Refusal → Option ReqKind
  | .next t => (xactOf t id).map (·.kind)
  | _ => none

/-- The message sent again takes number 2, under which the older read is found. -/
theorem takenIdState_findsRead : outcomeKind 2 (exec (.messageAck 1) takenIdState) = some .read := by decide

/-- Refutes O20: the reply's first TIMEOUT sends the message again under the next request number, but a state may hold an older request
of that number (nothing in the statement excludes it), and then that number names the older request, here a read, and no message. -/
theorem not_channelMessages : ¬ Obligations.ChannelMessages := by
  unfold Obligations.ChannelMessages
  rintro ⟨-, -, hack, -⟩
  obtain ⟨-, hmine⟩ := hack takenIdState 1 timedOutSend ⟨0, 0, 0⟩ 0 false 0 none 0 0x06 [] ⟨rfl, rfl⟩ rfl rfl rfl
  obtain ⟨-, -, -, -, hagain, -⟩ := hmine rfl rfl
  obtain ⟨t, k, ht, hk, hkind, -⟩ := hagain rfl rfl rfl
  have hread := takenIdState_findsRead
  have hk2 : xactOf t 2 = some k := hk
  rw [ht, outcomeKind, hk2, Option.map_some, hkind] at hread
  cases hread

end Sys2Proof.Machine
end

section
/-! PROOFS. Pump channels: submission, reads and beats, the order of descriptors, RESTART and ABORT (spec/09_pumps.md R245-R258). -/

namespace Sys2Proof.Machine
open Sys2Proof

/-! ### Submission (R205, R245, R246, R249) -/

/-- The first failed check of a submission to another pump's channel (`stk`) or the cluster's own. A full queue of the cluster's own
pump has no status, as PSUB then waits. -/
def submitStatus (selBad foreign unpowered bad stk full : Bool) : Byte :=
  if selBad then 0x03 else if stk && foreign then 0x04 else if stk && unpowered then 0x09 else if bad then 0x03
  else if stk && full then 0x0E else 0x00

/-- The checks in turn come to their status. -/
theorem submit_checks (selBad foreign unpowered bad stk : Bool) {size len : Nat} (hsize : size = if stk then 16 else 8)
    (refuse : Byte → State) (wait join : State) :
    (if selBad then refuse 0x03 else if stk && foreign then refuse 0x04 else if stk && unpowered then refuse 0x09
      else if bad then refuse 0x03 else if size ≤ len then (if stk then refuse 0x0E else wait) else join) =
    let st := submitStatus selBad foreign unpowered bad stk (decide (16 ≤ len))
    if st ≠ 0x00 then refuse st else if stk = false ∧ 8 ≤ len then wait else join := by
  subst hsize
  unfold submitStatus
  cases selBad
  case true => rfl
  case false =>
    cases stk
    case false => cases bad <;> simp
    case true => cases foreign <;> cases unpowered <;> cases bad <;> by_cases hl : 16 ≤ len <;> simp [hl]

section
variable (s : State) (x : CtxId) (rs vn : Reg)

/-- The 512 bits of the descriptor that PSUB submits. -/
def psubRaw : Nat := (vr s x vn).toNat + (vr s x (vn + 1)).toNat * 2 ^ 256

/-- A descriptor with an address at another module or in host memory. -/
def rawFar (raw : Nat) : Bool :=
  farAddr s (BitVec.ofNat 64 (dSrc raw)) || farAddr s (BitVec.ofNat 64 (dDst raw)) || (dIndexed raw && farAddr s (BitVec.ofNat 64 (dIndex raw)))

/-- The channel that PSUB's selector names. -/
def psubChan : ChanId :=
  let w := (xr s x rs).toNat
  if bit w 4 then .stack (Fin.ofNat 48 (fld w 5 6)) (Fin.ofNat 16 w) else .cluster x.c (Fin.ofNat 8 w)

/-- The status of PSUB's checks. -/
def psubStatus : Byte :=
  let w := (xr s x rs).toNat
  let ch := psubChan s x rs
  let r := chanOf s ch
  submitStatus (fld w 11 53 != 0 || (if bit w 4 then decide (48 ≤ fld w 5 6) else fld w 5 6 != 0 || bit w 3))
    (r.owner.isNone || r.owner != owner s x.c) (!pumpOn s (chanPump ch)) (!descOk s (psubRaw s x vn)) (bit w 4) (decide (16 ≤ r.queue.length))

/-- A descriptor joins the end of its channel's queue. -/
def submitDesc (ch : ChanId) (raw : Nat) (p : Fin 64) : State :=
  let r := chanOf s ch
  setChan ch { r with
      queue := r.queue ++ [{ serial := s.pump.nextSerial, raw := BitVec.ofNat 512 raw, part := p }],
      state := if r.state = .idle then .running else r.state }
    { s with pump := { s.pump with nextSerial := s.pump.nextSerial + 1 } }

variable {s x rs vn}

theorem chanQueue_psubChan : chanQueue (psubChan s x rs) = if bit (xr s x rs).toNat 4 then 16 else 8 := by
  unfold psubChan
  dsimp only
  split <;> rfl

variable (h : Issues s x [.x rs, .v vn, .v (vn + 1)])
include h

theorem exec_psub_odd (ho : vn.val % 2 = 1) : exec (.psub x rs vn) s = .next (illegal x s) :=
  congrArg Host.Outcome.next ((issueInstr_issues h _).trans (if_pos ho))

theorem exec_psub_unfenced (he : vn.val % 2 = 0) (hf : fenceOk s x .release (if rawFar s (psubRaw s x vn) then .g else .m) = false) :
    exec (.psub x rs vn) s = .next s :=
  congrArg Host.Outcome.next ((issueInstr_issues h _).trans ((if_neg (by omega)).trans (if_pos (congrArg Bool.not hf))))

theorem exec_psub_fenced (he : vn.val % 2 = 0) (hf : fenceOk s x .release (if rawFar s (psubRaw s x vn) then .g else .m) = true) :
    let refuse (st : Byte) : State := accessTrap x st (ctxRec s x).pc (chanAddr (psubChan s x rs)) (retire x s)
    exec (.psub x rs vn) s = .next (
      if psubStatus s x rs vn ≠ 0x00 then refuse (psubStatus s x rs vn)
      else if bit (xr s x rs).toNat 4 = false ∧ 8 ≤ (chanOf s (psubChan s x rs)).queue.length then s
      else match owner s x.c with
        | none => refuse 0x04
        | some p => retire x (submitDesc s (psubChan s x rs) (psubRaw s x vn) p)) := by
  have hn : ¬ (!fenceOk s x .release (if rawFar s (psubRaw s x vn) then .g else .m)) = true := by simp [hf]
  exact congrArg Host.Outcome.next ((issueInstr_issues h _).trans ((if_neg (by omega)).trans ((if_neg hn).trans
    (submit_checks _ _ _ _ _ chanQueue_psubChan
      (fun st => accessTrap x st (ctxRec s x).pc (chanAddr (psubChan s x rs)) (retire x s)) _ _))))

end

/-! ### Replies at a pump (R254, R256, R258) -/

/-- A pump's reply is taken also where the requester's cluster sleeps, if it comes over the module's edge. -/
theorem takeReply_passes {s : State} {id : Nat} {q : Xact} {st : Byte} {d : List Byte} {wanted : Use → Bool} (h : Answered s id q st d)
    (hw : wanted q.use = true) (ha : whoEdge q.who ≠ none ∨ asleep s q.src = false) (f : Xact → Byte → List Byte → State → State) :
    takeReply id wanted f s = f q st d (dropXact id s) := by
  obtain ⟨hq, hphase⟩ := h
  simp only [takeReply, hq, hphase, hw, Bool.true_and]
  refine if_pos ?_
  rcases ha with ha | ha
  · simp [Option.isSome_iff_ne_none.2 ha]
  · simp [ha]

/-- A descriptor with a reply joined: a halt that was due, units that write nothing, a new turn for beats, and more reads (R253, R254). -/
def replyJoined (ch : ChanId) (d : Desc) (s : State) : State :=
  let t := checkBad ch (skipUnits ch 65 (setDesc ch d s))
  issueReads (chanPump ch) 64
    (if !beatReady s ch && beatReady t ch then setChan ch { chanOf t ch with waitSince := netCycles t.t t.t.now } t else t)

section
variable {q : Xact} {ch : ChanId} {serial u : Nat} {s : State} (st : Byte) (data : List Byte)

theorem pumpReadReply_data {off : Nat} {d : Desc} (hu : q.use = .pumpRead ch serial u off)
    (hd : (chanOf s ch).queue.find? (fun e => e.serial == serial) = some d) (ho : q.orphaned = false) :
    pumpReadReply q st data s = replyJoined ch (if st = 0x00 then { d with buf := d.buf ++ [(u, off, data)] }
      else { d with bad := d.bad ++ [{ u := u, off := off, st := st, quiet := if q.ra then some (q.addr, q.len) else none }] }) s := by
  simp only [pumpReadReply, hu, hd, ho, Bool.false_eq_true, if_false]
  rfl

theorem pumpReadReply_index {d : Desc} (hu : q.use = .pumpIndex ch serial u)
    (hd : (chanOf s ch).queue.find? (fun e => e.serial == serial) = some d) (ho : q.orphaned = false) :
    let w := dIdxBytes d.raw.toNat
    let vs := (List.range (data.length / w)).map fun i => (u + i, BitVec.ofNat 64 (leNat ((data.drop (w * i)).take w)))
    pumpReadReply q st data s = replyJoined ch (if st = 0x00 then { d with idx := vs.foldl (fun m v => m.set none v.1 (some v.2)) d.idx }
      else { d with bad := d.bad ++ [{ u := u, off := 0, st := st, quiet := if q.ra then some (q.addr, q.len) else none }] }) s := by
  simp only [pumpReadReply, hu, hd, ho, Bool.false_eq_true, if_false, ne_eq, ite_not]
  rfl

/-- A reply to a discarded read, or to a descriptor gone, frees its place in the limits. -/
theorem pumpReadReply_gone {off : Nat} (hu : q.use = .pumpRead ch serial u off ∨ q.use = .pumpIndex ch serial u)
    (hgone : q.orphaned = true ∨ (chanOf s ch).queue.find? (fun e => e.serial == serial) = none) :
    pumpReadReply q st data s = issueReads (chanPump ch) 64 s := by
  rcases hu with hu | hu <;> simp only [pumpReadReply, hu] <;> split
  · rfl
  · next hd => exact if_pos (hgone.resolve_right (by simp [hd]))
  · rfl
  · next hd => exact if_pos (hgone.resolve_right (by simp [hd]))

variable {off : Nat} (hu : q.use = .pumpWrite ch serial u off)
include hu

theorem pumpWriteReply_orphaned (ho : q.orphaned = true) : pumpWriteReply q st data s = s := by
  simp only [pumpWriteReply, hu, ho, if_true]

variable (ho : q.orphaned = false)
include ho

theorem pumpWriteReply_gone :
    let t := if st = 0x00 then addMoved (chanPump ch) q.len s else s
    (chanOf t ch).queue.find? (fun e => e.serial == serial) = none → pumpWriteReply q st data s = t := by
  intro t hd
  simp only [pumpWriteReply, hu, ho, Bool.false_eq_true, if_false]
  rw [hd]

theorem pumpWriteReply_counts {d : Desc} :
    let t := if st = 0x00 then addMoved (chanPump ch) q.len s else s
    let d1 : Desc := { d with writes := d.writes - 1 }
    let t1 := setDesc ch d1 t
    (chanOf t ch).queue.find? (fun e => e.serial == serial) = some d →
      pumpWriteReply q st data s = settleHead ch 17 (if st ≠ 0x00 then haltAt ch d1 st u off t1 else t1) := by
  intro t d1 t1 hd
  simp only [pumpWriteReply, hu, ho, Bool.false_eq_true, if_false]
  rw [hd]

end

section
variable {s : State} {id : Nat} {q : Xact} {st : Byte} {data : List Byte} {ch : ChanId} {serial u off : Nat}
  (h : Answered s id q st data) (ha : whoEdge q.who ≠ none ∨ asleep s q.src = false)
include h ha

theorem exec_pumpReadReturn (hu : q.use = .pumpRead ch serial u off ∨ q.use = .pumpIndex ch serial u) :
    exec (.pumpReadReturn id) s = .next (pumpReadReply q st data (dropXact id s)) :=
  congrArg Host.Outcome.next (takeReply_passes h (by rcases hu with hu | hu <;> rw [hu]) ha _)

theorem exec_pumpWriteComplete (hu : q.use = .pumpWrite ch serial u off) :
    exec (.pumpWriteComplete id) s = .next (pumpWriteReply q st data (dropXact id s)) :=
  congrArg Host.Outcome.next (takeReply_passes h (by rw [hu]) ha _)

end

/-! ### Beats (R251, R253) -/

theorem doBeat_some {d : Desc} {a len : Nat} {bytes : List Byte} (hb : beatData d = some (a, len, bytes)) (ch : ChanId) (s : State) :
    let carry := d.carry ++ bytes
    let off := d.wrOff + len
    let d1 : Desc := if dLen d.raw.toNat ≤ off then { d with wrU := d.wrU + 1, wrOff := 0, carry := [], writes := d.writes + 1 }
      else { d with wrOff := off, carry := [], writes := d.writes + 1 }
    doBeat ch d s = if carry.length < len then setDesc ch (trimBuf { d with carry := carry }) s
      else pumpReq ch d .write a len carry false (.pumpWrite ch d.serial d.wrU d.wrOff) (setDesc ch (trimBuf d1) s) := by
  simp only [doBeat, hb]

theorem exec_pumpBeat {s : State} {p : PumpId} {ch : ChanId} {d : Desc} (hon : pumpOn s p = true) (hch : beatChan s p = some ch)
    (hd : writeDesc s ch = some d) :
    let t := doBeat ch d s
    let t := setPumpCtr p { pumpCtr t p with last := chanKey ch % 16 } t
    exec (.pumpBeat p) s = .next (issueReads p 64 (checkBad ch (skipUnits ch 65
      (setChan ch { chanOf t ch with waitSince := netCycles t.t t.t.now } t)))) := by
  refine congrArg Host.Outcome.next ((if_neg (by simp [hon])).trans ?_)
  simp only [hch, hd]

theorem exec_pumpBeat_idle {s : State} {p : PumpId} (h : pumpOn s p = false ∨ beatChan s p = none) : exec (.pumpBeat p) s = .next s := by
  refine congrArg Host.Outcome.next ?_
  rcases h with h | h
  · exact if_pos (by simp [h])
  · simp only [h, ite_self]

/-! ### The order of descriptors (R253, R255) -/

theorem exec_pumpDescriptorStart_off {s : State} {ch : ChanId} (hoff : pumpOn s (chanPump ch) = false) :
    exec (.pumpDescriptorStart ch) s = .next s := congrArg Host.Outcome.next (if_neg (by simp [hoff]))

theorem exec_pumpDescriptorStart_on {s : State} {ch : ChanId} (hon : pumpOn s (chanPump ch) = true) :
    exec (.pumpDescriptorStart ch) s = .next (issueReads (chanPump ch) 64 (startDesc ch s)) := congrArg Host.Outcome.next (if_pos hon)

/-- The descriptors started before let the next one start. -/
def startReady (s : State) (ch : ChanId) (d : Desc) : Bool :=
  let before := (chanOf s ch).queue.filter fun e => e.started
  let idle (e : Desc) : Bool := (e.halted || decide (e.count ≤ e.wrU)) && e.writes == 0
  if dFence d.raw.toNat then before.all idle else before.all fun e => e.halted || decide (e.count ≤ e.rdU)

theorem startDesc_some {s : State} {ch : ChanId} {d : Desc} (hd : (chanOf s ch).queue.find? (fun e => !e.started) = some d) :
    startDesc ch s = if (chanOf s ch).state = .halted then s
      else if startReady s ch d = true then setDesc ch { d with started := true } (setChan ch { chanOf s ch with state := .running } s) else s := by
  simp only [startDesc, hd]
  rfl

/-- The head of a channel has every byte written, and has not ended yet. -/
def headDone (d : Desc) : Bool := d.started && !d.halted && decide (d.count ≤ d.wrU) && d.writes == 0 && !d.noteSent

theorem headDone_iff (d : Desc) :
    headDone d = true ↔ d.started = true ∧ d.halted = false ∧ d.count ≤ d.wrU ∧ d.writes = 0 ∧ d.noteSent = false := by
  simp [headDone, and_assoc]

theorem exec_pumpDescriptorComplete_empty {s : State} {ch : ChanId} (hq : (chanOf (skipUnits ch 65 s) ch).queue = []) :
    exec (.pumpDescriptorComplete ch) s = .next (skipUnits ch 65 s) := by
  refine congrArg Host.Outcome.next ?_
  simp only [hq]

theorem exec_pumpDescriptorComplete_head {s : State} {ch : ChanId} {d : Desc} {rest : List Desc}
    (hq : (chanOf (skipUnits ch 65 s) ch).queue = d :: rest) :
    let t := skipUnits ch 65 s
    exec (.pumpDescriptorComplete ch) s = .next (if headDone d = true then
      (if dNotify d.raw.toNat = true then sendNote ch d (setDesc ch { d with noteSent := true } t) else finishDesc ch d t) else t) := by
  refine congrArg Host.Outcome.next ?_
  simp only [hq]
  rfl

/-! ### RESTART and ABORT (R256, R257) -/

section
variable {s : State} {who : Requester} {ch : ChanId} {v : Word} (f : ChanRec → State → Byte × State)

theorem chanCmd_refused (hp : chanPerm s who ch ≠ 0x00) : chanCmd who ch v f s = reply (chanPerm s who ch) s := if_pos hp

theorem chanCmd_reserved (hp : chanPerm s who ch = 0x00) (hv : fld v.toNat 2 62 ≠ 0) :
    chanCmd who ch v f s = reply 0x00 (setChan ch { chanOf s ch with cmdStatus := 0x03 } s) := by
  simp only [chanCmd, hp, ne_eq, not_true_eq_false, if_false, if_pos hv]

theorem chanCmd_taken {st : Byte} {t : State} (hp : chanPerm s who ch = 0x00) (hv : fld v.toNat 2 62 = 0) (hf : f (chanOf s ch) s = (st, t)) :
    chanCmd who ch v f s = reply 0x00 (setChan ch { chanOf t ch with cmdStatus := st } t) := by
  simp only [chanCmd, hp, hv, ne_eq, not_true_eq_false, if_false, hf]

end

/-- The two states differ at most in pumps, the mesh's requests, notifications under way and what posting events writes. -/
def OnlyPumps (s t : State) : Prop := OnlyEvents { s with pump := t.pump, net := t.net, sync := t.sync } t

theorem OnlyPumps.trans {s t u : State} (h : OnlyPumps s t) (g : OnlyPumps t u) : OnlyPumps s u := by
  unfold OnlyPumps OnlyEvents at *
  rw [g, h]

theorem OnlyEvents.onlyPumps {s t : State} (h : OnlyEvents s t) : OnlyPumps s t := by
  unfold OnlyPumps OnlyEvents at *
  rw [h]

theorem OnlyPumps.sram_core {s t : State} (h : OnlyPumps s t) : t.mem.sram = s.mem.sram ∧ t.core = s.core := by
  rw [h]
  exact ⟨rfl, rfl⟩

theorem foldl_onlyPumps {α : Type} {g : State → α → State} (h : ∀ s a, OnlyPumps s (g s a)) (l : List α) (s : State) :
    OnlyPumps s (l.foldl g s) := by
  induction l generalizing s with
  | nil => rfl
  | cons a l ih => exact (h s a).trans (ih _)

theorem setPumpCtr_onlyPumps (p : PumpId) (r : PumpCtr) (s : State) : OnlyPumps s (setPumpCtr p r s) := rfl

theorem setChan_onlyPumps (ch : ChanId) (r : ChanRec) (s : State) : OnlyPumps s (setChan ch r s) := rfl

theorem addAheadGone_onlyPumps (p : PumpId) (n : Nat) (s : State) : OnlyPumps s (addAheadGone p n s) := by
  unfold addAheadGone
  exact (setPumpCtr_onlyPumps p _ s).trans (counterWrap_only _ _ _ _ _).onlyPumps

theorem discardReads_onlyPumps (ch : ChanId) (d : Desc) (s : State) : OnlyPumps s (discardReads ch d s) := by
  unfold discardReads
  dsimp only
  split
  · exact OnlyPumps.trans (by rfl) (addAheadGone_onlyPumps _ _ _)
  · rfl

theorem sendNote_onlyPumps (ch : ChanId) (d : Desc) (s : State) : OnlyPumps s (sendNote ch d s) := by
  unfold sendNote
  dsimp only
  split <;> rfl

theorem noteAsked_onlyPumps (ch : ChanId) (d : Desc) (s : State) :
    OnlyPumps s (if dNotify d.raw.toNat && !d.noteSent then sendNote ch d s else s) := by
  split
  · exact sendNote_onlyPumps ch d s
  · rfl

theorem abortChan_onlyPumps (ch : ChanId) (s : State) : OnlyPumps s (abortChan ch true s) := by
  have hgone := foldl_onlyPumps (g := fun s d => discardReads ch d s) (fun t d => discardReads_onlyPumps ch d t) (chanOf s ch).queue s
  have hnote := foldl_onlyPumps (g := fun s d => if dNotify d.raw.toNat && !d.noteSent then sendNote ch d s else s)
    (fun t d => noteAsked_onlyPumps ch d t) (chanOf s ch).queue ((chanOf s ch).queue.foldl (fun s d => discardReads ch d s) s)
  unfold abortChan
  dsimp only
  split <;> exact (hgone.trans hnote).trans (setChan_onlyPumps ch _ _)

/-- An aborted channel tells of its last descriptor. -/
theorem chanOf_abortChan_last {ch : ChanId} {s : State} {d : Desc} (hd : (chanOf s ch).queue.getLast? = some d) (loud : Bool) :
    (chanOf (abortChan ch loud s) ch).lastStatus = 0x0B ∧ (chanOf (abortChan ch loud s) ch).lastTag = d.tag := by
  unfold abortChan
  simp only [hd, chanOf_setChan_self, and_self]

/-! ### The clauses of PUMP_RESTART and PUMP_ABORT -/

section
variable {s : State} {who : Requester} {ch : ChanId} {v : Word}

theorem pumpCommands_refused (hp : chanPerm s who ch ≠ 0x00) :
    exec (.pumpRestart who ch v) s = .next (reply (chanPerm s who ch) s) ∧ exec (.pumpAbort who ch v) s = .next (reply (chanPerm s who ch) s) :=
  ⟨congrArg Host.Outcome.next (chanCmd_refused _ hp), congrArg Host.Outcome.next (chanCmd_refused _ hp)⟩

variable (hp : chanPerm s who ch = 0x00)
include hp

theorem pumpCommands_reserved (hv : fld v.toNat 2 62 ≠ 0) :
    let u := setChan ch { chanOf s ch with cmdStatus := 0x03 } s
    exec (.pumpRestart who ch v) s = .next (reply 0x00 u) ∧ exec (.pumpAbort who ch v) s = .next (reply 0x00 u) :=
  ⟨congrArg Host.Outcome.next (chanCmd_reserved _ hp hv), congrArg Host.Outcome.next (chanCmd_reserved _ hp hv)⟩

variable (hv : fld v.toNat 2 62 = 0)
include hv

theorem exec_pumpRestart_unhalted (hs : (chanOf s ch).state ≠ .halted) :
    exec (.pumpRestart who ch v) s = .next (reply 0x00 (setChan ch { chanOf s ch with cmdStatus := 0x04 } s)) :=
  congrArg Host.Outcome.next (chanCmd_taken _ hp hv (if_pos hs))

theorem exec_pumpRestart_halted (hs : (chanOf s ch).state = .halted) :
    let q := (chanOf s ch).queue.map fun d => { d with dropped := d.halted }
    let u := issueReads (chanPump ch) 64 (settleHead ch 17 (setChan ch { chanOf s ch with state := .running, queue := q } s))
    exec (.pumpRestart who ch v) s = .next (reply 0x00 (setChan ch { chanOf u ch with cmdStatus := 0x00 } u)) :=
  congrArg Host.Outcome.next (chanCmd_taken _ hp hv (if_neg (not_not_intro hs)))

theorem exec_pumpAbort_idle (hs : (chanOf s ch).state = .idle) :
    exec (.pumpAbort who ch v) s = .next (reply 0x00 (setChan ch { chanOf s ch with cmdStatus := 0x04 } s)) :=
  congrArg Host.Outcome.next (chanCmd_taken _ hp hv (if_pos hs))

theorem exec_pumpAbort_busy (hs : (chanOf s ch).state ≠ .idle) :
    let u := abortChan ch true s
    exec (.pumpAbort who ch v) s = .next (reply 0x00 (setChan ch { chanOf u ch with cmdStatus := 0x00 } u)) :=
  congrArg Host.Outcome.next (chanCmd_taken _ hp hv (if_neg hs))

theorem pumpAbort_cases (hs : (chanOf s ch).state ≠ .idle) :
    ∃ t, exec (.pumpAbort who ch v) s = .next t ∧ (chanOf t ch).queue = [] ∧ (chanOf t ch).state = .idle ∧ (chanOf t ch).cmdStatus = 0x00 ∧
      (∀ d, (chanOf s ch).queue.getLast? = some d → (chanOf t ch).lastStatus = 0x0B ∧ (chanOf t ch).lastTag = d.tag) ∧
      t.ioReply = 0x00 ∧ t.mem.sram = s.mem.sram ∧ t.core = s.core := by
  obtain ⟨hqueue, hidle⟩ := chanOf_abortChan ch true s
  obtain ⟨hsram, hcore⟩ := (abortChan_onlyPumps ch s).sram_core
  refine ⟨_, exec_pumpAbort_busy hp hv hs, ?_⟩
  have hch : chanOf (reply 0x00 (setChan ch { chanOf (abortChan ch true s) ch with cmdStatus := 0x00 } (abortChan ch true s))) ch =
    { chanOf (abortChan ch true s) ch with cmdStatus := 0x00 } := chanOf_setChan_self ch _ _
  rw [hch]
  exact ⟨hqueue, hidle, rfl, fun d hd => chanOf_abortChan_last hd true, rfl, hsram, hcore⟩

end

/-- Settles O21: PSUB by its checks, replies by the use of their request, starts and ends by the state of the head, commands by `chanCmd`. -/
theorem pumpChannels : Obligations.PumpChannels := by
  unfold Obligations.PumpChannels
  refine ⟨fun s x rs vn h => ⟨exec_psub_odd h, exec_psub_unfenced h, fun he hf => ?_⟩,
    ⟨fun s id q st data ch serial u off d h _ hu ha hd ho => ?_, fun s id q st data ch serial first d h _ hu ha hd ho => ?_,
      fun s id q st data ch serial u off h _ hu ha hgone => ?_, fun s p ch d a len bytes hon hch hd hb => ?_,
      fun s p => exec_pumpBeat_idle, fun s id q st data ch serial u off h _ hu ha => ?_⟩,
    fun s ch d hd => ?_, fun s ch => ?_, fun s who ch v => ?_⟩
  · have hx := exec_psub_fenced h he hf
    refine ⟨fun hst => hx.trans (congrArg _ (if_pos hst)), fun hst hown hfull => hx.trans (congrArg _ ?_),
      fun p hst hroom hp => hx.trans (congrArg _ ?_)⟩
    · exact (if_neg (not_not_intro hst)).trans (if_pos ⟨hown, hfull⟩)
    · refine (if_neg (not_not_intro hst)).trans ((if_neg fun hfull => absurd (hroom hfull.1) (Nat.not_lt.2 hfull.2)).trans ?_)
      rw [hp]
      rfl
  · exact (exec_pumpReadReturn h ha (.inl hu)).trans (congrArg _ (pumpReadReply_data st data hu hd ho))
  · exact (exec_pumpReadReturn (off := 0) h ha (.inr hu)).trans (congrArg _ (pumpReadReply_index st data hu hd ho))
  · exact (exec_pumpReadReturn h ha hu).trans (congrArg _ (pumpReadReply_gone st data hu hgone))
  · rw [exec_pumpBeat hon hch hd, doBeat_some hb]
  · refine ⟨fun ho => ?_, fun ho hd => ?_, fun d ho hd => ?_⟩
    · rw [exec_pumpWriteComplete h ha hu, pumpWriteReply_orphaned st data hu ho]
    · exact (exec_pumpWriteComplete h ha hu).trans (congrArg _ (pumpWriteReply_gone st data hu ho hd))
    · exact (exec_pumpWriteComplete h ha hu).trans (congrArg _ (pumpWriteReply_counts st data hu ho hd))
  · refine ⟨fun hon hs hr => ?_, fun hon hs => ?_, exec_pumpDescriptorStart_off⟩
    · rw [exec_pumpDescriptorStart_on hon, startDesc_some hd, if_neg hs]
      exact congrArg (fun t => Host.Outcome.next (issueReads (chanPump ch) 64 t)) (if_pos hr)
    · have hr : startDesc ch s = s := by
        rw [startDesc_some hd, ite_eq_left_iff]
        exact fun hn => if_neg (ne_true_of_eq_false (hs.resolve_left hn))
      rw [exec_pumpDescriptorStart_on hon, hr]
  · refine ⟨fun d rest hq => ?_, exec_pumpDescriptorComplete_empty⟩
    rw [exec_pumpDescriptorComplete_head hq]
    refine ⟨fun hd hn => ?_, fun hd hn => ?_, fun hd => ?_⟩
    · rw [if_pos ((headDone_iff d).2 hd), if_pos hn]
    · rw [if_pos ((headDone_iff d).2 hd), if_neg (ne_true_of_eq_false hn)]
    · rw [if_neg (mt (headDone_iff d).1 hd)]
  · exact ⟨pumpCommands_refused, pumpCommands_reserved, fun hp hv => ⟨exec_pumpRestart_unhalted hp hv, exec_pumpAbort_idle hp hv,
      exec_pumpRestart_halted hp hv, pumpAbort_cases hp hv⟩⟩

end Sys2Proof.Machine
end

section
/-! PROOFS. Requests at their targets: SRAM, stacks, registers and host memory (spec/07_memory.md R185-R207, 08_mesh.md R227). -/

namespace Sys2Proof.Machine
open Sys2Proof

/-! ### An SRAM without errors (R185, R198, R199) -/

theorem eccRead_none (us : List Nat) : eccRead [] us = ([], []) :=
  Prod.ext (List.filter_eq_nil_iff.2 fun _ _ h => nomatch h) (List.filter_eq_nil_iff.2 fun _ _ h => nomatch h)

theorem addStrikes_none (stack : Bool) (us : List Nat) (s : State) : addStrikes stack [] us s = s :=
  if_pos (List.isEmpty_iff.2 (List.filterMap_eq_nil_iff.2 fun _ _ => rfl))

theorem sramError_none (c : Cl) (ra : Bool) (u : BitVec 32) (s : State) : sramError c [] [] ra u s = s := if_pos ⟨rfl, rfl⟩

section
variable {s : State} {a : Word} {c : Cl} (hclean : s.mem.sramErr = []) (hcl : addrCl a = some c)
include hclean hcl

theorem sramRead_clean (n : Nat) (ra : Bool) (u : BitVec 32) :
    sramRead a n ra u s = (0x00, readBytes s.mem.sram (sramKey a) n, { s with mem := { s.mem with sramErr := [] } }) := by
  simp only [sramRead, hcl, hclean, eccRead_none, addStrikes_none, ite_self, sramError_none]
  rfl

theorem sramWrite_clean (d : List Byte) (u : BitVec 32) :
    sramWrite a d u s = (0x00, { s with mem := { s.mem with
      sram := writeBytes s.mem.sram (sramKey a) d, sramErr := eccClear [] (unitsOf 8 (sramKey a) d.length) } }) := by
  simp only [sramWrite, hcl, hclean, eccRead_none, addStrikes_none, sramError_none]
  rfl

end

/-! ### At a cluster (R124, R185, R199, R203, R207) -/

/-- A read, a write or an atomic. -/
def isAccess (k : ReqKind) : Bool := match k with | .read => true | .write => true | .atomic _ => true | _ => false

theorem isAccess_of {k : ReqKind} (h : k = .read ∨ k = .write ∨ ∃ op, k = .atomic op) : isAccess k = true := by
  rcases h with rfl | rfl | ⟨op, rfl⟩ <;> rfl

/-- The command that serves an access to a cluster's SRAM: space 0x3 has a row of its own. -/
def sramCommand (id : Nat) (q : Xact) : Instr := if addrSpace q.addr = 3 then .memTileOutsideAccess id else .memAccessServe id

/-- The cluster of the request serves it, or its checks answer it (R185, R236). -/
theorem atTarget_checks {s : State} {id : Nat} {q : Xact} {c : Cl} {wanted : Xact → Bool} (hq : xactOf s id = some q)
    (hphase : q.phase = .there) (hw : wanted q = true) (hcl : addrCl q.addr = some c) (f : Xact → Cl → State → State) :
    atTarget id wanted f s = if clusterCheck s q c ≠ 0x00 then answer q (clusterCheck s q c) [] s
      else if asleep s c || !arithOn s c then s else f q c s := by
  simp only [atTarget, hq, hphase, hw, hcl]
  rfl

section
variable {s : State} {id : Nat} {q : Xact} (hq : xactOf s id = some q) (hphase : q.phase = .there)
  (hkind : q.kind = .read ∨ q.kind = .write ∨ ∃ op, q.kind = .atomic op)
include hq hphase hkind

theorem exec_memAccessServe {t : State} (ht : addrSpace q.addr = 0 ∧ t = stackServe q s ∨ addrSpace q.addr = 8 ∧ t = hostServe q s ∨
      addrSpace q.addr = 4 ∧ t = (if asleep s (regAddr q.src q.addr).1 && !bit q.addr.toNat 38 then s else regServe q s) ∨
      (addrSpace q.addr = 1 ∨ addrSpace q.addr = 2) ∧ t = atTarget id (fun _ => true) clusterServe s) :
    exec (.memAccessServe id) s = .next t := by
  have hmine : ¬ (q.phase != .there || !isAccess q.kind) = true := by simp [hphase, isAccess_of hkind]
  refine congrArg Host.Outcome.next ?_
  rw [hq]
  refine (if_neg hmine).trans ?_
  rcases ht with ⟨hsp, rfl⟩ | ⟨hsp, rfl⟩ | ⟨hsp, rfl⟩ | ⟨hsp | hsp, rfl⟩ <;> rw [hsp] <;> rfl

/-- In spaces 0x1 to 0x3 the access is served by its cluster. -/
theorem exec_sramCommand {c : Cl} (hcl : addrCl q.addr = some c) (hspace : addrSpace q.addr = 1 ∨ addrSpace q.addr = 2 ∨ addrSpace q.addr = 3) :
    exec (sramCommand id q) s = .next (if clusterCheck s q c ≠ 0x00 then answer q (clusterCheck s q c) [] s
      else if asleep s c || !arithOn s c then s else clusterServe q c s) := by
  unfold sramCommand
  by_cases h3 : addrSpace q.addr = 3
  · rw [if_pos h3]
    refine congrArg Host.Outcome.next (atTarget_checks hq hphase ?_ hcl clusterServe)
    exact Bool.and_eq_true_iff.2 ⟨beq_iff_eq.2 h3, isAccess_of hkind⟩
  · have h12 : addrSpace q.addr = 1 ∨ addrSpace q.addr = 2 := by omega
    rw [if_neg h3, exec_memAccessServe hq hphase hkind (.inr (.inr (.inr ⟨h12, rfl⟩))), atTarget_checks hq hphase rfl hcl]

/-- Requests in space 0x4 are performed at their register's block, unless its cluster sleeps (R189, R236). -/
theorem exec_memAccessServe_register (hspace : addrSpace q.addr = 4)
    (hawake : asleep s (regAddr q.src q.addr).1 = false ∨ bit q.addr.toNat 38 = true) :
    exec (.memAccessServe id) s = .next (regServe q s) := by
  refine exec_memAccessServe hq hphase hkind (.inr (.inr (.inl ⟨hspace, (if_neg ?_).symm⟩)))
  rcases hawake with h | h <;> simp [h]

theorem exec_memAccessServe_stack (hspace : addrSpace q.addr = 0) : exec (.memAccessServe id) s = .next (stackServe q s) :=
  exec_memAccessServe hq hphase hkind (.inl ⟨hspace, rfl⟩)

theorem exec_memAccessServe_host (hspace : addrSpace q.addr = 8) : exec (.memAccessServe id) s = .next (hostServe q s) :=
  exec_memAccessServe hq hphase hkind (.inr (.inl ⟨hspace, rfl⟩))

end

section
variable {q : Xact} {s : State}

theorem sramServe_read (hk : q.kind = .read) :
    let r := sramRead q.addr q.len q.ra (whoUnit q.who) s
    sramServe q s = answer q r.1 r.2.1 r.2.2 := by
  simp only [sramServe, hk]

theorem sramServe_write (hk : q.kind = .write) :
    let w := sramWrite q.addr q.data (whoUnit q.who) s
    sramServe q s = answer q w.1 [] w.2 := by
  simp only [sramServe, hk]

theorem sramServe_atomic {op : Nat} (hk : q.kind = .atomic op) :
    let r := sramRead q.addr q.len false (whoUnit q.who) s
    let w := sramWrite q.addr (atomNew op q.sat r.2.1 q.data (leBytes 8 q.operand.toNat)) (whoUnit q.who) r.2.2
    sramServe q s = if r.1 ≠ 0x00 then answer q r.1 [] r.2.2 else answer q w.1 (if w.1 = 0x00 then r.2.1 else []) w.2 := by
  simp only [sramServe, hk]

/-- The clauses of an access that its cluster serves. -/
theorem clusterServe_cases (c : Cl) :
    (dryUnit s c q.addr = true → clusterServe q c s = answer q 0x09 [] s) ∧
    (dryUnit s c q.addr = false → olderOverlap s q = true → clusterServe q c s = s) ∧
    (dryUnit s c q.addr = false → olderOverlap s q = false → clusterServe q c s = settle (sramServe q s)) := by
  refine ⟨fun hd => if_pos hd, fun hd ho => ?_, fun hd ho => ?_⟩
  · rw [clusterServe, if_neg (ne_true_of_eq_false hd), if_pos ho]
  · rw [clusterServe, if_neg (ne_true_of_eq_false hd), if_neg (ne_true_of_eq_false ho)]

end

/-! ### At a stack (R185, R194, R196, R203, R207) -/

section
variable {q : Xact} {s : State}

theorem stackServe_unmapped (hp : q.phys = none) : stackServe q s = answer q 0x03 [] s := by
  simp only [stackServe, hp]

variable {n : Fin 48} {phys : Nat} (hp : q.phys = some (n, phys))
include hp

theorem stackServe_refused (hst : stackCheck s q n phys ≠ 0x00) : stackServe q s = answer q (stackCheck s q n phys) [] s := by
  simp only [stackServe, hp, if_pos hst]

variable (hst : stackCheck s q n phys = 0x00)
include hst

theorem stackServe_overlaps (ho : olderOverlap s q = true) : stackServe q s = s := by
  simp only [stackServe, hp, hst, ne_eq, not_true_eq_false, if_false, if_pos ho]

variable (ho : olderOverlap s q = false) {p : Fin 64} (hpart : q.part = some p)
include ho hpart

theorem stackServe_read (hk : q.kind = .read) :
    let r := stackRead n phys q.len q.addr (some p) q.ra (whoUnit q.who) (countStack n p q.len s)
    stackServe q s = settle (answer q r.1 r.2.1 r.2.2) := by
  simp only [stackServe, hp, hst, ne_eq, not_true_eq_false, if_false, ho, Bool.false_eq_true, hpart, hk]

theorem stackServe_write {r : Byte × State} (hk : q.kind = .write)
    (hw : stackWrite n phys q.data q.addr (some p) (whoUnit q.who) (countStack n p q.len s) = some r) :
    stackServe q s = settle (answer q r.1 [] r.2) := by
  simp only [stackServe, hp, hst, ne_eq, not_true_eq_false, if_false, ho, Bool.false_eq_true, hpart, hk, hw]

theorem stackServe_writeWaits (hk : q.kind = .write)
    (hw : stackWrite n phys q.data q.addr (some p) (whoUnit q.who) (countStack n p q.len s) = none) :
    stackServe q s = settle (countStack n p q.len s) := by
  simp only [stackServe, hp, hst, ne_eq, not_true_eq_false, if_false, ho, Bool.false_eq_true, hpart, hk, hw]

/-- The clauses of an atomic: a failed read stores nothing, and the write may wait. -/
theorem stackServe_atomic {op : Nat} (hk : q.kind = .atomic op) :
    let u := countStack n p q.len s
    let r := stackRead n phys q.len q.addr (some p) false (whoUnit q.who) u
    let w := stackWrite n phys (atomNew op q.sat r.2.1 q.data (leBytes 8 q.operand.toNat)) q.addr (some p) (whoUnit q.who) r.2.2
    (r.1 ≠ 0x00 → stackServe q s = settle (answer q r.1 [] r.2.2)) ∧
    (∀ v, r.1 = 0x00 → w = some v → stackServe q s = settle (answer q v.1 (if v.1 = 0x00 then r.2.1 else []) v.2)) ∧
    (r.1 = 0x00 → w = none → stackServe q s = settle u) := by
  simp only [stackServe, hp, hst, ne_eq, not_true_eq_false, if_false, ho, Bool.false_eq_true, hpart, hk]
  refine ⟨fun hr => ?_, fun v hr hw => ?_, fun hr hw => ?_⟩
  · rw [if_pos hr]
  · rw [if_neg (not_not_intro hr), hw]
  · rw [if_neg (not_not_intro hr), hw]

end

/-! ### At a register (R189, R227) -/

section
variable {q : Xact} {s : State}

theorem regServe_held (hk : q.kind = .write) (hf : fountainHeld q.who (regAddr q.src q.addr).2 (some q.id) s = true) : regServe q s = s := by
  simp only [regServe, hk, if_pos hf]

theorem regServe_write (hk : q.kind = .write) (hf : fountainHeld q.who (regAddr q.src q.addr).2 (some q.id) s = false) :
    let r := regAddr q.src q.addr
    let u := writeReg q.who r.1 r.2 (BitVec.ofNat 64 (leNat q.data)) s
    regServe q s = answer q u.ioReply [] u := by
  simp only [regServe, hk, hf, Bool.false_eq_true, if_false]

theorem regServe_read (hk : q.kind = .read) :
    let r := regAddr q.src q.addr
    let u := regRead q.who r.1 r.2 s
    regServe q s = answer q u.ioReply (if u.ioReply = 0x00 then (leBytes 8 u.ioData.toNat).take q.len else []) u := by
  simp only [regServe, hk]

end

/-! ### At host memory (R190, R203) -/

section
variable {q : Xact} {s : State}

theorem hostServe_noPart (hp : q.part = none) : hostServe q s = answer q 0x04 [] s := by
  simp only [hostServe, hp]

variable {p : Fin 64} (hp : q.part = some p)
include hp

theorem hostServe_noPort (hport : hostPort s p = none) : hostServe q s = answer q 0x04 [] s := by
  simp only [hostServe, hp, hport]

variable {port : Fin 2} (hport : hostPort s p = some port)
include hport

theorem hostServe_overlaps (ho : olderOverlap s q = true) : hostServe q s = s := by
  simp only [hostServe, hp, hport, if_pos ho]

variable (ho : olderOverlap s q = false)
include ho

theorem hostServe_write (hk : q.kind = .write) :
    let a := fld q.addr.toNat 0 52
    let u := countPort (16 + port.val) p q.len s
    hostServe q s = answer q 0x00 [] (if hostStatus s a q.len = 0x00 ∧ (s.host.ports[port]).up = true
      then { u with mem := { u.mem with host := writeBytes u.mem.host a q.data } } else u) := by
  simp only [hostServe, hp, hport, ho, Bool.false_eq_true, if_false, hk]
  rfl

theorem hostServe_read (hk : q.kind = .read) :
    let a := fld q.addr.toNat 0 52
    let u := countPort (16 + port.val) p q.len s
    hostServe q s = if (s.host.ports[port]).up = false then u
      else if hostStatus s a q.len ≠ 0x00 then answer q (hostStatus s a q.len) [] u
      else answer q 0x00 (readBytes s.mem.host a q.len) u := by
  simp only [hostServe, hp, hport, ho, Bool.false_eq_true, if_false, hk, Bool.not_eq_true']
  rfl

end

/-- Settles O23: accesses by the memory that their space names, then by the checks and the kind of access. -/
theorem memoryAccessesServed : Obligations.MemoryAccessesServed := by
  unfold Obligations.MemoryAccessesServed
  refine ⟨⟨fun s id q c hq hph hcl hk => ?_, fun s id q hq hph hsp hk => ?_⟩,
    ⟨fun s id q hq hph hsp => ?_, fun s id q hq hph hsp hk => ?_⟩, fun s a n ra u hclean hcl => ?_, fun s a d u hclean hcl => ?_⟩
  · intro cmd hsp
    have hx : exec cmd s = _ := exec_sramCommand hq hph hk hcl hsp
    refine ⟨fun hst => hx.trans (congrArg _ (if_pos hst)), fun hst hawake hon => ?_⟩
    rw [if_neg (not_not_intro hst), if_neg (by simp [hawake, hon])] at hx
    obtain ⟨hdry, hover, hserve⟩ := clusterServe_cases (q := q) (s := s) c
    refine ⟨fun hd => hx.trans (congrArg _ (hdry hd)), fun hd ho => hx.trans (congrArg _ (hover hd ho)), fun hd ho => ?_⟩
    rw [hserve hd ho] at hx
    refine ⟨fun hk => ?_, fun hk => ?_, fun op hk => ?_⟩
    · rw [hx, sramServe_read hk]
    · rw [hx, sramServe_write hk]
    · rw [hx, sramServe_atomic hk]
      exact ⟨fun hr => by rw [if_pos hr], fun hr => by rw [if_neg (not_not_intro hr)]⟩
  · rw [exec_memAccessServe_stack hq hph hk hsp]
    refine ⟨fun hp => congrArg _ (stackServe_unmapped hp), fun n phys hp => ⟨fun hst => congrArg _ (stackServe_refused hp hst),
      fun hst ho => congrArg _ (stackServe_overlaps hp hst ho), fun p hst ho hpart => ?_⟩⟩
    rw [hpart]
    refine ⟨fun hk => congrArg _ (stackServe_read hp hst ho hpart hk), fun hk => ⟨fun r hw => congrArg _ (stackServe_write hp hst ho hpart hk hw),
      fun hw => congrArg _ (stackServe_writeWaits hp hst ho hpart hk hw)⟩, fun op hk => ?_⟩
    obtain ⟨hfails, hstores, hwaits⟩ := stackServe_atomic hp hst ho hpart hk
    exact ⟨fun hr => congrArg _ (hfails hr), fun v hr hw => congrArg _ (hstores v hr hw), fun hr hw => congrArg _ (hwaits hr hw)⟩
  · intro r hawake
    have hx (hk : q.kind = .read ∨ q.kind = .write ∨ ∃ op, q.kind = .atomic op) := exec_memAccessServe_register hq hph hk hsp hawake
    refine ⟨fun hk hf => ?_, fun hk hf => ?_, fun hk => ?_⟩
    · rw [hx (.inr (.inl hk)), regServe_held hk hf]
    · rw [hx (.inr (.inl hk)), regServe_write hk hf]
    · rw [hx (.inl hk), regServe_read hk]
  · rw [exec_memAccessServe_host hq hph (hk.imp_right .inl) hsp]
    refine ⟨fun hp => congrArg _ (hostServe_noPart hp), fun p hp hport => congrArg _ (hostServe_noPort hp hport),
      fun p port hp hport ho => congrArg _ (hostServe_overlaps hp hport ho), fun p port hp hport ho => ?_⟩
    refine ⟨fun hk hst hup => ?_, fun hk hbad => ?_, fun hk hup hst => ?_, fun hk hup hst => ?_, fun hk hdown => ?_⟩
    · rw [hostServe_write hp hport ho hk, if_pos ⟨hst, hup⟩]
    · rw [hostServe_write hp hport ho hk, if_neg fun h => hbad.elim (fun hst => hst h.1) fun hdown => absurd h.2 (ne_true_of_eq_false hdown)]
    · rw [hostServe_read hp hport ho hk, if_neg (by rw [hup]; decide), if_pos hst]
    · rw [hostServe_read hp hport ho hk, if_neg (by rw [hup]; decide), if_neg (not_not_intro hst)]
    · rw [hostServe_read hp hport ho hk, if_pos hdown]
  · obtain ⟨c, hcl⟩ := hcl
    rw [sramRead_clean hclean hcl]
    exact ⟨rfl, rfl, rfl⟩
  · obtain ⟨c, hcl⟩ := hcl
    rw [sramWrite_clean hclean hcl]
    exact ⟨rfl, rfl, rfl⟩

end Sys2Proof.Machine
end

section
/-! PROOFS. Page zeroing, the patrol scrub and the CXL.mem window (spec/07_memory.md R195-R200, R209-R211). -/

namespace Sys2Proof.Machine
open Sys2Proof

/-! ### Zeroing and the patrol scrub (R195-R198, R200) -/

theorem exec_pageZeroDone_none {s : State} {n : Fin 48} (h : s.mem.zeroing.get [] n.val = []) : exec (.pageZeroDone n) s = .next s := by
  refine congrArg Host.Outcome.next ?_
  rw [h]

theorem exec_pageZeroDone_head {s : State} {n : Fin 48} {page : Nat} {rest : List Nat} (h : s.mem.zeroing.get [] n.val = page :: rest) :
    let p := s.mem.pages.get {} (n.val * 64 + page)
    let base := n.val * 2 ^ 36 + page * 2 ^ 30
    let zeroed (j : Nat) : Bool := base ≤ 32 * j && 32 * j < base + 2 ^ 30 && !p.ahead.contains (32 * j % 2 ^ 30 / 4096)
    exec (.pageZeroDone n) s = .next (retryCxl (pageZeroed p.jobs { s with mem := { s.mem with
      zeroing := s.mem.zeroing.set [] n.val rest, stackErr := s.mem.stackErr.filter fun e => !zeroed e.1,
      pages := s.mem.pages.set {} (n.val * 64 + page) { p with mark := 262144, ahead := [], jobs := [] } } })) := by
  refine congrArg Host.Outcome.next ?_
  rw [h]

/-- Units below 2^40 are those of SRAMs. -/
theorem exec_patrolScrub_sram {s : State} {unit : Nat} {c : Cl} (hu : unit < 2 ^ 40) (hcl : addrCl (sramUnitAddr unit) = some c) :
    exec (.patrolScrub unit) s = .next (settle (if computeOff s c = true then s else (sramRead (sramUnitAddr unit) 8 false (clUnit c) s).2.2)) := by
  refine congrArg (fun t => Host.Outcome.next (settle t)) ((if_pos hu).trans ?_)
  simp only [hcl]

theorem exec_patrolScrub_stack {s : State} {unit : Nat} (hu : 2 ^ 40 ≤ unit) :
    let k := 32 * (unit - 2 ^ 40)
    let n := Fin.ofNat 48 (k / 2 ^ 36)
    exec (.patrolScrub unit) s = .next (settle (if (stackOn s n && !granuleZero s n (k % 2 ^ 36)) = true
      then (stackRead n (k % 2 ^ 36) 32 (BitVec.ofNat 64 (n.val * 2 ^ 58 + k % 2 ^ 36)) none false (stackUnit n) s).2.2 else s)) :=
  congrArg (fun t => Host.Outcome.next (settle t)) (if_neg (Nat.not_lt.2 hu))

/-! ### The CXL.mem window (R209-R211) -/

/-- Nothing comes through a port that is down, or at an address not this port's. -/
theorem exec_cxlMem_closed {s : State} {port : Fin 2} {hpa : Nat} (h : (s.host.ports[port]).up = false ∨ hdmDecode s port hpa = none)
    (d : BitVec 512) : exec (.cxlMemRead port hpa) s = .next s ∧ exec (.cxlMemWrite port hpa d) s = .next s := by
  rcases h with h | h
  · have hdown : (!(s.host.ports[port]).up) = true := by rw [h]; rfl
    exact ⟨congrArg Host.Outcome.next (if_pos hdown), congrArg Host.Outcome.next (if_pos hdown)⟩
  · constructor <;> refine congrArg Host.Outcome.next ?_ <;> rw [h] <;> exact ite_self s

section
variable {s : State} {port : Fin 2} {hpa a : Nat} (hup : (s.host.ports[port]).up = true) (hdec : hdmDecode s port hpa = some a)
include hup hdec

theorem exec_cxlMemRead_unmapped (ht : hdmTarget s a = none ∨ ∃ p, hdmTarget s a = some (p, none)) :
    exec (.cxlMemRead port hpa) s = .next (cxlReply port 0 false (hdmCount s)) := by
  refine congrArg Host.Outcome.next ((if_neg (by rw [hup]; decide)).trans ?_)
  rcases ht with ht | ⟨p, ht⟩ <;> simp only [hdec, ht]

theorem exec_cxlMemRead_mapped {p : Fin 64} {n : Fin 48} {phys : Nat} (ht : hdmTarget s a = some (p, some (n, phys))) :
    let u := countPort (16 + port.val) p 64 s
    let r := stackRead n phys 64 (hdmAddr u a) (some p) false (cxlUnit port) (countStack n p 64 u)
    exec (.cxlMemRead port hpa) s = .next (if partResetting u p = true then cxlReply port 0 false u
      else if (!stackOn u n) = true then cxlReply port (2 ^ 512 - 1) true (aerSignal port u)
      else settle (if r.1 = 0x00 then cxlReply port (leNat r.2.1) false r.2.2 else cxlReply port (2 ^ 512 - 1) true (aerSignal port r.2.2))) := by
  refine congrArg Host.Outcome.next ((if_neg (by rw [hup]; decide)).trans ?_)
  simp only [hdec, ht]

/-- A write waits behind one to the same bytes, and where the window cannot take it now. -/
theorem exec_cxlMemWrite_open (d : BitVec 512) :
    let hold : State := { s with mem := { s.mem with cxlHeld := s.mem.cxlHeld ++ [(port, a, d)] } }
    exec (.cxlMemWrite port hpa d) s =
      .next (if (s.mem.cxlHeld.any fun e => e.2.1 == a) = true then hold else (cxlWrite port a d s).getD hold) := by
  refine congrArg Host.Outcome.next ((if_neg (by rw [hup]; decide)).trans ?_)
  simp only [hdec]

end

section
variable {s : State} {a : Nat} (port : Fin 2) (d : BitVec 512)

theorem cxlWrite_unmapped (ht : hdmTarget s a = none ∨ ∃ p, hdmTarget s a = some (p, none)) : cxlWrite port a d s = some (hdmCount s) := by
  rcases ht with ht | ⟨p, ht⟩ <;> simp only [cxlWrite, ht]

variable {p : Fin 64} {n : Fin 48} {phys : Nat} (ht : hdmTarget s a = some (p, some (n, phys)))
include ht

theorem cxlWrite_discarded (h : partResetting (countPort (16 + port.val) p 64 s) p = true ∨ stackOn (countPort (16 + port.val) p 64 s) n = false) :
    cxlWrite port a d s = some (countPort (16 + port.val) p 64 s) := by
  simp only [cxlWrite, ht]
  exact if_pos (by rcases h with h | h <;> simp [h])

theorem cxlWrite_performed (hr : partResetting (countPort (16 + port.val) p 64 s) p = false)
    (ho : stackOn (countPort (16 + port.val) p 64 s) n = true) :
    let u := countPort (16 + port.val) p 64 s
    cxlWrite port a d s =
      (stackWrite n phys (leBytes 64 d.toNat) (hdmAddr u a) (some p) (cxlUnit port) (countStack n p 64 u)).map fun r => settle r.2 := by
  simp only [cxlWrite, ht]
  exact if_neg (by simp [hr, ho])

end

/-- Settles O24: zeroing by the head of the stack's order, scrubs by the kind of unit, CXL.mem by what the address selects. -/
theorem scrubZeroingAndCxlWindow : Obligations.ScrubZeroingAndCxlWindow := by
  unfold Obligations.ScrubZeroingAndCxlWindow
  refine ⟨⟨fun s n => exec_pageZeroDone_none, fun s n page rest h => exec_pageZeroDone_head h, fun s unit c hu hcl => ?_, fun s unit hu => ?_⟩,
    fun s port hpa d h => exec_cxlMem_closed h d, fun s port hpa a hup hdec => ?_, fun s port hpa a d hup hdec => ?_⟩
  · rw [exec_patrolScrub_sram hu hcl]
    exact ⟨fun hon => by rw [if_neg (ne_true_of_eq_false hon)], fun hoff => by rw [if_pos hoff]⟩
  · intro k n
    have hx : exec (.patrolScrub unit) s = .next (settle (if (stackOn s n && !granuleZero s n (k % 2 ^ 36)) = true then _ else s)) :=
      exec_patrolScrub_stack hu
    refine ⟨fun hon hz => hx.trans ?_, fun h => hx.trans ?_⟩
    · rw [if_pos (by rw [hon, hz]; rfl)]
    · rw [if_neg (by rcases h with h | h <;> rw [h] <;> simp)]
  · refine ⟨exec_cxlMemRead_unmapped hup hdec, fun p n phys ht => ?_⟩
    rw [exec_cxlMemRead_mapped hup hdec ht]
    intro u r
    refine ⟨fun hr => ?_, fun hr ho => ?_, fun hr ho hst => ?_, fun hr ho hst => ?_⟩
    · rw [if_pos hr]
    · rw [if_neg (ne_true_of_eq_false hr), if_pos (by rw [ho]; rfl)]
    · rw [if_neg (ne_true_of_eq_false hr), if_neg (by rw [ho]; decide), if_pos hst]
    · rw [if_neg (ne_true_of_eq_false hr), if_neg (by rw [ho]; decide), if_neg hst]
  · rw [exec_cxlMemWrite_open hup hdec]
    intro hold
    have hheld : (s.mem.cxlHeld.any fun e => e.2.1 == a) = true ↔ ∃ e ∈ s.mem.cxlHeld, e.2.1 = a := by simp [List.any_eq_true]
    refine ⟨fun h => ?_, fun hfree => ?_⟩
    · rw [if_pos (hheld.2 h)]
    · rw [if_neg fun h => let ⟨e, he, ha⟩ := hheld.1 h; hfree e he ha]
      refine ⟨fun ht => ?_, fun p n phys ht => ⟨fun h => ?_, fun v hr ho hw => ?_, fun hr ho hw => ?_⟩⟩
      · rw [cxlWrite_unmapped port d ht, Option.getD_some]
      · rw [cxlWrite_discarded port d ht h, Option.getD_some]
      · rw [cxlWrite_performed port d ht hr ho, hw, Option.map_some, Option.getD_some]
      · rw [cxlWrite_performed port d ht hr ho, hw, Option.map_none, Option.getD_none]

end Sys2Proof.Machine
end

section
/-! PROOFS. The checks that every command meets, and bulk data buffers (spec/07_memory.md R190, 13_host_and_commands.md R355, R360-R362). -/

namespace Sys2Proof.Machine
open Sys2Proof

/-! ### The general check (R355, R361) -/

/-- The clauses of the general check, by the first of its tests that fails. -/
theorem cmdCheck_cases (s : State) (r : CmdRow) (c : Cmd) :
    let zero := reservedZero r c.raw = true
    let ready := s.boot.ready = true ∨ r.early = true
    let open_ := s.boot.lc ≠ .returned ∨ r.returned = true
    let names := vfNames s c = true
    let issuer := r.pfOnly = false ∨ c.key.fn.vf.val = 0
    (¬ zero → cmdCheck s r c = 0x03) ∧ (zero → ¬ ready → cmdCheck s r c = 0x01) ∧ (zero → ready → ¬ open_ → cmdCheck s r c = 0x04) ∧
    (zero → ready → open_ → ¬ names → cmdCheck s r c = 0x04) ∧ (zero → ready → open_ → names → ¬ issuer → cmdCheck s r c = 0x04) ∧
    (zero → ready → open_ → names → issuer → partNamed s r c = false → cmdCheck s r c = 0x03) ∧
    (zero → ready → open_ → names → issuer → partNamed s r c = true → cmdCheck s r c = 0x00) := by
  have hready : (!s.boot.ready && !r.early) = true ↔ ¬ (s.boot.ready = true ∨ r.early = true) := by simp
  have hopen : (s.boot.lc == .returned && !r.returned) = true ↔ ¬ (s.boot.lc ≠ .returned ∨ r.returned = true) := by simp
  have hissuer : (r.pfOnly && c.key.fn.vf.val != 0) = true ↔ ¬ (r.pfOnly = false ∨ c.key.fn.vf.val = 0) := by simp
  simp only [cmdCheck, hready, hopen, hissuer, Bool.not_eq_true', ← Bool.not_eq_true]
  refine ⟨fun h => ?_, fun h0 h => ?_, fun h0 h1 h => ?_, fun h0 h1 h2 h => ?_, fun h0 h1 h2 h3 h => ?_, fun h0 h1 h2 h3 h4 h => ?_,
    fun h0 h1 h2 h3 h4 h => ?_⟩
  · rw [if_pos h]
  · rw [if_neg (not_not_intro h0), if_pos h]
  · rw [if_neg (not_not_intro h0), if_neg (not_not_intro h1), if_pos h]
  · rw [if_neg (not_not_intro h0), if_neg (not_not_intro h1), if_neg (not_not_intro h2), if_pos h]
  · rw [if_neg (not_not_intro h0), if_neg (not_not_intro h1), if_neg (not_not_intro h2), if_neg (not_not_intro h3), if_pos h]
  · rw [if_neg (not_not_intro h0), if_neg (not_not_intro h1), if_neg (not_not_intro h2), if_neg (not_not_intro h3),
      if_neg (not_not_intro h4), if_pos h]
  · rw [if_neg (not_not_intro h0), if_neg (not_not_intro h1), if_neg (not_not_intro h2), if_neg (not_not_intro h3),
      if_neg (not_not_intro h4), if_neg (not_not_intro h)]

theorem vfNames_iff (s : State) (c : Cmd) : vfNames s c = true ↔
    (c.key.fn.vf.val = 0 ∨ cmdPart c.raw = 0xFF ∨ ∃ p, partOfVf s c.key.fn = some p ∧ cmdPart c.raw = p.val) := by
  unfold vfNames
  cases partOfVf s c.key.fn <;> simp [or_assoc]

/-- The partition that a command names, or its VF's own, exists. -/
abbrev targetExists (s : State) (c : Cmd) : Prop := ∃ p q, cmdTarget s c = some p ∧ partOf s p = some q

theorem targetExists_iff (s : State) (c : Cmd) : ((cmdTarget s c).any fun p => (partOf s p).isSome) = true ↔ targetExists s c := by
  simp [targetExists, Option.any_eq_true, Option.isSome_iff_exists]

theorem partNamed_iff (s : State) (r : CmdRow) (c : Cmd) :
    (r.part = .new → (partNamed s r c = true ↔ cmdPart c.raw < 64)) ∧ (r.part = .one → (partNamed s r c = true ↔ targetExists s c)) ∧
    (r.part = .reach → (partNamed s r c = true ↔ cmdPart c.raw = 0xFF ∨ targetExists s c)) ∧
    (r.part = .maybe → (partNamed s r c = true ↔ (cmdPart c.raw = 0xFF ∧ c.key.fn.vf.val = 0) ∨ targetExists s c)) ∧
    (r.part = .none → (partNamed s r c = true ↔ cmdPart c.raw = 0xFF ∨ targetExists s c)) := by
  unfold partNamed
  refine ⟨fun h => ?_, fun h => ?_, fun h => ?_, fun h => ?_, fun h => ?_⟩ <;> rw [h]
  · exact decide_eq_true_iff
  · exact targetExists_iff s c
  · simp only [Bool.or_eq_true, targetExists_iff, beq_iff_eq]
  · simp only [Bool.or_eq_true, Bool.and_eq_true, targetExists_iff, beq_iff_eq, reduceCtorEq, or_false]
  · simp only [Bool.or_eq_true, Bool.and_eq_true, targetExists_iff, beq_iff_eq, or_true, and_true]

/-! ### A command whose record is there (R355, R360) -/

/-- Every host command runs its own part behind the checks. -/
theorem exec_hostCommand {i : Instr} {k : CmdKey} {op : Nat} {form : BitVec 512 → Bool} (h : hostCommand i = some (k, op, form)) :
    ∃ body : Cmd → State → State, ∀ s, exec i s = .next (runCmd k op form body s) := by
  unfold hostCommand at h
  split at h <;> cases h <;> exact ⟨_, fun _ => rfl⟩

section
variable {s : State} {k : CmdKey} {op : Nat} {form : BitVec 512 → Bool} {c : Cmd} {r : CmdRow}
  (hc : s.host.cmds.find? (·.key == k) = some c) (hr : cmdRow op = some r) (body : Cmd → State → State)
include hc hr

theorem runCmd_notYet (h : cmdOp c.raw ≠ op ∨ form c.raw = false ∨ mayRun s r c = false) : runCmd k op form body s = s := by
  simp only [runCmd, hc, hr]
  exact if_pos (by simpa [or_assoc] using h)

theorem runCmd_refused (hop : cmdOp c.raw = op) (hform : form c.raw = true) (hmay : mayRun s r c = true) (hst : cmdCheck s r c ≠ 0x00) :
    runCmd k op form body s = complete k (cmdCheck s r c) [] s := by
  simp only [runCmd, hc, hr, if_pos hst]
  exact if_neg (by simp [hop, hform, hmay])

end

/-! ### Buffers and completions (R190, R355, R362) -/

/-- The clauses of bulk data that a command gives. -/
theorem giveData_cases (s : State) (c : Cmd) (d : Nat) (data : List Byte) :
    let a := bufAddr c d
    let st := bufStatus s c a data.length
    (a % 64 ≠ 0 → giveData c d data s = complete c.key 0x03 [] s) ∧
    (a % 64 = 0 → bufLen c d < data.length → giveData c d data s = complete c.key 0x0E (leBytes 4 0 ++ leBytes 4 data.length) s) ∧
    (a % 64 = 0 → data.length ≤ bufLen c d → st ≠ 0x00 → giveData c d data s = complete c.key st [] s) ∧
    (a % 64 = 0 → data.length ≤ bufLen c d → st = 0x00 →
      giveData c d data s = complete c.key 0x00 (leBytes 4 data.length) (hostWrite a data s)) := by
  unfold giveData
  refine ⟨fun ha => ?_, fun ha hl => ?_, fun ha hl hst => ?_, fun ha hl hst => ?_⟩
  · rw [if_pos ha]
  · rw [if_neg (not_not_intro ha), if_pos hl]
  · rw [if_neg (not_not_intro ha), if_neg (Nat.not_lt.2 hl), if_pos hst]
  · rw [if_neg (not_not_intro ha), if_neg (Nat.not_lt.2 hl), if_neg (not_not_intro hst)]

/-- The clauses of bulk data that a command takes. -/
theorem takeData_cases (s : State) (c : Cmd) (d : Nat) :
    let a := bufAddr c d
    let st := bufStatus s c a (bufLen c d)
    (a % 64 ≠ 0 → takeData s c d = .inl 0x03) ∧ (a % 64 = 0 → st ≠ 0x00 → takeData s c d = .inl st) ∧
    (a % 64 = 0 → st = 0x00 → takeData s c d = .inr (readBytes s.mem.host a (bufLen c d))) := by
  unfold takeData
  refine ⟨fun ha => ?_, fun ha hst => ?_, fun ha hst => ?_⟩
  · rw [if_pos ha]
  · rw [if_neg (not_not_intro ha), if_pos hst]
  · rw [if_neg (not_not_intro ha), if_neg (not_not_intro hst)]

theorem bufStatus_down {s : State} {c : Cmd} {n : Nat} (hn : n ≠ 0) (hdown : (s.host.ports[c.key.fn.port]).up = false) (a : Nat) :
    bufStatus s c a n = 0x06 := (if_neg hn).trans (if_pos (by rw [hdown]; rfl))

theorem bufStatus_up {s : State} {c : Cmd} {n : Nat} (hn : n ≠ 0) (hup : (s.host.ports[c.key.fn.port]).up = true) (a : Nat) :
    bufStatus s c a n = hostStatus s a n := (if_neg hn).trans (if_neg (by rw [hup]; decide))

theorem complete_gone {s : State} {k : CmdKey} (h : s.host.cmds.find? (·.key == k) = none) (st : Byte) (res : List Byte) :
    complete k st res s = s := by
  simp only [complete, h]

theorem complete_fetched {s : State} {k : CmdKey} {c : Cmd} (h : s.host.cmds.find? (·.key == k) = some c) (st : Byte) (res : List Byte) :
    complete k st res s = flushUnknown (writeCompletion c st res (dropCmd c.serial s)) := by
  simp only [complete, h]

/-- Settles O40: the check by its first failed test, every command by `runCmd`, buffers by their alignment, room and status. -/
theorem commandChecksAndBuffers : Obligations.CommandChecksAndBuffers := by
  unfold Obligations.CommandChecksAndBuffers
  refine ⟨⟨cmdCheck_cases, vfNames_iff, partNamed_iff, fun i k op form h s => ?_⟩, giveData_cases, takeData_cases,
    fun s c a n => ⟨rfl, fun hn hdown => bufStatus_down hn hdown a, fun hn hup => bufStatus_up hn hup a⟩,
    fun s k st res => ⟨fun h => complete_gone h st res, fun c h => complete_fetched h st res⟩⟩
  obtain ⟨body, hbody⟩ := exec_hostCommand h
  rw [hbody]
  exact ⟨fun hgone => congrArg _ (runCmd_absent hgone op form body), fun c r hc hr => ⟨fun hnot => congrArg _ (runCmd_notYet hc hr body hnot),
    fun hop hform hmay hst => congrArg _ (runCmd_refused hc hr body hop hform hmay hst)⟩⟩

end Sys2Proof.Machine
end

section
/-! PROOFS. Image loads, register writes, copies, wipes and CXL mappings (spec/07_memory.md R195, R210, 13_host_and_commands.md
R364-R367). -/

namespace Sys2Proof.Machine
open Sys2Proof

/-! ### Images (R365-R367) -/

section
variable {s : State} {k : CmdKey} {c : Cmd} {p : Fin 64} {r : PartRec} (h : RunsIn s k 0x0301 c p r)
include h

theorem exec_loadImage_unread {st : Byte} (hd : takeData s c 2 = .inl st) : exec (.loadImage k) s = .next (complete k st [] s) := by
  refine congrArg Host.Outcome.next ((runCmd_runsIn h rfl _).trans ?_)
  simp only [hd]

theorem exec_loadImage_notImage {d : List Byte} (hd : takeData s c 2 = .inr d) (hi : imageSections d = none) :
    exec (.loadImage k) s = .next (complete k 0x03 [] s) := by
  refine congrArg Host.Outcome.next ((runCmd_runsIn h rfl _).trans ?_)
  simp only [hd, hi]

theorem exec_loadImage {d : List Byte} {es : List Section} (hd : takeData s c 2 = .inr d) (hi : imageSections d = some es) :
    exec (.loadImage k) s = .next (loadSections k p (bit (cmdD c.raw 5) 0) d es s) := by
  refine congrArg Host.Outcome.next ((runCmd_runsIn h rfl _).trans ?_)
  simp only [hd, hi]

end

/-! ### Registers (R364) -/

/-- The higher of two statuses, the first where they are equal. -/
def higherStatus (m b : Byte) : Byte := if m.toNat < b.toNat then b else m

theorem higherStatus_ge (m b : Byte) : m.toNat ≤ (higherStatus m b).toNat ∧ b.toNat ≤ (higherStatus m b).toNat := by
  unfold higherStatus
  split <;> omega

/-- The highest status of a list is at least every one of it and the one to begin with, and is one of them. -/
theorem foldl_higherStatus (l : List Byte) (m : Byte) :
    (∀ b, b = m ∨ b ∈ l → b.toNat ≤ (l.foldl higherStatus m).toNat) ∧ (l.foldl higherStatus m = m ∨ l.foldl higherStatus m ∈ l) := by
  induction l generalizing m with
  | nil => exact ⟨fun b hb => by rw [hb.resolve_right List.not_mem_nil]; exact Nat.le_refl _, .inl rfl⟩
  | cons a l ih =>
    obtain ⟨hge, hmem⟩ := ih (higherStatus m a)
    obtain ⟨hm, ha⟩ := higherStatus_ge m a
    have htop := hge _ (.inl rfl)
    refine ⟨fun b hb => ?_, ?_⟩
    · rcases hb with rfl | hb
      · exact Nat.le_trans hm htop
      · rcases List.mem_cons.1 hb with rfl | hb
        · exact Nat.le_trans ha htop
        · exact hge b (.inr hb)
    · rcases hmem with heq | hin
      · rw [List.foldl_cons, heq, higherStatus]
        split
        · exact .inr List.mem_cons_self
        · exact .inl rfl
      · exact .inr (List.mem_cons_of_mem a hin)

/-- The highest failed status of a list, 0x00 where none failed, is the highest of the list. -/
theorem worstStatus (l : List Byte) :
    let worst := (l.filter (· != 0x00)).foldl higherStatus 0x00
    (∀ b ∈ l, b.toNat ≤ worst.toNat) ∧ (worst = 0x00 ∨ worst ∈ l) := by
  obtain ⟨hge, hmem⟩ := foldl_higherStatus (l.filter (· != 0x00)) 0x00
  refine ⟨fun b hb => hge b ?_, hmem.imp_right fun h => (List.mem_filter.1 h).1⟩
  by_cases h0 : b = 0x00
  · exact .inl h0
  · exact .inr (List.mem_filter.2 ⟨hb, bne_iff_ne.2 h0⟩)

/-- The statuses that did not fail are the others. -/
theorem length_filter_ok (l : List Byte) : (l.filter (· == 0x00)).length = l.length - (l.filter (· != 0x00)).length := by
  have hsum : l.length = (l.filter (· == 0x00)).length + (l.filter (· != 0x00)).length := by
    have hne : (fun b : Byte => decide ¬(b == 0x00) = true) = (· != 0x00) := funext fun b => by
      rw [bne, decide_not, Bool.decide_eq_true]
    simp only [← List.countP_eq_length_filter, ← hne]
    exact List.length_eq_countP_add_countP (· == 0x00)
  omega

theorem putReg_outside {s : State} {c : Cmd} {x : Cl} (h : inReach s c x = false) (off : Nat) (v : Word) (l : List Byte) :
    putReg c off v (l, s) x = (l ++ [0x04], s) := if_pos (by rw [h]; rfl)

theorem putReg_inside {s : State} {c : Cmd} {x : Cl} (h : inReach s c x = true) (off : Nat) (v : Word) (l : List Byte) :
    let u := writeReg (cmdWho s c) x (clReg off) v (rouse x s)
    putReg c off v (l, s) x = (l ++ [u.ioReply], u) := if_neg (by rw [h]; decide)

/-- Each cluster of a REG_WRITE gives one status. -/
theorem length_putReg (c : Cmd) (off : Nat) (v : Word) (r : List Byte × State) (x : Cl) : (putReg c off v r x).1.length = r.1.length + 1 := by
  obtain ⟨l, s⟩ := r
  cases h : inReach s c x
  · rw [putReg_outside h, List.length_append, List.length_singleton]
  · rw [putReg_inside h, List.length_append, List.length_singleton]

theorem length_foldl_putReg (c : Cmd) (off : Nat) (v : Word) (xs : List Cl) (r : List Byte × State) :
    (xs.foldl (putReg c off v) r).1.length = r.1.length + xs.length := by
  induction xs generalizing r with
  | nil => rfl
  | cons x xs ih => rw [List.foldl_cons, ih, length_putReg, List.length_cons]; omega

section
variable {s : State} {k : CmdKey} {c : Cmd} (h : Runs s k 0x0302 c)
include h

theorem exec_regWrite_bad (hbad : csetOf (cmdD c.raw 2) = none ∨ cmdD c.raw 3 % 8 ≠ 0) :
    exec (.regWrite k) s = .next (complete k 0x03 [] s) := by
  refine congrArg Host.Outcome.next ((runCmd_any h _).trans ?_)
  cases hset : csetOf (cmdD c.raw 2) with
  | none => rfl
  | some xs => exact if_pos (hbad.resolve_left (by rw [hset]; exact Option.some_ne_none xs))

theorem exec_regWrite {xs : List Cl} (hset : csetOf (cmdD c.raw 2) = some xs) (hoff : cmdD c.raw 3 % 8 = 0) :
    let w := xs.foldl (putReg c (cmdD c.raw 3) (BitVec.ofNat 64 (cmdD c.raw 4 + cmdD c.raw 5 * 2 ^ 32))) ([], s)
    let bad := w.1.filter (· != 0x00)
    let worst := bad.foldl higherStatus 0x00
    exec (.regWrite k) s = .next (complete k worst
      (leBytes 4 (w.1.length - bad.length) ++ leBytes 4 0 ++ leBytes 2 bad.length ++ [worst]) { w.2 with ioReply := s.ioReply }) := by
  refine congrArg Host.Outcome.next ((runCmd_any h _).trans ?_)
  rw [hset]
  exact if_neg (not_not_intro hoff)

/-- The clauses of a REG_WRITE that goes to its clusters. -/
theorem regWrite_counts {xs : List Cl} (hset : csetOf (cmdD c.raw 2) = some xs) (hoff : cmdD c.raw 3 % 8 = 0) :
    let w := xs.foldl (putReg c (cmdD c.raw 3) (BitVec.ofNat 64 (cmdD c.raw 4 + cmdD c.raw 5 * 2 ^ 32))) ([], s)
    ∃ worst, exec (.regWrite k) s = .next (complete k worst (leBytes 4 (w.1.filter (· == 0x00)).length ++ leBytes 4 0 ++
        leBytes 2 (w.1.filter (· != 0x00)).length ++ [worst]) { w.2 with ioReply := s.ioReply }) ∧
      (∀ b ∈ w.1, b.toNat ≤ worst.toNat) ∧ (worst = 0x00 ∨ worst ∈ w.1) ∧ w.1.length = xs.length := by
  intro w
  obtain ⟨hge, hmem⟩ := worstStatus w.1
  refine ⟨_, ?_, hge, hmem, (length_foldl_putReg _ _ _ xs _).trans (Nat.zero_add _)⟩
  rw [length_filter_ok]
  exact exec_regWrite h hset hoff

end

/-! ### Copies (R364) -/

section
variable {s : State} {k : CmdKey} {c : Cmd} {p : Fin 64} {r : PartRec} (h : RunsIn s k 0x0401 c p r)
include h

theorem exec_memCopy :
    let host := bufAddr c 2
    let n := bufLen c 2
    let a := cmdD c.raw 5 + cmdD c.raw 6 * 2 ^ 32
    let st := bufStatus s c host n
    let g := memGetAll p (cut a (List.replicate n 0)) [] s
    let w := memPutAll p (cut a (readBytes s.mem.host host n)) 0 s
    exec (.memCopy k) s = .next (
      if n = 0 ∨ 2 ^ 24 < n ∨ fld a 56 8 ≠ 0xFF ∨ 3 < fld a 52 4 ∨ host % 64 ≠ 0 then complete k 0x03 [] s
      else if st ≠ 0x00 then complete k st (leBytes 4 0) s
      else if bit (cmdD c.raw 7) 0 = true then complete k g.1 (leBytes 4 g.2.1.length) (hostWrite host g.2.1 g.2.2)
      else complete k w.1 (leBytes 4 w.2.1) w.2.2) :=
  congrArg Host.Outcome.next (runCmd_runsIn h rfl _)

end

/-- Writing and reading packet by packet, until one fails. -/
theorem memAll_cases (p : Fin 64) (a : Nat) (d : List Byte) (r : List (Nat × List Byte)) (n : Nat) (l : List Byte) (s : State) :
    let w := memPut p (BitVec.ofNat 64 a) d s
    let g := memGet p (BitVec.ofNat 64 a) d.length s
    memPutAll p [] n s = (0x00, n, s) ∧ memGetAll p [] l s = (0x00, l, s) ∧
    (w.1 ≠ 0x00 → memPutAll p ((a, d) :: r) n s = (w.1, n, w.2)) ∧ (w.1 = 0x00 → memPutAll p ((a, d) :: r) n s = memPutAll p r (n + d.length) w.2) ∧
    (g.1 ≠ 0x00 → memGetAll p ((a, d) :: r) l s = (g.1, l, g.2.2)) ∧ (g.1 = 0x00 → memGetAll p ((a, d) :: r) l s = memGetAll p r (l ++ g.2.1) g.2.2) :=
  ⟨rfl, rfl, fun hw => if_pos hw, fun hw => if_neg (not_not_intro hw), fun hg => if_pos hg, fun hg => if_neg (not_not_intro hg)⟩

theorem putSections_cases (p : Fin 64) (skip : Bool) (img : List Byte) (e : Section) (es : List Section) (n : Nat) (s : State) :
    let w := putSection p skip img e s
    putSections p skip img [] n s = (0x00, n, s) ∧ (w.1 ≠ 0x00 → putSections p skip img (e :: es) n s = (w.1, n, w.2)) ∧
    (w.1 = 0x00 → putSections p skip img (e :: es) n s = putSections p skip img es (n + 1) w.2) :=
  ⟨rfl, fun hw => if_pos hw, fun hw => if_neg (not_not_intro hw)⟩

/-! ### Wipes and slices (R195, R210, R364) -/

section
variable {s : State} {k : CmdKey} {c : Cmd} {p : Fin 64} {r : PartRec}

theorem exec_wipe (h : RunsIn s k 0x0402 c p r) :
    let a := cmdD c.raw 2
    let n := cmdD c.raw 3
    exec (.wipe k) s = .next (if n = 0 ∨ (!(List.range n).all fun i => pageMapped s p (a + i)) = true then complete k 0x03 [] s
      else complete k 0x00 [] (rekeySet (some p) 3 ((wipedPages s p a n).map fun e => (e.1, some p, e.2)) s)) :=
  congrArg Host.Outcome.next (runCmd_runsIn h rfl _)

/-- Some page of a range is not mapped. -/
theorem unmappedPage_iff (s : State) (p : Fin 64) (a n : Nat) :
    (!(List.range n).all fun i => pageMapped s p (a + i)) = true ↔ ∃ i < n, pageMapped s p (a + i) = false := by
  simp

theorem exec_hdmMap (h : RunsIn s k 0x0403 c p r) :
    exec (.hdmMap k) s = .next (if hdmGib s ≤ cmdD c.raw 2 ∨ (!pageMapped s p (cmdD c.raw 3)) = true then complete k 0x03 [] s
      else complete k 0x00 [] (setSlice (cmdD c.raw 2) (some (p, cmdD c.raw 3)) s)) :=
  congrArg Host.Outcome.next (runCmd_runsIn h rfl _)

theorem exec_hdmUnmap (h : Runs s k 0x0404 c) : exec (.hdmUnmap k) s = .next (complete k 0x00 [] (setSlice (cmdD c.raw 2) none s)) :=
  congrArg Host.Outcome.next (runCmd_any h _)

end

/-- Settles O44: each command by its own checks; REG_WRITE by its clusters in turn, copies and images by their packets and sections. -/
theorem memoryCommands : Obligations.MemoryCommands := by
  unfold Obligations.MemoryCommands
  refine ⟨⟨fun s k c p r _ h => ⟨fun st => exec_loadImage_unread h, fun d hd => ⟨exec_loadImage_notImage h hd, fun es => exec_loadImage h hd⟩⟩,
      fun s p skip img e es n => putSections_cases p skip img e es n s,
      fun s k c _ h => ⟨exec_regWrite_bad h, fun xs => regWrite_counts h⟩,
      fun c off v l s x => ⟨fun hr => putReg_outside hr off v l, fun hr => putReg_inside hr off v l⟩⟩,
    fun s k c p r _ h => ?_, memAll_cases, fun s k c p r _ h => ?_, fun s k c p r _ h => ?_, fun s k c _ h => exec_hdmUnmap h⟩
  · intro host n a st good
    rw [exec_memCopy h]
    have hgood : (n = 0 ∨ 2 ^ 24 < n ∨ fld a 56 8 ≠ 0xFF ∨ 3 < fld a 52 4 ∨ host % 64 ≠ 0) ↔ ¬ good := by
      simp only [good]
      omega
    refine ⟨fun hbad => ?_, fun hg hst => ?_, fun hg hst hdir => ?_, fun hg hst hdir => ?_⟩
    · rw [if_pos (hgood.2 hbad)]
    · rw [if_neg (mt hgood.1 (not_not_intro hg)), if_pos hst]
    · rw [if_neg (mt hgood.1 (not_not_intro hg)), if_neg (not_not_intro hst), if_neg (ne_true_of_eq_false hdir)]
    · rw [if_neg (mt hgood.1 (not_not_intro hg)), if_neg (not_not_intro hst), if_pos hdir]
  · rw [exec_wipe h]
    refine ⟨fun hn hall => ?_, fun hbad => ?_⟩
    · rw [if_neg (not_or.2 ⟨hn, fun hu => ?_⟩)]
      obtain ⟨i, hi, hf⟩ := (unmappedPage_iff s p _ _).1 hu
      exact absurd (hall i hi) (ne_true_of_eq_false hf)
    · rw [if_pos (hbad.imp_right (unmappedPage_iff s p _ _).2)]
  · rw [exec_hdmMap h]
    refine ⟨fun hi hm => ?_, fun hbad => ?_⟩
    · rw [if_neg (not_or.2 ⟨Nat.not_le.2 hi, by rw [hm]; decide⟩)]
    · rw [if_pos (hbad.imp_right fun hm => by rw [hm]; rfl)]

end Sys2Proof.Machine
end

section
/-! PROOFS. What a router does with the packet it grants, and PENDING notices (spec/08_mesh.md R214-R222, R234-R239). -/

namespace Sys2Proof.Machine
open Sys2Proof

/-! ### The grant (R215, R306) -/

/-- The state in which a granted packet is dealt with: its input port has given up its turn. -/
def turnTaken (r : Cl) (out : Fin 5) (q : Xact) (s : State) : State :=
  { s with freeCount := s.freeCount + 1, net := { s.net with turns := s.net.turns.set 0 (turnKey r out q) (q.port + 1) } }

section
variable {s : State} {r : Cl} {out : Fin 5} {q : Xact}

theorem exec_routerForward_idle (h : s.t.unlocked.contains (fieldOf r) = true ∨ granted s r out = none) :
    exec (.routerForward r out) s = .next s := by
  change execRouterForward r out s = _
  rcases h with hu | hg
  · simp only [execRouterForward, hu, if_true]
  · simp only [execRouterForward, hg, ite_self]

theorem exec_routerForward (hu : s.t.unlocked.contains (fieldOf r) = false) (hg : granted s r out = some q) :
    exec (.routerForward r out) s = .next (refill r (forward r out q (turnTaken r out q s))) := by
  change execRouterForward r out s = _
  simp only [execRouterForward, hu, Bool.false_eq_true, if_false, hg]
  rfl

/-! ### The packet granted (R219, R220, R234, R237) -/

theorem forward_dead (hd : s.net.deadRouters.get false (ck r) = true) : forward r out q s = loseXact q s := if_pos hd

theorem isReply_back {st : Byte} {d : List Byte} (h : q.phase = .back st d) : isReply q = true := by
  simp only [isReply, h]

theorem phase_of_isReply (h : isReply q = true) : ∃ st d, q.phase = .back st d := by
  unfold isReply at h
  split at h
  · next st d hp => exact ⟨st, d, hp⟩
  · exact absurd h Bool.false_ne_true

section
variable (hd : s.net.deadRouters.get false (ck r) = false)
include hd

/-- A request of a past epoch is answered and counted where it is met (R234). -/
theorem forward_staleRequest (hst : stale s q = true) (hq : isReply q = false) :
    let k := ctrOf s r
    forward r out q s = answerAt r 4 q 0x0F []
      (wrapEvent (clUnit r) 0 0x0B03 none k.staleAnswered 1 (setCtr r { k with staleAnswered := k.staleAnswered + 1 } s)) := by
  simp only [forward, hd, Bool.false_eq_true, if_false, hst, if_true]
  split
  · next hp => exact absurd (isReply_back hp) (ne_true_of_eq_false hq)
  · rfl

/-- A reply of a past epoch goes on under the current one, on the first virtual channel (R234). -/
theorem forward_staleReply (hst : stale s q = true) (hq : isReply q = true) :
    forward r out q s = setXact { q with epoch := BitVec.ofNat 2 s.net.routeEpoch, vc1 := false } s := by
  obtain ⟨st, d, hp⟩ := phase_of_isReply hq
  simp only [forward, hd, Bool.false_eq_true, if_false, hst, if_true, hp]

section
variable (hst : stale s q = false)
include hst

section
variable (hgo : nextHop s.net.cur s.net.routeEpoch r (xactGoal q) q.vc1 = .deliver)
include hgo

theorem forward_deliverRequest (hq : isReply q = false) : forward r out q s =
    deliverRequest q (takeOutput r out q (waitUntil s (q.since + cycTime s (4 + (xactFlits q - 1))))) := by
  simp only [forward, hd, hst, hgo, Bool.false_eq_true, if_false]
  split
  · next hp => exact absurd (isReply_back hp) (ne_true_of_eq_false hq)
  · rfl

theorem forward_deliverReply {st : Byte} {d : List Byte} (hp : q.phase = .back st d) : forward r out q s =
    deliverReply q st d (takeOutput r out q (waitUntil s (q.since + cycTime s (4 + (xactFlits q - 1))))) := by
  simp only [forward, hd, hst, hgo, Bool.false_eq_true, if_false, hp]

end

section
variable (hgo : nextHop s.net.cur s.net.routeEpoch r (xactGoal q) q.vc1 = .unreachable)
include hgo

theorem forward_unreachableRequest (hq : isReply q = false) : forward r out q s = answerAt r 4 q 0x09 [] s := by
  simp only [forward, hd, hst, hgo, Bool.false_eq_true, if_false]
  split
  · next hp => exact absurd (isReply_back hp) (ne_true_of_eq_false hq)
  · rfl

theorem forward_unreachableReply (hq : isReply q = true) : forward r out q s = countDiscard r (loseXact q s) := by
  obtain ⟨st, d, hp⟩ := phase_of_isReply hq
  simp only [forward, hd, hst, hgo, Bool.false_eq_true, if_false, hp]

end

section
variable {d : Fin 4} {move : Bool} {n : Cl} (hgo : nextHop s.net.cur s.net.routeEpoch r (xactGoal q) q.vc1 = .port d move)
  (hn : nbr r d = some n)
include hgo hn

theorem forward_deadNeighbour (hdead : s.net.deadRouters.get false (ck n) = true) :
    forward r out q s = countDiscard r (loseXact q s) := by
  simp only [forward, hd, hst, hgo, hn, hdead, Bool.false_eq_true, if_false, if_true]

theorem forward_liveNeighbour (hlive : s.net.deadRouters.get false (ck n) = false) :
    forward r out q s = hop q r n d move (takeOutput r out q s) := by
  simp only [forward, hd, hst, hgo, hn, hlive, Bool.false_eq_true, if_false]

end
end
end
end

/-! ### One hop (R214, R222, R228) -/

/-- A hop that no flit error and no lane error disturbs. -/
theorem hop_clean {s : State} {r n : Cl} {d : Fin 4} (q : Xact) (move : Bool)
    (hflit : n.w ≠ r.w ∨ Config.flitError s.freeCount = false) (hlane : crossingOf r d = none ∨ Config.laneErrors s.freeCount = []) :
    let u := waitUntil { s with freeCount := s.freeCount + 1 } (q.since + cycTime s (hopCycles s q r n s.freeCount))
    let y : Xact := { q with pos := n, port := ⟨(opp d).val, by omega⟩, vc1 := q.vc1 || move, since := u.t.now }
    hop q r n d move s = { u with net := { u.net with xacts := s.net.xacts.filter (fun x => x.id != q.id) ++ [y] } } := by
  have hkept : (decide (n.w = r.w) && Config.flitError s.freeCount) = false := by
    rcases hflit with h | h <;> simp [h]
  simp only [hop, hkept, Bool.false_eq_true, if_false]
  rcases hlane with h | h
  · rw [h]; rfl
  · rw [h]; split <;> rfl

/-! ### PENDING notices (R217, R239) -/

section
variable {s : State} {id : Nat} {q : Xact} (hq : xactOf s id = some q)
include hq

theorem exec_pendingNotice_notHeld (hh : heldAtTarget s q = false) : exec (.pendingNotice id) s = .next s := by
  change execPendingNotice id s = _
  simp only [execPendingNotice, hq, hh, Bool.not_false, if_true]

theorem exec_pendingNotice_held (hh : heldAtTarget s q = true) :
    let u := waitUntil s (q.since + usec 5)
    let k := ctrOf u q.dst
    let v := wrapEvent (clUnit q.dst) 0 0x0B03 none k.pendingSent 1 (setCtr q.dst { k with pendingSent := k.pendingSent + 1 } u)
    exec (.pendingNotice id) s = .next (sendPending q (setXact { q with since := v.t.now } v)) := by
  change execPendingNotice id s = _
  simp only [execPendingNotice, hq, hh, Bool.not_true, Bool.false_eq_true, if_false]

end

/-- Settles O25: the branches of `forward`, each in the state in which the turn is taken. -/
theorem routerForwarding : Obligations.RouterForwarding := by
  unfold Obligations.RouterForwarding
  refine ⟨⟨fun s r out => exec_routerForward_idle, fun s r out q hu hg => ?_, fun s q r n d move => hop_clean q move⟩,
    fun s id q hq => ⟨exec_pendingNotice_notHeld hq, fun hh => ⟨exec_pendingNotice_held hq hh, ?_, ?_⟩⟩⟩
  · intro u req k
    have hreq : req = !isReply q := by
      simp only [req, isReply]
      cases q.phase <;> rfl
    have hrequest (h : req = true) : isReply q = false := by simpa [hreq] using h
    have hreply (h : req = false) : isReply q = true := by simpa [hreq] using h
    have does {t : State} (h : forward r out q u = t) : exec (.routerForward r out) s = .next (refill r t) := by
      rw [exec_routerForward hu hg, ← h]; rfl
    have hdead : u.net.deadRouters = s.net.deadRouters := rfl
    have hcur : u.net.cur = s.net.cur := rfl
    have hepoch : u.net.routeEpoch = s.net.routeEpoch := rfl
    have hstale : stale u q = stale s q := rfl
    clear_value u
    rw [← hdead, ← hcur, ← hepoch, ← hstale]
    refine ⟨fun hd => does (forward_dead hd), fun hd hst => ⟨fun hq => does (forward_staleRequest hd hst (hrequest hq)),
      fun hq => does (forward_staleReply hd hst (hreply hq))⟩, fun hd hst => ?_⟩
    refine ⟨fun hgo hq => does (forward_deliverRequest hd hst hgo (hrequest hq)),
      fun st d hgo hp => does (forward_deliverReply hd hst hgo hp),
      fun hgo hq => does (forward_unreachableRequest hd hst hgo (hrequest hq)),
      fun hgo hq => does (forward_unreachableReply hd hst hgo (hreply hq)),
      fun d move n hgo hn => ⟨fun hdead => does (forward_deadNeighbour hd hst hgo hn hdead),
        fun hlive => does (forward_liveNeighbour hd hst hgo hn hlive)⟩⟩
  · exact Nat.le_max_left _ _
  · exact Nat.le_max_right _ _

end Sys2Proof.Machine
end

section
/-! PROOFS. A change of route epoch, from the loss of a unit to the end of the drain (spec/08_mesh.md R221, R230-R237,
19_faults.md R482, R483). -/

namespace Sys2Proof.Machine
open Sys2Proof

theorem OnlyEvents.net {s t : State} (h : OnlyEvents s t) : t.net = s.net := by rw [h]

/-! ### A change that starts (R221, R233, R235) -/

/-- The two states differ at most in the clusters' states of R231 and in what events write. -/
def OnlyClusterStates (s t : State) : Prop :=
  t = { s with host := t.host, boot := { s.boot with log := t.boot.log }, out := t.out, mem := { s.mem with host := t.mem.host },
               net := { s.net with dry := { s.net.dry with clusters := t.net.dry.clusters } } }

theorem OnlyClusterStates.trans {s t u : State} (h : OnlyClusterStates s t) (g : OnlyClusterStates t u) : OnlyClusterStates s u := by
  unfold OnlyClusterStates at *
  rw [g, h]

theorem OnlyEvents.onlyClusterStates {s t : State} (h : OnlyEvents s t) : OnlyClusterStates s t := by
  unfold OnlyClusterStates
  rw [h]

theorem clDry_onlyClusterStates (c : Cl) (st : Fin 4) (s : State) : OnlyClusterStates s (clDry c st s) := rfl

theorem fencedEvent_only (unit : BitVec 32) (ps : List (Fin 64)) (cause epoch : Nat) (s : State) :
    OnlyEvents s (fencedEvent unit ps cause epoch s) := postTo_only _ _ _ _ _ _ s

/-- One router of the coming bank: it reads ROUTER_DEAD, unless it does already or is DARK (R221). -/
def markRouter (s : State) (k : Nat) : State :=
  match clOfKey k with
  | none => s
  | some c => if 2 ≤ (clState s c).val then s
    else fencedEvent (clUnit c) (owner s c).toList 3 (s.net.routeEpoch + 1) (clDry c 2 s)

theorem markCut_eq (b : Bank) (s : State) : markCut b s = b.dead.foldl markRouter s := rfl

theorem markRouter_onlyClusterStates (s : State) (k : Nat) : OnlyClusterStates s (markRouter s k) := by
  unfold markRouter
  split
  · rfl
  · next c _ =>
    split
    · rfl
    · exact (clDry_onlyClusterStates c 2 s).trans (fencedEvent_only _ _ _ _ _).onlyClusterStates

theorem markCut_onlyClusterStates (b : Bank) (s : State) : OnlyClusterStates s (markCut b s) := by
  rw [markCut_eq]
  induction b.dead generalizing s with
  | nil => rfl
  | cons k l ih => exact (markRouter_onlyClusterStates s k).trans (ih _)

theorem clState_clDry (c d : Cl) (st : Fin 4) (s : State) : clState (clDry c st s) d = if d = c then st else clState s d := by
  simp only [clState, clDry, setDry, SMap.get_set, ck_eq]

theorem clState_congr {s t : State} (h : t.net = s.net) (c : Cl) : clState t c = clState s c := by
  simp only [clState, h]

theorem markRouter_keepsDead {s : State} {c : Cl} (k : Nat) (h : 2 ≤ (clState s c).val) : 2 ≤ (clState (markRouter s k) c).val := by
  unfold markRouter
  split
  · exact h
  · next d _ =>
    split
    · exact h
    · rw [clState_congr (fencedEvent_only _ _ _ _ _).net, clState_clDry]
      split
      · decide
      · exact h

/-- A router that is dead or DARK stays so while the coming bank is marked. -/
theorem markCut_keepsDead {s : State} {c : Cl} (b : Bank) (h : 2 ≤ (clState s c).val) : 2 ≤ (clState (markCut b s) c).val := by
  rw [markCut_eq]
  induction b.dead generalizing s with
  | nil => exact h
  | cons k l ih => exact ih (markRouter_keepsDead k h)

theorem startEpoch_during {s : State} (h : s.net.stage ≠ .none) : startEpoch s = { s with net := { s.net with again := true } } :=
  if_neg h

theorem startEpoch_idle {s : State} (h : s.net.stage = .none) :
    let u := markCut (buildBank s) s
    startEpoch s = { u with net := { u.net with stage := .computing, standby := some (buildBank s), coming := u.net.dry } } :=
  if_pos h

/-- A change starts from a state that differs in cluster states alone; in the mesh it moves on the coming tables and map,
the stage and the fault kept for later. -/
theorem startEpoch_frame (s : State) : ∃ u n, OnlyClusterStates s u ∧ startEpoch s = { u with net := n } ∧
    n = { u.net with stage := n.stage, standby := n.standby, coming := n.coming, again := n.again } := by
  by_cases h : s.net.stage = .none
  · exact ⟨_, _, markCut_onlyClusterStates (buildBank s) s, startEpoch_idle h, rfl⟩
  · exact ⟨s, _, rfl, startEpoch_during h, rfl⟩

/-- What the start of a change leaves as it was: the tables and epoch in use, the pause, failed routers and lanes. -/
theorem startEpoch_keeps (s : State) :
    (startEpoch s).net.routeEpoch = s.net.routeEpoch ∧ (startEpoch s).net.cur = s.net.cur ∧ (startEpoch s).net.paused = s.net.paused ∧
      (startEpoch s).net.deadRouters = s.net.deadRouters := by
  obtain ⟨u, n, hu, he, hn⟩ := startEpoch_frame s
  rw [he, hn, hu]
  exact ⟨rfl, rfl, rfl, rfl⟩

/-- A change that starts computes the standby tables; the fault kept for later stays. -/
theorem startEpoch_starts {s : State} (h : s.net.stage = .none) : (startEpoch s).net.stage = .computing ∧
    (startEpoch s).net.standby = some (buildBank s) ∧ (startEpoch s).net.again = s.net.again := by
  rw [startEpoch_idle h]
  refine ⟨rfl, rfl, ?_⟩
  dsimp only
  rw [markCut_onlyClusterStates (buildBank s) s]

theorem startEpoch_keepsDead {s : State} {c : Cl} (h : 2 ≤ (clState s c).val) : 2 ≤ (clState (startEpoch s) c).val := by
  by_cases hs : s.net.stage = .none
  · rw [startEpoch_idle hs]
    exact markCut_keepsDead (buildBank s) h
  · rw [startEpoch_during hs]
    exact h

/-! ### Tables loaded, and the launch (R233 steps 4 and 5) -/

theorem exec_routeTablesLoaded (s : State) : exec .routeTablesLoaded s =
    .next (if s.net.stage = .computing then { s with net := { s.net with stage := .loaded (s.t.now + usec 10) } } else s) := rfl

theorem exec_routeEpochLaunch {s : State} {l : Nat} (h : s.net.stage = .loaded l) :
    let u := waitUntil s l
    exec .routeEpochLaunch s = .next { u with net := { u.net with stage := .draining u.t.now, paused := true } } := by
  change execRouteEpochLaunch s = _
  simp only [execRouteEpochLaunch, h]

theorem exec_routeEpochLaunch_idle {s : State} (h : ∀ l, s.net.stage ≠ .loaded l) : exec .routeEpochLaunch s = .next s := by
  change execRouteEpochLaunch s = _
  unfold execRouteEpochLaunch
  split
  · next l hl => exact absurd hl (h l)
  · rfl

/-! ### What the end of a drain leaves alone (R233 step 7) -/

/-- What a change moves on: the epoch, its tables and the coming ones, the stage, the pause and a fault kept for later. -/
def changeState (s : State) : Nat × Bank × Option Bank × EpochStage × Bool × Bool :=
  (s.net.routeEpoch, s.net.cur, s.net.standby, s.net.stage, s.net.paused, s.net.again)

theorem changeState_congr {s t : State} (h : t.net = s.net) : changeState t = changeState s := by
  simp only [changeState, h]

theorem bypassTo_net (k : Fin 4) (close : Bool) (s : State) : (bypassTo k close s).net = s.net := by
  unfold bypassTo
  split <;> rfl

theorem portEvent_net (e : EvCode) (p : Fin 16) (reason lanes : Nat) (s : State) : (portEvent e p reason lanes s).net = s.net :=
  (postTo_only _ _ _ _ _ _ s).net

theorem closePair_net (p : Fin 16) (reason : Nat) (s : State) : (closePair p reason s).net = s.net := by
  unfold closePair
  split
  · rfl
  · next k _ =>
    dsimp only
    split
    · exact bypassTo_net k true s
    · split
      · exact (portEvent_net _ _ _ _ _).trans (bypassTo_net k true s)
      · exact bypassTo_net k true s

theorem portDark_net (p : Fin 16) (reason : Nat) (s : State) : (portDark p reason s).net = s.net := by
  unfold portDark
  refine (closePair_net p reason _).trans ?_
  split
  · exact portEvent_net _ _ _ _ _
  · rfl

theorem sendReleases_net (p : Fin 64) (b : Fin 32) (ms : List Cl) (gen : BitVec 16) (st : Byte) (l : Word) (s : State) :
    (sendReleases p b ms gen st l s).net = s.net := by
  refine foldl_keeps State.net ?_ ms s
  exact fun _ _ => rfl

theorem forceRelease_net (p : Fin 64) (b : Fin 32) (st : Byte) (s : State) : (forceRelease p b st s).net = s.net := by
  unfold forceRelease
  split
  · rfl
  · exact sendReleases_net _ _ _ _ _ _ _

theorem foldl_setBar_net (b : Nat) (r : BarRec) (gone : List Cl) (s : State) :
    (gone.foldl (fun s c => setBar c b r s) s).net = s.net := by
  refine foldl_keeps State.net ?_ gone s
  exact fun _ _ => rfl

theorem setRoot_net (p : Fin 64) (b : Nat) (r : Option BarRoot) (s : State) : (setRoot p b r s).net = s.net := rfl

theorem dropMember_net (p : Fin 64) (b : Fin 32) (gone : List Cl) (st : Byte) (s : State) : (dropMember p b gone st s).net = s.net := by
  unfold dropMember
  split
  · rfl
  · split
    · rfl
    · dsimp only
      split
      · simp only [forceRelease_net, setRoot_net, foldl_setBar_net]
      · simp only [setRoot_net, foldl_setBar_net]

theorem repairBarrier_net (p : Fin 64) (b : Fin 32) (s : State) : (repairBarrier p b s).net = s.net := by
  unfold repairBarrier
  split
  · rfl
  · dsimp only
    split
    · exact forceRelease_net p b 0x09 _
    · rfl

theorem sendPkt_net (port : Fin 16) (pkt : OcsalPkt) (s : State) : (sendPkt port pkt s).net = s.net :=
  (wrapEvent_only _ _ _ _ _ _ _).net

theorem replyOut_net (x : Xact) (mod : BitVec 8) (p : Fin 64) (port : Fin 16) (tag : Nat) (st : Byte) (data : List Byte)
    (s : State) : (replyOut x mod p port tag st data s).net = s.net := by
  unfold replyOut
  dsimp only
  split
  · rfl
  · exact sendPkt_net _ _ s

theorem changeState_clDark (c : Cl) (s : State) : changeState (clDark c s) = changeState s := by
  unfold clDark
  dsimp only
  split <;> rfl

theorem changeState_pwr (p : Power) (s : State) : changeState { s with pwr := p } = changeState s := rfl
theorem changeState_time_boot (t : Clocks) (b : Boot) (s : State) : changeState { s with t := t, boot := b } = changeState s := rfl

/-- A router that forwards nothing more (R237). -/
def deadRouter (c : Cl) (s : State) : State :=
  { s with net := { s.net with deadRouters := s.net.deadRouters.set false (ck c) true } }

theorem deadRouter_get (c : Cl) (s : State) : (deadRouter c s).net.deadRouters.get false (ck c) = true := by
  simp only [deadRouter, SMap.get_set_self]

theorem changeState_deadRouter (c : Cl) (s : State) : changeState (deadRouter c s) = changeState s := rfl

theorem bootDark_eq (cause : Nat) (s : State) (f : Fin 192) : bootDark cause s f =
    (fieldClusters f).foldl (fun s c => deadRouter c (clDark c s)) (setField f { fieldRec s f with state := .dark, cause := BitVec.ofNat 4 cause, latchN := cause == 4 } s) := rfl

theorem changeState_bootDark (cause : Nat) (s : State) (f : Fin 192) : changeState (bootDark cause s f) = changeState s := by
  rw [bootDark_eq, foldl_keeps changeState fun s c => (changeState_deadRouter c _).trans (changeState_clDark c s)]
  rfl

theorem changeState_bootWaferLost (s : State) (w : Fin 4) : changeState (bootWaferLost s w) = changeState s := by
  have hdark := foldl_keeps changeState (changeState_bootDark 0) (waferFields w) s
  unfold bootWaferLost
  exact (changeState_pwr _ _).trans hdark

theorem loseFieldMem_net (s : State) (f : Fin 192) : (loseFieldMem f s).net = s.net := by
  refine foldl_keeps State.net ?_ (fieldClusters f) s
  exact fun _ _ => rfl

theorem changeState_dropDoomed (b : Bank) (s : State) : changeState (dropDoomed b s) = changeState s := by
  unfold dropDoomed
  refine foldl_keeps changeState (fun s w => ?_) _ s
  have hmem : ((waferFields w).foldl (fun s f => loseFieldMem f s) s).net = s.net := foldl_keeps State.net loseFieldMem_net _ s
  have hlost := changeState_bootWaferLost ((waferFields w).foldl (fun s f => loseFieldMem f s) s) w
  exact (changeState_time_boot _ _ _).trans (hlost.trans (changeState_congr hmem))

theorem changeState_fencedEvent (unit : BitVec 32) (ps : List (Fin 64)) (cause epoch : Nat) (s : State) :
    changeState (fencedEvent unit ps cause epoch s) = changeState s := changeState_congr (fencedEvent_only _ _ _ _ s).net

theorem changeState_frontDry (b : Bank) (s : State) : changeState (frontDry b s) = changeState s := by
  unfold frontDry
  refine (foldl_keeps changeState (fun s p => ?_) _ _).trans ((foldl_keeps changeState (fun s p => ?_) _ _).trans
    (foldl_keeps changeState (fun s n => ?_) _ s))
  · split <;> rfl
  · split
    · exact (changeState_fencedEvent _ _ _ _ _).trans ((changeState_congr (portDark_net p 0 _)).trans rfl)
    · rfl
  · split
    · exact changeState_fencedEvent _ _ _ _ _
    · rfl

theorem changeState_pendingHome (x : Xact) (id : Nat) (s : State) : changeState (pendingHome x id s) = changeState s := by
  unfold pendingHome
  split
  · rfl
  · dsimp only
    split
    · exact (changeState_congr (sendPkt_net _ _ _)).trans rfl
    · rfl

theorem changeState_countLate (c : Cl) (s : State) : changeState (countLate c s) = changeState s :=
  (changeState_congr (wrapEvent_only _ _ _ _ _ _ _).net).trans rfl

theorem changeState_atHome (x : Xact) (st : Byte) (data : List Byte) (s : State) : changeState (atHome x st data s) = changeState s := by
  unfold atHome
  split
  · exact (changeState_countLate _ _).trans rfl
  · split
    · exact (changeState_pendingHome x _ _).trans rfl
    · split
      · exact (changeState_congr (replyOut_net _ _ _ _ _ _ _ _)).trans rfl
      · rfl

theorem changeState_inject (x : Xact) (s : State) : changeState (inject x s) = changeState s := by
  unfold inject
  dsimp only
  split
  · exact changeState_atHome _ _ _ s
  · split <;> rfl

/-- The barriers' part of a drain's end: routers that are gone leave, and a barrier whose tree was hit is repaired (R269). -/
theorem changeState_barriers (gone : List Cl) (hit : List Nat) (bars : List (Fin 64 × Fin 32)) (s : State) :
    changeState (bars.foldl (fun s k =>
      let s := dropMember k.1 k.2 gone 0x09 s
      if hit.contains (k.1.val * 32 + k.2.val) then repairBarrier k.1 k.2 s else s) s) = changeState s := by
  refine foldl_keeps changeState (fun s k => ?_) bars s
  dsimp only
  split
  · exact changeState_congr ((repairBarrier_net _ _ _).trans (dropMember_net _ _ _ _ _))
  · exact changeState_congr (dropMember_net _ _ _ _ _)

/-! ### The end of the drain (R233 step 7, R235) -/

/-- The next change, if a fault was met meanwhile, starts at once. -/
def nextChange (s : State) : State := if s.net.again then startEpoch { s with net := { s.net with again := false } } else s

/-- After the standby tables came into use: idle, or the next change computing. -/
theorem nextChange_cases {s : State} {e : Nat} {b : Bank} {again : Bool} (h : changeState s = (e, b, none, .none, false, again)) :
    (nextChange s).net.routeEpoch = e ∧ (nextChange s).net.cur = b ∧ (nextChange s).net.paused = false ∧
      (nextChange s).net.again = false ∧ (again = false → (nextChange s).net.stage = .none ∧ (nextChange s).net.standby = none) ∧
      (again = true → (nextChange s).net.stage = .computing) := by
  simp only [changeState, Prod.mk.injEq] at h
  obtain ⟨rfl, rfl, hstandby, hstage, hpaused, rfl⟩ := h
  unfold nextChange
  split
  · next ha =>
    obtain ⟨hepoch, hcur, hpause, -⟩ := startEpoch_keeps { s with net := { s.net with again := false } }
    obtain ⟨hcomputing, -, hagain⟩ := startEpoch_starts (s := { s with net := { s.net with again := false } }) hstage
    exact ⟨hepoch, hcur, hpause.trans hpaused, hagain, fun hn => absurd ha (ne_true_of_eq_false hn), fun _ => hcomputing⟩
  · next ha => exact ⟨rfl, rfl, hpaused, Bool.eq_false_iff.2 ha, fun _ => ⟨hstage, hstandby⟩, fun hn => absurd hn ha⟩

/-- The state just before the next change may start has the new epoch, and no change under way. -/
theorem exec_routeEpochDrainEnd {s : State} {since : Nat} {b : Bank} (h : s.net.stage = .draining since) (hb : s.net.standby = some b) :
    ∃ u, exec .routeEpochDrainEnd s = .next (nextChange u) ∧
      changeState u = (s.net.routeEpoch + 1, b, none, .none, false, s.net.again) := by
  have hwait : (if s.net.xacts.any (fun x => x.phase == .going) then waitUntil s (since + usec 100) else s).net = s.net := by
    split <;> rfl
  change ∃ u, execRouteEpochDrainEnd s = .next (nextChange u) ∧ _
  unfold execRouteEpochDrainEnd
  simp only [h, hb]
  refine ⟨_, rfl, ?_⟩
  refine (foldl_keeps changeState (fun s x => changeState_inject x s) _ _).trans ?_
  refine Eq.trans (changeState_barriers _ _ _ _) ?_
  refine Eq.trans (changeState_frontDry b _) ?_
  refine Eq.trans (changeState_dropDoomed b _) ?_
  simp only [changeState, hwait]

theorem exec_routeEpochDrainEnd_idle {s : State} (h : (∀ l, s.net.stage ≠ .draining l) ∨ s.net.standby = none) :
    exec .routeEpochDrainEnd s = .next s := by
  change execRouteEpochDrainEnd s = _
  unfold execRouteEpochDrainEnd
  split
  · next since b hstage hb => simp [hstage, hb] at h
  · rfl

/-! ### Units that fail (R230, R237, R482, R483) -/

theorem fenceRouter_gone {s : State} {c : Cl} (h : 2 ≤ (clState s c).val) (cause : Nat) : fenceRouter c cause s = s := if_pos h

theorem fenceRouter_live {s : State} {c : Cl} (h : (clState s c).val < 2) (cause : Nat) :
    let u := deadRouter c (setSleep c .off (zeroCluster c (clusterReset c s)))
    fenceRouter c cause s = fencedEvent (clUnit c) (owner u c).toList cause (applyEpoch s) (startEpoch (clDry c 2 u)) := by
  simp only [fenceRouter, if_neg (Nat.not_le.2 h), deadRouter]

theorem fenceRouter_marks {s : State} {c : Cl} (h : (clState s c).val < 2) (cause : Nat) :
    (fenceRouter c cause s).net.deadRouters.get false (ck c) = true ∧ 2 ≤ (clState (fenceRouter c cause s) c).val := by
  have hdead := deadRouter_get c (setSleep c .off (zeroCluster c (clusterReset c s)))
  rw [fenceRouter_live h]
  generalize deadRouter c (setSleep c .off (zeroCluster c (clusterReset c s))) = u at hdead ⊢
  obtain ⟨-, -, -, hkept⟩ := startEpoch_keeps (clDry c 2 u)
  have hnet := (fencedEvent_only (clUnit c) (owner u c).toList cause (applyEpoch s) (startEpoch (clDry c 2 u))).net
  refine ⟨?_, ?_⟩
  · rw [hnet, hkept]
    exact hdead
  · rw [clState_congr hnet]
    refine startEpoch_keepsDead ?_
    rw [clState_clDry, if_pos rfl]
    decide

/-- The port of a router's crossing in one direction of travel: axis 0 east or west, axis 1 south or north (R14, R230). -/
def busPort (c : Cl) (x : Fin 2) : Fin 4 := if x = 0 then (if c.w.val % 2 = 0 then 1 else 3) else (if c.w.val < 2 then 2 else 0)

theorem exec_controlCrossingBusFail_none {s : State} {c : Cl} {x : Fin 2} (h : crossingOf c (busPort c x) = none) :
    exec (.controlCrossingBusFail c x) s = .next s := by
  unfold busPort at h
  change execControlCrossingBusFail c x s = _
  simp only [execControlCrossingBusFail, h]

theorem exec_controlCrossingBusFail {s : State} {c : Cl} {x : Fin 2} {k : Nat} (h : crossingOf c (busPort c x) = some k) :
    exec (.controlCrossingBusFail c x) s = .next (if s.net.busLost.get false k then s
      else startEpoch { s with net := { s.net with busLost := s.net.busLost.set false k true } }) := by
  unfold busPort at h
  change execControlCrossingBusFail c x s = _
  simp only [execControlCrossingBusFail, h]

theorem exec_clusterUnitFailure_wellhead {s : State} {c : Cl} (h : isWellhead s c = true) (u : FailUnit) :
    exec (.clusterUnitFailure c u) s = .next s := congrArg Host.Outcome.next (if_pos h)

section
variable {s : State} {c : Cl} (h : isWellhead s c = false)
include h

theorem exec_clusterUnitFailure_tile (t : Fin 32) : exec (.clusterUnitFailure c (.tileParity t)) s =
    .next (if tileKind t = 0 then s else fenceTile ⟨c, t⟩ 1 s) := congrArg Host.Outcome.next (if_neg (ne_true_of_eq_false h))

theorem exec_clusterUnitFailure_core (k : Fin 24) : exec (.clusterUnitFailure c (.coreRegs k)) s = .next (fenceCore c k 1 s) :=
  congrArg Host.Outcome.next (if_neg (ne_true_of_eq_false h))

theorem exec_clusterUnitFailure_cluster {u : FailUnit} (hu : u = .pump ∨ u = .objectUnit ∨ u = .combiner ∨ u = .configPath) :
    exec (.clusterUnitFailure c u) s = .next (fenceCluster c 1 s) := by
  rcases hu with rfl | rfl | rfl | rfl <;> exact congrArg Host.Outcome.next (if_neg (ne_true_of_eq_false h))

end

/-- Settles O26: the stages of a change in turn, then the units whose loss starts one. -/
theorem routeEpochChange : Obligations.RouteEpochChange := by
  unfold Obligations.RouteEpochChange
  refine ⟨fun s => startEpoch_during, fun s hs => ?_, fun s => ?_,
    fun s => ⟨fun l hl => ⟨exec_routeEpochLaunch hl, Nat.le_max_right _ _⟩, exec_routeEpochLaunch_idle⟩,
    fun s since b hs hb => ?_, fun s => exec_routeEpochDrainEnd_idle, fun s c => ⟨rfl, fun hg => ?_, fun hl => ?_⟩,
    fun s c x => ⟨exec_controlCrossingBusFail_none, fun k hk => ?_⟩, fun s c => exec_clusterUnitFailure_wellhead, fun s c hw => ?_⟩
  · obtain ⟨hepoch, hcur, hpaused, -⟩ := startEpoch_keeps s
    obtain ⟨hstage, hstandby, -⟩ := startEpoch_starts hs
    exact ⟨hstage, hstandby, hpaused, hepoch, hcur⟩
  · rw [exec_routeTablesLoaded]
    exact ⟨fun hc => by rw [if_pos hc], fun hc => by rw [if_neg hc]⟩
  · obtain ⟨u, he, hu⟩ := exec_routeEpochDrainEnd hs hb
    exact ⟨_, he, nextChange_cases hu⟩
  · exact congrArg Host.Outcome.next (fenceRouter_gone hg 5)
  · exact ⟨_, rfl, fenceRouter_marks hl 5⟩
  · rw [exec_controlCrossingBusFail hk]
    exact ⟨fun hb => by rw [if_pos hb], fun hb => by rw [if_neg (ne_true_of_eq_false hb)]⟩
  · refine ⟨fun t ht => ?_, fun t ht => ?_, exec_clusterUnitFailure_core hw, fun u => exec_clusterUnitFailure_cluster hw⟩
    · rw [exec_clusterUnitFailure_tile hw, if_neg ht]
    · rw [exec_clusterUnitFailure_tile hw, if_pos ht]

end Sys2Proof.Machine
end

section
/-! PROOFS. Aqueduct lanes and their spares, and fountain sends (spec/08_mesh.md R226-R230, R236, 19_faults.md R482). -/

namespace Sys2Proof.Machine
open Sys2Proof

/-! ### Lanes (R229, R482) -/

/-- What a failed lane's loss leaves as it was, where its change of route epoch starts or is kept for later. -/
theorem startEpoch_lanes (s : State) :
    (startEpoch s).net.dry.lanes = s.net.dry.lanes ∧ (startEpoch s).net.spares = s.net.spares ∧
      (startEpoch s).net.spareAt = s.net.spareAt ∧ (startEpoch s).mem.sram = s.mem.sram ∧ (startEpoch s).core = s.core := by
  obtain ⟨u, n, hu, he, hn⟩ := startEpoch_frame s
  rw [he, hn, hu]
  exact ⟨rfl, rfl, rfl, rfl, rfl⟩

theorem OnlyEvents.sram {s t : State} (h : OnlyEvents s t) : t.mem.sram = s.mem.sram := by rw [h]

/-- A lane that still serves is fenced: it is dry, and spares and their training stay. -/
theorem fenceLane_serving {s : State} {w : Fin 4} {x : Fin 2} {lane : Nat}
    (h : s.net.dry.lanes.get false ((w.val * 2 + x.val) * 256 + lane) = false) (cause : Nat) :
    let t := fenceLane w x lane cause s
    t.net.dry.lanes = s.net.dry.lanes.set false ((w.val * 2 + x.val) * 256 + lane) true ∧ t.net.spares = s.net.spares ∧
      t.net.spareAt = s.net.spareAt ∧ t.mem.sram = s.mem.sram ∧ t.core = s.core := by
  have hev (u : State) := fencedEvent_only (laneUnit w x lane) [] cause (applyEpoch s) u
  simp only [fenceLane, h, Bool.false_eq_true, if_false, (hev _).net, (hev _).sram, (hev _).core]
  exact startEpoch_lanes _

/-- The lane's group, whose spare is lane 192 + group. -/
def laneGroup (lane : Nat) : Nat := if lane < 192 then lane / 16 else lane - 192

/-- The group's spare takes the lane that fails: it stands in for none, and it serves. -/
def spareTakes (s : State) (wx lane : Nat) : Bool :=
  decide (lane < 192) && (s.net.spares.get none (wx * 16 + laneGroup lane)).isNone &&
    !s.net.dry.lanes.get false (wx * 256 + 192 + laneGroup lane)

/-- The state with the group's spare reassigned, before the lane is fenced. -/
def spareAssigned (wx lane : Nat) (s : State) : State :=
  let key := wx * 16 + laneGroup lane
  let take : Option (Nat × Bool) :=
    if 192 ≤ lane then none else if spareTakes s wx lane then some (lane, false) else s.net.spares.get none key
  { s with net := { s.net with
      spares := s.net.spares.set none key take
      spareAt := s.net.spareAt.set 0 key (if spareTakes s wx lane then s.t.now + usec 20 else s.net.spareAt.get 0 key) } }

theorem spareTakes_iff {s : State} {wx lane : Nat} : spareTakes s wx lane = true ↔
    lane < 192 ∧ s.net.spares.get none (wx * 16 + laneGroup lane) = none ∧
      s.net.dry.lanes.get false (wx * 256 + 192 + laneGroup lane) = false := by
  simp only [spareTakes, Bool.and_eq_true, decide_eq_true_eq, Option.isNone_iff_eq_none, Bool.not_eq_true', and_assoc]

theorem spareAssigned_spares (wx lane : Nat) (s : State) : (spareAssigned wx lane s).net.spares.get none (wx * 16 + laneGroup lane) =
    if 192 ≤ lane then none else if spareTakes s wx lane then some (lane, false) else s.net.spares.get none (wx * 16 + laneGroup lane) :=
  SMap.get_set_self _ _ _ _

theorem spareAssigned_spareAt (wx lane : Nat) (s : State) : (spareAssigned wx lane s).net.spareAt.get 0 (wx * 16 + laneGroup lane) =
    if spareTakes s wx lane then s.t.now + usec 20 else s.net.spareAt.get 0 (wx * 16 + laneGroup lane) :=
  SMap.get_set_self _ _ _ _

theorem laneFail_out {s : State} {w : Fin 4} {x : Fin 2} {lane : Nat}
    (h : s.net.dry.lanes.get false ((w.val * 2 + x.val) * 256 + lane) = true) (reason cause : Nat) :
    laneFail w x lane reason cause s = s := if_pos h

/-- A lane that fails: its spare is assigned, it is fenced, and an event is posted. -/
theorem laneFail_serving {s : State} {w : Fin 4} {x : Fin 2} {lane : Nat}
    (h : s.net.dry.lanes.get false ((w.val * 2 + x.val) * 256 + lane) = false) (reason cause : Nat) :
    OnlyEvents (fenceLane w x lane cause (spareAssigned (w.val * 2 + x.val) lane s)) (laneFail w x lane reason cause s) := by
  simp only [laneFail, h, Bool.false_eq_true, if_false]
  exact postTo_only _ _ _ _ _ _ _

/-- What a lane's failure does to the lane, and to its group's spare and the time at which its training ends. -/
theorem laneFail_effect {s : State} {w : Fin 4} {x : Fin 2} {lane : Nat}
    (h : s.net.dry.lanes.get false ((w.val * 2 + x.val) * 256 + lane) = false) (reason cause : Nat) :
    let wx := w.val * 2 + x.val
    let key := wx * 16 + laneGroup lane
    let t := laneFail w x lane reason cause s
    t.net.dry.lanes.get false (wx * 256 + lane) = true ∧
      t.net.spares.get none key =
        (if 192 ≤ lane then none else if spareTakes s wx lane then some (lane, false) else s.net.spares.get none key) ∧
      t.net.spareAt.get 0 key = (if spareTakes s wx lane then s.t.now + usec 20 else s.net.spareAt.get 0 key) ∧
      t.mem.sram = s.mem.sram ∧ t.core = s.core := by
  have hev := laneFail_serving h reason cause
  obtain ⟨hlanes, hspares, hat, hsram, hcore⟩ := fenceLane_serving (s := spareAssigned (w.val * 2 + x.val) lane s) h cause
  refine ⟨?_, ?_, ?_, hev.sram.trans hsram, hev.core.trans hcore⟩
  · rw [hev.net, hlanes, SMap.get_set_self]
  · rw [hev.net, hspares, spareAssigned_spares]
  · rw [hev.net, hat, spareAssigned_spareAt]

theorem exec_aqueductSpareReady {s : State} {w : Fin 4} {x : Fin 2} {g : Fin 12} {l : Nat}
    (h : s.net.spares.get none ((w.val * 2 + x.val) * 16 + g.val) = some (l, false)) :
    let wx := w.val * 2 + x.val
    let k := wx * 16 + g.val
    let u := waitUntil s (s.net.spareAt.get 0 k)
    let v : State := { u with net := { u.net with spares := u.net.spares.set none k (some (l, true)), spareAt := u.net.spareAt.set 0 k 0 } }
    exec (.aqueductSpareReady w x g) s = .next (postTo .linkUp (laneUnit w x (192 + g.val)) [] false (moduleTide v)
      (([0, 0] : List Byte) ++ leBytes 2 (lanesActive v wx (l / 2))) v) := by
  change execAqueductSpareReady w x g s = _
  simp only [execAqueductSpareReady, h]

theorem exec_aqueductSpareReady_idle {s : State} {w : Fin 4} {x : Fin 2} {g : Fin 12}
    (h : ∀ l, s.net.spares.get none ((w.val * 2 + x.val) * 16 + g.val) ≠ some (l, false)) :
    exec (.aqueductSpareReady w x g) s = .next s := by
  change execAqueductSpareReady w x g s = _
  unfold execAqueductSpareReady
  dsimp only
  split
  · next l hl => exact absurd hl (h l)
  · rfl

/-! ### A fountain send (R226, R227) -/

section
variable {s : State} {who : Requester} {c : Cl} {k : Fin 24} {v : Word}

theorem exec_fountainSend_held (h : fountainHeld who (.fountain k 8) none s = true) : exec (.fountainSend who c k v) s = .next s :=
  congrArg Host.Outcome.next (if_pos h)

theorem exec_fountainSend (h : fountainHeld who (.fountain k 8) none s = false) :
    exec (.fountainSend who c k v) s = .next (fountainCmd who c k v s) := congrArg Host.Outcome.next (if_neg (ne_true_of_eq_false h))

theorem fountainCmd_denied (h : regPerm s who c ≠ 0x00) : fountainCmd who c k v s = reply (regPerm s who c) s := if_pos h

/-- A write that is taken but starts no send: the status it leaves, and its notification. -/
def fountainRefused (c : Cl) (k : Fin 24) (st : Byte) (note : Option NoteRef) (s : State) : State :=
  reply 0x00 (notifyOpt c note (setFreg c k.val { fregOf s c k.val with status := st } s))

/-- The notification that a send asks for. -/
def fountainNote (v : Word) : Option NoteRef := if bit v.toNat 42 then some ⟨fld v.toNat 32 5, fld v.toNat 37 5⟩ else none

/-- Some reserved bit of the word is set, or the offset is not a register's. -/
abbrev FountainReserved (v : Word) : Prop :=
  fld v.toNat 4 4 ≠ 0 ∨ fld v.toNat 30 2 ≠ 0 ∨ fld v.toNat 43 21 ≠ 0 ∨ fld v.toNat 8 3 ≠ 0

/-- A send that starts: a value for each member on its way, and the registers in flight (R227). -/
def fountainStarted (p : Fin 64) (c : Cl) (k : Fin 24) (v : Word) (g : Fountain) (s : State) : State :=
  let f : Fin 16 := Fin.ofNat 16 v.toNat
  let r := fregOf s c k.val
  let mk (m : Cl) : FVal := { send := s.net.nextSend, part := p, f := f, off := fld v.toNat 8 22, value := r.value, member := m }
  let send : FSend := { id := s.net.nextSend, part := p, f := f, src := c, core := k, note := fountainNote v,
                        left := g.members.length, worst := 0x00, failed := 0 }
  reply 0x00 (setFreg c k.val { r with inFlight := true } { s with net := { s.net with
    fvals := s.net.fvals ++ g.members.map mk, fsends := s.net.fsends ++ [send], nextSend := s.net.nextSend + 1 } })

section
variable (h : regPerm s who c = 0x00)
include h

theorem fountainCmd_badCore (hcore : 24 ≤ fld v.toNat 32 5) : fountainCmd who c k v s = fountainRefused c k 0x03 none s := by
  simp only [fountainCmd, if_neg (not_not_intro h), if_pos hcore]
  rfl

variable (hcore : fld v.toNat 32 5 < 24)
include hcore

theorem fountainCmd_unowned (ho : owner s c = none) : fountainCmd who c k v s = reply 0x04 s := by
  simp only [fountainCmd, if_neg (not_not_intro h), if_neg (Nat.not_le.2 hcore), ho]

variable {p : Fin 64} (ho : owner s c = some p)
include ho

/-- An unknown fountain, or a reserved bit. -/
theorem fountainCmd_bad (hbad : s.net.fountains.get none (p.val * 16 + (Fin.ofNat 16 v.toNat).val) = none ∨ FountainReserved v) :
    fountainCmd who c k v s = fountainRefused c k 0x03 (fountainNote v) s := by
  simp only [fountainCmd, if_neg (not_not_intro h), if_neg (Nat.not_le.2 hcore), ho]
  split
  · rfl
  · next g hg => exact if_pos (hbad.resolve_left (Option.ne_none_iff_exists'.2 ⟨g, hg⟩))

variable {g : Fountain} (hg : s.net.fountains.get none (p.val * 16 + (Fin.ofNat 16 v.toNat).val) = some g) (hgood : ¬ FountainReserved v)
include hg hgood

theorem fountainCmd_known : fountainCmd who c k v s =
    if (fregOf s c k.val).inFlight then fountainRefused c k 0x01 (fountainNote v) s else fountainStarted p c k v g s := by
  simp only [fountainCmd, if_neg (not_not_intro h), if_neg (Nat.not_le.2 hcore), ho, hg, if_neg hgood]
  rfl

end
end

/-! ### Values at the members, and the end of a send (R227, R236) -/

section
variable {s : State} {i : Nat} {v : FVal}

theorem exec_fountainValueApply_none (h : s.net.fvals[i]? = none) : exec (.fountainValueApply i) s = .next s := by
  change execFountainValueApply i s = _
  simp only [execFountainValueApply, h]

/-- An earlier value of the fountain is still on its way to the member, or the member sleeps (R227, R236). -/
def valueWaits (s : State) (i : Nat) (v : FVal) : Bool :=
  ((s.net.fvals.take i).any fun u => u.part == v.part && u.f == v.f && u.member == v.member) ||
    (asleep s v.member && !computeOff s v.member)

/-- The status with which a member answers a value that it does not apply; OK where it does. -/
def valueStatus (s : State) (v : FVal) : Byte :=
  if partResetting s v.part then 0x05 else if owner s v.member ≠ some v.part then 0x04 else if computeOff s v.member then 0x09 else 0x00

variable (h : s.net.fvals[i]? = some v)
include h

theorem exec_fountainValueApply_waits (hw : valueWaits s i v = true) : exec (.fountainValueApply i) s = .next s := by
  unfold valueWaits at hw
  change execFountainValueApply i s = _
  simp only [execFountainValueApply, h, hw, if_true]

theorem exec_fountainValueApply (hw : valueWaits s i v = false) :
    let u : State := { s with net := { s.net with fvals := s.net.fvals.eraseIdx i } }
    let t := writeReg (.config v.member) v.member (clReg v.off) v.value u
    exec (.fountainValueApply i) s = .next (if valueStatus u v = 0x00 then fountainAck v.send t.ioReply t
      else fountainAck v.send (valueStatus u v) u) := by
  intro u t
  unfold valueWaits at hw
  change execFountainValueApply i s = _
  simp only [execFountainValueApply, h, hw, Bool.false_eq_true, if_false]
  change Host.Outcome.next (if partResetting u v.part then fountainAck v.send 0x05 u
    else if owner u v.member ≠ some v.part then fountainAck v.send 0x04 u
    else if computeOff u v.member then fountainAck v.send 0x09 u else fountainAck v.send t.ioReply t) = _
  unfold valueStatus
  split
  · rfl
  · split
    · rfl
    · split <;> rfl

end

section
variable {s : State} {p : Fin 64} {f : Fin 16}

theorem exec_fountainAckComplete_none (h : (s.net.fsends.find? fun h => h.part == p && h.f == f && h.left == 0) = none) :
    exec (.fountainAckComplete p f) s = .next s := by
  change execFountainAckComplete p f s = _
  simp only [execFountainAckComplete, h]

theorem exec_fountainAckComplete {g : FSend} (h : (s.net.fsends.find? fun h => h.part == p && h.f == f && h.left == 0) = some g) :
    let u : State := { s with net := { s.net with fsends := s.net.fsends.filter fun h => h.id != g.id } }
    let r := fregOf u g.src g.core.val
    exec (.fountainAckComplete p f) s = .next (if owner u g.src ≠ some p then u else notifyOpt g.src g.note
      (setFreg g.src g.core.val { r with status := g.worst, inFlight := false, failed := BitVec.ofNat 16 g.failed } u)) := by
  change execFountainAckComplete p f s = _
  simp only [execFountainAckComplete, h]

end

/-- Settles O27: lanes by the state of their spare, a send by its checks in turn, a value by its member. -/
theorem aqueductsAndFountains : Obligations.AqueductsAndFountains := by
  unfold Obligations.AqueductsAndFountains
  refine ⟨⟨fun s w x lane rate => ⟨fun h => congrArg Host.Outcome.next (laneFail_out h _ _), fun h => ?_⟩,
      fun s w x g => ⟨fun l => exec_aqueductSpareReady, exec_aqueductSpareReady_idle⟩⟩,
    fun s who c k v => ⟨exec_fountainSend_held, fun h => ?_⟩, fun s i => exec_fountainValueApply_none,
    fun s i v h => ⟨exec_fountainValueApply_waits h, fun hw hst => ?_, fun hw hst => ?_⟩,
    fun s p f => ⟨exec_fountainAckComplete_none, fun g h => ⟨fun ho => ?_, fun ho => ?_⟩⟩⟩
  · obtain ⟨hlane, hspares, hat, hsram, hcore⟩ := laneFail_effect h (b2n rate) 1
    refine ⟨_, rfl, hlane, fun hlt hnone hserves => ?_, fun hlt hbusy => ?_, fun hspare => ?_, hsram, hcore⟩
    · have htakes : spareTakes s (w.val * 2 + x.val) lane.val = true := spareTakes_iff.2 ⟨hlt, hnone, hserves⟩
      exact ⟨hspares.trans ((if_neg (Nat.not_le.2 hlt)).trans (if_pos htakes)), hat.trans (if_pos htakes)⟩
    · have hno : ¬ spareTakes s (w.val * 2 + x.val) lane.val = true := fun htakes => by
        obtain ⟨-, hnone, hserves⟩ := spareTakes_iff.1 htakes
        exact hbusy.elim (fun hn => hn hnone) fun hd => ne_true_of_eq_false hserves hd
      exact hspares.trans ((if_neg (Nat.not_le.2 hlt)).trans (if_neg hno))
    · exact hspares.trans (if_pos hspare)
  · rw [exec_fountainSend h]
    refine ⟨fun hp => by rw [fountainCmd_denied hp], fun hp hc => ?_, fun hp hc ho => ?_,
      fun p hp hc ho => ⟨fun hbad => ?_, fun hgood hb => ?_, fun g hgood hb hg => ?_⟩⟩
    · rw [fountainCmd_badCore hp hc]; rfl
    · rw [fountainCmd_unowned hp hc ho]
    · rw [fountainCmd_bad hp hc ho hbad]; rfl
    · obtain ⟨hknown, hreserved⟩ := not_or.1 hgood
      obtain ⟨g, hg⟩ := Option.ne_none_iff_exists'.1 hknown
      rw [fountainCmd_known hp hc ho hg hreserved, if_pos hb]; rfl
    · rw [fountainCmd_known hp hc ho hg (not_or.1 hgood).2, if_neg (ne_true_of_eq_false hb)]; rfl
  · rw [exec_fountainValueApply h hw]
    exact congrArg Host.Outcome.next (if_neg hst)
  · rw [exec_fountainValueApply h hw]
    exact congrArg Host.Outcome.next (if_pos hst)
  · rw [exec_fountainAckComplete h]
    exact congrArg Host.Outcome.next (if_pos ho)
  · rw [exec_fountainAckComplete h]
    exact congrArg Host.Outcome.next (if_neg (not_not_intro ho))

end Sys2Proof.Machine
end

section
/-! PROOFS. The comparison of WAIT (spec/10_sync_and_channels.md R262). -/

namespace Sys2Proof.Machine
open Sys2Proof

/-- A 32-bit number is not negative exactly in the lower half of its range. -/
theorem toInt_nonneg_iff_toNat_lt (d : BitVec 32) : 0 ≤ d.toInt ↔ d.toNat < 2 ^ 31 := by
  rw [BitVec.toInt_eq_toNat_cond]
  have hd := d.isLt
  split <;> omega

theorem objCond_ge (v t : BitVec 32) : objCond 2 v t = true ↔ (v - t).toNat < 2 ^ 31 :=
  decide_eq_true_iff.trans (toInt_nonneg_iff_toNat_lt (v - t))

theorem objCond_lt (v t : BitVec 32) : objCond 3 v t = !objCond 2 v t := by
  simp only [objCond, ← Int.not_le, decide_not]

/-- Settles O16: GE by the range of the difference, LT as its negation. -/
theorem waitComparisonWrapSafe : Obligations.WaitComparisonWrapSafe := by
  unfold Obligations.WaitComparisonWrapSafe
  refine ⟨objCond_ge, objCond_lt, fun v t => ⟨beq_iff_eq, bne_iff_ne⟩, fun t d hd => (objCond_ge _ t).2 ?_⟩
  rwa [show t + d - t = d by rw [BitVec.add_comm, BitVec.add_sub_cancel]]

end Sys2Proof.Machine
end

section
/-! PROOFS. Barriers: arrivals at a member and at the root, releases and their launch (spec/10_sync_and_channels.md R266, R267,
11_time_and_clocks.md R294, 16_ocsal_fabric.md R433). -/

namespace Sys2Proof.Machine
open Sys2Proof

/-! ### BARRIVE (R205, R266) -/

section
variable {s : State} {x : CtxId} {rd rb : Reg} (h : Issues s x [.x rd, .x rb])
include h

/-- BARRIVE is a RELEASE (R205). -/
theorem exec_barrive_unfenced (hf : fenceOk s x .release .m = false) : exec (.barrive x rd rb) s = .next s :=
  (next_issued h).trans (congrArg _ (if_pos (by simp [hf])))

/-- BARRIVE writes the status of its cluster's arrival. -/
theorem exec_barrive_fenced {p : Fin 64} (ho : owner s x.c = some p) (hf : fenceOk s x .release .m = true) {st : Byte} {u : State}
    (harr : barArrive p x.c (Fin.ofNat 32 (xr s x rb).toNat) s = (st, u)) {v : Word} (hv : st.setWidth 64 = v) :
    exec (.barrive x rd rb) s = .next (retire x (wx x rd v u)) := by
  refine (next_issued h).trans (congrArg _ ?_)
  simp only [hf, ho, harr, hv, Bool.not_true, Bool.false_eq_true, if_false]

end

section
variable {s : State} {p : Fin 64} {c : Cl} {b : Fin 32}

theorem barArrive_absent (hroot : rootOf s p b.val = none) (hv : (barOf s c b.val).valid = false) : barArrive p c b s = (0x03, s) :=
  if_pos (by simp [hroot, hv])

variable (hthere : (rootOf s p b.val).isSome = true ∨ (barOf s c b.val).valid = true)
include hthere

/-- What an arrival of a barrier that is there comes to. -/
theorem barArrive_there : barArrive p c b s =
    let r := barOf s c b.val
    if r.expected = 0 then (0x04, s)
    else if r.held then (0x0E, s)
    else if r.arrived + 1 < r.expected then (0x00, setBar c b.val { r with arrived := r.arrived + 1 } s)
    else if r.sent then (0x00, setBar c b.val { r with arrived := 0, held := true } s)
    else (0x00, sendArrival p c b s) := by
  refine if_neg ?_
  rw [Bool.and_eq_true, Bool.not_eq_true', Option.isNone_iff_eq_none]
  rintro ⟨hroot, hv⟩
  rcases hthere with ht | ht
  · rw [hroot] at ht; cases ht
  · rw [hv] at ht; cases ht

theorem barArrive_unexpected (he : (barOf s c b.val).expected = 0) : barArrive p c b s = (0x04, s) :=
  (barArrive_there hthere).trans (if_pos he)

variable (he : (barOf s c b.val).expected ≠ 0)
include he

theorem barArrive_busy (hh : (barOf s c b.val).held = true) : barArrive p c b s = (0x0E, s) :=
  (barArrive_there hthere).trans ((if_neg he).trans (if_pos hh))

variable (hh : (barOf s c b.val).held = false)
include hh

theorem barArrive_counts (hn : (barOf s c b.val).arrived + 1 < (barOf s c b.val).expected) : barArrive p c b s =
    (0x00, setBar c b.val { barOf s c b.val with arrived := (barOf s c b.val).arrived + 1 } s) :=
  (barArrive_there hthere).trans ((if_neg he).trans ((if_neg (ne_true_of_eq_false hh)).trans (if_pos hn)))

variable (hn : (barOf s c b.val).expected ≤ (barOf s c b.val).arrived + 1)
include hn

theorem barArrive_held (hs : (barOf s c b.val).sent = true) : barArrive p c b s =
    (0x00, setBar c b.val { barOf s c b.val with arrived := 0, held := true } s) :=
  (barArrive_there hthere).trans ((if_neg he).trans ((if_neg (ne_true_of_eq_false hh)).trans ((if_neg (Nat.not_lt.2 hn)).trans (if_pos hs))))

theorem barArrive_sends (hs : (barOf s c b.val).sent = false) : barArrive p c b s = (0x00, sendArrival p c b s) :=
  (barArrive_there hthere).trans ((if_neg he).trans ((if_neg (ne_true_of_eq_false hh)).trans
    ((if_neg (Nat.not_lt.2 hn)).trans (if_neg (ne_true_of_eq_false hs)))))

end

/-! ### The root (R267, R433) -/

theorem sendReleases_appends (p : Fin 64) (b : Fin 32) (ms : List Cl) (gen : BitVec 16) (st : Byte) (l : Word) (s : State) :
    sendReleases p b ms gen st l s =
      { s with sync := { s.sync with pkts := s.sync.pkts ++ ms.map fun m => .release p b m gen st l } } := by
  induction ms generalizing s with
  | nil => rw [List.map_nil, List.append_nil]; rfl
  | cons m ms ih =>
    refine (ih _).trans ?_
    simp only [sendBar, List.append_assoc, List.map_cons, List.singleton_append]

theorem rootOf_sendReleases (p q : Fin 64) (b : Fin 32) (d : Nat) (ms : List Cl) (gen : BitVec 16) (st : Byte) (l : Word) (s : State) :
    rootOf (sendReleases p b ms gen st l s) q d = rootOf s q d := by
  rw [sendReleases_appends]
  rfl

/-- A tree of this module alone releases its members and goes on to the next generation. -/
theorem rootDecide_releases {r : BarRoot} (hr : r.hall = false) (p : Fin 64) (b : Fin 32) (s : State) :
    rootOf (rootDecide p b r s) p b.val = some { r with generation := r.generation + 1, got := [] } ∧
      (rootDecide p b r s).sync.pkts = s.sync.pkts ++ r.members.map fun m =>
        .release p b m r.generation 0x00 (localTide s r.root + BitVec.ofNat 64 (16 * r.lead)) := by
  rw [rootDecide, if_neg (ne_true_of_eq_false hr)]
  exact ⟨(rootOf_sendReleases ..).trans (rootOf_setRoot_self p b s _), by rw [sendReleases_appends]; rfl⟩

section
variable {s : State} {i : Nat} {p : Fin 64} {b : Fin 32} {c : Cl} {gen : BitVec 16} (h : s.sync.pkts[i]? = some (.arrive p b c gen))
include h

theorem exec_barrierArrive : exec (.barrierArrive i) s = .next (rootArrive p b c gen (dropPkt i s)) := by
  change execBarrierArrive i s = _
  simp only [execBarrierArrive, h]

theorem exec_barrierArrive_noRoot (hr : rootOf s p b.val = none) : exec (.barrierArrive i) s = .next (dropPkt i s) := by
  have hu : rootOf (dropPkt i s) p b.val = none := hr
  simp only [exec_barrierArrive h, rootArrive, hu]

variable {r : BarRoot} (hr : rootOf s p b.val = some r)
include hr

theorem exec_barrierArrive_root : exec (.barrierArrive i) s = .next (
    let u := setRoot p b.val (some { r with got := c :: r.got }) (dropPkt i s)
    if gen ≠ r.generation || !r.members.contains c || r.got.contains c then dropPkt i s
    else if r.members.all (c :: r.got).contains then rootDecide p b { r with got := c :: r.got } u else u) := by
  have hu : rootOf (dropPkt i s) p b.val = some r := hr
  simp only [exec_barrierArrive h, rootArrive, hu]

theorem exec_barrierArrive_forgotten (hn : gen ≠ r.generation ∨ r.members.contains c = false ∨ r.got.contains c = true) :
    exec (.barrierArrive i) s = .next (dropPkt i s) := by
  refine (exec_barrierArrive_root h hr).trans (congrArg _ (if_pos ?_))
  simpa only [Bool.or_eq_true, decide_eq_true_eq, Bool.not_eq_true', or_assoc] using hn

theorem exec_barrierArrive_taken (hg : gen = r.generation) (hm : r.members.contains c = true) (hgot : r.got.contains c = false) :
    exec (.barrierArrive i) s = .next (
      let u := setRoot p b.val (some { r with got := c :: r.got }) (dropPkt i s)
      if r.members.all (c :: r.got).contains then rootDecide p b { r with got := c :: r.got } u else u) := by
  refine (exec_barrierArrive_root h hr).trans (congrArg _ (if_neg ?_))
  rw [hm, hgot, hg]
  simp

end

/-! ### A release at its member (R266, R267, R294) -/

/-- The member's record once a release is taken. -/
def releasedBar (r : BarRec) (st : Byte) : BarRec :=
  { r with generation := r.generation + 1, lastStatus := st, release := none, sent := false, held := false,
           arrived := if r.sent then r.arrived else if st = 0x00 then r.arrived else 0 }

/-- LATE_RELEASES has counted a late release. -/
def lateCounted (c : Cl) (late : Bool) (s : State) : State :=
  let g := s.sync.regs.get {} (ck c)
  if late then
    counterWrap (clAddr 4 c 0xA220) (owner s c) g.lateReleases 1
      { s with sync := { s.sync with regs := s.sync.regs.set {} (ck c) { g with lateReleases := g.lateReleases + 1 } } }
  else s

theorem OnlyEvents.sync {s t : State} (h : OnlyEvents s t) : t.sync = s.sync := by rw [h]

theorem lateCounted_true_sync (c : Cl) (s : State) : (lateCounted c true s).sync =
    let g := s.sync.regs.get {} (ck c)
    { s.sync with regs := s.sync.regs.set {} (ck c) { g with lateReleases := g.lateReleases + 1 } } :=
  (counterWrap_only _ _ _ _ _).sync

/-- Counting a late release writes the cluster's registers, and of memory the host's alone. -/
theorem lateCounted_frame (c : Cl) (late : Bool) (s : State) :
    (lateCounted c late s).sync = { s.sync with regs := (lateCounted c late s).sync.regs } ∧
      (lateCounted c late s).mem.sram = s.mem.sram := by
  cases late with
  | false => exact ⟨rfl, rfl⟩
  | true => exact ⟨by rw [lateCounted_true_sync], (counterWrap_only _ _ _ _ _).sram⟩

theorem barOf_setBar_self (c : Cl) (b : Nat) (r : BarRec) (s : State) : barOf (setBar c b r s) c b = r := SMap.get_set_self _ _ _ _

/-- The release is taken: it counts, steps the member's generation and notifies (R267). -/
def releaseTaken (c : Cl) (b : Fin 32) (st : Byte) (late : Bool) (s : State) : State :=
  let r := barOf s c b.val
  notify c ⟨r.core, r.obj⟩ 1 (setBar c b.val (releasedBar r st) (lateCounted c late s))

section
variable (p : Fin 64) (c : Cl) (b : Fin 32) (st : Byte) (late : Bool) (s : State)

theorem barOf_releaseTaken : barOf (releaseTaken c b st late s) c b.val = releasedBar (barOf s c b.val) st := barOf_setBar_self _ _ _ _

theorem releaseTaken_effect :
    let r := barOf s c b.val
    let t := releaseTaken c b st late s
    t.sync.notes = s.sync.notes ++ [⟨c, ⟨r.core, r.obj⟩, 1, .none⟩] ∧ t.sync.pkts = s.sync.pkts ∧
      t.sync.regs = (lateCounted c late s).sync.regs ∧ t.mem.sram = s.mem.sram := by
  obtain ⟨hsync, hsram⟩ := lateCounted_frame c late s
  have hnotes : (lateCounted c late s).sync.notes = s.sync.notes := by rw [hsync]
  have hpkts : (lateCounted c late s).sync.pkts = s.sync.pkts := by rw [hsync]
  exact ⟨congrArg (· ++ _) hnotes, hpkts, rfl, hsram⟩

theorem applyRelease_eq : applyRelease p c b st late s =
    let u := releaseTaken c b st late s
    if (barOf s c b.val).held then sendArrival p c b u else u := rfl

variable {s}

theorem applyRelease_free (hh : (barOf s c b.val).held = false) : applyRelease p c b st late s = releaseTaken c b st late s :=
  (applyRelease_eq p c b st late s).trans (if_neg (ne_true_of_eq_false hh))

/-- A held arrival is for the next generation (R266). -/
theorem applyRelease_held (hh : (barOf s c b.val).held = true) : applyRelease p c b st late s =
    sendBar (.arrive p b c ((barOf s c b.val).generation + 1))
      (setBar c b.val { releasedBar (barOf s c b.val) st with arrived := 0, sent := true } (releaseTaken c b st late s)) := by
  refine (applyRelease_eq p c b st late s).trans ((if_pos hh).trans ?_)
  rw [sendArrival, barOf_releaseTaken]
  rfl

/-- What a release leaves, where an arrival is held and where none is. -/
theorem applyRelease_effect (s : State) :
    let r := barOf s c b.val
    let t := applyRelease p c b st late s
    (barOf t c b.val).generation = r.generation + 1 ∧ (barOf t c b.val).lastStatus = st ∧ (barOf t c b.val).release = none ∧
      (barOf t c b.val).sent = r.held ∧ (barOf t c b.val).held = false ∧
      t.sync.notes = s.sync.notes ++ [⟨c, ⟨r.core, r.obj⟩, 1, .none⟩] ∧
      t.sync.pkts = s.sync.pkts ++ (if r.held then [.arrive p b c (r.generation + 1)] else []) ∧
      t.sync.regs = (lateCounted c late s).sync.regs ∧ t.mem.sram = s.mem.sram := by
  obtain ⟨hnotes, hpkts, hregs, hsram⟩ := releaseTaken_effect c b st late s
  dsimp only
  cases hh : (barOf s c b.val).held with
  | false =>
    rw [applyRelease_free p c b st late hh, barOf_releaseTaken]
    exact ⟨rfl, rfl, rfl, rfl, rfl, hnotes, hpkts.trans (List.append_nil _).symm, hregs, hsram⟩
  | true =>
    have hbar (u : State) (k : BarPkt) (r : BarRec) : barOf (sendBar k (setBar c b.val r u)) c b.val = r := barOf_setBar_self c b.val r u
    rw [applyRelease_held p c b st late hh, hbar]
    exact ⟨rfl, rfl, rfl, rfl, rfl, hnotes, congrArg (· ++ _) hpkts, hregs, hsram⟩

end

section
variable {s : State} {i : Nat} {p : Fin 64} {b : Fin 32} {c : Cl} {gen : BitVec 16} {st : Byte} {l : Word}
  (h : s.sync.pkts[i]? = some (.release p b c gen st l))
include h

theorem exec_barrierRelease : exec (.barrierRelease i) s = .next (
    let r := barOf s c b.val
    let full := localTide s c + ((l.setWidth 32 - (localTide s c).setWidth 32).signExtend 64)
    if !r.valid || gen ≠ r.generation then dropPkt i s
    else if (localTide s c - relLaunch s c r full).toInt > 0 ∧ arithOn s c = true then applyRelease p c b st true (dropPkt i s)
    else setBar c b.val { r with release := some (full, st) } (dropPkt i s)) := by
  change execBarrierRelease i s = _
  simp only [execBarrierRelease, h]
  rfl

theorem exec_barrierRelease_stale (hn : (barOf s c b.val).valid = false ∨ gen ≠ (barOf s c b.val).generation) :
    exec (.barrierRelease i) s = .next (dropPkt i s) := by
  refine (exec_barrierRelease h).trans (congrArg _ (if_pos ?_))
  simpa only [Bool.or_eq_true, decide_eq_true_eq, Bool.not_eq_true'] using hn

theorem exec_barrierRelease_current (hv : (barOf s c b.val).valid = true) (hg : gen = (barOf s c b.val).generation) :
    exec (.barrierRelease i) s = .next (
      let r := barOf s c b.val
      let full := localTide s c + ((l.setWidth 32 - (localTide s c).setWidth 32).signExtend 64)
      if (localTide s c - relLaunch s c r full).toInt > 0 ∧ arithOn s c = true then applyRelease p c b st true (dropPkt i s)
      else setBar c b.val { r with release := some (full, st) } (dropPkt i s)) :=
  (exec_barrierRelease h).trans (congrArg _ (if_neg (by simp [hv, hg])))

end

/-- BARRIER_LAUNCH of a release that its member holds. -/
theorem exec_barrierLaunch {s : State} {c : Cl} {b : Fin 32} {p : Fin 64} {l : Word} {st : Byte}
    (hr : (barOf s c b.val).release = some (l, st)) (ho : owner s c = some p) :
    exec (.barrierLaunch c b) s = .next (
      let at_ := relLaunch s c (barOf s c b.val) l
      if arithOn s c then applyRelease p c b st (launchMissed s c at_) (waitTide s c at_) else s) := by
  change execBarrierLaunch c b s = _
  simp only [execBarrierLaunch, hr, ho]

/-- Settles O18: arrivals by the checks of `barArrive`, the root by its tree, a release by its generation and its launch. -/
theorem barrierGeneration : Obligations.BarrierGeneration := by
  unfold Obligations.BarrierGeneration
  refine ⟨fun s x rd rb p h ho => ⟨exec_barrive_unfenced h, fun hf => ?_⟩,
    fun s i p b c gen h => ⟨exec_barrierArrive_noRoot h, fun r hr => ⟨exec_barrierArrive_forgotten h hr, fun hg hm hgot => ?_⟩⟩,
    fun s i p b c gen st l h => ⟨exec_barrierRelease_stale h, fun hv hg => ?_⟩,
    fun s c b p l st hr ho => ⟨fun hoff => ?_, fun hon => ?_⟩, fun s p c b st late => ?_⟩
  · have hdone {st : Byte} {u : State} {v : Word} := exec_barrive_fenced h ho hf (st := st) (u := u) (v := v)
    exact ⟨fun hroot hv => hdone (barArrive_absent hroot hv) rfl, fun ht => ⟨fun he => hdone (barArrive_unexpected ht he) rfl,
      fun he hh => hdone (barArrive_busy ht he hh) rfl, fun he hh => ⟨fun hn => hdone (barArrive_counts ht he hh hn) rfl,
      fun hn hs => hdone (barArrive_held ht he hh hn hs) rfl, fun hn hs => hdone (barArrive_sends ht he hh hn hs) rfl⟩⟩⟩
  · rw [exec_barrierArrive_taken h hr hg hm hgot]
    refine ⟨fun hpart => ?_, fun hall hhall => ?_, fun hall hhall => ?_⟩
    · exact congrArg _ (if_neg (ne_true_of_eq_false hpart))
    · exact congrArg _ ((if_pos hall).trans (if_pos hhall))
    · obtain ⟨hroot, hpkts⟩ := rootDecide_releases (r := { r with got := c :: r.got }) hhall p b
        (setRoot p b.val (some { r with got := c :: r.got }) (dropPkt i s))
      exact ⟨_, congrArg _ (if_pos hall), hroot, hpkts⟩
  · rw [exec_barrierRelease_current h hv hg]
    refine ⟨fun hpast hon => congrArg _ (if_pos ⟨hpast, hon⟩), fun hn => congrArg _ (if_neg fun ⟨hpast, hon⟩ => ?_)⟩
    rcases hn with hle | hoff
    · omega
    · rw [hoff] at hon; cases hon
  · exact (exec_barrierLaunch hr ho).trans (congrArg _ (if_neg (ne_true_of_eq_false hoff)))
  · exact (exec_barrierLaunch hr ho).trans (congrArg _ (if_pos hon))
  · obtain ⟨hgen, hst, hrel, hsent, hheld, hnotes, hpkts, hregs, hsram⟩ := applyRelease_effect p c b st late s
    refine ⟨hgen, hst, hrel, hsent, hheld, hnotes, hpkts, fun hlate _ => ?_, hsram⟩
    rw [hregs, hlate, lateCounted_true_sync]
    simp only [SMap.get_set_self]

end Sys2Proof.Machine
end

section
/-! PROOFS. Laws of the sparse map: entries that are listed, and a value written twice. -/

namespace Sys2Proof.SMap

variable {α : Type}

/-- A value read that is not the default stands in the map. -/
theorem mem_of_get_ne {d : α} {m : SMap α} {k : Nat} (h : get d m k ≠ d) : (k, get d m k) ∈ m := by
  induction m with
  | nil => exact absurd rfl h
  | cons e m ih =>
    obtain ⟨j, v⟩ := e
    simp only [get] at h ⊢
    split
    · next hjk => rw [hjk]; exact List.mem_cons_self
    · next hjk => rw [if_neg hjk] at h; exact List.mem_cons_of_mem _ (ih h)

theorem del_del (m : SMap α) (k : Nat) : del (del m k) k = del m k := by
  induction m with
  | nil => rfl
  | cons e m ih =>
    simp only [del]
    split
    · exact ih
    · next hk => simp only [del, if_neg hk, ih]

theorem ins_ins_same (m : SMap α) (k : Nat) (v : α) : ins (ins m k v) k v = ins m k v := by
  induction m with
  | nil => simp [ins]
  | cons e m ih =>
    simp only [ins]
    split
    · simp [ins]
    · split
      · simp [ins]
      · next hlt hne => simp only [ins, if_neg hlt, if_neg hne, ih]

/-- Writing a value twice is writing it once. -/
theorem set_set_same [DecidableEq α] (d : α) (m : SMap α) (k : Nat) (v : α) : set d (set d m k v) k v = set d m k v := by
  unfold set
  split
  · exact del_del m k
  · exact ins_ins_same m k v

end Sys2Proof.SMap
end

section
/-! PROOFS. Opening and closing channels (spec/10_sync_and_channels.md R271, R272, R278, R279, R281). -/

namespace Sys2Proof.Machine
open Sys2Proof

/-! ### Endpoints and their keys (R270) -/

theorem epOf_setEp (c x : Cl) (e f : Nat) (r : EpRec) (s : State) :
    epOf (setEp c e r s) x f = if epKey x f = epKey c e then r else epOf s x f := by
  simp only [epOf, setEp, SMap.get_set]

@[simp] theorem epOf_setEp_self (c : Cl) (e : Nat) (r : EpRec) (s : State) : epOf (setEp c e r s) c e = r := SMap.get_set_self _ _ _ _

theorem epOf_congr {s t : State} (h : t.sync.eps = s.sync.eps) (c : Cl) (e : Nat) : epOf t c e = epOf s c e := by
  simp only [epOf, h]

/-- A cluster's key names it. -/
theorem clOfKey_ck (c : Cl) : clOfKey (ck c) = some c := by
  obtain ⟨w, x, y⟩ := c
  have hx : (w.val * 16384 + y.val * 128 + x.val) % 128 = x.val := by omega
  have hy : (w.val * 16384 + y.val * 128 + x.val) / 128 % 128 = y.val := by omega
  have hw : (w.val * 16384 + y.val * 128 + x.val) / 16384 = w.val := by omega
  simp only [clOfKey, ck, hx, hy, hw, x.isLt, y.isLt, and_self, dite_true, Fin.ofNat_val_eq_self]

/-! ### CHACCEPT and CHOPEN (R271, R281) -/

/-- What CHACCEPT's second word `v` may not hold: a basin's settings out of range, or anything where no basin is asked for. -/
def acceptBad (v : Nat) : Bool :=
  if bit v 0 then !(fld v 1 5 == 0x08 || fld v 1 5 == 0x06 || fld v 1 5 == 0x07 || fld v 1 5 == 0x0D) || fld v 8 8 == 0
    || 128 < fld v 8 8 || fld v 48 16 != 0
  else v != 0

/-- The endpoint that CHACCEPT's first word `w` leaves LISTENING. -/
def acceptedEp (w : Nat) (r : EpRec) : EpRec :=
  { state := .listening, split := bit w 22, queue := fld w 8 14 * 256, note := epNote w, cmdStatus := r.cmdStatus }

/-- The basin of CHACCEPT's second word, empty. -/
def acceptedBasin (v : Nat) : Basin := ⟨BitVec.ofNat 5 (fld v 1 5), bit v 6, bit v 7, fld v 8 8, BitVec.ofNat 32 (fld v 16 32), 0, false⟩

/-- The endpoint is a basin with a generation of its own and its chunks at the identity (R281). -/
def basinOpened (c : Cl) (w v : Nat) (s : State) : State :=
  let e := fld w 0 8
  let r := acceptedEp w (epOf s c e)
  let u := setEp c e { r with state := .basin, basin := some (acceptedBasin v), gen := s.sync.nextGen } s
  fillBasin c r.queue (acceptedBasin v) { u with sync := { u.sync with nextGen := s.sync.nextGen + 1 } }

section
variable {s : State} {x : CtxId} {rd re rs : Reg} (h : Issues s x [.x rd, .x re, .x rs])
include h

theorem exec_chaccept : exec (.chaccept x rd re rs) s = .next (
    let w := (xr s x re).toNat
    let v := (xr s x rs).toNat
    let st := epWordCheck s x.c w (acceptBad v)
    if st ≠ 0x00 then retire x (wx x rd (st.setWidth 64) s)
    else if bit v 0 then retire x (wx x rd 0 (basinOpened x.c w v s))
    else retire x (wx x rd 0 (setEp x.c (fld w 0 8) (acceptedEp w (epOf s x.c (fld w 0 8))) s))) := next_issued h

end

/-- The address of the opener's endpoint as the peer names it: with the module's number where the peer is on another. -/
def openerAddr (s : State) (c : Cl) (e : Nat) (peer : Word) : Word :=
  if farAddr s peer then ((ownModule s).getD 0xFF ++ (epAddr c e 0).setWidth 56 : BitVec 64) else epAddr c e 0

/-- The endpoint that CHOPEN's first word `w` leaves OPENING to `peer`. -/
def openingEp (w : Nat) (peer : Word) (id : Nat) (r : EpRec) : EpRec :=
  { state := .opening, split := bit w 22, queue := fld w 8 14 * 256, note := epNote w, peer := peer, conn := id, cmdStatus := r.cmdStatus }

theorem length_leBytes (n v : Nat) : (leBytes n v).length = n := by
  induction n generalizing v with
  | zero => rfl
  | succ n ih => rw [leBytes, List.length_cons, ih]

section
variable {s : State} {x : CtxId} {rd re ra : Reg} (h : Issues s x [.x rd, .x re, .x ra])
include h

theorem exec_chopen : exec (.chopen x rd re ra) s = .next (
    let w := (xr s x re).toNat
    let a := xr s x ra
    let e := fld w 0 8
    let st := epWordCheck s x.c w (addrSpace a != 6 || !layoutOk a || addrLand a != 0)
    if st ≠ 0x00 then retire x (wx x rd (st.setWidth 64) s)
    else retire x (issueReq (.core x) (owner s x.c) (.object 9) a 4 (leBytes 4 (fld w 0 23) ++ leBytes 8 (openerAddr s x.c e a).toNat)
      0 false false x.c (.chOpen (Fin.ofNat 256 e) rd) (setEp x.c e (openingEp w a s.net.nextId (epOf s x.c e)) s))) := next_issued h

end

/-! ### OPEN at its target (R271, R272, R281) -/

/-- A listening endpoint takes an OPEN of its own mode, and a checked one only where checked mode may be (R272). -/
theorem openRefused_iff {split mode refused : Bool} :
    (split ≠ mode || (!split && refused)) = true ↔ split ≠ mode ∨ mode = false ∧ refused = true := by
  cases split <;> cases mode <;> simp

section
variable {s : State} {id : Nat} {q : Xact} {c : Cl} (h : AtTarget s id q c) (hk : q.kind = .object 9)
include h hk

/-- OPEN meets a listening endpoint. -/
theorem exec_openArrive_listening (hst : (epOf s c (addrEp q.addr)).state = .listening) : exec (.openArrive id) s = .next (
    let e := addrEp q.addr
    let r := epOf s c e
    let split := bit (leNat (q.data.take 4)) 22
    let u := setEp c e { r with state := .opened, peer := BitVec.ofNat 64 (leNat ((q.data.drop 4).take 8)), gen := s.sync.nextGen,
                                conn := q.id, creditsReq := (fullCredits split).1, creditsRsp := (fullCredits split).2 } s
    if split ≠ r.split || (!split && checkedRefused s q c) then answer q 0x04 [] s
    else answer q 0x00 (leBytes 4 s.sync.nextGen.toNat ++ [0, 0, 0])
      (notifyOpt c r.note { u with sync := { u.sync with nextGen := s.sync.nextGen + 1 } })) := by
  refine congrArg Host.Outcome.next ((atTarget_serves h (by simp [isObj, hk]) _).trans ?_)
  simp only [hst]

theorem exec_openArrive_refused (hst : (epOf s c (addrEp q.addr)).state = .listening)
    (hbad : bit (leNat (q.data.take 4)) 22 ≠ (epOf s c (addrEp q.addr)).split ∨
      (epOf s c (addrEp q.addr)).split = false ∧ checkedRefused s q c = true) :
    exec (.openArrive id) s = .next (answer q 0x04 [] s) :=
  (exec_openArrive_listening h hk hst).trans (congrArg _ (if_pos (openRefused_iff.2 hbad)))

/-- The listening endpoint is OPEN with full credits and a generation of its own. -/
theorem exec_openArrive_opens (hst : (epOf s c (addrEp q.addr)).state = .listening)
    (hmode : bit (leNat (q.data.take 4)) 22 = (epOf s c (addrEp q.addr)).split)
    (hfree : (epOf s c (addrEp q.addr)).split = true ∨ checkedRefused s q c = false) : exec (.openArrive id) s = .next (
    let e := addrEp q.addr
    let r := epOf s c e
    let u := setEp c e { r with state := .opened, peer := BitVec.ofNat 64 (leNat ((q.data.drop 4).take 8)), gen := s.sync.nextGen,
                                conn := q.id, creditsReq := (fullCredits r.split).1, creditsRsp := (fullCredits r.split).2 } s
    answer q 0x00 (leBytes 4 s.sync.nextGen.toNat ++ [0, 0, 0])
      (notifyOpt c r.note { u with sync := { u.sync with nextGen := s.sync.nextGen + 1 } })) := by
  refine (exec_openArrive_listening h hk hst).trans (congrArg _ ((if_neg fun hbad => ?_).trans (by rw [hmode])))
  rcases openRefused_iff.1 hbad with hne | ⟨hchecked, hrefused⟩
  · exact hne hmode
  · rcases hfree with hfree | hfree
    · exact Bool.false_ne_true (hchecked.symm.trans hfree)
    · exact Bool.false_ne_true (hfree.symm.trans hrefused)

/-- OPEN meets a basin. -/
theorem exec_openArrive_basin {b : Basin} (hst : (epOf s c (addrEp q.addr)).state = .basin)
    (hb : (epOf s c (addrEp q.addr)).basin = some b) : exec (.openArrive id) s = .next (
    let w := leNat (q.data.take 4)
    if fld w 8 14 ≠ 0 then answer q 0x03 [] s
    else if !bit w 22 && checkedRefused s q c then answer q 0x04 [] s
    else answer q 0x00 (leBytes 4 (epOf s c (addrEp q.addr)).gen.toNat ++ [1, b.format.setWidth 8, BitVec.ofNat 8 b.chunks]) s) := by
  refine congrArg Host.Outcome.next ((atTarget_serves h (by simp [isObj, hk]) _).trans ?_)
  simp only [hst, hb]

theorem exec_openArrive_closed (hst : (epOf s c (addrEp q.addr)).state = .closed) :
    exec (.openArrive id) s = .next (answer q 0x0A [] s) := by
  refine congrArg Host.Outcome.next ((atTarget_serves h (by simp [isObj, hk]) _).trans ?_)
  simp only [hst]

theorem exec_openArrive_taken (hl : (epOf s c (addrEp q.addr)).state ≠ .listening) (hb : (epOf s c (addrEp q.addr)).state ≠ .basin)
    (hc : (epOf s c (addrEp q.addr)).state ≠ .closed) : exec (.openArrive id) s = .next (answer q 0x04 [] s) := by
  refine congrArg Host.Outcome.next ((atTarget_serves h (by simp [isObj, hk]) _).trans ?_)
  cases hst : (epOf s c (addrEp q.addr)).state with
  | listening => exact absurd hst hl
  | basin => exact absurd hst hb
  | closed => exact absurd hst hc
  | opening | opened | peerClosed | broken => simp only [hst]

end

/-! ### The reply to OPEN (R183, R271, R272) -/

/-- The endpoint that OPEN opened, by the data of the reply: a channel, or a basin's contributor. -/
def openedEp (r : EpRec) (d : List Byte) : EpRec :=
  let contributes : Bool := (d.getD 4 0) != 0
  { r with state := .opened, gen := BitVec.ofNat 32 (leNat (d.take 4)), contributor := contributes
           creditsReq := if contributes then 8 else (fullCredits r.split).1, creditsRsp := if contributes then 0 else (fullCredits r.split).2
           format := (d.getD 5 0).setWidth 5, chunks := (d.getD 6 0).toNat }

/-- The reply to OPEN acts on the endpoint that waits for it, and on no other. -/
def openSettled (c : Cl) (e : Nat) (id : Nat) (st : Byte) (d : List Byte) (s : State) : State :=
  let r := epOf s c e
  if r.state ≠ .opening ∨ r.conn ≠ id then s
  else if st ≠ 0x00 then setEp c e { cmdStatus := r.cmdStatus } s
  else setEp c e (openedEp r d) s

section
variable {s : State} {c : Cl} {e id : Nat} {st : Byte} {d : List Byte}

theorem openSettled_other (h : (epOf s c e).state ≠ .opening ∨ (epOf s c e).conn ≠ id) : openSettled c e id st d s = s := if_pos h

variable (hopen : (epOf s c e).state = .opening) (hconn : (epOf s c e).conn = id)
include hopen hconn

theorem epOf_openSettled_refused (hst : st ≠ 0x00) : epOf (openSettled c e id st d s) c e = { cmdStatus := (epOf s c e).cmdStatus } := by
  simp only [openSettled, hopen, hconn, ne_eq, not_true_eq_false, or_self, if_false, hst, not_false_eq_true, if_true, epOf_setEp_self]

theorem epOf_openSettled_opened (hst : st = 0x00) : epOf (openSettled c e id st d s) c e = openedEp (epOf s c e) d := by
  simp only [openSettled, hopen, hconn, ne_eq, not_true_eq_false, or_self, if_false, hst, epOf_setEp_self]

end

theorem openedEp_channel (r : EpRec) {d : List Byte} (h : d.getD 4 0 = 0) : (openedEp r d).contributor = false ∧
    ((openedEp r d).creditsReq, (openedEp r d).creditsRsp) = fullCredits r.split := by
  simp only [openedEp, h]
  exact ⟨rfl, rfl⟩

theorem openedEp_contributor (r : EpRec) {d : List Byte} (h : d.getD 4 0 ≠ 0) : (openedEp r d).contributor = true ∧
    (openedEp r d).creditsReq = 8 ∧ (openedEp r d).creditsRsp = 0 := by
  simp only [openedEp, bne_iff_ne.2 h, if_true, and_self]

theorem writeX_writeX (r : CtxRec) (i : Reg) (v : Word) : (r.writeX i v).writeX i v = r.writeX i v := by
  unfold CtxRec.writeX
  split
  · rfl
  · simp [vset]

/-- Writing a register twice is writing it once. -/
theorem wx_wx (x : CtxId) (i : Reg) (v : Word) (s : State) : wx x i v (wx x i v s) = wx x i v s := by
  have hrec : ctxRec (wx x i v s) x = (ctxRec s x).writeX i v := ctxRec_wx_self x i v s
  rw [wx, updCtx, hrec, writeX_writeX]
  exact congrArg (fun m => { s with core := { s.core with ctxs := m } }) (SMap.set_set_same _ _ _ _)

/-- The reply to a core's OPEN, once the request `q` is taken off the mesh. -/
def openReplied (q : Xact) (x : CtxId) (e : Fin 256) (rd : Reg) (st : Byte) (d : List Byte) (s : State) : State :=
  let u := openSettled x.c e.val q.id st d s
  if q.orphaned then u else wx x rd (st.setWidth 64) u

theorem openReply_core {q : Xact} {x : CtxId} {e : Fin 256} {rd : Reg} (hwho : q.who = .core x) (huse : q.use = .chOpen e rd) (st : Byte)
    (d : List Byte) (s : State) : openReply q st d s = openReplied q x e rd st d s := by
  simp only [openReply, hwho, huse]
  rfl

/-- OPEN_REPLY_ARRIVE of a core's request. -/
theorem exec_openReplyArrive {s : State} {id : Nat} {q : Xact} {x : CtxId} {e : Fin 256} {rd : Reg} {st : Byte} {d : List Byte}
    (h : Answered s id q st d) (hwho : q.who = .core x) (huse : q.use = .chOpen e rd) (ha : asleep s q.src = false) :
    exec (.openReplyArrive id) s = .next (openReplied q x e rd st d (dropXact id s)) :=
  congrArg Host.Outcome.next ((takeReply_takes h (by rw [huse]) ha _).trans (openReply_core hwho huse st d _))

section
variable (q : Xact) (x : CtxId) (e : Fin 256) (rd : Reg) (st : Byte) (d : List Byte) (s : State)

/-- The status is in the opener's register, unless its context was reset since. -/
theorem openReplied_writes : openReplied q x e rd st d s =
    if q.orphaned then openReplied q x e rd st d s else wx x rd (st.setWidth 64) (openReplied q x e rd st d s) := by
  unfold openReplied
  cases q.orphaned with
  | true => rfl
  | false => exact (wx_wx x rd _ _).symm

theorem epOf_openReplied : epOf (openReplied q x e rd st d s) x.c e.val = epOf (openSettled x.c e.val q.id st d s) x.c e.val := by
  unfold openReplied
  extract_lets u
  split <;> rfl

end

/-! ### Endpoints that leave OPEN (R275, R278, R279) -/

theorem endHeldSend_onlyCores (x : CtxId) (rd : Reg) (st : Byte) (s : State) : OnlyCores s (endHeldSend x rd st s) :=
  (endWait_onlyCores x s).trans <| (updCtx_onlyCores x _ _).trans <| (updCtx_onlyCores x _ _).trans (retire_onlyCores x _)

theorem stallArr_sync (c : Cl) (cause : BitVec 2) (n : Nat) (unit : BitVec 32) (s : State) : (stallArr c cause n unit s).sync = s.sync := by
  unfold stallArr
  split
  · exact (postEvent_only _ _ _ _ _ _).sync
  · rfl

/-- Ending the waits at an endpoint empties its list and touches no other endpoint. -/
theorem eps_wakeClosed (c : Cl) (e : Nat) (s : State) :
    (wakeClosed c e s).sync.eps = (setEp c e { epOf s c e with waiting := [] } s).sync.eps := by
  refine foldl_keeps (fun s => s.sync.eps) (fun t w => ?_) _ _
  cases w with
  | ctx x =>
    dsimp only
    split
    · exact (congrArg Sync.eps (endHeldSend_onlyCores x _ _ _).sync).trans rfl
    · rfl
  | io d i => exact (congrArg Sync.eps (stallArr_sync _ _ _ _ _)).trans rfl

theorem epOf_wakeClosed (c x : Cl) (e f : Nat) (s : State) : epOf (wakeClosed c e s) x f =
    if epKey x f = epKey c e then { epOf s c e with waiting := [] } else epOf s x f := by
  rw [epOf_congr (eps_wakeClosed c e s), epOf_setEp]

theorem epOf_leaveOpen (c x : Cl) (e f : Nat) (st : EpState) (s : State) : epOf (leaveOpen c e st s) x f =
    if epKey x f = epKey c e then { epOf s c e with state := st, waiting := [] } else epOf s x f := by
  rw [leaveOpen, epOf_wakeClosed, epOf_setEp_self, epOf_setEp]
  split <;> rfl

/-! ### CHCLOSE and CLOSE (R278) -/

theorem closeEp_closed {c : Cl} {e : Fin 256} {s : State} (h : (epOf s c e.val).state = .closed) : closeEp c e s = s := if_pos h

theorem epOf_closeEp_state (c : Cl) (e : Fin 256) (s : State) : (epOf (closeEp c e s) c e.val).state = .closed := by
  by_cases h : (epOf s c e.val).state = .closed
  · rw [closeEp_closed h, h]
  · rw [closeEp, if_neg h, epOf_setEp_self]

/-- With no unit waiting at the endpoint, the mesh gains CLOSE to the peer and nothing else. -/
theorem closeEp_tells {c : Cl} {e : Fin 256} {s : State} (hw : (epOf s c e.val).waiting = []) (hc : connected (epOf s c e.val) = true) :
    ∃ k, (closeEp c e s).net.xacts = s.net.xacts ++ [k] ∧ k.kind = .object 0xA ∧ k.addr = (epOf s c e.val).peer := by
  have hopen : (epOf s c e.val).state ≠ .closed := fun h => by simp [connected, h] at hc
  have hwake : wakeClosed c e.val s = setEp c e.val { epOf s c e.val with waiting := [] } s := by rw [wakeClosed, hw]; rfl
  obtain ⟨k, -, -, -, hkind, haddr, -, -, -, -, -, -, hsent⟩ := issueReq_appends (.config c) (owner (wakeClosed c e.val s) c)
    (.object 0xA) (epOf s c e.val).peer 4 (leBytes 4 0) 0 false false c (.close e) (wakeClosed c e.val s)
  refine ⟨k, ?_, hkind, haddr⟩
  simp only [closeEp, if_neg hopen, if_pos hc, setEp_net, hsent]
  rw [hwake]
  rfl

section
variable {s : State} {id : Nat} {q : Xact} {c : Cl} (h : AtTarget s id q c) (hk : q.kind = .object 0xA)
include h hk

theorem exec_closeArrive : exec (.closeArrive id) s = .next (
    let r := epOf s c (addrEp q.addr)
    if r.state = .opened then answer q 0x00 (leBytes 4 0) (notifyOpt c r.note (leaveOpen c (addrEp q.addr) .peerClosed s))
    else answer q 0x00 (leBytes 4 0) s) := congrArg Host.Outcome.next (atTarget_serves h (by simp [isObj, hk]) _)

end

/-! ### Islands that fall back (R279) -/

/-- The endpoints of checked channels that an island fallen back breaks. -/
def brokenEps (s : State) : List (Cl × Nat) :=
  s.sync.eps.filterMap fun e =>
    match clOfKey (e.1 / 256) with
    | some c => if crossesFallen s c e.2 then some (c, e.1 % 256) else none
    | none => none

theorem mem_brokenEps {s : State} {c : Cl} {e : Fin 256} (h : crossesFallen s c (epOf s c e.val) = true) : (c, e.val) ∈ brokenEps s := by
  have hlisted : epOf s c e.val ≠ {} := fun hd => by rw [hd] at h; cases h
  have hmem : (epKey c e.val, epOf s c e.val) ∈ s.sync.eps := SMap.mem_of_get_ne hlisted
  have hdiv : epKey c e.val / 256 = ck c := by unfold epKey; omega
  have hmod : epKey c e.val % 256 = e.val := by unfold epKey; omega
  refine List.mem_filterMap.2 ⟨_, hmem, ?_⟩
  simp only [hdiv, hmod, clOfKey_ck, h, if_true]

/-- A BROKEN endpoint stays so, and one of the list becomes so. -/
theorem foldl_leaveOpen_broken (es : List (Cl × Nat)) (s : State) {c : Cl} {e : Nat}
    (h : (epOf s c e).state = .broken ∨ (c, e) ∈ es) :
    (epOf (es.foldl (fun s e => leaveOpen e.1 e.2 .broken s) s) c e).state = .broken := by
  induction es generalizing s with
  | nil => exact h.resolve_right List.not_mem_nil
  | cons g es ih =>
    refine ih _ ?_
    rw [epOf_leaveOpen]
    split
    · exact .inl rfl
    · next hkey =>
      rcases h with h | h
      · exact .inl h
      · exact .inr ((List.mem_cons.1 h).resolve_left fun hg => hkey (by rw [← hg]))

theorem exec_checkedChannelBreak_idle {s : State} (h : s.sync.fallen = []) : exec .checkedChannelBreak s = .next s :=
  congrArg Host.Outcome.next (if_pos (by rw [h]; rfl))

theorem exec_checkedChannelBreak {s : State} (h : s.sync.fallen ≠ []) : exec .checkedChannelBreak s = .next (
    let u := (brokenEps s).foldl (fun s e => leaveOpen e.1 e.2 .broken s) s
    { u with sync := { u.sync with fallen := [] } }) :=
  congrArg Host.Outcome.next (if_neg (by simpa using h))

end Sys2Proof.Machine
end

section
/-! PROOFS. Commands to an endpoint, basins and the watchdog of credits (spec/10_sync_and_channels.md R280-R285). -/

namespace Sys2Proof.Machine
open Sys2Proof

/-! ### Commands to an endpoint (R285) -/

section
variable {s : State} {who : Requester} {c : Cl} {e : Fin 256} {v : Word}

/-- The answer to a command: the write is OK, and CMD_STATUS tells how the command went. -/
def epAnswer (c : Cl) (e : Fin 256) (st : Byte) (s : State) : State := reply 0x00 (setEp c e.val { epOf s c e.val with cmdStatus := st } s)

variable (h : regPerm s who c = 0x00)
include h

theorem epCmd_reserved (hv : fld v.toNat 4 4 ≠ 0 ∨ fld v.toNat 16 48 ≠ 0) (f : Nat → EpRec → State → Byte × State) :
    epCmd who c e v f s = epAnswer c e 0x03 s := by
  simp only [epCmd, h, ne_eq, not_true_eq_false, if_false, if_pos hv]
  rfl

variable (h4 : fld v.toNat 4 4 = 0) (h16 : fld v.toNat 16 48 = 0)
include h4 h16

theorem epCmd_runs {f : Nat → EpRec → State → Byte × State} {st : Byte} {t : State} (hf : f v.toNat (epOf s c e.val) s = (st, t)) :
    epCmd who c e v f s = epAnswer c e st t := by
  simp only [epCmd, h, h4, h16, ne_eq, not_true_eq_false, or_self, if_false, hf]
  rfl

theorem exec_setCursor_moves (hc : (epOf s c e.val).contributor = true) (ho : connected (epOf s c e.val) = true)
    (hn : fld v.toNat 8 8 < (epOf s c e.val).chunks) : exec (.setCursor who c e v) s =
      .next (epAnswer c e 0x00 (setEp c e.val { epOf s c e.val with cursor := fld v.toNat 8 8 } s)) := by
  refine congrArg Host.Outcome.next (epCmd_runs h h4 h16 ?_)
  exact (if_neg (by simp [hc, ho])).trans (if_neg (Nat.not_le.2 hn))

theorem exec_setCursor_outside (hc : (epOf s c e.val).contributor = true) (ho : connected (epOf s c e.val) = true)
    (hn : (epOf s c e.val).chunks ≤ fld v.toNat 8 8) : exec (.setCursor who c e v) s = .next (epAnswer c e 0x03 s) := by
  refine congrArg Host.Outcome.next (epCmd_runs h h4 h16 ?_)
  exact (if_neg (by simp [hc, ho])).trans (if_pos hn)

theorem exec_setCursor_elsewhere (hn : (epOf s c e.val).contributor = false ∨ connected (epOf s c e.val) = false) :
    exec (.setCursor who c e v) s = .next (epAnswer c e 0x04 s) := by
  refine congrArg Host.Outcome.next (epCmd_runs h h4 h16 (if_pos ?_))
  rcases hn with hn | hn <;> simp [hn]

theorem exec_basinClear_clears {b : Basin} (hs : (epOf s c e.val).state = .basin) (hb : (epOf s c e.val).basin = some b) :
    let b' := { b with count := 0, done := false }
    exec (.basinClear who c e v) s =
      .next (epAnswer c e 0x00 (fillBasin c (epOf s c e.val).queue b' (setEp c e.val { epOf s c e.val with basin := some b' } s))) := by
  refine congrArg Host.Outcome.next (epCmd_runs h h4 h16 ?_)
  simp only [hs, hb]

theorem exec_basinClear_elsewhere (hs : (epOf s c e.val).state ≠ .basin) : exec (.basinClear who c e v) s = .next (epAnswer c e 0x04 s) := by
  refine congrArg Host.Outcome.next (epCmd_runs h h4 h16 ?_)
  split
  · next hb _ => exact absurd hb hs
  · rfl

end

/-! ### A contribution arrives (R282, R283) -/

section
variable {s : State} {id : Nat} {q : Xact} {c : Cl} {b : Basin} (h : AtTarget s id q c) (hk : q.kind = .message)
  (hb : (epOf s c (Fin.ofNat 256 (addrEp q.addr) : Fin 256).val).basin = some b)
include h hk hb

/-- A contribution by its checks in turn. -/
theorem exec_basinContribution : exec (.basinContribution id) s = .next (
    let e : Fin 256 := Fin.ofNat 256 (addrEp q.addr)
    let r := epOf s c e.val
    let tr := leNat ((q.data.drop 32).take 8)
    if BitVec.ofNat 32 (fld tr 32 32) ≠ r.gen then answer q 0x0A [] s
    else if fld tr 24 5 ≠ b.format.toNat then answer q 0x0D [] s
    else if b.chunks ≤ addrLand q.addr / 32 then answer q 0x03 [] (countWindow c s)
    else if 64 ≤ (combinerOf s c).length then s
    else answer q 0x00 [] (setCombiner c (combinerOf s c ++ [⟨e, addrLand q.addr / 32, q.data.take 32, r.gen⟩]) s)) := by
  refine congrArg Host.Outcome.next ((atTarget_serves h (by simp [hk]) _).trans ?_)
  simp only [hb]

end

/-! ### What an access to SRAM with its error code leaves (R198, R199) -/

/-- The two states agree in synchronisation and in SRAM. -/
abbrev KeepsSyncSram (s t : State) : Prop := t.sync = s.sync ∧ t.mem.sram = s.mem.sram

theorem KeepsSyncSram.trans {s t u : State} (h : KeepsSyncSram s t) (g : KeepsSyncSram t u) : KeepsSyncSram s u :=
  ⟨g.1.trans h.1, g.2.trans h.2⟩

theorem OnlyEvents.keepsSyncSram {s t : State} (h : OnlyEvents s t) : KeepsSyncSram s t := ⟨h.sync, h.sram⟩

theorem OnlyReports.keepsSyncSram {s t : State} (h : OnlyReports s t) : KeepsSyncSram s t := by
  rw [h]
  exact ⟨rfl, rfl⟩

theorem postEccCorrected_keeps (unit : BitVec 32) (tide addr : Word) (n : Nat) (s : State) :
    KeepsSyncSram s (postEccCorrected unit tide addr n s) := by
  unfold postEccCorrected
  extract_lets k old total win soon
  split
  · exact ⟨rfl, rfl⟩
  · exact (postTo_only _ _ _ _ _ _ _).keepsSyncSram

theorem postEccUncorrected_keeps (unit : BitVec 32) (p : Option (Fin 64)) (tide addr : Word) (by_ : BitVec 32) (kind loc : Nat) (s : State) :
    KeepsSyncSram s (postEccUncorrected unit p tide addr by_ kind loc s) := by
  unfold postEccUncorrected
  extract_lets soon
  split
  · exact ⟨rfl, rfl⟩
  · exact (postEvent_only _ _ _ _ _ _).keepsSyncSram

theorem addStrikes_keeps (stack : Bool) (err : SMap Nat) (us : List Nat) (s : State) : KeepsSyncSram s (addStrikes stack err us s) := by
  unfold addStrikes
  extract_lets l
  split <;> exact ⟨rfl, rfl⟩

theorem sramErr_keeps (err : SMap Nat) (s : State) : KeepsSyncSram s { s with mem := { s.mem with sramErr := err } } := ⟨rfl, rfl⟩

theorem sramError_keeps (c : Cl) (corr bad : List Nat) (ra : Bool) (unit : BitVec 32) (s : State) :
    KeepsSyncSram s (sramError c corr bad ra unit s) := by
  unfold sramError
  split
  · exact ⟨rfl, rfl⟩
  · extract_lets old addr fails new mem s1 s2 s3 s4
    have h1 : KeepsSyncSram s s1 := ⟨rfl, rfl⟩
    have h3 : KeepsSyncSram s s3 := (h1.trans (counterWrap_only _ _ _ _ _).keepsSyncSram).trans (counterWrap_only _ _ _ _ _).keepsSyncSram
    have h4 : KeepsSyncSram s s4 := by
      unfold s4
      split
      · exact h3
      · exact h3.trans (postEccCorrected_keeps _ _ _ _ _)
    split
    · exact h4
    · exact h4.trans (postEccUncorrected_keeps _ _ _ _ _ _ _ _)

theorem sramRead_keeps (a : Word) (n : Nat) (ra : Bool) (unit : BitVec 32) (s : State) : KeepsSyncSram s (sramRead a n ra unit s).2.2 := by
  unfold sramRead
  split
  · exact ⟨rfl, rfl⟩
  · have hstrikes (us : List Nat) (soft : Bool) : KeepsSyncSram s (if soft then s else addStrikes false s.mem.sramErr us s) := by
      split
      · exact ⟨rfl, rfl⟩
      · exact addStrikes_keeps _ _ _ _
    dsimp only
    rw [apply_ite (fun r : Byte × List Byte × State => r.2.2), ite_self]
    exact ((hstrikes _ _).trans (sramErr_keeps _ _)).trans (sramError_keeps _ _ _ _ _ _)

theorem sramWrite_sync (a : Word) (d : List Byte) (unit : BitVec 32) (s : State) : (sramWrite a d unit s).2.sync = s.sync := by
  unfold sramWrite
  split
  · rfl
  · dsimp only
    rw [apply_ite (fun r : Byte × State => r.2.sync), ite_self]
    exact ((addStrikes_keeps _ _ _ _).trans (sramError_keeps _ _ _ _ _ _)).1

/-! ### Combining (R283, R284) -/

/-- The elements of a chunk combined with those of a contribution. -/
def combinedElems (b : Basin) (f : EFmt) (chunk adds : List Byte) : List Num :=
  (List.range (256 / f.bits)).map fun i =>
    combineElem b f ((unpack (leNat chunk) f.bits (256 / f.bits)).getD i 0) ((unpack (leNat adds) f.bits (256 / f.bits)).getD i 0)

/-- The combined elements are written, unless the chunk could not be read: `m` is what reading it gave. -/
def combinedWritten (c : Cl) (a : Word) (f : EFmt) (outs : List Num) (m : Byte × List Byte × State) : State :=
  if m.1 ≠ 0x00 then m.2.2 else (sramWrite a (leBytes 32 (pack f.bits (outs.map (·.code)))) (clUnit c) m.2.2).2

/-- The NaNs and overflows of a combination are reported (R59, R143). -/
def combinedReported (c : Cl) (ep : Fin 256) (format : Nat) (outs : List Num) (s : State) : State :=
  let nans := outs.filter fun o => o.cause != 0
  reportOvf c (clUnit c) (outs.countP (·.ovf)) (match nans with
    | o :: _ => reportNan c (.basin c) (clUnit c) 4 format o.cause (BitVec.ofNat 64 ep.val) nans.length s
    | [] => s)

/-- A basin's count has reached its target (R284). -/
def basinHit (b : Basin) : Bool := b.target != 0 && b.count + 1 == b.target

/-- The basin counts a contribution; at its target it is DONE and notifies (R284). -/
def basinCounted (c : Cl) (ep : Fin 256) (note : Option NoteRef) (b : Basin) (s : State) : State :=
  let u := setEp c ep.val { epOf s c ep.val with basin := some { b with count := b.count + 1, done := b.done || basinHit b } } s
  if basinHit b then notifyOpt c note u else u

theorem combinedWritten_sync (c : Cl) (a : Word) (f : EFmt) (outs : List Num) (m : Byte × List Byte × State) :
    (combinedWritten c a f outs m).sync = m.2.2.sync := by
  unfold combinedWritten
  split
  · rfl
  · exact sramWrite_sync _ _ _ _

theorem combinedReported_onlyReports (c : Cl) (ep : Fin 256) (format : Nat) (outs : List Num) (s : State) :
    OnlyReports s (combinedReported c ep format outs s) := by
  unfold combinedReported
  dsimp only
  split
  · exact (reportNan_onlyReports _ _ _ _ _ _ _ _ _).trans (reportOvf_onlyReports _ _ _ _)
  · exact reportOvf_onlyReports _ _ _ _

theorem notifyOpt_one (c : Cl) (n : Option NoteRef) (s : State) :
    (notifyOpt c n s).sync = { s.sync with notes := s.sync.notes ++ n.toList.map fun o => ⟨c, o, 1, .none⟩ } ∧
      (notifyOpt c n s).mem = s.mem := by
  cases n with
  | none => exact ⟨by simp [notifyOpt], rfl⟩
  | some n => exact ⟨rfl, rfl⟩

theorem basinCounted_effect (c : Cl) (ep : Fin 256) (note : Option NoteRef) (b : Basin) (s : State) :
    let t := basinCounted c ep note b s
    (epOf t c ep.val).basin = some { b with count := b.count + 1, done := b.done || basinHit b } ∧
      t.sync.combiner = s.sync.combiner ∧ t.mem.sram = s.mem.sram ∧
      t.sync.notes = s.sync.notes ++ (if basinHit b then note.toList.map (fun o => ⟨c, o, 1, .none⟩) else []) := by
  unfold basinCounted
  extract_lets r u t
  have hu : (epOf u c ep.val).basin = some { b with count := b.count + 1, done := b.done || basinHit b } := by
    rw [epOf_setEp_self]
  obtain ⟨hsync, hmem⟩ := notifyOpt_one c note u
  unfold t
  split
  · have hep := epOf_congr (s := u) (t := notifyOpt c note u) (by rw [hsync]) c ep.val
    exact ⟨by rw [hep, hu], by rw [hsync]; rfl, by rw [hmem]; rfl, by rw [hsync]; rfl⟩
  · exact ⟨hu, rfl, rfl, (List.append_nil _).symm⟩

/-- A contribution combined into its chunk, where reading the chunk gave `m`. -/
def combinedInto (c : Cl) (k : Contribution) (r : EpRec) (b : Basin) (f : EFmt) (m : Byte × List Byte × State) : State :=
  let outs := combinedElems b f m.2.1 k.data
  basinCounted c k.ep r.note b
    (combinedReported c k.ep b.format.toNat outs (combinedWritten c (clAddr 1 c (r.queue + 32 * k.chunk)) f outs m))

/-- What combining leaves, of a state `u` in which the chunk is read. -/
theorem combinedInto_effect {u : State} {m : Byte × List Byte × State} (hm : KeepsSyncSram u m.2.2) (c : Cl) (k : Contribution) (r : EpRec)
    (b : Basin) (f : EFmt) :
    let outs := combinedElems b f m.2.1 k.data
    let t := combinedInto c k r b f m
    t.sync.combiner = u.sync.combiner ∧
      (epOf t c k.ep.val).basin = some { b with count := b.count + 1, done := b.done || basinHit b } ∧
      t.sync.notes = u.sync.notes ++ (if basinHit b then (r.note.toList.map fun o => ⟨c, o, 1, .none⟩) else []) ∧
      (m.1 = 0x00 → t.mem.sram =
        (sramWrite (clAddr 1 c (r.queue + 32 * k.chunk)) (leBytes 32 (pack f.bits (outs.map (·.code)))) (clUnit c) m.2.2).2.mem.sram) ∧
      (m.1 ≠ 0x00 → t.mem.sram = u.mem.sram) := by
  unfold combinedInto
  extract_lets outs t
  obtain ⟨hbasin, hcombiner, hsram, hnotes⟩ := basinCounted_effect c k.ep r.note b
    (combinedReported c k.ep b.format.toNat outs (combinedWritten c (clAddr 1 c (r.queue + 32 * k.chunk)) f outs m))
  obtain ⟨hreadSync, hreadSram⟩ := hm
  obtain ⟨hreportSync, hreportSram⟩ := (combinedReported_onlyReports c k.ep b.format.toNat outs
    (combinedWritten c (clAddr 1 c (r.queue + 32 * k.chunk)) f outs m)).keepsSyncSram
  have hsync := hreportSync.trans ((combinedWritten_sync c (clAddr 1 c (r.queue + 32 * k.chunk)) f outs m).trans hreadSync)
  rw [hsync] at hcombiner hnotes
  rw [hreportSram] at hsram
  refine ⟨hcombiner, hbasin, hnotes, fun hok => hsram.trans ?_, fun hbad => hsram.trans ?_⟩
  · rw [combinedWritten, if_neg (not_not_intro hok)]
  · rw [combinedWritten, if_pos hbad, hreadSram]

theorem combinerOf_setCombiner_self (c : Cl) (l : List Contribution) (s : State) : combinerOf (setCombiner c l s) c = l :=
  SMap.get_set_self _ _ _ _

theorem exec_basinCombine_idle {s : State} {c : Cl} (h : combinerOf s c = [] ∨ arithOn s c = false) :
    exec (.basinCombine c) s = .next s := by
  change execBasinCombine c s = _
  unfold execBasinCombine
  cases hl : combinerOf s c with
  | nil => rfl
  | cons k rest => exact congrArg _ (if_pos (by simp [h.resolve_left (by simp [hl])]))

section
variable {s : State} {c : Cl} {k : Contribution} {rest : List Contribution} {b : Basin} {f : EFmt}
  (hl : combinerOf s c = k :: rest) (hon : arithOn s c = true) (hb : (epOf s c k.ep.val).basin = some b)
  (hf : elemFmt b.format.toNat = some f)
include hl hon hb hf

theorem exec_basinCombine : exec (.basinCombine c) s = .next (
    let r := epOf s c k.ep.val
    let u := setCombiner c rest s
    if r.gen ≠ k.gen then u
    else combinedInto c k r b f (sramRead (clAddr 1 c (r.queue + 32 * k.chunk)) 32 false (clUnit c) u)) := by
  have hb' : (epOf (setCombiner c rest s) c k.ep.val).basin = some b := hb
  have hf' : elemFmt ((Option.map (fun b : Basin => b.format.toNat) (some b)).getD 0) = some f := hf
  change execBasinCombine c s = _
  simp only [execBasinCombine, hl, hon, Bool.not_true, Bool.false_eq_true, if_false, hb', hf']
  rfl

end

/-! ### The watchdog of credits (R280) -/

/-- The cluster of a unit that waits for a credit. -/
def waiterCl : Waiter → Cl
  | .ctx x => x.c
  | .io d _ => d

/-- Time has come to `n`, the unit's wait is marked as reported, and cores and SRAM are as they were. -/
abbrev WaitReported (s : State) (w : Waiter) (n : Nat) (u : State) : Prop :=
  u.sync.reported = s.sync.reported ++ [w] ∧ n ≤ u.t.now ∧ u.core = s.core ∧ u.mem.sram = s.mem.sram

theorem OnlyEvents.waitReported {s u v : State} {w : Waiter} {n : Nat} (h : OnlyEvents u v) (hu : WaitReported s w n u) :
    WaitReported s w n v := by
  unfold WaitReported
  rw [h]
  exact hu

section
variable {s : State} {c : Cl} {w : Waiter} {e : Fin 256} {cls : Bool} {since : Nat} {unit : BitVec 32}
  (hw : waitOf s w = some (e, cls, since, unit))
include hw

theorem exec_channelDeadlock_silent (h : (syncRegs s c).watchdog.toNat = 0 ∨ s.sync.reported.contains w = true ∨ arithOn s c = false) :
    exec (.channelDeadlock c w) s = .next s := by
  change execChannelDeadlock c w s = _
  simp only [execChannelDeadlock, hw]
  refine congrArg _ (if_pos ?_)
  rcases h with h | h | h <;> rw [h] <;> simp

/-- The wait outlasts the watchdog and is marked as reported; what is posted of it changes no core and no SRAM. -/
theorem exec_channelDeadlock_reports (hc : waiterCl w = c) (hlim : (syncRegs s c).watchdog.toNat ≠ 0)
    (hnew : s.sync.reported.contains w = false) (hon : arithOn s c = true) :
    ∃ t, exec (.channelDeadlock c w) s = .next t ∧ WaitReported s w (since + usec (syncRegs s c).watchdog.toNat) t := by
  have hlate : since + usec (syncRegs s c).watchdog.toNat ≤ (waitUntil s (since + usec (syncRegs s c).watchdog.toNat)).t.now :=
    Nat.le_max_right _ _
  change ∃ t, execChannelDeadlock c w s = .next t ∧ _
  simp only [execChannelDeadlock, hw]
  rw [if_neg]
  · refine ⟨_, rfl, ?_⟩
    split
    · exact ⟨rfl, hlate, rfl, rfl⟩
    · next p hp =>
      refine (postEvent_only _ _ _ _ _ _).waitReported ?_
      split <;> exact ⟨rfl, hlate, rfl, rfl⟩
  · cases w <;> simp_all [waiterCl]

end

/-! ### The clauses of opening, closing and basins -/

/-- Settles O19: instructions by their words, packets by the endpoint they meet, basins by their counts, waits by the watchdog. -/
theorem channelsOpenAndBasins : Obligations.ChannelsOpenAndBasins := by
  unfold Obligations.ChannelsOpenAndBasins
  refine ⟨⟨fun s x rd re rs h => ?_, fun s x rd re ra h => ?_, fun s id q c h hk => ?_, ⟨rfl, rfl⟩,
      fun s id q x e rd st d h hwho huse ha => ?_⟩,
    ⟨fun s x rd re h => ?_, fun s id q c h hk => ?_, fun s => ⟨exec_checkedChannelBreak_idle, fun hfallen => ?_⟩⟩,
    fun s who c e v h h4 h16 => ⟨exec_setCursor_moves h h4 h16, exec_setCursor_outside h h4 h16, exec_setCursor_elsewhere h h4 h16,
      fun b => exec_basinClear_clears h h4 h16, exec_basinClear_elsewhere h h4 h16⟩,
    fun s who c e v h hv => ?_, fun s id q c b h hk hb => ?_, fun s c => ⟨exec_basinCombine_idle, fun k rest b f hl hon hb hf => ?_⟩,
    fun b f x y => rfl, fun s c w hc e cls since unit hw => ⟨exec_channelDeadlock_silent hw, exec_channelDeadlock_reports hw ?_⟩⟩
  · exact ⟨fun hst => (exec_chaccept h).trans (congrArg _ (if_pos hst)),
      fun hst hb => (exec_chaccept h).trans (congrArg _ ((if_neg (not_not_intro hst)).trans (if_neg (ne_true_of_eq_false hb)))),
      fun hst hb => (exec_chaccept h).trans (congrArg _ ((if_neg (not_not_intro hst)).trans (if_pos hb)))⟩
  · exact ⟨fun hst => (exec_chopen h).trans (congrArg _ (if_pos hst)),
      fun hst => ⟨_, List.take_left' (length_leBytes 4 _), (exec_chopen h).trans (congrArg _ (if_neg (not_not_intro hst)))⟩⟩
  · refine ⟨fun hst => ⟨exec_openArrive_refused h hk hst, exec_openArrive_opens h hk hst⟩, fun b hst hb => ⟨fun hq => ?_, fun hq hs hc => ?_, fun hq hfree => ?_⟩,
      exec_openArrive_closed h hk, exec_openArrive_taken h hk⟩
    · exact (exec_openArrive_basin h hk hst hb).trans (congrArg _ (if_pos hq))
    · exact (exec_openArrive_basin h hk hst hb).trans (congrArg _ ((if_neg (not_not_intro hq)).trans (if_pos (by rw [hs, hc]; rfl))))
    · refine (exec_openArrive_basin h hk hst hb).trans (congrArg _ ((if_neg (not_not_intro hq)).trans (if_neg ?_)))
      rcases hfree with hfree | hfree <;> rw [hfree] <;> simp
  · refine ⟨_, exec_openReplyArrive h hwho huse ha, openReplied_writes .., ?_⟩
    rw [epOf_openReplied]
    refine ⟨fun hopen hconn hst => epOf_openSettled_refused hopen hconn hst, fun hopen hconn hst => ?_, fun hother => ?_⟩
    · rw [epOf_openSettled_opened (s := dropXact id s) hopen hconn hst]
      refine ⟨rfl, rfl, openedEp_channel _, fun hbasin => ?_⟩
      obtain ⟨hcontributor, hreq, hrsp⟩ := openedEp_contributor (epOf (dropXact id s) x.c e.val) hbasin
      exact ⟨hcontributor, hreq, hrsp, rfl, rfl⟩
    · rw [openSettled_other (s := dropXact id s) hother]
      rfl
  · exact ⟨fun hbad => (next_issued h).trans (congrArg _ (if_pos hbad)),
      fun hw => (next_issued h).trans (congrArg _ (if_neg (not_not_intro hw))), epOf_closeEp_state _ _ _, closeEp_tells⟩
  · exact ⟨fun hst => (exec_closeArrive h hk).trans (congrArg _ (if_pos hst)),
      fun hst => (exec_closeArrive h hk).trans (congrArg _ (if_neg hst))⟩
  · exact ⟨_, exec_checkedChannelBreak hfallen, rfl, fun c e hcross => foldl_leaveOpen_broken _ s (.inr (mem_brokenEps hcross))⟩
  · exact ⟨congrArg _ (epCmd_reserved h hv _), congrArg _ (epCmd_reserved h hv _)⟩
  · have hrun := exec_basinContribution h hk hb
    refine ⟨fun hgen => hrun.trans (congrArg _ (if_pos hgen)), fun hgen => ?_⟩
    rw [hrun, if_neg (not_not_intro hgen)]
    refine ⟨fun hfmt => congrArg _ (if_pos hfmt), fun hfmt => ?_⟩
    rw [if_neg (not_not_intro hfmt)]
    exact ⟨fun hout => congrArg _ (if_pos hout),
      fun hin hfull => congrArg _ ((if_neg (Nat.not_le.2 hin)).trans (if_pos hfull)),
      fun hin hroom => congrArg _ ((if_neg (Nat.not_le.2 hin)).trans (if_neg (Nat.not_le.2 hroom)))⟩
  · have hrun := exec_basinCombine hl hon hb hf
    refine ⟨fun hgen => hrun.trans (congrArg _ (if_pos hgen)), fun hgen => ⟨_, hrun.trans (congrArg _ (if_neg (not_not_intro hgen))), ?_⟩⟩
    obtain ⟨hcombiner, hrest⟩ := combinedInto_effect (sramRead_keeps _ 32 false (clUnit c) (setCombiner c rest s)) c k (epOf s c k.ep.val) b f
    refine ⟨?_, hrest⟩
    rw [combinerOf, hcombiner]
    exact combinerOf_setCombiner_self c rest s
  · cases w <;> exact hc

end Sys2Proof.Machine
end

section
/-! PROOFS. A local tide and its corrections (spec/11_time_and_clocks.md R288, R291). -/

namespace Sys2Proof.Machine
open Sys2Proof

/-- What a tide has added `d` cycles after its start, in 2^-27 units, its correction included. -/
def tideGain (r : TideRec) (d : Nat) : Int := ((d * r.rate.toNat : Nat) : Int) + corrFx r d (d * r.rate.toNat)

theorem tideFx_eq (r : TideRec) (n : Nat) : tideFx r n = (r.base + tideGain r (n - r.since)).toNat := by
  simp only [tideFx, tideGain, Nat.cast_add, add_assoc]

/-- At its start a tide has its base: nothing is corrected yet. -/
theorem tideGain_zero (r : TideRec) : tideGain r 0 = 0 := by
  unfold tideGain corrFx
  split <;> simp

theorem tideFx_since (r : TideRec) : tideFx r r.since = r.base := by
  simp [tideFx_eq, tideGain_zero]

/-- A correction spread evenly takes at most 2^26 from a cycle, half of the least RATE. -/
theorem spread_succ {k w : Int} (hw : 0 < w) (hk : -(2 ^ 26 * w) ≤ k) {m m' : Int} (hm : m' = m ∨ m' = m + 1) :
    k * m / w - 2 ^ 26 ≤ k * m' / w := by
  rcases hm with rfl | rfl
  · omega
  · calc k * m / w - 2 ^ 26 = (k * m + -2 ^ 26 * w) / w := by rw [Int.add_mul_ediv_right _ _ hw.ne']; rfl
      _ ≤ k * (m + 1) / w := Int.ediv_le_ediv hw (by rw [mul_add, mul_one]; omega)

theorem tideGain_even_succ {r : TideRec} {e : Int} (hrate : 2 ^ 27 ≤ r.rate.toNat) (hwin : 128 ≤ r.win) (he : e.natAbs ≤ 64)
    (hcorr : r.corr = .even e) (d : Nat) : tideGain r d ≤ tideGain r (d + 1) := by
  have hspread := spread_succ (k := e * 2 ^ 27) (w := (max r.win 1 : Nat)) (by omega) (by omega)
    (m := (min d r.win : Nat)) (m' := (min (d + 1) r.win : Nat)) (by omega)
  simp only [tideGain, corrFx, hcorr, Nat.succ_mul]
  omega

/-- Half rate is the least that a tide runs behind by while it absorbs. -/
theorem tideGain_slow_mono {r : TideRec} {e : Nat} (hcorr : r.corr = .slow e) : Monotone (tideGain r) := by
  intro d d' h
  have hadv := Nat.mul_le_mul_right r.rate.toNat h
  simp only [tideGain, corrFx, hcorr]
  omega

theorem tideGain_none_mono {r : TideRec} (hcorr : r.corr = .none) : Monotone (tideGain r) := by
  intro d d' h
  have hadv := Nat.mul_le_mul_right r.rate.toNat h
  simp only [tideGain, corrFx, hcorr]
  omega

theorem tideFx_mono {r : TideRec} (hgain : Monotone (tideGain r)) : Monotone (tideFx r) := by
  intro n m h
  have := hgain (Nat.sub_le_sub_right h r.since)
  rw [tideFx_eq, tideFx_eq]
  omega

/-- A packet's correction starts from the tide it meets, or ahead of it. -/
theorem correctTide_base (s : State) (r : TideRec) (pkt : BitVec 128) :
    tideFx r (netCycles s.t s.t.now) ≤ (correctTide s r pkt).base := by
  simp only [correctTide]
  split
  · exact Nat.le_add_right _ _
  · exact le_rfl

/-- Settles O28: by the kind of correction under way, then by the base that a packet sets. -/
theorem localTideNeverDecreases : Obligations.LocalTideNeverDecreases := by
  unfold Obligations.LocalTideNeverDecreases
  refine ⟨fun r n m hrate hwin _ hnm hcorr => tideFx_mono ?_ hnm, fun s r pkt => ?_⟩
  · rcases hcorr with hnone | ⟨e, he, heven⟩ | ⟨e, hslow⟩
    · exact tideGain_none_mono hnone
    · exact monotone_nat_of_le_succ (tideGain_even_succ hrate hwin he heven)
    · exact tideGain_slow_mono hslow
  · calc tideFx r (netCycles s.t s.t.now) ≤ (correctTide s r pkt).base := correctTide_base s r pkt
      _ = tideFx (correctTide s r pkt) (netCycles s.t s.t.now) := (tideFx_since (correctTide s r pkt)).symm

end Sys2Proof.Machine
end

section
/-! PROOFS. TIDE packets, the discipline of Atbin's tide, and the tide over Ocsal (spec/11_time_and_clocks.md R289-R291,
16_ocsal_fabric.md R415, R420, R432). -/

namespace Sys2Proof.Machine
open Sys2Proof

/-! ### TIDE packets on the tree (R290, R291) -/

section
variable {s : State} {c : Cl} {pkt : BitVec 128}

theorem exec_tideReceive_none (h : ∀ e ∈ s.t.tides, e.dst ≠ c ∨ e.pkt ≠ pkt) : exec (.tideReceive c pkt) s = .next s := by
  have hnone : (s.t.tides.find? fun e => e.dst == c && e.pkt == pkt) = none :=
    List.find?_eq_none.2 fun e he => by simpa [imp_iff_not_or] using h e he
  change execTideReceive c pkt s = _
  simp only [execTideReceive, hnone]

/-- The state in which a TIDE packet has left the tree's links. -/
def tideTaken (e : TidePkt) (s : State) : State := waitUntil { s with t := { s.t with tides := s.t.tides.erase e } } e.due

/-- A router takes a packet, with its last hop added to DELAY. -/
def tidePassedOn (c : Cl) (p : BitVec 128) (s : State) : State :=
  tideDown c p { s with t := { s.t with locals := s.t.locals.set {} (ck c) (correctTide s (localRec s c) p) } }

theorem exec_tideReceive {e : TidePkt} (h : (s.t.tides.find? fun e => e.dst == c && e.pkt == pkt) = some e) :
    exec (.tideReceive c pkt) s = .next (
      if s.pwr.rails = false ∨ 2 ≤ (clState s c).val ∨ fld pkt.toNat 0 4 ≠ 1 then tideTaken e s
      else tidePassedOn c (withHop pkt e.hop) (tideTaken e s)) := by
  change execTideReceive c pkt s = _
  simp only [execTideReceive, h, Bool.or_eq_true, Bool.not_eq_true', decide_eq_true_eq, bne_iff_ne, or_assoc]
  rfl

end

/-- The clauses of a correction, by the error's size and sign. -/
theorem correctTide_cases (s : State) (r : TideRec) (pkt : BitVec 128) :
    let n := netCycles s.t s.t.now
    let e := (BitVec.ofNat 64 (fld pkt.toNat 64 64) + BitVec.ofNat 64 (fld pkt.toNat 8 16) - tideAt r n).toInt
    let q := correctTide s r pkt
    q.since = n ∧ q.rate.toNat = fld pkt.toNat 32 32 ∧ (64 < e → q.base = tideFx r n + e.toNat * 2 ^ 27 ∧ q.corr = .none) ∧
      (e.natAbs ≤ 64 → q.base = tideFx r n ∧ q.corr = .even e) ∧ (e < -64 → q.base = tideFx r n ∧ q.corr = .slow e.natAbs) := by
  intro n e q
  have hbase : q.base = if 64 < e then tideFx r n + e.toNat * 2 ^ 27 else tideFx r n := rfl
  have hcorr : q.corr = if e.natAbs ≤ 64 then .even e else if 0 < e then .none else .slow e.natAbs := rfl
  refine ⟨rfl, (BitVec.toNat_ofNat _ _).trans (Nat.mod_eq_of_lt (Nat.mod_lt _ (by decide))), fun h => ?_, fun h => ?_, fun h => ?_⟩
  · rw [hbase, hcorr, if_pos h, if_neg (by omega), if_pos (by omega)]
    exact ⟨rfl, rfl⟩
  · rw [hbase, hcorr, if_neg (by omega), if_pos h]
    exact ⟨rfl, rfl⟩
  · rw [hbase, hcorr, if_neg (by omega), if_neg (by omega), if_neg (by omega)]
    exact ⟨rfl, rfl⟩

theorem exec_tideSend_none {s : State} (h : meshRoot s = none ∨ s.pwr.rails = false ∨ ∃ r, meshRoot s = some r ∧ 2 ≤ (clState s r).val) :
    exec .tideSend s = .next s := by
  change execTideSend s = _
  unfold execTideSend
  cases hr : meshRoot s with
  | none => rfl
  | some r => exact congrArg _ (if_pos (by simpa [hr] using h))

/-- When the root sends next: 1 µs after its last. -/
def tideDue (s : State) : State := match s.t.tideSent with | some n => waitUntil s (n + usec 1) | none => s

/-- The root's send. -/
def tideSentBy (r : Cl) (u : State) : State :=
  let n := netCycles u.t u.t.now
  let l := localRec u r
  tideDown r (tidePacket u) { u with t := { u.t with
    seq := u.t.seq + 1, tideSent := some u.t.now,
    locals := u.t.locals.set {} (ck r) { base := max (tideFx l n) ((moduleTide u).toNat * 2 ^ 27), since := n,
                                         rate := BitVec.ofNat 32 (rootRate u), corr := .none, win := l.win } } }

theorem exec_tideSend {s : State} {r : Cl} (hroot : meshRoot s = some r) (hrails : s.pwr.rails = true) (hlive : (clState s r).val < 2) :
    exec .tideSend s = .next (tideSentBy r (tideDue s)) := by
  change execTideSend s = _
  simp only [execTideSend, hroot]
  exact congrArg _ (if_neg (by simp [hrails, hlive]))

/-! ### The discipline of Atbin's tide (R289) -/

section
variable {s : State} {stamp : BitVec 64}

theorem exec_tideDisciplineSample (ns : BitVec 64) : exec (.tideDisciplineSample ns) s = .next (
    if isManager s = true ∧ s.t.discipline = 1 then discipline ns.toNat (moduleTide s) s
    else if isManager s = true ∧ s.t.discipline = 2 then { s with t := { s.t with ptp := some (ns, moduleTide s) } }
    else s) := by
  change execTideDisciplineSample ns s = _
  simp only [execTideDisciplineSample, Bool.and_eq_true, beq_iff_eq]

theorem exec_ppsEdge_ignored (h : isManager s = false ∨ s.t.discipline ≠ 2) : exec (.ppsEdge stamp) s = .next s :=
  congrArg Host.Outcome.next (if_pos (by simpa [imp_iff_not_or] using h))

/-- The second that is named for an edge, by SET_SECONDS or by PTP. -/
def namedSecond (s : State) (stamp : BitVec 64) : Option Word := s.t.seconds.orElse fun _ => ptpSecond s stamp

/-- An edge's facility time by the disciplined tide, in ns. -/
def edgeTime (s : State) (stamp : BitVec 64) : Int := ((stamp.toNat / 16 : Nat) : Int) + s.t.origin.toInt

/-- The edge has used up the second named for it. -/
def secondUsed (s : State) : State := { s with t := { s.t with seconds := none } }

theorem exec_ppsEdge (hm : isManager s = true) (hpps : s.t.discipline = 2) : exec (.ppsEdge stamp) s = .next (
    let sec := nearSecond (edgeTime s stamp)
    if s.t.originSet = true then
      if 100000 < (edgeTime s stamp - sec * 1000000000).natAbs then secondUsed s
      else discipline (match namedSecond s stamp with | some v => v.toNat * 1000000000 | none => (sec * 1000000000).toNat) stamp (secondUsed s)
    else match namedSecond s stamp with
      | some v => discipline (v.toNat * 1000000000) stamp (secondUsed s)
      | none => secondUsed s) :=
  congrArg Host.Outcome.next (if_neg (by simp [hm, hpps]))

end

/-- How far the tide is ahead of a sample, in ns (R289). -/
def sampleOffset (f : Nat) (tide : Word) (s : State) : Int := ((tide.toNat / 16 : Nat) : Int) - ((f : Int) - s.t.origin.toInt)

/-- The clocks with a sample taken. -/
def sampled (t : Clocks) : Clocks := { t with synced := true, syncAt := t.now, holdover := false }

/-- ORIGIN by a sample. -/
def sampleOrigin (f : Nat) (tide : Word) : BitVec 64 := BitVec.ofInt 64 ((f : Int) - (tide.toNat / 16 : Nat))

section
variable {f : Nat} {tide : Word} {s : State}

theorem discipline_first (h : s.t.originSet = false) : (discipline f tide s).t =
    { sampled s.t with origin := sampleOrigin f tide, originSet := true, offset := 0 } :=
  congrArg State.t (if_pos (by rw [h]; rfl))

theorem discipline_step (h : s.t.originSet = true) (hoff : 1000000 < (sampleOffset f tide s).natAbs) : (discipline f tide s).t =
    { sampled s.t with origin := sampleOrigin f tide, rebases := s.t.rebases + 1, offset := sampleOffset f tide s
                       atbin := s.t.atbin.restart s.t.now .none } :=
  congrArg State.t ((if_neg (by rw [h]; decide)).trans (if_pos hoff))

theorem discipline_slew (h : s.t.originSet = true) (hoff : (sampleOffset f tide s).natAbs ≤ 1000000) : (discipline f tide s).t =
    { sampled s.t with offset := sampleOffset f tide s, atbin := s.t.atbin.restart s.t.now (.ppm (-(sampleOffset f tide s * 16))) } :=
  congrArg State.t ((if_neg (by rw [h]; decide)).trans (if_neg (Nat.not_lt.2 hoff)))

/-- Whatever a sample does, it ends holdover and leaves an origin. -/
theorem discipline_synced (f : Nat) (tide : Word) (s : State) :
    let t := (discipline f tide s).t
    t.synced = true ∧ t.holdover = false ∧ t.syncAt = s.t.now ∧ t.originSet = true := by
  cases hset : s.t.originSet with
  | false =>
    rw [discipline_first hset]
    exact ⟨rfl, rfl, rfl, rfl⟩
  | true =>
    rcases Nat.lt_or_ge 1000000 (sampleOffset f tide s).natAbs with hoff | hoff
    · rw [discipline_step hset hoff]
      exact ⟨rfl, rfl, rfl, hset⟩
    · rw [discipline_slew hset hoff]
      exact ⟨rfl, rfl, rfl, hset⟩

end

theorem exec_disciplineSourceLost (s : State) : exec .disciplineSourceLost s = .next (
    if isManager s = false ∨ s.t.discipline = 0 then s
    else
      let u := waitUntil s (s.t.syncAt + usec 2000000)
      { u with t := { u.t with synced := false, holdover := true } }) := by
  change execDisciplineSourceLost s = _
  simp only [execDisciplineSourceLost, Bool.or_eq_true, Bool.not_eq_true', beq_iff_eq]

/-! ### The tide over Ocsal (R415, R420, R432) -/

/-- A numbered worker hears a TIDE that comes by an UP port. -/
abbrev HearsTide (s : State) (port : Fin 16) : Prop :=
  isWorker s = true ∧ s.fab.num.isSome = true ∧ (portRec s port).state = .up

/-- The upstream port noted. -/
def upstreamNoted (port : Fin 16) (s : State) : State := { s with fab := { s.fab with upstream := some (chooseUpstream port s) } }

theorem exec_ocsalTide (s : State) (port : Fin 16) (tide corr : Word) (rate : BitVec 32) (m : BitVec 8) :
    let u := upstreamNoted port s
    exec (.ocsalTide port tide corr rate m) s = .next (
      if ¬ HearsTide s port then s
      else if chooseUpstream port s ≠ port then u
      else correctCopy (tide + corr + BitVec.ofNat 64 (linkDelay (portRec u port))) { u with fab := { u.fab with tideAt := u.t.now } }) := by
  have hdeaf : (!isWorker s || s.fab.num.isNone || (portRec s port).state != .up) = true ↔ ¬ HearsTide s port := by
    simp [HearsTide, imp_iff_not_or, or_assoc, Option.isSome_iff_ne_none]
  change execOcsalTide port tide corr rate m s = _
  simp only [execOcsalTide, hdeaf]
  rfl

/-- A module that sends TIDE on its ports. -/
abbrev SendsTide (s : State) : Prop :=
  s.fab.role = .manager ∨ (isWorker s = true ∧ s.fab.upstream.isSome = true ∧ s.t.holdover = false)

/-- A module that has sent TIDE: the manager by its UP ports, a worker by those but its upstream one. -/
def tideSentOn (u : State) : State :=
  let ports := (List.finRange 16).filter fun p => (portRec u p).state == .up && (u.fab.role == .manager || u.fab.upstream != some p)
  { u with out := u.out ++ ports.map fun p => Out.control p (portRec u p).peer 0x1 (tidePayload u) }

theorem exec_ocsalTideSend (s : State) :
    exec .ocsalTideSend s = .next (if ¬ SendsTide s then s else tideSentOn (waitUntil s (s.t.now + usec 10))) := by
  have hsilent : (!(s.fab.role == .manager || (isWorker s && s.fab.upstream.isSome && !s.t.holdover))) = true ↔ ¬ SendsTide s := by
    simp [SendsTide, imp_iff_not_or, or_assoc]
  change execOcsalTideSend s = _
  simp only [execOcsalTideSend, hsilent]
  rfl

/-- A worker that follows a tide, and may lose it. -/
abbrev FollowsTide (s : State) : Prop := isWorker s = true ∧ s.fab.num.isSome = true ∧ s.t.holdover = false

theorem exec_tideHoldover (s : State) : exec .tideHoldover s = .next (
    if ¬ FollowsTide s then s
    else
      let u := waitUntil s (s.fab.tideAt + usec 1000)
      { u with t := { u.t with holdover := true } }) := by
  have hfree : (!isWorker s || s.fab.num.isNone || s.t.holdover) = true ↔ ¬ FollowsTide s := by
    simp [FollowsTide, imp_iff_not_or, or_assoc, Option.isSome_iff_ne_none]
  change execTideHoldover s = _
  simp only [execTideHoldover, hfree]

/-- Settles O29: packets by the router they meet, samples and edges by the source in force, the tide over Ocsal by the role. -/
theorem tideDiscipline : Obligations.TideDiscipline := by
  unfold Obligations.TideDiscipline
  refine ⟨⟨fun s c pkt h => exec_tideReceive_none h, fun s c pkt e h => ⟨fun hrails hlive htide => ?_, fun hnot => ?_⟩, correctTide_cases,
      fun s => exec_tideSend_none, fun s r => exec_tideSend⟩,
    ⟨fun s ns => ⟨fun hm hptp => ?_, fun hm hpps => ?_, fun hnot => ?_⟩, fun s stamp => exec_ppsEdge_ignored, fun s stamp hm hpps => ?_,
      fun s f tide => ?_, fun s => ⟨fun hm hd => ?_, fun hnot => ?_⟩⟩,
    ⟨fun s port tide corr rate m => ?_, fun s => ⟨fun hnot => ?_, fun hsends => ?_⟩, fun s => ⟨fun hdue => ?_, fun hnot => ?_⟩,
      fun s port rtt corr => ⟨fun hup => congrArg _ (if_neg (not_not_intro hup)), fun hdown => congrArg _ (if_pos hdown)⟩⟩⟩
  · rw [exec_tideReceive h, if_neg (by simp [hrails, hlive, htide])]
    rfl
  · rw [exec_tideReceive h, if_pos hnot]
    rfl
  · rw [exec_tideDisciplineSample, if_pos ⟨hm, hptp⟩]
  · rw [exec_tideDisciplineSample, if_neg (by simp [hpps]), if_pos ⟨hm, hpps⟩]
  · have hneither (d : BitVec 2) (hd : d = 1 ∨ d = 2) : ¬ (isManager s = true ∧ s.t.discipline = d) := by
      rintro ⟨hm, rfl⟩
      exact hnot.elim (ne_false_of_eq_true hm) fun h => hd.elim h.1 h.2
    rw [exec_tideDisciplineSample, if_neg (hneither 1 (.inl rfl)), if_neg (hneither 2 (.inr rfl))]
  · have hrun := exec_ppsEdge (stamp := stamp) hm hpps
    refine ⟨fun v hset hv => ?_, fun hset hv => ?_, fun hset hfar => ?_, fun v hset hnear hv => ?_, fun hset hnear hv => ?_⟩
    · rw [hrun, if_neg (ne_true_of_eq_false hset), show namedSecond s stamp = some v from hv]
      rfl
    · rw [hrun, if_neg (ne_true_of_eq_false hset), show namedSecond s stamp = none from hv]
      rfl
    · rw [hrun, if_pos hset]
      exact congrArg _ (if_pos hfar)
    · rw [hrun, if_pos hset, show namedSecond s stamp = some v from hv]
      exact congrArg _ (if_neg (Nat.not_lt.2 hnear))
    · rw [hrun, if_pos hset, show namedSecond s stamp = none from hv]
      exact congrArg _ (if_neg (Nat.not_lt.2 hnear))
  · obtain ⟨hsync, hhold, hat, horigin⟩ := discipline_synced f tide s
    refine ⟨hsync, hhold, hat, horigin, fun hset => ?_, fun hset hoff => ?_, fun hset hoff => ?_⟩
    · rw [discipline_first hset]
      exact ⟨rfl, rfl, rfl⟩
    · rw [discipline_step hset hoff]
      exact ⟨rfl, rfl, rfl, rfl⟩
    · rw [discipline_slew hset hoff]
      exact ⟨rfl, rfl, rfl⟩
  · rw [exec_disciplineSourceLost, if_neg (not_or.2 ⟨ne_false_of_eq_true hm, hd⟩)]
  · rw [exec_disciplineSourceLost, if_pos hnot]
  · have hrun := exec_ocsalTide s port tide corr rate m
    refine ⟨fun hnot => ?_, fun htakes hother => ?_, fun htakes hthis => ?_⟩
    · exact hrun.trans (congrArg _ (if_pos hnot))
    · exact hrun.trans (congrArg _ ((if_neg (not_not_intro htakes)).trans (if_pos hother)))
    · exact hrun.trans (congrArg _ ((if_neg (not_not_intro htakes)).trans (if_neg (not_not_intro hthis))))
  · exact (exec_ocsalTideSend s).trans (congrArg _ (if_pos hnot))
  · exact (exec_ocsalTideSend s).trans (congrArg _ (if_neg (not_not_intro hsends)))
  · exact (exec_tideHoldover s).trans (congrArg _ (if_neg (not_not_intro hdue)))
  · exact (exec_tideHoldover s).trans (congrArg _ (if_pos hnot))

end Sys2Proof.Machine
end

section
/-! PROOFS. The retention governor, and clock nodes that lose lock (spec/11_time_and_clocks.md R295-R297, R306-R308,
12_power_and_heat.md R314, R339, R340). -/

namespace Sys2Proof.Machine
open Sys2Proof

theorem OnlyEvents.t {s t : State} (h : OnlyEvents s t) : t.t = s.t := by rw [h]

theorem OnlyEvents.pwr {s t : State} (h : OnlyEvents s t) : t.pwr = s.pwr := by rw [h]

/-! ### The governor (R295-R297, R339, R340) -/

section
variable {s : State} {c : Cl}

/-- A cluster that may rest. -/
abbrev MayRest (s : State) (c : Cl) : Prop :=
  sleepOf s c = .awake ∧ arithOn s c = true ∧ isWellhead s c = false ∧ clIdle s c = true ∧ barrierSoon s c = false

theorem exec_retentionEnter_no (h : ¬ MayRest s c) : exec (.retentionEnter c) s = .next s :=
  congrArg Host.Outcome.next (if_pos (by simpa [MayRest, imp_iff_not_or, or_assoc] using h))

/-- RET_MIN of the cluster's partition, 10 µs where it has none (R296). -/
def retMinOf (s : State) (c : Cl) : Nat := ((owner s c).bind (partOf s)).elim 10 (·.retMin)

/-- GOV_HOLD of the cluster's partition, 20 µs where it has none (R296). -/
def govHoldOf (s : State) (c : Cl) : Nat := ((owner s c).bind (partOf s)).elim 20 (·.govHold)

theorem exec_retentionEnter (h : MayRest s c) : exec (.retentionEnter c) s = .next (
    match nextEvent s c with
    | some d => if retMinOf s c * 16000 ≤ d then fallAsleep c s else s
    | none => fallAsleep c (waitUntil s (s.t.now + usec (govHoldOf s c)))) := by
  unfold retMinOf govHoldOf
  refine congrArg Host.Outcome.next ((if_neg (by simpa [MayRest, and_assoc] using h)).trans ?_)
  cases (owner s c).bind (partOf s) <;> rfl

theorem exec_governorWake_idle (h : sleepOf s c ≠ .retention ∨ nextEvent s c = none) : exec (.governorWake c) s = .next s := by
  change execGovernorWake c s = _
  unfold execGovernorWake
  by_cases hs : sleepOf s c = .retention
  · rw [if_neg (by simp [hs]), h.resolve_left (not_not_intro hs)]
  · rw [if_pos (by simpa using hs)]

theorem exec_governorWake {d : Nat} (hs : sleepOf s c = .retention) (hd : nextEvent s c = some d) : exec (.governorWake c) s =
    .next (startWake c (if 27200 < d then waitTide s c (localTide s c + BitVec.ofNat 64 (d - 27200)) else s)) := by
  change execGovernorWake c s = _
  unfold execGovernorWake
  rw [if_neg (by simp [hs]), hd]

theorem exec_arrivalWake : exec (.arrivalWake c) s =
    .next (if sleepOf s c = .retention ∧ arrival s c = true then startWake c s else s) := by
  change execArrivalWake c s = _
  simp only [execArrivalWake, Bool.and_eq_true, beq_iff_eq]

theorem exec_wakeComplete {n : Nat} (h : sleepOf s c = .waking n) : exec (.wakeComplete c) s = .next (awaken c (waitUntil s n)) := by
  change execWakeComplete c s = _
  simp only [execWakeComplete, h]

theorem exec_wakeComplete_idle (h : ∀ n, sleepOf s c ≠ .waking n) : exec (.wakeComplete c) s = .next s := by
  change execWakeComplete c s = _
  unfold execWakeComplete
  cases hs : sleepOf s c with
  | waking n => exact absurd hs (h n)
  | awake => rfl
  | retention => rfl
  | off => rfl

theorem sleepOf_setSleep_self (v : Sleep) : sleepOf (setSleep c v s) c = v := (sleepOf_setSleep c c v s).trans (if_pos rfl)

/-- A cluster that may park (R340). -/
abbrev MayPark (s : State) (c : Cl) : Prop :=
  s.pwr.park = true ∧ s.boot.ready = true ∧ owner s c = none ∧ isWellhead s c = false ∧ computeOff s c = false

theorem exec_clusterPark : exec (.clusterPark c) s = .next (
    if ¬ MayPark s c then s
    else setSleep c .off (zeroCluster c (waitUntil s (max s.boot.readyAt (s.part.unboundAt.get 0 (ck c)) + usec 10000)))) := by
  have hstay : (!s.pwr.park || !s.boot.ready || (owner s c).isSome || isWellhead s c || computeOff s c) = true ↔ ¬ MayPark s c := by
    simp [MayPark, imp_iff_not_or, or_assoc, Option.isSome_iff_ne_none]
  change execClusterPark c s = _
  simp only [execClusterPark, hstay]

end

/-! ### Nodes that lose lock (R306) -/

/-- Locked fields whose nodes no chain of locked ones joins to an injection field, where those of the list lose lock. -/
def cutFields (s : State) (fs : List (Fin 192)) : List (Fin 192) :=
  let stay := (lockedFields s).filter fun f => !fs.contains f
  (lockedFields s).filter fun f => !(growFields stay 192 (injection.filter stay.contains)).contains f

theorem exec_nodeUnlocked (s : State) (fs : List (Fin 192)) : exec (.nodeUnlocked fs) s = .next (
    if s.pwr.rails = false ∨ s.t.foreOn = true then s
    else if cutFields s fs = [] then s
    else { s with t := { s.t with unlocked := s.t.unlocked ++ cutFields s fs, unlockedAt := s.t.now } }) := by
  change execNodeUnlocked fs s = _
  simp only [execNodeUnlocked, Bool.or_eq_true, Bool.not_eq_true', List.isEmpty_iff]
  rfl

/-! ### A field goes dark (R307) -/

theorem startEpoch_pwr (s : State) : (startEpoch s).pwr = s.pwr := by
  obtain ⟨u, n, hu, he, -⟩ := startEpoch_frame s
  rw [he, hu]

theorem clDark_pwr (c : Cl) (s : State) : (clDark c s).pwr = s.pwr := by
  unfold clDark
  dsimp only
  split <;> rfl

theorem loseFieldMem_pwr (s : State) (f : Fin 192) : (loseFieldMem f s).pwr = s.pwr := by
  have hzero (s : State) (c : Cl) : (zeroCluster c s).pwr = s.pwr := rfl
  exact foldl_keeps State.pwr hzero (fieldClusters f) s

/-- A field's record once it is dark. -/
def darkened (cause : Nat) (r : FieldRec) : FieldRec :=
  { r with state := .dark, cause := BitVec.ofNat 4 cause, latchN := r.latchN || cause == 4, hot := 0, crit := 0 }

/-- A field's rails are off: its memories are lost, its routers stop, and its node is no longer one to wait for. -/
def railsLost (f : Fin 192) (cause : Nat) (s : State) : State :=
  let u := (fieldClusters f).foldl (fun s c => deadRouter c (clDark c s)) (loseFieldMem f (setField f (darkened cause (fieldRec s f)) s))
  { u with t := { u.t with unlocked := u.t.unlocked.filter (· ≠ f) } }

theorem railsLost_pwr (f : Fin 192) (cause : Nat) (s : State) :
    (railsLost f cause s).pwr = (setField f (darkened cause (fieldRec s f)) s).pwr := by
  have hdark (s : State) (c : Cl) : (deadRouter c (clDark c s)).pwr = s.pwr := clDark_pwr c s
  unfold railsLost
  dsimp only
  rw [foldl_keeps State.pwr hdark, loseFieldMem_pwr]

section
variable {f : Fin 192} {s : State}

theorem fieldDark_again (h : (fieldRec s f).state = .dark) (cause : Nat) : fieldDark f cause s = s := if_pos h

theorem fieldDark_lit (h : (fieldRec s f).state ≠ .dark) (cause : Nat) :
    let u := railsLost f cause s
    fieldDark f cause s = startEpoch (postTo .fieldDark (fieldUnit f) (fieldParts s f) false (moduleTide u)
      (([BitVec.ofNat 8 cause, 0] : List Byte) ++ temp2 (fieldRec s f).temp) u) := by
  simp only [fieldDark, if_neg h, railsLost, deadRouter, darkened]

theorem fieldDark_pwr (h : (fieldRec s f).state ≠ .dark) (cause : Nat) :
    (fieldDark f cause s).pwr = (setField f (darkened cause (fieldRec s f)) s).pwr := by
  rw [fieldDark_lit h, startEpoch_pwr, (postTo_only _ _ _ _ _ _ _).pwr, railsLost_pwr]

theorem fieldRec_fieldDark (f g : Fin 192) (cause : Nat) (s : State) : fieldRec (fieldDark f cause s) g =
    if g = f ∧ (fieldRec s f).state ≠ .dark then darkened cause (fieldRec s f) else fieldRec s g := by
  by_cases h : (fieldRec s f).state = .dark
  · rw [fieldDark_again h, if_neg fun hg => hg.2 h]
  · have hset : fieldRec (fieldDark f cause s) g = fieldRec (setField f (darkened cause (fieldRec s f)) s) g := by
      simp only [fieldRec, fieldDark_pwr h]
    rw [hset, fieldRec_setField]
    simp only [h, ne_eq, not_false_iff, and_true]

/-- A dark field stays as it is while others go dark. -/
theorem fieldRec_foldl_fieldDark (h : (fieldRec s f).state = .dark) (cause : Nat) (l : List (Fin 192)) :
    fieldRec (l.foldl (fun s g => fieldDark g cause s) s) f = fieldRec s f := by
  induction l generalizing s with
  | nil => rfl
  | cons g l ih =>
    have hstep : fieldRec (fieldDark g cause s) f = fieldRec s f := by
      rw [fieldRec_fieldDark, if_neg]
      rintro ⟨rfl, hlit⟩
      exact hlit h
    exact (ih (hstep ▸ h)).trans hstep

/-- Each live field of a list goes dark, for the cause given. -/
theorem foldl_fieldDark_dark (h : (fieldRec s f).state ≠ .dark) (cause : Nat) {l : List (Fin 192)} (hf : f ∈ l) :
    fieldRec (l.foldl (fun s g => fieldDark g cause s) s) f = darkened cause (fieldRec s f) := by
  induction l generalizing s with
  | nil => exact absurd hf List.not_mem_nil
  | cons g l ih =>
    by_cases hg : f = g
    · subst hg
      have hstep : fieldRec (fieldDark f cause s) f = darkened cause (fieldRec s f) :=
        (fieldRec_fieldDark f f cause s).trans (if_pos ⟨rfl, h⟩)
      exact (fieldRec_foldl_fieldDark (by rw [hstep]; rfl) cause l).trans hstep
    · have hstep : fieldRec (fieldDark g cause s) f = fieldRec s f :=
        (fieldRec_fieldDark g f cause s).trans (if_neg fun h => hg h.1)
      exact hstep ▸ ih (hstep.symm ▸ h) ((List.mem_cons.1 hf).resolve_left hg)

end

/-! ### Fields that run again as islands (R306 steps 3 to 5, R307) -/

/-- Paused fields whose own PLL fails go dark, 20 µs after the pause began. -/
def pllsFailed (fs : List (Fin 192)) (s : State) : State :=
  (s.t.unlocked.filter fs.contains).foldl (fun s f => fieldDark f 5 s) (waitUntil s (s.t.unlockedAt + usec 20))

/-- The connected sets of the paused fields. -/
def pausedIsles (s : State) : List (List (Fin 192)) := components 192 ((List.finRange 192).filter s.t.unlocked.contains)

/-- The clocks of the fields of a list run from now on. -/
def fieldsRestarted (l : List (Fin 192)) (s : State) : State :=
  l.foldl (fun s f => setField f { fieldRec s f with restartAt := s.t.now } s) s

/-- The paused fields run as islands. -/
def islandsStarted (s : State) : State :=
  let u := fieldsRestarted s.t.unlocked
    (shiftWatch (fun k => (clOfKey k).any fun c => s.t.unlocked.contains (fieldOf c)) (s.t.now - s.t.unlockedAt) s)
  { u with t := { u.t with unlocked := [], islands := u.t.islands ++ pausedIsles s }
           sync := { u.sync with fallen := u.sync.fallen ++ (pausedIsles s).flatten } }

/-- The islands that have started are told of. -/
def islandsTold (since : Nat) (isles : List (List (Fin 192))) (s : State) : State :=
  isles.foldl (fun s i => islandEvent i s) (waitUntil s (since + 41600))

theorem exec_islandPllLocked_none {s : State} (h : s.t.unlocked = []) (fs : List (Fin 192)) : exec (.islandPllLocked fs) s = .next s :=
  congrArg Host.Outcome.next (if_pos (List.isEmpty_iff.2 h))

theorem exec_islandPllLocked {s : State} (h : s.t.unlocked ≠ []) (fs : List (Fin 192)) : exec (.islandPllLocked fs) s =
    .next (islandsTold s.t.unlockedAt (pausedIsles (pllsFailed fs s)) (islandsStarted (pllsFailed fs s))) :=
  congrArg Host.Outcome.next (if_neg (mt List.isEmpty_iff.1 h))

/-- Where no PLL fails, the pause ends and no field goes dark. -/
theorem pllsFailed_none {s : State} {fs : List (Fin 192)} (h : ∀ f ∈ fs, f ∉ s.t.unlocked) :
    pllsFailed fs s = waitUntil s (s.t.unlockedAt + usec 20) := by
  have hnone : s.t.unlocked.filter fs.contains = [] :=
    List.filter_eq_nil_iff.2 fun f hf hmem => h f (List.contains_iff_mem.1 hmem) hf
  rw [pllsFailed, hnone]
  rfl

/-- A restart of fields leaves all but the restarts' times. -/
theorem fieldsRestarted_keeps (l : List (Fin 192)) (s : State) : (fieldsRestarted l s).t = s.t ∧ (fieldsRestarted l s).mem = s.mem ∧
    ∀ f, (fieldRec (fieldsRestarted l s) f).state = (fieldRec s f).state ∧ (fieldRec (fieldsRestarted l s) f).cause = (fieldRec s f).cause := by
  refine ⟨foldl_keeps State.t (fun s f => setField_t f _ s) l s, foldl_keeps State.mem (fun s f => setField_mem f _ s) l s, fun f => ?_⟩
  refine Prod.mk.inj (foldl_keeps (fun s => ((fieldRec s f).state, (fieldRec s f).cause)) (fun s g => ?_) l s)
  rw [fieldRec_setField]
  split
  · next hf => rw [hf]
  · rfl

theorem islandsTold_only (since : Nat) (isles : List (List (Fin 192))) (s : State) :
    OnlyEvents (waitUntil s (since + 41600)) (islandsTold since isles s) :=
  foldl_only _ (fun s _ => postTo_only _ _ _ _ _ _ s) isles _

section
variable (since : Nat) (isles : List (List (Fin 192))) (s : State)

theorem islandsTold_t : (islandsTold since isles (islandsStarted s)).t =
    { s.t with now := max s.t.now (since + 41600), unlocked := [], islands := s.t.islands ++ pausedIsles s } := by
  rw [(islandsTold_only since isles _).t]
  simp only [waitUntil, islandsStarted, (fieldsRestarted_keeps _ _).1]
  rfl

theorem islandsTold_sram : (islandsTold since isles (islandsStarted s)).mem.sram = s.mem.sram :=
  (islandsTold_only since isles _).sram.trans (congrArg MemState.sram (fieldsRestarted_keeps _ _).2.1)

theorem islandsTold_field (f : Fin 192) : (fieldRec (islandsTold since isles (islandsStarted s)) f).state = (fieldRec s f).state ∧
    (fieldRec (islandsTold since isles (islandsStarted s)) f).cause = (fieldRec s f).cause := by
  rw [fieldRec, (islandsTold_only since isles _).pwr]
  exact (fieldsRestarted_keeps _ _).2.2 f

end

/-- Settles O30: the governor by the cluster's state and its next event, nodes by the fields they cut off, islands by the PLLs. -/
theorem sleepAndClockIslands : Obligations.SleepAndClockIslands := by
  unfold Obligations.SleepAndClockIslands
  refine ⟨⟨fun s c => ?_, fun s c => sleepOf_setSleep_self _, fun s c => ⟨fun d => exec_governorWake, exec_governorWake_idle, fun hs ha => ?_,
      fun hnot => ?_⟩, fun s c => ⟨fun n h => ⟨exec_wakeComplete h, sleepOf_setSleep_self _⟩, exec_wakeComplete_idle⟩,
      fun s c => ⟨fun hmay => ?_, fun hnot => ?_⟩⟩,
    fun s fs => ?_, fun s fs h => exec_islandPllLocked_none h fs, fun s fs h hlock => ?_, fun s fs f hlit hpaused hfail => ?_⟩
  · refine ⟨exec_retentionEnter_no, fun d hmay hd hlong => ?_, fun d hmay hd hshort => ?_, fun hmay hd => ?_⟩
    · rw [exec_retentionEnter hmay, hd]
      exact congrArg _ (if_pos hlong)
    · rw [exec_retentionEnter hmay, hd]
      exact congrArg _ (if_neg (Nat.not_le.2 hshort))
    · rw [exec_retentionEnter hmay, hd]
      rfl
  · rw [exec_arrivalWake, if_pos ⟨hs, ha⟩]
    rfl
  · rw [exec_arrivalWake, if_neg]
    rintro ⟨hs, ha⟩
    exact hnot.elim (· hs) (ne_false_of_eq_true ha)
  · exact exec_clusterPark.trans (congrArg _ (if_neg (not_not_intro hmay)))
  · exact exec_clusterPark.trans (congrArg _ (if_pos hnot))
  · intro stay reach bad
    refine ⟨fun hnot => ?_, fun hrails hfore hbad => ?_⟩
    · rw [exec_nodeUnlocked]
      by_cases hoff : s.pwr.rails = false ∨ s.t.foreOn = true
      · rw [if_pos hoff]
      · exact congrArg _ ((if_neg hoff).trans (if_pos (by tauto)))
    · exact (exec_nodeUnlocked s fs).trans (congrArg _ ((if_neg (by simp [hrails, hfore])).trans (if_neg hbad)))
  · refine ⟨_, exec_islandPllLocked h fs, ?_⟩
    rw [islandsTold_t, islandsTold_sram, pllsFailed_none hlock]
    exact ⟨rfl, rfl, (Nat.le_max_right _ _).trans (Nat.le_max_left _ _), rfl⟩
  · have hdark : fieldRec (pllsFailed fs s) f = darkened 5 (fieldRec s f) :=
      foldl_fieldDark_dark (s := waitUntil s (s.t.unlockedAt + usec 20)) hlit 5 (List.mem_filter.2 ⟨hpaused, List.contains_iff_mem.2 hfail⟩)
    obtain ⟨hstate, hcause⟩ := islandsTold_field s.t.unlockedAt (pausedIsles (pllsFailed fs s)) (pllsFailed fs s) f
    rw [hdark] at hstate hcause
    refine ⟨_, exec_islandPllLocked (List.ne_nil_of_mem hpaused) fs, hstate, hcause, ?_⟩
    rw [islandsTold_t]

end Sys2Proof.Machine
end

section
/-! PROOFS. The spring and its inputs (spec/11_time_and_clocks.md R298, R300-R303, R310). -/

namespace Sys2Proof.Machine
open Sys2Proof

/-! ### Inputs lost and valid again (R298, R300, R301) -/

/-- An input that is lost, and whether its clock stopped. -/
def inputLost (p : Fin 2) (range : Bool) (s : State) : State :=
  { s with t := { s.t with valid := vset s.t.valid p false, noEdge := vset s.t.noEdge p (!range) } }

/-- An input that is valid again. -/
def inputValid (p : Fin 2) (s : State) : State :=
  { s with t := { s.t with valid := vset s.t.valid p true, noEdge := vset s.t.noEdge p false } }

/-- REF_LOST's event leaves the clocks; the loop coasts from now on. -/
theorem loseRef_t (p : Fin 2) (range : Bool) (s : State) : (loseRef p range s).t = (if s.t.coast then s else setCoast true s).t :=
  (postTo_only _ _ _ _ _ _ _).t

theorem loseRef_coasts (p : Fin 2) (range : Bool) (s : State) :
    (loseRef p range s).t.coast = true ∧ (loseRef p range s).t.spring = s.t.spring := by
  rw [loseRef_t]
  by_cases hc : s.t.coast = true
  · rw [if_pos hc]
    exact ⟨hc, rfl⟩
  · rw [if_neg hc]
    exact ⟨rfl, rfl⟩

section
variable {s : State} {p : Fin 2} {range : Bool}

theorem exec_refLost_gone (hv : s.t.valid[p] = false) : exec (.refLost p range) s = .next s :=
  congrArg Host.Outcome.next (if_pos (by rw [hv]; rfl))

theorem exec_refLost_unused (hv : s.t.valid[p] = true) (hp : p ≠ s.t.source) :
    exec (.refLost p range) s = .next (inputLost p range s) :=
  congrArg Host.Outcome.next ((if_neg (by rw [hv]; decide)).trans (if_pos hp))

/-- The selected input is lost, by the spring's stage. -/
theorem exec_refLost_selected (hv : s.t.valid[p] = true) (hp : p = s.t.source) : exec (.refLost p range) s =
    .next (match s.t.spring with
      | .relocking _ _ _ since => autoSwitch (loseRef p range (setCoast true (endPause since
          { inputLost p range s with t := { (inputLost p range s).t with spring := .settled } })))
      | _ => autoSwitch (loseRef p range (inputLost p range s))) :=
  congrArg Host.Outcome.next ((if_neg (by rw [hv]; decide)).trans (if_neg (not_not_intro hp)))

/-- A valid input, while the loop coasts settled or not. -/
theorem exec_refValid : exec (.refValid p) s = .next (
    if s.t.coast = false ∨ s.t.spring ≠ .settled then inputValid p s
    else if p = s.t.source then
      (if (inputValid p s).t.valid[other p] then inputValid p s
        else { inputValid p s with t := { (inputValid p s).t with spring := .relocking p p false s.t.now } })
    else autoSwitch (inputValid p s)) := by
  change execRefValid p s = _
  simp only [execRefValid, Bool.or_eq_true, Bool.not_eq_true', bne_iff_ne]
  rfl

end

/-- Where the automatic switch applies (R301). -/
abbrev SwitchesItself (s : State) : Prop :=
  s.t.coast = true ∧ s.t.spring = .settled ∧ s.t.autoSwitch = true ∧ s.t.valid[s.t.source] = false ∧ s.t.valid[other s.t.source] = true

theorem autoSwitch_eq (s : State) : autoSwitch s = if SwitchesItself s then requestSwitch (other s.t.source) s else s := by
  simp only [autoSwitch, Bool.and_eq_true, beq_iff_eq, Bool.not_eq_true', and_assoc]

/-! ### A switch and its relock (R301-R303) -/

/-- An edge of both clocks ends a switch. -/
theorem exec_springInputChanged {s : State} {dst : Fin 2} {since : Nat} {tide : BitVec 32} (h : s.t.spring = .switching dst since tide) :
    exec .springInputChanged s = .next (if s.t.noEdge[s.t.source] = true ∨ s.t.noEdge[dst] = true then s else startRelock dst false s) := by
  change execSpringInputChanged s = _
  simp only [execSpringInputChanged, h, Bool.or_eq_true]

/-- The event of a switch that hangs. -/
def hangPosted (old dst : Fin 2) (tide : BitVec 32) (s : State) : State :=
  postTo .clkSwitchHang (cxlUnit old) [] true (moduleTide s)
    (([BitVec.ofNat 8 old.val, BitVec.ofNat 8 dst.val, 0, 0] : List Byte) ++ leBytes 4 tide.toNat) s

theorem exec_clkSwitchHang {s : State} {dst : Fin 2} {since : Nat} {tide : BitVec 32} (h : s.t.spring = .switching dst since tide) :
    exec .clkSwitchHang s = .next (startRelock dst true (hangPosted s.t.source dst tide (waitUntil s (since + usec 1000)))) := by
  change execClkSwitchHang s = _
  simp only [execClkSwitchHang, h]
  rfl

theorem exec_noSwitch {s : State} (h : ∀ a b d, s.t.spring ≠ .switching a b d) :
    exec .springInputChanged s = .next s ∧ exec .clkSwitchHang s = .next s := by
  change execSpringInputChanged s = _ ∧ execClkSwitchHang s = _
  unfold execSpringInputChanged execClkSwitchHang
  cases hs : s.t.spring with
  | switching a b d => exact absurd hs (h a b d)
  | settled => exact ⟨rfl, rfl⟩
  | relocking old dst hang since => exact ⟨rfl, rfl⟩

/-- The loop has relocked: it no longer coasts, and the pause of the arithmetic clocks is over. -/
def relocked (since : Nat) (s : State) : State :=
  let v := endPause since (setCoast false s)
  { v with t := { v.t with spring := .settled, lastRelock := (moduleTide v).setWidth 32 } }

/-- The event of a relock. -/
def switchedPosted (old dst : Fin 2) (hang : Bool) (since : Nat) (s : State) : State :=
  postTo .springSwitched (cxlUnit dst) [] true (moduleTide s)
    (([BitVec.ofNat 8 old.val, BitVec.ofNat 8 dst.val, BitVec.ofNat 8 (b2n hang), 0] : List Byte) ++ leBytes 4 ((s.t.now - since) / 2000)) s

theorem exec_springRelockDone {s : State} {old dst : Fin 2} {hang : Bool} {since : Nat} (h : s.t.spring = .relocking old dst hang since) :
    exec .springRelockDone s = .next (endStarted 0x0703 0x00 (retrainAll
      (switchedPosted old dst hang since (relocked since (waitUntil s (since + usec 50)))))) := by
  change execSpringRelockDone s = _
  simp only [execSpringRelockDone, h]
  rfl

theorem exec_springRelockDone_idle {s : State} (h : ∀ a b d n, s.t.spring ≠ .relocking a b d n) : exec .springRelockDone s = .next s := by
  change execSpringRelockDone s = _
  unfold execSpringRelockDone
  cases hs : s.t.spring with
  | relocking a b d n => exact absurd hs (h a b d n)
  | settled => rfl
  | switching dst since tide => rfl

/-- Settles O31: inputs by their use and the spring's stage, then a switch and a relock by that stage. -/
theorem springInputs : Obligations.SpringInputs := by
  unfold Obligations.SpringInputs
  refine ⟨fun s p range => ?_, fun s p range => loseRef_coasts p range s, fun s p => ?_, fun s => ?_, fun s dst since tide h => ?_,
    fun s => exec_noSwitch, fun s dst hang => ⟨fun hv => if_pos hv, fun hv => if_neg (ne_true_of_eq_false hv)⟩,
    fun s old dst hang since h => exec_springRelockDone h, fun s => exec_springRelockDone_idle⟩
  · refine ⟨exec_refLost_gone, exec_refLost_unused, fun a b d n hv hp hs => ?_, fun hv hp hs => ?_⟩
    · rw [exec_refLost_selected hv hp, hs]
      rfl
    · rw [exec_refLost_selected hv hp]
      cases h : s.t.spring with
      | relocking a b d n => exact absurd h (hs a b d n)
      | settled => rfl
      | switching dst since tide => rfl
  · intro u
    have hrun : exec (.refValid p) s = _ := exec_refValid
    refine ⟨fun hnot => ?_, fun hc hs hp ho => ?_, fun hc hs hp ho => ?_, fun hc hs hp => ?_⟩
    · exact hrun.trans (congrArg _ (if_pos hnot))
    · rw [hrun, if_neg (by simp [hc, hs]), if_pos hp]
      exact congrArg _ (if_pos ho)
    · rw [hrun, if_neg (by simp [hc, hs]), if_pos hp]
      exact congrArg _ (if_neg (ne_true_of_eq_false ho))
    · rw [hrun, if_neg (by simp [hc, hs]), if_neg hp]
      rfl
  · exact ⟨fun hgo => (autoSwitch_eq s).trans (if_pos hgo), fun hno => (autoSwitch_eq s).trans (if_neg hno)⟩
  · refine ⟨fun hold hnew => ?_, fun hstopped => ?_, exec_clkSwitchHang h⟩
    · rw [exec_springInputChanged h, if_neg (by simp [hold, hnew])]
    · rw [exec_springInputChanged h, if_pos hstopped]

end Sys2Proof.Machine
end

section
/-! PROOFS. Power and clock settings (spec/11_time_and_clocks.md R289, R301, R309, 12_power_and_heat.md R343, R344). -/

namespace Sys2Proof.Machine
open Sys2Proof

/-! ### Power settings (R343, R344) -/

/-- A word that POWER_CONFIG takes (R343). -/
abbrev PowerConfigOk (s : State) (v : Nat) : Prop :=
  fld v 11 5 = 0 ∧ fld v 27 5 = 0 ∧ fld v 44 20 = 0 ∧ (200 ≤ fld v 0 10 ∧ fld v 0 10 ≤ 880) ∧ (200 ≤ fld v 16 10 ∧ fld v 16 10 ≤ 880) ∧
    (fld v 32 12 = 0 ∨ 200 ≤ fld v 32 12 ∧ fld v 32 12 ≤ 3520 ∧ (s.fab.role = .manager → 200 * (ringModules s).length ≤ fld v 32 12))

/-- POWER_CONFIG written. -/
def powerConfigured (v : Nat) (s : State) : State := { s with pwr := { s.pwr with
  cap := fld v 0 10, capInEn := bit v 10, capFailsafe := fld v 16 10, park := bit v 26, chassisCap := fld v 32 12 } }

/-- The chassis caps that the ring's floors leave. -/
theorem chassisCap_bad_iff (s : State) (ch : Nat) :
    (ch ≠ 0 ∧ (ch < 200 ∨ 3520 < ch ∨ ch < if s.fab.role = .manager then 200 * (ringModules s).length else 0)) ↔
      ¬ (ch = 0 ∨ 200 ≤ ch ∧ ch ≤ 3520 ∧ (s.fab.role = .manager → 200 * (ringModules s).length ≤ ch)) := by
  by_cases hm : s.fab.role = .manager
  · simp only [hm, if_true, true_implies]
    omega
  · simp only [hm, if_false, false_implies, and_true]
    omega

section
variable {s : State} {v : Nat}

theorem setPowerConfig_bad (h : ¬ PowerConfigOk s v) : setPowerConfig v s = (0x03, s) := by
  simp only [setPowerConfig, chassisCap_bad_iff]
  split
  · rfl
  · split
    · rfl
    · split
      · rfl
      · next hres hlim hcap => exact absurd ⟨by omega, by omega, by omega, by omega, by omega, not_not.1 hcap⟩ h

theorem setPowerConfig_ok (h : PowerConfigOk s v) :
    setPowerConfig v s = (0x00, if fld v 32 12 = 0 then dropShares (powerConfigured v s) else powerConfigured v s) := by
  obtain ⟨h11, h27, h44, hcap, hsafe, hch⟩ := h
  simp only [setPowerConfig, chassisCap_bad_iff]
  rw [if_neg (by omega), if_neg (by omega), if_neg (not_not_intro hch)]
  rfl

end

/-- A word that PART_POWER_SET takes (R344). -/
abbrev PartPowerOk (v : Nat) : Prop :=
  fld v 5 3 = 0 ∧ fld v 13 3 = 0 ∧ fld v 48 16 = 0 ∧ 4 ≤ fld v 0 5 ∧ fld v 0 5 ≤ fld v 8 5 ∧ fld v 8 5 ≤ 16 ∧ 2 ≤ fld v 16 16 ∧ 1 ≤ fld v 32 16

/-- What CLOCK_SET takes, R309's reserved bits and value left out. -/
abbrev ClockConfigOk (v w : Nat) : Prop := fld v 5 27 = 0 ∧ w = 0 ∧ fld v 2 2 ≠ 3

theorem freeRunning_iff (s : State) (v : Nat) :
    (isManager s && BitVec.ofNat 2 (fld v 2 2) == 0) = true ↔ isManager s = true ∧ fld v 2 2 = 0 := by
  have hbits : fld v 2 2 < 2 ^ 2 := Nat.mod_lt _ (by decide)
  rw [Bool.and_eq_true, beq_iff_eq, ← BitVec.toNat_inj, BitVec.toNat_ofNat, Nat.mod_eq_of_lt hbits]
  rfl

section
variable {s : State} {k : CmdKey} {c : Cmd}

theorem exec_powerSet (h : Runs s k 0x0602 c) :
    let r := setPowerConfig (cmdD c.raw 2 + cmdD c.raw 3 * 2 ^ 32) s
    exec (.powerSet k) s = .next (complete k r.1 [] r.2) :=
  congrArg Host.Outcome.next (runCmd_any h _)

theorem exec_partPowerSet {p : Fin 64} {r : PartRec} (h : RunsIn s k 0x0604 c p r) :
    let v := cmdD c.raw 2 + cmdD c.raw 3 * 2 ^ 32
    exec (.partPowerSet k) s = .next (if PartPowerOk v then complete k 0x00 []
        (setPart p (some { r with defaultOp := fld v 0 5, maxOp := fld v 8 5, retMin := fld v 16 16, govHold := fld v 32 16 }) s)
      else complete k 0x03 [] s) := by
  refine (congrArg Host.Outcome.next (runCmd_runsIn h rfl _)).trans (congrArg _ ?_)
  dsimp only
  generalize cmdD c.raw 2 + cmdD c.raw 3 * 2 ^ 32 = v
  by_cases hok : PartPowerOk v
  · rw [if_pos hok, if_neg (by omega), if_neg (by omega)]
  · rw [if_neg hok]
    split
    · rfl
    · rw [if_pos (by omega)]

/-! ### Clock settings (R289, R301, R309) -/

theorem exec_clockSet (h : Runs s k 0x0702 c) :
    let v := cmdD c.raw 2
    exec (.clockSet k) s = .next (if ClockConfigOk v (cmdD c.raw 3) then complete k 0x00 [] (autoSwitch { s with t := { s.t with
        preferred := Fin.ofNat 2 v, autoSwitch := bit v 1, discipline := BitVec.ofNat 2 (fld v 2 2), forerunner := bit v 4
        holdover := if isManager s = true ∧ fld v 2 2 = 0 then true else s.t.holdover } })
      else complete k 0x03 [] s) := by
  refine (congrArg Host.Outcome.next (runCmd_any h _)).trans (congrArg _ ?_)
  dsimp only
  generalize cmdD c.raw 2 = v
  simp only [freeRunning_iff]
  by_cases hok : ClockConfigOk v (cmdD c.raw 3)
  · rw [if_pos hok, if_neg (by omega)]
  · rw [if_neg hok, if_pos (by omega)]

theorem exec_springSwitch (h : Runs s k 0x0703 c) :
    let d : Fin 2 := Fin.ofNat 2 (cmdD c.raw 2)
    exec (.springSwitch k) s = .next (if s.t.valid[d] = false then complete k 0x04 [] s
      else if d = s.t.source ∧ s.t.spring = .settled ∧ s.t.coast = false then complete k 0x00 [] s
      else if s.t.spring ≠ .settled then complete k 0x01 [] s
      else requestSwitch d (markStarted c s)) := by
  refine (congrArg Host.Outcome.next (runCmd_any h _)).trans (congrArg _ ?_)
  simp only [Bool.not_eq_true', Bool.and_eq_true, beq_iff_eq, bne_iff_ne, and_assoc]

theorem exec_setSeconds (h : Runs s k 0x0704 c) : exec (.setSeconds k) s = .next (
    if isManager s = false ∨ s.t.discipline ≠ 2 then complete k 0x04 [] s
    else complete k 0x00 [] { s with t := { s.t with seconds := some (BitVec.ofNat 64 (cmdD c.raw 2 + cmdD c.raw 3 * 2 ^ 32)) } }) := by
  refine (congrArg Host.Outcome.next (runCmd_any h _)).trans (congrArg _ ?_)
  simp only [Bool.or_eq_true, Bool.not_eq_true', bne_iff_ne]

end

/-- Settles O45: each command by the test of its words, then by what it stores. -/
theorem powerAndClockSettings : Obligations.PowerAndClockSettings := by
  unfold Obligations.PowerAndClockSettings
  refine ⟨fun s k c _ h => ?_, fun s k c p r _ h => ⟨fun hok => ?_, fun hbad => ?_⟩, fun s k c _ h => ⟨fun hbad => ?_, fun hok => ?_⟩,
    fun s k c _ h => ?_, fun s k c _ h => ⟨fun hnot => ?_, fun hm hpps => ?_⟩⟩
  · intro v cap lim good u
    refine ⟨fun hbad => ?_, fun hok hcap => ?_, fun hok hcap => ?_⟩
    · rw [exec_powerSet h, setPowerConfig_bad hbad]
    · rw [exec_powerSet h, setPowerConfig_ok hok, if_neg hcap]
      rfl
    · rw [exec_powerSet h, setPowerConfig_ok hok, if_pos hcap]
      rfl
  · exact (exec_partPowerSet h).trans (congrArg _ (if_pos hok))
  · exact (exec_partPowerSet h).trans (congrArg _ (if_neg hbad))
  · exact (exec_clockSet h).trans (congrArg _ (if_neg hbad))
  · exact (exec_clockSet h).trans (congrArg _ (if_pos hok))
  · intro d used
    have hrun := exec_springSwitch h
    refine ⟨fun hv => hrun.trans (congrArg _ (if_pos hv)), fun hv hused => ?_, fun hv hbusy => ?_, fun hv hset hused => ?_⟩
    · rw [hrun, if_neg (ne_of_eq_of_ne hv (by decide)), if_pos hused]
    · rw [hrun, if_neg (ne_of_eq_of_ne hv (by decide)), if_neg fun hused => hbusy hused.2.1, if_pos hbusy]
    · rw [hrun, if_neg (ne_of_eq_of_ne hv (by decide)), if_neg hused, if_neg (not_not_intro hset)]
  · exact (exec_setSeconds h).trans (congrArg _ (if_pos hnot))
  · exact (exec_setSeconds h).trans (congrArg _ (if_neg (by simp [hm, hpps])))

end Sys2Proof.Machine
end

section
/-! PROOFS. The weir: limits in force, intervals, calibration and the backstop (spec/12_power_and_heat.md R319-R327). -/

namespace Sys2Proof.Machine
open Sys2Proof

/-! ### The effective limit (R320) -/

/-- Of two limits with their sources the lower, of equal ones the first. -/
def lowerLimit (b x : Nat × Nat) : Nat × Nat := if x.1 < b.1 then x else b

theorem foldl_lowerLimit_mem (l : List (Nat × Nat)) (b : Nat × Nat) : l.foldl lowerLimit b ∈ b :: l := by
  induction l generalizing b with
  | nil => exact List.mem_cons_self
  | cons x l ih =>
    have hstep : lowerLimit b x = x ∨ lowerLimit b x = b := ite_eq_or_eq ..
    obtain h | h := List.mem_cons.1 (ih (lowerLimit b x))
    · rw [List.foldl_cons, h]
      obtain hs | hs := hstep <;> simp [hs]
    · exact List.mem_cons_of_mem _ (List.mem_cons_of_mem _ h)

theorem foldl_lowerLimit_le {l : List (Nat × Nat)} {b x : Nat × Nat} (hx : x ∈ b :: l) : (l.foldl lowerLimit b).1 ≤ x.1 := by
  induction l generalizing b x with
  | nil => rw [List.mem_singleton.1 hx]; exact Nat.le_refl _
  | cons y l ih =>
    have hstep : (lowerLimit b y).1 ≤ b.1 ∧ (lowerLimit b y).1 ≤ y.1 := by unfold lowerLimit; split <;> omega
    have hhead : (l.foldl lowerLimit (lowerLimit b y)).1 ≤ (lowerLimit b y).1 := ih List.mem_cons_self
    obtain rfl | hx := List.mem_cons.1 hx
    · exact hhead.trans hstep.1
    · obtain rfl | hx := List.mem_cons.1 hx
      · exact hhead.trans hstep.2
      · exact ih (List.mem_cons_of_mem _ hx)

/-- The limits in force with their LIMIT_SOURCE, in the order of R320. -/
def limitsInForce (s : State) : List (Nat × Nat) :=
  [(s.pwr.cap, 0)] ++ (if s.pwr.capInEn then [capInLimit s] else []) ++ [(coolantLimit s, 3)] ++
    (if s.pwr.share ≠ 0 then [(s.pwr.share, 4)] else []) ++ [(880, 5)]

theorem effectiveLimit_eq (s : State) : effectiveLimit s = (limitsInForce s).foldl lowerLimit (s.pwr.cap, 0) := rfl

theorem mem_limitsInForce {s : State} {x : Nat × Nat} : x ∈ limitsInForce s ↔
    x = (s.pwr.cap, 0) ∨ (s.pwr.capInEn = true ∧ x = capInLimit s) ∨ x = (coolantLimit s, 3) ∨
      (s.pwr.share ≠ 0 ∧ x = (s.pwr.share, 4)) ∨ x = (880, 5) := by
  simp only [limitsInForce, List.mem_append, List.mem_singleton, List.mem_ite_nil_right, or_assoc]

theorem effectiveLimit_mem (s : State) : effectiveLimit s ∈ limitsInForce s := by
  rw [effectiveLimit_eq]
  obtain h | h := List.mem_cons.1 (foldl_lowerLimit_mem (limitsInForce s) (s.pwr.cap, 0))
  · exact mem_limitsInForce.2 (.inl h)
  · exact h

theorem effectiveLimit_le {s : State} {x : Nat × Nat} (h : x ∈ limitsInForce s) : (effectiveLimit s).1 ≤ x.1 :=
  foldl_lowerLimit_le (List.mem_cons_of_mem _ h)

/-- Settles O32: the fold over the limits in force ends at one of them, and at none above another. -/
theorem effectiveLimitIsTheLowest : Obligations.EffectiveLimitIsTheLowest := by
  unfold Obligations.EffectiveLimitIsTheLowest
  refine fun s => ⟨effectiveLimit_le (mem_limitsInForce.2 (.inl rfl)), effectiveLimit_le (mem_limitsInForce.2 (.inr (.inr (.inl rfl)))),
    effectiveLimit_le (mem_limitsInForce.2 (.inr (.inr (.inr (.inr rfl))))), fun h => effectiveLimit_le (mem_limitsInForce.2 (.inr (.inl ⟨h, rfl⟩))),
    fun h => effectiveLimit_le (mem_limitsInForce.2 (.inr (.inr (.inr (.inl ⟨h, rfl⟩))))), ?_⟩
  rcases mem_limitsInForce.1 (effectiveLimit_mem s) with h | ⟨hen, h⟩ | h | ⟨hshare, h⟩ | h
  · exact .inl (by rw [h])
  · exact .inr (.inr (.inr (.inl ⟨hen, by rw [h]⟩)))
  · exact .inr (.inl (by rw [h]))
  · exact .inr (.inr (.inr (.inr ⟨hshare, by rw [h]⟩)))
  · exact .inr (.inr (.inl (by rw [h])))

/-! ### Weir intervals (R319, R323, R324, R327) -/

/-- The end of the interval: its energy is charged and the limit in force taken. -/
def limitTaken (s : State) : State :=
  let u := chargeEnergy (waitUntil s ((s.t.now / 4000 + 1) * 4000))
  { u with pwr := { u.pwr with limit := (effectiveLimit u).1, limitSource := (effectiveLimit u).2 } }

/-- The backstop still holds. -/
def backstopHolds (s : State) : Bool := match s.pwr.backstop with | some n => decide (s.t.now < n) | none => false

theorem backstopHolds_iff (s : State) : backstopHolds s = true ↔ ∃ n, s.pwr.backstop = some n ∧ s.t.now < n := by
  unfold backstopHolds
  cases s.pwr.backstop with
  | none => simp
  | some n => simp

/-- The clusters take their grants, the estimate is made, limiting is told, and the interval counts. -/
def intervalEnded (w : State) : State :=
  let x := grantAll w
  let y := limitingStep { x with pwr := { x.pwr with est := predict x x.pwr.ceiling x.pwr.throttle / 100000 } }
  { y with pwr := { y.pwr with interval := y.pwr.interval + 1 } }

section
variable {s : State}

theorem exec_weirInterval_off (h : s.pwr.rails = false) : exec .weirInterval s = .next s :=
  congrArg Host.Outcome.next (if_pos (by rw [h]; rfl))

theorem exec_weirInterval (h : s.pwr.rails = true) : exec .weirInterval s = .next (intervalEnded (
    if backstopHolds (limitTaken s) then limitTaken s
    else newCeilings (limitTaken s).pwr.limit { limitTaken s with pwr := { (limitTaken s).pwr with backstop := none } })) := by
  change execWeirInterval s = _
  unfold execWeirInterval
  rw [if_neg (by rw [h]; decide)]
  -- The state `y` that the clusters take their grants from is closed off: compared open, the rest of the interval would be evaluated.
  extract_lets u l p v hold q y
  have hy : y = if backstopHolds (limitTaken s) then limitTaken s
    else newCeilings (limitTaken s).pwr.limit { limitTaken s with pwr := { (limitTaken s).pwr with backstop := none } } := rfl
  rw [← hy]
  clear_value y
  dsimp only [intervalEnded]

theorem stepUp_le (old new : Nat) : stepUp old new ≤ old + 1 := by
  unfold stepUp
  split <;> omega

theorem newCeilings_ceiling (l : Nat) (s : State) : ∃ n, (newCeilings l s).pwr.ceiling = max 4 (stepUp s.pwr.ceiling n) := ⟨_, rfl⟩

theorem newCeilings_throttle (l : Nat) (s : State) : ∃ n, (newCeilings l s).pwr.throttle = stepUp s.pwr.throttle n := ⟨_, rfl⟩

/-! ### The backstop and calibration (R325, R327) -/

theorem exec_feedMeasure (h : s.pwr.rails = true) (a b w : Nat) :
    let u : State := { s with pwr := { s.pwr with feedA := a, feedB := b, meas := w } }
    let v : State := { u with pwr := { u.pwr with ceiling := 4, throttle := 1, backstop := some (u.t.now + usec 1000) } }
    exec (.feedMeasure a b w) s =
      .next (if w * 100 ≤ (effectiveLimit u).1 * 98 then u else capEvent 2 (heldPref v) 0 (grantAll v)) :=
  congrArg Host.Outcome.next (if_neg (by rw [h]; decide))

theorem calibrate_bounds (factor ratio : Nat) : 800 ≤ calibrate factor ratio ∧ calibrate factor ratio ≤ 1250 := by
  unfold calibrate
  omega

theorem calibrate_between {factor ratio : Nat} (hlow : 800 ≤ (7 * factor + ratio + 4) / 8) (hhigh : (7 * factor + ratio + 4) / 8 ≤ 1250) :
    calibrate factor ratio = (7 * factor + ratio + 4) / 8 := by
  rw [calibrate, min_eq_right hhigh, max_eq_right hlow]

/-- A cluster whose regulator has reached its setpoint rises to the grant it waits for, if it runs and does not droop. -/
def risen (s : State) (c : Cl) : State :=
  match (opRec s c).raise with
  | some g => if (opRec s c).droop = .none ∧ computeOff s c = false then setOp c { opRec s c with k := g, raise := none } s else s
  | none => s

theorem exec_regulatorSetpointReached (f : Fin 192) :
    exec (.regulatorSetpointReached f) s = .next ((fieldClusters f).foldl risen (waitUntil s (fieldRec s f).stepEnd)) := by
  refine congrArg Host.Outcome.next (congrArg (fun g => List.foldl g _ _) (funext₂ fun s c => ?_))
  dsimp only
  unfold risen
  cases (opRec s c).raise with
  | none => rfl
  | some g => simp only [Bool.not_eq_true']

end

/-! ### Chassis shares (R326) -/

theorem excessStep_eq (e : Nat) (s : State) :
    let u : State := { s with pwr := { s.pwr with excess := e } }
    excessStep e s = if e ≠ 0 ∧ s.pwr.excess = 0 then capEvent 3 0 e u else if e = 0 ∧ s.pwr.excess ≠ 0 then capEvent 4 0 0 u else u := rfl

theorem exec_share (v : BitVec 16) (s : State) : exec (.share v) s = .next (
    if s.fab.role = .worker ∨ s.fab.role = .standby then
      controlOut s.fab.manager 0x7 (leBytes 2 v.toNat) (excessStep (if v = 200#16 then Config.ringExcess s.freeCount else 0)
        { s with freeCount := s.freeCount + 1, pwr := { s.pwr with share := v.toNat } })
    else s) := by
  change execShare v s = _
  by_cases h : s.fab.role = .worker ∨ s.fab.role = .standby
  · rw [if_pos h]
    exact congrArg Host.Outcome.next (if_neg (by simpa [imp_iff_not_or] using h))
  · rw [if_neg h]
    exact congrArg Host.Outcome.next (if_pos (by simpa using h))

theorem giveShare_chassisCap (m : BitVec 8) (v : Nat) (s : State) : (giveShare m v s).pwr.chassisCap = s.pwr.chassisCap := by
  unfold giveShare controlOut
  dsimp only
  split
  · rfl
  · split <;> rfl

/-- Shares and confirmations of modules that have left the ring are forgotten. -/
def ringShares (s : State) : State := { s with pwr := { s.pwr with
  shares := s.pwr.shares.filter fun e => (ringModules s).any fun m => m.toNat = e.1
  waiting := s.pwr.waiting.filter fun n => (ringModules s).any fun m => m.toNat = n } }

/-- The share each module of the ring should have. -/
def shareGoals (s : State) : List (BitVec 8 × Nat) := (ringModules s).map fun m => (m, shareTarget (ringShares s) (ringModules s) m)

/-- Of them those of joining modules, and those that are cuts. -/
def firstGoals (s : State) : List (BitVec 8 × Nat) :=
  (shareGoals s).filter fun g => s.pwr.shares.get 0 g.1.toNat = 0 ∨ g.2 < s.pwr.shares.get 0 g.1.toNat

/-- The floors given to joining modules, and the cuts. -/
def firstShares (s : State) : State :=
  (firstGoals s).foldl (fun u g => giveShare g.1 (if s.pwr.shares.get 0 g.1.toNat = 0 then 200 else g.2) u) (ringShares s)

/-- The shares raised. -/
def raisedShares (s : State) : State :=
  ((shareGoals s).filter fun g => s.pwr.shares.get 0 g.1.toNat < g.2).foldl (fun u g => giveShare g.1 g.2 u) (ringShares s)

theorem exec_shareReallocate_none {s : State} (h : s.fab.role ≠ .manager ∨ s.pwr.chassisCap = 0) : exec .shareReallocate s = .next s :=
  congrArg Host.Outcome.next (if_pos (by simpa using h))

/-- The shares of a reallocation: what comes first alone, and the rises only where no module's confirmation is missing. -/
def reallocated (s : State) : State :=
  if (firstGoals s).isEmpty = false then firstShares s
  else if (ringShares s).pwr.waiting.isEmpty = true then raisedShares s
  else ringShares s

theorem reallocated_chassisCap (s : State) : (reallocated s).pwr.chassisCap = s.pwr.chassisCap := by
  unfold reallocated
  split
  · exact foldl_keeps (fun s => s.pwr.chassisCap) (fun u g => giveShare_chassisCap _ _ u) _ _
  · split
    · exact foldl_keeps (fun s => s.pwr.chassisCap) (fun u g => giveShare_chassisCap _ _ u) _ _
    · rfl

theorem exec_shareReallocate {s : State} (hm : s.fab.role = .manager) (hc : s.pwr.chassisCap ≠ 0) :
    exec .shareReallocate s = .next (excessStep (200 * (ringModules s).length - s.pwr.chassisCap) (reallocated s)) := by
  rw [← reallocated_chassisCap s]
  refine (congrArg Host.Outcome.next (if_neg (by simp [hm, hc]))).trans ?_
  simp only [Bool.not_eq_true']
  rfl

/-! ### CAP_IN (R321, R473) -/

section
variable {s : State} {b0 b1 b2 : Byte}

/-- The level of a good frame counts, and since when the frames have been good is known. -/
def levelTaken (b1 : Byte) (s : State) : State :=
  { s with pwr := { s.pwr with capLevel := b1.toNat, capGoodSince := some (s.pwr.capGoodSince.getD s.t.now) } }

theorem exec_capInFrame_bad (h : b0 ≠ 0x5A ∨ b2 ≠ b1 ^^^ 0xFF) : exec (.capInFrame b0 b1 b2) s = .next (capLost s) :=
  congrArg Host.Outcome.next (if_pos h)

section
variable (h0 : b0 = 0x5A) (h2 : b2 = b1 ^^^ 0xFF)
include h0 h2

theorem exec_capInFrame_first (hf : s.pwr.capFrame ≠ some b1.toNat) :
    exec (.capInFrame b0 b1 b2) s = .next (capLost { s with pwr := { s.pwr with capFrame := some b1.toNat } }) :=
  congrArg Host.Outcome.next ((if_neg (by simp [h0, h2])).trans (if_pos hf))

theorem exec_capInFrame_second (hf : s.pwr.capFrame = some b1.toNat) : exec (.capInFrame b0 b1 b2) s = .next (
    let u := levelTaken b1 s
    if s.pwr.capIn = .failsafe ∧ s.t.now < s.pwr.capGoodSince.getD s.t.now + usec 100000 then u
    else { u with pwr := { u.pwr with capIn := .valid } }) := by
  refine (congrArg Host.Outcome.next ((if_neg (by simp [h0, h2])).trans (if_neg (not_not_intro hf)))).trans (congrArg _ ?_)
  dsimp only [levelTaken]
  cases hc : s.pwr.capIn with
  | failsafe =>
    by_cases hn : s.t.now < s.pwr.capGoodSince.getD s.t.now + usec 100000
    · simp [hn, Nat.not_le.2 hn]
    · simp [hn, Nat.not_lt.1 hn]
  | never => rfl
  | valid => rfl
  | held n => rfl

end

theorem capLost_capIn : (s.pwr.capIn = .valid → (capLost s).pwr.capIn = .held s.t.now) ∧
    (s.pwr.capIn ≠ .valid → (capLost s).pwr.capIn = s.pwr.capIn) := by
  unfold capLost
  cases s.pwr.capIn with
  | valid => exact ⟨fun _ => rfl, fun h => absurd rfl h⟩
  | never => exact ⟨nofun, fun _ => rfl⟩
  | held n => exact ⟨nofun, fun _ => rfl⟩
  | failsafe => exact ⟨nofun, fun _ => rfl⟩

theorem exec_capInHoldExpire {since : Nat} (h : s.pwr.capIn = .held since) :
    let u := waitUntil s (since + usec 1000000)
    exec .capInHoldExpire s = .next { u with pwr := { u.pwr with capIn := .failsafe } } := by
  change execCapInHoldExpire s = _
  simp only [execCapInHoldExpire, h]

theorem exec_capInHoldExpire_none (h : ∀ n, s.pwr.capIn ≠ .held n) : exec .capInHoldExpire s = .next s := by
  change execCapInHoldExpire s = _
  unfold execCapInHoldExpire
  cases hc : s.pwr.capIn with
  | held n => exact absurd hc (h n)
  | never => rfl
  | valid => rfl
  | failsafe => rfl

end

/-- Settles O33: the weir's interval by its backstop, the manager's shares by what it gives first, a frame by the one before. -/
theorem weirAndCaps : Obligations.WeirAndCaps := by
  unfold Obligations.WeirAndCaps
  refine ⟨⟨fun s => ⟨exec_weirInterval_off, fun h => ?_⟩, fun s l => ?_, fun s a b w => ?_, fun s fields quads => ?_, fun factor ratio => ?_,
      fun s f => exec_regulatorSetpointReached f⟩,
    fun s v => ?_, fun s e => ?_, fun s m => rfl, fun s => exec_shareReallocate_none, fun s hm hc => ?_, fun s b0 b1 b2 => ?_,
    fun s => ⟨rfl, rfl, rfl, capLost_capIn⟩, fun s => ⟨fun since => exec_capInHoldExpire, exec_capInHoldExpire_none⟩⟩
  · intro u l v hold fin
    have hiff : backstopHolds (limitTaken s) = true ↔ hold := backstopHolds_iff v
    exact ⟨fun hh => (exec_weirInterval h).trans (congrArg (Host.Outcome.next ∘ fin) (if_pos (hiff.2 hh))),
      fun hh => (exec_weirInterval h).trans (congrArg (Host.Outcome.next ∘ fin) (if_neg (mt hiff.1 hh)))⟩
  · obtain ⟨n, hn⟩ := newCeilings_ceiling l s
    obtain ⟨m, hm⟩ := newCeilings_throttle l s
    have hrise := stepUp_le s.pwr.ceiling n
    rw [hn, hm]
    exact ⟨by omega, by omega, stepUp_le _ _⟩
  · intro u v
    refine ⟨fun h => congrArg _ (if_pos (by rw [h]; rfl)), fun h hlow => ?_, fun h hhigh => ?_⟩
    · exact (exec_feedMeasure h a b w).trans (congrArg _ (if_pos hlow))
    · exact (exec_feedMeasure h a b w).trans (congrArg _ (if_neg (Nat.not_le.2 hhigh)))
  · intro one q
    exact ⟨fun h => congrArg _ (if_pos (by rw [h]; rfl)), fun h => congrArg _ (if_neg (by rw [h]; decide))⟩
  · obtain ⟨hlow, hhigh⟩ := calibrate_bounds factor ratio
    exact ⟨hlow, hhigh, calibrate_between⟩
  · exact ⟨fun h => (exec_share v s).trans (congrArg _ (if_pos h)), fun hw hs => (exec_share v s).trans (congrArg _ (if_neg (by tauto)))⟩
  · exact ⟨fun he hw => (excessStep_eq e s).trans (if_pos ⟨he, hw⟩),
      fun he hw => (excessStep_eq e s).trans ((if_neg fun h => h.1 he).trans (if_pos ⟨he, hw⟩)),
      fun h => (excessStep_eq e s).trans ((if_neg (by tauto)).trans (if_neg (by tauto)))⟩
  · intro ms old u goal first excess
    have hrun := exec_shareReallocate hm hc
    refine ⟨fun h => hrun.trans ?_, fun h hw => hrun.trans ?_, fun h hw => hrun.trans ?_⟩
    · exact congrArg _ (congrArg _ (if_pos (List.isEmpty_eq_false_iff.2 h)))
    · exact congrArg _ (congrArg _ ((if_neg (by simp [show firstGoals s = [] from h])).trans (if_pos (List.isEmpty_iff.2 hw))))
    · exact congrArg _ (congrArg _ ((if_neg (by simp [show firstGoals s = [] from h])).trans (if_neg (mt List.isEmpty_iff.1 hw))))
  · intro since u
    refine ⟨exec_capInFrame_bad, exec_capInFrame_first, fun h0 h2 hf => ⟨fun hok => ?_, fun hsafe hsoon => ?_⟩⟩
    · exact (exec_capInFrame_second h0 h2 hf).trans (congrArg _ (if_neg fun h => hok.elim (· h.1) (Nat.not_le.2 h.2)))
    · exact (exec_capInFrame_second h0 h2 hf).trans (congrArg _ (if_pos ⟨hsafe, hsoon⟩))

end Sys2Proof.Machine
end

section
/-! PROOFS. A cluster compute reset leaves power and heat as they are (spec/14_partitions_and_reset.md R383). -/

namespace Sys2Proof.Machine
open Sys2Proof

theorem OnlyCores.pwr {s t : State} (h : OnlyCores s t) : t.pwr = s.pwr := by rw [h]

theorem OnlyPumps.pwr {s t : State} (h : OnlyPumps s t) : t.pwr = s.pwr := by rw [h]

/-! ### Contexts and cores (R183) -/

theorem ctxReset_pwr (x : CtxId) (s : State) : (ctxReset x s).pwr = s.pwr := by
  unfold ctxReset
  dsimp only
  rw [setCtx_pwr, (dropEntries_onlyCores x _).pwr, (endWait_onlyCores x _).pwr]
  rfl

theorem resetCtxs_pwr (c : Cl) (s : State) : (resetCtxs c s).pwr = s.pwr := by
  unfold resetCtxs
  exact foldl_keeps State.pwr (fun s x => (setCtx_pwr x {} _).trans (ctxReset_pwr x s)) _ s

theorem seedCore_pwr (c : Cl) (k : Nat) (s : State) : (seedCore c k s).pwr = s.pwr := by
  unfold seedCore
  dsimp only
  split <;> rfl

theorem resetCores_pwr (c : Cl) (s : State) : (resetCores c s).pwr = s.pwr := by
  unfold resetCores
  exact (foldl_keeps State.pwr (fun s k => (seedCore_pwr c k _).trans (setCore_pwr c k _ s)) _ _).trans (resetCtxs_pwr c s)

/-! ### The array, the synchronisation block and the pump (R96, R258, R278, R287) -/

theorem netSync_pwr (n : Net) (y : Sync) (s : State) : ({ s with net := n, sync := y } : State).pwr = s.pwr := rfl

theorem resetArray_pwr (c : Cl) (s : State) : (resetArray c s).pwr = s.pwr := by
  unfold resetArray
  refine (netSync_pwr _ _ _).trans ((foldl_keeps State.pwr (fun u t => ?_) _ _).trans (setArr_pwr c {} s))
  exact (setIo_pwr _ _ _).trans <| (setSf_pwr _ _ _).trans <| (setMemTile_pwr _ _ _).trans <| (setMul_pwr _ _ _).trans (setTile_pwr _ _ _)

theorem stallArr_pwr (c : Cl) (cause : BitVec 2) (n : Nat) (unit : BitVec 32) (s : State) : (stallArr c cause n unit s).pwr = s.pwr := by
  unfold stallArr
  split
  · exact (postEvent_only _ _ _ _ _ _).pwr
  · rfl

theorem wakeClosed_pwr (c : Cl) (e : Nat) (s : State) : (wakeClosed c e s).pwr = s.pwr := by
  unfold wakeClosed
  refine foldl_keeps State.pwr (fun s w => ?_) _ (setEp c e { epOf s c e with waiting := [] } s)
  cases w with
  | ctx x =>
    dsimp only
    split
    · exact (endHeldSend_onlyCores x _ _ _).pwr
    · rfl
  | io d i => exact stallArr_pwr _ _ _ _ _

theorem issueReq_pwr (who : Requester) (p : Option (Fin 64)) (k : ReqKind) (a : Word) (len : Nat) (d : List Byte) (op : Word)
    (sat ra : Bool) (src : Cl) (use : Use) (s : State) : (issueReq who p k a len d op sat ra src use s).pwr = s.pwr := by
  obtain ⟨q, -, -, -, -, -, -, -, -, -, -, -, hsent⟩ := issueReq_appends who p k a len d op sat ra src use s
  rw [hsent]

theorem closeEp_pwr (c : Cl) (e : Fin 256) (s : State) : (closeEp c e s).pwr = s.pwr := by
  unfold closeEp
  dsimp only
  split
  · rfl
  · split
    · rw [setEp_pwr, issueReq_pwr, wakeClosed_pwr]
    · rw [setEp_pwr, wakeClosed_pwr]

theorem resetSync_pwr (c : Cl) (s : State) : (resetSync c s).pwr = s.pwr := by
  unfold resetSync
  dsimp only
  exact foldl_keeps State.pwr (fun s e => (setEp_pwr c e.val {} _).trans (closeEp_pwr c e s)) _ s

theorem abortChan_quiet_pwr (ch : ChanId) (s : State) : (abortChan ch false s).pwr = s.pwr := by
  have hgone : ((chanOf s ch).queue.foldl (fun s d => discardReads ch d s) s).pwr = s.pwr :=
    foldl_keeps State.pwr (fun s d => (discardReads_onlyPumps ch d s).pwr) _ s
  unfold abortChan
  dsimp only
  split <;> exact hgone

theorem resetChan_pwr (ch : ChanId) (s : State) : (resetChan ch s).pwr = s.pwr := by
  unfold resetChan
  exact abortChan_quiet_pwr ch s

theorem resetClusterPump_pwr (c : Cl) (s : State) : (resetClusterPump c s).pwr = s.pwr := by
  unfold resetClusterPump
  exact (setPumpCtr_onlyPumps _ _ _).pwr.trans (foldl_keeps State.pwr (fun s ch => resetChan_pwr ch s) _ s)

theorem clusterReset_pwr (c : Cl) (s : State) : (clusterReset c s).pwr = s.pwr := by
  unfold clusterReset
  dsimp only
  rw [resetClusterPump_pwr, resetSync_pwr, resetArray_pwr, resetCores_pwr]

end Sys2Proof.Machine
end

section
/-! PROOFS. Field and stack temperatures, and the loss of stacks and wafers (spec/12_power_and_heat.md R314, R335-R338,
19_faults.md R482, R489). -/

namespace Sys2Proof.Machine
open Sys2Proof

/-! ### Compute off and back (R314, R336, R337) -/

section
variable {f : Fin 192} {s : State}

/-- A field's record once its compute is off. -/
def computeLost (cause : Nat) (r : FieldRec) : FieldRec :=
  { r with state := .computeOff, cause := BitVec.ofNat 4 cause, latchC := r.latchC || cause == 2, hot := 0, coolSince := none }

theorem fieldOff_pwr (h : (fieldRec s f).state = .on) (cause : Nat) :
    (fieldOff f cause s).pwr = (setField f (computeLost cause (fieldRec s f)) s).pwr := by
  have htold : ∀ u : State, (fieldOffEvent f cause false u).pwr = u.pwr := fun u => (postTo_only _ _ _ _ _ _ u).pwr
  have hdry : ∀ (u : State) (c : Cl), (if clLive u c then clDry c 1 u else u).pwr = u.pwr := fun u c => by split <;> rfl
  unfold fieldOff
  rw [if_neg (not_not_intro h)]
  dsimp only
  split
  · rw [foldl_keeps State.pwr hdry, htold, loseFieldMem_pwr]
    rfl
  · rw [htold, loseFieldMem_pwr]
    rfl

theorem fieldRec_fieldOff (h : (fieldRec s f).state = .on) (cause : Nat) :
    fieldRec (fieldOff f cause s) f = computeLost cause (fieldRec s f) := by
  have hset := fieldRec_setField f f (computeLost cause (fieldRec s f)) s
  rw [if_pos rfl] at hset
  rwa [fieldRec, fieldOff_pwr h]

theorem setOp_fields (c : Cl) (r : OpRec) (s : State) : (setOp c r s).pwr.fields = s.pwr.fields := rfl

theorem zeroCluster_pwr (c : Cl) (s : State) : (zeroCluster c s).pwr = s.pwr := rfl

/-- A field's record once its compute is back: a plan taken meanwhile is applied (R337, R341). -/
def computeBack (now : Nat) (r : FieldRec) : FieldRec :=
  let off := match r.plan with | some p => p.1 | none => r.offset
  { r with
    state := .on, cause := 0, tceil := 8, ceilAt := now, warn := true, coolSince := none, hot := 0, restartAt := now
    offset := off, kmax := (match r.plan with | some p => p.2 | none => r.kmax), plan := none, vset := 550 + 5 * off }

theorem fieldRec_fieldBack (f : Fin 192) (s : State) : fieldRec (fieldBack f s) f = computeBack s.t.now (fieldRec s f) := by
  have hfields : (fieldBack f s).pwr.fields = (setField f (computeBack s.t.now (fieldRec s f)) s).pwr.fields := by
    unfold fieldBack fieldOffEvent
    rw [(postTo_only _ _ _ _ _ _ _).pwr, waitUntil_pwr]
    refine foldl_keeps (fun s => s.pwr.fields) (fun u c => ?_) (fieldClusters f) _
    split
    · rw [setOp_fields, setSleep_pwr, zeroCluster_pwr, clusterReset_pwr]
    · rfl
  have hset := fieldRec_setField f f (computeBack s.t.now (fieldRec s f)) s
  rw [if_pos rfl] at hset
  rwa [fieldRec, hfields]

theorem exec_hotRestore {n : Nat} (hn : (fieldRec s f).coolSince = some n) (hs : (fieldRec s f).state = .computeOff)
    (hc : (fieldRec s f).cause = 1) (hr : s.pwr.rails = true) :
    exec (.hotRestore f) s = .next (fieldBack f (waitUntil s (n + usec 10000))) := by
  change execHotRestore f s = _
  simp only [execHotRestore, hn, hs, hc, hr, and_self, if_true]

theorem exec_hotRestore_idle (h : (fieldRec s f).coolSince = none ∨ (fieldRec s f).state ≠ .computeOff ∨ (fieldRec s f).cause ≠ 1 ∨
    s.pwr.rails = false) : exec (.hotRestore f) s = .next s := by
  change execHotRestore f s = _
  cases hn : (fieldRec s f).coolSince with
  | none => simp only [execHotRestore, hn]
  | some n =>
    rw [hn] at h
    simp only [execHotRestore, hn]
    exact congrArg Host.Outcome.next (if_neg fun hall => h.elim nofun (by simp [hall]))

/-! ### Samples of a field (R335, R336) -/

/-- A sample kept: the readings at HOT and at CRIT level in a row, and since when the field has been cool. -/
def sampleKept (f : Fin 192) (t : Int) (s : State) : State :=
  let r := fieldRec s f
  setField f { r with
    temp := t, hot := if 1600 ≤ t then r.hot + 1 else 0, crit := if 1760 ≤ t then r.crit + 1 else 0
    coolSince := if r.state = .computeOff then (if t ≤ 1280 then some (r.coolSince.getD s.t.now) else none) else r.coolSince } s

theorem exec_fieldTempSample_none {t : Int} (h : s.pwr.rails = false ∨ (fieldRec s f).state = .dark) :
    exec (.fieldTempSample f t) s = .next s :=
  congrArg Host.Outcome.next (if_pos (by simpa using h))

theorem exec_fieldTempSample {t : Int} (hr : s.pwr.rails = true) (hd : (fieldRec s f).state ≠ .dark) :
    exec (.fieldTempSample f t) s = .next (
      if 2 ≤ (if 1760 ≤ t then (fieldRec s f).crit + 1 else 0) then fieldDark f 3 (sampleKept f t s)
      else if (fieldRec s f).state = .computeOff then sampleKept f t s
      else if 2 ≤ (if 1600 ≤ t then (fieldRec s f).hot + 1 else 0) then fieldOff f 1 (sampleKept f t s)
      else warnStep f (sampleKept f t s)) :=
  congrArg Host.Outcome.next (if_neg (by simp [hr, hd]))

end

/-! ### Stacks and wafers that fail (R482, R489) -/

theorem startEpoch_stk (s : State) : (startEpoch s).net.dry.stk = s.net.dry.stk := by
  obtain ⟨u, n, hu, he, hn⟩ := startEpoch_frame s
  rw [he, hn, hu]

theorem startEpoch_wellheads (s : State) : (startEpoch s).boot.wellheads = s.boot.wellheads := by
  obtain ⟨u, n, hu, he, -⟩ := startEpoch_frame s
  rw [he, hu]

theorem fenceStack_again {n : Fin 48} {s : State} (h : s.net.dry.stk.getLsbD n.val = true) (cause : Nat) : fenceStack n cause s = s := if_pos h

theorem fenceStack_dry {n : Fin 48} {s : State} (h : s.net.dry.stk.getLsbD n.val = false) (cause : Nat) :
    (fenceStack n cause s).net.dry.stk.getLsbD n.val = true := by
  unfold fenceStack
  rw [if_neg (ne_true_of_eq_false h), (fencedEvent_only _ _ _ _ _).net, startEpoch_stk]
  simp only [setDry, BitVec.getLsbD_or, BitVec.natCast_eq_ofNat, BitVec.getLsbD_ofNat]
  simp

theorem waferGone_pwr (w : Fin 4) (ps : List (Fin 64)) (e : Nat) (s : State) : (waferGone w ps e s).pwr = s.pwr := by
  unfold waferGone
  rw [(fencedEvent_only _ _ _ _ _).pwr, startEpoch_pwr]

theorem wellheadOf_waferGone (w : Fin 4) (ps : List (Fin 64)) (e : Nat) (s : State) : wellheadOf (waferGone w ps e s) w = none := by
  have hboot : (waferGone w ps e s).boot.wellheads = s.boot.wellheads.set none w.val none := by
    unfold waferGone
    rw [(fencedEvent_only _ _ _ _ _), startEpoch_wellheads]
  rw [wellheadOf, hboot, SMap.get_set_self]

theorem bootWaferLost_contains (s : State) (w : Fin 4) : (bootWaferLost s w).pwr.lostWafers.contains w = true := by
  unfold bootWaferLost
  dsimp only
  split
  · assumption
  · simp

theorem clocks_pwr (t : Clocks) (s : State) : ({ s with t := t } : State).pwr = s.pwr := rfl

theorem loseWafer_again {w : Fin 4} {s : State} (h : s.pwr.lostWafers.contains w = true) : loseWafer w s = s := if_pos h

theorem loseWafer_gone {w : Fin 4} {s : State} (h : s.pwr.lostWafers.contains w = false) :
    ∃ ps e t u, loseWafer w s = waferGone w ps e { bootWaferLost u w with t := t } :=
  ⟨_, _, _, _, if_neg (ne_true_of_eq_false h)⟩

theorem loseWafer_lost {w : Fin 4} {s : State} (h : s.pwr.lostWafers.contains w = false) :
    (loseWafer w s).pwr.lostWafers.contains w = true ∧ wellheadOf (loseWafer w s) w = none := by
  obtain ⟨ps, e, t, u, hu⟩ := loseWafer_gone h
  rw [hu, waferGone_pwr, clocks_pwr]
  exact ⟨bootWaferLost_contains u w, wellheadOf_waferGone w ps e _⟩

/-- Settles O34: a sample by its level and the record's stage, in the order in which the model tests them. -/
theorem temperatures : Obligations.Temperatures := by
  unfold Obligations.Temperatures
  refine ⟨⟨fun s f t => ?_, fun s f => ?_, fun s f cause h _ => ?_, fun s f => ⟨fun n => exec_hotRestore, exec_hotRestore_idle, ?_, ?_⟩,
      fun s f => ⟨fun h => ⟨?_, ?_⟩, fun h b => ?_⟩⟩,
    fun s n t => ?_, fun s n => ⟨fun h => ?_, fun h => ?_⟩, fun s n => ⟨fun h => fenceStack_dry h 5, fun h => fenceStack_again h 5⟩,
    fun s k => ?_⟩
  · intro r hot crit cool u
    refine ⟨exec_fieldTempSample_none, fun hr hd => ⟨fun hc => ?_, fun hc hs => ?_, fun hc hs hh => ?_, fun hc hs hh => ?_⟩⟩
    all_goals refine (exec_fieldTempSample hr hd).trans (congrArg Host.Outcome.next ?_)
    · exact if_pos hc
    · exact (if_neg (Nat.not_le.2 hc)).trans (if_pos hs)
    · exact (if_neg (Nat.not_le.2 hc)).trans ((if_neg (ne_of_eq_of_ne hs (by decide))).trans (if_pos hh))
    · exact (if_neg (Nat.not_le.2 hc)).trans ((if_neg (ne_of_eq_of_ne hs (by decide))).trans (if_neg (Nat.not_le.2 hh)))
  · intro r n since
    refine ⟨fun ht hw => ?_, fun ht hw hn => ?_, fun ht hw hn => ?_, fun ht hw hn => ?_, fun ht hw hn => ?_, fun hlow hhigh hw => ?_,
      fun ht hw hc hn => ?_, fun ht hw hn => ?_⟩
    · exact (if_pos ht).trans (if_pos (by simp [r, hw]))
    · exact (if_pos ht).trans ((if_neg (by simp [r, hw])).trans (if_pos hn))
    · exact (if_pos ht).trans ((if_neg (by simp [r, hw])).trans (if_neg (Nat.not_le.2 hn)))
    · exact (if_neg fun h => absurd (Int.le_trans h ht) (by decide)).trans ((if_pos hw).trans ((if_pos ht).trans (if_pos hn)))
    · exact (if_neg fun h => absurd (Int.le_trans h ht) (by decide)).trans ((if_pos hw).trans ((if_pos ht).trans (if_neg (Nat.not_le.2 hn))))
    · exact (if_neg (Int.not_le.2 hhigh)).trans ((if_pos hw).trans (if_neg (Int.not_le.2 hlow)))
    · exact (if_neg (Int.not_le.2 ht)).trans ((if_neg (ne_true_of_eq_false hw)).trans (if_pos ⟨hc, hn⟩))
    · exact (if_neg (Int.not_le.2 ht)).trans ((if_neg (ne_true_of_eq_false hw)).trans (if_neg fun h => hn.elim (Nat.not_le.2 h.1) (Nat.not_lt.2 h.2)))
  · rw [fieldRec_fieldOff h]
    exact ⟨rfl, rfl⟩
  · rw [fieldRec_fieldBack]
    rfl
  · rw [fieldRec_fieldBack]
    rfl
  · exact congrArg Host.Outcome.next (if_neg (by simp [h]))
  · exact congrArg Host.Outcome.next (if_neg (by simp [h]))
  · exact congrArg Host.Outcome.next (if_pos (by simp [h]))
  · intro r u h since
    refine ⟨fun hr => ?_, fun hr ht => ?_, fun hr ht hlt hh => ?_, fun hr ht hlt hh => ?_, fun hr ht hh => ?_, fun hr ht hh hn => ?_,
      fun hr ht hh hn => ?_⟩
    · exact congrArg Host.Outcome.next (if_pos (by simp [hr]))
    all_goals refine congrArg Host.Outcome.next ((if_neg (by simp [hr])).trans ?_)
    · exact if_pos ht
    · exact (if_neg (Int.not_le.2 hlt)).trans ((if_pos ht).trans (if_neg (ne_true_of_eq_false hh)))
    · by_cases hwarm : 1520 ≤ t
      · exact (if_neg (Int.not_le.2 hlt)).trans ((if_pos hwarm).trans (if_pos hh))
      · exact (if_neg (Int.not_le.2 hlt)).trans ((if_neg hwarm).trans ((if_neg (by simpa using hh)).trans (if_neg (Int.not_le.2 ht))))
    · exact (if_neg (by omega)).trans ((if_neg (Int.not_le.2 ht)).trans (if_pos (by simpa using hh)))
    · exact (if_neg (by omega)).trans ((if_neg (by omega)).trans ((if_neg (by simpa using hh)).trans ((if_pos ht).trans (if_pos hn))))
    · exact (if_neg (by omega)).trans ((if_neg (by omega)).trans ((if_neg (by simpa using hh)).trans ((if_pos ht).trans (if_neg (Nat.not_le.2 hn)))))
  · exact congrArg Host.Outcome.next (if_pos h)
  · exact congrArg Host.Outcome.next (if_neg (ne_true_of_eq_false h))
  · intro w
    exact ⟨fun h => congrArg Host.Outcome.next (if_pos h), fun h => congrArg Host.Outcome.next (if_neg (ne_true_of_eq_false h)),
      loseWafer_again, loseWafer_lost⟩

end Sys2Proof.Machine
end

section
/-! PROOFS. Droop responses and ageing offsets (spec/12_power_and_heat.md R331-R333, R341, R342). -/

namespace Sys2Proof.Machine
open Sys2Proof

/-! ### Droop (R331-R333) -/

section
variable {s : State} {c : Cl}

/-- The point a droop leaves a cluster at: halved once until it recovers. -/
def droopedK (o : OpRec) : Nat := if o.droop = .none then max 4 (o.k / 2) else o.k

theorem exec_droop_stopped (h : arithOn s c = false) : exec (.droopSoft c) s = .next s ∧ exec (.droopHard c) s = .next s :=
  ⟨congrArg Host.Outcome.next (if_pos (by simp [h])), congrArg Host.Outcome.next (if_pos (by simp [h]))⟩

theorem exec_droopSoft (h : arithOn s c = true) :
    let r := fieldRec s (fieldOf c)
    exec (.droopSoft c) s = .next (wrapEvent (fieldUnit (fieldOf c)) 0 0x0B04 none r.soft 1
      (setOp c { opRec s c with k := droopedK (opRec s c), droop := .soft } (setField (fieldOf c) { r with soft := r.soft + 1 } s))) :=
  congrArg Host.Outcome.next (if_neg (by simp [h]))

theorem exec_droopHard (h : arithOn s c = true) :
    let r := fieldRec s (fieldOf c)
    exec (.droopHard c) s = .next (wrapEvent (fieldUnit (fieldOf c)) 0 0x0B04 none r.hard 1
      (setOp c { opRec s c with k := droopedK (opRec s c), droop := .paused s.t.now } (setField (fieldOf c) { r with hard := r.hard + 1 } s))) :=
  congrArg Host.Outcome.next (if_neg (by simp [h]))

theorem exec_droopPauseEnd {n : Nat} (h : (opRec s c).droop = .paused n) :
    let u := waitUntil s (n + 40)
    exec (.droopPauseEnd c) s = .next (restartRamps c (shiftWatch (fun k => k = ck c) (u.t.now - n)
      (setOp c { opRec s c with droop := .restarted, restartAt := u.t.now } u))) := by
  change execDroopPauseEnd c s = _
  simp only [execDroopPauseEnd, h]

theorem exec_droopPauseEnd_none (h : ∀ n, (opRec s c).droop ≠ .paused n) : exec (.droopPauseEnd c) s = .next s := by
  change execDroopPauseEnd c s = _
  cases hd : (opRec s c).droop with
  | paused n => exact absurd hd (h n)
  | none => simp only [execDroopPauseEnd, hd]
  | soft => simp only [execDroopPauseEnd, hd]
  | restarted => simp only [execDroopPauseEnd, hd]

theorem exec_droopRecovery (s : State) (c : Cl) : exec (.droopRecovery c) s = .next (
    if (opRec s c).droop = .soft ∨ (opRec s c).droop = .restarted then
      setOp c { opRec s c with k := max (opRec s c).k (opRec s c).grant, droop := .none, raise := none }
        (waitUntil s (s.t.now + usec 1 + 8 * ((opRec s c).grant - (opRec s c).k)))
    else s) := rfl

end

/-! ### Ageing (R341, R342) -/

/-- A monitor's reading that moves its field's offset. -/
abbrev Ages (s : State) (f : Fin 192) (low : Bool) : Prop :=
  low = true ∧ (fieldRec s f).state = .on ∧ s.pwr.rails = true ∧ (fieldRec s f).aged = false

section
variable {s : State} {f : Fin 192} {low : Bool}

theorem exec_ageingMonitorRead_none (h : ¬ Ages s f low) : exec (.ageingMonitorRead f low) s = .next s :=
  congrArg Host.Outcome.next (if_pos (by simpa [Ages, imp_iff_not_or, or_assoc] using h))

theorem exec_ageingMonitorRead (h : Ages s f low) :
    let r := fieldRec s f
    let k := kmaxOf (r.offset + 1)
    exec (.ageingMonitorRead f low) s = .next (if 20 ≤ r.offset then fenceField f s
      else ageingEvent 1 (b2n (decide (k < r.kmax))) true (setField f { r with offset := r.offset + 1, kmax := k } s)) := by
  obtain ⟨hlow, hon, hrails, haged⟩ := h
  exact congrArg Host.Outcome.next (if_neg (by simp [hlow, hon, hrails, haged]))

end

/-- A plan's offsets are given, 1,000 hours after the last one. -/
def replanned (plan : List (Fin 192 × Option (Fin 21))) (s : State) : State :=
  let h := max s.pwr.hours (s.pwr.planHours + 1000)
  plan.foldl (fun s e => planField e.1 e.2 s) { s with pwr := { s.pwr with hours := h, planHours := h } }

theorem exec_ageingReplan {s : State} (h : s.pwr.rails = true) (plan : List (Fin 192 × Option (Fin 21))) :
    let t := replanned plan s
    exec (.ageingReplan plan) s = .next (
      if (planChanges s t).1 = 0 ∧ (planChanges s t).2 = 0 then t else ageingEvent (planChanges s t).1 (planChanges s t).2 false t) :=
  congrArg Host.Outcome.next (if_neg (by simp [h]))

/-- Settles O35: droop by the cluster's stage, a monitor by the offset so far, a plan by what it changes. -/
theorem droopAndAgeing : Obligations.DroopAndAgeing := by
  unfold Obligations.DroopAndAgeing
  refine ⟨⟨fun s c => ⟨exec_droopSoft, exec_droopHard, exec_droop_stopped⟩,
      fun s c => ⟨fun n => exec_droopPauseEnd, exec_droopPauseEnd_none⟩,
      fun s c => ⟨fun h => (exec_droopRecovery s c).trans (congrArg _ (if_pos h)), fun h => (exec_droopRecovery s c).trans (congrArg _ (if_neg h))⟩⟩,
    fun s f low => ⟨exec_ageingMonitorRead_none, fun h ho => ?_, fun h ho => ?_⟩, fun n => rfl, fun s plan => ?_,
    fun s f => ⟨rfl, fun o h => if_neg h, fun o h => if_pos h⟩⟩
  · exact (exec_ageingMonitorRead h).trans (congrArg _ (if_pos ho))
  · exact (exec_ageingMonitorRead h).trans (congrArg _ (if_neg (Nat.not_le.2 ho)))
  · intro h t n
    refine ⟨fun hr => congrArg Host.Outcome.next (if_pos (by simp [hr])), fun hr hn => ?_, fun hr hn => ?_⟩
    · exact (exec_ageingReplan hr plan).trans (congrArg _ (if_pos (Prod.ext_iff.1 hn)))
    · exact (exec_ageingReplan hr plan).trans (congrArg _ (if_neg fun hz => hn (Prod.ext_iff.2 hz)))

end Sys2Proof.Machine
end

section
/-! PROOFS. Coolant, feeds and the facility's signals (spec/12_power_and_heat.md R312, R315, 18_module_hardware.md R459, R461,
R464, R465, R472), and wellheads that are lost (spec/19_faults.md R489). -/

namespace Sys2Proof.Machine
open Sys2Proof

/-! ### Coolant (R464, R465) -/

section
variable {s : State}

/-- A coolant sample's readings are kept. -/
def coolantRead (r : Coolant) (s : State) : State := { s with pwr := readCoolant r s.t.now s.pwr }

theorem exec_coolantSample_off (h : s.pwr.standby = false) (r : Coolant) : exec (.coolantSample r) s = .next s :=
  congrArg Host.Outcome.next (if_pos (by rw [h]; rfl))

theorem exec_coolantSample (h : s.pwr.standby = true) (r : Coolant) :
    let u := coolantRead r s
    exec (.coolantSample r) s = .next (
      if u.pwr.rails = false then u
      else if heldFor s.t.now (usec 100000) u.pwr.wetSince = true then coolantShutdown 4 u
      else if heldFor s.t.now (usec 1000000) u.pwr.hotInSince = true then coolantShutdown 1 u
      else if heldFor s.t.now (usec 1000000) u.pwr.lowFlowSince = true then coolantShutdown 2 u
      else if heldFor s.t.now (usec 1000000) u.pwr.hotOutSince = true then coolantShutdown 3 u
      else derateStep u) := by
  refine (congrArg Host.Outcome.next (if_neg (by rw [h]; decide))).trans ?_
  simp only [Bool.not_eq_true']
  rfl

theorem exec_coolantRestart {n : Nat} (hn : s.pwr.coolOkSince = some n) (hs : s.pwr.shut = .coolant) (hp : s.pwr.standby = true) :
    exec .coolantRestart s = .next (startCold (waitUntil s (n + usec 60000000))) := by
  change execCoolantRestart s = _
  simp only [execCoolantRestart, hn, hs, hp, and_self, if_true]

theorem exec_coolantRestart_none (h : s.pwr.coolOkSince = none ∨ s.pwr.shut ≠ .coolant ∨ s.pwr.standby = false) :
    exec .coolantRestart s = .next s := by
  change execCoolantRestart s = _
  cases hn : s.pwr.coolOkSince with
  | none => simp only [execCoolantRestart, hn]
  | some n =>
    rw [hn] at h
    simp only [execCoolantRestart, hn]
    exact congrArg Host.Outcome.next (if_neg fun hall => h.elim nofun (by simp [hall]))

/-! ### Feeds and signals (R312, R315, R459, R461, R472) -/

theorem exec_feedLoss (f : Fin 2) (s : State) :
    let feeds := vset s.pwr.feeds f false
    exec (.feedLoss f) s = .next { s with pwr := { s.pwr with
      feeds := feeds, feedsLost := if (!feeds[0] && !feeds[1]) = true then some (s.pwr.feedsLost.getD s.t.now) else none } } := rfl

theorem exec_feedRideThroughExpire {n : Nat} (hn : s.pwr.feedsLost = some n) (hp : s.pwr.standby = true) :
    exec .feedRideThroughExpire s = .next (powerOff .epo (waitUntil s (n + usec 2000))) := by
  change execFeedRideThroughExpire s = _
  simp only [execFeedRideThroughExpire, hn, hp, if_true]

theorem exec_feedRideThroughExpire_none (h : s.pwr.feedsLost = none ∨ s.pwr.standby = false) :
    exec .feedRideThroughExpire s = .next s := by
  change execFeedRideThroughExpire s = _
  cases hn : s.pwr.feedsLost with
  | none => simp only [execFeedRideThroughExpire, hn]
  | some n =>
    rw [hn] at h
    simp only [execFeedRideThroughExpire, hn]
    exact congrArg Host.Outcome.next (if_neg (ne_true_of_eq_false (h.resolve_left nofun)))

theorem exec_epoNAssert (s : State) :
    let u := waitUntil s (s.t.now + usec 1000)
    let v : State := { u with pwr := { u.pwr with epo := true } }
    exec .epoNAssert s = .next (if s.pwr.standby then powerOff .epo (logStop 5 v) else v) := rfl

theorem exec_epoNDeassert_none (h : s.pwr.epo = false) : exec .epoNDeassert s = .next s :=
  congrArg Host.Outcome.next (if_pos (by rw [h]; rfl))

theorem exec_epoNDeassert (h : s.pwr.epo = true) :
    let u : State := { s with pwr := { s.pwr with epo := false } }
    exec .epoNDeassert s = .next (
      if (s.pwr.feeds[0] || s.pwr.feeds[1]) = true then startCold (waitUntil u (u.t.now + usec 100000)) else u) :=
  congrArg Host.Outcome.next (if_neg (by rw [h]; decide))

theorem exec_presentNLoss (s : State) :
    exec .presentNLoss s = .next (if s.pwr.standby then powerOff .epo (waitUntil s (s.t.now + usec 100)) else s) := rfl

end

/-! ### Wellheads (R489) -/

section
variable {s : State} {w : Fin 4}

/-- A wafer's wellhead is polled. -/
abbrev Polls (s : State) (w : Fin 4) : Prop := s.boot.ready = true ∧ s.pwr.rails = true ∧ (wellheadOf s w).isSome = true

theorem exec_wellheadPoll_none (h : ¬ Polls s w) (a : Bool) : exec (.wellheadPoll w a) s = .next s :=
  congrArg Host.Outcome.next (if_pos (by simpa [Polls, imp_iff_not_or, or_assoc] using h))

theorem exec_wellheadPoll (h : Polls s w) (a : Bool) :
    let u := waitUntil s (s.t.now + usec 100)
    let since := (s.boot.silent.get none w.val).getD (u.t.now - usec 100)
    exec (.wellheadPoll w a) s = .next (
      if a then { u with boot := { u.boot with silent := u.boot.silent.set none w.val none } }
      else if since + usec 1000 ≤ u.t.now then loseWellhead w u
      else { u with boot := { u.boot with silent := u.boot.silent.set none w.val (some since) } }) := by
  obtain ⟨hready, hrails, hhead⟩ := h
  exact congrArg Host.Outcome.next (if_neg (by simp [hready, hrails, Option.isSome_iff_ne_none.1 hhead]))

/-- The wellhead is gone and its cluster's compute fenced. -/
def wellheadFenced (w : Fin 4) (old : Cl) (s : State) : State :=
  fenceCluster old 1 { s with boot := { s.boot with
    wellheads := s.boot.wellheads.set none w.val none, silent := s.boot.silent.set none w.val none } }

section
variable {old : Cl} (h : wellheadOf s w = some old)
include h

theorem loseWellhead_doomed (hc : (candidates w).find? (clLive (wellheadFenced w old s)) = none) :
    loseWellhead w s = doomWafer w (wellheadFenced w old s) := by
  unfold wellheadFenced at *
  simp only [loseWellhead, h, hc]

theorem loseWellhead_loads {c : Cl} (hc : (candidates w).find? (clLive (wellheadFenced w old s)) = some c) :
    let v := takeCluster c (wellheadFenced w old s)
    loseWellhead w s = { v with boot := { v.boot with loading := v.boot.loading.set none w.val (some c) } } := by
  unfold wellheadFenced at *
  simp only [loseWellhead, h, hc]

end

theorem exec_wellheadReplaced {c : Cl} (h : s.boot.loading.get none w.val = some c) :
    let u := waitUntil s (s.t.now + usec 200000)
    exec (.wellheadReplaced w) s = .next { u with boot := { u.boot with
      wellheads := u.boot.wellheads.set none w.val (some c), loading := u.boot.loading.set none w.val none,
      repair := { u.boot.repair with wellheads := u.boot.repair.wellheads.set none w.val (some c) } } } := by
  change execWellheadReplaced w s = _
  simp only [execWellheadReplaced, h]

theorem exec_wellheadReplaced_none (h : s.boot.loading.get none w.val = none) : exec (.wellheadReplaced w) s = .next s := by
  change execWellheadReplaced w s = _
  simp only [execWellheadReplaced, h]

end

/-- Settles O36: a coolant sample by the first limit exceeded, each signal by the supplies, a wellhead by its candidates. -/
theorem facilityAndWellheads : Obligations.FacilityAndWellheads := by
  unfold Obligations.FacilityAndWellheads
  refine ⟨⟨fun s r => ?_, fun s cause => ⟨rfl, rfl, rfl⟩, fun s => ⟨fun n => exec_coolantRestart, exec_coolantRestart_none⟩, fun s f => ?_,
      fun s => ⟨fun n => exec_feedRideThroughExpire, exec_feedRideThroughExpire_none⟩, fun s w => ⟨rfl, rfl⟩, fun s => ⟨fun h => ?_, fun h => ?_⟩,
      fun s => ⟨exec_epoNDeassert_none, fun h hf => ?_, fun h h0 h1 => ?_⟩, fun s => ⟨fun h => ?_, fun h => ?_⟩⟩,
    fun s w => ?_, fun s w old h => ⟨loseWellhead_doomed h, fun c => loseWellhead_loads h⟩,
    fun s w => ⟨fun c => exec_wellheadReplaced, exec_wellheadReplaced_none⟩⟩
  · intro p u wet hotIn low hotOut
    refine ⟨fun h => exec_coolantSample_off h r, fun h hr => ?_, fun h hr => ?_⟩
    · exact (exec_coolantSample h r).trans (congrArg _ (if_pos hr))
    · have hrun := (exec_coolantSample h r).trans (congrArg _ (if_neg (ne_false_of_eq_true hr)))
      refine ⟨fun hw => ?_, fun hw hi => ?_, fun hw hi hl => ?_, fun hw hi hl ho => ?_, fun hw hi hl ho => ?_⟩
      all_goals refine hrun.trans (congrArg Host.Outcome.next ?_)
      · exact if_pos hw
      · exact (if_neg (ne_true_of_eq_false hw)).trans (if_pos hi)
      · exact (if_neg (ne_true_of_eq_false hw)).trans ((if_neg (ne_true_of_eq_false hi)).trans (if_pos hl))
      · exact (if_neg (ne_true_of_eq_false hw)).trans ((if_neg (ne_true_of_eq_false hi)).trans
          ((if_neg (ne_true_of_eq_false hl)).trans (if_pos ho)))
      · exact (if_neg (ne_true_of_eq_false hw)).trans ((if_neg (ne_true_of_eq_false hi)).trans
          ((if_neg (ne_true_of_eq_false hl)).trans (if_neg (ne_true_of_eq_false ho))))
  · intro feeds
    refine ⟨fun h0 h1 => ?_, fun hf => ?_, rfl⟩
    · rw [exec_feedLoss, if_pos (by simp [feeds, h0, h1])]
    · rw [exec_feedLoss, if_neg (by simpa [imp_iff_not_or] using hf)]
  · exact (exec_epoNAssert s).trans (congrArg _ (if_pos h))
  · exact (exec_epoNAssert s).trans (congrArg _ (if_neg (ne_true_of_eq_false h)))
  · exact (exec_epoNDeassert h).trans (congrArg _ (if_pos (by simpa using hf)))
  · exact (exec_epoNDeassert h).trans (congrArg _ (if_neg (by simp [h0, h1])))
  · exact (exec_presentNLoss s).trans (congrArg _ (if_pos h))
  · exact (exec_presentNLoss s).trans (congrArg _ (if_neg (ne_true_of_eq_false h)))
  · intro u since polls
    exact ⟨exec_wellheadPoll_none, fun h => exec_wellheadPoll h true,
      fun h hn => (exec_wellheadPoll h false).trans (congrArg _ ((if_neg (by decide)).trans (if_pos hn))),
      fun h hn => (exec_wellheadPoll h false).trans (congrArg _ ((if_neg (by decide)).trans (if_neg (Nat.not_le.2 hn))))⟩

end Sys2Proof.Machine
end

section
/-! PROOFS. The block as a whole: steps, the reset memories, and bytes read after a write (spec/95_what_each_step_holds.md,
07_memory.md R199, 14_partitions_and_reset.md R390). -/

namespace Sys2Proof.Machine
open Sys2Proof

/-! ### Steps -/

theorem step_cons {s : State} {c : Instr} {rest : List Instr} (h : s.pending = c :: rest) : step s = exec c { s with pending := rest } := by
  unfold step
  rw [h]

theorem step_nil {s : State} (h : s.pending = []) : step s = .next (tick s) := by
  unfold step
  rw [h]

/-- Each row's meaning is a next state by definition. -/
theorem exec_next (c : Instr) (s : State) : ∃ t, exec c s = .next t := by
  cases c <;> exact ⟨_, rfl⟩

/-- Settles O1: a step by the queue's front, a command by its row. -/
theorem stepRunsFrontCommand : Obligations.StepRunsFrontCommand := by
  unfold Obligations.StepRunsFrontCommand
  exact ⟨fun s c rest => step_cons, fun s => step_nil, exec_next⟩

/-! ### Byte memories -/

theorem readBytes_empty (a n : Nat) : readBytes [] a n = List.replicate n 0 := by
  simp [readBytes, SMap.get]

/-- Settles O2: the memories list no byte at reset. -/
theorem resetMemoryCanonical : Obligations.ResetMemoryCanonical := by
  unfold Obligations.ResetMemoryCanonical
  exact ⟨⟨rfl, rfl, rfl⟩, rfl, fun a n => ⟨readBytes_empty a n, readBytes_empty a n⟩⟩

theorem readBytes_writeBytes_same (m : Memory) (a : Nat) (d : List Byte) : readBytes (writeBytes m a d) a d.length = d := by
  refine List.ext_getElem (readBytes_length _ _ _) fun i _ hi => ?_
  simp only [readBytes, List.getElem_map, List.getElem_range, get_writeBytes]
  rw [if_pos (by omega), Nat.add_sub_cancel_left, List.getD_eq_getElem _ _ hi]

theorem get_writeBytes_outside {m : Memory} {a b : Nat} {d : List Byte} (h : b < a ∨ a + d.length ≤ b) :
    SMap.get 0 (writeBytes m a d) b = SMap.get 0 m b := by
  rw [get_writeBytes, if_neg (by omega)]

/-- Settles O22: a byte is read from the data where the write reaches it, and from the memory elsewhere. -/
theorem memoryReadAfterWrite : Obligations.MemoryReadAfterWrite := by
  unfold Obligations.MemoryReadAfterWrite
  exact fun m a d h => ⟨writeBytes_wf m a d h, readBytes_writeBytes_same m a d, fun b => get_writeBytes_outside⟩

end Sys2Proof.Machine
end

section
/-!
PROOFS. Every step keeps the canonical form of the byte memories (O3). One lemma for each function of the model that
answers a state, in the order of the model's files: `f_mem` where the function does not touch the memories, and
`f_canonical` where it may, each from the lemmas of the functions it calls. One lemma for each instruction follows from
them, and the step from those.
-/
namespace Sys2Proof.Machine
open Sys2Proof

-- One proof at a time: these many searches, run side by side, would hold too much memory.
set_option Elab.async false

/-! ### The canonical form, and how it passes through folds, branches and pairs -/

/-- The byte memories of a memory state have their canonical form. -/
def MemState.Canonical (m : MemState) : Prop :=
  SMap.wf 0 m.sram = true ∧ SMap.wf 0 m.stack = true ∧ SMap.wf 0 m.host = true

/-- `MemoryCanonical` as a predicate of its own, which no tactic unfolds unasked. -/
def Canonical (s : State) : Prop := s.mem.Canonical

theorem canonical_iff {s : State} : Canonical s ↔ MemoryCanonical s := Iff.rfl

theorem Canonical.of_mem {s t : State} (h : Canonical s) (e : t.mem = s.mem) : Canonical t :=
  e.symm.subst (motive := MemState.Canonical) h

theorem Canonical.of_sramEmptied {s t : State} (h : Canonical s) (hs : t.mem.sram = []) (hk : t.mem.stack = s.mem.stack)
    (hh : t.mem.host = s.mem.host) : Canonical t :=
  ⟨by rw [hs]; rfl, by rw [hk]; exact h.2.1, by rw [hh]; exact h.2.2⟩

theorem Canonical.of_emptied {s t : State} (h : Canonical s) (hs : t.mem.sram = []) (hk : t.mem.stack = [])
    (hh : t.mem.host = s.mem.host) : Canonical t :=
  ⟨by rw [hs]; rfl, by rw [hk]; rfl, by rw [hh]; exact h.2.2⟩

/-- The outcome is a next state whose memories have the canonical form. -/
def Lands (o : Host.Outcome State Fault Refusal) : Prop := ∃ t, o = .next t ∧ Canonical t

theorem foldl_canonical {α : Type} {f : State → α → State} (hf : ∀ s a, Canonical s → Canonical (f s a)) {l : List α}
    {s : State} (h : Canonical s) : Canonical (l.foldl f s) := by
  induction l generalizing s with
  | nil => exact h
  | cons a l ih => exact ih (hf s a h)

theorem foldl_snd_canonical {α β : Type} {f : β × State → α → β × State} (hf : ∀ r a, Canonical r.2 → Canonical (f r a).2)
    {l : List α} {r : β × State} (h : Canonical r.2) : Canonical (l.foldl f r).2 := by
  induction l generalizing r with
  | nil => exact h
  | cons a l ih => exact ih (hf r a h)

theorem canonical_ite {c : Prop} [Decidable c] {a b : State} (ha : Canonical a) (hb : Canonical b) :
    Canonical (if c then a else b) := by
  split
  · exact ha
  · exact hb

theorem canonical_snd {α : Type} {p : α × State} {a : α} {t : State} (h : Canonical t) (e : p = (a, t)) : Canonical p.2 := by
  rw [e]
  exact h

theorem canonical_snd_ite {α : Type} {c : Prop} [Decidable c] {p q : α × State} (hp : Canonical p.2) (hq : Canonical q.2) :
    Canonical (if c then p else q).2 := by
  split
  · exact hp
  · exact hq

theorem canonical_with_t {u : State} (h : Canonical u) (t : Clocks) : Canonical ({ u with t := t } : State) := h
theorem canonical_with_num {u : State} (h : Canonical u) (n : Numerics) : Canonical ({ u with num := n } : State) := h
theorem canonical_with_boot {u : State} (h : Canonical u) (b : Boot) : Canonical ({ u with boot := b } : State) := h
theorem canonical_with_freeCount {u : State} (h : Canonical u) (n : Nat) : Canonical ({ u with freeCount := n } : State) := h
theorem canonical_with_clErr {u : State} (h : Canonical u) (m : SMap MemErr) :
    Canonical ({ u with mem := { u.mem with clErr := m } } : State) := h

theorem canonical_with_ioReply {u : State} (h : Canonical u) (b : Byte) : Canonical ({ u with ioReply := b } : State) := h

@[simp] theorem foldl_mem {α : Type} {f : State → α → State} (h : ∀ s a, (f s a).mem = s.mem) (l : List α) (s : State) :
    (l.foldl f s).mem = s.mem := by
  induction l generalizing s with
  | nil => rfl
  | cons a l ih => exact (ih _).trans (h s a)

theorem canonical_with_t_boot {u : State} (h : Canonical u) (t : Clocks) (b : Boot) :
    Canonical ({ u with t := t, boot := b } : State) := h


/-! ### The byte memories under the functions of Machine/Ops.lean -/

theorem waitTideLoop_mem (c : Cl) (target : Word) (k : Nat) (s : State) :
    (waitTideLoop c target k s).mem = s.mem := by
  induction k generalizing s with
  | zero => rfl
  | succ k ih =>
    simp only [waitTideLoop]
    split
    · rfl
    · exact ih _

@[simp] theorem waitTide_mem (s : State) (c : Cl) (target : Word) :
    (waitTide s c target).mem = s.mem := waitTideLoop_mem c target 64 s

theorem tileMemWrite_canonical (t : TileId) (slot : Nat) (v : BitVec 256) {s : State} (h : Canonical s) :
    Canonical (tileMemWrite t slot v s) := by
  unfold tileMemWrite
  grind [Canonical, MemState.Canonical, writeBytes_wf]

@[simp] theorem notifyOpt_mem (c : Cl) (n : Option NoteRef) (s : State) : (notifyOpt c n s).mem = s.mem := by
  unfold notifyOpt
  split <;> rfl

@[simp] theorem sendMsix_mem (f : FnId) (v : Fin 8) (s : State) : (sendMsix f v s).mem = s.mem := by
  unfold sendMsix
  dsimp only
  repeat' split
  all_goals simp

theorem hostWrite_canonical (a : Nat) (d : List Byte) {s : State} (h : Canonical s) :
    Canonical (hostWrite a d s) := by
  unfold hostWrite
  grind [Canonical, MemState.Canonical, writeBytes_wf]

theorem deliver_canonical (f : FnId) (e : EvCode) (unit : BitVec 32) (tide : Word) (detail : List Byte) {s : State}
    (h : Canonical s) :
    Canonical (deliver f e unit tide detail s) := by
  unfold deliver
  grind [Canonical, hostWrite_canonical, sendMsix_mem, setFn_mem]

theorem postTo_canonical (e : EvCode) (unit : BitVec 32) (ps : List (Fin 64)) (all : Bool) (tide : Word)
    (detail : List Byte)
    {s : State} (h : Canonical s) :
    Canonical (postTo e unit ps all tide detail s) := by
  unfold postTo
  grind [Canonical, deliver_canonical, foldl_canonical]

theorem postEvent_canonical (e : EvCode) (unit : BitVec 32) (part : Option (Fin 64)) (tide : Word) (detail : List Byte)
    {s : State} (h : Canonical s) :
    Canonical (postEvent e unit part tide detail s) := by
  unfold postEvent
  grind [Canonical, postTo_canonical]

theorem postEccUncorrected_canonical (unit : BitVec 32) (part : Option (Fin 64)) (tide : Word) (addr : Word)
    (byUnit : BitVec 32) (memKind : Nat) (loc : Nat) {s : State} (h : Canonical s) :
    Canonical (postEccUncorrected unit part tide addr byUnit memKind loc s) := by
  unfold postEccUncorrected
  grind [Canonical, postEvent_canonical]

theorem postEccCorrected_canonical (unit : BitVec 32) (tide : Word) (addr : Word) (n : Nat) {s : State} (h : Canonical s) :
    Canonical (postEccCorrected unit tide addr n s) :=
  canonical_ite (h.of_mem rfl) (postTo_canonical _ _ _ _ _ _ (h.of_mem rfl))

theorem postHeldEcc_canonical (unit : BitVec 32) (tide : Word) (addr : Word) {s : State} (h : Canonical s) :
    Canonical (postHeldEcc unit tide addr s) := by
  unfold postHeldEcc
  grind [Canonical, postEccCorrected_canonical]

theorem wrapEvent_canonical (unit : BitVec 32) (addr : Word) (opcode : Nat) (p : Option (Fin 64)) (old : Word) (n : Nat)
    {s : State} (h : Canonical s) :
    Canonical (wrapEvent unit addr opcode p old n s) := by
  unfold wrapEvent
  grind [Canonical, postEvent_canonical]

theorem counterWrap_canonical (addr : Word) (part : Option (Fin 64)) (old : Word) (n : Nat) {s : State} (h : Canonical s) :
    Canonical (counterWrap addr part old n s) := by
  unfold counterWrap
  grind [Canonical, wrapEvent_canonical]

theorem lostNan_canonical (c : Cl) (n : Nat) {s : State} (h : Canonical s) : Canonical (lostNan c n s) := by
  unfold lostNan
  grind [Canonical, counterWrap_canonical, setNum_mem]

@[simp] theorem reportNan_mem (c : Cl) (who : NanUnit) (unit : BitVec 32) (source : Nat) (format : Nat) (cause : Nat)
    (loc : Word) (n : Nat) (s : State) :
    (reportNan c who unit source format cause loc n s).mem = s.mem := by
  unfold reportNan
  dsimp only
  repeat' split
  all_goals simp

@[simp] theorem reportOvf_mem (c : Cl) (unit : BitVec 32) (n : Nat) (s : State) :
    (reportOvf c unit n s).mem = s.mem := by
  unfold reportOvf
  dsimp only
  repeat' split
  all_goals simp

@[simp] theorem reportUdf_mem (c : Cl) (unit : BitVec 32) (n : Nat) (s : State) :
    (reportUdf c unit n s).mem = s.mem := by
  unfold reportUdf
  dsimp only
  repeat' split
  all_goals simp

/-! ### The byte memories under the functions of Machine/Access.lean -/

theorem sramError_canonical (c : Cl) (corr : List Nat) (bad : List Nat) (ra : Bool) (byUnit : BitVec 32) {s : State}
    (h : Canonical s) :
    Canonical (sramError c corr bad ra byUnit s) := by
  unfold sramError
  grind [Canonical, MemState.Canonical, counterWrap_canonical, postEccCorrected_canonical,
    postEccUncorrected_canonical]

theorem stackError_canonical (n : Fin 48) (corr : List Nat) (bad : List Nat) (phys : Nat) (addr : Word)
    (part : Option (Fin 64))
    (ra : Bool) (byUnit : BitVec 32) {s : State} (h : Canonical s) :
    Canonical (stackError n corr bad phys addr part ra byUnit s) := by
  unfold stackError
  grind [Canonical, MemState.Canonical, counterWrap_canonical, postEccCorrected_canonical,
    postEccUncorrected_canonical]

@[simp] theorem addStrikes_mem (stack : Bool) (err : SMap Nat) (us : List Nat) (s : State) :
    (addStrikes stack err us s).mem = s.mem := by
  unfold addStrikes
  dsimp only
  repeat' split
  all_goals simp

theorem sramRead_canonical (a : Word) (n : Nat) (ra : Bool) (byUnit : BitVec 32) {s : State} (h : Canonical s) :
    Canonical (sramRead a n ra byUnit s).2.2 := by
  unfold sramRead
  grind [Canonical, MemState.Canonical, addStrikes_mem, sramError_canonical]

theorem sramWrite_canonical (a : Word) (d : List Byte) (byUnit : BitVec 32) {s : State} (h : Canonical s) :
    Canonical (sramWrite a d byUnit s).2 := by
  unfold sramWrite
  grind [Canonical, MemState.Canonical, addStrikes_mem, sramError_canonical, writeBytes_wf]

theorem stackRead_canonical (n : Fin 48) (phys : Nat) (len : Nat) (addr : Word) (part : Option (Fin 64)) (ra : Bool)
    (byUnit : BitVec 32) {s : State} (h : Canonical s) :
    Canonical (stackRead n phys len addr part ra byUnit s).2.2 := by
  unfold stackRead
  grind [Canonical, MemState.Canonical, addStrikes_mem, stackError_canonical]

theorem zeroAhead_canonical (n : Fin 48) (phys : Nat) {s t : State} (h : Canonical s) (e : zeroAhead n phys s = some t) :
    Canonical t := by
  unfold zeroAhead at e
  grind [Canonical, MemState.Canonical, SMap.wf_filter]

theorem stackWrite_canonical (n : Fin 48) (phys : Nat) (d : List Byte) (addr : Word) (part : Option (Fin 64))
    (byUnit : BitVec 32)
    {s t : State} {st : Byte} (h : Canonical s) (e : stackWrite n phys d addr part byUnit s = some (st, t)) : Canonical t
        := by
  unfold stackWrite at e
  split at e
  · cases e
  · next u hz =>
    have hu : Canonical u := zeroAhead_canonical n phys h hz
    grind [Canonical, MemState.Canonical, addStrikes_mem, stackError_canonical, writeBytes_wf]

theorem rekeyPage_canonical (n : Fin 48) (page : Nat) (job : Nat) (holder : Option (Fin 64)) (index : Nat) {s : State}
    (h : Canonical s) :
    Canonical (rekeyPage n page job holder index s) := by
  unfold rekeyPage
  grind [Canonical, MemState.Canonical, SMap.wf_filter]

@[simp] theorem issueReq_mem (who : Requester) (p : Option (Fin 64)) (k : ReqKind) (a : Word) (len : Nat) (data : List Byte)
    (operand : Word) (sat : Bool) (ra : Bool) (home : Cl) (use : Use) (s : State) :
    (issueReq who p k a len data operand sat ra home use s).mem = s.mem := rfl

theorem sendPkt_canonical (port : Fin 16) (pkt : OcsalPkt) {s : State} (h : Canonical s) :
    Canonical (sendPkt port pkt s) := by
  unfold sendPkt
  grind [Canonical, setPort_mem, wrapEvent_canonical]

theorem replyOut_canonical (x : Xact) (mod : BitVec 8) (p : Fin 64) (port : Fin 16) (tag : Nat) (st : Byte)
    (data : List Byte)
    {s : State} (h : Canonical s) :
    Canonical (replyOut x mod p port tag st data s) := by
  unfold replyOut
  grind [Canonical, sendPkt_canonical]

theorem countLate_canonical (c : Cl) {s : State} (h : Canonical s) : Canonical (countLate c s) := by
  unfold countLate
  grind [Canonical, setCtr_mem, wrapEvent_canonical]

theorem countDiscard_canonical (c : Cl) {s : State} (h : Canonical s) : Canonical (countDiscard c s) := by
  unfold countDiscard
  grind [Canonical, setCtr_mem, wrapEvent_canonical]

theorem pendingHome_canonical (x : Xact) (id : Nat) {s : State} (h : Canonical s) :
    Canonical (pendingHome x id s) := by
  unfold pendingHome
  grind [Canonical, sendPkt_canonical, setXact_mem]

theorem atHome_canonical (x : Xact) (st : Byte) (data : List Byte) {s : State} (h : Canonical s) :
    Canonical (atHome x st data s) := by
  unfold atHome
  grind [Canonical, countLate_canonical, dropXact_mem, pendingHome_canonical, replyOut_canonical, setXact_mem]

@[simp] theorem answerAt_mem (r : Cl) (port : Fin 5) (x : Xact) (st : Byte) (data : List Byte) (s : State) :
    (answerAt r port x st data s).mem = s.mem := rfl

theorem answer_canonical (x : Xact) (st : Byte) (data : List Byte) {s : State} (h : Canonical s) :
    Canonical (answer x st data s) := by
  unfold answer
  grind [Canonical, answerAt_mem, atHome_canonical]

/-! ### The byte memories under the functions of Machine/Array.lean -/

@[simp] theorem updArr_mem (c : Cl) (f : ArrRec → ArrRec) (s : State) : (updArr c f s).mem = s.mem := rfl

@[simp] theorem updTile_mem (t : TileId) (f : TileRec → TileRec) (s : State) : (updTile t f s).mem = s.mem := rfl

@[simp] theorem touch_mem (c : Cl) (s : State) : (touch c s).mem = s.mem := rfl

theorem addDiscard_canonical (c : Cl) (n : Nat) {s : State} (h : Canonical s) : Canonical (addDiscard c n s) := by
  unfold addDiscard
  grind [Canonical, counterWrap_canonical, updArr_mem]

theorem sendOn_canonical (t : TileId) (d : Fin 4) (tok : Token) {s : State} (h : Canonical s) :
    Canonical (sendOn t d tok s) := by
  unfold sendOn
  grind [Canonical, addDiscard_canonical, updTile_mem]

theorem sendMask_canonical (t : TileId) (mask : Nat) (tok : Token) {s : State} (h : Canonical s) :
    Canonical (sendMask t mask tok s) := by
  unfold sendMask
  grind [Canonical, sendOn_canonical, foldl_canonical]

@[simp] theorem popHead_mem (t : TileId) (d : Fin 4) (s : State) : (popHead t d s).mem = s.mem := rfl

@[simp] theorem takeOperand_mem (t : TileId) (port : Nat) (s : State) : (takeOperand t port s).mem = s.mem := by
  unfold takeOperand
  split <;> rfl

@[simp] theorem emit_mem (t : TileId) (r : Fin 2) (toks : List Token) (s : State) :
    (emit t r toks s).mem = s.mem := by
  unfold emit
  split <;> rfl

@[simp] theorem abandonIo_mem (t : TileId) (s : State) : (abandonIo t s).mem = s.mem := rfl

@[simp] theorem activateKind_mem (t : TileId) (n : Nat) (s : State) : (activateKind t n s).mem = s.mem := by
  unfold activateKind
  split <;> rfl

@[simp] theorem activateTile_mem (t : TileId) (slot : Fin 4) (epoch : BitVec 2) (s : State) :
    (activateTile t slot epoch s).mem = s.mem := by
  simp [activateTile]

theorem activateAll_canonical (c : Cl) (slot : Fin 4) (epoch : BitVec 2) {s : State} (h : Canonical s) :
    Canonical (activateAll c slot epoch s) := by
  unfold activateAll
  grind [Canonical, activateTile_mem, updArr_mem, foldl_canonical]

theorem startSwitch_canonical (c : Cl) (slot : Fin 4) (note : Option NoteRef) {s : State} (h : Canonical s) :
    Canonical (startSwitch c slot note s) := by
  unfold startSwitch
  grind [Canonical, activateAll_canonical, notifyOpt_mem, updArr_mem, updTile_mem, foldl_canonical]

@[simp] theorem finishSwitch_mem (c : Cl) (s : State) : (finishSwitch c s).mem = s.mem := by
  unfold finishSwitch
  dsimp only
  repeat' split
  all_goals simp

theorem switchTile_canonical (t : TileId) (w : Switching) {s : State} (h : Canonical s) :
    Canonical (switchTile t w s) := by
  unfold switchTile
  grind [Canonical, activateTile_mem, addDiscard_canonical, finishSwitch_mem, sendMask_canonical, updArr_mem,
    updTile_mem, foldl_canonical]

@[simp] theorem execSourceSwitch_canonical (t : TileId) {s : State} (h : Canonical s) : Lands (execSourceSwitch t s) := by
  refine ⟨_, rfl, ?_⟩
  grind [Canonical, switchTile_canonical]

@[simp] theorem execTileSwitch_canonical (t : TileId) {s : State} (h : Canonical s) : Lands (execTileSwitch t s) := by
  refine ⟨_, rfl, ?_⟩
  grind [Canonical, switchTile_canonical]

@[simp] theorem purgeTile_mem (t : TileId) (s : State) : (purgeTile t s).mem = s.mem := rfl

@[simp] theorem dropPending_mem (c : Cl) (s : State) : (dropPending c s).mem = s.mem := by
  unfold dropPending
  split <;> simp

theorem forceSwitch_canonical (c : Cl) (slot : Fin 4) (note : Option NoteRef) {s : State} (h : Canonical s) :
    Canonical (forceSwitch c slot note s) := by
  unfold forceSwitch
  grind [Canonical, activateAll_canonical, addDiscard_canonical, dropPending_mem, notifyOpt_mem, purgeTile_mem,
    updArr_mem, foldl_canonical]

@[simp] theorem switchRefused_mem (c : Cl) (note : Option NoteRef) (st : Byte) (s : State) :
    (switchRefused c note st s).mem = s.mem := by
  simp [switchRefused]

theorem switchReq_canonical (c : Cl) (v : Nat) {s : State} (h : Canonical s) : Canonical (switchReq c v s) := by
  unfold switchReq
  grind [Canonical, dropPending_mem, forceSwitch_canonical, startSwitch_canonical, switchRefused_mem, updArr_mem]

theorem arrWrite_canonical (who : Requester) (c : Cl) {f : State → State} {s : State} (h : Canonical s)
    (hf : Canonical (f s)) :
    Canonical (arrWrite who c f s) := by
  unfold arrWrite
  grind [Canonical, reply_mem]

@[simp] theorem execSwitchNormalNow_canonical (who : Requester) (c : Cl) (v : Word) {s : State} (h : Canonical s) :
    Lands (execSwitchNormalNow who c v s) := by
  refine ⟨_, rfl, ?_⟩
  grind [Canonical, arrWrite_canonical, switchReq_canonical]

@[simp] theorem execSwitchAtTide_canonical (who : Requester) (c : Cl) (v : Word) {s : State} (h : Canonical s) :
    Lands (execSwitchAtTide who c v s) := by
  refine ⟨_, rfl, ?_⟩
  grind [Canonical, arrWrite_canonical, switchReq_canonical]

@[simp] theorem execSwitchForced_canonical (who : Requester) (c : Cl) (v : Word) {s : State} (h : Canonical s) :
    Lands (execSwitchForced who c v s) := by
  refine ⟨_, rfl, ?_⟩
  grind [Canonical, arrWrite_canonical, switchReq_canonical]

theorem startPending_canonical (c : Cl) (p : PendSwitch) (late : Bool) {s : State} (h : Canonical s) :
    Canonical (startPending c p late s) := by
  unfold startPending
  grind [Canonical, startSwitch_canonical, updArr_mem]

@[simp] theorem execSwitchLaunch_canonical (c : Cl) {s : State} (h : Canonical s) : Lands (execSwitchLaunch c s) := by
  refine ⟨_, rfl, ?_⟩
  grind [Canonical, startPending_canonical, waitTide_mem]

@[simp] theorem execPendingSwitchStart_canonical (c : Cl) {s : State} (h : Canonical s) :
    Lands (execPendingSwitchStart c s) := by
  refine ⟨_, rfl, ?_⟩
  grind [Canonical, dropPending_mem, startPending_canonical]

@[simp] theorem execHeldForcedSwitchStart_canonical (c : Cl) {s : State} (h : Canonical s) :
    Lands (execHeldForcedSwitchStart c s) := by
  refine ⟨_, rfl, ?_⟩
  grind [Canonical, forceSwitch_canonical, switchRefused_mem, updArr_mem]

@[simp] theorem freezeArr_mem (c : Cl) (cause : BitVec 2) (s : State) : (freezeArr c cause s).mem = s.mem := rfl

theorem stallArr_canonical (c : Cl) (cause : BitVec 2) (detailCause : Nat) (unit : BitVec 32) {s : State} (h : Canonical s)
    :
    Canonical (stallArr c cause detailCause unit s) := by
  unfold stallArr
  grind [Canonical, freezeArr_mem, postEvent_canonical]

@[simp] theorem execArrayStall_canonical (c : Cl) {s : State} (h : Canonical s) : Lands (execArrayStall c s) := by
  refine ⟨_, rfl, ?_⟩
  grind [Canonical, stallArr_canonical, waitUntil_mem]

@[simp] theorem setCmdStatus_mem (c : Cl) (st : Byte) (s : State) : (setCmdStatus c st s).mem = s.mem := rfl

@[simp] theorem execArrayFreeze_canonical (who : Requester) (c : Cl) (v : Word) {s : State} (h : Canonical s) :
    Lands (execArrayFreeze who c v s) := by
  refine ⟨_, rfl, ?_⟩
  grind [Canonical, arrWrite_canonical, freezeArr_mem, setCmdStatus_mem]

theorem restartRamps_canonical (c : Cl) {s : State} (h : Canonical s) : Canonical (restartRamps c s) := by
  unfold restartRamps
  grind [Canonical, setMul_mem, foldl_canonical]

@[simp] theorem execArrayResume_canonical (who : Requester) (c : Cl) (v : Word) {s : State} (h : Canonical s) :
    Lands (execArrayResume who c v s) := by
  refine ⟨_, rfl, ?_⟩
  grind [Canonical, arrWrite_canonical, restartRamps_canonical, setCmdStatus_mem, updArr_mem]

@[simp] theorem execArrayRelease_canonical (who : Requester) (c : Cl) (v : Word) {s : State} (h : Canonical s) :
    Lands (execArrayRelease who c v s) := by
  refine ⟨_, rfl, ?_⟩
  grind [Canonical, arrWrite_canonical, setCmdStatus_mem, updArr_mem]

@[simp] theorem loadEnds_mem (c : Cl) (note : Option NoteRef) (st : Byte) (s : State) :
    (loadEnds c note st s).mem = s.mem := by
  simp [loadEnds]

@[simp] theorem execCtxLoad_canonical (who : Requester) (c : Cl) (v : Word) {s : State} (h : Canonical s) :
    Lands (execCtxLoad who c v s) := by
  refine ⟨_, rfl, ?_⟩
  grind [Canonical, arrWrite_canonical, loadEnds_mem, updArr_mem]

theorem loadImage_canonical (c : Cl) (off : Nat) {s : State} (h : Canonical s) :
    Canonical (loadImage c off s).2 := canonical_snd (sramRead_canonical (clAddr 1 c off) 32768 false (clUnit c) h) rfl

@[simp] theorem execRillCreditReturn_canonical (t : TileId) (d : Fin 4) {s : State} (h : Canonical s) :
    Lands (execRillCreditReturn t d s) := by
  refine ⟨_, rfl, ?_⟩
  grind [Canonical, updTile_mem]

theorem sendPass_canonical (t : TileId) (d : Fin 4) {s : State} (h : Canonical s) : Canonical (sendPass t d s) := by
  unfold sendPass
  grind [Canonical, sendOn_canonical, touch_mem, updTile_mem]

theorem sendResult_canonical (t : TileId) (r : Fin 2) {s : State} (h : Canonical s) :
    Canonical (sendResult t r s) := by
  unfold sendResult
  grind [Canonical, sendMask_canonical, touch_mem, updTile_mem]

/-! ### The byte memories under the functions of Machine/Ports.lean -/

theorem portEvent_canonical (e : EvCode) (p : Fin 16) (reason : Nat) (lanes : Nat) {s : State} (h : Canonical s) :
    Canonical (portEvent e p reason lanes s) := by
  unfold portEvent
  grind [Canonical, postTo_canonical]

@[simp] theorem bypassTo_mem (k : Fin 4) (close : Bool) (s : State) : (bypassTo k close s).mem = s.mem := by
  unfold bypassTo
  split <;> rfl

theorem closePair_canonical (p : Fin 16) (reason : Nat) {s : State} (h : Canonical s) :
    Canonical (closePair p reason s) := by
  unfold closePair
  grind [Canonical, bypassTo_mem, portEvent_canonical, setPort_mem]

theorem portDark_canonical (p : Fin 16) (reason : Nat) {s : State} (h : Canonical s) :
    Canonical (portDark p reason s) := by
  unfold portDark
  grind [Canonical, closePair_canonical, portEvent_canonical, setPort_mem]

theorem portFail_canonical (p : Fin 16) (reason : Nat) (st : Byte) {s : State} (h : Canonical s) :
    Canonical (portFail p reason st s) := by
  unfold portFail
  grind [Canonical, closePair_canonical, portEvent_canonical, setPort_mem]

theorem toRetrain_canonical (p : Fin 16) {s : State} (h : Canonical s) : Canonical (toRetrain p s) := by
  unfold toRetrain
  grind [Canonical, portFail_canonical, setPort_mem]

theorem retrainAll_canonical {s : State} (h : Canonical s) : Canonical (retrainAll s) := by
  unfold retrainAll
  grind [Canonical, toRetrain_canonical, foldl_canonical]

@[simp] theorem controlOut_mem (m : BitVec 8) (code : BitVec 4) (payload : List Byte) (s : State) :
    (controlOut m code payload s).mem = s.mem := by
  unfold controlOut
  split <;> rfl

/-! ### The byte memories under the functions of Machine/Ctx.lean -/

@[simp] theorem updCtx_mem (x : CtxId) (f : CtxRec → CtxRec) (s : State) : (updCtx x f s).mem = s.mem := rfl

@[simp] theorem wx_mem (x : CtxId) (i : Reg) (v : Word) (s : State) : (wx x i v s).mem = s.mem := rfl

@[simp] theorem wv_mem (x : CtxId) (i : Reg) (v : BitVec 256) (s : State) : (wv x i v s).mem = s.mem := rfl

@[simp] theorem wf_mem (x : CtxId) (i : Reg) (wide : Bool) (v : Nat) (s : State) : (wf x i wide v s).mem = s.mem := by
  unfold wf
  split <;> rfl

theorem coreWrap_canonical (c : Cl) (k : Nat) (off : Nat) (old : Word) (n : Nat) {s : State} (h : Canonical s) :
    Canonical (coreWrap c k off old n s) := by
  unfold coreWrap
  grind [Canonical, counterWrap_canonical]

theorem addIssued_canonical (x : CtxId) {s : State} (h : Canonical s) : Canonical (addIssued x s) := by
  unfold addIssued
  grind [Canonical, coreWrap_canonical, setCore_mem]

theorem addRaIssued_canonical (x : CtxId) {s : State} (h : Canonical s) : Canonical (addRaIssued x s) := by
  unfold addRaIssued
  grind [Canonical, coreWrap_canonical, setCore_mem]

theorem addRaUsed_canonical (x : CtxId) {s : State} (h : Canonical s) : Canonical (addRaUsed x s) := by
  unfold addRaUsed
  grind [Canonical, coreWrap_canonical, setCore_mem]

theorem addRaDiscarded_canonical (x : CtxId) (n : Nat) {s : State} (h : Canonical s) :
    Canonical (addRaDiscarded x n s) := by
  unfold addRaDiscarded
  grind [Canonical, coreWrap_canonical, setCore_mem]

theorem addMisses_canonical (x : CtxId) {s : State} (h : Canonical s) : Canonical (addMisses x s) := by
  unfold addMisses
  grind [Canonical, coreWrap_canonical, setCore_mem]

theorem issueInstr_canonical (x : CtxId) (rs : List MemReg) {f : State → State} {s : State} (h : Canonical s)
    (hf : Canonical (f s)) :
    Canonical (issueInstr x rs f s) := by
  unfold issueInstr
  split
  · exact hf
  · exact h

theorem retire_canonical (x : CtxId) {s : State} (h : Canonical s) : Canonical (retire x s) := by
  unfold retire
  grind [Canonical, addIssued_canonical, updCtx_mem]

theorem endWait_canonical (x : CtxId) {s : State} (h : Canonical s) : Canonical (endWait x s) := by
  unfold endWait
  grind [Canonical, coreWrap_canonical, setCore_mem, setCtx_mem]

@[simp] theorem unwait_mem (w : Waiter) (s : State) : (unwait w s).mem = s.mem := rfl

theorem dropEntries_canonical (x : CtxId) {s : State} (h : Canonical s) : Canonical (dropEntries x s) := by
  unfold dropEntries
  grind [Canonical, addRaDiscarded_canonical, setCtx_mem]

@[simp] theorem endRunahead_mem (x : CtxId) (s : State) : (endRunahead x s).mem = s.mem := rfl

theorem dropOverlapped_canonical (x : CtxId) (a : Word) (n : Nat) {s : State} (h : Canonical s) :
    Canonical (dropOverlapped x a n s) := by
  unfold dropOverlapped
  grind [Canonical, addRaDiscarded_canonical, setCtx_mem]

theorem takeTrap_canonical (x : CtxId) (cause : Byte) (st : Byte) (fmt : BitVec 5) (tpc : BitVec 48) (addr : Word)
    (resume : BitVec 48) {s : State} (h : Canonical s) :
    Canonical (takeTrap x cause st fmt tpc addr resume s) := by
  unfold takeTrap
  grind [Canonical, dropEntries_canonical, endRunahead_mem, endWait_canonical, notify_mem, unwait_mem, updCtx_mem]

theorem trapHere_canonical (x : CtxId) (cause : Byte) (fmt : BitVec 5) (addr : Word) {s : State} (h : Canonical s) :
    Canonical (trapHere x cause fmt addr s) := by
  unfold trapHere
  grind [Canonical, takeTrap_canonical]

theorem illegal_canonical (x : CtxId) {s : State} (h : Canonical s) : Canonical (illegal x s) := by
  unfold illegal
  grind [Canonical, trapHere_canonical]

theorem mismatch_canonical (x : CtxId) (f : Fmt) {s : State} (h : Canonical s) : Canonical (mismatch x f s) := by
  unfold mismatch
  grind [Canonical, trapHere_canonical]

theorem accessTrap_canonical (x : CtxId) (st : Byte) (tpc : BitVec 48) (addr : Word) {s : State} (h : Canonical s) :
    Canonical (accessTrap x st tpc addr s) := by
  unfold accessTrap
  grind [Canonical, takeTrap_canonical]

@[simp] theorem coreReport_mem (x : CtxId) (vector : Bool) (fmt : Nat) (ns : List Num) (s : State) :
    (coreReport x vector fmt ns s).mem = s.mem := by
  unfold coreReport
  dsimp only
  repeat' split
  all_goals simp

@[simp] theorem coreDraws_mem (x : CtxId) (grad : Bool) (n : Nat) (s : State) :
    (coreDraws x grad n s).2.mem = s.mem := setCore_mem _ _ _ _

@[simp] theorem seedCore_mem (c : Cl) (k : Nat) (s : State) : (seedCore c k s).mem = s.mem := by
  unfold seedCore
  split <;> rfl

@[simp] theorem orphan_mem (x : CtxId) (s : State) : (orphan x s).mem = s.mem := rfl

theorem ctxReset_canonical (x : CtxId) {s : State} (h : Canonical s) : Canonical (ctxReset x s) := by
  unfold ctxReset
  grind [Canonical, dropEntries_canonical, endWait_canonical, orphan_mem, setCtx_mem, unwait_mem]

theorem resetCtxs_canonical (c : Cl) {s : State} (h : Canonical s) : Canonical (resetCtxs c s) := by
  unfold resetCtxs
  grind [Canonical, ctxReset_canonical, setCtx_mem, foldl_canonical]

theorem resetCores_canonical (c : Cl) {s : State} (h : Canonical s) : Canonical (resetCores c s) := by
  unfold resetCores
  grind [Canonical, resetCtxs_canonical, seedCore_mem, setCore_mem, foldl_canonical]

/-! ### The byte memories under the functions of Machine/Target.lean -/

theorem atTarget_canonical (id : Nat) (wanted : Xact → Bool) {f : Xact → Cl → State → State} {s : State} (h : Canonical s)
    (hf : ∀ x c, Canonical (f x c s)) :
    Canonical (atTarget id wanted f s) := by
  unfold atTarget
  grind [Canonical, answer_canonical]

theorem takeReply_canonical (id : Nat) (wanted : Use → Bool) {f : Xact → Byte → List Byte → State → State} {s : State}
    (h : Canonical s) (hf : ∀ x st d, Canonical (f x st d (dropXact id s))) :
    Canonical (takeReply id wanted f s) := by
  unfold takeReply
  grind [Canonical, dropXact_mem]

/-! ### The byte memories under the functions of Machine/Sync.lean -/

theorem finishWait_canonical (x : CtxId) (rd : Reg) (result : Word) {s : State} (h : Canonical s) :
    Canonical (finishWait x rd result s) := by
  unfold finishWait
  grind [Canonical, dropEntries_canonical, endWait_canonical, retire_canonical, updCtx_mem, wx_mem]

theorem wakeWaiters_canonical (c : Cl) (core : Nat) (obj : Nat) {s : State} (h : Canonical s) :
    Canonical (wakeWaiters c core obj s) := by
  unfold wakeWaiters
  grind [Canonical, finishWait_canonical, foldl_canonical]

theorem setObj_canonical (c : Cl) (core : Nat) (obj : Nat) (v : BitVec 32) {s : State} (h : Canonical s) :
    Canonical (setObj c core obj v s) := by
  unfold setObj
  grind [Canonical, wakeWaiters_canonical]

theorem objInstr_canonical (x : CtxId) (rd : Reg) (ra : Reg) (rs : List MemReg) (op : Nat) (v : Word) (cmp : Word)
    {s : State} (h : Canonical s) :
    Canonical (objInstr x rd ra rs op v cmp s) := by
  unfold objInstr
  grind [Canonical, dropEntries_canonical, issueInstr_canonical, issueReq_mem, retire_canonical]

@[simp] theorem execObjrd_canonical (x : CtxId) (rd : Reg) (ra : Reg) {s : State} (h : Canonical s) :
    Lands (execObjrd x rd ra s) := by
  refine ⟨_, rfl, ?_⟩
  grind [Canonical, objInstr_canonical]

@[simp] theorem execObjset_canonical (x : CtxId) (rd : Reg) (ra : Reg) (rv : Reg) {s : State} (h : Canonical s) :
    Lands (execObjset x rd ra rv s) := by
  refine ⟨_, rfl, ?_⟩
  grind [Canonical, objInstr_canonical]

@[simp] theorem execObjadd_canonical (x : CtxId) (rd : Reg) (ra : Reg) (rv : Reg) {s : State} (h : Canonical s) :
    Lands (execObjadd x rd ra rv s) := by
  refine ⟨_, rfl, ?_⟩
  grind [Canonical, objInstr_canonical]

@[simp] theorem execObjcas_canonical (x : CtxId) (rd : Reg) (ra : Reg) (rc : Reg) (rv : Reg) {s : State} (h : Canonical s) :
    Lands (execObjcas x rd ra rc rv s) := by
  refine ⟨_, rfl, ?_⟩
  grind [Canonical, objInstr_canonical]

theorem objServe_canonical (id : Nat) (op : Nat) (f : BitVec 32 → Xact → BitVec 32) {s : State} (h : Canonical s) :
    Canonical (objServe id op f s) := by
  unfold objServe
  grind [Canonical, answer_canonical, atTarget_canonical, setObj_canonical]

@[simp] theorem execObjectRead_canonical (id : Nat) {s : State} (h : Canonical s) : Lands (execObjectRead id s) := by
  refine ⟨_, rfl, ?_⟩
  grind [Canonical, objServe_canonical]

@[simp] theorem execObjectSet_canonical (id : Nat) {s : State} (h : Canonical s) : Lands (execObjectSet id s) := by
  refine ⟨_, rfl, ?_⟩
  grind [Canonical, objServe_canonical]

@[simp] theorem execObjectCas_canonical (id : Nat) {s : State} (h : Canonical s) : Lands (execObjectCas id s) := by
  refine ⟨_, rfl, ?_⟩
  grind [Canonical, objServe_canonical]

@[simp] theorem setChan_mem (ch : ChanId) (r : ChanRec) (s : State) : (setChan ch r s).mem = s.mem := rfl

@[simp] theorem setDesc_mem (ch : ChanId) (d : Desc) (s : State) : (setDesc ch d s).mem = s.mem := rfl

@[simp] theorem sendNote_mem (ch : ChanId) (d : Desc) (s : State) : (sendNote ch d s).mem = s.mem := by
  unfold sendNote
  dsimp only
  repeat' split
  all_goals simp

theorem settleHead_canonical (ch : ChanId) (k : Nat) {s : State} (h : Canonical s) :
    Canonical (settleHead ch k s) := by
  induction k generalizing s with
  | zero => exact h
  | succ k ih =>
    unfold settleHead
    grind [Canonical, sendNote_mem, setDesc_mem, setChan_mem]

theorem finishDesc_canonical (ch : ChanId) (d : Desc) {s : State} (h : Canonical s) :
    Canonical (finishDesc ch d s) := by
  unfold finishDesc
  grind [Canonical, counterWrap_canonical, setChan_mem, settleHead_canonical]

@[simp] theorem haltDesc_mem (ch : ChanId) (d : Desc) (st : Byte) (u : Nat) (off : Nat) (s : State) :
    (haltDesc ch d st u off s).mem = s.mem := by
  unfold haltDesc
  dsimp only
  repeat' split
  all_goals simp

theorem noteDone_canonical (ch : ChanId) (serial : Nat) (st : Byte) {s : State} (h : Canonical s) :
    Canonical (noteDone ch serial st s) := by
  unfold noteDone
  grind [Canonical, finishDesc_canonical, haltDesc_mem]

theorem noteApply_canonical (i : Nat) {fail : TileId → Byte → State → State} {s : State} (h : Canonical s)
    (hf : ∀ t st u, Canonical u → Canonical (fail t st u)) :
    Canonical (noteApply i fail s) := by
  unfold noteApply
  grind [Canonical, setObj_canonical, noteDone_canonical]

@[simp] theorem execWait_canonical (x : CtxId) (rd : Reg) (ra : Reg) (rb : Reg) (rc : Reg) {s : State} (h : Canonical s) :
    Lands (execWait x rd ra rb rc s) := by
  refine ⟨_, rfl, ?_⟩
  grind [Canonical, accessTrap_canonical, endRunahead_mem, finishWait_canonical, issueInstr_canonical,
    retire_canonical, updCtx_mem]

@[simp] theorem setBar_mem (c : Cl) (b : Nat) (r : BarRec) (s : State) : (setBar c b r s).mem = s.mem := rfl

@[simp] theorem setRoot_mem (p : Fin 64) (b : Nat) (r : Option BarRoot) (s : State) :
    (setRoot p b r s).mem = s.mem := rfl

@[simp] theorem sendBar_mem (k : BarPkt) (s : State) : (sendBar k s).mem = s.mem := rfl

@[simp] theorem sendArrival_mem (p : Fin 64) (c : Cl) (b : Fin 32) (s : State) :
    (sendArrival p c b s).mem = s.mem := rfl

@[simp] theorem barArrive_mem (p : Fin 64) (c : Cl) (b : Fin 32) (s : State) : (barArrive p c b s).2.mem = s.mem := by
  unfold barArrive
  dsimp only
  repeat' split
  all_goals simp

@[simp] theorem execBarrive_canonical (x : CtxId) (rd : Reg) (rb : Reg) {s : State} (h : Canonical s) :
    Lands (execBarrive x rd rb s) := by
  refine ⟨_, rfl, ?_⟩
  grind [Canonical, barArrive_mem, issueInstr_canonical, retire_canonical, wx_mem]

theorem sendReleases_canonical (p : Fin 64) (b : Fin 32) (ms : List Cl) (gen : BitVec 16) (st : Byte) (l : Word)
    {s : State} (h : Canonical s) :
    Canonical (sendReleases p b ms gen st l s) := by
  unfold sendReleases
  grind [Canonical, sendBar_mem, foldl_canonical]

theorem rootDecide_canonical (p : Fin 64) (b : Fin 32) (r : BarRoot) {s : State} (h : Canonical s) :
    Canonical (rootDecide p b r s) := by
  unfold rootDecide
  grind [Canonical, controlOut_mem, sendReleases_canonical, setRoot_mem]

theorem rootArrive_canonical (p : Fin 64) (b : Fin 32) (c : Cl) (gen : BitVec 16) {s : State} (h : Canonical s) :
    Canonical (rootArrive p b c gen s) := by
  unfold rootArrive
  grind [Canonical, rootDecide_canonical, setRoot_mem]

@[simp] theorem dropPkt_mem (i : Nat) (s : State) : (dropPkt i s).mem = s.mem := rfl

@[simp] theorem execBarrierArrive_canonical (i : Nat) {s : State} (h : Canonical s) : Lands (execBarrierArrive i s) := by
  refine ⟨_, rfl, ?_⟩
  grind [Canonical, dropPkt_mem, rootArrive_canonical]

theorem applyRelease_canonical (p : Fin 64) (c : Cl) (b : Fin 32) (st : Byte) (late : Bool) {s : State} (h : Canonical s) :
    Canonical (applyRelease p c b st late s) := by
  unfold applyRelease
  grind [Canonical, counterWrap_canonical, notify_mem, sendArrival_mem, setBar_mem]

@[simp] theorem execBarrierRelease_canonical (i : Nat) {s : State} (h : Canonical s) : Lands (execBarrierRelease i s) := by
  refine ⟨_, rfl, ?_⟩
  grind [Canonical, applyRelease_canonical, dropPkt_mem, setBar_mem]

@[simp] theorem execBarrierLaunch_canonical (c : Cl) (b : Fin 32) {s : State} (h : Canonical s) :
    Lands (execBarrierLaunch c b s) := by
  refine ⟨_, rfl, ?_⟩
  grind [Canonical, applyRelease_canonical, waitTide_mem]

theorem releasesDue_canonical (c : Cl) {s : State} (h : Canonical s) : Canonical (releasesDue c s) := by
  unfold releasesDue
  grind [Canonical, applyRelease_canonical, noteApply_canonical, foldl_canonical]

@[simp] theorem execWaitDeadline_canonical (x : CtxId) {s : State} (h : Canonical s) : Lands (execWaitDeadline x s) := by
  refine ⟨_, rfl, ?_⟩
  grind [Canonical, finishWait_canonical, releasesDue_canonical, waitTide_mem]

theorem forceRelease_canonical (p : Fin 64) (b : Fin 32) (st : Byte) {s : State} (h : Canonical s) :
    Canonical (forceRelease p b st s) := by
  unfold forceRelease
  grind [Canonical, sendReleases_canonical, setRoot_mem]

theorem dropMember_canonical (p : Fin 64) (b : Fin 32) (gone : List Cl) (st : Byte) {s : State} (h : Canonical s) :
    Canonical (dropMember p b gone st s) := by
  unfold dropMember
  grind [Canonical, forceRelease_canonical, setBar_mem, setRoot_mem, foldl_canonical]

/-! ### The byte memories under the functions of Machine/Channels.lean -/

theorem countWindow_canonical (c : Cl) {s : State} (h : Canonical s) : Canonical (countWindow c s) := by
  unfold countWindow
  grind [Canonical, counterWrap_canonical, setSyncRegs_mem]

theorem countDup_canonical (c : Cl) {s : State} (h : Canonical s) : Canonical (countDup c s) := by
  unfold countDup
  grind [Canonical, counterWrap_canonical, setSyncRegs_mem]

theorem fillBasin_canonical (c : Cl) (q : Nat) (b : Basin) {s : State} (h : Canonical s) :
    Canonical (fillBasin c q b s) := by
  unfold fillBasin
  grind [Canonical, MemState.Canonical, writeBytes_wf]

@[simp] theorem execChaccept_canonical (x : CtxId) (rd : Reg) (re : Reg) (rs : Reg) {s : State} (h : Canonical s) :
    Lands (execChaccept x rd re rs s) := by
  refine ⟨_, rfl, ?_⟩
  grind [Canonical, fillBasin_canonical, issueInstr_canonical, retire_canonical, setEp_mem, wx_mem]

@[simp] theorem execChopen_canonical (x : CtxId) (rd : Reg) (re : Reg) (ra : Reg) {s : State} (h : Canonical s) :
    Lands (execChopen x rd re ra s) := by
  refine ⟨_, rfl, ?_⟩
  grind [Canonical, issueInstr_canonical, issueReq_mem, retire_canonical, setEp_mem, wx_mem]

@[simp] theorem execOpenArrive_canonical (id : Nat) {s : State} (h : Canonical s) : Lands (execOpenArrive id s) := by
  refine ⟨_, rfl, ?_⟩
  grind [Canonical, answer_canonical, atTarget_canonical, notifyOpt_mem, setEp_mem]

@[simp] theorem openReply_mem (x : Xact) (st : Byte) (d : List Byte) (s : State) :
    (openReply x st d s).mem = s.mem := by
  unfold openReply
  dsimp only
  repeat' split
  all_goals simp

@[simp] theorem execOpenReplyArrive_canonical (id : Nat) {s : State} (h : Canonical s) :
    Lands (execOpenReplyArrive id s) :=
  ⟨_, rfl, takeReply_canonical _ _ h fun _ _ _ => h.of_mem ((openReply_mem ..).trans (dropXact_mem ..))⟩

@[simp] theorem sendMsg_mem (who : Requester) (c : Cl) (e : Fin 256) (cls : Bool) (payload : List Byte) (rd : Option Reg)
    (row : Nat) (s : State) :
    (sendMsg who c e cls payload rd row s).mem = s.mem := rfl

@[simp] theorem execChsend_canonical (x : CtxId) (rd : Reg) (vs : Reg) (re : Reg) {s : State} (h : Canonical s) :
    Lands (execChsend x rd vs re s) := by
  refine ⟨_, rfl, ?_⟩
  grind [Canonical, issueInstr_canonical, retire_canonical, sendMsg_mem, setEp_mem, updCtx_mem, wx_mem]

theorem endHeldSend_canonical (x : CtxId) (rd : Reg) (st : Byte) {s : State} (h : Canonical s) :
    Canonical (endHeldSend x rd st s) := by
  unfold endHeldSend
  grind [Canonical, endWait_canonical, retire_canonical, updCtx_mem, wx_mem]

theorem wakeClosed_canonical (c : Cl) (e : Nat) {s : State} (h : Canonical s) : Canonical (wakeClosed c e s) := by
  unfold wakeClosed
  grind [Canonical, endHeldSend_canonical, setEp_mem, setIo_mem, stallArr_canonical, foldl_canonical]

theorem leaveOpen_canonical (c : Cl) (e : Nat) (st : EpState) {s : State} (h : Canonical s) :
    Canonical (leaveOpen c e st s) := by
  unfold leaveOpen
  grind [Canonical, setEp_mem, wakeClosed_canonical]

theorem sendWaiting_canonical (c : Cl) (e : Fin 256) (k : Nat) {s : State} (h : Canonical s) :
    Canonical (sendWaiting c e k s) := by
  induction k generalizing s with
  | zero => exact h
  | succ k ih =>
    unfold sendWaiting
    dsimp only
    split
    · exact h
    · refine ih ?_
      split
      · grind [Canonical, setEp_mem, updCtx_mem, endWait_canonical, retire_canonical, sendMsg_mem]
      · grind [Canonical, setEp_mem, sendMsg_mem, touch_mem, setIo_mem]

theorem land_canonical (c : Cl) (e : Nat) (slot : Nat) (seq : BitVec 16) (d : List Byte) {s : State} (h : Canonical s) :
    Canonical (land c e slot seq d s) := by
  unfold land
  grind [Canonical, MemState.Canonical, notifyOpt_mem, setEp_mem, writeBytes_wf]

@[simp] theorem execMessageArrive_canonical (id : Nat) {s : State} (h : Canonical s) : Lands (execMessageArrive id s) := by
  refine ⟨_, rfl, ?_⟩
  grind [Canonical, answer_canonical, atTarget_canonical, countDup_canonical, countWindow_canonical, land_canonical]

theorem sendDone_canonical (x : Xact) (rd : Option Reg) (st : Byte) {ioDone : TileId → Nat → Byte → State → State}
    {s : State} (h : Canonical s) (hf : ∀ t n st u, Canonical u → Canonical (ioDone t n st u)) :
    Canonical (sendDone x rd st ioDone s) := by
  unfold sendDone
  grind [Canonical, wx_mem]

@[simp] theorem creditBack_mem (c : Cl) (e : Nat) (cls : Bool) (s : State) : (creditBack c e cls s).mem = s.mem := rfl

theorem messageReply_canonical {ioDone : TileId → Nat → Byte → State → State} (x : Xact) (st : Byte) (d : List Byte)
    {s : State} (h : Canonical s)
    (hf : ∀ t n st u, Canonical u → Canonical (ioDone t n st u)) : Canonical (messageReply ioDone x st d s) := by
  unfold messageReply
  grind [Canonical, sendDone_canonical, sendWaiting_canonical, leaveOpen_canonical, creditBack_mem, issueReq_mem]

@[simp] theorem freeSlot_mem (c : Cl) (e : Nat) (cls : Bool) (s : State) : (freeSlot c e cls s).mem = s.mem := rfl

@[simp] theorem execChrecv_canonical (x : CtxId) (rd : Reg) (vd : Reg) (re : Reg) {s : State} (h : Canonical s) :
    Lands (execChrecv x rd vd re s) := by
  have hd := dropEntries_canonical x h
  have done (u : State) (st : Byte) (hu : Canonical u) : Canonical (retire x (wx x rd (st.setWidth 64) u)) :=
    retire_canonical _ (hu.of_mem (wx_mem ..))
  refine ⟨_, rfl, issueInstr_canonical _ _ h (canonical_ite h
      (canonical_ite (done _ _ hd) (canonical_ite (done _ _ hd) (canonical_ite ?_ (done _ _ hd)))))⟩
  refine canonical_ite ?_ (canonical_ite (done _ _ hd) (done _ _ hd))
  have hm (a : Word) := sramRead_canonical a 32 false (coreUnit x.c x.k.val) hd
  exact canonical_ite (done _ _ (hm _)) (done _ _ ((hm _).of_mem ((freeSlot_mem ..).trans (wv_mem ..))))

theorem epCmd_canonical (who : Requester) (c : Cl) (e : Fin 256) (v : Word) {f : Nat → EpRec → State → Byte × State}
    {s : State} (h : Canonical s) (hf : ∀ n r, Canonical (f n r s).2) :
    Canonical (epCmd who c e v f s) := by
  unfold epCmd
  grind [Canonical, reply_mem, setEp_mem]

@[simp] theorem execConsume_canonical (who : Requester) (c : Cl) (e : Fin 256) (v : Word) {s : State} (h : Canonical s) :
    Lands (execConsume who c e v s) := by
  refine ⟨_, rfl, ?_⟩
  grind [Canonical, epCmd_canonical, freeSlot_mem, foldl_canonical]

@[simp] theorem execCreditPacketSend_canonical (c : Cl) (e : Fin 256) {s : State} (h : Canonical s) :
    Lands (execCreditPacketSend c e s) := by
  refine ⟨_, rfl, ?_⟩
  grind [Canonical, issueReq_mem, setEp_mem]

@[simp] theorem execCreditArrive_canonical (id : Nat) {s : State} (h : Canonical s) : Lands (execCreditArrive id s) := by
  refine ⟨_, rfl, ?_⟩
  grind [Canonical, answer_canonical, atTarget_canonical, sendWaiting_canonical, setEp_mem]

theorem closeEp_canonical (c : Cl) (e : Fin 256) {s : State} (h : Canonical s) : Canonical (closeEp c e s) := by
  unfold closeEp
  grind [Canonical, issueReq_mem, setEp_mem, wakeClosed_canonical]

@[simp] theorem execChclose_canonical (x : CtxId) (rd : Reg) (re : Reg) {s : State} (h : Canonical s) :
    Lands (execChclose x rd re s) := by
  refine ⟨_, rfl, ?_⟩
  grind [Canonical, closeEp_canonical, issueInstr_canonical, retire_canonical, wx_mem]

@[simp] theorem execCloseArrive_canonical (id : Nat) {s : State} (h : Canonical s) : Lands (execCloseArrive id s) := by
  refine ⟨_, rfl, ?_⟩
  grind [Canonical, answer_canonical, atTarget_canonical, leaveOpen_canonical, notifyOpt_mem]

@[simp] theorem execCheckedChannelBreak_canonical {s : State} (h : Canonical s) : Lands (execCheckedChannelBreak s) := by
  refine ⟨_, rfl, ?_⟩
  grind [Canonical, leaveOpen_canonical, foldl_canonical]

@[simp] theorem execSetCursor_canonical (who : Requester) (c : Cl) (e : Fin 256) (v : Word) {s : State} (h : Canonical s) :
    Lands (execSetCursor who c e v s) := by
  refine ⟨_, rfl, ?_⟩
  grind [Canonical, epCmd_canonical, setEp_mem]

@[simp] theorem execBasinContribution_canonical (id : Nat) {s : State} (h : Canonical s) :
    Lands (execBasinContribution id s) := by
  refine ⟨_, rfl, ?_⟩
  grind [Canonical, answer_canonical, atTarget_canonical, countWindow_canonical, setCombiner_mem]

@[simp] theorem execBasinCombine_canonical (c : Cl) {s : State} (h : Canonical s) : Lands (execBasinCombine c s) := by
  refine ⟨_, rfl, ?_⟩
  split
  · exact h
  · next k rest _ =>
    have hs : Canonical (setCombiner c rest s) := h.of_mem (setCombiner_mem ..)
    refine canonical_ite h ?_
    dsimp only
    split
    · refine canonical_ite hs ?_
      have hr (a : Word) := sramRead_canonical a 32 false (clUnit c) hs
      have hw (a : Word) (d : List Byte) := sramWrite_canonical a d (clUnit c) (hr a)
      have hov (u : State) (n : Nat) : Canonical (reportOvf c (clUnit c) n u) ↔ Canonical u := by simp [Canonical]
      have hep (u : State) (n : Nat) (r : EpRec) : Canonical (setEp c n r u) ↔ Canonical u := by simp [Canonical]
      have hno (u : State) (n) : Canonical (notifyOpt c n u) ↔ Canonical u := by simp [Canonical]
      have hw' (a : Word) (p : Prop) [Decidable p] (d : List Byte) := canonical_ite (c := p) (hr a) (hw a d)
      refine canonical_ite ((hno ..).2 ?_) ?_ <;> refine (hep ..).2 ((hov ..).2 ?_) <;> split
      · exact Canonical.of_mem (hw' ..) (reportNan_mem ..)
      · exact hw' ..
      · exact Canonical.of_mem (hw' ..) (reportNan_mem ..)
      · exact hw' ..
    · exact hs

@[simp] theorem execBasinClear_canonical (who : Requester) (c : Cl) (e : Fin 256) (v : Word) {s : State} (h : Canonical s) :
    Lands (execBasinClear who c e v s) := by
  refine ⟨_, rfl, ?_⟩
  grind [Canonical, epCmd_canonical, fillBasin_canonical, setEp_mem]

/-! ### The byte memories under the functions of Machine/Numerics.lean -/

theorem nanTraps_canonical (r : NanReport) {s : State} (h : Canonical s) : Canonical (nanTraps r s).2 := by
  unfold nanTraps
  grind [Canonical, freezeArr_mem, takeTrap_canonical]

@[simp] theorem execNanReportArrive_canonical (i : Nat) {s : State} (h : Canonical s) : Lands (execNanReportArrive i s) := by
  refine ⟨_, rfl, ?_⟩
  grind [Canonical, counterWrap_canonical, nanTraps_canonical, postEvent_canonical, setNum_mem]

theorem countSlot_canonical (p : Fin 64) (r : CountReport) {s : State} (h : Canonical s) :
    Canonical (countSlot p r s) := by
  unfold countSlot
  grind [Canonical, counterWrap_canonical, notify_mem, setNum_mem]

theorem overflowArrive_canonical (i : Nat) {s : State} (h : Canonical s) : Canonical (overflowArrive i s) := by
  unfold overflowArrive
  grind [Canonical, countSlot_canonical, counterWrap_canonical, setNum_mem]

@[simp] theorem execOverflowReportArrive_canonical (i : Nat) {s : State} (h : Canonical s) :
    Lands (execOverflowReportArrive i s) := by
  refine ⟨_, rfl, ?_⟩
  grind [Canonical, overflowArrive_canonical]

theorem underflowHigh_canonical (p : Fin 64) (unit : BitVec 32) (old : Word) (new : Word) {s : State} (h : Canonical s) :
    Canonical (underflowHigh p unit old new s) := by
  unfold underflowHigh
  grind [Canonical, postEvent_canonical, setNum_mem]

theorem postHeldUnderflow_canonical (p : Fin 64) {s : State} (h : Canonical s) :
    Canonical (postHeldUnderflow p s) := by
  unfold postHeldUnderflow
  grind [Canonical, underflowHigh_canonical]

theorem underflowArrive_canonical (i : Nat) {s : State} (h : Canonical s) : Canonical (underflowArrive i s) := by
  unfold underflowArrive
  grind [Canonical, counterWrap_canonical, setNum_mem, underflowHigh_canonical]

@[simp] theorem execUnderflowReportArrive_canonical (i : Nat) {s : State} (h : Canonical s) :
    Lands (execUnderflowReportArrive i s) := by
  refine ⟨_, rfl, ?_⟩
  grind [Canonical, underflowArrive_canonical]

theorem overflowsDue_canonical (k : Nat) {s : State} (h : Canonical s) :
    Canonical (overflowsDue k s) := by
  induction k generalizing s with
  | zero => exact h
  | succ k ih =>
    unfold overflowsDue
    grind [Canonical, overflowArrive_canonical]

theorem underflowsDue_canonical (k : Nat) {s : State} (h : Canonical s) :
    Canonical (underflowsDue k s) := by
  induction k generalizing s with
  | zero => exact h
  | succ k ih =>
    unfold underflowsDue
    grind [Canonical, underflowArrive_canonical]

theorem reportsDue_canonical {s : State} (h : Canonical s) : Canonical (reportsDue s) := by
  unfold reportsDue
  grind [Canonical, overflowsDue_canonical, underflowsDue_canonical]

theorem abortSlot_canonical (p : Fin 64) (i : Fin 16) {s : State} (h : Canonical s) :
    Canonical (abortSlot p i s) := by
  unfold abortSlot
  grind [Canonical, postEvent_canonical, setNum_mem]

theorem regionCmd_canonical (who : Requester) (i : Fin 16) (v : Word) (cmd : Nat)
    {f : Fin 64 → Cl → Option NoteRef → Nat → NumBlock → RegionSlot → State → Option State} {s : State} (h : Canonical s)
        (hf : ∀ p c n k b g u t, Canonical u → f p c n k b g u = some t → Canonical t) :
    Canonical (regionCmd who i v cmd f s) := by
  unfold regionCmd
  grind [Canonical, reply_mem, reportsDue_canonical, setNum_mem, notifyOpt_mem]

@[simp] theorem execRegionOpen_canonical (who : Requester) (i : Fin 16) (v : Word) {s : State} (h : Canonical s) :
    Lands (execRegionOpen who i v s) := by
  refine ⟨_, rfl, ?_⟩
  grind [Canonical, notifyOpt_mem, regionCmd_canonical, setNum_mem]

@[simp] theorem execRegionClose_canonical (who : Requester) (i : Fin 16) (v : Word) {s : State} (h : Canonical s) :
    Lands (execRegionClose who i v s) := by
  refine ⟨_, rfl, ?_⟩
  grind [Canonical, regionCmd_canonical, setNum_mem]

@[simp] theorem execRegionCloseEnd_canonical (p : Fin 64) (i : Fin 16) {s : State} (h : Canonical s) :
    Lands (execRegionCloseEnd p i s) := by
  refine ⟨_, rfl, ?_⟩
  grind [Canonical, abortSlot_canonical, notify_mem, reportsDue_canonical, setNum_mem, waitUntil_mem]

@[simp] theorem execRegionAbort_canonical (who : Requester) (i : Fin 16) (v : Word) {s : State} (h : Canonical s) :
    Lands (execRegionAbort who i v s) := by
  refine ⟨_, rfl, ?_⟩
  grind [Canonical, abortSlot_canonical, notify_mem, notifyOpt_mem, regionCmd_canonical, setNum_mem]

@[simp] theorem execRegionRelease_canonical (who : Requester) (i : Fin 16) (v : Word) {s : State} (h : Canonical s) :
    Lands (execRegionRelease who i v s) := by
  refine ⟨_, rfl, ?_⟩
  grind [Canonical, notifyOpt_mem, regionCmd_canonical, setNum_mem]

@[simp] theorem execRegionWrite_canonical (who : Requester) (c : Cl) (v : Word) {s : State} (h : Canonical s) :
    Lands (execRegionWrite who c v s) := by
  refine ⟨_, rfl, ?_⟩
  grind [Canonical, reply_mem]

/-! ### The byte memories under the functions of Machine/Cores.lean -/

theorem ctxCmd_canonical (who : Requester) (x : CtxId) (v : Word) (cmd : Nat) {f : State → Byte × State} {s : State}
    (h : Canonical s) (hf : Canonical (f s).2) :
    Canonical (ctxCmd who x v cmd f s) := by
  unfold ctxCmd
  grind [Canonical, reply_mem, updCtx_mem]

@[simp] theorem execCtxStart_canonical (who : Requester) (x : CtxId) (v : Word) {s : State} (h : Canonical s) :
    Lands (execCtxStart who x v s) := by
  refine ⟨_, rfl, ?_⟩
  grind [Canonical, ctxCmd_canonical, orphan_mem, updCtx_mem]

@[simp] theorem execCtxStop_canonical (who : Requester) (x : CtxId) (v : Word) {s : State} (h : Canonical s) :
    Lands (execCtxStop who x v s) := by
  refine ⟨_, rfl, ?_⟩
  grind [Canonical, ctxCmd_canonical, dropEntries_canonical, endRunahead_mem, endWait_canonical, unwait_mem,
    updCtx_mem]

@[simp] theorem execCtxResume_canonical (who : Requester) (x : CtxId) (v : Word) {s : State} (h : Canonical s) :
    Lands (execCtxResume who x v s) := by
  refine ⟨_, rfl, ?_⟩
  grind [Canonical, ctxCmd_canonical, updCtx_mem]

@[simp] theorem execCtxReset_canonical (who : Requester) (x : CtxId) (v : Word) {s : State} (h : Canonical s) :
    Lands (execCtxReset who x v s) := by
  refine ⟨_, rfl, ?_⟩
  grind [Canonical, ctxCmd_canonical, ctxReset_canonical]

@[simp] theorem execIntegerOp_canonical (x : CtxId) (op : IntOp) (num32 : Bool) (rd : Reg) (ra : Reg) (b : Src2)
    {s : State} (h : Canonical s) :
    Lands (execIntegerOp x op num32 rd ra b s) := by
  refine ⟨_, rfl, ?_⟩
  grind [Canonical, coreReport_mem, issueInstr_canonical, retire_canonical, trapHere_canonical, wx_mem]

@[simp] theorem trainPredictor_mem (x : CtxId) (pc : BitVec 48) (taken : Bool) (s : State) :
    (trainPredictor x pc taken s).mem = s.mem := rfl

theorem jumpTo_canonical (x : CtxId) (target : BitVec 48) {s : State} (h : Canonical s) :
    Canonical (jumpTo x target s) := by
  unfold jumpTo
  grind [Canonical, addIssued_canonical, updCtx_mem]

@[simp] theorem pushRet_mem (x : CtxId) (s : State) : (pushRet x s).mem = s.mem := rfl

@[simp] theorem execBranch_canonical (x : CtxId) (b : BrKind) {s : State} (h : Canonical s) : Lands (execBranch x b s) := by
  refine ⟨_, rfl, ?_⟩
  grind [Canonical, issueInstr_canonical, jumpTo_canonical, pushRet_mem, trainPredictor_mem, updCtx_mem, wx_mem]

@[simp] theorem execScalarFpOp_canonical (x : CtxId) (op : FpOp) (fa : Fmt) (fb : Fmt) (fc : Fmt) (rd : Reg) (ra : Reg)
    (rb : Reg)
    (rc : Reg) (sat : Bool) {s : State} (h : Canonical s) :
    Lands (execScalarFpOp x op fa fb fc rd ra rb rc sat s) := by
  refine ⟨_, rfl, ?_⟩
  grind [Canonical, coreReport_mem, illegal_canonical, issueInstr_canonical, lostNan_canonical, mismatch_canonical,
    retire_canonical, wf_mem, wx_mem]

@[simp] theorem execVectorArith_canonical (x : CtxId) (op : VOp) (fa : Fmt) (fb : Fmt) (fc : Fmt) (vd : Reg) (va : Reg)
    (vb : Reg)
    (vc : Reg) (m : Fin 8) (sat : Bool) {s : State} (h : Canonical s) :
    Lands (execVectorArith x op fa fb fc vd va vb vc m sat s) := by
  refine ⟨_, rfl, ?_⟩
  grind [Canonical, coreReport_mem, illegal_canonical, issueInstr_canonical, mismatch_canonical, retire_canonical,
    updCtx_mem, wf_mem, wv_mem, foldl_canonical]

@[simp] theorem execVdot_canonical (x : CtxId) (fa : Fmt) (fb : Fmt) (vd : Reg) (va : Reg) (vb : Reg) (m : Fin 8)
    (sat : Bool)
    {s : State} (h : Canonical s) :
    Lands (execVdot x fa fb vd va vb m sat s) := by
  refine ⟨_, rfl, ?_⟩
  grind [Canonical, coreReport_mem, illegal_canonical, issueInstr_canonical, mismatch_canonical, retire_canonical,
    wv_mem]

theorem vConvert_canonical (x : CtxId) (vd : Reg) (vs : Reg) (src : Nat) (dst : Nat) (e : Int) (scaled : Bool) (sat : Bool)
    (grad : Bool) (m : Fin 8) (p : Nat) {s : State} (h : Canonical s) :
    Canonical (vConvert x vd vs src dst e scaled sat grad m p s) := by
  unfold vConvert
  grind [Canonical, coreDraws_mem, coreReport_mem, illegal_canonical, lostNan_canonical, reportUdf_mem,
    retire_canonical, wv_mem]

@[simp] theorem execVcvt_canonical (x : CtxId) (vd : Reg) (vs : Reg) (src : Fmt) (dst : Fmt) (sat : Bool) (grad : Bool)
    (m : Fin 8)
    (part : BitVec 3) {s : State} (h : Canonical s) :
    Lands (execVcvt x vd vs src dst sat grad m part s) := by
  refine ⟨_, rfl, ?_⟩
  grind [Canonical, illegal_canonical, issueInstr_canonical, vConvert_canonical]

@[simp] theorem execVamax_canonical (x : CtxId) (fd : Reg) (vs : Reg) (fmt : Fmt) (m : Fin 8) {s : State} (h : Canonical s)
    :
    Lands (execVamax x fd vs fmt m s) := by
  refine ⟨_, rfl, ?_⟩
  grind [Canonical, illegal_canonical, issueInstr_canonical, retire_canonical, wf_mem, foldl_canonical]

@[simp] theorem execFscale_canonical (x : CtxId) (fd : Reg) (fa : Reg) (out : Fmt) {s : State} (h : Canonical s) :
    Lands (execFscale x fd fa out s) := by
  refine ⟨_, rfl, ?_⟩
  grind [Canonical, illegal_canonical, issueInstr_canonical, retire_canonical, wf_mem]

@[simp] theorem execVcvts_canonical (x : CtxId) (vd : Reg) (vs : Reg) (fa : Reg) (src : Fmt) (dst : Fmt) (sat : Bool)
    (grad : Bool)
    (m : Fin 8) (part : BitVec 3) {s : State} (h : Canonical s) :
    Lands (execVcvts x vd vs fa src dst sat grad m part s) := by
  refine ⟨_, rfl, ?_⟩
  grind [Canonical, illegal_canonical, issueInstr_canonical, vConvert_canonical]

@[simp] theorem execTide_canonical (x : CtxId) (rd : Reg) {s : State} (h : Canonical s) : Lands (execTide x rd s) := by
  refine ⟨_, rfl, ?_⟩
  grind [Canonical, issueInstr_canonical, retire_canonical, wx_mem]

@[simp] theorem execPhase_canonical (x : CtxId) (k : BitVec 5) {s : State} (h : Canonical s) : Lands (execPhase x k s) := by
  refine ⟨_, rfl, ?_⟩
  grind [Canonical, illegal_canonical, issueInstr_canonical, retire_canonical, setCore_mem]

@[simp] theorem execRseed_canonical (x : CtxId) {s : State} (h : Canonical s) : Lands (execRseed x s) := by
  refine ⟨_, rfl, ?_⟩
  grind [Canonical, issueInstr_canonical, retire_canonical, seedCore_mem]

@[simp] theorem execVrand_canonical (x : CtxId) (vd : Reg) {s : State} (h : Canonical s) : Lands (execVrand x vd s) := by
  refine ⟨_, rfl, ?_⟩
  grind [Canonical, issueInstr_canonical, retire_canonical, setCore_mem, wv_mem]

@[simp] theorem execIflush_canonical (x : CtxId) {s : State} (h : Canonical s) : Lands (execIflush x s) := by
  refine ⟨_, rfl, ?_⟩
  grind [Canonical, issueInstr_canonical, retire_canonical, setCore_mem]

@[simp] theorem execBrk_canonical (x : CtxId) {s : State} (h : Canonical s) : Lands (execBrk x s) := by
  refine ⟨_, rfl, ?_⟩
  grind [Canonical, issueInstr_canonical, retire_canonical, takeTrap_canonical]

@[simp] theorem execTret_canonical (x : CtxId) (rn : Reg) {s : State} (h : Canonical s) : Lands (execTret x rn s) := by
  refine ⟨_, rfl, ?_⟩
  grind [Canonical, illegal_canonical, issueInstr_canonical, jumpTo_canonical, updCtx_mem]

@[simp] theorem execHalt_canonical (x : CtxId) {s : State} (h : Canonical s) : Lands (execHalt x s) := by
  refine ⟨_, rfl, ?_⟩
  grind [Canonical, issueInstr_canonical, retire_canonical, updCtx_mem]

/-! ### The byte memories under the functions of Machine/Pumps.lean -/

@[simp] theorem setPumpCtr_mem (p : PumpId) (r : PumpCtr) (s : State) : (setPumpCtr p r s).mem = s.mem := rfl

theorem addMoved_canonical (p : PumpId) (n : Nat) {s : State} (h : Canonical s) : Canonical (addMoved p n s) := by
  unfold addMoved
  grind [Canonical, counterWrap_canonical, setPumpCtr_mem]

theorem addAhead_canonical (p : PumpId) (n : Nat) {s : State} (h : Canonical s) : Canonical (addAhead p n s) := by
  unfold addAhead
  grind [Canonical, counterWrap_canonical, setPumpCtr_mem]

theorem addAheadGone_canonical (p : PumpId) (n : Nat) {s : State} (h : Canonical s) :
    Canonical (addAheadGone p n s) := by
  unfold addAheadGone
  grind [Canonical, counterWrap_canonical, setPumpCtr_mem]

@[simp] theorem pumpReq_mem (ch : ChanId) (d : Desc) (k : ReqKind) (a : Nat) (n : Nat) (data : List Byte) (ahead : Bool)
    (use : Use) (s : State) :
    (pumpReq ch d k a n data ahead use s).mem = s.mem := rfl

theorem issueIndex_canonical (ch : ChanId) (d : Desc) {s t : State} (h : Canonical s) (e : issueIndex ch d s = some t) :
    Canonical t := by
  unfold issueIndex at e
  grind [Canonical, pumpReq_mem, setDesc_mem]

theorem issueSource_canonical (ch : ChanId) (d : Desc) {s t : State} (h : Canonical s) (e : issueSource ch d s = some t) :
    Canonical t := by
  unfold issueSource at e
  grind [Canonical, pumpReq_mem, setDesc_mem, addAhead_canonical]

theorem nextRead_canonical (ch : ChanId) {s t : State} (h : Canonical s) (e : nextRead s ch = some t) :
    Canonical t := by
  unfold nextRead at e
  grind [Canonical, Option.or_eq_some_iff, issueIndex_canonical, issueSource_canonical]

theorem issueReads_canonical (p : PumpId) (k : Nat) {s : State} (h : Canonical s) : Canonical (issueReads p k s) := by
  induction k generalizing s with
  | zero => exact h
  | succ k ih =>
    unfold issueReads
    split
    · exact h
    · split
      · exact h
      · split
        · exact h
        · next ht => exact ih ((nextRead_canonical _ h ht).of_mem (setPumpCtr_mem ..))

theorem discardReads_canonical (ch : ChanId) (d : Desc) {s : State} (h : Canonical s) :
    Canonical (discardReads ch d s) := by
  unfold discardReads
  grind [Canonical, addAheadGone_canonical, setDesc_mem]

theorem tellQuiet_canonical (ch : ChanId) (part : Fin 64) (b : BadRead) {s : State} (h : Canonical s) :
    Canonical (tellQuiet ch part b s) := by
  unfold tellQuiet
  grind [Canonical, addStrikes_mem, postEccUncorrected_canonical]

theorem haltAt_canonical (ch : ChanId) (d : Desc) (st : Byte) (u : Nat) (off : Nat) {s : State} (h : Canonical s) :
    Canonical (haltAt ch d st u off s) := by
  unfold haltAt
  grind [Canonical, discardReads_canonical, haltDesc_mem, settleHead_canonical]

theorem skipUnits_canonical (ch : ChanId) (k : Nat) {s : State} (h : Canonical s) :
    Canonical (skipUnits ch k s) := by
  induction k generalizing s with
  | zero => exact h
  | succ k ih =>
    unfold skipUnits
    grind [Canonical, setDesc_mem]

theorem checkBad_canonical (ch : ChanId) {s : State} (h : Canonical s) : Canonical (checkBad ch s) := by
  unfold checkBad
  grind [Canonical, haltAt_canonical, tellQuiet_canonical]

@[simp] theorem doBeat_mem (ch : ChanId) (d : Desc) (s : State) : (doBeat ch d s).mem = s.mem := by
  unfold doBeat
  dsimp only
  repeat' split
  all_goals simp

@[simp] theorem execPumpBeat_canonical (p : PumpId) {s : State} (h : Canonical s) : Lands (execPumpBeat p s) := by
  refine ⟨_, rfl, ?_⟩
  grind [Canonical, checkBad_canonical, doBeat_mem, issueReads_canonical, setChan_mem, setPumpCtr_mem,
    skipUnits_canonical]

theorem pumpReadReply_canonical (x : Xact) (st : Byte) (data : List Byte) {s : State} (h : Canonical s) :
    Canonical (pumpReadReply x st data s) := by
  unfold pumpReadReply
  grind [Canonical, checkBad_canonical, issueReads_canonical, setChan_mem, setDesc_mem, skipUnits_canonical,
    foldl_canonical]

@[simp] theorem execPumpReadReturn_canonical (id : Nat) {s : State} (h : Canonical s) :
    Lands (execPumpReadReturn id s) :=
  ⟨_, rfl, takeReply_canonical _ _ h fun x st d => pumpReadReply_canonical x st d (h.of_mem (dropXact_mem ..))⟩

theorem pumpWriteReply_canonical (x : Xact) (st : Byte) (d : List Byte) {s : State} (h : Canonical s) :
    Canonical (pumpWriteReply x st d s) := by
  unfold pumpWriteReply
  grind [Canonical, addMoved_canonical, setDesc_mem, settleHead_canonical, haltAt_canonical]

@[simp] theorem execPumpWriteComplete_canonical (id : Nat) {s : State} (h : Canonical s) :
    Lands (execPumpWriteComplete id s) :=
  ⟨_, rfl, takeReply_canonical _ _ h fun x st d => pumpWriteReply_canonical x st d (h.of_mem (dropXact_mem ..))⟩

@[simp] theorem startDesc_mem (ch : ChanId) (s : State) : (startDesc ch s).mem = s.mem := by
  unfold startDesc
  dsimp only
  repeat' split
  all_goals simp

@[simp] theorem execPumpDescriptorStart_canonical (ch : ChanId) {s : State} (h : Canonical s) :
    Lands (execPumpDescriptorStart ch s) := by
  refine ⟨_, rfl, ?_⟩
  grind [Canonical, issueReads_canonical, startDesc_mem]

@[simp] theorem execPumpDescriptorComplete_canonical (ch : ChanId) {s : State} (h : Canonical s) :
    Lands (execPumpDescriptorComplete ch s) := by
  refine ⟨_, rfl, ?_⟩
  grind [Canonical, finishDesc_canonical, sendNote_mem, setDesc_mem, skipUnits_canonical]

@[simp] theorem execPsub_canonical (x : CtxId) (rs : Reg) (vn : Reg) {s : State} (h : Canonical s) :
    Lands (execPsub x rs vn s) := by
  refine ⟨_, rfl, ?_⟩
  grind [Canonical, accessTrap_canonical, illegal_canonical, issueInstr_canonical, retire_canonical, setChan_mem]

theorem chanCmd_canonical (who : Requester) (ch : ChanId) (v : Word) {f : ChanRec → State → Byte × State} {s : State}
    (h : Canonical s) (hf : ∀ r, Canonical (f r s).2) :
    Canonical (chanCmd who ch v f s) := by
  unfold chanCmd
  grind [Canonical, reply_mem, setChan_mem]

@[simp] theorem execPumpRestart_canonical (who : Requester) (ch : ChanId) (v : Word) {s : State} (h : Canonical s) :
    Lands (execPumpRestart who ch v s) := by
  refine ⟨_, rfl, ?_⟩
  grind [Canonical, chanCmd_canonical, issueReads_canonical, setChan_mem, settleHead_canonical]

theorem abortChan_canonical (ch : ChanId) (loud : Bool) {s : State} (h : Canonical s) :
    Canonical (abortChan ch loud s) := by
  unfold abortChan
  grind [Canonical, discardReads_canonical, sendNote_mem, setChan_mem, foldl_canonical]

@[simp] theorem execPumpAbort_canonical (who : Requester) (ch : ChanId) (v : Word) {s : State} (h : Canonical s) :
    Lands (execPumpAbort who ch v s) := by
  refine ⟨_, rfl, ?_⟩
  grind [Canonical, abortChan_canonical, chanCmd_canonical]

theorem resetChan_canonical (ch : ChanId) {s : State} (h : Canonical s) : Canonical (resetChan ch s) := by
  unfold resetChan
  grind [Canonical, abortChan_canonical, setChan_mem]

theorem resetClusterPump_canonical (c : Cl) {s : State} (h : Canonical s) : Canonical (resetClusterPump c s) := by
  unfold resetClusterPump
  grind [Canonical, resetChan_canonical, setPumpCtr_mem, foldl_canonical]

/-! ### The byte memories under the functions of Machine/Fence.lean -/

@[simp] theorem resetArray_mem (c : Cl) (s : State) : (resetArray c s).mem = s.mem :=
  have hrec (u : State) (n : Net) (y : Sync) : ({ u with net := n, sync := y } : State).mem = u.mem := rfl
  (hrec _ _ _).trans (foldl_mem (fun _ _ => by simp) _ _)

theorem resetSync_canonical (c : Cl) {s : State} (h : Canonical s) : Canonical (resetSync c s) := by
  unfold resetSync
  grind [Canonical, closeEp_canonical, setEp_mem, foldl_canonical]

theorem clusterReset_canonical (c : Cl) {s : State} (h : Canonical s) :
    Canonical (clusterReset c s) :=
    canonical_with_num (resetClusterPump_canonical c (resetSync_canonical c
        ((resetCores_canonical c h).of_mem (resetArray_mem ..)))) _

theorem zeroCluster_canonical (c : Cl) {s : State} (h : Canonical s) : Canonical (zeroCluster c s) := by
  unfold zeroCluster
  grind [Canonical, MemState.Canonical, SMap.wf_filter]

@[simp] theorem clDry_mem (c : Cl) (st : Fin 4) (s : State) : (clDry c st s).mem = s.mem := rfl

@[simp] theorem clDark_mem (c : Cl) (s : State) : (clDark c s).mem = s.mem := by
  unfold clDark
  dsimp only
  repeat' split
  all_goals simp

theorem fencedEvent_canonical (unit : BitVec 32) (ps : List (Fin 64)) (cause : Nat) (epoch : Nat) {s : State}
    (h : Canonical s) :
    Canonical (fencedEvent unit ps cause epoch s) := by
  unfold fencedEvent
  grind [Canonical, postTo_canonical]

theorem markCut_canonical (b : Bank) {s : State} (h : Canonical s) : Canonical (markCut b s) := by
  unfold markCut
  grind [Canonical, clDry_mem, fencedEvent_canonical, foldl_canonical]

theorem startEpoch_canonical {s : State} (h : Canonical s) : Canonical (startEpoch s) := by
  unfold startEpoch
  grind [Canonical, markCut_canonical]

theorem loseFieldMem_canonical (f : Fin 192) {s : State} (h : Canonical s) : Canonical (loseFieldMem f s) := by
  unfold loseFieldMem
  grind [Canonical, zeroCluster_canonical, foldl_canonical]

@[simp] theorem bootDark_mem (cause : Nat) (s : State) (f : Fin 192) : (bootDark cause s f).mem = s.mem := by
  simp [bootDark]

@[simp] theorem bootWaferLost_mem (s : State) (w : Fin 4) : (bootWaferLost s w).mem = s.mem := by
  simp [bootWaferLost]

theorem dropDoomed_canonical (b : Bank) {s : State} (h : Canonical s) : Canonical (dropDoomed b s) := by
  have hw (u : State) (w : Fin 4) (hu : Canonical u) : Canonical
      (bootWaferLost ((waferFields w).foldl (fun s f => loseFieldMem f s) u) w) :=
    (foldl_canonical (fun _ f => loseFieldMem_canonical f) hu).of_mem (bootWaferLost_mem ..)
  unfold dropDoomed
  exact foldl_canonical (fun u w hu => canonical_with_t_boot (hw u w hu) _ _) h

theorem fenceCluster_canonical (c : Cl) (cause : Nat) {s : State} (h : Canonical s) :
    Canonical (fenceCluster c cause s) := by
  unfold fenceCluster
  grind [Canonical, clDry_mem, clusterReset_canonical, fencedEvent_canonical, setSleep_mem, startEpoch_canonical,
    zeroCluster_canonical]

theorem stopCore_canonical (c : Cl) (k : Fin 24) {s : State} (h : Canonical s) : Canonical (stopCore c k s) := by
  unfold stopCore
  grind [Canonical, dropEntries_canonical, endRunahead_mem, endWait_canonical, notify_mem, unwait_mem, updCtx_mem,
    foldl_canonical]

theorem fenceCore_canonical (c : Cl) (k : Fin 24) (cause : Nat) {s : State} (h : Canonical s) :
    Canonical (fenceCore c k cause s) := by
  unfold fenceCore
  grind [Canonical, fenceCluster_canonical, fencedEvent_canonical, setDry_mem, startEpoch_canonical,
    stopCore_canonical]

theorem fenceTile_canonical (t : TileId) (cause : Nat) {s : State} (h : Canonical s) :
    Canonical (fenceTile t cause s) := by
  unfold fenceTile
  grind [Canonical, fenceCluster_canonical, fencedEvent_canonical, setDry_mem, stallArr_canonical,
    startEpoch_canonical, updArr_mem]

theorem fenceRouter_canonical (c : Cl) (cause : Nat) {s : State} (h : Canonical s) :
    Canonical (fenceRouter c cause s) := by
  unfold fenceRouter
  grind [Canonical, clDry_mem, clusterReset_canonical, fencedEvent_canonical, setSleep_mem, startEpoch_canonical,
    zeroCluster_canonical]

theorem fenceStack_canonical (st : Fin 48) (cause : Nat) {s : State} (h : Canonical s) :
    Canonical (fenceStack st cause s) := by
  unfold fenceStack
  grind [Canonical, fencedEvent_canonical, setDry_mem, startEpoch_canonical]

theorem fencePort_canonical (p : Fin 16) (cause : Nat) {s : State} (h : Canonical s) :
    Canonical (fencePort p cause s) := by
  unfold fencePort
  grind [Canonical, fencedEvent_canonical, portDark_canonical, setDry_mem, startEpoch_canonical]

theorem fenceLane_canonical (w : Fin 4) (x : Fin 2) (lane : Nat) (cause : Nat) {s : State} (h : Canonical s) :
    Canonical (fenceLane w x lane cause s) := by
  unfold fenceLane
  grind [Canonical, fencedEvent_canonical, setDry_mem, startEpoch_canonical]

theorem laneFail_canonical (w : Fin 4) (x : Fin 2) (lane : Nat) (reason : Nat) (cause : Nat) {s : State} (h : Canonical s) :
    Canonical (laneFail w x lane reason cause s) := by
  unfold laneFail
  grind [Canonical, fenceLane_canonical, postTo_canonical]

@[simp] theorem strike_mem (key : Nat) (datum : Nat) (span : Nat) (limit : Nat) (distinct : Bool) (s : State) :
    (strike key datum span limit distinct s).2.mem = s.mem := rfl

theorem retirePage_canonical (st : Fin 48) (page : Nat) {s : State} (h : Canonical s) :
    Canonical (retirePage st page s) := by
  unfold retirePage
  grind [Canonical, MemState.Canonical, fenceStack_canonical, postTo_canonical, strike_mem]

theorem badSram_canonical (a : Word) {s : State} (h : Canonical s) : Canonical (badSram a s) := by
  unfold badSram
  grind [Canonical, fenceCluster_canonical, fenceCore_canonical, fenceTile_canonical, strike_mem]

theorem correctedSram_canonical (a : Word) {s : State} (h : Canonical s) : Canonical (correctedSram a s) := by
  unfold correctedSram
  grind [Canonical, fenceCluster_canonical, fenceTile_canonical, strike_mem]

theorem badStack_canonical (st : Fin 48) (phys : Nat) {s : State} (h : Canonical s) :
    Canonical (badStack st phys s) := by
  unfold badStack
  grind [Canonical, retirePage_canonical, strike_mem]

theorem settle_canonical {s : State} (h : Canonical s) : Canonical (settle s) := by
  unfold settle
  grind [Canonical, badSram_canonical, badStack_canonical, correctedSram_canonical, foldl_canonical]

@[simp] theorem execClusterUnitFailure_canonical (c : Cl) (u : FailUnit) {s : State} (h : Canonical s) :
    Lands (execClusterUnitFailure c u s) := by
  refine ⟨_, rfl, ?_⟩
  grind [Canonical, fenceCluster_canonical, fenceCore_canonical, fenceTile_canonical]

/-! ### The byte memories under the functions of Machine/Tiles.lean -/

@[simp] theorem tileReport_mem (t : TileId) (source : Nat) (op : Nat) (fmt : Nat) (sentinel : Bool) (ns : List Num)
    (s : State) :
    (tileReport t source op fmt sentinel ns s).mem = s.mem := by
  unfold tileReport
  dsimp only
  repeat' split
  all_goals simp

@[simp] theorem execMulChunkLoad_canonical (t : TileId) {s : State} (h : Canonical s) : Lands (execMulChunkLoad t s) := by
  refine ⟨_, rfl, ?_⟩
  grind [Canonical, setMul_mem, takeOperand_mem]

@[simp] theorem rampIssue_mem (t : TileId) (s : State) : (rampIssue t s).mem = s.mem := by
  unfold rampIssue
  dsimp only
  repeat' split
  all_goals simp

@[simp] theorem mulTakeA_mem (t : TileId) (f : Nat) (s : State) : (mulTakeA t f s).mem = s.mem := by
  unfold mulTakeA
  dsimp only
  repeat' split
  all_goals simp

theorem mulInit_canonical (t : TileId) (b : Nat) {s u : State} (h : Canonical s) (e : mulInit t b s = some u) :
    Canonical u := by
  unfold mulInit at e
  grind [Canonical, setMul_mem, takeOperand_mem]

@[simp] theorem execMulIssue_canonical (t : TileId) {s : State} (h : Canonical s) : Lands (execMulIssue t s) := by
  have ha (f : Nat) : Canonical (mulTakeA t f s) := h.of_mem (mulTakeA_mem ..)
  refine ⟨_, rfl, ?_⟩
  dsimp only
  split
  · exact h
  · refine canonical_ite (canonical_ite ?_ (ha _)) h
    split
    · exact ha _
    · next hm =>
      exact (mulInit_canonical t _ (ha _) hm).of_mem ((touch_mem ..).trans ((setMul_mem ..).trans (rampIssue_mem ..)))

@[simp] theorem execMulAccumulate_canonical (t : TileId) {s : State} (h : Canonical s) : Lands (execMulAccumulate t s) := by
  refine ⟨_, rfl, ?_⟩
  grind [Canonical, setMul_mem, tileReport_mem]

@[simp] theorem execMulRowDrain_canonical (t : TileId) {s : State} (h : Canonical s) : Lands (execMulRowDrain t s) := by
  refine ⟨_, rfl, ?_⟩
  grind [Canonical, emit_mem, setMul_mem]

@[simp] theorem sfCount_mem (t : TileId) (ok : Bool) (ns : List Num) (s : State) :
    (sfCount t ok ns s).mem = s.mem := by
  unfold sfCount
  split <;> rfl

@[simp] theorem sfReport_mem (t : TileId) (ok : Bool) (op : Nat) (fmt : Nat) (ns : List Num) (s : State) :
    (sfReport t ok op fmt ns s).mem = s.mem := by
  unfold sfReport
  split <;> simp

/-- The state a chain step leaves differs from the one it began in by a report alone. -/
theorem chainStep_mem (t : TileId) (n : Nat) (a b c : List Val) (st : ChainSt) (i : Nat) :
    (chainStep t n a b c st i).s.mem = st.s.mem :=
  sfReport_mem ..

theorem chain_mem (t : TileId) (n : Nat) (a b c : List Val) (st : ChainSt) (l : List Nat) :
    (l.foldl (chainStep t n a b c) st).s.mem = st.s.mem := by
  induction l generalizing st with
  | nil => rfl
  | cons i l ih => exact (ih _).trans (chainStep_mem ..)

@[simp] theorem histCount_mem (t : TileId) (n : Nat) (vs : List Val) (s : State) :
    (histCount t n vs s).mem = s.mem := rfl

@[simp] theorem histEmit_mem (t : TileId) (ok : Bool) (pred : Bool) (s : State) :
    (histEmit t ok pred s).mem = s.mem := by
  unfold histEmit
  split <;> simp

@[simp] theorem histToken_mem (t : TileId) (n : Nat) (vin : List Val) (vout : List Val) (last : Bool) (predIn : Bool)
    (predOut : Bool) (s : State) :
    (histToken t n vin vout last predIn predOut s).mem = s.mem := by
  unfold histToken
  dsimp only
  repeat' split
  all_goals simp

@[simp] theorem emitCodes_mem (t : TileId) (outF : Nat) (codes : List Nat) (last : Bool) (pred : Bool) (s : State) :
    (emitCodes t outF codes last pred s).mem = s.mem := by
  simp [emitCodes]

@[simp] theorem tileConvert_mem (t : TileId) (outF : Nat) (sat : Bool) (grad : Bool) (vs : List Val) (s : State) :
    (tileConvert t outF sat grad vs s).2.mem = s.mem := rfl

theorem convReport_canonical (t : TileId) (n : Nat) (ok : Bool) (cs : List Conv) {s : State} (h : Canonical s) :
    Canonical (convReport t n ok cs s) := by
  unfold convReport
  grind [Canonical, lostNan_canonical, reportOvf_mem, setSf_mem]

theorem sfOutput_canonical (t : TileId) (n : Nat) (vs : List Val) (last : Bool) (pred : Bool) {s : State} (h : Canonical s)
    :
    Canonical (sfOutput t n vs last pred s) := by
  unfold sfOutput
  grind [Canonical, convReport_canonical, emitCodes_mem, tileConvert_mem]

@[simp] theorem sfElems_mem (t : TileId) (k : Nat) (s : State) : (sfElems t k s).mem = s.mem := rfl

@[simp] theorem execSfElementwise_canonical (t : TileId) {s : State} (h : Canonical s) : Lands (execSfElementwise t s) := by
  refine ⟨_, rfl, ?_⟩
  grind [Canonical, chain_mem, takeOperand_mem, sfElems_mem, histToken_mem, sfOutput_canonical]

@[simp] theorem reduceTake_mem (t : TileId) (tok : Token) (s : State) : (reduceTake t tok s).mem = s.mem := by
  simp [reduceTake]

@[simp] theorem execSfReduceEmit_canonical (t : TileId) {s : State} (h : Canonical s) : Lands (execSfReduceEmit t s) := by
  refine ⟨_, rfl, ?_⟩
  grind [Canonical, emit_mem, setSf_mem, sfReport_mem]

@[simp] theorem execSfRowApply_canonical (t : TileId) {s : State} (h : Canonical s) : Lands (execSfRowApply t s) := by
  refine ⟨_, rfl, ?_⟩
  grind [Canonical, chain_mem, takeOperand_mem, sfElems_mem, histToken_mem, sfOutput_canonical, setSf_mem,
    sfReport_mem]

@[simp] theorem sfBlockOut_mem (t : TileId) (n : Nat) (bf : BFmt) (vs : List Val) (last : Bool) (pred : Bool) (s : State) :
    (sfBlockOut t n bf vs last pred s).mem = s.mem := by
  unfold sfBlockOut
  dsimp only
  repeat' split
  all_goals simp

@[simp] theorem execSfConvert_canonical (t : TileId) {s : State} (h : Canonical s) : Lands (execSfConvert t s) := by
  refine ⟨_, rfl, ?_⟩
  grind [Canonical, convReport_canonical, emit_mem, emitCodes_mem, histToken_mem, reportUdf_mem, setSf_mem,
    sfBlockOut_mem, sfElems_mem, takeOperand_mem, tileConvert_mem]

@[simp] theorem execSfRandomEmit_canonical (t : TileId) {s : State} (h : Canonical s) : Lands (execSfRandomEmit t s) := by
  refine ⟨_, rfl, ?_⟩
  grind [Canonical, emit_mem, setSf_mem, updTile_mem]

@[simp] theorem execHistClear_canonical (who : Requester) (c : Cl) (i : Fin 4) (_v : Word) {s : State} (h : Canonical s) :
    Lands (execHistClear who c i _v s) := by
  refine ⟨_, rfl, ?_⟩
  grind [Canonical, arrWrite_canonical, setSf_mem]

@[simp] theorem execTokenSend_canonical (t : TileId) (src : TokSrc) {s : State} (h : Canonical s) :
    Lands (execTokenSend t src s) := by
  refine ⟨_, rfl, ?_⟩
  grind [Canonical, popHead_mem, reduceTake_mem, sendPass_canonical, sendResult_canonical]

/-! ### The byte memories under the functions of Machine/ArrayMem.lean -/

@[simp] theorem execCtxLoadDone_canonical (c : Cl) {s : State} (h : Canonical s) : Lands (execCtxLoadDone c s) := by
  refine ⟨_, rfl, settle_canonical ?_⟩
  split
  · exact h
  · next l _ =>
    have hu (f : ArrRec → ArrRec) : Canonical (updArr c f (loadImage c l.offset s).2) :=
        (loadImage_canonical c l.offset h).of_mem (updArr_mem ..)
    exact Canonical.of_mem (canonical_ite (foldl_canonical (fun u t hu => hu.of_mem (setSlotRec_mem ..)) (hu _)) (hu _))
        (loadEnds_mem ..)

theorem tileMemTake_canonical (t : TileId) (slot : Nat) {s : State} (h : Canonical s) :
    Canonical (tileMemTake t slot s).2 := by
  have hr := sramRead_canonical (BitVec.ofNat 64 (0xFF * 2 ^ 56 + 3 * 2 ^ 52 + tileMemKey t slot % 2 ^ 38)) 32 false
      (tileUnit t) h
  unfold tileMemTake
  exact canonical_snd_ite (canonical_snd hr rfl) (canonical_snd (canonical_with_freeCount hr _) rfl)

@[simp] theorem execMemFifo_canonical (t : TileId) (store : Bool) {s : State} (h : Canonical s) :
    Lands (execMemFifo t store s) := by
  refine ⟨_, rfl, ?_⟩
  grind [Canonical, emit_mem, setMemTile_mem, settle_canonical, takeOperand_mem, tileMemTake_canonical,
    tileMemWrite_canonical]

@[simp] theorem execMemReplay_canonical (t : TileId) {s : State} (h : Canonical s) : Lands (execMemReplay t s) := by
  refine ⟨_, rfl, ?_⟩
  grind [Canonical, emit_mem, setMemTile_mem, settle_canonical, takeFree_mem, tileMemTake_canonical, updTile_mem]

@[simp] theorem execMemCapture_canonical (t : TileId) {s : State} (h : Canonical s) : Lands (execMemCapture t s) := by
  refine ⟨_, rfl, ?_⟩
  grind [Canonical, notifyOpt_mem, setMemTile_mem, settle_canonical, takeOperand_mem, tileMemWrite_canonical]

@[simp] theorem execMemAddressed_canonical (t : TileId) {s : State} (h : Canonical s) : Lands (execMemAddressed t s) := by
  refine ⟨_, rfl, ?_⟩
  grind [Canonical, emit_mem, notifyOpt_mem, setMemTile_mem, settle_canonical, takeOperand_mem,
    tileMemTake_canonical, tileMemWrite_canonical]

/-! ### The byte memories under the functions of Machine/IoTile.lean -/

theorem ioFail_canonical (t : TileId) (st : Byte) {s : State} (h : Canonical s) : Canonical (ioFail t st s) := by
  unfold ioFail
  grind [Canonical, setIo_mem, stallArr_canonical]

theorem ioRead_canonical (t : TileId) (off : Nat) (n : Nat) {s : State} (h : Canonical s) :
    Canonical (ioRead t off n s).2.2 := by
  unfold ioRead
  grind [Canonical, sramRead_canonical]

theorem inPred_canonical (t : TileId) (b : Nat) (k : Nat) {s : State} (h : Canonical s) :
    Canonical (inPred t b k s).2.2 := by
  unfold inPred
  grind [Canonical, ioRead_canonical]

@[simp] theorem execIoInboundRead_canonical (t : TileId) {s : State} (h : Canonical s) : Lands (execIoInboundRead t s) := by
  refine ⟨_, rfl, ?_⟩
  grind [Canonical, emit_mem, inPred_canonical, ioFail_canonical, ioRead_canonical, setIo_mem, settle_canonical,
    updTile_mem]

@[simp] theorem execIoGateOpen_canonical (t : TileId) {s : State} (h : Canonical s) : Lands (execIoGateOpen t s) := by
  refine ⟨_, rfl, ?_⟩
  grind [Canonical, setIo_mem]

theorem ioWrites_canonical (t : TileId) (b : Nat) (row : Nat) (off : Nat) (d : List Byte) {s : State} (h : Canonical s) :
    Canonical (ioWrites t b row off d s) := by
  unfold ioWrites
  grind [Canonical, issueReq_mem, setIo_mem, foldl_canonical]

theorem ioNotify_canonical (t : TileId) (b : Nat) {s : State} (h : Canonical s) : Canonical (ioNotify t b s) := by
  unfold ioNotify
  grind [Canonical, notifyBy_mem, setIo_mem, foldl_canonical]

@[simp] theorem endOutRow_mem (t : TileId) (b : Nat) (s : State) : (endOutRow t b s).mem = s.mem := rfl

theorem ioTakeElems_canonical (t : TileId) (b : Nat) (tok : Token) {s : State} (h : Canonical s) :
    Canonical (ioTakeElems t b tok s) := by
  unfold ioTakeElems
  grind [Canonical, endOutRow_mem, ioWrites_canonical, lostNan_canonical, reportOvf_mem, reportUdf_mem, setIo_mem]

@[simp] theorem ioRowTokens_mem (t : TileId) (b : Nat) (s : State) : (ioRowTokens t b s).mem = s.mem := by
  unfold ioRowTokens
  dsimp only
  repeat' split
  all_goals simp

theorem ioChannel_canonical (t : TileId) (b : Nat) (tok : Token) {s : State} (h : Canonical s) :
    Canonical (ioChannel t b tok s) := by
  unfold ioChannel
  grind [Canonical, ioFail_canonical, ioRowTokens_mem, sendMsg_mem, setEp_mem, setIo_mem]

@[simp] theorem execIoOutboundWrite_canonical (t : TileId) {s : State} (h : Canonical s) :
    Lands (execIoOutboundWrite t s) := by
  refine ⟨_, rfl, ?_⟩
  grind [Canonical, ioChannel_canonical, ioTakeElems_canonical, sendWaiting_canonical, setIo_mem, takeOperand_mem]

theorem ioDone_canonical (t : TileId) (row : Nat) (st : Byte) {s : State} (h : Canonical s) :
    Canonical (ioDone t row st s) := by
  unfold ioDone
  grind [Canonical, ioFail_canonical, ioNotify_canonical, setIo_mem]

theorem ioReplied_canonical (x : Xact) (st : Byte) (d : List Byte) {s : State} (h : Canonical s) :
    Canonical (ioReplied x st d s) := by
  unfold ioReplied
  grind [Canonical, ioDone_canonical]

@[simp] theorem execIoWriteComplete_canonical (id : Nat) {s : State} (h : Canonical s) :
    Lands (execIoWriteComplete id s) :=
  ⟨_, rfl, takeReply_canonical _ _ h fun x st d => ioReplied_canonical x st d (h.of_mem (dropXact_mem ..))⟩

@[simp] theorem execMessageAck_canonical (id : Nat) {s : State} (h : Canonical s) :
    Lands (execMessageAck id s) :=
  ⟨_, rfl, takeReply_canonical _ _ h fun x st d => messageReply_canonical x st d (h.of_mem (dropXact_mem ..))
    fun t n st _ => ioDone_canonical t n st⟩

@[simp] theorem execObjectAdd_canonical (src : AddSrc) {s : State} (h : Canonical s) : Lands (execObjectAdd src s) := by
  refine ⟨_, rfl, ?_⟩
  grind [Canonical, ioFail_canonical, noteApply_canonical, objServe_canonical]

/-! ### The byte memories under the functions of Machine/LoadStore.lean -/

@[simp] theorem writeLoaded_mem (x : CtxId) (dst : MemReg) (signed : Bool) (d : List Byte) (s : State) :
    (writeLoaded x dst signed d s).mem = s.mem := by
  unfold writeLoaded
  split <;> simp

@[simp] theorem takeEntry_mem (req : Nat) (u : Use) (s : State) : (takeEntry req u s).mem = s.mem := rfl

theorem loadAt_canonical (x : CtxId) (dst : MemReg) (a : Word) (n : Nat) (signed : Bool) {s : State} (h : Canonical s) :
    Canonical (loadAt x dst a n signed s) := by
  unfold loadAt
  grind [Canonical, addRaUsed_canonical, illegal_canonical, issueReq_mem, retire_canonical, setCtx_mem,
    takeEntry_mem, trapHere_canonical, writeLoaded_mem]

theorem storeAt_canonical (x : CtxId) (src : MemReg) (a : Word) (n : Nat) {s : State} (h : Canonical s) :
    Canonical (storeAt x src a n s) := by
  unfold storeAt
  grind [Canonical, dropOverlapped_canonical, illegal_canonical, issueReq_mem, retire_canonical, trapHere_canonical]

@[simp] theorem execLoad_canonical (x : CtxId) (dst : MemReg) (ra : Reg) (off : Word) (size : Fin 33) (signed : Bool)
    {s : State} (h : Canonical s) :
    Lands (execLoad x dst ra off size signed s) := by
  refine ⟨_, rfl, ?_⟩
  grind [Canonical, issueInstr_canonical, loadAt_canonical]

@[simp] theorem execStore_canonical (x : CtxId) (src : MemReg) (ra : Reg) (off : Word) (size : Fin 33) {s : State}
    (h : Canonical s) :
    Lands (execStore x src ra off size s) := by
  refine ⟨_, rfl, ?_⟩
  grind [Canonical, issueInstr_canonical, storeAt_canonical]

@[simp] theorem execLdl_canonical (x : CtxId) (dst : MemReg) (off : BitVec 16) (size : Fin 33) (signed : Bool) {s : State}
    (h : Canonical s) :
    Lands (execLdl x dst off size signed s) := by
  refine ⟨_, rfl, ?_⟩
  grind [Canonical, issueInstr_canonical, loadAt_canonical]

@[simp] theorem execStl_canonical (x : CtxId) (src : MemReg) (off : BitVec 16) (size : Fin 33) {s : State}
    (h : Canonical s) :
    Lands (execStl x src off size s) := by
  refine ⟨_, rfl, ?_⟩
  grind [Canonical, issueInstr_canonical, storeAt_canonical]

@[simp] theorem execAtomic_canonical (x : CtxId) (kind : AtomKind) (wide : Bool) (rd : Reg) (ra : Reg) (rs : Reg)
    (rc : Reg) (sat : Bool)
    {s : State} (h : Canonical s) :
    Lands (execAtomic x kind wide rd ra rs rc sat s) := by
  refine ⟨_, rfl, ?_⟩
  grind [Canonical, dropEntries_canonical, issueInstr_canonical, issueReq_mem, retire_canonical, trapHere_canonical]

@[simp] theorem execFence_canonical (x : CtxId) (kind : FenceKind) (scope : FenceScope) {s : State} (h : Canonical s) :
    Lands (execFence x kind scope s) := by
  refine ⟨_, rfl, ?_⟩
  grind [Canonical, dropEntries_canonical, issueInstr_canonical, retire_canonical]

@[simp] theorem execVbst_canonical (x : CtxId) (vs : Reg) (ra : Reg) (off : Word) (blk : Fmt) (src : Fmt) (sat : Bool)
    (grad : Bool)
    {s : State} (h : Canonical s) :
    Lands (execVbst x vs ra off blk src sat grad s) := by
  refine ⟨_, rfl, ?_⟩
  grind [Canonical, coreDraws_mem, coreReport_mem, dropOverlapped_canonical, illegal_canonical, issueInstr_canonical,
    issueReq_mem, reportUdf_mem, retire_canonical, foldl_canonical]

@[simp] theorem execVbld_canonical (x : CtxId) (vd : Reg) (ra : Reg) (off : Word) (blk : Fmt) (dst : Fmt) (sat : Bool)
    {s : State} (h : Canonical s) :
    Lands (execVbld x vd ra off blk dst sat s) := by
  refine ⟨_, rfl, ?_⟩
  grind [Canonical, illegal_canonical, issueInstr_canonical, issueReq_mem, retire_canonical, foldl_canonical]

theorem writeBlock_canonical (x : CtxId) (vd : Reg) (blk : Fmt) (dst : Fmt) (sat : Bool) (d : List Byte) {s : State}
    (h : Canonical s) :
    Canonical (writeBlock x vd blk dst sat d s) := by
  unfold writeBlock
  grind [Canonical, coreReport_mem, wv_mem, foldl_canonical]

@[simp] theorem loadReturns_mem (x : CtxId) (t : Xact) (s : State) : (loadReturns x t s).mem = s.mem := by
  unfold loadReturns
  split <;> rfl

theorem blockReturns_canonical (x : CtxId) (t : Xact) (vd : Reg) (blk : Fmt) (dst : Fmt) (sat : Bool) (pc : BitVec 48)
    (addr : Word) (half : Option (List Byte)) (d : List Byte) {s : State} (h : Canonical s) :
    Canonical (blockReturns x t vd blk dst sat pc addr half d s) := by
  unfold blockReturns
  grind [Canonical, writeBlock_canonical]

@[simp] theorem dropMate_mem (x : CtxId) (pc : BitVec 48) (addr : Word) (s : State) :
    (dropMate x pc addr s).mem = s.mem := rfl

@[simp] theorem loadAgain_mem (x : CtxId) (t : Xact) (dst : MemReg) (signed : Bool) (pc : BitVec 48) (off : Nat) (n : Nat)
    (s : State) :
    (loadAgain x t dst signed pc off n s).mem = s.mem := rfl

theorem readReply_canonical (t : Xact) (st : Byte) (d : List Byte) {s : State} (h : Canonical s) :
    Canonical (readReply t st d s) := by
  unfold readReply
  grind [Canonical, accessTrap_canonical, blockReturns_canonical, dropMate_mem, loadAgain_mem, loadReturns_mem,
    setCtx_mem, writeLoaded_mem, wx_mem]

@[simp] theorem execLoadComplete_canonical (id : Nat) {s : State} (h : Canonical s) :
    Lands (execLoadComplete id s) :=
  ⟨_, rfl, takeReply_canonical _ _ h fun x st d => readReply_canonical x st d (h.of_mem (dropXact_mem ..))⟩

theorem writeReply_canonical (t : Xact) (st : Byte) (d : List Byte) {s : State} (h : Canonical s) :
    Canonical (writeReply t st d s) := by
  unfold writeReply
  grind [Canonical, accessTrap_canonical, takeFree_mem, wx_mem]

@[simp] theorem execStoreComplete_canonical (id : Nat) {s : State} (h : Canonical s) :
    Lands (execStoreComplete id s) :=
  ⟨_, rfl, takeReply_canonical _ _ h fun x st d => writeReply_canonical x st d (h.of_mem (dropXact_mem ..))⟩

theorem raRead_canonical (x : CtxId) (a : Word) {s : State} (h : Canonical s) : Canonical (raRead x a s) := by
  unfold raRead
  grind [Canonical, addRaIssued_canonical, issueReq_mem, setCtx_mem]

theorem raStep_canonical (x : CtxId) (op : RaOp) (w : RaWalk) {s t : State} {v : RaWalk} (h : Canonical s)
    (e : raStep x op w s = some (v, t)) :
    Canonical t := by
  unfold raStep at e
  grind [Canonical, raRead_canonical, Option.map_eq_some_iff]

theorem raRun_canonical (x : CtxId) (code : List RaInstr) (k : Nat) (w : RaWalk) {s : State} (h : Canonical s) :
    Canonical (raRun x code k w s).2.2 := by
  induction k generalizing w s with
  | zero => exact h
  | succ k ih =>
    unfold raRun
    grind [Canonical, raStep_canonical]

@[simp] theorem execRunaheadEnter_canonical (x : CtxId) (code : List RaInstr) {s : State} (h : Canonical s) :
    Lands (execRunaheadEnter x code s) := by
  refine ⟨_, rfl, ?_⟩
  grind [Canonical, raRun_canonical, updCtx_mem, waitUntil_mem]

@[simp] theorem execRunaheadEntryExpire_canonical (x : CtxId) (e : Fin 8) {s : State} (h : Canonical s) :
    Lands (execRunaheadEntryExpire x e s) := by
  refine ⟨_, rfl, ?_⟩
  grind [Canonical, addRaDiscarded_canonical, setCtx_mem, waitUntil_mem]

theorem fetchLine_canonical (x : CtxId) (line : Nat) {s : State} (h : Canonical s) :
    Canonical (fetchLine x line s).2 := by
  unfold fetchLine
  grind [Canonical, stackRead_canonical]

@[simp] theorem addLine_mem (c : Cl) (k : Nat) (line : Nat) (s : State) : (addLine c k line s).mem = s.mem := by
  unfold addLine
  dsimp only
  repeat' split
  all_goals simp

theorem cacheParity_canonical (x : CtxId) (line : Nat) {s : State} (h : Canonical s) :
    Canonical (cacheParity x line s) := by
  have hstrike (u : State) (n : Nat) (hu : Canonical u) : Canonical (strike (2 ^ 45 + n) 0 hour 64 false u).2 := hu.of_mem
      (strike_mem ..)
  unfold cacheParity
  refine canonical_ite (fenceCore_canonical _ _ _ (hstrike _ _ ?_)) (hstrike _ _ ?_)
  all_goals exact postEccCorrected_canonical _ _ _ _ (counterWrap_canonical _ _ _ _
      (canonical_with_clErr (h.of_mem ((takeFree_mem ..).trans (setCore_mem ..))) _))

@[simp] theorem execIcacheFill_canonical (x : CtxId) (a : BitVec 48) {s : State} (h : Canonical s) :
    Lands (execIcacheFill x a s) := by
  refine ⟨_, rfl, ?_⟩
  grind [Canonical, addLine_mem, addMisses_canonical, cacheParity_canonical, fetchLine_canonical, settle_canonical,
    takeTrap_canonical]

/-! ### The byte memories under the functions of Machine/RegSpace.lean -/

@[simp] theorem setFreg_mem (c : Cl) (k : Nat) (r : FReg) (s : State) : (setFreg c k r s).mem = s.mem := rfl

theorem regRead_canonical (who : Requester) (c : Cl) (r : RegName) {s : State} (h : Canonical s) :
    Canonical (regRead who c r s) := by
  unfold regRead
  grind [Canonical, reportsDue_canonical, takeFree_mem]

@[simp] theorem fountainCmd_mem (who : Requester) (c : Cl) (k : Fin 24) (v : Word) (s : State) :
    (fountainCmd who c k v s).mem = s.mem := by
  unfold fountainCmd
  dsimp only
  repeat' split
  all_goals simp

@[simp] theorem execFountainSend_canonical (who : Requester) (c : Cl) (k : Fin 24) (v : Word) {s : State} (h : Canonical s)
    :
    Lands (execFountainSend who c k v s) := by
  refine ⟨_, rfl, ?_⟩
  grind [Canonical, fountainCmd_mem]

theorem nextOf_canonical {o : Host.Outcome State Fault Refusal} (s : State) (h : Lands o) :
    Canonical (nextOf s o) := by
  obtain ⟨t, rfl, ht⟩ := h
  exact ht

theorem ctxCmdWrite_canonical (who : Requester) (x : CtxId) (v : Word) {s : State} (h : Canonical s) :
    Canonical (ctxCmdWrite who x v s) := by
  unfold ctxCmdWrite
  grind [Canonical, ctxCmd_canonical, execCtxReset_canonical, execCtxResume_canonical, execCtxStart_canonical,
    execCtxStop_canonical, nextOf_canonical]

theorem arrayCmdWrite_canonical (who : Requester) (c : Cl) (v : Word) {s : State} (h : Canonical s) :
    Canonical (arrayCmdWrite who c v s) := by
  unfold arrayCmdWrite
  grind [Canonical, arrWrite_canonical, execArrayFreeze_canonical, execArrayRelease_canonical,
    execArrayResume_canonical, nextOf_canonical, setCmdStatus_mem]

theorem regionCmdWrite_canonical (who : Requester) (i : Fin 16) (v : Word) {s : State} (h : Canonical s) :
    Canonical (regionCmdWrite who i v s) := by
  unfold regionCmdWrite
  grind [Canonical, execRegionAbort_canonical, execRegionClose_canonical, execRegionOpen_canonical,
    execRegionRelease_canonical, nextOf_canonical, notifyOpt_mem, regionCmd_canonical, setNum_mem]

theorem chCmdWrite_canonical (who : Requester) (ch : ChanId) (v : Word) {s : State} (h : Canonical s) :
    Canonical (chCmdWrite who ch v s) := by
  unfold chCmdWrite
  grind [Canonical, chanCmd_canonical, execPumpAbort_canonical, execPumpRestart_canonical, nextOf_canonical]

theorem epCmdWrite_canonical (who : Requester) (c : Cl) (e : Fin 256) (v : Word) {s : State} (h : Canonical s) :
    Canonical (epCmdWrite who c e v s) := by
  unfold epCmdWrite
  grind [Canonical, epCmd_canonical, execBasinClear_canonical, execConsume_canonical, execSetCursor_canonical,
    nextOf_canonical]

theorem storeReg_canonical (who : Requester) (c : Cl) {f : State → State} {s : State} (h : Canonical s)
    (hf : Canonical (f s)) :
    Canonical (storeReg who c f s) := by
  unfold storeReg
  grind [Canonical, reply_mem]

@[simp] theorem readOnly_mem (who : Requester) (c : Cl) (s : State) : (readOnly who c s).mem = s.mem := by
  unfold readOnly
  dsimp only
  repeat' split
  all_goals simp

theorem chanWrite_canonical (who : Requester) (ch : ChanId) (off : Nat) (v : Word) {s : State} (h : Canonical s) :
    Canonical (chanWrite who ch off v s) := by
  unfold chanWrite
  grind [Canonical, chCmdWrite_canonical, reply_mem, setChan_mem]

theorem writeReg_canonical (who : Requester) (c : Cl) (r : RegName) (v : Word) {s : State} (h : Canonical s) :
    Canonical (writeReg who c r v s) := by
  unfold writeReg
  grind [Canonical, arrWrite_canonical, arrayCmdWrite_canonical, chanWrite_canonical, ctxCmdWrite_canonical,
    epCmdWrite_canonical, execCtxLoad_canonical, execHistClear_canonical, execRegionWrite_canonical, fountainCmd_mem,
    nextOf_canonical, readOnly_mem, regionCmdWrite_canonical, reply_mem, setCore_mem, setFreg_mem, setSyncRegs_mem,
    storeReg_canonical, switchReq_canonical, updArr_mem, updCtx_mem]

theorem spaceWrite_canonical (who : Requester) (a : Word) (size : Nat) (v : Word) {s : State} (h : Canonical s) :
    Canonical (spaceWrite who a size v s) := by
  unfold spaceWrite
  grind [Canonical, reply_mem, writeReg_canonical]

/-! ### The byte memories under the functions of Machine/MemServe.lean -/

theorem sramServe_canonical (x : Xact) {s : State} (h : Canonical s) : Canonical (sramServe x s) := by
  unfold sramServe
  grind [Canonical, answer_canonical, sramRead_canonical, sramWrite_canonical]

theorem clusterServe_canonical (x : Xact) (c : Cl) {s : State} (h : Canonical s) :
    Canonical (clusterServe x c s) := by
  unfold clusterServe
  grind [Canonical, answer_canonical, settle_canonical, sramServe_canonical]

@[simp] theorem countStack_mem (n : Fin 48) (p : Fin 64) (k : Nat) (s : State) :
    (countStack n p k s).mem = s.mem := rfl

@[simp] theorem countPort_mem (port : Nat) (p : Fin 64) (k : Nat) (s : State) :
    (countPort port p k s).mem = s.mem := rfl

theorem stackServe_canonical (x : Xact) {s : State} (h : Canonical s) : Canonical (stackServe x s) := by
  unfold stackServe
  split
  · exact answer_canonical _ _ _ h
  · next n phys hp =>
    refine canonical_ite (answer_canonical _ _ _ h) (canonical_ite h (settle_canonical ?_))
    have hc : Canonical (match x.part with | some p => countStack n p x.len s | none => s) := by
      split
      · exact h.of_mem (countStack_mem ..)
      · exact h
    split
    · exact answer_canonical _ _ _ (stackRead_canonical _ _ _ _ _ _ _ hc)
    · split
      · exact hc
      · next hw => exact answer_canonical _ _ _ (stackWrite_canonical _ _ _ _ _ _ hc hw)
    · have hr (f : Option (Fin 64)) (u : BitVec 32) := stackRead_canonical n phys x.len x.addr f false u hc
      refine canonical_ite (answer_canonical _ _ _ (hr _ _)) ?_
      split
      · exact hc
      · next hw => exact answer_canonical _ _ _ (stackWrite_canonical _ _ _ _ _ _ (hr _ _) hw)
    · exact hc

theorem hostServe_canonical (x : Xact) {s : State} (h : Canonical s) : Canonical (hostServe x s) := by
  unfold hostServe
  grind [Canonical, MemState.Canonical, answer_canonical, countPort_mem, writeBytes_wf]

theorem regServe_canonical (x : Xact) {s : State} (h : Canonical s) : Canonical (regServe x s) := by
  unfold regServe
  grind [Canonical, answer_canonical, regRead_canonical, writeReg_canonical]

@[simp] theorem execMemAccessServe_canonical (id : Nat) {s : State} (h : Canonical s) : Lands (execMemAccessServe id s) := by
  have hat : Canonical (atTarget id (fun _ => true) clusterServe s) := atTarget_canonical _ _ h fun x c =>
      clusterServe_canonical x c h
  refine ⟨_, rfl, ?_⟩
  split
  · exact h
  · refine canonical_ite h ?_
    split
    · exact stackServe_canonical _ h
    · exact hostServe_canonical _ h
    · exact canonical_ite h (regServe_canonical _ h)
    · exact h
    · exact hat

@[simp] theorem execMemTileOutsideAccess_canonical (id : Nat) {s : State} (h : Canonical s) :
    Lands (execMemTileOutsideAccess id s) := by
  refine ⟨_, rfl, ?_⟩
  grind [Canonical, atTarget_canonical, clusterServe_canonical]

@[simp] theorem cxlReply_mem (port : Fin 2) (d : Nat) (err : Bool) (s : State) :
    (cxlReply port d err s).mem = s.mem := rfl

@[simp] theorem aerSignal_mem (port : Fin 2) (s : State) : (aerSignal port s).mem = s.mem := rfl

theorem hdmCount_canonical {s : State} (h : Canonical s) : Canonical (hdmCount s) := by
  unfold hdmCount
  grind [Canonical, MemState.Canonical, wrapEvent_canonical]

@[simp] theorem execCxlMemRead_canonical (port : Fin 2) (hpa : Nat) {s : State} (h : Canonical s) :
    Lands (execCxlMemRead port hpa s) := by
  refine ⟨_, rfl, ?_⟩
  grind [Canonical, aerSignal_mem, countPort_mem, countStack_mem, cxlReply_mem, hdmCount_canonical, settle_canonical,
    stackRead_canonical]

theorem cxlWrite_canonical (port : Fin 2) (a : Nat) (data : BitVec 512) {s t : State} (h : Canonical s)
    (e : cxlWrite port a data s = some t) :
    Canonical t := by
  have hc (p : Fin 64) : Canonical (countPort (16 + port.val) p 64 s) := h.of_mem (countPort_mem ..)
  unfold cxlWrite at e
  split at e
  · exact Option.some.inj e ▸ hdmCount_canonical h
  · exact Option.some.inj e ▸ hdmCount_canonical h
  · next p n phys _ =>
    dsimp only at e
    split at e
    · exact Option.some.inj e ▸ hc p
    · obtain ⟨r, hr, rfl⟩ := Option.map_eq_some_iff.1 e
      exact settle_canonical (stackWrite_canonical _ _ _ _ _ _ ((hc p).of_mem (countStack_mem ..)) hr)

@[simp] theorem execCxlMemWrite_canonical (port : Fin 2) (hpa : Nat) (data : BitVec 512) {s : State} (h : Canonical s) :
    Lands (execCxlMemWrite port hpa data s) := by
  refine ⟨_, rfl, canonical_ite h ?_⟩
  split
  · exact h
  · next a _ =>
    refine canonical_ite h ?_
    cases hw : cxlWrite port a data s with
    | none => exact h
    | some t => exact cxlWrite_canonical _ _ _ h hw

theorem retryCxl_canonical {s : State} (h : Canonical s) :
    Canonical (retryCxl s) := by
  unfold retryCxl
  refine foldl_canonical (fun u e hu => ?_) h
  refine canonical_ite hu ?_
  cases hw : cxlWrite e.1 e.2.1 e.2.2 u with
  | none => exact hu
  | some t => exact cxlWrite_canonical _ _ _ hu hw

theorem pageZeroed_canonical (jobs : List Nat) {s : State} (h : Canonical s) : Canonical (pageZeroed jobs s) := by
  unfold pageZeroed
  grind [Canonical, MemState.Canonical, postEvent_canonical, foldl_canonical]

@[simp] theorem execPageZeroDone_canonical (st : Fin 48) {s : State} (h : Canonical s) : Lands (execPageZeroDone st s) := by
  refine ⟨_, rfl, ?_⟩
  grind [Canonical, MemState.Canonical, pageZeroed_canonical, retryCxl_canonical]

@[simp] theorem execPatrolScrub_canonical (unit : Nat) {s : State} (h : Canonical s) : Lands (execPatrolScrub unit s) := by
  dsimp only [execPatrolScrub]
  refine ⟨_, rfl, settle_canonical (canonical_ite ?_ (canonical_ite (stackRead_canonical _ _ _ _ _ _ _ h) h))⟩
  split
  · exact canonical_ite h (sramRead_canonical _ _ _ _ h)
  · exact h

/-! ### The byte memories under the functions of Machine/Mesh.lean -/

theorem adapterSend_canonical (x : Xact) {s : State} (h : Canonical s) : Canonical (adapterSend x s) := by
  unfold adapterSend
  grind [Canonical, answer_canonical, countPort_mem, sendPkt_canonical, setPort_mem, setXact_mem, takeFree_mem]

@[simp] theorem loseXact_mem (x : Xact) (s : State) : (loseXact x s).mem = s.mem := by
  unfold loseXact
  dsimp only
  repeat' split
  all_goals simp

theorem inject_canonical (x : Xact) {s : State} (h : Canonical s) : Canonical (inject x s) := by
  unfold inject
  grind [Canonical, atHome_canonical, dropXact_mem, setXact_mem]

theorem refill_canonical (r : Cl) {s : State} (h : Canonical s) : Canonical (refill r s) := by
  unfold refill
  grind [Canonical, inject_canonical, foldl_canonical]

theorem resendStale_canonical (x : Xact) {s : State} (h : Canonical s) : Canonical (resendStale x s) := by
  unfold resendStale
  grind [Canonical, dropXact_mem, inject_canonical]

theorem deliverReply_canonical (x : Xact) (st : Byte) (d : List Byte) {s : State} (h : Canonical s) :
    Canonical (deliverReply x st d s) := by
  unfold deliverReply
  grind [Canonical, atHome_canonical, countDiscard_canonical, loseXact_mem, resendStale_canonical]

theorem deliverRequest_canonical (x : Xact) {s : State} (h : Canonical s) : Canonical (deliverRequest x s) := by
  unfold deliverRequest
  grind [Canonical, adapterSend_canonical, setXact_mem]

theorem flitDrop_canonical (x : Xact) (r : Cl) (u : Cl) (d : Fin 4) {s : State} (h : Canonical s) :
    Canonical (flitDrop x r u d s) := by
  unfold flitDrop
  grind [Canonical, fenceRouter_canonical, loseXact_mem, setCtr_mem, strike_mem, wrapEvent_canonical]

theorem laneCrc_canonical (r : Cl) (k : Nat) (odd : Bool) {s : State} (h : Canonical s) :
    Canonical (laneCrc r k odd s) := by
  unfold laneCrc
  grind [Canonical, laneFail_canonical, setCtr_mem, strike_mem, wrapEvent_canonical]

@[simp] theorem takeOutput_mem (r : Cl) (out : Fin 5) (x : Xact) (s : State) :
    (takeOutput r out x s).mem = s.mem := rfl

theorem hop_canonical (x : Xact) (r : Cl) (u : Cl) (d : Fin 4) (move : Bool) {s : State} (h : Canonical s) :
    Canonical (hop x r u d move s) := by
  unfold hop
  grind [Canonical, dropXact_mem, flitDrop_canonical, laneCrc_canonical, waitUntil_mem, foldl_canonical]

theorem forward_canonical (r : Cl) (out : Fin 5) (x : Xact) {s : State} (h : Canonical s) :
    Canonical (forward r out x s) := by
  unfold forward
  grind [Canonical, answerAt_mem, countDiscard_canonical, deliverReply_canonical, deliverRequest_canonical,
    hop_canonical, loseXact_mem, setCtr_mem, setXact_mem, takeOutput_mem, waitUntil_mem, wrapEvent_canonical]

@[simp] theorem execRouterForward_canonical (r : Cl) (out : Fin 5) {s : State} (h : Canonical s) :
    Lands (execRouterForward r out s) := by
  refine ⟨_, rfl, ?_⟩
  grind [Canonical, forward_canonical, refill_canonical]

theorem sendPending_canonical (x : Xact) {s : State} (h : Canonical s) : Canonical (sendPending x s) := by
  unfold sendPending
  grind [Canonical, answer_canonical]

@[simp] theorem execPendingNotice_canonical (id : Nat) {s : State} (h : Canonical s) : Lands (execPendingNotice id s) := by
  refine ⟨_, rfl, ?_⟩
  grind [Canonical, sendPending_canonical, setCtr_mem, setXact_mem, waitUntil_mem, wrapEvent_canonical]

theorem completeWith_canonical (x : Xact) (st : Byte) {s : State} (h : Canonical s) :
    Canonical (completeWith x st s) := by
  unfold completeWith
  grind [Canonical, ioDone_canonical, ioReplied_canonical, messageReply_canonical, openReply_mem,
    pumpReadReply_canonical, pumpWriteReply_canonical, readReply_canonical, writeReply_canonical]

@[simp] theorem execRequestTimeout_canonical (id : Nat) {s : State} (h : Canonical s) : Lands (execRequestTimeout id s) := by
  refine ⟨_, rfl, ?_⟩
  grind [Canonical, completeWith_canonical, dropXact_mem, setXact_mem, waitUntil_mem]

@[simp] theorem execRouterDies_canonical (c : Cl) {s : State} (h : Canonical s) : Lands (execRouterDies c s) := by
  refine ⟨_, rfl, ?_⟩
  grind [Canonical, fenceRouter_canonical]

@[simp] theorem execRouteTablesLoaded_canonical {s : State} (h : Canonical s) : Lands (execRouteTablesLoaded s) := by
  refine ⟨_, rfl, ?_⟩
  grind [Canonical]

@[simp] theorem execRouteEpochLaunch_canonical {s : State} (h : Canonical s) : Lands (execRouteEpochLaunch s) := by
  refine ⟨_, rfl, ?_⟩
  grind [Canonical, waitUntil_mem]

theorem frontDry_canonical (b : Bank) {s : State} (h : Canonical s) : Canonical (frontDry b s) := by
  unfold frontDry
  grind [Canonical, fencedEvent_canonical, portDark_canonical, setDry_mem, foldl_canonical]

theorem repairBarrier_canonical (p : Fin 64) (b : Fin 32) {s : State} (h : Canonical s) :
    Canonical (repairBarrier p b s) := by
  unfold repairBarrier
  grind [Canonical, forceRelease_canonical]

@[simp] theorem execRouteEpochDrainEnd_canonical {s : State} (h : Canonical s) : Lands (execRouteEpochDrainEnd s) := by
  refine ⟨_, rfl, ?_⟩
  grind [Canonical, dropDoomed_canonical, dropMember_canonical, frontDry_canonical, inject_canonical,
    repairBarrier_canonical, startEpoch_canonical, waitUntil_mem, foldl_canonical]

@[simp] theorem execAqueductLaneFail_canonical (w : Fin 4) (x : Fin 2) (lane : Fin 204) (rate : Bool) {s : State}
    (h : Canonical s) :
    Lands (execAqueductLaneFail w x lane rate s) := by
  refine ⟨_, rfl, ?_⟩
  grind [Canonical, laneFail_canonical]

@[simp] theorem execAqueductSpareReady_canonical (w : Fin 4) (x : Fin 2) (g : Fin 12) {s : State} (h : Canonical s) :
    Lands (execAqueductSpareReady w x g s) := by
  refine ⟨_, rfl, ?_⟩
  grind [Canonical, postTo_canonical, waitUntil_mem]

@[simp] theorem execControlCrossingBusFail_canonical (c : Cl) (x : Fin 2) {s : State} (h : Canonical s) :
    Lands (execControlCrossingBusFail c x s) := by
  refine ⟨_, rfl, ?_⟩
  grind [Canonical, startEpoch_canonical]

@[simp] theorem fountainAck_mem (send : Nat) (st : Byte) (s : State) : (fountainAck send st s).mem = s.mem := rfl

@[simp] theorem execFountainValueApply_canonical (i : Nat) {s : State} (h : Canonical s) :
    Lands (execFountainValueApply i s) := by
  refine ⟨_, rfl, ?_⟩
  grind [Canonical, fountainAck_mem, writeReg_canonical]

@[simp] theorem execFountainAckComplete_canonical (p : Fin 64) (f : Fin 16) {s : State} (h : Canonical s) :
    Lands (execFountainAckComplete p f s) := by
  refine ⟨_, rfl, ?_⟩
  grind [Canonical, notifyOpt_mem, setFreg_mem]

@[simp] theorem execChannelDeadlock_canonical (c : Cl) (w : Waiter) {s : State} (h : Canonical s) :
    Lands (execChannelDeadlock c w s) := by
  refine ⟨_, rfl, ?_⟩
  grind [Canonical, postEvent_canonical, waitUntil_mem]

/-! ### The byte memories under the functions of Machine/Fields.lean -/

theorem fieldOffEvent_canonical (f : Fin 192) (cause : Nat) (back : Bool) {s : State} (h : Canonical s) :
    Canonical (fieldOffEvent f cause back s) := by
  unfold fieldOffEvent
  grind [Canonical, postTo_canonical]

theorem fieldOff_canonical (f : Fin 192) (cause : Nat) {s : State} (h : Canonical s) :
    Canonical (fieldOff f cause s) := by
  unfold fieldOff
  grind [Canonical, clDry_mem, fieldOffEvent_canonical, loseFieldMem_canonical, setField_mem, foldl_canonical]

theorem fieldDark_canonical (f : Fin 192) (cause : Nat) {s : State} (h : Canonical s) :
    Canonical (fieldDark f cause s) := by
  unfold fieldDark
  grind [Canonical, clDark_mem, loseFieldMem_canonical, postTo_canonical, setField_mem, startEpoch_canonical,
    foldl_canonical]

theorem fieldBack_canonical (f : Fin 192) {s : State} (h : Canonical s) : Canonical (fieldBack f s) := by
  unfold fieldBack
  grind [Canonical, clusterReset_canonical, fieldOffEvent_canonical, setField_mem, setOp_mem, setSleep_mem,
    waitUntil_mem, zeroCluster_canonical, foldl_canonical]

@[simp] theorem shiftWatch_mem (hit : Nat → Bool) (d : Nat) (s : State) : (shiftWatch hit d s).mem = s.mem := rfl

@[simp] theorem awaken_mem (c : Cl) (s : State) : (awaken c s).mem = s.mem := rfl

@[simp] theorem shiftTimers_mem (d : Nat) (s : State) : (shiftTimers d s).mem = s.mem := rfl

/-! ### The byte memories under the functions of Machine/Queues.lean -/

@[simp] theorem unhear_mem (hit : CmdKey → Bool) (s : State) : (unhear hit s).mem = s.mem := rfl

@[simp] theorem fnDown_mem (f : FnId) (s : State) : (fnDown f s).mem = s.mem := rfl

theorem cxlLinkEvent_canonical (e : EvCode) (p : Fin 2) (reason : Nat) (lanes : Nat) {s : State} (h : Canonical s) :
    Canonical (cxlLinkEvent e p reason lanes s) := by
  unfold cxlLinkEvent
  grind [Canonical, postTo_canonical]

theorem linkDown_canonical (p : Fin 2) (reason : Nat) {s : State} (h : Canonical s) :
    Canonical (linkDown p reason s) := by
  unfold linkDown
  grind [Canonical, cxlLinkEvent_canonical, fnDown_mem, updCxl_mem, foldl_canonical]

@[simp] theorem execCxlLinkDown_canonical (p : Fin 2) {s : State} (h : Canonical s) : Lands (execCxlLinkDown p s) := by
  refine ⟨_, rfl, ?_⟩
  grind [Canonical, linkDown_canonical]

@[simp] theorem execPerstNAssert_canonical (p : Fin 2) {s : State} (h : Canonical s) : Lands (execPerstNAssert p s) := by
  refine ⟨_, rfl, ?_⟩
  grind [Canonical, linkDown_canonical, updCxl_mem]

@[simp] theorem execPerstNDeassert_canonical (p : Fin 2) {s : State} (h : Canonical s) : Lands (execPerstNDeassert p s) := by
  refine ⟨_, rfl, ?_⟩
  grind [Canonical, updCxl_mem]

@[simp] theorem execCxlLinkTrained_canonical (p : Fin 2) (l : CxlTrain) {s : State} (h : Canonical s) :
    Lands (execCxlLinkTrained p l s) := by
  refine ⟨_, rfl, ?_⟩
  grind [Canonical, cxlLinkEvent_canonical, updCxl_mem]

@[simp] theorem execNumvfsChange_canonical (p : Fin 2) (n : Fin 64) {s : State} (h : Canonical s) :
    Lands (execNumvfsChange p n s) := by
  refine ⟨_, rfl, ?_⟩
  grind [Canonical, fnDown_mem, updCxl_mem, foldl_canonical]

@[simp] theorem execFunctionLevelReset_canonical (f : FnId) {s : State} (h : Canonical s) :
    Lands (execFunctionLevelReset f s) := by
  refine ⟨_, rfl, ?_⟩
  grind [Canonical, fnDown_mem]

@[simp] theorem execQueueEnable_canonical (f : FnId) (q : QSel) (v : Word) {s : State} (h : Canonical s) :
    Lands (execQueueEnable f q v s) := by
  refine ⟨_, rfl, ?_⟩
  grind [Canonical, setFn_mem, setQ_mem]

@[simp] theorem execQueueDisable_canonical (f : FnId) (q : QSel) (v : Word) {s : State} (h : Canonical s) :
    Lands (execQueueDisable f q v s) := by
  refine ⟨_, rfl, ?_⟩
  grind [Canonical, setFn_mem, setQ_mem, unhear_mem]

@[simp] theorem execSqTail_canonical (f : FnId) (q : Fin 4) (v : Word) {s : State} (h : Canonical s) :
    Lands (execSqTail f q v s) := by
  refine ⟨_, rfl, ?_⟩
  grind [Canonical, setQ_mem]

@[simp] theorem execCpqHead_canonical (f : FnId) (q : Fin 4) (v : Word) {s : State} (h : Canonical s) :
    Lands (execCpqHead f q v s) := by
  refine ⟨_, rfl, ?_⟩
  grind [Canonical, setQ_mem]

@[simp] theorem execEqHead_canonical (f : FnId) (v : Word) {s : State} (h : Canonical s) : Lands (execEqHead f v s) := by
  refine ⟨_, rfl, ?_⟩
  grind [Canonical, setFn_mem]

@[simp] theorem execIrqDelayExpire_canonical (f : FnId) (q : QSel) {s : State} (h : Canonical s) :
    Lands (execIrqDelayExpire f q s) := by
  refine ⟨_, rfl, ?_⟩
  grind [Canonical, sendMsix_mem, setFn_mem, setQ_mem, waitUntil_mem]

@[simp] theorem msixWrite_mem (f : FnId) (off : Nat) (size : Nat) (v : Word) (s : State) :
    (msixWrite f off size v s).mem = s.mem := by
  unfold msixWrite
  dsimp only
  repeat' split
  all_goals simp

theorem bar0Write_canonical (f : FnId) (off : Nat) (size : Nat) (v : Word) {s : State} (h : Canonical s) :
    Canonical (bar0Write f off size v s) := by
  unfold bar0Write
  grind [Canonical, execCpqHead_canonical, execEqHead_canonical, execQueueDisable_canonical,
    execQueueEnable_canonical, execSqTail_canonical, msixWrite_mem, nextOf_canonical, setFn_mem, setQ_mem]

@[simp] theorem execRegisterWrite_canonical (a : RegWrite) {s : State} (h : Canonical s) : Lands (execRegisterWrite a s) := by
  refine ⟨_, rfl, ?_⟩
  grind [Canonical, bar0Write_canonical, spaceWrite_canonical]

theorem writeCompletion_canonical (c : Cmd) (st : Byte) (res : List Byte) {s : State} (h : Canonical s) :
    Canonical (writeCompletion c st res s) := by
  unfold writeCompletion
  grind [Canonical, hostWrite_canonical, sendMsix_mem, setQ_mem]

@[simp] theorem dropCmd_mem (serial : Nat) (s : State) : (dropCmd serial s).mem = s.mem := rfl

theorem flushUnknown_canonical {s : State} (h : Canonical s) : Canonical (flushUnknown s) := by
  unfold flushUnknown
  grind [Canonical, dropCmd_mem, writeCompletion_canonical, foldl_canonical]

theorem complete_canonical (k : CmdKey) (st : Byte) (res : List Byte) {s : State} (h : Canonical s) :
    Canonical (complete k st res s) := by
  unfold complete
  grind [Canonical, dropCmd_mem, flushUnknown_canonical, writeCompletion_canonical]

@[simp] theorem execCommandFetch_canonical (f : FnId) (q : Fin 4) {s : State} (h : Canonical s) :
    Lands (execCommandFetch f q s) := by
  refine ⟨_, rfl, ?_⟩
  grind [Canonical, flushUnknown_canonical, setQ_mem]

/-! ### The byte memories under the functions of Machine/Clock.lean -/

@[simp] theorem tideDown_mem (r : Cl) (pkt : BitVec 128) (s : State) : (tideDown r pkt s).mem = s.mem := rfl

@[simp] theorem execTideSend_canonical {s : State} (h : Canonical s) : Lands (execTideSend s) := by
  refine ⟨_, rfl, ?_⟩
  grind [Canonical, tideDown_mem, waitUntil_mem]

@[simp] theorem execTideReceive_canonical (c : Cl) (pkt : BitVec 128) {s : State} (h : Canonical s) :
    Lands (execTideReceive c pkt s) := by
  refine ⟨_, rfl, ?_⟩
  grind [Canonical, tideDown_mem, waitUntil_mem]

@[simp] theorem discipline_mem (facility : Nat) (tide : Word) (s : State) :
    (discipline facility tide s).mem = s.mem := by
  unfold discipline
  dsimp only
  repeat' split
  all_goals simp

@[simp] theorem execTideDisciplineSample_canonical (facilityNs : BitVec 64) {s : State} (h : Canonical s) :
    Lands (execTideDisciplineSample facilityNs s) := by
  refine ⟨_, rfl, ?_⟩
  grind [Canonical, discipline_mem]

@[simp] theorem execPpsEdge_canonical (stamp : BitVec 64) {s : State} (h : Canonical s) : Lands (execPpsEdge stamp s) := by
  refine ⟨_, rfl, ?_⟩
  grind [Canonical, discipline_mem]

@[simp] theorem execDisciplineSourceLost_canonical {s : State} (h : Canonical s) : Lands (execDisciplineSourceLost s) := by
  refine ⟨_, rfl, ?_⟩
  grind [Canonical, waitUntil_mem]

@[simp] theorem fallAsleep_mem (c : Cl) (s : State) : (fallAsleep c s).mem = s.mem := rfl

@[simp] theorem execRetentionEnter_canonical (c : Cl) {s : State} (h : Canonical s) : Lands (execRetentionEnter c s) := by
  refine ⟨_, rfl, ?_⟩
  grind [Canonical, fallAsleep_mem, waitUntil_mem]

@[simp] theorem startWake_mem (c : Cl) (s : State) : (startWake c s).mem = s.mem := rfl

@[simp] theorem execGovernorWake_canonical (c : Cl) {s : State} (h : Canonical s) : Lands (execGovernorWake c s) := by
  refine ⟨_, rfl, ?_⟩
  grind [Canonical, startWake_mem, waitTide_mem]

@[simp] theorem execArrivalWake_canonical (c : Cl) {s : State} (h : Canonical s) : Lands (execArrivalWake c s) := by
  refine ⟨_, rfl, ?_⟩
  grind [Canonical, startWake_mem]

@[simp] theorem execWakeComplete_canonical (c : Cl) {s : State} (h : Canonical s) : Lands (execWakeComplete c s) := by
  refine ⟨_, rfl, ?_⟩
  grind [Canonical, awaken_mem, waitUntil_mem]

@[simp] theorem requestSwitch_mem (dst : Fin 2) (s : State) : (requestSwitch dst s).mem = s.mem := rfl

@[simp] theorem autoSwitch_mem (s : State) : (autoSwitch s).mem = s.mem := by
  unfold autoSwitch
  split <;> rfl

theorem loseRef_canonical (port : Fin 2) (range : Bool) {s : State} (h : Canonical s) :
    Canonical (loseRef port range s) := by
  unfold loseRef
  grind [Canonical, postTo_canonical, setCoast_mem]

@[simp] theorem endPause_mem (since : Nat) (s : State) : (endPause since s).mem = s.mem := rfl

@[simp] theorem execRefLost_canonical (port : Fin 2) (range : Bool) {s : State} (h : Canonical s) :
    Lands (execRefLost port range s) := by
  refine ⟨_, rfl, ?_⟩
  grind [Canonical, autoSwitch_mem, endPause_mem, loseRef_canonical, setCoast_mem]

@[simp] theorem execRefValid_canonical (port : Fin 2) {s : State} (h : Canonical s) : Lands (execRefValid port s) := by
  refine ⟨_, rfl, ?_⟩
  grind [Canonical, autoSwitch_mem]

theorem startRelock_canonical (dst : Fin 2) (hang : Bool) {s : State} (h : Canonical s) :
    Canonical (startRelock dst hang s) := by
  unfold startRelock
  grind [Canonical, autoSwitch_mem, loseRef_canonical]

@[simp] theorem execSpringInputChanged_canonical {s : State} (h : Canonical s) : Lands (execSpringInputChanged s) := by
  refine ⟨_, rfl, ?_⟩
  grind [Canonical, startRelock_canonical]

@[simp] theorem execClkSwitchHang_canonical {s : State} (h : Canonical s) : Lands (execClkSwitchHang s) := by
  refine ⟨_, rfl, ?_⟩
  grind [Canonical, postTo_canonical, startRelock_canonical, waitUntil_mem]

theorem endStarted_canonical (op : Nat) (st : Byte) {s : State} (h : Canonical s) :
    Canonical (endStarted op st s) := by
  unfold endStarted
  grind [Canonical, complete_canonical, foldl_canonical]

@[simp] theorem execSpringRelockDone_canonical {s : State} (h : Canonical s) : Lands (execSpringRelockDone s) := by
  refine ⟨_, rfl, ?_⟩
  grind [Canonical, endPause_mem, endStarted_canonical, postTo_canonical, retrainAll_canonical, setCoast_mem,
    waitUntil_mem]

@[simp] theorem execNodeUnlocked_canonical (fields : List (Fin 192)) {s : State} (h : Canonical s) :
    Lands (execNodeUnlocked fields s) := by
  refine ⟨_, rfl, ?_⟩
  grind [Canonical]

theorem islandEvent_canonical (isle : List (Fin 192)) {s : State} (h : Canonical s) :
    Canonical (islandEvent isle s) := by
  unfold islandEvent
  grind [Canonical, postTo_canonical]

@[simp] theorem execIslandPllLocked_canonical (failed : List (Fin 192)) {s : State} (h : Canonical s) :
    Lands (execIslandPllLocked failed s) := by
  refine ⟨_, rfl, ?_⟩
  grind [Canonical, fieldDark_canonical, islandEvent_canonical, setField_mem, shiftWatch_mem, waitUntil_mem,
    foldl_canonical]

/-! ### The byte memories under the functions of Machine/Weir.lean -/

theorem grantField_canonical (f : Fin 192) {s : State} (h : Canonical s) : Canonical (grantField f s) := by
  unfold grantField
  grind [Canonical, setField_mem, setOp_mem, foldl_canonical]

theorem grantAll_canonical {s : State} (h : Canonical s) : Canonical (grantAll s) := by
  unfold grantAll
  grind [Canonical, grantField_canonical, foldl_canonical]

@[simp] theorem execRegulatorSetpointReached_canonical (f : Fin 192) {s : State} (h : Canonical s) :
    Lands (execRegulatorSetpointReached f s) := by
  refine ⟨_, rfl, ?_⟩
  grind [Canonical, setOp_mem, waitUntil_mem, foldl_canonical]

@[simp] theorem newCeilings_mem (limit : Nat) (s : State) : (newCeilings limit s).mem = s.mem := by
  simp [newCeilings]

theorem capEvent_canonical (kind : Nat) (high : Nat) (excess : Nat) {s : State} (h : Canonical s) :
    Canonical (capEvent kind high excess s) := by
  unfold capEvent
  grind [Canonical, postTo_canonical]

theorem limitingStep_canonical {s : State} (h : Canonical s) : Canonical (limitingStep s) := by
  unfold limitingStep
  grind [Canonical, capEvent_canonical]

@[simp] theorem setEnergy_mem (p : Fin 64) (e : Energy) (s : State) : (setEnergy p e s).mem = s.mem := rfl

theorem chargeEnergy_canonical {s : State} (h : Canonical s) : Canonical (chargeEnergy s) := by
  unfold chargeEnergy
  grind [Canonical, setEnergy_mem, foldl_canonical]

@[simp] theorem execWeirInterval_canonical {s : State} (h : Canonical s) : Lands (execWeirInterval s) := by
  refine ⟨_, rfl, ?_⟩
  grind [Canonical, chargeEnergy_canonical, grantAll_canonical, limitingStep_canonical, newCeilings_mem,
    waitUntil_mem]

@[simp] theorem execWeirCalibrate_canonical (fields : Ratios) (quads : Ratios) {s : State} (h : Canonical s) :
    Lands (execWeirCalibrate fields quads s) := by
  refine ⟨_, rfl, ?_⟩
  grind [Canonical, setField_mem, foldl_canonical]

@[simp] theorem execFeedMeasure_canonical (a : Nat) (b : Nat) (last100 : Nat) {s : State} (h : Canonical s) :
    Lands (execFeedMeasure a b last100 s) := by
  refine ⟨_, rfl, ?_⟩
  grind [Canonical, capEvent_canonical, grantAll_canonical]

@[simp] theorem giveShare_mem (m : BitVec 8) (v : Nat) (s : State) : (giveShare m v s).mem = s.mem := by
  unfold giveShare
  dsimp only
  repeat' split
  all_goals simp

theorem excessStep_canonical (excess : Nat) {s : State} (h : Canonical s) : Canonical (excessStep excess s) := by
  unfold excessStep
  grind [Canonical, capEvent_canonical]

@[simp] theorem execShareReallocate_canonical {s : State} (h : Canonical s) : Lands (execShareReallocate s) := by
  refine ⟨_, rfl, ?_⟩
  grind [Canonical, excessStep_canonical, giveShare_mem, foldl_canonical]

@[simp] theorem execShare_canonical (v : BitVec 16) {s : State} (h : Canonical s) : Lands (execShare v s) := by
  refine ⟨_, rfl, ?_⟩
  grind [Canonical, controlOut_mem, excessStep_canonical]

@[simp] theorem execShareAck_canonical (m : BitVec 8) {s : State} (h : Canonical s) : Lands (execShareAck m s) := by
  refine ⟨_, rfl, ?_⟩
  grind [Canonical]

@[simp] theorem capLost_mem (s : State) : (capLost s).mem = s.mem := rfl

@[simp] theorem execCapInFrame_canonical (b0 : Byte) (b1 : Byte) (b2 : Byte) {s : State} (h : Canonical s) :
    Lands (execCapInFrame b0 b1 b2 s) := by
  refine ⟨_, rfl, ?_⟩
  grind [Canonical, capLost_mem]

@[simp] theorem execCapInInvalid_canonical {s : State} (h : Canonical s) : Lands (execCapInInvalid s) := by
  refine ⟨_, rfl, ?_⟩
  grind [Canonical, capLost_mem]

@[simp] theorem execCapInHoldExpire_canonical {s : State} (h : Canonical s) : Lands (execCapInHoldExpire s) := by
  refine ⟨_, rfl, ?_⟩
  grind [Canonical, waitUntil_mem]

@[simp] theorem execDroopSoft_canonical (c : Cl) {s : State} (h : Canonical s) : Lands (execDroopSoft c s) := by
  refine ⟨_, rfl, ?_⟩
  grind [Canonical, setField_mem, setOp_mem, wrapEvent_canonical]

@[simp] theorem execDroopHard_canonical (c : Cl) {s : State} (h : Canonical s) : Lands (execDroopHard c s) := by
  refine ⟨_, rfl, ?_⟩
  grind [Canonical, setField_mem, setOp_mem, wrapEvent_canonical]

@[simp] theorem execDroopPauseEnd_canonical (c : Cl) {s : State} (h : Canonical s) : Lands (execDroopPauseEnd c s) := by
  refine ⟨_, rfl, ?_⟩
  grind [Canonical, restartRamps_canonical, setOp_mem, shiftWatch_mem, waitUntil_mem]

@[simp] theorem execDroopRecovery_canonical (c : Cl) {s : State} (h : Canonical s) : Lands (execDroopRecovery c s) := by
  refine ⟨_, rfl, ?_⟩
  grind [Canonical, setOp_mem, waitUntil_mem]

@[simp] theorem execRailShort_canonical (f : Fin 192) (network : Bool) {s : State} (h : Canonical s) :
    Lands (execRailShort f network s) := by
  refine ⟨_, rfl, ?_⟩
  grind [Canonical, fieldDark_canonical, fieldOff_canonical]

theorem thermalEvent_canonical (unit : BitVec 32) (kind : Nat) (t : Int) (ceil : Nat) (limit : Nat) {s : State}
    (h : Canonical s) :
    Canonical (thermalEvent unit kind t ceil limit s) := by
  unfold thermalEvent
  grind [Canonical, postTo_canonical]

theorem fieldStep_canonical (f : Fin 192) (kind : Nat) {s : State} (h : Canonical s) :
    Canonical (fieldStep f kind s) := by
  unfold fieldStep
  grind [Canonical, setField_mem, thermalEvent_canonical]

theorem warnStep_canonical (f : Fin 192) {s : State} (h : Canonical s) : Canonical (warnStep f s) := by
  unfold warnStep
  grind [Canonical, fieldStep_canonical, setField_mem]

@[simp] theorem execFieldTempSample_canonical (f : Fin 192) (t : Int) {s : State} (h : Canonical s) :
    Lands (execFieldTempSample f t s) := by
  refine ⟨_, rfl, ?_⟩
  grind [Canonical, fieldDark_canonical, fieldOff_canonical, setField_mem, warnStep_canonical]

@[simp] theorem execHotRestore_canonical (f : Fin 192) {s : State} (h : Canonical s) : Lands (execHotRestore f s) := by
  refine ⟨_, rfl, ?_⟩
  grind [Canonical, fieldBack_canonical, waitUntil_mem]

@[simp] theorem setStk_mem (st : Fin 48) (r : StkTemp) (s : State) : (setStk st r s).mem = s.mem := rfl

theorem stkStep_canonical (st : Fin 48) (kind : Nat) {s : State} (h : Canonical s) :
    Canonical (stkStep st kind s) := by
  unfold stkStep
  grind [Canonical, setStk_mem, thermalEvent_canonical]

@[simp] theorem execStackTempSample_canonical (st : Fin 48) (t : Int) {s : State} (h : Canonical s) :
    Lands (execStackTempSample st t s) := by
  refine ⟨_, rfl, ?_⟩
  grind [Canonical, fenceStack_canonical, setStk_mem, stkStep_canonical]

@[simp] theorem execClusterPark_canonical (c : Cl) {s : State} (h : Canonical s) : Lands (execClusterPark c s) := by
  refine ⟨_, rfl, ?_⟩
  grind [Canonical, setSleep_mem, waitUntil_mem, zeroCluster_canonical]

theorem fenceField_canonical (f : Fin 192) {s : State} (h : Canonical s) : Canonical (fenceField f s) := by
  unfold fenceField
  grind [Canonical, clDry_mem, clusterReset_canonical, fencedEvent_canonical, setField_mem, setSleep_mem,
    startEpoch_canonical, zeroCluster_canonical, foldl_canonical]

theorem ageingEvent_canonical (changed : Nat) (fell : Nat) (unscheduled : Bool) {s : State} (h : Canonical s) :
    Canonical (ageingEvent changed fell unscheduled s) := by
  unfold ageingEvent
  grind [Canonical, postTo_canonical, foldl_canonical]

@[simp] theorem execAgeingMonitorRead_canonical (f : Fin 192) (low : Bool) {s : State} (h : Canonical s) :
    Lands (execAgeingMonitorRead f low s) := by
  refine ⟨_, rfl, ?_⟩
  grind [Canonical, ageingEvent_canonical, fenceField_canonical, setField_mem]

theorem planField_canonical (f : Fin 192) (off : Option (Fin 21)) {s : State} (h : Canonical s) :
    Canonical (planField f off s) := by
  unfold planField
  grind [Canonical, fenceField_canonical, setField_mem]

@[simp] theorem execAgeingReplan_canonical (plan : List (Fin 192 × Option (Fin 21))) {s : State} (h : Canonical s) :
    Lands (execAgeingReplan plan s) := by
  refine ⟨_, rfl, ?_⟩
  grind [Canonical, ageingEvent_canonical, planField_canonical, foldl_canonical]

/-! ### The byte memories under the functions of Machine/Boot.lean -/

@[simp] theorem coldState_canonical {s : State} (h : Canonical s) :
    Canonical (coldState s) := h.of_emptied rfl rfl rfl

@[simp] theorem stopAt_mem (n : Nat) (s : State) : (stopAt n s).mem = s.mem := rfl

@[simp] theorem runSlot_mem (i : Fin 2) (s : State) : (runSlot i s).mem = s.mem := by
  unfold runSlot
  dsimp only
  repeat' split
  all_goals simp

@[simp] theorem rejectTrial_mem (s : State) : (rejectTrial s).mem = s.mem := rfl

@[simp] theorem romCheck_mem (s : State) : (romCheck s).mem = s.mem := by
  unfold romCheck
  dsimp only
  repeat' split
  all_goals simp

theorem startCold_canonical {s : State} (h : Canonical s) : Canonical (startCold s) := by
  unfold startCold
  grind [Canonical, coldState_canonical, romCheck_mem]

theorem powerOff_canonical (why : Shut) {s : State} (h : Canonical s) : Canonical (powerOff why s) := by
  unfold powerOff
  grind [Canonical, coldState_canonical]

@[simp] theorem logStop_mem (cause : Nat) (s : State) : (logStop cause s).mem = s.mem := by
  simp [logStop]

@[simp] theorem execPowerIn_canonical {s : State} (h : Canonical s) : Lands (execPowerIn s) := by
  refine ⟨_, rfl, ?_⟩
  grind [Canonical, startCold_canonical]

theorem startWarm_canonical {s : State} (h : Canonical s) : Canonical (startWarm s) := by
  have hfns (l : List FnId) : Canonical (l.foldl (fun s f => fnDown f s) { s with boot := { s.boot with ready := false } })
      :=
    foldl_canonical (fun s f hs => hs.of_mem (fnDown_mem ..)) h
  exact (hfns _).of_emptied rfl rfl rfl

theorem turnCold_canonical {s : State} (h : Canonical s) : Canonical (turnCold s) := by
  unfold turnCold
  grind [Canonical, coldState_canonical]

@[simp] theorem bootDry_mem (s : State) (c : Cl) : (bootDry s c).mem = s.mem := by
  unfold bootDry
  split <;> rfl

@[simp] theorem bootLatch_mem (s : State) (f : Fin 192) : (bootLatch s f).mem = s.mem := by
  unfold bootLatch
  dsimp only
  repeat' split
  all_goals simp

@[simp] theorem bootRouter_mem (s : State) (c : Cl) : (bootRouter s c).mem = s.mem := by
  unfold bootRouter
  split <;> rfl

theorem bootClusters_canonical (r : StepResult) {s : State} (h : Canonical s) : Canonical (bootClusters r s) := by
  unfold bootClusters
  grind [Canonical, bootDry_mem, setDry_mem, foldl_canonical]

@[simp] theorem chooseWellheads_mem (s : State) : (chooseWellheads s).mem = s.mem := by
  unfold chooseWellheads
  dsimp only
  repeat' split
  all_goals simp

@[simp] theorem bootLane_mem (s : State) (e : Fin 4 × Fin 2 × Fin 204) : (bootLane s e).mem = s.mem := rfl

@[simp] theorem bootSpare_mem (s : State) (e : Fin 4 × Fin 2 × Fin 204) : (bootSpare s e).mem = s.mem := by
  unfold bootSpare
  dsimp only
  repeat' split
  all_goals simp

theorem bootPage_canonical (e : Fin 48 × Fin 64) {s : State} (h : Canonical s) : Canonical (bootPage s e) := by
  unfold bootPage
  grind [Canonical, MemState.Canonical]

theorem firstEpoch_canonical {s : State} (h : Canonical s) : Canonical (firstEpoch s) := by
  unfold firstEpoch
  grind [Canonical, bootDry_mem, frontDry_canonical, markCut_canonical, foldl_canonical]

theorem postReady_canonical {s : State} (h : Canonical s) : Canonical (postReady s) := by
  unfold postReady
  grind [Canonical, cxlLinkEvent_canonical, fencedEvent_canonical, postTo_canonical, foldl_canonical]

@[simp] theorem enterStep_mem (n : Nat) (s : State) : (enterStep n s).mem = s.mem := rfl

theorem endStep2_canonical {s : State} (h : Canonical s) : Canonical (endStep2 s) := by
  unfold endStep2
  grind [Canonical, MemState.Canonical, enterStep_mem, turnCold_canonical]

@[simp] theorem endStep3_mem (r : StepResult) (s : State) : (endStep3 r s).mem = s.mem := by
  unfold endStep3
  dsimp only
  repeat' split
  all_goals simp

@[simp] theorem endStep4_mem (r : StepResult) (s : State) : (endStep4 r s).mem = s.mem := by
  unfold endStep4
  dsimp only
  repeat' split
  all_goals simp

@[simp] theorem endStep5_mem (r : StepResult) (s : State) : (endStep5 r s).mem = s.mem := by
  unfold endStep5
  dsimp only
  repeat' split
  all_goals simp

@[simp] theorem restoreCrit_mem (s : State) : (restoreCrit s).mem = s.mem := by
  simp [restoreCrit]

theorem endStep6_canonical (r : StepResult) {s : State} (h : Canonical s) : Canonical (endStep6 r s) := by
  unfold endStep6
  grind [Canonical, bootClusters_canonical, bootRouter_mem, chooseWellheads_mem, enterStep_mem, restoreCrit_mem,
    turnCold_canonical, foldl_canonical]

@[simp] theorem confirmTrial_mem (s : State) : (confirmTrial s).mem = s.mem := by
  unfold confirmTrial
  dsimp only
  repeat' split
  all_goals simp

theorem failTrial_canonical {s : State} (h : Canonical s) : Canonical (failTrial s) := by
  unfold failTrial
  grind [Canonical, rejectTrial_mem, startCold_canonical]

theorem endStep7_canonical {s : State} (h : Canonical s) : Canonical (endStep7 s) := by
  unfold endStep7
  grind [Canonical, confirmTrial_mem, enterStep_mem, failTrial_canonical]

theorem endStep15_canonical {s : State} (h : Canonical s) : Canonical (endStep15 s) := by
  unfold endStep15
  grind [Canonical, MemState.Canonical, postReady_canonical, takeFree_mem]

theorem endStep_canonical (r : StepResult) {s : State} (h : Canonical s) : Canonical (endStep r s) := by
  have he {u : State} (n : Nat) (hu : Canonical u) : Canonical (enterStep n u) := hu.of_mem (enterStep_mem ..)
  unfold endStep
  split
  · exact he _ (h.of_mem rfl)
  · exact endStep2_canonical h
  · exact h.of_mem (endStep3_mem ..)
  · exact h.of_mem (endStep4_mem ..)
  · exact h.of_mem (endStep5_mem ..)
  · exact endStep6_canonical r h
  · exact endStep7_canonical h
  · exact he _ (bootClusters_canonical r (h.of_sramEmptied rfl rfl rfl))
  · exact he _ (h.of_mem ((foldl_mem bootSpare_mem _ _).trans (foldl_mem bootLane_mem _ _)))
  · exact he _ (foldl_canonical (fun u n hu => hu.of_mem (setDry_mem ..)) h)
  · exact he _ (foldl_canonical (fun u e => bootPage_canonical e) h)
  · exact he _ (foldl_canonical (fun u p hu => hu.of_mem (setDry_mem ..)) h)
  · exact he _ ((firstEpoch_canonical h).of_mem rfl)
  · refine he _ (canonical_ite (foldl_canonical (fun u (e : Fin 192 × Option (Fin 21)) => planField_canonical e.1 e.2)
      (h.of_mem rfl)) h)
  · exact endStep15_canonical h
  · exact h

@[simp] theorem execBringupStepDone_canonical (r : StepResult) {s : State} (h : Canonical s) :
    Lands (execBringupStepDone r s) := by
  refine ⟨_, rfl, ?_⟩
  grind [Canonical, endStep_canonical, waitUntil_mem]

@[simp] theorem execBringupCoolantReady_canonical {s : State} (h : Canonical s) : Lands (execBringupCoolantReady s) := by
  refine ⟨_, rfl, ?_⟩
  grind [Canonical]

@[simp] theorem execTrialBootTimeout_canonical {s : State} (h : Canonical s) : Lands (execTrialBootTimeout s) := by
  refine ⟨_, rfl, ?_⟩
  grind [Canonical, failTrial_canonical, waitUntil_mem]

@[simp] theorem execLifecycleWipeDone_canonical {s : State} (h : Canonical s) : Lands (execLifecycleWipeDone s) := by
  refine ⟨_, rfl, ?_⟩
  split
  · exact h
  · refine canonical_ite h (Canonical.of_mem ?_ (enterStep_mem ..))
    exact h.of_emptied rfl rfl rfl

@[simp] theorem execRecoveryImage_canonical (image : List Byte) {s : State} (h : Canonical s) :
    Lands (execRecoveryImage image s) := by
  refine ⟨_, rfl, ?_⟩
  grind [Canonical, startCold_canonical, writeBytes_wf]

/-! ### The byte memories under the functions of Machine/Power.lean -/

theorem coolantShutdown_canonical (cause : Nat) {s : State} (h : Canonical s) :
    Canonical (coolantShutdown cause s) := by
  unfold coolantShutdown
  grind [Canonical, coldState_canonical, logStop_mem]

theorem derateStep_canonical {s : State} (h : Canonical s) : Canonical (derateStep s) := by
  unfold derateStep
  grind [Canonical, thermalEvent_canonical]

@[simp] theorem execCoolantSample_canonical (r : Coolant) {s : State} (h : Canonical s) : Lands (execCoolantSample r s) := by
  refine ⟨_, rfl, ?_⟩
  grind [Canonical, coolantShutdown_canonical, derateStep_canonical]

@[simp] theorem execCoolantRestart_canonical {s : State} (h : Canonical s) : Lands (execCoolantRestart s) := by
  refine ⟨_, rfl, ?_⟩
  grind [Canonical, startCold_canonical, waitUntil_mem]

@[simp] theorem execFeedLoss_canonical (f : Fin 2) {s : State} (h : Canonical s) : Lands (execFeedLoss f s) := by
  refine ⟨_, rfl, ?_⟩
  grind [Canonical]

@[simp] theorem execFeedReturn_canonical (f : Fin 2) {s : State} (h : Canonical s) : Lands (execFeedReturn f s) := by
  refine ⟨_, rfl, ?_⟩
  grind [Canonical]

@[simp] theorem execFeedRideThroughExpire_canonical {s : State} (h : Canonical s) : Lands (execFeedRideThroughExpire s) := by
  refine ⟨_, rfl, ?_⟩
  grind [Canonical, powerOff_canonical, waitUntil_mem]

@[simp] theorem execEpoNAssert_canonical {s : State} (h : Canonical s) : Lands (execEpoNAssert s) := by
  refine ⟨_, rfl, ?_⟩
  grind [Canonical, logStop_mem, powerOff_canonical, waitUntil_mem]

@[simp] theorem execEpoNDeassert_canonical {s : State} (h : Canonical s) : Lands (execEpoNDeassert s) := by
  refine ⟨_, rfl, ?_⟩
  grind [Canonical, startCold_canonical, waitUntil_mem]

@[simp] theorem execPresentNLoss_canonical {s : State} (h : Canonical s) : Lands (execPresentNLoss s) := by
  refine ⟨_, rfl, ?_⟩
  grind [Canonical, powerOff_canonical, waitUntil_mem]

/-! ### The byte memories under the functions of Machine/Parts.lean -/

theorem serveOne_canonical {s : State} (id : Nat) (h : Canonical s) : Canonical (serveOne s id) := by
  simp only [serveOne, List.foldl_cons, List.foldl_nil]
  refine nextOf_canonical _ (execBasinContribution_canonical id (nextOf_canonical _ (execCloseArrive_canonical id ?_)))
  refine nextOf_canonical _ (execCreditArrive_canonical id (nextOf_canonical _ (execMessageArrive_canonical id ?_)))
  refine nextOf_canonical _ (execOpenArrive_canonical id (nextOf_canonical _ (execObjectCas_canonical id ?_)))
  refine nextOf_canonical _ (execObjectAdd_canonical _ (nextOf_canonical _ (execObjectSet_canonical id ?_)))
  refine nextOf_canonical _ (execObjectRead_canonical id (nextOf_canonical _ (execMemTileOutsideAccess_canonical id ?_)))
  exact nextOf_canonical _ (execMemAccessServe_canonical id h)

theorem refuseHeld_canonical (id : Nat) {s : State} (h : Canonical s) : Canonical (refuseHeld s id) := by
  unfold refuseHeld
  grind [Canonical, answer_canonical]

theorem rekeySet_canonical (part : Option (Fin 64)) (cause : Nat) (ps : List (Nat × Option (Fin 64) × Nat)) {s : State}
    (h : Canonical s) :
    Canonical (rekeySet part cause ps s) := by
  unfold rekeySet
  grind [Canonical, MemState.Canonical, rekeyPage_canonical, foldl_canonical]

theorem drawKey_canonical (p : Fin 64) {s : State} (h : Canonical s) : Canonical (drawKey p s) := by
  unfold drawKey
  grind [Canonical, MemState.Canonical, takeFree_mem]

theorem freePages_canonical (p : Fin 64) (ks : List Nat) (index : Nat → Bool) {s : State} (h : Canonical s) :
    Canonical (freePages p ks index s) := by
  unfold freePages
  grind [Canonical, MemState.Canonical, rekeySet_canonical, serveOne_canonical, foldl_canonical]

theorem clearGens_canonical (c : Cl) {s : State} (h : Canonical s) : Canonical (clearGens c s) := by
  unfold clearGens
  grind [Canonical, setCore_mem, setIo_mem, setSf_mem, foldl_canonical]

@[simp] theorem clearSends_mem (c : Cl) (s : State) : (clearSends c s).mem = s.mem := rfl

theorem bindCluster_canonical (p : Fin 64) (c : Cl) {s : State} (h : Canonical s) :
    Canonical (bindCluster p s c) := by
  unfold bindCluster
  grind [Canonical, clearGens_canonical, seedCore_mem, setSleep_mem, zeroCluster_canonical, foldl_canonical]

theorem unbindCluster_canonical (c : Cl) {s : State} (h : Canonical s) : Canonical (unbindCluster s c) := by
  unfold unbindCluster
  grind [Canonical, clearGens_canonical, clearSends_mem]

theorem leaveTrees_canonical (p : Fin 64) (cs : List Cl) {s : State} (h : Canonical s) :
    Canonical (leaveTrees p cs s) := by
  unfold leaveTrees
  grind [Canonical, dropMember_canonical, fountainAck_mem, foldl_canonical]

theorem closeAll_canonical (c : Cl) {s : State} (h : Canonical s) : Canonical (closeAll c s) := by
  unfold closeAll
  grind [Canonical, closeEp_canonical, foldl_canonical]

theorem stopCluster_canonical (c : Cl) {s : State} (h : Canonical s) : Canonical (stopCluster s c) := by
  unfold stopCluster
  exact resetClusterPump_canonical c (closeAll_canonical c ((resetCtxs_canonical c h).of_mem (resetArray_mem ..)))

theorem leaveClusters_canonical (p : Fin 64) (cs : List Cl) {s : State} (h : Canonical s) :
    Canonical (leaveClusters p cs s) := by
  unfold leaveClusters
  grind [Canonical, clusterReset_canonical, leaveTrees_canonical, refuseHeld_canonical, serveOne_canonical,
    setSleep_mem, stopCluster_canonical, unbindCluster_canonical, zeroCluster_canonical, foldl_canonical]

theorem startReset_canonical (kind : Nat) (deleting : Bool) (p : Fin 64) {s : State} (h : Canonical s) :
    Canonical (startReset kind deleting s p) := by
  unfold startReset
  grind [Canonical, resetChan_canonical, setPart_mem, stopCluster_canonical, foldl_canonical]

@[simp] theorem execPartitionResetDrainEnd_canonical (p : Fin 64) {s : State} (h : Canonical s) :
    Lands (execPartitionResetDrainEnd p s) := by
  refine ⟨_, rfl, ?_⟩
  grind [Canonical, drawKey_canonical, refuseHeld_canonical, rekeySet_canonical, setPart_mem, waitUntil_mem,
    foldl_canonical]

@[simp] theorem resetNum_mem (p : Fin 64) (s : State) : (resetNum p s).mem = s.mem := by
  unfold resetNum
  dsimp only
  repeat' split
  all_goals simp

@[simp] theorem resetTrees_mem (p : Fin 64) (s : State) : (resetTrees p s).mem = s.mem := rfl

theorem resetBound_canonical (c : Cl) {s : State} (h : Canonical s) : Canonical (resetBound s c) := by
  unfold resetBound
  grind [Canonical, clearSends_mem, clusterReset_canonical, setCore_mem, setIo_mem, setSf_mem, setSleep_mem,
    zeroCluster_canonical, foldl_canonical]

theorem deletePartition_canonical (p : Fin 64) {s : State} (h : Canonical s) : Canonical (deletePartition p s) := by
  unfold deletePartition
  grind [Canonical, MemState.Canonical, freePages_canonical, setPart_mem, unbindCluster_canonical, foldl_canonical]

theorem finishResets_canonical {s : State} (h : Canonical s) : Canonical (finishResets s) := by
  unfold finishResets
  grind [Canonical, complete_canonical, endStarted_canonical, foldl_canonical]

theorem resetDoneEvent_canonical (p : Fin 64) (kind : Nat) (since : Nat) {s : State} (h : Canonical s) :
    Canonical (resetDoneEvent p kind since s) := by
  unfold resetDoneEvent
  grind [Canonical, postEvent_canonical]

@[simp] theorem execPartitionResetZeroDone_canonical (p : Fin 64) {s : State} (h : Canonical s) :
    Lands (execPartitionResetZeroDone p s) := by
  refine ⟨_, rfl, ?_⟩
  grind [Canonical, complete_canonical, deletePartition_canonical, finishResets_canonical, resetBound_canonical,
    resetDoneEvent_canonical, resetNum_mem, resetTrees_mem, setPart_mem, waitUntil_mem, foldl_canonical]

theorem startWide_canonical (ws : List (Fin 4)) (kind : Nat) {s : State} (h : Canonical s) :
    Canonical (startWide ws kind s) := by
  unfold startWide
  grind [Canonical, clusterReset_canonical, startReset_canonical, zeroCluster_canonical, foldl_canonical]

/-! ### The byte memories under the functions of Machine/Wellhead.lean -/

theorem waferGone_canonical (w : Fin 4) (ps : List (Fin 64)) (e : Nat) {s : State} (h : Canonical s) :
    Canonical (waferGone w ps e s) := by
  unfold waferGone
  grind [Canonical, fencedEvent_canonical, startEpoch_canonical]

theorem doomWafer_canonical (w : Fin 4) {s : State} (h : Canonical s) :
    Canonical (doomWafer w s) := by
  have hdark (l : List Cl) : Canonical (l.foldl (fun s c => clDark c s) s) := foldl_canonical
      (fun u c hu => hu.of_mem (clDark_mem ..)) h
  unfold doomWafer
  dsimp only
  exact canonical_ite h (waferGone_canonical _ _ _ (canonical_with_boot (hdark _) _))

theorem loseWafer_canonical (w : Fin 4) {s : State} (h : Canonical s) :
    Canonical (loseWafer w s) := by
  have hlost (l : List (Fin 192)) : Canonical (bootWaferLost (l.foldl (fun s f => loseFieldMem f s) s) w) := by
    exact (foldl_canonical (fun _ f => loseFieldMem_canonical f) h).of_mem (bootWaferLost_mem ..)
  unfold loseWafer
  dsimp only
  exact canonical_ite h (waferGone_canonical _ _ _ (canonical_with_t (hlost _) _))

theorem takeCluster_canonical (c : Cl) {s : State} (h : Canonical s) : Canonical (takeCluster c s) := by
  unfold takeCluster
  grind [Canonical, fencedEvent_canonical, leaveClusters_canonical]

theorem loseWellhead_canonical (w : Fin 4) {s : State} (h : Canonical s) : Canonical (loseWellhead w s) := by
  unfold loseWellhead
  grind [Canonical, doomWafer_canonical, fenceCluster_canonical, takeCluster_canonical]

@[simp] theorem execWellheadPoll_canonical (w : Fin 4) (answers : Bool) {s : State} (h : Canonical s) :
    Lands (execWellheadPoll w answers s) := by
  refine ⟨_, rfl, ?_⟩
  grind [Canonical, loseWellhead_canonical, waitUntil_mem]

@[simp] theorem execWellheadReplaced_canonical (w : Fin 4) {s : State} (h : Canonical s) :
    Lands (execWellheadReplaced w s) := by
  refine ⟨_, rfl, ?_⟩
  grind [Canonical, waitUntil_mem]

@[simp] theorem execBusConverterFailure_canonical (conv : Fin 16) {s : State} (h : Canonical s) :
    Lands (execBusConverterFailure conv s) := by
  refine ⟨_, rfl, ?_⟩
  grind [Canonical, loseWafer_canonical]

@[simp] theorem execStackFailure_canonical (st : Fin 48) {s : State} (h : Canonical s) : Lands (execStackFailure st s) := by
  refine ⟨_, rfl, ?_⟩
  grind [Canonical, fenceStack_canonical]

/-! ### The byte memories under the functions of Machine/Command.lean -/

theorem runCmd_canonical (k : CmdKey) (op : Nat) (form : BitVec 512 → Bool) {body : Cmd → State → State} {s : State}
    (h : Canonical s) (hb : ∀ c, Canonical (body c s)) :
    Canonical (runCmd k op form body s) := by
  unfold runCmd
  grind [Canonical, complete_canonical]

@[simp] theorem markStarted_mem (c : Cmd) (s : State) : (markStarted c s).mem = s.mem := rfl

theorem withPart_canonical (c : Cmd) {f : Fin 64 → PartRec → State} {s : State} (h : Canonical s)
    (hf : ∀ p r, Canonical (f p r)) :
    Canonical (withPart c s f) := by
  unfold withPart
  grind [Canonical, complete_canonical]

theorem giveData_canonical (c : Cmd) (d : Nat) (data : List Byte) {s : State} (h : Canonical s) :
    Canonical (giveData c d data s) := by
  unfold giveData
  exact canonical_ite (complete_canonical _ _ _ h) (canonical_ite (complete_canonical _ _ _ h)
    (canonical_ite (complete_canonical _ _ _ h) (complete_canonical _ _ _ (hostWrite_canonical _ _ h))))

@[simp] theorem rouse_mem (c : Cl) (s : State) : (rouse c s).mem = s.mem := by
  unfold rouse
  split <;> rfl

theorem waitZero_canonical (st : Fin 48) (phys k : Nat) {s : State} (h : Canonical s) :
    Canonical (waitZero st phys k s) := by
  induction k generalizing s with
  | zero => exact h
  | succ k ih =>
    unfold waitZero
    grind [Canonical, nextOf_canonical, execPageZeroDone_canonical]

theorem memPut_canonical (p : Fin 64) (a : Word) (d : List Byte) {s : State} (h : Canonical s) :
    Canonical (memPut p a d s).2 := by
  have hc (n : Fin 48) : Canonical (countStack n p d.length s) := h.of_mem (countStack_mem ..)
  unfold memPut
  refine canonical_snd_ite h ?_
  split
  · split
    · exact h
    · dsimp only
      split
      · exact canonical_ite (waitZero_canonical _ _ _ (hc _)) (hc _)
      · next hw =>
        exact settle_canonical (stackWrite_canonical _ _ _ _ _ _ (canonical_ite (waitZero_canonical _ _ _ (hc _)) (hc _))
            hw)
  · have hr : Canonical (match addrCl a with | some c => rouse c s | none => s) := by
      split
      · exact h.of_mem (rouse_mem ..)
      · exact h
    exact settle_canonical (sramWrite_canonical _ _ _ hr)

theorem memGet_canonical (p : Fin 64) (a : Word) (n : Nat) {s : State} (h : Canonical s) :
    Canonical (memGet p a n s).2.2 := by
  unfold memGet
  grind [Canonical, countStack_mem, rouse_mem, settle_canonical, sramRead_canonical, stackRead_canonical]

theorem memPutAll_canonical (p : Fin 64) (l : List (Nat × List Byte)) (n : Nat) {s : State} (h : Canonical s) :
    Canonical (memPutAll p l n s).2.2 := by
  induction l generalizing n s with
  | nil => exact h
  | cons e l ih =>
    unfold memPutAll
    grind [Canonical, memPut_canonical]

theorem memGetAll_canonical (p : Fin 64) (l : List (Nat × List Byte)) (d : List Byte) {s : State} (h : Canonical s) :
    Canonical (memGetAll p l d s).2.2 := by
  induction l generalizing d s with
  | nil => exact h
  | cons e l ih =>
    unfold memGetAll
    grind [Canonical, memGet_canonical]

/-! ### The byte memories under the functions of Machine/Admin.lean -/

@[simp] theorem execIdentify_canonical (k : CmdKey) {s : State} (h : Canonical s) : Lands (execIdentify k s) := by
  have hc (st : Byte) (l : List Byte) : Canonical (complete k st l s) := complete_canonical _ _ _ h
  refine ⟨_, rfl, runCmd_canonical _ _ _ h fun c => ?_⟩
  exact canonical_ite (hc _ _) (canonical_ite (hc _ _) (canonical_ite (hc _ _) (canonical_ite (hc _ _)
    (complete_canonical _ _ _ (hostWrite_canonical _ _ h)))))

@[simp] theorem execGetStatus_canonical (k : CmdKey) {s : State} (h : Canonical s) : Lands (execGetStatus k s) := by
  refine ⟨_, rfl, ?_⟩
  grind [Canonical, complete_canonical, runCmd_canonical]

@[simp] theorem execDevResetWafer_canonical (k : CmdKey) {s : State} (h : Canonical s) : Lands (execDevResetWafer k s) := by
  refine ⟨_, rfl, ?_⟩
  grind [Canonical, complete_canonical, finishResets_canonical, markStarted_mem, runCmd_canonical,
    startWide_canonical]

@[simp] theorem execDevResetModuleCompute_canonical (k : CmdKey) {s : State} (h : Canonical s) :
    Lands (execDevResetModuleCompute k s) := by
  refine ⟨_, rfl, ?_⟩
  grind [Canonical, finishResets_canonical, markStarted_mem, runCmd_canonical, startWide_canonical]

@[simp] theorem execDevResetModuleFull_canonical (k : CmdKey) {s : State} (h : Canonical s) :
    Lands (execDevResetModuleFull k s) := by
  refine ⟨_, rfl, ?_⟩
  grind [Canonical, runCmd_canonical, startWarm_canonical]

@[simp] theorem execDevResetCold_canonical (k : CmdKey) {s : State} (h : Canonical s) : Lands (execDevResetCold k s) := by
  refine ⟨_, rfl, ?_⟩
  grind [Canonical, runCmd_canonical, startCold_canonical]

@[simp] theorem execPartCreate_canonical (k : CmdKey) {s : State} (h : Canonical s) : Lands (execPartCreate k s) := by
  refine ⟨_, rfl, ?_⟩
  grind [Canonical, complete_canonical, drawKey_canonical, runCmd_canonical, setEnergy_mem, setNum_mem, setPart_mem,
    takeFree_mem]

@[simp] theorem execPartDelete_canonical (k : CmdKey) {s : State} (h : Canonical s) : Lands (execPartDelete k s) := by
  refine ⟨_, rfl, ?_⟩
  grind [Canonical, markStarted_mem, runCmd_canonical, startReset_canonical, withPart_canonical]

@[simp] theorem execPartSetVf_canonical (k : CmdKey) {s : State} (h : Canonical s) : Lands (execPartSetVf k s) := by
  refine ⟨_, rfl, ?_⟩
  grind [Canonical, complete_canonical, runCmd_canonical, setPart_mem, withPart_canonical]

@[simp] theorem execBedsBind_canonical (k : CmdKey) {s : State} (h : Canonical s) : Lands (execBedsBind k s) := by
  have hc (st : Byte) : Canonical (complete k st [] s) := complete_canonical _ _ _ h
  refine ⟨_, rfl, runCmd_canonical _ _ _ h fun c => withPart_canonical _ h fun p r => ?_⟩
  split
  · exact hc _
  · split
    · exact hc _
    · refine canonical_ite (hc _) (canonical_ite (hc _) (canonical_ite (hc _) (complete_canonical _ _ _ ?_)))
      refine foldl_canonical (fun u x => bindCluster_canonical p x) ?_
      exact (canonical_ite (h.of_mem (waitUntil_mem ..)) h).of_mem (setPart_mem ..)

@[simp] theorem execBedsUnbind_canonical (k : CmdKey) {s : State} (h : Canonical s) : Lands (execBedsUnbind k s) := by
  have hc (st : Byte) : Canonical (complete k st [] s) := complete_canonical _ _ _ h
  refine ⟨_, rfl, runCmd_canonical _ _ _ h fun c => withPart_canonical _ h fun p r => ?_⟩
  split
  · exact hc _
  · split
    · exact hc _
    · refine canonical_ite (hc _) (canonical_ite (hc _) (complete_canonical _ _ _ ?_))
      have hl (gone : List Cl) : Canonical (leaveClusters p gone s) := leaveClusters_canonical _ _ h
      split
      · exact (hl _).of_mem (setPart_mem ..)
      · exact hl _

@[simp] theorem execSetRegionBind_canonical (k : CmdKey) {s : State} (h : Canonical s) : Lands (execSetRegionBind k s) := by
  have hc (st : Byte) : Canonical (complete k st [] s) := complete_canonical _ _ _ h
  refine ⟨_, rfl, runCmd_canonical _ _ _ h fun c => withPart_canonical _ h fun p r => ?_⟩
  refine canonical_ite (hc _) (canonical_ite (hc _) (canonical_ite (hc _) (canonical_ite (hc _) (canonical_ite (hc _) ?_))))
  exact complete_canonical _ _ _ (rekeySet_canonical _ _ _ (h.of_mem (setPart_mem ..)))

@[simp] theorem execSetRegionFree_canonical (k : CmdKey) {s : State} (h : Canonical s) : Lands (execSetRegionFree k s) := by
  refine ⟨_, rfl, ?_⟩
  grind [Canonical, complete_canonical, freePages_canonical, runCmd_canonical, setPart_mem, withPart_canonical]

@[simp] theorem execBindPump_canonical (k : CmdKey) {s : State} (h : Canonical s) : Lands (execBindPump k s) := by
  refine ⟨_, rfl, ?_⟩
  grind [Canonical, abortChan_canonical, complete_canonical, runCmd_canonical, setChan_mem]

@[simp] theorem execBindPort_canonical (k : CmdKey) {s : State} (h : Canonical s) : Lands (execBindPort k s) := by
  refine ⟨_, rfl, ?_⟩
  grind [Canonical, complete_canonical, runCmd_canonical, setPort_mem]

@[simp] theorem execSetTimeouts_canonical (k : CmdKey) {s : State} (h : Canonical s) : Lands (execSetTimeouts k s) := by
  refine ⟨_, rfl, ?_⟩
  grind [Canonical, complete_canonical, runCmd_canonical, setPart_mem, withPart_canonical]

@[simp] theorem execResetContext_canonical (k : CmdKey) {s : State} (h : Canonical s) : Lands (execResetContext k s) := by
  refine ⟨_, rfl, ?_⟩
  grind [Canonical, complete_canonical, ctxReset_canonical, runCmd_canonical, withPart_canonical]

@[simp] theorem execResetClusterCompute_canonical (k : CmdKey) {s : State} (h : Canonical s) :
    Lands (execResetClusterCompute k s) := by
  refine ⟨_, rfl, ?_⟩
  grind [Canonical, clusterReset_canonical, complete_canonical, runCmd_canonical, withPart_canonical]

@[simp] theorem execResetPartitionCompute_canonical (k : CmdKey) {s : State} (h : Canonical s) :
    Lands (execResetPartitionCompute k s) := by
  refine ⟨_, rfl, ?_⟩
  grind [Canonical, complete_canonical, markStarted_mem, runCmd_canonical, startReset_canonical, withPart_canonical]

@[simp] theorem execBarrierCreate_canonical (k : CmdKey) {s : State} (h : Canonical s) : Lands (execBarrierCreate k s) := by
  have hc (st : Byte) : Canonical (complete k st [] s) := complete_canonical _ _ _ h
  refine ⟨_, rfl, runCmd_canonical _ _ _ h fun c => withPart_canonical _ h fun p r => ?_⟩
  split
  · exact hc _
  · dsimp only
    split
    · exact hc _
    · refine canonical_ite (hc _) (canonical_ite (hc _) (canonical_ite (hc _) (complete_canonical _ _ _ ?_)))
      exact Canonical.of_mem (foldl_canonical (fun u e hu => hu.of_mem (setBar_mem ..)) h) (setRoot_mem ..)

@[simp] theorem execBarrierDelete_canonical (k : CmdKey) {s : State} (h : Canonical s) : Lands (execBarrierDelete k s) := by
  refine ⟨_, rfl, ?_⟩
  grind [Canonical, complete_canonical, runCmd_canonical, setBar_mem, setRoot_mem, withPart_canonical,
    foldl_canonical]

@[simp] theorem execFountainCreate_canonical (k : CmdKey) {s : State} (h : Canonical s) : Lands (execFountainCreate k s) := by
  have hc (st : Byte) : Canonical (complete k st [] s) := complete_canonical _ _ _ h
  refine ⟨_, rfl, runCmd_canonical _ _ _ h fun c => withPart_canonical _ h fun p _ => ?_⟩
  split
  · exact hc _
  · split
    · exact hc _
    · exact canonical_ite (hc _) (canonical_ite (hc _) (canonical_ite (hc _) (complete_canonical _ _ _ (h.of_mem rfl))))

@[simp] theorem execFountainDelete_canonical (k : CmdKey) {s : State} (h : Canonical s) : Lands (execFountainDelete k s) := by
  refine ⟨_, rfl, ?_⟩
  grind [Canonical, complete_canonical, runCmd_canonical, withPart_canonical]

@[simp] theorem execPartQuery_canonical (k : CmdKey) {s : State} (h : Canonical s) :
    Lands (execPartQuery k s) :=
  ⟨_, rfl, runCmd_canonical _ _ _ h fun c => withPart_canonical _ h fun _ _ => giveData_canonical c 2 _ h⟩

/-! ### The byte memories under the functions of Machine/Images.lean -/

theorem streamOne_canonical (p : Fin 64) (dest : Nat) (d : List Byte) {r : Byte × State} (x : Cl) (h : Canonical r.2) :
    Canonical (streamOne p dest d r x).2 := by
  unfold streamOne
  grind [Canonical, memPutAll_canonical]

theorem loadOne_canonical (slot : Fin 4) (off : Nat) {r : Byte × State} (x : Cl) (h : Canonical r.2) :
    Canonical (loadOne slot off r x).2 := by
  have hl (f : ArrRec → ArrRec) : Canonical (updArr x f (loadImage x off r.2).2) := (loadImage_canonical x off h).of_mem
      (updArr_mem ..)
  have hs {st : Byte} : Canonical (st, r.2).2 := canonical_snd h rfl
  unfold loadOne
  dsimp only
  refine canonical_snd_ite h (canonical_snd_ite hs (canonical_snd_ite hs
      (canonical_snd_ite hs (canonical_snd_ite hs (canonical_snd_ite (canonical_snd (hl _) rfl) ?_)))))
  exact canonical_snd (foldl_canonical (fun s t hs => hs.of_mem (setSlotRec_mem ..)) ((hl _).of_mem (updArr_mem ..))) rfl

theorem putSection_canonical (p : Fin 64) (skip : Bool) (img : List Byte) (e : Section) {s : State} (h : Canonical s) :
    Canonical (putSection p skip img e s).2 := by
  have hstream (l : List Cl) (d : List Byte) : Canonical (l.foldl (streamOne p e.dest d) (0x00, s)).2 :=
    foldl_snd_canonical (fun r x => streamOne_canonical p e.dest d x) h
  unfold putSection
  refine canonical_snd_ite (canonical_snd_ite h (canonical_snd_ite ?_ (hstream _ _)))
      (canonical_snd (memPutAll_canonical p _ _ h) rfl)
  exact foldl_snd_canonical (fun r x => loadOne_canonical e.slot e.dest x) (hstream _ _)

theorem putSections_canonical (p : Fin 64) (skip : Bool) (img : List Byte) (l : List Section) (n : Nat) {s : State}
    (h : Canonical s) :
    Canonical (putSections p skip img l n s).2.2 := by
  induction l generalizing n s with
  | nil => exact h
  | cons e l ih =>
    unfold putSections
    grind [Canonical, putSection_canonical]

@[simp] theorem flushCaches_mem (p : Fin 64) (s : State) : (flushCaches p s).mem = s.mem := rfl

theorem loadSections_canonical (k : CmdKey) (p : Fin 64) (skip : Bool) (d : List Byte) (es : List Section) {s : State}
    (h : Canonical s) :
    Canonical (loadSections k p skip d es s) := by
  unfold loadSections
  grind [Canonical, complete_canonical, flushCaches_mem, putSections_canonical]

@[simp] theorem execLoadImage_canonical (k : CmdKey) {s : State} (h : Canonical s) : Lands (execLoadImage k s) := by
  refine ⟨_, rfl, runCmd_canonical _ _ _ h fun c => withPart_canonical _ h fun p _ => ?_⟩
  split
  · exact complete_canonical _ _ _ h
  · split
    · exact complete_canonical _ _ _ h
    · exact loadSections_canonical _ _ _ _ _ h

theorem putReg_canonical (c : Cmd) (off : Nat) (v : Word) {r : List Byte × State} (x : Cl) (h : Canonical r.2) :
    Canonical (putReg c off v r x).2 := by
  unfold putReg
  grind [Canonical, writeReg_canonical, rouse_mem]

@[simp] theorem execRegWrite_canonical (k : CmdKey) {s : State} (h : Canonical s) : Lands (execRegWrite k s) := by
  have hput (c : Cmd) (off : Nat) (v : Word) (l : List Cl) : Canonical (l.foldl (putReg c off v) ([], s)).2 :=
    foldl_snd_canonical (fun r x => putReg_canonical c off v x) h
  refine ⟨_, rfl, runCmd_canonical _ _ _ h fun c => ?_⟩
  split
  · exact complete_canonical _ _ _ h
  · exact canonical_ite (complete_canonical _ _ _ h) (complete_canonical _ _ _ (canonical_with_ioReply (hput _ _ _ _) _))

@[simp] theorem getReg_mem (c : Cmd) (x : Cl) (off : Nat) (s : State) : (getReg c x off s).2.2.mem = s.mem := by
  unfold getReg
  dsimp only
  repeat' split
  all_goals simp

@[simp] theorem execRegRead_canonical (k : CmdKey) {s : State} (h : Canonical s) : Lands (execRegRead k s) := by
  refine ⟨_, rfl, ?_⟩
  grind [Canonical, complete_canonical, getReg_mem, rouse_mem, runCmd_canonical]

@[simp] theorem execMemCopy_canonical (k : CmdKey) {s : State} (h : Canonical s) : Lands (execMemCopy k s) := by
  refine ⟨_, rfl, ?_⟩
  grind [Canonical, complete_canonical, hostWrite_canonical, memGetAll_canonical, memPutAll_canonical,
    runCmd_canonical, withPart_canonical]

@[simp] theorem execWipe_canonical (k : CmdKey) {s : State} (h : Canonical s) : Lands (execWipe k s) := by
  refine ⟨_, rfl, ?_⟩
  grind [Canonical, complete_canonical, rekeySet_canonical, runCmd_canonical, withPart_canonical]

theorem setSlice_canonical (i : Nat) (v : Option (Fin 64 × Nat)) {s : State} (h : Canonical s) :
    Canonical (setSlice i v s) := by
  unfold setSlice
  grind [Canonical, MemState.Canonical]

@[simp] theorem execHdmMap_canonical (k : CmdKey) {s : State} (h : Canonical s) : Lands (execHdmMap k s) := by
  refine ⟨_, rfl, ?_⟩
  grind [Canonical, complete_canonical, runCmd_canonical, setSlice_canonical, withPart_canonical]

@[simp] theorem execHdmUnmap_canonical (k : CmdKey) {s : State} (h : Canonical s) : Lands (execHdmUnmap k s) := by
  refine ⟨_, rfl, ?_⟩
  grind [Canonical, complete_canonical, runCmd_canonical, setSlice_canonical]

@[simp] theorem execMemInfo_canonical (k : CmdKey) {s : State} (h : Canonical s) :
    Lands (execMemInfo k s) :=
  ⟨_, rfl, runCmd_canonical _ _ _ h fun c => giveData_canonical c 2 _ h⟩

@[simp] theorem execSyncDump_canonical (k : CmdKey) {s : State} (h : Canonical s) : Lands (execSyncDump k s) := by
  refine ⟨_, rfl, ?_⟩
  grind [Canonical, complete_canonical, giveData_canonical, runCmd_canonical]

@[simp] theorem execArrayDump_canonical (k : CmdKey) {s : State} (h : Canonical s) : Lands (execArrayDump k s) := by
  refine ⟨_, rfl, ?_⟩
  grind [Canonical, complete_canonical, giveData_canonical, runCmd_canonical]

theorem dumpRegs_canonical (c : Cmd) (x : Cl) (l : List Nat) (d : List Byte) {s : State} (h : Canonical s) :
    Canonical (dumpRegs c x l d s).2 := by
  induction l generalizing d s with
  | nil => exact h
  | cons e l ih =>
    unfold dumpRegs
    grind [Canonical, getReg_mem]

@[simp] theorem execCoreDump_canonical (k : CmdKey) {s : State} (h : Canonical s) : Lands (execCoreDump k s) := by
  refine ⟨_, rfl, ?_⟩
  grind [Canonical, complete_canonical, dumpRegs_canonical, giveData_canonical, rouse_mem, runCmd_canonical]

@[simp] theorem execDeadlockRead_canonical (k : CmdKey) {s : State} (h : Canonical s) : Lands (execDeadlockRead k s) := by
  refine ⟨_, rfl, runCmd_canonical _ _ _ h fun c => withPart_canonical _ h fun p _ => ?_⟩
  exact canonical_ite (complete_canonical _ _ _ h) (giveData_canonical c 2 _ (canonical_ite h h))

/-! ### The byte memories under the functions of Machine/Manage.lean -/

@[simp] theorem execPowerGet_canonical (k : CmdKey) {s : State} (h : Canonical s) :
    Lands (execPowerGet k s) :=
  ⟨_, rfl, runCmd_canonical _ _ _ h fun c => giveData_canonical c 2 _ h⟩

theorem dropShares_canonical {s : State} (h : Canonical s) : Canonical (dropShares s) := by
  unfold dropShares
  grind [Canonical, controlOut_mem, excessStep_canonical, foldl_canonical]

theorem setPowerConfig_canonical (v : Nat) {s : State} (h : Canonical s) : Canonical (setPowerConfig v s).2 := by
  unfold setPowerConfig
  grind [Canonical, dropShares_canonical]

@[simp] theorem execPowerSet_canonical (k : CmdKey) {s : State} (h : Canonical s) : Lands (execPowerSet k s) := by
  refine ⟨_, rfl, ?_⟩
  grind [Canonical, complete_canonical, runCmd_canonical, setPowerConfig_canonical]

@[simp] theorem execPartPowerGet_canonical (k : CmdKey) {s : State} (h : Canonical s) : Lands (execPartPowerGet k s) := by
  refine ⟨_, rfl, ?_⟩
  grind [Canonical, complete_canonical, runCmd_canonical, withPart_canonical]

@[simp] theorem execPartPowerSet_canonical (k : CmdKey) {s : State} (h : Canonical s) : Lands (execPartPowerSet k s) := by
  refine ⟨_, rfl, ?_⟩
  grind [Canonical, complete_canonical, runCmd_canonical, setPart_mem, withPart_canonical]

@[simp] theorem execEnergyRead_canonical (k : CmdKey) {s : State} (h : Canonical s) :
    Lands (execEnergyRead k s) :=
  ⟨_, rfl, runCmd_canonical _ _ _ h fun c => giveData_canonical c 2 _ h⟩

@[simp] theorem execClockGet_canonical (k : CmdKey) {s : State} (h : Canonical s) :
    Lands (execClockGet k s) :=
  ⟨_, rfl, runCmd_canonical _ _ _ h fun c => giveData_canonical c 2 _ h⟩

@[simp] theorem execClockSet_canonical (k : CmdKey) {s : State} (h : Canonical s) : Lands (execClockSet k s) := by
  refine ⟨_, rfl, ?_⟩
  grind [Canonical, autoSwitch_mem, complete_canonical, runCmd_canonical]

@[simp] theorem execSpringSwitch_canonical (k : CmdKey) {s : State} (h : Canonical s) : Lands (execSpringSwitch k s) := by
  refine ⟨_, rfl, ?_⟩
  grind [Canonical, complete_canonical, markStarted_mem, requestSwitch_mem, runCmd_canonical]

@[simp] theorem execSetSeconds_canonical (k : CmdKey) {s : State} (h : Canonical s) : Lands (execSetSeconds k s) := by
  refine ⟨_, rfl, ?_⟩
  grind [Canonical, complete_canonical, runCmd_canonical]

@[simp] theorem execOcsalStatus_canonical (k : CmdKey) {s : State} (h : Canonical s) :
    Lands (execOcsalStatus k s) :=
  ⟨_, rfl, runCmd_canonical _ _ _ h fun c => giveData_canonical c 2 _ h⟩

@[simp] theorem beginTraining_mem (p : Fin 16) (s : State) : (beginTraining p s).mem = s.mem := rfl

@[simp] theorem startPort_mem (p : Fin 16) (s : State) : (startPort p s).mem = s.mem := by
  unfold startPort
  dsimp only
  repeat' split
  all_goals simp

@[simp] theorem execOcsalPortEnable_canonical (k : CmdKey) {s : State} (h : Canonical s) :
    Lands (execOcsalPortEnable k s) := by
  refine ⟨_, rfl, ?_⟩
  grind [Canonical, complete_canonical, runCmd_canonical, setPort_mem, startPort_mem]

@[simp] theorem execOcsalPortDisable_canonical (k : CmdKey) {s : State} (h : Canonical s) :
    Lands (execOcsalPortDisable k s) := by
  refine ⟨_, rfl, ?_⟩
  grind [Canonical, complete_canonical, portDark_canonical, runCmd_canonical, setPort_mem, waitUntil_mem]

@[simp] theorem execOcsalPortRetrain_canonical (k : CmdKey) {s : State} (h : Canonical s) :
    Lands (execOcsalPortRetrain k s) := by
  refine ⟨_, rfl, ?_⟩
  grind [Canonical, complete_canonical, runCmd_canonical, startPort_mem, toRetrain_canonical]

@[simp] theorem sendJoin_mem (s : State) : (sendJoin s).mem = s.mem := by
  unfold sendJoin
  split <;> rfl

@[simp] theorem serveManager_mem (s : State) : (serveManager s).mem = s.mem := rfl

@[simp] theorem execOcsalRole_canonical (k : CmdKey) {s : State} (h : Canonical s) : Lands (execOcsalRole k s) := by
  refine ⟨_, rfl, ?_⟩
  grind [Canonical, complete_canonical, runCmd_canonical, sendJoin_mem, serveManager_mem]

@[simp] theorem markHall_mem (p : Fin 64) (s : State) : (markHall p s).mem = s.mem := rfl

@[simp] theorem execHallBind_canonical (k : CmdKey) {s : State} (h : Canonical s) : Lands (execHallBind k s) := by
  refine ⟨_, rfl, ?_⟩
  grind [Canonical, complete_canonical, markHall_mem, runCmd_canonical, setPart_mem, withPart_canonical]

@[simp] theorem execHallUnbind_canonical (k : CmdKey) {s : State} (h : Canonical s) : Lands (execHallUnbind k s) := by
  refine ⟨_, rfl, ?_⟩
  grind [Canonical, complete_canonical, markHall_mem, runCmd_canonical, setPart_mem, withPart_canonical]

@[simp] theorem execFwWrite_canonical (k : CmdKey) {s : State} (h : Canonical s) : Lands (execFwWrite k s) := by
  refine ⟨_, rfl, runCmd_canonical _ _ _ h fun c => ?_⟩
  refine canonical_ite (complete_canonical _ _ _ h) ?_
  split
  · exact complete_canonical _ _ _ h
  · exact complete_canonical _ _ _ (h.of_mem rfl)

@[simp] theorem execFwCommit_canonical (k : CmdKey) {s : State} (h : Canonical s) : Lands (execFwCommit k s) := by
  refine ⟨_, rfl, ?_⟩
  grind [Canonical, complete_canonical, runCmd_canonical, setSlot_mem]

@[simp] theorem execFwStatus_canonical (k : CmdKey) {s : State} (h : Canonical s) : Lands (execFwStatus k s) := by
  refine ⟨_, rfl, ?_⟩
  grind [Canonical, complete_canonical, runCmd_canonical]

@[simp] theorem execLcTransition_canonical (k : CmdKey) {s : State} (h : Canonical s) : Lands (execLcTransition k s) := by
  refine ⟨_, rfl, runCmd_canonical _ _ _ h fun c => ?_⟩
  refine canonical_ite (complete_canonical _ _ _ h) ?_
  split
  · exact complete_canonical _ _ _ h
  · exact canonical_ite (complete_canonical _ _ _ h) (startCold_canonical ((complete_canonical _ _ _ h).of_mem rfl))

@[simp] theorem execLcStatus_canonical (k : CmdKey) {s : State} (h : Canonical s) : Lands (execLcStatus k s) := by
  refine ⟨_, rfl, ?_⟩
  grind [Canonical, complete_canonical, runCmd_canonical]

theorem numWords_canonical (b : NumBlock) (l : List Nat) (d : List Byte) {s : State} (h : Canonical s) :
    Canonical (numWords b l d s).2 := by
  induction l generalizing d s with
  | nil => exact h
  | cons e l ih =>
    unfold numWords
    grind [Canonical, takeFree_mem]

@[simp] theorem execNumGet_canonical (k : CmdKey) {s : State} (h : Canonical s) : Lands (execNumGet k s) := by
  have hd := reportsDue_canonical h
  exact ⟨_, rfl, runCmd_canonical _ _ _ h fun c => withPart_canonical _ hd fun _ _ => giveData_canonical c 2 _
      (numWords_canonical _ _ _ hd)⟩

@[simp] theorem execNumSet_canonical (k : CmdKey) {s : State} (h : Canonical s) : Lands (execNumSet k s) := by
  refine ⟨_, rfl, ?_⟩
  grind [Canonical, complete_canonical, runCmd_canonical, setNum_mem, withPart_canonical]

@[simp] theorem execNanClear_canonical (k : CmdKey) {s : State} (h : Canonical s) : Lands (execNanClear k s) := by
  refine ⟨_, rfl, ?_⟩
  grind [Canonical, complete_canonical, runCmd_canonical, setNum_mem, withPart_canonical]

@[simp] theorem execDryMapRead_canonical (k : CmdKey) {s : State} (h : Canonical s) :
    Lands (execDryMapRead k s) :=
  ⟨_, rfl, runCmd_canonical _ _ _ h fun c => giveData_canonical c 2 _ h⟩

@[simp] theorem execFenceUnit_canonical (k : CmdKey) {s : State} (h : Canonical s) : Lands (execFenceUnit k s) := by
  refine ⟨_, rfl, ?_⟩
  grind [Canonical, complete_canonical, fenceCluster_canonical, fenceCore_canonical, fencePort_canonical,
    fenceStack_canonical, fenceTile_canonical, laneFail_canonical, runCmd_canonical]

@[simp] theorem execRouterCounters_canonical (k : CmdKey) {s : State} (h : Canonical s) : Lands (execRouterCounters k s) := by
  refine ⟨_, rfl, ?_⟩
  grind [Canonical, complete_canonical, giveData_canonical, runCmd_canonical]

@[simp] theorem execFieldPowerRead_canonical (k : CmdKey) {s : State} (h : Canonical s) :
    Lands (execFieldPowerRead k s) :=
  ⟨_, rfl, runCmd_canonical _ _ _ h fun c => giveData_canonical c 2 _ h⟩

@[simp] theorem execMemErrorRead_canonical (k : CmdKey) {s : State} (h : Canonical s) :
    Lands (execMemErrorRead k s) :=
  ⟨_, rfl, runCmd_canonical _ _ _ h fun c => giveData_canonical c 2 _ h⟩

/-! ### The byte memories under the functions of Machine/Ocsal.lean -/

theorem dropOcsal_canonical (p : Fin 16) {s : State} (h : Canonical s) : Canonical (dropOcsal p s) := by
  unfold dropOcsal
  grind [Canonical, setPort_mem, wrapEvent_canonical]

theorem drainTransit_canonical {s : State} (h : Canonical s) : Canonical (drainTransit s) := by
  unfold drainTransit
  grind [Canonical, sendPkt_canonical, foldl_canonical]

theorem flitCounts_canonical (p : Fin 16) (f : Flit) (taken : Bool) {s : State} (h : Canonical s) :
    Canonical (flitCounts p f taken s) := by
  unfold flitCounts
  grind [Canonical, setPort_mem, wrapEvent_canonical]

theorem resend_canonical (p : Fin 16) {s : State} (h : Canonical s) : Canonical (resend p s) := by
  unfold resend
  grind [Canonical, setPort_mem, wrapEvent_canonical]

@[simp] theorem execFlitReceive_canonical (port : Fin 16) (f : Flit) {s : State} (h : Canonical s) :
    Lands (execFlitReceive port f s) := by
  refine ⟨_, rfl, ?_⟩
  grind [Canonical, drainTransit_canonical, flitCounts_canonical, resend_canonical, setPort_mem]

@[simp] theorem execOcsalLaneFail_canonical (port : Fin 16) (lane : Fin 9) (rate : Bool) {s : State} (h : Canonical s) :
    Lands (execOcsalLaneFail port lane rate s) := by
  refine ⟨_, rfl, ?_⟩
  grind [Canonical, portEvent_canonical, setPort_mem]

@[simp] theorem execOcsalSpareReady_canonical (port : Fin 16) {s : State} (h : Canonical s) :
    Lands (execOcsalSpareReady port s) := by
  refine ⟨_, rfl, ?_⟩
  grind [Canonical, portEvent_canonical, setPort_mem, waitUntil_mem]

@[simp] theorem execPortTrained_canonical (port : Fin 16) (peer : PeerId) {s : State} (h : Canonical s) :
    Lands (execPortTrained port peer s) := by
  refine ⟨_, rfl, ?_⟩
  grind [Canonical, setPort_mem, waitUntil_mem]

@[simp] theorem execPortTrainRetry_canonical (port : Fin 16) {s : State} (h : Canonical s) :
    Lands (execPortTrainRetry port s) := by
  refine ⟨_, rfl, ?_⟩
  grind [Canonical, portEvent_canonical, setPort_mem, waitUntil_mem]

@[simp] theorem setConn_mem (p : SpdmPeer) (r : SpdmRec) (s : State) : (setConn p r s).mem = s.mem := rfl

@[simp] theorem execPortSecured_canonical (port : Fin 16) (auth : PeerAuth) {s : State} (h : Canonical s) :
    Lands (execPortSecured port auth s) := by
  refine ⟨_, rfl, ?_⟩
  grind [Canonical, portEvent_canonical, portFail_canonical, sendJoin_mem, setConn_mem, setPort_mem, waitUntil_mem]

@[simp] theorem execPortRetrain_canonical (port : Fin 16) {s : State} (h : Canonical s) : Lands (execPortRetrain port s) := by
  refine ⟨_, rfl, ?_⟩
  grind [Canonical, toRetrain_canonical]

@[simp] theorem nextKey_mem (p : Fin 16) (s : State) : (nextKey p s).mem = s.mem := rfl

@[simp] theorem execPortRetrainDone_canonical (port : Fin 16) (ok : Bool) (lostLock : Bool) (peerAck : BitVec 24)
    {s : State} (h : Canonical s) :
    Lands (execPortRetrainDone port ok lostLock peerAck s) := by
  refine ⟨_, rfl, ?_⟩
  grind [Canonical, nextKey_mem, portFail_canonical, resend_canonical, setPort_mem, waitUntil_mem]

@[simp] theorem execKeyUpdate_canonical (port : Fin 16) {s : State} (h : Canonical s) : Lands (execKeyUpdate port s) := by
  refine ⟨_, rfl, ?_⟩
  grind [Canonical, nextKey_mem, setConn_mem]

@[simp] theorem execBypassChange_canonical (port : Fin 16) (own : Bool) {s : State} (h : Canonical s) :
    Lands (execBypassChange port own s) := by
  refine ⟨_, rfl, ?_⟩
  grind [Canonical, beginTraining_mem, portEvent_canonical, waitUntil_mem]

theorem remoteIn_canonical (port : Fin 16) (pkt : OcsalPkt) (k : ReqKind) {s : State} (h : Canonical s) :
    Canonical (remoteIn port pkt k s) := by
  unfold remoteIn
  grind [Canonical, countPort_mem, inject_canonical, replyOut_canonical]

theorem remoteReply_canonical (pkt : OcsalPkt) {s : State} (h : Canonical s) : Canonical (remoteReply pkt s) := by
  unfold remoteReply
  grind [Canonical, answer_canonical, setPort_mem, setXact_mem]

@[simp] theorem execOcsalPacketArrive_canonical (port : Fin 16) (pkt : OcsalPkt) {s : State} (h : Canonical s) :
    Lands (execOcsalPacketArrive port pkt s) := by
  refine ⟨_, rfl, ?_⟩
  grind [Canonical, drainTransit_canonical, dropOcsal_canonical, remoteIn_canonical, remoteReply_canonical]

/-! ### The byte memories under the functions of Machine/Hall.lean -/

theorem managerEvent_canonical (old : BitVec 8) (new : BitVec 8) {s : State} (h : Canonical s) :
    Canonical (managerEvent old new s) := by
  unfold managerEvent
  grind [Canonical, postTo_canonical]

@[simp] theorem execOcsalTideSend_canonical {s : State} (h : Canonical s) : Lands (execOcsalTideSend s) := by
  refine ⟨_, rfl, ?_⟩
  grind [Canonical, waitUntil_mem]

@[simp] theorem correctCopy_mem (v : Word) (s : State) : (correctCopy v s).mem = s.mem := rfl

@[simp] theorem execOcsalTide_canonical (port : Fin 16) (tide : Word) (correction : Word) (_rate : BitVec 32)
    (_manager : BitVec 8)
    {s : State} (h : Canonical s) :
    Lands (execOcsalTide port tide correction _rate _manager s) := by
  refine ⟨_, rfl, ?_⟩
  grind [Canonical, correctCopy_mem]

@[simp] theorem execTideHoldover_canonical {s : State} (h : Canonical s) : Lands (execTideHoldover s) := by
  refine ⟨_, rfl, ?_⟩
  grind [Canonical, waitUntil_mem]

@[simp] theorem execDelayReq_canonical (port : Fin 16) (rtt : Nat) (correction : Nat) {s : State} (h : Canonical s) :
    Lands (execDelayReq port rtt correction s) := by
  refine ⟨_, rfl, ?_⟩
  grind [Canonical, setPort_mem, waitUntil_mem]

theorem releaseHall_canonical {s : State} (h : Canonical s) : Canonical (releaseHall s) := by
  unfold releaseHall
  grind [Canonical, forceRelease_canonical, foldl_canonical]

theorem hallDeliver_canonical (p : Fin 64) (b : Fin 32) (gen : BitVec 16) (st : Byte) (l : Word) {s : State}
    (h : Canonical s) :
    Canonical (hallDeliver p b gen st l s) := by
  unfold hallDeliver
  grind [Canonical, sendReleases_canonical, setRoot_mem]

@[simp] theorem execHallBarrierRelease_canonical (p : Fin 64) (b : Fin 32) (gen : BitVec 16) (status : BitVec 8)
    (launch : BitVec 32)
    {s : State} (h : Canonical s) :
    Lands (execHallBarrierRelease p b gen status launch s) := by
  refine ⟨_, rfl, ?_⟩
  grind [Canonical, hallDeliver_canonical]

theorem hallRelease_canonical (b : Fin 32) (st : Byte) (l : Word) (e : BitVec 8 × Fin 64 × BitVec 16) {s : State}
    (h : Canonical s) :
    Canonical (hallRelease b st l s e) := by
  unfold hallRelease
  grind [Canonical, controlOut_mem, hallDeliver_canonical]

@[simp] theorem execHallBarrierArrive_canonical (mod : BitVec 8) (p : Fin 64) (b : Fin 32) (gen : BitVec 16) {s : State}
    (h : Canonical s) :
    Lands (execHallBarrierArrive mod p b gen s) := by
  refine ⟨_, rfl, ?_⟩
  grind [Canonical, hallRelease_canonical, foldl_canonical]

theorem dropLostHall_canonical {s : State} (h : Canonical s) : Canonical (dropLostHall s) := by
  unfold dropLostHall
  grind [Canonical, hallRelease_canonical, foldl_canonical]

@[simp] theorem sendHeartbeat_mem (s : State) : (sendHeartbeat s).mem = s.mem := by
  simp [sendHeartbeat]

theorem hearManager_canonical (r : Heartbeat) {s : State} (h : Canonical s) : Canonical (hearManager r s) := by
  unfold hearManager
  grind [Canonical, managerEvent_canonical, releaseHall_canonical]

@[simp] theorem execHeartbeat_canonical (rx : Option Heartbeat) {s : State} (h : Canonical s) :
    Lands (execHeartbeat rx s) := by
  refine ⟨_, rfl, ?_⟩
  grind [Canonical, hearManager_canonical, managerEvent_canonical, sendHeartbeat_mem, sendJoin_mem, waitUntil_mem]

@[simp] theorem takeOrigin_mem (s : State) : (takeOrigin s).mem = s.mem := rfl

@[simp] theorem takeRecord_mem (s : State) : (takeRecord s).mem = s.mem := rfl

theorem tryTakeover_canonical {s : State} (h : Canonical s) : Canonical (tryTakeover s) := by
  unfold tryTakeover
  grind [Canonical, managerEvent_canonical, releaseHall_canonical, sendHeartbeat_mem, takeOrigin_mem, takeRecord_mem]

@[simp] theorem execHeartbeatLoss_canonical {s : State} (h : Canonical s) : Lands (execHeartbeatLoss s) := by
  refine ⟨_, rfl, ?_⟩
  grind [Canonical, controlOut_mem, releaseHall_canonical, tryTakeover_canonical, waitUntil_mem, foldl_canonical]

@[simp] theorem execPoll_canonical (src : BitVec 8) (_lastSeen : Word) {s : State} (h : Canonical s) :
    Lands (execPoll src _lastSeen s) :=
  ⟨_, rfl, canonical_ite h (h.of_mem (controlOut_mem ..))⟩

@[simp] theorem execPollRsp_canonical (src : BitVec 8) (confirms : Bool) {s : State} (h : Canonical s) :
    Lands (execPollRsp src confirms s) := by
  refine ⟨_, rfl, ?_⟩
  grind [Canonical, tryTakeover_canonical]

@[simp] theorem execJoin_canonical (port : Fin 16) (serial : BitVec 128) (role : BitVec 2) {s : State} (h : Canonical s) :
    Lands (execJoin port serial role s) := by
  refine ⟨_, rfl, ?_⟩
  grind [Canonical]

@[simp] theorem execAssign_canonical (num : BitVec 8) (manager : BitVec 8) {s : State} (h : Canonical s) :
    Lands (execAssign num manager s) := by
  refine ⟨_, rfl, ?_⟩
  grind [Canonical, managerEvent_canonical]

/-! ### The byte memories under the functions of Machine/Spdm.lean -/

@[simp] theorem spdmOut_mem (peer : SpdmPeer) (code : Byte) (payload : List Byte) (s : State) :
    (spdmOut peer code payload s).mem = s.mem := rfl

@[simp] theorem spdmError_mem (peer : SpdmPeer) (e : Byte) (s : State) : (spdmError peer e s).mem = s.mem := rfl

theorem spdmServe_canonical (peer : SpdmPeer) {f : SpdmRec → State} {s : State} (h : Canonical s)
    (hf : ∀ r, Canonical (f r)) :
    Canonical (spdmServe peer s f) := by
  unfold spdmServe
  grind [Canonical, spdmError_mem]

theorem spdmSlot_canonical (peer : SpdmPeer) (slot : Fin 8) {f : SpdmRec → State} {s : State} (h : Canonical s)
    (hf : ∀ r, Canonical (f r)) :
    Canonical (spdmSlot peer slot s f) := by
  unfold spdmSlot
  grind [Canonical, spdmServe_canonical, spdmError_mem]

theorem spdmSession_canonical (peer : SpdmPeer) (session : BitVec 32) {f : SpdmRec → State} {s : State} (h : Canonical s)
    (hf : ∀ r, Canonical (f r)) :
    Canonical (spdmSession peer session s f) := by
  unfold spdmSession
  grind [Canonical, spdmServe_canonical, spdmError_mem]

@[simp] theorem execSpdmGetVersion_canonical (peer : SpdmPeer) {s : State} (h : Canonical s) :
    Lands (execSpdmGetVersion peer s) := by
  refine ⟨_, rfl, ?_⟩
  grind [Canonical, setConn_mem, spdmOut_mem]

@[simp] theorem execSpdmGetCapabilities_canonical (peer : SpdmPeer) {s : State} (h : Canonical s) :
    Lands (execSpdmGetCapabilities peer s) := by
  refine ⟨_, rfl, ?_⟩
  grind [Canonical, setConn_mem, spdmError_mem, spdmOut_mem]

@[simp] theorem execSpdmNegotiateAlgorithms_canonical (peer : SpdmPeer) (offersSuite : Bool) {s : State} (h : Canonical s) :
    Lands (execSpdmNegotiateAlgorithms peer offersSuite s) := by
  refine ⟨_, rfl, ?_⟩
  grind [Canonical, setConn_mem, spdmError_mem, spdmOut_mem]

@[simp] theorem execSpdmGetDigests_canonical (peer : SpdmPeer) (slot : Fin 8) {s : State} (h : Canonical s) :
    Lands (execSpdmGetDigests peer slot s) := by
  refine ⟨_, rfl, ?_⟩
  grind [Canonical, spdmOut_mem, spdmSlot_canonical]

@[simp] theorem execSpdmGetCertificate_canonical (peer : SpdmPeer) (slot : Fin 8) (off : Nat) (len : Nat) {s : State}
    (h : Canonical s) :
    Lands (execSpdmGetCertificate peer slot off len s) := by
  refine ⟨_, rfl, ?_⟩
  grind [Canonical, spdmError_mem, spdmOut_mem, spdmSlot_canonical]

@[simp] theorem execSpdmChallenge_canonical (peer : SpdmPeer) (slot : Fin 8) (nonce : BitVec 256) {s : State}
    (h : Canonical s) :
    Lands (execSpdmChallenge peer slot nonce s) := by
  refine ⟨_, rfl, ?_⟩
  grind [Canonical, spdmOut_mem, spdmSlot_canonical]

@[simp] theorem execSpdmGetMeasurements_canonical (peer : SpdmPeer) (index : Byte) {s : State} (h : Canonical s) :
    Lands (execSpdmGetMeasurements peer index s) := by
  refine ⟨_, rfl, ?_⟩
  grind [Canonical, spdmError_mem, spdmOut_mem, spdmServe_canonical]

@[simp] theorem execSpdmKeyExchange_canonical (peer : SpdmPeer) (slot : Fin 8) (session : BitVec 32) (share : BitVec 768)
    {s : State} (h : Canonical s) :
    Lands (execSpdmKeyExchange peer slot session share s) := by
  refine ⟨_, rfl, ?_⟩
  grind [Canonical, setConn_mem, spdmError_mem, spdmOut_mem, spdmSlot_canonical]

@[simp] theorem execSpdmFinish_canonical (peer : SpdmPeer) (session : BitVec 32) (proofOk : Bool) {s : State}
    (h : Canonical s) :
    Lands (execSpdmFinish peer session proofOk s) := by
  refine ⟨_, rfl, ?_⟩
  grind [Canonical, setConn_mem, spdmError_mem, spdmOut_mem, spdmServe_canonical]

@[simp] theorem execSpdmHeartbeat_canonical (peer : SpdmPeer) (session : BitVec 32) {s : State} (h : Canonical s) :
    Lands (execSpdmHeartbeat peer session s) := by
  refine ⟨_, rfl, ?_⟩
  grind [Canonical, spdmOut_mem, spdmSession_canonical]

@[simp] theorem execSpdmKeyUpdate_canonical (peer : SpdmPeer) (session : BitVec 32) {s : State} (h : Canonical s) :
    Lands (execSpdmKeyUpdate peer session s) := by
  refine ⟨_, rfl, ?_⟩
  grind [Canonical, setConn_mem, spdmOut_mem, spdmSession_canonical]

@[simp] theorem execSpdmEndSession_canonical (peer : SpdmPeer) (session : BitVec 32) {s : State} (h : Canonical s) :
    Lands (execSpdmEndSession peer session s) := by
  refine ⟨_, rfl, ?_⟩
  grind [Canonical, setConn_mem, spdmOut_mem, spdmSession_canonical]

@[simp] theorem execIdeKeyManagement_canonical (port : Fin 2) (session : BitVec 32) (mem : Bool) (stream : Fin 5)
    (key : BitVec 256)
    {s : State} (h : Canonical s) :
    Lands (execIdeKeyManagement port session mem stream key s) := by
  refine ⟨_, rfl, ?_⟩
  grind [Canonical, spdmOut_mem, spdmSession_canonical, updCxl_mem]

/-! ### The byte memories under the functions of Machine/Mgmt.lean -/

@[simp] theorem execI3cRequest_canonical (sensor : Fin 8) {s : State} (h : Canonical s) :
    Lands (execI3cRequest sensor s) := by
  refine ⟨_, rfl, ?_⟩
  grind [Canonical]

@[simp] theorem mgmtOut_mem (st : Byte) (d : List Byte) (s : State) : (mgmtOut st d s).mem = s.mem := rfl

theorem mgmtColdBringup_canonical {s : State} (h : Canonical s) : Canonical (mgmtColdBringup s) := by
  unfold mgmtColdBringup
  grind [Canonical, mgmtOut_mem, startCold_canonical]

@[simp] theorem execManagementRequest_canonical (r : MgmtReq) {s : State} (h : Canonical s) :
    Lands (execManagementRequest r s) := by
  refine ⟨_, rfl, ?_⟩
  grind [Canonical, mgmtColdBringup_canonical, mgmtOut_mem, setPowerConfig_canonical]

@[simp] theorem execTestAccess_canonical (i : TestInstr) {s : State} (h : Canonical s) : Lands (execTestAccess i s) := by
  refine ⟨_, rfl, ?_⟩
  grind [Canonical]

/-! ### The byte memories under the functions of Machine/Tick.lean -/

theorem upset_canonical {s : State} (h : Canonical s) : Canonical (upset s) := by
  unfold upset
  grind [Canonical, MemState.Canonical]

theorem hostTurns_canonical {s : State} (h : Canonical s) : Canonical (hostTurns s) := by
  unfold hostTurns
  grind [Canonical, MemState.Canonical]

theorem postHeld_canonical {s : State} (h : Canonical s) : Canonical (postHeld s) := by
  unfold postHeld
  grind [Canonical, postHeldEcc_canonical, postHeldUnderflow_canonical, foldl_canonical]

theorem tick_canonical {s : State} (h : Canonical s) : Canonical (tick s) := by
  unfold tick
  grind [Canonical, drainTransit_canonical, dropLostHall_canonical, hostTurns_canonical, postHeld_canonical,
    reportsDue_canonical, settle_canonical, upset_canonical, waitUntil_mem]

/-! ### Every step -/

theorem exec_canonical (i : Instr) {s : State} (h : Canonical s) : Lands (exec i s) := by
  cases i <;> simp [exec, h]

theorem step_canonical {s : State} (h : Canonical s) : Lands (step s) := by
  cases hp : s.pending with
  | nil => exact ⟨tick s, step_nil hp, tick_canonical h⟩
  | cons c rest => exact step_cons hp ▸ exec_canonical c (h.of_mem rfl)

/-- Settles O3: every function of the model keeps the canonical form, so every instruction does, and the tick. -/
theorem stepKeepsMemoryCanonical : Obligations.StepKeepsMemoryCanonical := by
  intro s t h e
  obtain ⟨u, hu, hc⟩ := step_canonical (canonical_iff.2 h)
  exact canonical_iff.1 (Host.Outcome.next.inj (e.symm.trans hu) ▸ hc)

end Sys2Proof.Machine
end

section
/-! PROOFS. Queue registers, fetched commands and their completions (R352-R356, R358). -/
namespace Sys2Proof.Machine
open Sys2Proof

/-! ### Doorbells (R353, R354) -/

/-- What a doorbell leads to: the state itself, the pair in ERROR, or the doorbell taken. -/
def doorbell (on : Bool) (q : QState) (size n : Nat) (s bad good : State) : State :=
  if !on || q != .running then s else if 2 ^ size ≤ n then bad else good

section
variable {on : Bool} {q : QState} {size n : Nat} {s bad good : State}

theorem doorbell_good (hon : on = true) (hq : q = .running) (h : n < 2 ^ size) : doorbell on q size n s bad good = good := by
  simp [doorbell, hon, hq, Nat.not_le.2 h]

theorem doorbell_bad (hon : on = true) (hq : q = .running) (h : 2 ^ size ≤ n) : doorbell on q size n s bad good = bad := by
  simp [doorbell, hon, hq, h]

theorem doorbell_off (h : on = false ∨ q ≠ .running) : doorbell on q size n s bad good = s := if_pos (by simpa using h)

end

section
variable (s : State) (f : FnId) (q : Fin 4) (v : Word)

theorem exec_sqTail :
    let r := (fnRec s f).qs[q]
    exec (.sqTail f q v) s = .next (doorbell (fnOn s f) r.state r.sqSize (fld v.toNat 0 12) s
      (setQ f q { r with state := .error, err := 0x03 } s) (setQ f q { r with sqTail := fld v.toNat 0 12 } s)) := rfl

theorem exec_cpqHead :
    let r := (fnRec s f).qs[q]
    exec (.cpqHead f q v) s = .next (doorbell (fnOn s f) r.state r.cpqSize (fld v.toNat 0 12) s
      (setQ f q { r with state := .error, err := 0x03 } s) (setQ f q { r with cpqHead := fld v.toNat 0 12 } s)) := rfl

theorem exec_eqHead :
    let r := fnRec s f
    exec (.eqHead f v) s = .next (doorbell (fnOn s f) r.state r.size (fld v.toNat 0 12) s
      (setFn f { r with state := .error, err := 0x03 } s) (setFn f { r with head := fld v.toNat 0 12 } s)) := rfl

/-! ### Enables (R352, R353) -/

theorem exec_queueEnable_off (h : fnOn s f = false) (sel : QSel) : exec (.queueEnable f sel v) s = .next s :=
  congrArg Host.Outcome.next (if_pos (by simp [h]))

theorem exec_queueDisable_off (h : fnOn s f = false) (sel : QSel) : exec (.queueDisable f sel v) s = .next s :=
  congrArg Host.Outcome.next (if_pos (by simp [h]))

theorem exec_queueEnable_pair (h : fnOn s f = true) :
    exec (.queueEnable f (.pair q) v) s = .next (setQ f q (((fnRec s f).qs[q]).config v.toNat).start s) :=
  congrArg Host.Outcome.next (if_neg (by simp [h]))

theorem exec_queueEnable_events (h : fnOn s f = true) :
    exec (.queueEnable f .events v) s = .next (setFn f ((fnRec s f).config v.toNat).start s) :=
  congrArg Host.Outcome.next (if_neg (by simp [h]))

theorem exec_queueDisable_pair (h : fnOn s f = true) :
    exec (.queueDisable f (.pair q) v) s = .next (unhear (fun k => k.fn == f && k.q == q)
      (setQ f q { ((fnRec s f).qs[q]).config v.toNat with enable := false, state := .disabled, unsig := 0 } s)) :=
  congrArg Host.Outcome.next (if_neg (by simp [h]))

theorem exec_queueDisable_events (h : fnOn s f = true) :
    exec (.queueDisable f .events v) s =
      .next (setFn f { (fnRec s f).config v.toNat with enable := false, state := .disabled, unsig := 0 } s) :=
  congrArg Host.Outcome.next (if_neg (by simp [h]))

end

theorem sizeIn_iff {lo v : Nat} : sizeIn lo v = true ↔ lo ≤ v ∧ v ≤ 12 := by simp [sizeIn]

/-- A pair that was disabled starts empty, in the state that its bases and sizes allow. -/
theorem qRec_start (r : QRec) (h : r.enable = false) :
    let u := r.start
    let good : Prop := r.sqBase.toNat % 4096 = 0 ∧ r.cpqBase.toNat % 4096 = 0 ∧ 1 ≤ r.sqSize ∧ r.sqSize ≤ 12 ∧
      1 ≤ r.cpqSize ∧ r.cpqSize ≤ 12
    u.enable = true ∧ u.sqHead = 0 ∧ u.sqTail = 0 ∧ u.cpqHead = 0 ∧ u.cpqTail = 0 ∧ u.phase = true ∧ u.sqSize = r.sqSize ∧
      u.cpqSize = r.cpqSize ∧ (good → u.state = .running ∧ u.err = 0x00) ∧ (¬ good → u.state = .error ∧ u.err = 0x03) := by
  have hgood : (r.sqBase.toNat % 4096 == 0 && r.cpqBase.toNat % 4096 == 0 && sizeIn 1 r.sqSize && sizeIn 1 r.cpqSize) = true ↔
      r.sqBase.toNat % 4096 = 0 ∧ r.cpqBase.toNat % 4096 = 0 ∧ 1 ≤ r.sqSize ∧ r.sqSize ≤ 12 ∧ 1 ≤ r.cpqSize ∧ r.cpqSize ≤ 12 := by
    simp only [Bool.and_eq_true, beq_iff_eq, sizeIn_iff, and_assoc]
  simp only [QRec.start, h, Bool.false_eq_true, if_false, true_and]
  exact ⟨fun g => ⟨if_pos (hgood.2 g), if_pos (hgood.2 g)⟩,
    fun g => ⟨if_neg (mt hgood.1 g), if_neg (mt hgood.1 g)⟩⟩

/-- So does an event queue. -/
theorem fnRec_start (r : FnRec) (h : r.enable = false) :
    let u := r.start
    let good : Prop := r.eqBase.toNat % 4096 = 0 ∧ 4 ≤ r.size ∧ r.size ≤ 12
    u.enable = true ∧ u.head = 0 ∧ u.tail = 0 ∧ u.lost = 0 ∧ u.phase = true ∧ u.qs = r.qs ∧
      (good → u.state = .running ∧ u.err = 0x00) ∧ (¬ good → u.state = .error ∧ u.err = 0x03) := by
  have hgood : (r.eqBase.toNat % 4096 == 0 && sizeIn 4 r.size) = true ↔
      r.eqBase.toNat % 4096 = 0 ∧ 4 ≤ r.size ∧ r.size ≤ 12 := by
    simp only [Bool.and_eq_true, beq_iff_eq, sizeIn_iff]
  simp only [FnRec.start, h, Bool.false_eq_true, if_false, true_and]
  exact ⟨fun g => ⟨if_pos (hgood.2 g), if_pos (hgood.2 g)⟩,
    fun g => ⟨if_neg (mt hgood.1 g), if_neg (mt hgood.1 g)⟩⟩

/-- Settles O37: each doorbell is `doorbell`, and an enable or disable writes the record that `config` and `start` make. -/
theorem queueRegisters : Obligations.QueueRegisters := by
  unfold Obligations.QueueRegisters
  refine ⟨fun s f q v => ⟨?_, ?_, ?_, ?_, ?_, ?_, fun h => ⟨?_, ?_⟩, fun h => ?_⟩,
    fun s f sel v h => ⟨exec_queueEnable_off s f v h sel, exec_queueDisable_off s f v h sel⟩,
    fun s f q v h => ⟨exec_queueEnable_pair s f q v h, exec_queueEnable_events s f v h, exec_queueDisable_pair s f q v h,
      exec_queueDisable_events s f v h⟩,
    fun r n => ⟨rfl, rfl, rfl, rfl, rfl, rfl, rfl, rfl, rfl⟩, fun r => ⟨fun h => if_pos h, qRec_start r⟩,
    fun r n => ⟨rfl, rfl, rfl, rfl, rfl, rfl, rfl⟩, fun r => ⟨fun h => if_pos h, fnRec_start r⟩,
    fun s hit c hc hh => unhear_live hc hh⟩
  · intro hon hq h
    rw [exec_sqTail, doorbell_good hon hq h]
  · intro hon hq h
    rw [exec_sqTail, doorbell_bad hon hq h]
  · intro hon hq h
    rw [exec_cpqHead, doorbell_good hon hq h]
  · intro hon hq h
    rw [exec_cpqHead, doorbell_bad hon hq h]
  · intro hon hq h
    rw [exec_eqHead, doorbell_good hon hq h]
  · intro hon hq h
    rw [exec_eqHead, doorbell_bad hon hq h]
  · rw [exec_sqTail, doorbell_off h]
  · rw [exec_cpqHead, doorbell_off h]
  · rw [exec_eqHead, doorbell_off h]


/-! ### The fetch of a command (R354, R355) -/

section
variable {s : State} {f : FnId} {q : Fin 4}

/-- The pair has a command to fetch and room for every completion that it owes. -/
abbrev MayFetch (s : State) (f : FnId) (q : Fin 4) : Prop :=
  let r := (fnRec s f).qs[q]
  fnOn s f = true ∧ r.state = .running ∧ r.sqHead ≠ r.sqTail ∧
    (r.cpqTail + 2 ^ r.cpqSize - r.cpqHead) % 2 ^ r.cpqSize + (fetched s f q).length + 1 ≤ 2 ^ r.cpqSize - 1

theorem exec_commandFetch_not (h : ¬ MayFetch s f q) : exec (.commandFetch f q) s = .next s := by
  change execCommandFetch f q s = _
  unfold execCommandFetch
  refine congrArg Host.Outcome.next ?_
  by_cases hq : (!fnOn s f || (fnRec s f).qs[q].state != .running || (fnRec s f).qs[q].sqHead == (fnRec s f).qs[q].sqTail) = true
  · exact if_pos hq
  · refine (if_neg hq).trans (if_pos ?_)
    by_contra hroom
    simp only [Bool.or_eq_true, Bool.not_eq_true', bne_iff_ne, beq_iff_eq, not_or, Bool.not_eq_false, ne_eq, not_not] at hq
    exact h ⟨hq.1.1, hq.1.2, hq.2, Nat.not_lt.1 hroom⟩

/-- A fetch that may be made depends on its read of host memory alone. -/
theorem exec_commandFetch (h : MayFetch s f q) :
    let r := (fnRec s f).qs[q]
    let a := r.sqBase.toNat + 64 * r.sqHead
    let raw := BitVec.ofNat 512 (leNat (readBytes s.mem.host a 64))
    let u := setQ f q { r with sqHead := (r.sqHead + 1) % 2 ^ r.sqSize } s
    let c : Cmd := { key := ⟨f, q, cmdTag raw⟩, raw := raw, serial := u.host.nextSerial, live := true, started := false, done := none }
    exec (.commandFetch f q) s = .next (
      if hostStatus s a 64 ≠ 0x00 then setQ f q { r with state := .error, err := hostStatus s a 64 } s
      else flushUnknown { u with host := { u.host with cmds := u.host.cmds ++ [c], nextSerial := u.host.nextSerial + 1 } }) := by
  obtain ⟨hon, hrun, hsome, hroom⟩ := h
  refine congrArg Host.Outcome.next ((if_neg ?_).trans (if_neg (Nat.not_lt.2 hroom)))
  simpa [hon] using ⟨hrun, hsome⟩

end

/-! ### Delayed interrupts (R358) -/

section
variable (s : State) (f : FnId)

theorem exec_irqDelayExpire_pair (q : Fin 4) :
    let p := (fnRec s f).qs[q]
    exec (.irqDelayExpire f (.pair q)) s = .next (
      if p.unsig = 0 || !p.irqEn || p.state != .running then s
      else sendMsix f p.vector (setQ f q { p with unsig := 0 } (waitUntil s (p.unsigAt + usec p.irqDelay)))) := rfl

theorem exec_irqDelayExpire_events :
    let r := fnRec s f
    exec (.irqDelayExpire f .events) s = .next (
      if r.unsig = 0 || !r.irqEn || r.state != .running then s
      else sendMsix f r.vector (setFn f { r with unsig := 0 } (waitUntil s (r.unsigAt + usec r.irqDelay)))) := rfl

end

/-- An interrupt is not due where nothing is unsignalled, it is not enabled or the queue does not run. -/
theorem irqDue_iff {n : Nat} {en : Bool} {q : QState} :
    ¬ (decide (n = 0) || !en || q != .running) = true ↔ n ≠ 0 ∧ en = true ∧ q = .running := by
  simp [and_assoc]

/-! ### Completions (R356, R358) -/

section
variable {s : State} {c : Cmd} (st : Byte) (res : List Byte)

theorem writeCompletion_unseen (h : c.live = false ∨ (fnRec s c.key.fn).qs[c.key.q].state ≠ .running) :
    writeCompletion c st res s = s := if_pos (by simpa using h)

/-- The pair's record once a completion stands at CPQ_TAIL. -/
def completed (r : QRec) (now : Nat) : QRec :=
  { r with cpqTail := (r.cpqTail + 1) % 2 ^ r.cpqSize, phase := if (r.cpqTail + 1) % 2 ^ r.cpqSize = 0 then !r.phase else r.phase,
           unsig := r.unsig + 1, unsigAt := if r.unsig = 0 then now else r.unsigAt }

theorem writeCompletion_seen (hl : c.live = true) (hr : (fnRec s c.key.fn).qs[c.key.q].state = .running) :
    let f := c.key.fn
    let r := (fnRec s f).qs[c.key.q]
    let a := r.cpqBase.toNat + 32 * r.cpqTail
    let u := hostWrite a (cpqBytes c st r.phase r.sqHead res) s
    let p := completed r s.t.now
    writeCompletion c st res s =
      if hostStatus s a 32 ≠ 0x00 then setQ f c.key.q { r with state := .error, err := hostStatus s a 32 } s
      else if p.irqEn && (decide (max 1 p.irqCount ≤ p.unsig) || p.irqDelay == 0) then
        sendMsix f p.vector (setQ f c.key.q { p with unsig := 0 } u)
      else setQ f c.key.q p u := if_neg (by simpa [hl] using hr)

end

/-- A completion is signalled at the count, or at once where there is no delay. -/
theorem irqNow_iff {p : QRec} : (p.irqEn && (decide (max 1 p.irqCount ≤ p.unsig) || p.irqDelay == 0)) = true ↔
    p.irqEn = true ∧ (max 1 p.irqCount ≤ p.unsig ∨ p.irqDelay = 0) := by
  simp only [Bool.and_eq_true, Bool.or_eq_true, decide_eq_true_eq, beq_iff_eq]

/-- The bytes of a completion, one by one (R356). -/
theorem cpqBytes_eq (c : Cmd) (st : Byte) (phase : Bool) (head : Nat) (res : List Byte) :
    let n := c.key.tag.toNat + st.toNat * 2 ^ 16 + b2n phase * 2 ^ 24
    let m := head + c.key.q.val * 2 ^ 12
    cpqBytes c st phase head res =
      .ofNat 8 n :: .ofNat 8 (n / 256) :: .ofNat 8 (n / 256 / 256) :: .ofNat 8 (n / 256 / 256 / 256) ::
      .ofNat 8 m :: .ofNat 8 (m / 256) :: .ofNat 8 (m / 256 / 256) :: .ofNat 8 (m / 256 / 256 / 256) ::
      (res ++ List.replicate 24 0).take 24 := rfl

theorem cpqBytes_fields (c : Cmd) (st : Byte) (phase : Bool) (head : Nat) (res : List Byte) (hres : res.length ≤ 24)
    (hhead : head < 4096) :
    let b := cpqBytes c st phase head res
    b.length = 32 ∧ leNat (b.take 2) = c.key.tag.toNat ∧ b[2]? = some st ∧ leNat ((b.drop 3).take 1) = b2n phase ∧
      leNat ((b.drop 4).take 4) = head + c.key.q.val * 4096 ∧ (b.drop 8).take res.length = res := by
  have htag := c.key.tag.isLt
  have hst := st.isLt
  have hph : b2n phase ≤ 1 := by cases phase <;> decide
  have hq := c.key.q.isLt
  rw [cpqBytes_eq]
  refine ⟨?_, ?_, ?_, ?_, ?_, ?_⟩
  · simp
  · simp only [List.take_succ_cons, List.take_zero, leNat, BitVec.toNat_ofNat]
    omega
  · refine congrArg some (BitVec.eq_of_toNat_eq ?_)
    rw [BitVec.toNat_ofNat]
    omega
  · simp only [List.drop_succ_cons, List.drop_zero, List.take_succ_cons, List.take_zero, leNat, BitVec.toNat_ofNat]
    omega
  · simp only [List.drop_succ_cons, List.drop_zero, List.take_succ_cons, List.take_zero, leNat, BitVec.toNat_ofNat]
    omega
  · simp [List.take_take, hres]

/-- Settles O38: by the host's read for a fetch, by what is unsignalled for an interrupt, and by the host's write for a
completion, whose bytes are counted out. -/
theorem commandsAndCompletions : Obligations.CommandsAndCompletions := by
  unfold Obligations.CommandsAndCompletions
  refine ⟨fun s f q => ⟨exec_commandFetch_not, fun h hst => ?_, fun h hst => ?_⟩, fun s f q => ⟨fun h => ?_, fun h => ?_⟩,
    fun s f => ⟨fun h => ?_, fun h => ?_⟩,
    fun s c st res => ⟨writeCompletion_unseen st res, fun hl hr => ⟨fun hbad => ?_, fun hok hnow => ?_, fun hok hnow => ?_⟩⟩,
    cpqBytes_fields⟩
  · exact (exec_commandFetch h).trans (congrArg Host.Outcome.next (if_pos hst))
  · exact (exec_commandFetch h).trans (congrArg Host.Outcome.next (if_neg (not_not.2 hst)))
  · exact (exec_irqDelayExpire_pair s f q).trans (congrArg Host.Outcome.next (if_neg (irqDue_iff.2 h)))
  · exact (exec_irqDelayExpire_pair s f q).trans (congrArg Host.Outcome.next (if_pos (not_not.1 (mt irqDue_iff.1 h))))
  · exact (exec_irqDelayExpire_events s f).trans (congrArg Host.Outcome.next (if_neg (irqDue_iff.2 h)))
  · exact (exec_irqDelayExpire_events s f).trans (congrArg Host.Outcome.next (if_pos (not_not.1 (mt irqDue_iff.1 h))))
  · exact (writeCompletion_seen st res hl hr).trans (if_pos hbad)
  · exact (writeCompletion_seen st res hl hr).trans ((if_neg (not_not.2 hok)).trans (if_pos (irqNow_iff.2 hnow)))
  · exact (writeCompletion_seen st res hl hr).trans ((if_neg (not_not.2 hok)).trans (if_neg (mt irqNow_iff.1 hnow)))

end Sys2Proof.Machine
end


section
/-! PROOFS. Commands that set Ocsal ports, the module's role and its hall bindings (R413, R414, R425, R430, R431). -/
namespace Sys2Proof.Machine
open Sys2Proof

section
variable {s : State} {k : CmdKey} {c : Cmd}

/-! ### Ports (R413, R414, R417, R474) -/

theorem exec_ocsalPortEnable (h : Runs s k 0x0802 c) (ho : portOp c.raw = 1) :
    let p := portParam c
    let u := setPort p { portRec s p with enabled := true } s
    exec (.ocsalPortEnable k) s = .next (
      if portDry s p then complete k 0x09 [] s
      else if (pairOf p).isSome && decide (4 ≤ s.pwr.slotId.val) then complete k 0x04 [] s
      else complete k 0x00 [] (if (portRec s p).state.on then u else startPort p u)) :=
  congrArg Host.Outcome.next (runCmd_runs h (by simp [ho]) _)

theorem exec_ocsalPortDisable (h : Runs s k 0x0802 c) (ho : portOp c.raw = 0 ∨ portOp c.raw = 3) :
    let p := portParam c
    let r := portRec s p
    let w := setPort p { r with enabled := false } s
    exec (.ocsalPortDisable k) s = .next (
      if portOp c.raw = 3 then complete k 0x03 [] s
      else if portDry s p then complete k 0x09 [] s
      else complete k 0x00 [] (portDark p 2 (
        if r.state.on && r.acked != r.txSeq then waitUntil w (w.t.now + usec 100) else w))) :=
  congrArg Host.Outcome.next (runCmd_runs h (by simpa using ho) _)

theorem exec_ocsalPortRetrain (h : Runs s k 0x0802 c) (ho : portOp c.raw = 2) :
    let p := portParam c
    let r := portRec s p
    exec (.ocsalPortRetrain k) s = .next (
      if portDry s p then complete k 0x09 [] s
      else complete k 0x00 [] (if r.state = .up then toRetrain p s else if r.state = .failed then startPort p s else s)) :=
  congrArg Host.Outcome.next (runCmd_runs h (by simp [ho]) _)

/-- A port of no pair, or of a module in slots 0 to 3, may be enabled. -/
theorem slotFits_iff {p : Fin 16} : ¬ ((pairOf p).isSome && decide (4 ≤ s.pwr.slotId.val)) = true ↔
    pairOf p = none ∨ s.pwr.slotId.val < 4 := by
  cases pairOf p <;> simp

/-! ### The role (R430, R431) -/

/-- The module takes a role that it did not have. -/
def takeRole (r : Role) (s : State) : State :=
  let u : State := { s with fab := { s.fab with role := r, upstream := none } }
  match r with
  | .standalone =>
    { u with fab := { u.fab with num := none, manager := 0xFF, standby := 0xFF, mask := 0, joining := false }
             pwr := { u.pwr with share := 0, shares := [], waiting := [], excess := 0 } }
  | .manager => if s.pwr.chassisCap = 0 then { serveManager u with pwr := { s.pwr with share := 0 } } else serveManager u
  | _ => if s.fab.num.isNone || s.fab.manager == 0xFF then sendJoin u else u

theorem exec_ocsalRole (h : Runs s k 0x0803 c) :
    let r := roleOf (fld (cmdD c.raw 2) 0 2)
    exec (.ocsalRole k) s = .next (
      if anyHall s then complete k 0x04 [] s else if s.fab.poll.isSome then complete k 0x01 [] s
      else if r = s.fab.role then complete k 0x00 [] s else complete k 0x00 [] (takeRole r s)) :=
  congrArg Host.Outcome.next (runCmd_any h _)

section
variable (h : Runs s k 0x0803 c) (hall : anyHall s = false)
include h hall

theorem exec_ocsalRole_polled (hp : s.fab.poll.isSome = true) : exec (.ocsalRole k) s = .next (complete k 0x01 [] s) := by
  rw [exec_ocsalRole h, if_neg (ne_true_of_eq_false hall), if_pos hp]

theorem exec_ocsalRole_same (hp : s.fab.poll = none) (hr : roleOf (fld (cmdD c.raw 2) 0 2) = s.fab.role) :
    exec (.ocsalRole k) s = .next (complete k 0x00 [] s) := by
  rw [exec_ocsalRole h, if_neg (ne_true_of_eq_false hall), if_neg (by simp [hp]), if_pos hr]

theorem exec_ocsalRole_other (hp : s.fab.poll = none) (hr : roleOf (fld (cmdD c.raw 2) 0 2) ≠ s.fab.role) :
    exec (.ocsalRole k) s = .next (complete k 0x00 [] (takeRole (roleOf (fld (cmdD c.raw 2) 0 2)) s)) := by
  rw [exec_ocsalRole h, if_neg (ne_true_of_eq_false hall), if_neg (by simp [hp]), if_neg hr]

end

theorem takeRole_join {r : Role} (hr : r = .worker ∨ r = .standby) (hj : s.fab.num = none ∨ s.fab.manager = 0xFF) :
    takeRole r s = sendJoin { s with fab := { s.fab with role := r, upstream := none } } := by
  rcases hr with rfl | rfl <;> exact if_pos (by simpa using hj)

theorem takeRole_joined {r : Role} (hr : r = .worker ∨ r = .standby) (hn : s.fab.num.isSome = true) (hm : s.fab.manager ≠ 0xFF) :
    takeRole r s = { s with fab := { s.fab with role := r, upstream := none } } := by
  have hj : ¬ (s.fab.num.isNone || s.fab.manager == 0xFF) = true := by simpa [Option.isSome_iff_ne_none.1 hn] using hm
  rcases hr with rfl | rfl <;> exact if_neg hj

theorem takeRole_manager_capped (hc : s.pwr.chassisCap ≠ 0) :
    takeRole .manager s = serveManager { s with fab := { s.fab with role := .manager, upstream := none } } := if_neg hc

theorem takeRole_manager_uncapped (hc : s.pwr.chassisCap = 0) :
    takeRole .manager s =
      { serveManager { s with fab := { s.fab with role := .manager, upstream := none } } with pwr := { s.pwr with share := 0 } } :=
  if_pos hc

/-! ### Hall bindings (R425) -/

variable {p : Fin 64} {r : PartRec}

/-- Bindings of all partitions. -/
def allHalls (s : State) : Nat := (s.part.parts.map fun e => (e.2.elim 0 fun q => q.hall.length)).sum

theorem exec_hallBind (h : RunsIn s k 0x0804 c p r) (hu : hallUndo c.raw = false) :
    let m := hallParam c
    exec (.hallBind k) s = .next (
      if m.1 = 0xFF then complete k 0x03 [] s
      else if s.fab.num.isNone then complete k 0x04 [] s
      else if some m.1 = s.fab.num ∨ !moduleAssigned s m.1 then complete k 0x03 [] s
      else if r.hall.contains m then complete k 0x00 [] s
      else if r.hall.any fun e => e.1 == m.1 then complete k 0x04 [] s
      else if 64 ≤ r.hall.length ∨ 1024 ≤ allHalls s then complete k 0x07 [] s
      else complete k 0x00 [] (markHall p (setPart p (some { r with hall := r.hall ++ [m] }) s))) := by
  have hall : allHalls s = (s.part.parts.map fun e => (match e.2 with | some q => q.hall.length | none => 0)).sum :=
    congrArg List.sum (List.map_congr_left fun e _ => by cases e.2 <;> rfl)
  rw [hall]
  exact congrArg Host.Outcome.next (runCmd_runsIn h (by simp [hu]) _)

theorem exec_hallUnbind (h : RunsIn s k 0x0804 c p r) (hu : hallUndo c.raw = true) :
    exec (.hallUnbind k) s =
      .next (complete k 0x00 [] (markHall p (setPart p (some { r with hall := r.hall.filter (· != hallParam c) }) s))) :=
  congrArg Host.Outcome.next (runCmd_runsIn h hu _)

/-- A binding to another module that is assigned is refused only by the bindings that are there. -/
theorem exec_hallBind_other (h : RunsIn s k 0x0804 c p r) (hu : hallUndo c.raw = false) (hm : (hallParam c).1 ≠ 0xFF)
    (hn : s.fab.num.isSome = true) (ho : some (hallParam c).1 ≠ s.fab.num ∧ moduleAssigned s (hallParam c).1 = true) :
    exec (.hallBind k) s = .next (
      if hallParam c ∈ r.hall then complete k 0x00 [] s
      else if ∃ q, ((hallParam c).1, q) ∈ r.hall then complete k 0x04 [] s
      else if 64 ≤ r.hall.length ∨ 1024 ≤ allHalls s then complete k 0x07 [] s
      else complete k 0x00 [] (markHall p (setPart p (some { r with hall := r.hall ++ [hallParam c] }) s))) := by
  rw [exec_hallBind h hu, if_neg hm, if_neg (by simpa using Option.isSome_iff_ne_none.1 hn), if_neg (by simp [ho.1, ho.2])]
  simp

end

/-- Settles O46: OCSAL_PORT by its operation, OCSAL_ROLE by the role taken, HALL_BIND by its module and the bindings held. -/
theorem ocsalSettings : Obligations.OcsalSettings := by
  unfold Obligations.OcsalSettings
  refine ⟨fun s k c _ h => ⟨fun hd => ⟨fun ho => ?_, fun ho => ?_, fun ho => ?_⟩, fun ho => ?_,
      fun hd ho => ?_, fun hd ho => ?_, fun hd ho => ?_⟩,
    fun s k c _ h => ⟨fun ha => ?_, exec_ocsalRole_polled h, exec_ocsalRole_same h, fun ha hp hr => ?_⟩,
    fun s k c p r _ h => ⟨fun hu hm => ?_, fun hu hm hn => ?_, fun hu hm hn => ?_, exec_hallUnbind h⟩⟩
  · exact (exec_ocsalPortEnable h ho).trans (congrArg Host.Outcome.next (if_pos hd))
  · exact (exec_ocsalPortDisable h (.inl ho)).trans (congrArg Host.Outcome.next ((if_neg (by omega)).trans (if_pos hd)))
  · exact (exec_ocsalPortRetrain h ho).trans (congrArg Host.Outcome.next (if_pos hd))
  · exact (exec_ocsalPortDisable h (.inr ho)).trans (congrArg Host.Outcome.next (if_pos ho))
  · rw [exec_ocsalPortEnable h ho, if_neg (ne_true_of_eq_false hd)]
    refine ⟨fun hs => ?_, fun hs hon => ?_, fun hs hon => ?_⟩
    · rw [if_pos (not_not.1 (mt slotFits_iff.1 hs))]
    · rw [if_neg (slotFits_iff.2 hs), if_pos hon]
    · rw [if_neg (slotFits_iff.2 hs), if_neg (ne_true_of_eq_false hon)]
  · rw [exec_ocsalPortDisable h (.inl ho), if_neg (by omega), if_neg (ne_true_of_eq_false hd)]
    refine ⟨fun hl => ?_, fun hl => ?_⟩
    · rw [if_neg (by simpa using hl)]
    · rw [if_pos (by simpa using hl)]
      rfl
  · rw [exec_ocsalPortRetrain h ho, if_neg (ne_true_of_eq_false hd)]
    refine ⟨fun hu => ?_, fun hf => ?_, fun hu hf => ?_⟩
    · rw [if_pos hu]
    · rw [if_neg (by rw [hf]; decide), if_pos hf]
    · rw [if_neg hu, if_neg hf]
  · rw [exec_ocsalRole h, if_pos ha]
  · have he := exec_ocsalRole_other h ha hp hr
    refine ⟨fun e => ?_, fun e hc => ?_, fun e hc => ?_, fun e hj => ?_, fun e hn hm => ?_⟩
    · rw [he, e]
      rfl
    · rw [he, e, takeRole_manager_capped hc]
    · rw [he, e, takeRole_manager_uncapped hc]
    · rw [he, takeRole_join e hj]
    · rw [he, takeRole_joined e hn hm]
  · rw [exec_hallBind h hu, if_pos hm]
  · rw [exec_hallBind h hu, if_neg hm, if_pos (by simp [hn])]
  · have hin (he : ¬ ∃ q, ((hallParam c).1, q) ∈ r.hall) : hallParam c ∉ r.hall := fun hq => he ⟨_, hq⟩
    refine ⟨fun ho => ?_, fun ho hh => ?_, fun ho hh hs => ?_, fun ho hs hf => ?_, fun ho hs hl ha => ?_⟩
    · rw [exec_hallBind h hu, if_neg hm, if_neg (by simpa using Option.isSome_iff_ne_none.1 hn),
        if_pos (by simpa [imp_iff_not_or, or_comm] using ho)]
    · rw [exec_hallBind_other h hu hm hn ho, if_pos hh]
    · rw [exec_hallBind_other h hu hm hn ho, if_neg hh, if_pos hs]
    · rw [exec_hallBind_other h hu hm hn ho, if_neg (hin hs), if_neg hs]
      exact congrArg Host.Outcome.next (if_pos hf)
    · rw [exec_hallBind_other h hu hm hn ho, if_neg (hin hs), if_neg hs, if_neg (by unfold allHalls; omega)]

end Sys2Proof.Machine
end


section
/-! PROOFS. Firmware slots and life-cycle tokens (R446, R447, R450-R452). -/
namespace Sys2Proof.Machine
open Sys2Proof

section
variable {s : State} {k : CmdKey} {c : Cmd}

/-! ### Firmware slots (R446, R447) -/

/-- A FW_WRITE in its limits: a whole page, at most 1 MiB, in the slot. -/
abbrev FwFits (c : Cmd) : Prop := cmdD c.raw 5 % 4096 = 0 ∧ bufLen c 2 ≤ 2 ^ 20 ∧ cmdD c.raw 5 + bufLen c 2 ≤ 2 ^ 28

/-- The slot that does not run takes the bytes. -/
def fwWritten (off : Nat) (d : List Byte) (s : State) : State :=
  let b := s.boot
  let i := otherSlot b.slot
  { s with boot := { b with
      select := if b.slots[i] = .committed then b.slot else b.select, slots := vset b.slots i .written
      factory := vset b.factory i false, flash := vset b.flash i (writeBytes b.flash[i] off d) } }

theorem fwFits_iff : ¬ (cmdD c.raw 5 % 4096 ≠ 0 ∨ 2 ^ 20 < bufLen c 2 ∨ 2 ^ 28 < cmdD c.raw 5 + bufLen c 2) ↔ FwFits c := by
  simp only [not_or, not_not, Nat.not_lt]

section
variable (h : Runs s k 0x0901 c)
include h

theorem exec_fwWrite_limits (hf : ¬ FwFits c) : exec (.fwWrite k) s = .next (complete k 0x03 [] s) :=
  congrArg Host.Outcome.next ((runCmd_any h _).trans (if_pos (not_not.1 (mt fwFits_iff.1 hf))))

theorem exec_fwWrite_unread (hf : FwFits c) {st : Byte} (hd : takeData s c 2 = .inl st) :
    exec (.fwWrite k) s = .next (complete k st [] s) :=
  congrArg Host.Outcome.next ((runCmd_any h _).trans ((if_neg (fwFits_iff.2 hf)).trans (by rw [hd])))

theorem exec_fwWrite_taken (hf : FwFits c) {d : List Byte} (hd : takeData s c 2 = .inr d) :
    exec (.fwWrite k) s = .next (complete k 0x00 [] (fwWritten (cmdD c.raw 5) d s)) :=
  congrArg Host.Outcome.next ((runCmd_any h _).trans ((if_neg (fwFits_iff.2 hf)).trans (by rw [hd]; rfl)))

end

theorem exec_fwCommit (h : Runs s k 0x0902 c) :
    let i := otherSlot s.boot.slot
    exec (.fwCommit k) s = .next (
      if s.boot.slots[i] ≠ .written ∧ s.boot.slots[i] ≠ .committed then complete k 0x04 [] s
      else if slotPasses s i then complete k 0x00 [] (setSlot i .committed { s with boot := { s.boot with select := i } })
      else complete k 0x08 [] (setSlot i .written { s with boot := { s.boot with select := s.boot.slot } })) :=
  congrArg Host.Outcome.next (runCmd_any h _)

/-! ### The life cycle (R450-R452) -/

/-- The cold bring-up of a transition whose token passed, with the wipe pending. -/
def lcRestart (t : LcState) (d : List Byte) (u : State) : State :=
  startCold { u with boot := { u.boot with
    wipe := some (t, digestOf ((d.drop 0x20).take 48), BitVec.ofNat 32 (leNat ((d.drop 0x1C).take 4))) } }

section
variable (h : Runs s k 0x0904 c)
include h

theorem exec_lcTransition_length (hl : bufLen c 2 ≠ 512) : exec (.lcTransition k) s = .next (complete k 0x03 [] s) :=
  congrArg Host.Outcome.next ((runCmd_any h _).trans (if_pos hl))

theorem exec_lcTransition_unread (hl : bufLen c 2 = 512) {st : Byte} (hd : takeData s c 2 = .inl st) :
    exec (.lcTransition k) s = .next (complete k st [] s) :=
  congrArg Host.Outcome.next ((runCmd_any h _).trans ((if_neg (not_not.2 hl)).trans (by rw [hd])))

theorem exec_lcTransition_read (hl : bufLen c 2 = 512) {d : List Byte} (hd : takeData s c 2 = .inr d) :
    let r := lcCheck s (fld (cmdD c.raw 5) 0 3) d
    exec (.lcTransition k) s = .next (
      if r.1 ≠ 0x00 then complete k r.1 [] s else lcRestart r.2 d (complete k 0x00 [] s)) :=
  congrArg Host.Outcome.next ((runCmd_any h _).trans ((if_neg (not_not.2 hl)).trans (by rw [hd]; rfl)))

end

end

/-- A check whose failure has a status was not failed by what passes. -/
theorem passes_of_ite {α : Type} {a : Prop} [Decidable a] {st : Byte} {l t : α} {x : Byte × α} (hst : st ≠ 0x00)
    (h : (if a then (st, l) else x) = (0x00, t)) : ¬ a ∧ x = (0x00, t) := by
  split at h
  · exact absurd (congrArg Prod.fst h) hst
  · next ha => exact ⟨ha, h⟩

/-- A token that passes has met every check of R451 and R452. -/
theorem lcCheck_passes {s : State} {target : Nat} {d : List Byte} {t : LcState} (h : lcCheck s target d = (0x00, t)) :
    let n (off len : Nat) : Nat := leNat ((d.drop off).take len)
    let key := (d.drop 0x100).take 97
    lcOf target = some t ∧ lcAllowed s.boot.lc t = true ∧ n 6 1 = target ∧ n 7 1 = LcState.code s.boot.lc ∧ n 0 4 = 0x4B54434C ∧
      n 4 2 = 1 ∧ n 8 16 = s.boot.serial.toNat ∧ n 0x18 4 = s.boot.count.toNat ∧ lcSigner s.boot t (Config.sha384 key) = true ∧
      Config.verify (pointOf key) (d.take 0x180) (signatureOf ((d.drop 0x180).take 96)) = true ∧ (t ≠ .debug → n 0x1C 4 = 0) := by
  intro n key
  unfold lcCheck at h
  split at h
  · exact absurd (congrArg Prod.fst h) (show (0x04 : Byte) ≠ 0x00 by decide)
  · next u hu =>
    obtain ⟨hstate, h⟩ := passes_of_ite (by decide) h
    obtain ⟨hfields, h⟩ := passes_of_ite (by decide) h
    obtain ⟨hsigned, h⟩ := passes_of_ite (by decide) h
    obtain ⟨hscope, h⟩ := passes_of_ite (by decide) h
    obtain ⟨_, h⟩ := passes_of_ite (by decide) h
    obtain rfl : u = t := congrArg Prod.snd h
    simp only [Bool.or_eq_true, Bool.not_eq_true', bne_iff_ne, not_or, not_not, Bool.not_eq_false, ne_eq] at hstate hfields hsigned
    obtain ⟨⟨hallowed, htarget⟩, hfrom⟩ := hstate
    obtain ⟨hmagic, hversion, hserial, hcount⟩ := hfields
    exact ⟨hu, hallowed, htarget, hfrom, hmagic, hversion, hserial, hcount, hsigned.1, hsigned.2,
      fun hn => not_not.1 fun h0 => hscope (.inl ⟨hn, h0⟩)⟩

theorem lcAllowed_iff (a b : LcState) : lcAllowed a b = true ↔
    (a = .blank ∧ b = .provisioned) ∨ (a = .provisioned ∧ b = .deployed) ∨ (a = .deployed ∧ b = .debug) ∨
      (a = .debug ∧ b = .deployed) ∨ (a ≠ .returned ∧ b = .returned) := by
  cases a <;> cases b <;> decide

/-- Settles O47: FW_WRITE and LC_TRANSITION by the buffer read, FW_COMMIT by the slot's state and checks, a token by the
checks that it has met. -/
theorem firmwareAndLifeCycle : Obligations.FirmwareAndLifeCycle := by
  unfold Obligations.FirmwareAndLifeCycle
  refine ⟨fun s k c _ h => ⟨exec_fwWrite_limits h, fun hf st => exec_fwWrite_unread h hf, fun hf d => exec_fwWrite_taken h hf⟩,
    fun s k c _ h => ⟨fun hm => ?_, fun hm hp => ?_, fun hm hp => ?_⟩,
    fun s k c _ h => ⟨fun hl => ?_, fun hl st => exec_lcTransition_unread h hl, fun hl d hd => ⟨fun hr => ?_, fun hr => ?_⟩⟩,
    fun s target d h => lcCheck_passes (Prod.ext h rfl), lcAllowed_iff⟩
  · rw [exec_fwCommit h, if_pos (not_or.1 hm)]
  · rw [exec_fwCommit h, if_neg (mt not_or.2 (not_not.2 hm)), if_pos hp]
  · rw [exec_fwCommit h, if_neg (mt not_or.2 (not_not.2 hm)), if_neg (ne_true_of_eq_false hp)]
  · exact exec_lcTransition_length h hl
  · exact (exec_lcTransition_read h hl hd).trans (congrArg Host.Outcome.next (if_pos hr))
  · exact (exec_lcTransition_read h hl hd).trans (congrArg Host.Outcome.next (if_neg (not_not.2 hr)))

end Sys2Proof.Machine
end


section
/-! PROOFS. Power, the steps of a bring-up, trials, recovery and the life-cycle wipe (R391-R403, R439, R440, R448, R453, R466). -/
namespace Sys2Proof.Machine
open Sys2Proof

section
variable {s : State}

/-! ### The ROM and a cold bring-up (R391, R439, R448) -/

/-- What the ROM leaves alone: everything but the slots, the step and FAULT. -/
def OnlySlots (s t : State) : Prop :=
  t = { s with
    boot := { s.boot with slots := t.boot.slots, slot := t.boot.slot, select := t.boot.select, trial := t.boot.trial, step := t.boot.step }
    pwr := { s.pwr with faultOut := t.pwr.faultOut } }

theorem OnlySlots.trans {s t u : State} (h : OnlySlots s t) (g : OnlySlots t u) : OnlySlots s u := by
  unfold OnlySlots at *
  rw [g, h]

theorem setSlot_onlySlots (i : Fin 2) (v : SlotFw) (s : State) : OnlySlots s (setSlot i v s) := rfl

theorem rejectTrial_onlySlots (s : State) : OnlySlots s (rejectTrial s) := rfl

theorem stopAt_onlySlots (n : Nat) (s : State) : OnlySlots s (stopAt n s) := rfl

theorem runSlot_onlySlots (i : Fin 2) (s : State) : OnlySlots s (runSlot i s) := by
  unfold runSlot
  dsimp only
  split
  · rfl
  · split <;> rfl

theorem runSlot_step (i : Fin 2) (s : State) : (runSlot i s).boot.step = 1 := by
  unfold runSlot
  dsimp only
  split
  · rfl
  · split <;> rfl

/-- What the ROM leads to: a slot runs, or the bring-up has stopped. -/
def RomEnds (s t : State) : Prop := OnlySlots s t ∧ (t.boot.step = 1 ∨ t.boot.step = 0x70)

theorem OnlySlots.romEnds {s t u : State} (h : OnlySlots s t) (g : RomEnds t u) : RomEnds s u := ⟨h.trans g.1, g.2⟩

theorem romEnds_runSlot (i : Fin 2) (s : State) : RomEnds s (runSlot i s) := ⟨runSlot_onlySlots i s, .inl (runSlot_step i s)⟩

/-- The ROM's second choice, the other slot. -/
def romOther (a : Fin 2) (s : State) : State := if slotPasses s (otherSlot a) then runSlot (otherSlot a) s else stopAt 0x70 s

theorem romEnds_other (a : Fin 2) (s : State) : RomEnds s (romOther a s) := by
  unfold romOther
  split
  · exact romEnds_runSlot _ s
  · exact ⟨stopAt_onlySlots _ s, .inr rfl⟩

/-- The ROM's first choice, the selected slot. -/
def romSelected (s : State) : State :=
  if slotPasses s s.boot.select then runSlot s.boot.select s
  else romOther s.boot.select (if s.boot.slots[s.boot.select] = .committed then rejectTrial s else s)

theorem romEnds_selected (s : State) : RomEnds s (romSelected s) := by
  unfold romSelected
  split
  · exact romEnds_runSlot _ s
  · split
    · exact (rejectTrial_onlySlots s).romEnds (romEnds_other _ _)
    · exact romEnds_other _ s

theorem romEnds_check (s : State) : RomEnds s (romCheck s) := by
  have hrom : romCheck s = romSelected (if s.boot.trial then rejectTrial s else s) := rfl
  rw [hrom]
  split
  · exact (rejectTrial_onlySlots s).romEnds (romEnds_selected _)
  · exact romEnds_selected s

/-- The state in which the ROM starts a cold bring-up. -/
def coldStart (s : State) : State :=
  { coldState s with
    pwr := { (coldState s).pwr with standby := true }
    boot := { (coldState s).boot with cold := true, began := (coldState s).t.now } }

theorem startCold_effect (s : State) :
    let u := startCold s
    u.pwr.standby = true ∧ u.pwr.rails = false ∧ u.boot.ready = false ∧ u.boot.cold = true ∧ u.mem.sram = [] ∧ u.mem.stack = [] ∧
      u.part.parts = [] ∧ u.mem.host = s.mem.host ∧ (u.boot.step = 1 ∨ u.boot.step = 0x70) := by
  intro u
  obtain ⟨honly, hstep⟩ := romEnds_check (coldStart s)
  have hu : u = romCheck (coldStart s) := rfl
  rw [← hu] at honly hstep
  unfold OnlySlots at honly
  refine ⟨?_, ?_, ?_, ?_, ?_, ?_, ?_, ?_, hstep⟩ <;> rw [honly] <;> rfl

/-! ### Events of a bring-up (R391, R440, R448, R453, R466) -/

/-- A module without power may take it: EPO_N is not asserted and a feed is present. -/
abbrev MayPower (s : State) : Prop := s.pwr.standby = false ∧ s.pwr.epo = false ∧ (s.pwr.feeds[0] = true ∨ s.pwr.feeds[1] = true)

theorem mayPower_iff : ¬ (s.pwr.standby || s.pwr.epo || !(s.pwr.feeds[0] || s.pwr.feeds[1])) = true ↔ MayPower s := by
  unfold MayPower
  cases s.pwr.standby <;> cases s.pwr.epo <;> simp [or_iff_not_imp_left]

theorem exec_powerIn (h : MayPower s) : exec .powerIn s = .next (startCold s) :=
  congrArg Host.Outcome.next (if_neg (mayPower_iff.2 h))

theorem exec_powerIn_not (h : ¬ MayPower s) : exec .powerIn s = .next s :=
  congrArg Host.Outcome.next (if_pos (not_not.1 (mt mayPower_iff.1 h)))

/-- A trial is running that has not ended step 7 and does not wait for coolant. -/
abbrev OnTrial (s : State) : Prop := s.boot.trial = true ∧ 1 ≤ s.boot.step ∧ s.boot.step ≤ 7 ∧ s.boot.coolWait = none

theorem onTrial_iff : ¬ (!s.boot.trial || s.boot.step == 0 || decide (7 < s.boot.step) || s.boot.coolWait.isSome) = true ↔ OnTrial s := by
  simp only [Bool.or_eq_true, not_or, Bool.not_eq_true', Bool.not_eq_false, beq_iff_eq, decide_eq_true_eq, Nat.not_lt,
    Bool.not_eq_true, Option.isSome_eq_false_iff, Option.isNone_iff_eq_none, and_assoc, OnTrial, Nat.one_le_iff_ne_zero, ne_eq]

theorem exec_trialBootTimeout (h : OnTrial s) : exec .trialBootTimeout s =
    .next (startCold (rejectTrial (waitUntil s (s.boot.began + s.boot.waited + usec 60000000)))) :=
  congrArg Host.Outcome.next (if_neg (onTrial_iff.2 h))

theorem exec_trialBootTimeout_not (h : ¬ OnTrial s) : exec .trialBootTimeout s = .next s :=
  congrArg Host.Outcome.next (if_pos (not_not.1 (mt onTrial_iff.1 h)))

theorem rejectTrial_effect (s : State) : (rejectTrial s).boot.slots[s.boot.select] = .rejected ∧
    (rejectTrial s).boot.select = otherSlot s.boot.select ∧ (rejectTrial s).boot.trial = false :=
  ⟨by simp [rejectTrial, setSlot, vset], rfl, rfl⟩

/-- Slot A holds the recovery image and is selected. -/
def recovered (img : List Byte) (s : State) : State :=
  { s with boot := { s.boot with
    flash := vset s.boot.flash 0 (writeBytes [] 0 (img.take (2 ^ 28))), factory := vset s.boot.factory 0 false
    slots := vset s.boot.slots 0 .written, select := 0, trial := false } }

theorem exec_recoveryImage (img : List Byte) : exec (.recoveryImage img) s = .next (
    if s.boot.step ≠ 0x70 then s
    else if slotPasses (recovered img s) 0 then startCold (recovered img s) else recovered img s) := rfl

/-- The wipe is done and its state committed. -/
def wiped (w : LcState × BitVec 384 × BitVec 32) (s : State) : State :=
  let u := waitUntil s (s.t.now + usec 45000000)
  let owner := match w.1 with | .provisioned => w.2.1 | .returned => 0 | _ => u.boot.owner
  { u with
    mem := { u.mem with sram := [], stack := [], sramErr := [], stackErr := [] }
    fab := { u.fab with record := [] }
    boot := { u.boot with lc := w.1, count := u.boot.count + 1, owner := owner, scope := (if w.1 = .debug then w.2.2 else 0), wipe := none
                          log := [], waited := u.boot.waited + usec 45000000 } }

theorem exec_lifecycleWipeDone {w : LcState × BitVec 384 × BitVec 32} (hw : s.boot.wipe = some w) (hs : s.boot.step = 0x20) :
    exec .lifecycleWipeDone s = .next (enterStep 6 (wiped w s)) := by
  change execLifecycleWipeDone s = _
  unfold execLifecycleWipeDone
  rw [hw]
  exact congrArg Host.Outcome.next (if_neg (not_not.2 hs))

theorem exec_lifecycleWipeDone_not (h : s.boot.wipe = none ∨ s.boot.step ≠ 0x20) : exec .lifecycleWipeDone s = .next s := by
  change execLifecycleWipeDone s = _
  unfold execLifecycleWipeDone
  split
  · rfl
  · next hw => exact congrArg Host.Outcome.next (if_pos (h.resolve_left (by simp [hw])))

/-- The new owner of a wipe that provisions, that returns, or that does neither. -/
theorem wiped_owner (w : LcState × BitVec 384 × BitVec 32) (s : State) :
    (w.1 = .provisioned → (wiped w s).boot.owner = w.2.1) ∧ (w.1 = .returned → (wiped w s).boot.owner = 0) ∧
      (w.1 ≠ .provisioned → w.1 ≠ .returned → (wiped w s).boot.owner = s.boot.owner) := by
  have howner : (wiped w s).boot.owner = match w.1 with | .provisioned => w.2.1 | .returned => 0 | _ => s.boot.owner := by
    cases hw : w.1 <;> simp [wiped, hw]
  rw [howner]
  cases w.1 <;> simp

/-- A step of the bring-up is under way. -/
abbrev StepRuns (s : State) : Prop := 1 ≤ s.boot.step ∧ s.boot.step ≤ 15 ∧ s.boot.coolWait = none

theorem stepRuns_iff : ¬ (s.boot.step = 0 ∨ 15 < s.boot.step ∨ s.boot.coolWait.isSome) ↔ StepRuns s := by
  simp only [StepRuns, not_or, Nat.not_lt, Nat.one_le_iff_ne_zero, Bool.not_eq_true, Option.isSome_eq_false_iff, Option.isNone_iff_eq_none, ne_eq]

theorem exec_bringupStepDone (r : StepResult) (h : StepRuns s) :
    exec (.bringupStepDone r) s = .next (endStep r (waitUntil s (s.t.now + usec (1000 * stepMs s s.boot.step)))) :=
  congrArg Host.Outcome.next (if_neg (stepRuns_iff.2 h))

theorem exec_bringupStepDone_not (r : StepResult) (h : ¬ StepRuns s) : exec (.bringupStepDone r) s = .next s :=
  congrArg Host.Outcome.next (if_pos (not_not.1 (mt stepRuns_iff.1 h)))

theorem coolantReady_iff : coolantReady s = true ↔ s.pwr.coolIn ≤ 800 ∧ 500 ≤ s.pwr.flow ∧ s.pwr.wet = false := by
  simp [coolantReady, and_assoc]

theorem enterStep_coolWait (n : Nat) :
    (enterStep n s).boot.coolWait = if n = 3 ∧ coolantReady s = false then some s.t.now else none := by
  simp [enterStep]

theorem exec_bringupCoolantReady_not (h : s.boot.coolWait = none ∨ coolantReady s = false) : exec .bringupCoolantReady s = .next s := by
  change execBringupCoolantReady s = _
  unfold execBringupCoolantReady
  split
  · rfl
  · next hw => exact congrArg Host.Outcome.next (if_neg (ne_true_of_eq_false (h.resolve_left (by simp [hw]))))

theorem exec_bringupCoolantReady {n : Nat} (hw : s.boot.coolWait = some n) (hr : coolantReady s = true) : exec .bringupCoolantReady s =
    .next { s with boot := { s.boot with coolWait := none, waited := s.boot.waited + (s.t.now - n) } } := by
  change execBringupCoolantReady s = _
  unfold execBringupCoolantReady
  rw [hw]
  exact congrArg Host.Outcome.next (if_pos hr)

/-! ### The end of each step (R391-R403, R448) -/

section
variable {α : Type} {f : State → α → State}

theorem foldl_boot (h : ∀ s a, (f s a).boot = s.boot) (l : List α) (s : State) : (l.foldl f s).boot = s.boot := by
  induction l generalizing s with
  | nil => rfl
  | cons a l ih => exact (ih _).trans (h s a)

end

theorem clDark_boot (c : Cl) (s : State) : (clDark c s).boot = s.boot := by
  unfold clDark
  dsimp only
  split <;> rfl

theorem bootDark_boot (cause : Nat) (s : State) (f : Fin 192) : (bootDark cause s f).boot = s.boot := by
  unfold bootDark
  dsimp only
  rw [foldl_boot (fun s c => by exact clDark_boot c s), setField_boot]

section
variable {r : StepResult}

/-- A warm start goes on only with a usable repair map and no wipe pending. -/
theorem endStep_two_warm (h : s.boot.step = 2) (hc : s.boot.cold = false) : endStep r s =
    if s.boot.repair.valid = true ∧ s.boot.repair.version = slotVersion s s.boot.slot ∧ s.boot.wipe = none then enterStep 3 s
    else turnCold s := by
  have hbad : (!s.boot.cold && (!s.boot.repair.valid || s.boot.repair.version != slotVersion s s.boot.slot || s.boot.wipe.isSome)) = true ↔
      ¬ (s.boot.repair.valid = true ∧ s.boot.repair.version = slotVersion s s.boot.slot ∧ s.boot.wipe = none) := by
    simp only [hc, Bool.not_false, Bool.true_and, Bool.or_eq_true, Bool.not_eq_true', bne_iff_ne, Option.isSome_iff_ne_none, not_and_or,
      Bool.not_eq_true, or_assoc, ne_eq]
  unfold endStep
  rw [h]
  change endStep2 s = _
  unfold endStep2
  rw [if_neg (ne_true_of_eq_false hc)]
  simp only [hbad, ite_not]

theorem endStep_two_cold (h : s.boot.step = 2) (hc : s.boot.cold = true) : endStep r s =
    enterStep 3 { s with mem := { s.mem with clErr := [], stErr := [] }, net := { s.net with counters := [] } } := by
  unfold endStep
  rw [h]
  change endStep2 s = _
  unfold endStep2
  rw [if_pos hc]
  exact if_neg (by simp [hc])

/-- The rails come up, on a cold bring-up with the ceilings at 4 and THROTTLE 8. -/
def railsUp (s : State) : State :=
  { s with pwr := { (if s.boot.cold then { s.pwr with ceiling := 4, wceil := Vector.replicate 4 4, throttle := 8 } else s.pwr) with rails := true } }

theorem endStep_three (h : s.boot.step = 3) (hw : s.boot.coolWait = none) : endStep r s =
    if r.ok = false ∨ r.converterFail.eraseDups.length = 4 then stopAt 0x71 s else enterStep 4 (railsUp s) := by
  unfold endStep
  rw [h]
  change endStep3 r s = _
  unfold endStep3
  rw [if_neg (by simp [hw])]
  simp only [Bool.or_eq_true, Bool.not_eq_true', beq_iff_eq]
  rfl

theorem endStep_five (h : s.boot.step = 5) : (endStep r s).boot.step = if s.boot.wipe.isSome then 0x20 else 6 := by
  have hboot : (r.unlocked.foldl (bootDark 5) s).boot = s.boot := foldl_boot (bootDark_boot 5) _ s
  unfold endStep
  rw [h]
  change (endStep5 r s).boot.step = _
  unfold endStep5
  rw [← hboot]
  dsimp only
  split <;> rfl

theorem endStep_six_fails (h : s.boot.step = 6) (hc : s.boot.cold = false) (hf : r.wellheadFail ≠ []) : endStep r s = turnCold s := by
  unfold endStep
  rw [h]
  change endStep6 r s = _
  unfold endStep6
  rw [if_neg (ne_true_of_eq_false hc), if_pos (by simp [hf])]

/-- A trial that has taken too long. -/
abbrev TrialLate (s : State) : Prop := s.boot.trial = true ∧ usec 60000000 < trialTime s

theorem endStep_seven_late (h : s.boot.step = 7) (hl : TrialLate s) : endStep r s = failTrial s := by
  unfold endStep
  rw [h]
  exact if_pos (Bool.and_eq_true_iff.2 ⟨hl.1, decide_eq_true hl.2⟩)

/-- The wellheads run, with the cycle counters from the tide. -/
def wellheadsRun (s : State) : State := { s with t := { s.t with locals := [], cycBase := (moduleTide s).toNat / 8, cycAt := s.t.now } }

theorem endStep_seven (h : s.boot.step = 7) (hl : ¬ TrialLate s) : endStep r s = enterStep 8 (confirmTrial (wellheadsRun s)) := by
  unfold endStep
  rw [h]
  exact if_neg fun hb => hl ⟨(Bool.and_eq_true_iff.1 hb).1, of_decide_eq_true (Bool.and_eq_true_iff.1 hb).2⟩

theorem confirmTrial_trial (s : State) : (confirmTrial s).boot.trial = false := by
  unfold confirmTrial
  split
  · next h => simpa using h
  · rfl

theorem confirmTrial_slot (h : s.boot.trial = true) :
    (confirmTrial s).boot.slots[s.boot.slot] = .active ∧ (confirmTrial s).boot.select = s.boot.slot := by
  unfold confirmTrial
  rw [if_neg (by simp [h])]
  exact ⟨by simp [setSlot, vset], rfl⟩

theorem postReady_only (s : State) : OnlyEvents s (postReady s) := by
  unfold postReady
  dsimp only
  refine OnlyEvents.trans ?_ (foldl_only _ (fun s u => fencedEvent_only u [] 0 1 s) _ _)
  have hlinks (u : State) : OnlyEvents u ((List.finRange 2).foldl (fun s p =>
      if s.host.ports[p].up || s.net.dry.cxl.getLsbD p.val then s else cxlLinkEvent .linkDown p 3 0 s) u) := by
    refine foldl_only _ (fun s p => ?_) _ u
    split
    · rfl
    · exact postTo_only _ _ _ _ _ _ _
  split
  · exact (postTo_only _ _ _ _ _ _ _).trans ((hlinks _).trans (postTo_only _ _ _ _ _ _ _))
  · exact (postTo_only _ _ _ _ _ _ _).trans (hlinks _)

/-- READY, before its events: the repair map is written and a memory key drawn. -/
def readied (s : State) : State :=
  { (takeFree s).2 with
    mem := { s.mem with freeKey := Config.free s.freeCount }
    boot := { s.boot with
      repair := { valid := true, version := slotVersion s s.boot.slot, wellheads := s.boot.wellheads, dry := s.net.published
                  pages := s.boot.retired, surplus := s.boot.repair.surplus, spares := s.net.spares }
      step := 16, ready := true, readyAt := s.t.now }
    pwr := { s.pwr with readyOut := true } }

theorem endStep_fifteen (h : s.boot.step = 15) : OnlyEvents (readied s) (endStep r s) := by
  unfold endStep
  rw [h]
  exact postReady_only _

end

end

/-- Settles O49: each event by its condition, a cold start by what the ROM leaves alone, each step by what its end does. -/
theorem bringUp : Obligations.BringUp := by
  unfold Obligations.BringUp
  refine ⟨⟨fun s => ⟨exec_powerIn, exec_powerIn_not⟩, startCold_effect, fun s => ⟨exec_trialBootTimeout, exec_trialBootTimeout_not⟩,
    rejectTrial_effect, fun s img => ⟨fun hs hp => ?_, fun hs hp => ?_, fun hs => ?_⟩,
    fun s w hw hs => ⟨_, exec_lifecycleWipeDone hw hs, ?_⟩, fun s => exec_lifecycleWipeDone_not⟩,
    fun s r => ⟨exec_bringupStepDone r, exec_bringupStepDone_not r⟩, fun s n => ⟨rfl, enterStep_coolWait n, coolantReady_iff⟩,
    fun s => ⟨exec_bringupCoolantReady_not, fun n => exec_bringupCoolantReady⟩, fun s r => ⟨fun h => ?_, fun h hc => ?_, endStep_two_cold,
      fun h hw => ?_, fun h => ?_, fun h => ?_, fun h => ?_, fun h => ?_, fun h => ?_, fun h => ?_⟩,
    fun s r h hw => ?_, fun s r h hw => ?_, fun s r h hc hf => endStep_six_fails h hc hf,
    fun s r => ⟨fun h hc => ?_, fun h hc => ?_, fun h => ?_, fun h => ?_⟩, fun s => ?_⟩
  · rw [exec_recoveryImage, if_neg (not_not.2 hs)]
    exact congrArg Host.Outcome.next (if_pos hp)
  · rw [exec_recoveryImage, if_neg (not_not.2 hs)]
    exact congrArg Host.Outcome.next (if_neg (ne_true_of_eq_false hp))
  · rw [exec_recoveryImage, if_pos hs]
  · exact ⟨rfl, rfl, rfl, rfl, rfl, rfl, rfl, rfl, Nat.max_eq_right (Nat.le_add_right _ _), rfl, wiped_owner w s⟩
  · simp only [endStep, h]
  · rw [endStep_two_warm h hc]
    exact ⟨fun g => if_pos g, fun g => if_neg g⟩
  · rw [endStep_three h hw]
    refine ⟨fun hb => if_pos hb, fun hb => ?_⟩
    rw [if_neg hb]
    refine ⟨rfl, rfl, fun hc => ?_, fun hc => ?_⟩ <;> simp [railsUp, enterStep, hc]
  · refine ⟨endStep_seven_late h, fun hl => ?_⟩
    rw [endStep_seven h hl]
    exact ⟨rfl, confirmTrial_trial _, fun ht => confirmTrial_slot (s := wellheadsRun s) ht⟩
  · simp only [endStep, h]
  · simp only [endStep, h]
  · simp only [endStep, h]
  · unfold endStep
    rw [h]
    exact ⟨rfl, rfl⟩
  · have he := endStep_fifteen (r := r) h
    unfold OnlyEvents at he
    rw [he]
    exact ⟨rfl, rfl, rfl, rfl, rfl, rfl, rfl⟩
  · rw [endStep_five h, if_pos hw]
  · rw [endStep_five h, if_neg (by simp [hw])]
  · unfold endStep
    rw [h]
    exact if_pos hc
  · unfold endStep
    rw [h]
    exact if_neg (ne_true_of_eq_false hc)
  · unfold endStep
    rw [h]
    rfl
  · unfold endStep
    rw [h]
    rfl
  · refine ⟨?_, ?_, fun hc ht => ?_, ?_⟩ <;> cases hcold : s.boot.cold <;> simp_all [stepMs]

end Sys2Proof.Machine
end


section
/-! PROOFS. The life of an Ocsal port: flits, lanes, training, retraining, keys and the bypass (R409-R417, R431, R443). -/
namespace Sys2Proof.Machine
open Sys2Proof

/-! ### A port under events -/

theorem OnlyEvents.portRec {s t : State} (h : OnlyEvents s t) (q : Fin 16) : portRec t q = portRec s q := by
  unfold Machine.portRec
  rw [h.fab]

theorem portEvent_only (e : EvCode) (p : Fin 16) (reason lanes : Nat) (s : State) : OnlyEvents s (portEvent e p reason lanes s) :=
  postTo_only _ _ _ _ _ _ s

theorem portRec_setPort_self (p : Fin 16) (r : PortRec) (s : State) : portRec (setPort p r s) p = r :=
  (portRec_setPort p p r s).trans (if_pos rfl)

theorem portRec_setPort_ne {p q : Fin 16} (h : q ≠ p) (r : PortRec) (s : State) : portRec (setPort p r s) q = portRec s q :=
  (portRec_setPort p q r s).trans (if_neg h)

theorem mateOf_ne : ∀ p : Fin 16, p ≠ mateOf p := by decide

/-- A pair that closes leaves the port that closes it. -/
theorem portRec_closePair (p : Fin 16) (reason : Nat) (s : State) : portRec (closePair p reason s) p = portRec s p := by
  have hbypass (k : Fin 4) : portRec (bypassTo k true s) p = portRec s p := by
    unfold bypassTo
    split <;> rfl
  unfold closePair
  split
  · rfl
  · next k _ =>
    dsimp only
    split
    · exact hbypass k
    · split
      · rw [(portEvent_only _ _ _ _ _).portRec, portRec_setPort_ne (mateOf_ne p), hbypass]
      · rw [portRec_setPort_ne (mateOf_ne p), hbypass]

theorem portRec_portFail (p : Fin 16) (reason : Nat) (st : Byte) (s : State) :
    portRec (portFail p reason st s) p = { portRec s p with state := .failed, lastStatus := st } := by
  unfold portFail
  rw [portRec_closePair, (portEvent_only _ _ _ _ _).portRec, portRec_setPort_self]

/-! ### Flits (R410, R411) -/

/-- The counters of a flit, and at most the events of their wraps. -/
theorem flitCounts_only (p : Fin 16) (f : Flit) (taken : Bool) (s : State) :
    OnlyEvents (setPort p { portRec s p with
      received := (portRec s p).received + BitVec.ofNat 64 (b2n taken)
      fec := (portRec s p).fec + BitVec.ofNat 64 (if f.fecOk then f.corrected else 0)
      tags := (portRec s p).tags + BitVec.ofNat 64 (b2n (f.fecOk && !f.tagOk)) } s) (flitCounts p f taken s) :=
  (wrapEvent_only _ _ _ _ _ _ _).trans ((wrapEvent_only _ _ _ _ _ _ _).trans (wrapEvent_only _ _ _ _ _ _ _))

theorem portRec_flitCounts (s : State) (p : Fin 16) (f : Flit) (taken : Bool) :
    portRec (flitCounts p f taken s) p = { portRec s p with
      received := (portRec s p).received + BitVec.ofNat 64 (b2n taken)
      fec := (portRec s p).fec + BitVec.ofNat 64 (if f.fecOk then f.corrected else 0)
      tags := (portRec s p).tags + BitVec.ofNat 64 (b2n (f.fecOk && !f.tagOk)) } :=
  ((flitCounts_only p f taken s).portRec p).trans (portRec_setPort_self ..)

theorem portRec_flitCounts_ne {p q : Fin 16} (h : q ≠ p) (f : Flit) (taken : Bool) (s : State) :
    portRec (flitCounts p f taken s) q = portRec s q :=
  ((flitCounts_only p f taken s).portRec q).trans (portRec_setPort_ne h ..)

theorem flitCounts_transit (p : Fin 16) (f : Flit) (taken : Bool) (s : State) : (flitCounts p f taken s).fab.transit = s.fab.transit :=
  (congrArg (·.transit) (flitCounts_only p f taken s).fab :)

theorem flitCounts_t (p : Fin 16) (f : Flit) (taken : Bool) (s : State) : (flitCounts p f taken s).t = s.t :=
  (flitCounts_only p f taken s).t

section
variable {s : State} {p : Fin 16} {f : Flit}

theorem exec_flitReceive_down (h : (portRec s p).state ≠ .up) : exec (.flitReceive p f) s = .next s :=
  congrArg Host.Outcome.next (if_pos h)

/-- The flit is the one that the port expects, with FEC and tag good. -/
abbrev FlitTaken (s : State) (p : Fin 16) (f : Flit) : Prop :=
  f.fecOk = true ∧ f.tagOk = true ∧ f.seq = BitVec.ofNat 24 (portRec s p).rxSeq

/-- The credits of a port after a flit's. -/
def flitCredits (r : PortRec) (f : Flit) : Vector Nat 8 :=
  if f.creditVc.val < 5 then vset r.credits f.creditVc (r.credits[f.creditVc] + f.creditCount.toNat) else r.credits

theorem exec_flitReceive_taken (hup : (portRec s p).state = .up) (h : FlitTaken s p f) :
    let r := portRec s p
    let u := flitCounts p f true s
    let v := setPort p { portRec u p with rxSeq := r.rxSeq + 1, acked := ackedBy r f.ack, credits := flitCredits r f } u
    exec (.flitReceive p f) s = .next (drainTransit (if f.nak then resend p v else v)) := by
  obtain ⟨hfec, htag, hseq⟩ := h
  have hok : (f.fecOk && f.tagOk && f.seq == BitVec.ofNat 24 (portRec s p).rxSeq) = true := by simp [hfec, htag, hseq]
  change execFlitReceive p f s = _
  unfold execFlitReceive
  refine congrArg Host.Outcome.next ((if_neg (not_not.2 hup)).trans ?_)
  simp only [hok, Bool.not_true, Bool.false_eq_true, if_false, portRec_flitCounts, ackedBy, flitCredits]
  by_cases hv : f.creditVc.val < 5 <;> simp only [hv, if_true, if_false]

theorem exec_flitReceive_dropped (hup : (portRec s p).state = .up) (h : ¬ FlitTaken s p f) :
    let r := portRec s p
    let u := flitCounts p f false s
    let times := if f.fecOk = true ∧ f.tagOk = false then
        (r.tagTimes.filter fun n => decide (s.t.now < n + usec 1000)) ++ [s.t.now] else r.tagTimes
    exec (.flitReceive p f) s = .next (setPort p { portRec u p with tagTimes := times }
      { u with out := u.out ++ [.nak p (BitVec.ofNat 24 (r.rxSeq + 2 ^ 24 - 1))] }) := by
  have hok : (f.fecOk && f.tagOk && f.seq == BitVec.ofNat 24 (portRec s p).rxSeq) = false := by
    simpa [FlitTaken, and_assoc] using h
  change execFlitReceive p f s = _
  unfold execFlitReceive
  refine congrArg Host.Outcome.next ((if_neg (not_not.2 hup)).trans ?_)
  simp only [hok, Bool.not_false, if_true, portRec_flitCounts, flitCounts_t, Bool.and_eq_true, Bool.not_eq_true']

theorem drainTransit_empty (h : s.fab.transit = []) : drainTransit s = s := by
  unfold drainTransit
  rw [h, List.foldl_nil, ← h]

theorem resend_none (h : (portRec s p).txSeq ≤ (portRec s p).acked) : resend p s = s :=
  if_pos (Nat.sub_eq_zero_of_le h)

end

/-! ### Lanes (R409) -/

section
variable {s : State} {p : Fin 16} {l : Fin 9}

theorem exec_ocsalLaneFail_not (h : ¬ ((portRec s p).state.lanesOn = true ∧ l ∉ (portRec s p).bad)) (rate : Bool) :
    exec (.ocsalLaneFail p l rate) s = .next s := by
  refine congrArg Host.Outcome.next (if_pos ?_)
  by_contra hn
  exact h (by simpa using hn)

/-- The spare is whole and free, and the lane another. -/
abbrev SpareFree (r : PortRec) (l : Fin 9) : Prop := l.val ≠ 8 ∧ (8 : Fin 9) ∉ r.bad ∧ r.spareFor = none

/-- What the spare stands in for once a lane has failed. -/
def spareTaken {α : Type} (r : PortRec) (l : Fin 9) (new old : Option α) : Option α :=
  if l.val = 8 then none else if SpareFree r l then new else old

theorem exec_ocsalLaneFail (h : (portRec s p).state.lanesOn = true ∧ l ∉ (portRec s p).bad) (rate : Bool) :
    let r := portRec s p
    let q : PortRec := { r with bad := r.bad ++ [l], spare := r.spare && l.val != 8, spareFor := spareTaken r l (some l) r.spareFor
                                spareAt := spareTaken r l (some (s.t.now + usec 20)) r.spareAt }
    exec (.ocsalLaneFail p l rate) s = .next (
      if portLanes q = portLanes r then setPort p q s
      else portEvent .linkDown p (if rate then 1 else 0) (portLanes q) (setPort p q s)) := by
  have htake : (!(l.val == 8) && !(portRec s p).bad.contains 8 && (portRec s p).spareFor.isNone) = true ↔ SpareFree (portRec s p) l := by
    simp [SpareFree, and_assoc]
  change execOcsalLaneFail p l rate s = _
  unfold execOcsalLaneFail
  refine congrArg Host.Outcome.next ((if_neg (by simpa using h)).trans ?_)
  simp only [htake, beq_iff_eq, spareTaken]
  rfl

theorem exec_ocsalSpareReady_none (h : (portRec s p).spareAt = none) : exec (.ocsalSpareReady p) s = .next s := by
  change execOcsalSpareReady p s = _
  simp only [execOcsalSpareReady, h]

theorem exec_ocsalSpareReady {n : Nat} (h : (portRec s p).spareAt = some n) :
    let q : PortRec := { portRec s p with spare := true, spareAt := none }
    exec (.ocsalSpareReady p) s = .next (portEvent .linkUp p 4 (portLanes q) (setPort p q (waitUntil s n))) := by
  change execOcsalSpareReady p s = _
  simp only [execOcsalSpareReady, h]

/-! ### Training (R413, R431, R443) -/

/-- A port in TRAINING whose pair is open. -/
abbrev Trains (s : State) (p : Fin 16) : Prop := (portRec s p).state = .training ∧ pairOpen s p = true

theorem trains_iff : ¬ (decide ((portRec s p).state ≠ .training) || !pairOpen s p) = true ↔ Trains s p := by simp

theorem exec_portTrained (h : Trains s p) (q : PeerId) : exec (.portTrained p q) s = .next (setPort p { portRec s p with
    state := .securing, peer := q.mod, peerPort := q.port, rev1 := q.rev1, peerSerial := q.serial, peerRole := q.role }
    (waitUntil s ((portRec s p).since + usec 30000))) := congrArg Host.Outcome.next (if_neg (trains_iff.2 h))

theorem exec_portTrained_not (h : ¬ Trains s p) (q : PeerId) : exec (.portTrained p q) s = .next s :=
  congrArg Host.Outcome.next (if_pos (not_not.1 (mt trains_iff.1 h)))

theorem exec_portTrainRetry_not (h : (portRec s p).state ≠ .training) : exec (.portTrainRetry p) s = .next s :=
  congrArg Host.Outcome.next (if_pos h)

theorem exec_portTrainRetry (h : (portRec s p).state = .training) :
    let u := waitUntil s ((portRec s p).since + usec 1000000)
    let v := setPort p { portRec s p with since := u.t.now, noPeerPosted := true } u
    exec (.portTrainRetry p) s = .next (if (portRec s p).noPeerPosted then v else portEvent .linkDown p 3 0 v) :=
  congrArg Host.Outcome.next (if_neg (not_not.2 h))

/-- The port is UP under new keys. -/
def securedPort (p : Fin 16) (s : State) : State :=
  portEvent .linkUp p 2 (portLanes (portRec s p)) (setConn (.ocsal p) { version := true, caps := true, algs := true, open_ := [(0, 0)] }
    (setPort p { portRec s p with
      state := .up, txSeq := 0, rxSeq := 0, acked := 0, sinceKey := 0, phase := false, keys := 0, credits := Vector.replicate 8 2048
      tagTimes := [], retrainTimes := [] } (waitUntil s (s.t.now + usec 100000))))

/-- The port is the first UP one of a module that joins. -/
abbrev FirstJoins (s : State) : Prop := (∀ q, (portRec s q).state ≠ .up) ∧ (s.fab.role = .worker ∨ s.fab.role = .standby)

theorem securedPort_role (p : Fin 16) (s : State) : (securedPort p s).fab.role = s.fab.role :=
  (congrArg (·.role) (portEvent_only _ _ _ _ _).fab :)

theorem firstJoins_iff (p : Fin 16) : (((List.finRange 16).all fun q => (portRec s q).state != .up) &&
    ((securedPort p s).fab.role == .worker || (securedPort p s).fab.role == .standby)) = true ↔ FirstJoins s := by
  rw [securedPort_role]
  simp [List.all_eq_true]

theorem exec_portSecured_not (h : (portRec s p).state ≠ .securing) (a : PeerAuth) : exec (.portSecured p a) s = .next s :=
  congrArg Host.Outcome.next (if_pos h)

theorem exec_portSecured_fails (h : (portRec s p).state = .securing) {a : PeerAuth} (ha : peerAccepted s a = false) :
    exec (.portSecured p a) s = .next (portFail p 3 0x08 (waitUntil s (s.t.now + usec 100000))) :=
  congrArg Host.Outcome.next ((if_neg (not_not.2 h)).trans (if_pos (congrArg (!·) ha)))

theorem exec_portSecured (h : (portRec s p).state = .securing) {a : PeerAuth} (ha : peerAccepted s a = true) :
    exec (.portSecured p a) s = .next (if ((List.finRange 16).all fun q => (portRec s q).state != .up) &&
      ((securedPort p s).fab.role == .worker || (securedPort p s).fab.role == .standby) then sendJoin (securedPort p s) else securedPort p s) :=
  congrArg Host.Outcome.next ((if_neg (not_not.2 h)).trans (if_neg (ne_true_of_eq_false (congrArg (!·) ha))))

theorem peerAccepted_iff (a : PeerAuth) : peerAccepted s a = true ↔
    a.chainOk = true ∧ (s.boot.lc = .deployed → a.lcState = 2 ∧ a.ownerHash = s.boot.owner) := by
  simp [peerAccepted, imp_iff_not_or]

/-! ### Retraining, keys and the bypass (R409, R412, R414, R417) -/

theorem exec_portRetrain : exec (.portRetrain p) s = .next (
    if (portRec s p).state = .up ∧
      (16 < ((portRec s p).tagTimes.filter fun n => decide (s.t.now < n + usec 1000)).length ∨ portLanes (portRec s p) < 4)
    then toRetrain p s else s) := rfl

theorem exec_portRetrainDone_not (h : (portRec s p).state ≠ .retraining) (ok lock : Bool) (ack : BitVec 24) :
    exec (.portRetrainDone p ok lock ack) s = .next s := congrArg Host.Outcome.next (if_pos h)

theorem exec_portRetrainDone_fails (h : (portRec s p).state = .retraining) (lock : Bool) (ack : BitVec 24) :
    exec (.portRetrainDone p false lock ack) s =
      .next (portFail p (if lock then 0 else 1) 0x09 (waitUntil s (s.t.now + usec 200))) :=
  congrArg Host.Outcome.next ((if_neg (not_not.2 h)).trans (if_pos rfl))

theorem exec_portRetrainDone (h : (portRec s p).state = .retraining) (lock : Bool) (ack : BitVec 24) :
    exec (.portRetrainDone p true lock ack) s = .next (nextKey p (resend p (setPort p { portRec s p with
      state := .up, acked := ackedBy (portRec s p) ack, tagTimes := [] } (waitUntil s (s.t.now + usec 200))))) :=
  congrArg Host.Outcome.next ((if_neg (not_not.2 h)).trans (if_neg Bool.false_ne_true))

/-- An UP port that has sent 2^40 flits under its key. -/
abbrev KeyDue (s : State) (p : Fin 16) : Prop := (portRec s p).state = .up ∧ 2 ^ 40 ≤ (portRec s p).sinceKey

theorem keyDue_iff : ¬ ((portRec s p).state ≠ .up ∨ (portRec s p).sinceKey < 2 ^ 40) ↔ KeyDue s p := by
  simp only [not_or, not_not, Nat.not_lt]

theorem exec_keyUpdate (h : KeyDue s p) : exec (.keyUpdate p) s =
    .next (setConn (.ocsal p) (updateKeys (fun _ => true) (connOf s (.ocsal p))) (nextKey p s)) :=
  congrArg Host.Outcome.next (if_neg (keyDue_iff.2 h))

theorem exec_keyUpdate_not (h : ¬ KeyDue s p) : exec (.keyUpdate p) s = .next s :=
  congrArg Host.Outcome.next (if_pos (not_not.1 (mt keyDue_iff.1 h)))

theorem exec_bypassChange_none (h : pairOf p = none) (own : Bool) : exec (.bypassChange p own) s = .next s := by
  change execBypassChange p own s = _
  simp only [execBypassChange, h]

section
variable {k : Fin 4} (h : pairOf p = some k)
include h

theorem exec_bypassChange_idle (hc : s.fab.changing[k] = none) : exec (.bypassChange p true) s = .next s := by
  change execBypassChange p true s = _
  simp only [execBypassChange, h, hc, if_true]

theorem exec_bypassChange_ends {close : Bool} (hc : s.fab.changing[k] = some close) : exec (.bypassChange p true) s =
    .next { waitUntil s (s.t.now + usec 10000) with fab := { s.fab with
      closed := vset s.fab.closed k close, changing := vset s.fab.changing k none } } := by
  change execBypassChange p true s = _
  simp only [execBypassChange, h, hc, if_true]
  rfl

theorem exec_bypassChange_neighbour : exec (.bypassChange p false) s = .next (
    if !(portRec s p).state.lanesOn then s else beginTraining p (portEvent .linkDown p 3 0 s)) := by
  change execBypassChange p false s = _
  simp only [execBypassChange, h, Bool.false_eq_true, if_false]

end

end

/-- Settles O50: a flit by what it leads to, a lane by the spare, the port's states each by the row that leaves them. -/
theorem ocsalPortLife : Obligations.OcsalPortLife := by
  unfold Obligations.OcsalPortLife
  refine ⟨⟨fun s p f taken => ⟨portRec_flitCounts s p f taken, fun q hq => portRec_flitCounts_ne hq f taken s,
        flitCounts_transit p f taken s⟩,
      fun s p f => ⟨exec_flitReceive_down, fun hup ht => ⟨fun hn => ?_, fun hn => ?_⟩, exec_flitReceive_dropped⟩,
      fun s p h => ⟨drainTransit_empty h, resend_none⟩,
      fun s p l rate => ⟨fun h => exec_ocsalLaneFail_not h rate, fun h => ⟨_, _, fun h8 => ?_, fun hs => ?_, fun h8 hs => ?_,
        fun he => (exec_ocsalLaneFail h rate).trans (congrArg Host.Outcome.next (if_pos he)),
        fun he => (exec_ocsalLaneFail h rate).trans (congrArg Host.Outcome.next (if_neg he))⟩⟩,
      fun s p => ⟨exec_ocsalSpareReady_none, fun n => exec_ocsalSpareReady⟩⟩,
    ⟨fun s p q => ⟨fun h => exec_portTrained_not h q, fun h => exec_portTrained h q⟩,
      fun s p => ⟨exec_portTrainRetry_not, fun h hp => ?_, fun h hp => ?_⟩,
      fun s p a => ⟨fun h => exec_portSecured_not h a, fun h ha => exec_portSecured_fails h ha, fun h ha hj => ?_, fun h ha hj => ?_⟩,
      fun s a => peerAccepted_iff a, fun s p n st => ?_⟩,
    fun s p => ⟨fun h => ?_, fun h => ?_⟩,
    fun s p lock ack => ⟨fun h ok => exec_portRetrainDone_not h ok lock ack, fun h => exec_portRetrainDone_fails h lock ack,
      fun h => exec_portRetrainDone h lock ack⟩,
    fun s p => portRec_setPort_self .., fun s p => ⟨exec_keyUpdate, exec_keyUpdate_not⟩,
    fun s p own h => exec_bypassChange_none h own, fun s p k h => ⟨exec_bypassChange_idle h, fun close => exec_bypassChange_ends h,
      fun hl => ?_, fun hl => ?_⟩⟩
  · exact (exec_flitReceive_taken hup ht).trans (congrArg (Host.Outcome.next <| drainTransit ·) (if_neg (ne_true_of_eq_false hn)))
  · exact (exec_flitReceive_taken hup ht).trans (congrArg (Host.Outcome.next <| drainTransit ·) (if_pos hn))
  · exact ⟨if_pos h8, if_pos h8⟩
  · exact ⟨(if_neg hs.1).trans (if_pos hs), (if_neg hs.1).trans (if_pos hs)⟩
  · exact ⟨(if_neg h8).trans (if_neg hs), (if_neg h8).trans (if_neg hs)⟩
  · exact (exec_portTrainRetry h).trans (congrArg Host.Outcome.next (if_pos hp))
  · exact (exec_portTrainRetry h).trans (congrArg Host.Outcome.next (if_neg (ne_true_of_eq_false hp)))
  · exact (exec_portSecured h ha).trans (congrArg Host.Outcome.next (if_pos ((firstJoins_iff p).2 hj)))
  · exact (exec_portSecured h ha).trans (congrArg Host.Outcome.next (if_neg (mt (firstJoins_iff p).1 hj)))
  · rw [portRec_portFail]
    exact ⟨rfl, rfl⟩
  · exact exec_portRetrain.trans (congrArg Host.Outcome.next (if_pos h))
  · exact exec_portRetrain.trans (congrArg Host.Outcome.next (if_neg h))
  · rw [exec_bypassChange_neighbour h, hl]
    rfl
  · rw [exec_bypassChange_neighbour h, hl]
    rfl

end Sys2Proof.Machine
end


section
/-! PROOFS. The SPDM responder (R348, R442, R444). -/
namespace Sys2Proof.Machine
open Sys2Proof

section
variable {s : State} {p : SpdmPeer}

/-! ### Who is answered (R442) -/

theorem spdmServe_unheard (h : spdmHears s p = false) (f : SpdmRec → State) : spdmServe p s f = s := if_pos (by simp [h])

theorem spdmServe_early (h : spdmHears s p = true) (ha : (connOf s p).algs = false) (f : SpdmRec → State) :
    spdmServe p s f = spdmError p 0x04 s := (if_neg (by simp [h])).trans (if_neg (ne_true_of_eq_false ha))

theorem spdmServe_served (h : spdmHears s p = true) (ha : (connOf s p).algs = true) (f : SpdmRec → State) :
    spdmServe p s f = f (connOf s p) := (if_neg (by simp [h])).trans (if_pos ha)

theorem spdmSlot_zero (h : spdmHears s p = true) (ha : (connOf s p).algs = true) (f : SpdmRec → State) :
    spdmSlot p 0 s f = f (connOf s p) := (spdmServe_served h ha _).trans (if_pos rfl)

theorem spdmSlot_other (h : spdmHears s p = true) (ha : (connOf s p).algs = true) {k : Fin 8} (hk : k ≠ 0) (f : SpdmRec → State) :
    spdmSlot p k s f = spdmError p 0x01 s := (spdmServe_served h ha _).trans (if_neg hk)

theorem openSession_iff {r : SpdmRec} {id : BitVec 32} : (r.open_.any fun e => e.1 == id) = true ↔ ∃ n, (id, n) ∈ r.open_ := by
  simp

theorem spdmSession_open (h : spdmHears s p = true) (ha : (connOf s p).algs = true) {id : BitVec 32}
    (ho : ∃ n, (id, n) ∈ (connOf s p).open_) (f : SpdmRec → State) : spdmSession p id s f = f (connOf s p) :=
  (spdmServe_served h ha _).trans (if_pos (openSession_iff.2 ho))

theorem spdmSession_closed (h : spdmHears s p = true) (ha : (connOf s p).algs = true) {id : BitVec 32}
    (ho : ∀ n, (id, n) ∉ (connOf s p).open_) (f : SpdmRec → State) : spdmSession p id s f = spdmError p 0x02 s :=
  (spdmServe_served h ha _).trans (if_neg (mt openSession_iff.1 (not_exists.2 ho)))

/-! ### The connection (R442) -/

theorem exec_spdmGetVersion (h : spdmHears s p = true) :
    exec (.spdmGetVersion p) s = .next (spdmOut p 0x04 [0x13] (setConn p { version := true } s)) :=
  congrArg Host.Outcome.next (if_pos h)

theorem exec_spdmGetCapabilities (h : spdmHears s p = true) : exec (.spdmGetCapabilities p) s = .next (
    if !(connOf s p).version then spdmError p 0x04 s else spdmOut p 0x61 [] (setConn p { connOf s p with caps := true } s)) :=
  congrArg Host.Outcome.next (if_neg (by simp [h]))

theorem exec_spdmNegotiateAlgorithms (h : spdmHears s p = true) (o : Bool) : exec (.spdmNegotiateAlgorithms p o) s = .next (
    if !(connOf s p).caps then spdmError p 0x04 s else if !o then spdmError p 0x01 s
    else spdmOut p 0x63 [] (setConn p { connOf s p with algs := true } s)) :=
  congrArg Host.Outcome.next (if_neg (by simp [h]))

/-- A peer that Atbin does not hear gets no answer to any of the three. -/
theorem exec_spdm_unheard (h : spdmHears s p = false) (o : Bool) : exec (.spdmGetVersion p) s = .next s ∧
    exec (.spdmGetCapabilities p) s = .next s ∧ exec (.spdmNegotiateAlgorithms p o) s = .next s :=
  ⟨congrArg Host.Outcome.next (if_neg (ne_true_of_eq_false h)), congrArg Host.Outcome.next (if_pos (by simp [h])),
    congrArg Host.Outcome.next (if_pos (by simp [h]))⟩

/-! ### Requests that need algorithms: each is its own part of one of the three shapes -/

theorem exec_spdmGetDigests (k : Fin 8) : exec (.spdmGetDigests p k) s =
    .next (spdmSlot p k s fun _ => spdmOut p 0x01 (leBytes 48 (Config.sha384 (certChain s)).toNat) s) := rfl

theorem exec_spdmGetCertificate (k : Fin 8) (off len : Nat) : exec (.spdmGetCertificate p k off len) s = .next (spdmSlot p k s fun _ =>
    if 65536 < off + len then spdmError p 0x01 s else spdmOut p 0x02 (((certChain s).drop off).take len) s) := rfl

theorem exec_spdmChallenge (k : Fin 8) (n : BitVec 256) : exec (.spdmChallenge p k n) s = .next (spdmSlot p k s fun _ =>
    spdmOut p 0x03 (signed s (leBytes 48 (Config.sha384 (certChain s)).toNat ++ leBytes 32 n.toNat)) s) := rfl

/-- What a request for a measurement gets. -/
def measured (p : SpdmPeer) (i : Byte) (s : State) : State :=
  if i = 0 then spdmOut p 0x60 [4] s
  else if i = 0xFF then spdmOut p 0x60 (measurements s) s
  else (measurement s i.toNat).elim (spdmError p 0x01 s) fun d => spdmOut p 0x60 d s

theorem exec_spdmGetMeasurements (i : Byte) : exec (.spdmGetMeasurements p i) s = .next (spdmServe p s fun _ => measured p i s) := by
  change execSpdmGetMeasurements p i s = _
  unfold execSpdmGetMeasurements measured
  cases measurement s i.toNat <;> rfl

theorem measured_block {i : Byte} (h0 : i ≠ 0) (hall : i ≠ 0xFF) :
    measured p i s = (measurement s i.toNat).elim (spdmError p 0x01 s) fun d => spdmOut p 0x60 d s :=
  (if_neg h0).trans (if_neg hall)

theorem measurement_none_iff (s : State) (i : Nat) : measurement s i = none ↔ i = 0 ∨ 4 < i := by
  rcases i with _ | _ | _ | _ | _ | i <;> simp [measurement]

/-- A handshake begins (R442). -/
def shaken (p : SpdmPeer) (id : BitVec 32) (share : BitVec 768) (s : State) (r : SpdmRec) : State :=
  let own := (Config.publicKey ((Config.freeWide s.freeCount).setWidth 384)).toNat
  let d := leBytes 4 id.toNat ++ beBytes 96 own
  spdmOut p 0x64 (d ++ beBytes 96 (Config.sign (aliasKey s) (beBytes 96 share.toNat ++ d)).toNat)
    (setConn p { r with hand := r.hand ++ [id] } { s with freeCount := s.freeCount + 1 })

theorem exec_spdmKeyExchange (k : Fin 8) (id : BitVec 32) (share : BitVec 768) : exec (.spdmKeyExchange p k id share) s =
    .next (spdmSlot p k s fun r =>
      if sessionLimit p ≤ r.hand.length + r.open_.length then spdmError p 0x0A s
      else if r.hand.contains id || r.open_.any (fun e => e.1 == id) then spdmError p 0x01 s
      else shaken p id share s r) := rfl

/-- The session is shaking hands, or open. -/
abbrev SessionUsed (r : SpdmRec) (id : BitVec 32) : Prop := id ∈ r.hand ∨ ∃ n, (id, n) ∈ r.open_

theorem sessionUsed_iff {r : SpdmRec} {id : BitVec 32} :
    (r.hand.contains id || r.open_.any (fun e => e.1 == id)) = true ↔ SessionUsed r id := by
  rw [Bool.or_eq_true, openSession_iff, List.contains_iff_mem]

theorem exec_spdmFinish (id : BitVec 32) (ok : Bool) : exec (.spdmFinish p id ok) s = .next (spdmServe p s fun r =>
    if !r.hand.contains id then spdmError p 0x02 s
    else if ok then spdmOut p 0x65 [] (setConn p { r with hand := r.hand.filter fun e => e != id, open_ := r.open_ ++ [(id, 0)] } s)
    else spdmError p 0x06 (setConn p { r with hand := r.hand.filter fun e => e != id } s)) := rfl

theorem exec_spdmHeartbeat (id : BitVec 32) :
    exec (.spdmHeartbeat p id) s = .next (spdmSession p id s fun _ => spdmOut p 0x68 [] s) := rfl

theorem exec_spdmKeyUpdate (id : BitVec 32) : exec (.spdmKeyUpdate p id) s =
    .next (spdmSession p id s fun r => spdmOut p 0x69 [] (setConn p (updateKeys (fun e => e == id) r) s)) := rfl

theorem exec_spdmEndSession (id : BitVec 32) : exec (.spdmEndSession p id) s =
    .next (spdmSession p id s fun r => spdmOut p 0x6C [] (setConn p { r with open_ := r.open_.filter fun e => e.1 != id } s)) := rfl

theorem exec_ideKeyManagement (port : Fin 2) (id : BitVec 32) (m : Bool) (stream : Fin 5) (key : BitVec 256) :
    exec (.ideKeyManagement port id m stream key) s = .next (spdmSession (.doe port) id s fun _ =>
      spdmOut (.doe port) 0x7E [BitVec.ofNat 8 stream.val]
        (updCxl port (fun c => if m then { c with ideMem := key } else { c with ide := c.ide.set 0 stream.val key }) s)) := rfl

theorem updateKeys_session (id : BitVec 32) (r : SpdmRec) :
    updateKeys (fun e => e == id) r = { r with open_ := r.open_.map fun e => if e.1 = id then (e.1, e.2 + 1) else e } := by
  simp only [updateKeys, beq_iff_eq]
/-- The request is one that only a peer with algorithms may make. -/
def NeedsAlgorithms (s : State) (p : SpdmPeer) (c : Instr) : Prop := ∃ f, exec c s = .next (spdmServe p s f)

theorem NeedsAlgorithms.unheard {c : Instr} (hc : NeedsAlgorithms s p c) (h : spdmHears s p = false) : exec c s = .next s := by
  obtain ⟨f, hf⟩ := hc
  rw [hf, spdmServe_unheard h]

theorem NeedsAlgorithms.early {c : Instr} (hc : NeedsAlgorithms s p c) (h : spdmHears s p = true) (ha : (connOf s p).algs = false) :
    exec c s = .next (spdmError p 0x04 s) := by
  obtain ⟨f, hf⟩ := hc
  rw [hf, spdmServe_early h ha]

theorem needsAlgorithms_attestation {k : Fin 8} {off len : Nat} {n : BitVec 256} {i : Byte} {c : Instr}
    (hc : c = .spdmGetDigests p k ∨ c = .spdmGetCertificate p k off len ∨ c = .spdmChallenge p k n ∨ c = .spdmGetMeasurements p i) :
    NeedsAlgorithms s p c := by
  rcases hc with rfl | rfl | rfl | rfl
  · exact ⟨_, exec_spdmGetDigests k⟩
  · exact ⟨_, exec_spdmGetCertificate k off len⟩
  · exact ⟨_, exec_spdmChallenge k n⟩
  · exact ⟨_, exec_spdmGetMeasurements i⟩

theorem needsAlgorithms_session {k : Fin 8} {id : BitVec 32} {share : BitVec 768} {ok : Bool} {c : Instr}
    (hc : c = .spdmKeyExchange p k id share ∨ c = .spdmFinish p id ok ∨ c = .spdmHeartbeat p id ∨ c = .spdmKeyUpdate p id ∨
      c = .spdmEndSession p id) : NeedsAlgorithms s p c := by
  rcases hc with rfl | rfl | rfl | rfl | rfl
  · exact ⟨_, exec_spdmKeyExchange k id share⟩
  · exact ⟨_, exec_spdmFinish id ok⟩
  · exact ⟨_, exec_spdmHeartbeat id⟩
  · exact ⟨_, exec_spdmKeyUpdate id⟩
  · exact ⟨_, exec_spdmEndSession id⟩

end

/-- Settles O52: each request by who is heard and what was agreed, then by its slot, its session or its measurement. -/
theorem spdmConversation : Obligations.SpdmConversation := by
  unfold Obligations.SpdmConversation
  refine ⟨⟨fun s p o k off len n i h c hc => ?_,
      fun s p h => ⟨exec_spdmGetVersion h, fun hv => ?_, fun hv => ?_, fun hc o => ?_, fun hc => ⟨?_, ?_⟩⟩,
      fun s p k off len n i h ha c hc => (needsAlgorithms_attestation hc).early h ha, fun s p k off len n h ha hk c hc => ?_,
      fun s p h ha => ⟨?_, fun off len hl => ?_, fun off len hl => ?_, fun n => ?_, ?_, ?_, fun i d h0 hall hm => ?_, fun i h0 hall hm => ?_⟩,
      measurement_none_iff⟩,
    fun s p k id share ok port m st key c q hc => ?_,
    fun s p id share h ha => ⟨fun k hk => ?_, fun hl => ?_, fun hl hu => ?_, fun hl hu => ?_, fun hh ok => ?_, fun hh => ⟨?_, ?_⟩⟩,
    fun p => rfl, fun p => rfl, fun s p id h ha => ⟨fun ho => ⟨?_, ?_, ?_⟩, fun ho c hc => ?_⟩,
    fun s port id stream key h ha => ⟨fun ho m => ?_, fun ho => ⟨?_, ?_⟩⟩⟩
  · obtain ⟨hversion, hcaps, halgs⟩ := exec_spdm_unheard h o
    rcases hc with rfl | rfl | rfl | hc
    · exact hversion
    · exact hcaps
    · exact halgs
    · exact (needsAlgorithms_attestation hc).unheard h
  · rw [exec_spdmGetCapabilities h, hv]
    rfl
  · rw [exec_spdmGetCapabilities h, hv]
    rfl
  · rw [exec_spdmNegotiateAlgorithms h, hc]
    rfl
  · rw [exec_spdmNegotiateAlgorithms h, hc]
    rfl
  · rw [exec_spdmNegotiateAlgorithms h, hc]
    rfl
  · rcases hc with rfl | rfl | rfl
    · rw [exec_spdmGetDigests, spdmSlot_other h ha hk]
    · rw [exec_spdmGetCertificate, spdmSlot_other h ha hk]
    · rw [exec_spdmChallenge, spdmSlot_other h ha hk]
  · rw [exec_spdmGetDigests, spdmSlot_zero h ha]
  · rw [exec_spdmGetCertificate, spdmSlot_zero h ha, if_neg (Nat.not_lt.2 hl)]
  · rw [exec_spdmGetCertificate, spdmSlot_zero h ha, if_pos hl]
  · rw [exec_spdmChallenge, spdmSlot_zero h ha]
  · rw [exec_spdmGetMeasurements, spdmServe_served h ha]
    rfl
  · rw [exec_spdmGetMeasurements, spdmServe_served h ha]
    rfl
  · rw [exec_spdmGetMeasurements, spdmServe_served h ha, measured_block h0 hall, hm]
    rfl
  · rw [exec_spdmGetMeasurements, spdmServe_served h ha, measured_block h0 hall, hm]
    rfl
  · have hneeds : NeedsAlgorithms s q c := by
      rcases hc with ⟨rfl, hc⟩ | ⟨rfl, rfl⟩
      · exact needsAlgorithms_session hc
      · exact ⟨_, exec_ideKeyManagement port id m st key⟩
    exact ⟨hneeds.unheard, hneeds.early⟩
  · rw [exec_spdmKeyExchange, spdmSlot_other h ha hk]
  · rw [exec_spdmKeyExchange, spdmSlot_zero h ha, if_pos hl]
  · rw [exec_spdmKeyExchange, spdmSlot_zero h ha, if_neg (Nat.not_le.2 hl), if_pos (sessionUsed_iff.2 hu)]
  · rw [exec_spdmKeyExchange, spdmSlot_zero h ha, if_neg (Nat.not_le.2 hl), if_neg (mt sessionUsed_iff.1 hu)]
    rfl
  · rw [exec_spdmFinish, spdmServe_served h ha, if_pos (by simpa using hh)]
  · rw [exec_spdmFinish, spdmServe_served h ha, if_neg (by simpa using hh), if_pos rfl]
  · rw [exec_spdmFinish, spdmServe_served h ha, if_neg (by simpa using hh), if_neg Bool.false_ne_true]
  · rw [exec_spdmHeartbeat, spdmSession_open h ha ho]
  · rw [exec_spdmKeyUpdate, spdmSession_open h ha ho, updateKeys_session]
  · rw [exec_spdmEndSession, spdmSession_open h ha ho]
  · rcases hc with rfl | rfl | rfl
    · rw [exec_spdmHeartbeat, spdmSession_closed h ha ho]
    · rw [exec_spdmKeyUpdate, spdmSession_closed h ha ho]
    · rw [exec_spdmEndSession, spdmSession_closed h ha ho]
  · rw [exec_ideKeyManagement, spdmSession_closed h ha ho]
  · rw [exec_ideKeyManagement, spdmSession_open h ha ho]
    rfl
  · rw [exec_ideKeyManagement, spdmSession_open h ha ho]
    rfl

end Sys2Proof.Machine
end


section
/-! PROOFS. The management side and test access (R421, R455, R465, R472, R477, R478). -/
namespace Sys2Proof.Machine
open Sys2Proof

section
variable {s : State}

theorem exec_i3cRequest (i : Fin 8) :
    exec (.i3cRequest i) s = .next (if s.pwr.standby then { s with out := s.out ++ [.i3c (reading s i)] } else s) := rfl

theorem exec_managementRequest_off (h : s.pwr.standby = false) (r : MgmtReq) : exec (.managementRequest r) s = .next s :=
  congrArg Host.Outcome.next (if_pos (by simp [h]))

section
variable (h : s.pwr.standby = true)
include h

/-- The port is live. -/
theorem standby_on : ¬ (!s.pwr.standby) = true := by simp [h]

theorem exec_managementRequest_monitor (i : Fin 8) :
    exec (.managementRequest (.monitor i)) s = .next (mgmtOut 0x00 (reading s i) s) :=
  congrArg Host.Outcome.next (if_neg (standby_on h))

theorem exec_managementRequest_power (v : Word) : exec (.managementRequest (.powerConfig v)) s =
    .next (mgmtOut (setPowerConfig v.toNat s).1 [] (setPowerConfig v.toNat s).2) :=
  congrArg Host.Outcome.next (if_neg (standby_on h))

theorem exec_managementRequest_log {i : Nat} {d : List Byte} (hd : s.boot.log[i]? = some d) :
    exec (.managementRequest (.readLog i)) s = .next (mgmtOut 0x00 d s) :=
  congrArg Host.Outcome.next ((if_neg (standby_on h)).trans (by simp only [hd]))

theorem exec_managementRequest_noLog {i : Nat} (hd : s.boot.log[i]? = none) :
    exec (.managementRequest (.readLog i)) s = .next (mgmtOut 0x03 [] s) :=
  congrArg Host.Outcome.next ((if_neg (standby_on h)).trans (by simp only [hd]))

theorem exec_managementRequest_cold : exec (.managementRequest .coldBringup) s = .next (
    if s.pwr.epo || (s.pwr.shut == .leak && s.pwr.wet) then mgmtOut 0x04 [] s else mgmtOut 0x00 [] (startCold s)) :=
  congrArg Host.Outcome.next (if_neg (standby_on h))

theorem exec_managementRequest_remove (m : BitVec 8) : exec (.managementRequest (.removeModule m)) s = .next (
    if s.fab.role != .manager then mgmtOut 0x04 [] s
    else if some m = s.fab.num || !(s.fab.record.any fun e => e.2 == m) then mgmtOut 0x03 [] s
    else mgmtOut 0x00 [] { s with fab := { s.fab with
      record := s.fab.record.filter (fun e => e.2 != m), mask := s.fab.mask &&& ~~~((1 : BitVec 256) <<< m.toNat) } }) :=
  congrArg Host.Outcome.next (if_neg (standby_on h))

end

/-- A cold bring-up is held by an EPO_N, or by a leak that is still wet. -/
theorem coldHeld_iff : (s.pwr.epo || (s.pwr.shut == .leak && s.pwr.wet)) = true ↔
    s.pwr.epo = true ∨ (s.pwr.shut = .leak ∧ s.pwr.wet = true) := by
  rw [Bool.or_eq_true, Bool.and_eq_true, beq_iff_eq]

/-- Another module that the manager has recorded. -/
abbrev Removable (s : State) (m : BitVec 8) : Prop := some m ≠ s.fab.num ∧ ∃ n, (n, m) ∈ s.fab.record

theorem removable_iff {m : BitVec 8} :
    ¬ (decide (some m = s.fab.num) || !(s.fab.record.any fun e => e.2 == m)) = true ↔ Removable s m := by
  simp [Removable]

end

/-- Test access in each state of the life cycle (R455). -/
theorem testAllowed_iff (b : Boot) (i : TestInstr) : testAllowed b i = true ↔
    i = .bypass ∨ i = .idcode ∨ b.lc = .blank ∨ b.lc = .returned ∨ (b.lc = .provisioned ∧ (i = .samplePreload ∨ i = .extest)) ∨
    (b.lc = .debug ∧ bit b.scope.toNat (match i with | .atbinDebug => 1 | .clusterScan => 2 | .stackTest => 3 | _ => 0) = true) := by
  cases hlc : b.lc <;> cases i <;> simp [testAllowed, hlc]

/-- Settles O53: each request by the standby supply, then by what it asks for; a test instruction by the life-cycle state. -/
theorem managementAccess : Obligations.ManagementAccess := by
  unfold Obligations.ManagementAccess
  refine ⟨fun s h => ⟨fun i => ?_, exec_managementRequest_off h⟩, fun s i h => ⟨?_, exec_managementRequest_monitor h i⟩,
    fun s v h => exec_managementRequest_power h v,
    fun s i h => ⟨fun d => exec_managementRequest_log h, exec_managementRequest_noLog h⟩,
    fun s h => ⟨fun hh => ?_, fun hh => ?_⟩, fun s m h => ⟨fun hr => ?_, fun hr ht => ?_, fun hr ht => ?_⟩, fun s i => rfl, testAllowed_iff⟩
  · rw [exec_i3cRequest, if_neg (ne_true_of_eq_false h)]
  · rw [exec_i3cRequest, if_pos h]
  · rw [exec_managementRequest_cold h, if_pos (coldHeld_iff.2 hh)]
  · rw [exec_managementRequest_cold h, if_neg (mt coldHeld_iff.1 hh)]
  · rw [exec_managementRequest_remove h, if_pos (bne_iff_ne.2 hr)]
  · rw [exec_managementRequest_remove h, if_neg (by simp [hr]), if_pos (not_not.1 (mt removable_iff.1 ht))]
  · rw [exec_managementRequest_remove h, if_neg (by simp [hr]), if_neg (removable_iff.2 ht)]

end Sys2Proof.Machine
end
